-- ==== Sys2Proof/Word.lean ====
section
/-! DEFINITION. The word types of the machine (R31, R44): bytes, 32-bit instruction words, 64-bit scalars. -/

namespace Sys2Proof

/-- A byte. -/
abbrev Byte := BitVec 8

/-- An instruction word (R31). -/
abbrev Word32 := BitVec 32

/-- A scalar register's value (R44). -/
abbrev Word := BitVec 64

/-- A 5-bit register field (R33). -/
abbrev Reg := BitVec 5

end Sys2Proof
end

