-- ==== Sys2Proof/Config.lean ====
section
/-! DEFINITION. What an implementation fixes and the free values: the constants below have no body, so nothing can be
proved of their values. Log entry 8. -/

namespace Sys2Proof.Config

/-- The draws of the physical entropy source of `seed` (R89), one for each use. Free values. -/
opaque entropy : Nat → BitVec 64

/-- The SM3 digest of a byte string (R332, R340); the spec names the function and does not define it. -/
opaque sm3 : List Byte → BitVec 256

/-- What verifying and translating an Emfort image gives (R340): the native object's bytes, or none for a bad
signature, a version outside the five latest or a translation error. The spec gives neither format nor keys. -/
opaque orieder : List Byte → Option (List Byte)

/-- The codes of the events the spec names without giving their CAUSE: queue error, unconsumed error, no spare left,
port lost (R328, R214, R342, R343), by their position in that list. Free values. -/
opaque eventCause : Nat → BitVec 8

/-- DETAIL of the journal entries for which R332 gives none, by sequence number; and what a register marked WO reads
as. Free values. -/
opaque openDetail : Nat → BitVec 64

/-- How two numbers share the DETAIL of a journal entry where R332 names both and gives no layout: a logical unit and its
spare (kind 2), the stage and the die mask (kind 5). -/
opaque packDetail : Nat → Nat → BitVec 64

/-- What an FP32 value read through the tile window becomes in a paired-scale operand type: R225 names R98's conversions,
which give none for those types. A free value, by tag and raw FP32 bits. -/
opaque windowCode : Nat → Nat → Nat

/-- Whether the access of an address in a cycle uses the old of two translations between which R212 leaves the choice
open. Free values, so that each access chooses for itself. -/
opaque usesOld : Nat → Nat → Bool

end Sys2Proof.Config
end

