-- ==== Sys2Proof/Syntax.lean ====
section
/-! DEFINITION. The instruction set as data: one constructor for each row of the spec's table of operations
and events. A constructor of an instruction carries the fields of its encoding (R32 to R37) as bit vectors of the
width the encoding gives them; a constructor of a device step carries what names the agent or the object it acts on. -/

namespace Sys2Proof

/-- Page sizes of R1. -/
inductive PageSize where
  | k256 | m16 | g1
  deriving DecidableEq, Repr

/-- Where the attribute of a page sends an access (R165); `bar0` is a page the host has mapped onto the device's own
registers (R327), `peer` names the scale-up port (R343). -/
inductive PageAttr where
  | hbm | peer (port : BitVec 4) | host | bar0
  deriving DecidableEq, Repr

/-- One translation: a page of one address space (R1, R165, R212). The spec gives no format for it in memory. -/
structure Page where
  asid : BitVec 16
  vbase : BitVec 56
  size : PageSize
  pbase : BitVec 52
  readable : Bool
  writable : Bool
  executable : Bool
  attr : PageAttr
  pinned : Bool
  deriving DecidableEq, Repr

/-- The kinds of unit that have spares (R342). -/
inductive SpareKind where
  | laneGroup | core | l2Slice | pseudoChannel | dieLane
  deriving DecidableEq, Repr

/-- A byte of memory or of a scratchpad at which an uncorrectable error stands (R214). -/
inductive ErrorByte where
  | mem (pa : BitVec 52)
  | pad (a : BitVec 52)
  deriving DecidableEq, Repr

/-- What the host does to device memory and to the page tables it owns (R212, R327). -/
inductive HostOp where
  | read (pa : BitVec 52) (len : BitVec 16)
  | write (pa : BitVec 52) (data : List Byte)
  | setPage (page : Page) (oldStillCached : Bool)
  | dropPage (asid : BitVec 16) (vbase : BitVec 56) (oldStillCached : Bool)
  | readWindow (offset : BitVec 32) (len : BitVec 16)
  deriving DecidableEq, Repr

/-- What a peer asks of this device as completer: reads, writes, 32- or 64-bit atomics of R70, and those of R184 on the
element type of a tag, by operation add, min, max, swap (R343). -/
inductive PeerOp where
  | read (pa : BitVec 52) (len : BitVec 16)
  | write (pa : BitVec 52) (data : List Byte)
  | amo (op : BitVec 3) (wide : Bool) (pa : BitVec 52) (operand expected : BitVec 64)
  | vamo (op : BitVec 2) (tag : BitVec 5) (pa : BitVec 52) (operand : BitVec 64)
  deriving DecidableEq, Repr

/-- Every instruction and every device step of the spec's table, those with fields first. A device step that concerns
one hart acts on the hart in focus, and a host command acts on the command in hand, both named by the machine's state. -/
inductive Instr where
  | trap (c : BitVec 6)
  | fence (m : BitVec 10) (s : BitVec 3)
  | sbar (m : BitVec 10)
  | gets (d : BitVec 5) (n : BitVec 5)
  | puts (a : BitVec 5) (n : BitVec 5)
  | seed (d : BitVec 5)
  | undefinedOpcode (w : BitVec 32)
  | add (d : BitVec 5) (a : BitVec 5) (b : BitVec 5)
  | sub (d : BitVec 5) (a : BitVec 5) (b : BitVec 5)
  | mul (d : BitVec 5) (a : BitVec 5) (b : BitVec 5)
  | mulh (d : BitVec 5) (a : BitVec 5) (b : BitVec 5)
  | div (d : BitVec 5) (a : BitVec 5) (b : BitVec 5)
  | divn (d : BitVec 5) (a : BitVec 5) (b : BitVec 5)
  | rem (d : BitVec 5) (a : BitVec 5) (b : BitVec 5)
  | remn (d : BitVec 5) (a : BitVec 5) (b : BitVec 5)
  | and (d : BitVec 5) (a : BitVec 5) (b : BitVec 5)
  | or (d : BitVec 5) (a : BitVec 5) (b : BitVec 5)
  | xor (d : BitVec 5) (a : BitVec 5) (b : BitVec 5)
  | andn (d : BitVec 5) (a : BitVec 5) (b : BitVec 5)
  | sll (d : BitVec 5) (a : BitVec 5) (b : BitVec 5)
  | srl (d : BitVec 5) (a : BitVec 5) (b : BitVec 5)
  | sra (d : BitVec 5) (a : BitVec 5) (b : BitVec 5)
  | slt (d : BitVec 5) (a : BitVec 5) (b : BitVec 5)
  | sltn (d : BitVec 5) (a : BitVec 5) (b : BitVec 5)
  | min (d : BitVec 5) (a : BitVec 5) (b : BitVec 5)
  | max (d : BitVec 5) (a : BitVec 5) (b : BitVec 5)
  | minn (d : BitVec 5) (a : BitVec 5) (b : BitVec 5)
  | maxn (d : BitVec 5) (a : BitVec 5) (b : BitVec 5)
  | clz (d : BitVec 5) (a : BitVec 5)
  | ctz (d : BitVec 5) (a : BitVec 5)
  | popc (d : BitVec 5) (a : BitVec 5)
  | addi (d : BitVec 5) (a : BitVec 5) (i : BitVec 16)
  | andi (d : BitVec 5) (a : BitVec 5) (i : BitVec 16)
  | ori (d : BitVec 5) (a : BitVec 5) (i : BitVec 16)
  | xori (d : BitVec 5) (a : BitVec 5) (i : BitVec 16)
  | slli (d : BitVec 5) (a : BitVec 5) (h : BitVec 6)
  | srli (d : BitVec 5) (a : BitVec 5) (h : BitVec 6)
  | srai (d : BitVec 5) (a : BitVec 5) (h : BitVec 6)
  | lui (d : BitVec 5) (i : BitVec 16)
  | limm (d : BitVec 5) (p : BitVec 32)
  | limmh (d : BitVec 5) (p : BitVec 32)
  | ldb (d : BitVec 5) (a : BitVec 5) (o : BitVec 13)
  | ldh (d : BitVec 5) (a : BitVec 5) (o : BitVec 13)
  | ldw (d : BitVec 5) (a : BitVec 5) (o : BitVec 13)
  | ldd (d : BitVec 5) (a : BitVec 5) (o : BitVec 13)
  | ldbS (d : BitVec 5) (a : BitVec 5) (o : BitVec 13)
  | ldhS (d : BitVec 5) (a : BitVec 5) (o : BitVec 13)
  | ldwS (d : BitVec 5) (a : BitVec 5) (o : BitVec 13)
  | stb (d : BitVec 5) (a : BitVec 5) (o : BitVec 13)
  | sth (d : BitVec 5) (a : BitVec 5) (o : BitVec 13)
  | stw (d : BitVec 5) (a : BitVec 5) (o : BitVec 13)
  | std (d : BitVec 5) (a : BitVec 5) (o : BitVec 13)
  | amoAdd (d : BitVec 5) (a : BitVec 5) (b : BitVec 5) (s : BitVec 3) (z : BitVec 2)
  | amoSwap (d : BitVec 5) (a : BitVec 5) (b : BitVec 5) (s : BitVec 3) (z : BitVec 2)
  | amoCas (d : BitVec 5) (a : BitVec 5) (b : BitVec 5) (s : BitVec 3) (z : BitVec 2)
  | amoMin (d : BitVec 5) (a : BitVec 5) (b : BitVec 5) (s : BitVec 3) (z : BitVec 2)
  | amoMax (d : BitVec 5) (a : BitVec 5) (b : BitVec 5) (s : BitVec 3) (z : BitVec 2)
  | amoAnd (d : BitVec 5) (a : BitVec 5) (b : BitVec 5) (s : BitVec 3) (z : BitVec 2)
  | amoOr (d : BitVec 5) (a : BitVec 5) (b : BitVec 5) (s : BitVec 3) (z : BitVec 2)
  | amoXor (d : BitVec 5) (a : BitVec 5) (b : BitVec 5) (s : BitVec 3) (z : BitVec 2)
  | ldAcq (d : BitVec 5) (a : BitVec 5) (s : BitVec 3) (z : BitVec 2)
  | stRel (a : BitVec 5) (b : BitVec 5) (s : BitVec 3) (z : BitVec 2)
  | beq (a : BitVec 5) (b : BitVec 5) (o : BitVec 13)
  | bne (a : BitVec 5) (b : BitVec 5) (o : BitVec 13)
  | blt (a : BitVec 5) (b : BitVec 5) (o : BitVec 13)
  | bge (a : BitVec 5) (b : BitVec 5) (o : BitVec 13)
  | bltn (a : BitVec 5) (b : BitVec 5) (o : BitVec 13)
  | bgen (a : BitVec 5) (b : BitVec 5) (o : BitVec 13)
  | jal (o : BitVec 26)
  | jalr (d : BitVec 5) (a : BitVec 5) (i : BitVec 16)
  | slti (d : BitVec 5) (a : BitVec 5) (i : BitVec 16)
  | vsetlb (a : BitVec 5) (b : BitVec 5) (e : BitVec 3) (o : BitVec 13)
  | vcfg (d : BitVec 5) (t : BitVec 5) (f : BitVec 6) (g : BitVec 2)
  | vcfgw (d : BitVec 5) (w : BitVec 3) (s : BitVec 3)
  | vsetl (d : BitVec 5) (a : BitVec 5) (e : BitVec 3) (g : BitVec 2)
  | vtag (d : BitVec 5) (a : BitVec 5)
  | vadd (d : BitVec 5) (a : BitVec 5) (b : BitVec 5) (k : BitVec 3) (w : BitVec 1) (x : BitVec 1)
  | vsub (d : BitVec 5) (a : BitVec 5) (b : BitVec 5) (k : BitVec 3) (w : BitVec 1) (x : BitVec 1)
  | vmul (d : BitVec 5) (a : BitVec 5) (b : BitVec 5) (k : BitVec 3) (w : BitVec 1) (x : BitVec 1)
  | vfma (d : BitVec 5) (a : BitVec 5) (b : BitVec 5) (k : BitVec 3) (w : BitVec 1) (x : BitVec 1)
  | vmin (d : BitVec 5) (a : BitVec 5) (b : BitVec 5) (k : BitVec 3) (w : BitVec 1) (x : BitVec 1)
  | vmax (d : BitVec 5) (a : BitVec 5) (b : BitVec 5) (k : BitVec 3) (w : BitVec 1) (x : BitVec 1)
  | vabs (d : BitVec 5) (a : BitVec 5) (k : BitVec 3) (w : BitVec 1)
  | vneg (d : BitVec 5) (a : BitVec 5) (k : BitVec 3) (w : BitVec 1)
  | vand (d : BitVec 5) (a : BitVec 5) (b : BitVec 5) (k : BitVec 3) (w : BitVec 1) (x : BitVec 1)
  | vor (d : BitVec 5) (a : BitVec 5) (b : BitVec 5) (k : BitVec 3) (w : BitVec 1) (x : BitVec 1)
  | vxor (d : BitVec 5) (a : BitVec 5) (b : BitVec 5) (k : BitVec 3) (w : BitVec 1) (x : BitVec 1)
  | vshl (d : BitVec 5) (a : BitVec 5) (b : BitVec 5) (k : BitVec 3) (w : BitVec 1) (x : BitVec 1)
  | vshr (d : BitVec 5) (a : BitVec 5) (b : BitVec 5) (k : BitVec 3) (w : BitVec 1) (x : BitVec 1)
  | vadc (d : BitVec 5) (a : BitVec 5) (b : BitVec 5) (k : BitVec 3) (w : BitVec 1) (x : BitVec 1)
  | vsbc (d : BitVec 5) (a : BitVec 5) (b : BitVec 5) (k : BitVec 3) (w : BitVec 1) (x : BitVec 1)
  | vmov (d : BitVec 5) (a : BitVec 5) (k : BitVec 3) (w : BitVec 1)
  | vsel (d : BitVec 5) (a : BitVec 5) (b : BitVec 5) (k : BitVec 3) (w : BitVec 1) (x : BitVec 1)
  | vadds (d : BitVec 5) (a : BitVec 5) (b : BitVec 5) (k : BitVec 3) (w : BitVec 1)
  | vsubs (d : BitVec 5) (a : BitVec 5) (b : BitVec 5) (k : BitVec 3) (w : BitVec 1)
  | vmuls (d : BitVec 5) (a : BitVec 5) (b : BitVec 5) (k : BitVec 3) (w : BitVec 1)
  | vfmas (d : BitVec 5) (a : BitVec 5) (b : BitVec 5) (k : BitVec 3) (w : BitVec 1)
  | vmins (d : BitVec 5) (a : BitVec 5) (b : BitVec 5) (k : BitVec 3) (w : BitVec 1)
  | vmaxs (d : BitVec 5) (a : BitVec 5) (b : BitVec 5) (k : BitVec 3) (w : BitVec 1)
  | vands (d : BitVec 5) (a : BitVec 5) (b : BitVec 5) (k : BitVec 3) (w : BitVec 1)
  | vors (d : BitVec 5) (a : BitVec 5) (b : BitVec 5) (k : BitVec 3) (w : BitVec 1)
  | vxors (d : BitVec 5) (a : BitVec 5) (b : BitVec 5) (k : BitVec 3) (w : BitVec 1)
  | vshls (d : BitVec 5) (a : BitVec 5) (b : BitVec 5) (k : BitVec 3) (w : BitVec 1)
  | vshrs (d : BitVec 5) (a : BitVec 5) (b : BitVec 5) (k : BitVec 3) (w : BitVec 1)
  | vsels (d : BitVec 5) (a : BitVec 5) (b : BitVec 5) (k : BitVec 3) (w : BitVec 1)
  | vceq (d : BitVec 3) (a : BitVec 5) (b : BitVec 5) (k : BitVec 3) (w : BitVec 1) (x : BitVec 1)
  | vcne (d : BitVec 3) (a : BitVec 5) (b : BitVec 5) (k : BitVec 3) (w : BitVec 1) (x : BitVec 1)
  | vclt (d : BitVec 3) (a : BitVec 5) (b : BitVec 5) (k : BitVec 3) (w : BitVec 1) (x : BitVec 1)
  | vcge (d : BitVec 3) (a : BitVec 5) (b : BitVec 5) (k : BitVec 3) (w : BitVec 1) (x : BitVec 1)
  | vceqs (d : BitVec 3) (a : BitVec 5) (b : BitVec 5) (k : BitVec 3) (w : BitVec 1) (x : BitVec 1)
  | vcnes (d : BitVec 3) (a : BitVec 5) (b : BitVec 5) (k : BitVec 3) (w : BitVec 1) (x : BitVec 1)
  | vclts (d : BitVec 3) (a : BitVec 5) (b : BitVec 5) (k : BitVec 3) (w : BitVec 1) (x : BitVec 1)
  | vcges (d : BitVec 3) (a : BitVec 5) (b : BitVec 5) (k : BitVec 3) (w : BitVec 1) (x : BitVec 1)
  | mand (d : BitVec 3) (a : BitVec 3) (b : BitVec 3)
  | mor (d : BitVec 3) (a : BitVec 3) (b : BitVec 3)
  | mxor (d : BitVec 3) (a : BitVec 3) (b : BitVec 3)
  | mnot (d : BitVec 3) (a : BitVec 3)
  | mpop (d : BitVec 5) (a : BitVec 3)
  | mfirst (d : BitVec 5) (a : BitVec 3)
  | mshup (d : BitVec 3) (a : BitVec 3)
  | mset (d : BitVec 3)
  | mclr (d : BitVec 3)
  | vslideup (d : BitVec 5) (a : BitVec 5) (b : BitVec 5) (k : BitVec 3) (w : BitVec 1)
  | vslidedn (d : BitVec 5) (a : BitVec 5) (b : BitVec 5) (k : BitVec 3) (w : BitVec 1)
  | vgath (d : BitVec 5) (a : BitVec 5) (b : BitVec 5) (k : BitVec 3) (w : BitVec 1) (x : BitVec 1)
  | vcomp (d : BitVec 5) (a : BitVec 5) (b : BitVec 5) (k : BitVec 3) (w : BitVec 1)
  | vexpd (d : BitVec 5) (a : BitVec 5) (k : BitVec 3) (w : BitVec 1)
  | vbcast (d : BitVec 5) (b : BitVec 5) (k : BitVec 3)
  | vidx (d : BitVec 5) (k : BitVec 3)
  | vrsum (d : BitVec 5) (a : BitVec 5) (k : BitVec 3) (w : BitVec 1)
  | vrmax (d : BitVec 5) (a : BitVec 5) (k : BitVec 3) (w : BitVec 1)
  | vrmin (d : BitVec 5) (a : BitVec 5) (k : BitVec 3) (w : BitVec 1)
  | vsmaxe (d : BitVec 5) (a : BitVec 5) (k : BitVec 3) (w : BitVec 1)
  | vcvt (d : BitVec 5) (a : BitVec 5) (k : BitVec 3) (w : BitVec 1)
  | vquant (d : BitVec 5) (a : BitVec 5) (b : BitVec 5) (k : BitVec 3) (w : BitVec 1)
  | vdeq (d : BitVec 5) (a : BitVec 5) (b : BitVec 5) (k : BitVec 3) (w : BitVec 1)
  | vpack (d : BitVec 5) (a : BitVec 5) (k : BitVec 3) (w : BitVec 1)
  | vunpk (d : BitVec 5) (a : BitVec 5) (k : BitVec 3) (w : BitVec 1)
  | rotc (p : BitVec 4) (z : BitVec 5) (n : BitVec 6) (k : BitVec 3) (w : BitVec 1) (x : BitVec 1)
  | rotcG (p : BitVec 4) (z : BitVec 5) (n : BitVec 6) (k : BitVec 3) (w : BitVec 1) (x : BitVec 1)
  | rotl (p : BitVec 4) (z : BitVec 5) (n : BitVec 6) (k : BitVec 3) (w : BitVec 1) (x : BitVec 1)
  | rotlG (p : BitVec 4) (z : BitVec 5) (n : BitVec 6) (k : BitVec 3) (w : BitVec 1) (x : BitVec 1)
  | roth (p : BitVec 4) (z : BitVec 5) (n : BitVec 6) (k : BitVec 3) (w : BitVec 1) (x : BitVec 1)
  | rothG (p : BitVec 4) (z : BitVec 5) (n : BitVec 6) (k : BitVec 3) (w : BitVec 1) (x : BitVec 1)
  | vtac (p : BitVec 4) (z : BitVec 5) (n : BitVec 6) (k : BitVec 3) (w : BitVec 1) (x : BitVec 1)
  | vtacG (p : BitVec 4) (z : BitVec 5) (n : BitVec 6) (k : BitVec 3) (w : BitVec 1) (x : BitVec 1)
  | vtal (p : BitVec 4) (z : BitVec 5) (n : BitVec 6) (k : BitVec 3) (w : BitVec 1) (x : BitVec 1)
  | vtalG (p : BitVec 4) (z : BitVec 5) (n : BitVec 6) (k : BitVec 3) (w : BitVec 1) (x : BitVec 1)
  | vtah (p : BitVec 4) (z : BitVec 5) (n : BitVec 6) (k : BitVec 3) (w : BitVec 1) (x : BitVec 1)
  | vtahG (p : BitVec 4) (z : BitVec 5) (n : BitVec 6) (k : BitVec 3) (w : BitVec 1) (x : BitVec 1)
  | vld (d : BitVec 5) (a : BitVec 5) (k : BitVec 3) (r : BitVec 1)
  | vlds (d : BitVec 5) (a : BitVec 5) (b : BitVec 5) (k : BitVec 3) (r : BitVec 1)
  | vldx (d : BitVec 5) (a : BitVec 5) (b : BitVec 5) (k : BitVec 3) (x : BitVec 1) (r : BitVec 1)
  | vldb (d : BitVec 5) (a : BitVec 5) (b : BitVec 5) (k : BitVec 3) (r : BitVec 1)
  | vldff (d : BitVec 5) (a : BitVec 5) (b : BitVec 5) (k : BitVec 3) (r : BitVec 1)
  | vldseg (d : BitVec 5) (a : BitVec 5) (k : BitVec 3) (f : BitVec 3)
  | vst (d : BitVec 5) (a : BitVec 5) (k : BitVec 3) (w : BitVec 1)
  | vsts (d : BitVec 5) (a : BitVec 5) (b : BitVec 5) (k : BitVec 3) (w : BitVec 1)
  | vstx (d : BitVec 5) (a : BitVec 5) (b : BitVec 5) (k : BitVec 3) (w : BitVec 1) (x : BitVec 1)
  | vstb (d : BitVec 5) (a : BitVec 5) (b : BitVec 5) (k : BitVec 3) (w : BitVec 1)
  | vstseg (d : BitVec 5) (a : BitVec 5) (k : BitVec 3) (w : BitVec 1) (f : BitVec 3)
  | vamoAdd (d : BitVec 5) (a : BitVec 5) (b : BitVec 5) (k : BitVec 3) (x : BitVec 1) (s : BitVec 3)
  | vamoMin (d : BitVec 5) (a : BitVec 5) (b : BitVec 5) (k : BitVec 3) (x : BitVec 1) (s : BitVec 3)
  | vamoMax (d : BitVec 5) (a : BitVec 5) (b : BitVec 5) (k : BitVec 3) (x : BitVec 1) (s : BitVec 3)
  | vamoSwap (d : BitVec 5) (a : BitVec 5) (b : BitVec 5) (k : BitVec 3) (x : BitVec 1) (s : BitVec 3)
  | accw (d : BitVec 5) (a : BitVec 5) (b : BitVec 5)
  | vacc (d : BitVec 5) (a : BitVec 5) (b : BitVec 5) (k : BitVec 3) (w : BitVec 1) (x : BitVec 1)
  | accm (d : BitVec 5)
  | accx (d : BitVec 5)
  | vxlat (d : BitVec 5) (a : BitVec 5) (b : BitVec 5) (k : BitVec 3) (w : BitVec 1)
  | vxlatFf (d : BitVec 5) (a : BitVec 5) (b : BitVec 5) (k : BitVec 3) (w : BitVec 1)
  | bind (d : BitVec 5) (a : BitVec 5)
  | unbind (d : BitVec 5)
  | vfetch (a : BitVec 5) (b : BitVec 5) (k : BitVec 3)
  | lfetch (a : BitVec 5) (k : BitVec 3) (w : BitVec 1)
  | vjoin (d : BitVec 5)
  | tmask (d : BitVec 3) (a : BitVec 5) (b : BitVec 5) (k : BitVec 3)
  | tadv (d : BitVec 5) (a : BitVec 5) (b : BitVec 5)
  | smax (d : BitVec 5) (a : BitVec 5) (b : BitVec 5) (k : BitVec 3) (w : BitVec 1)
  | sexp (d : BitVec 5) (a : BitVec 5) (b : BitVec 5) (k : BitVec 3) (w : BitVec 1)
  | spick (d : BitVec 5) (a : BitVec 5) (b : BitVec 5) (k : BitVec 3) (w : BitVec 1)
  | srand (d : BitVec 5) (a : BitVec 5) (b : BitVec 5)
  | mop (t : BitVec 3) (a : BitVec 5) (b : BitVec 5) (r : BitVec 3) (c : BitVec 3)
  | mopS (t : BitVec 3) (a : BitVec 5) (b : BitVec 5) (r : BitVec 3) (c : BitVec 3)
  | mopx (t : BitVec 2) (a : BitVec 5) (b : BitVec 5) (r : BitVec 3) (c : BitVec 3)
  | tattach (q : BitVec 3)
  | ten (t : BitVec 3)
  | tdis (t : BitVec 3)
  | tzero (t : BitVec 3)
  | tmovv (t : BitVec 3) (d : BitVec 5) (b : BitVec 5) (k : BitVec 3)
  | tmovvC (t : BitVec 3) (d : BitVec 5) (b : BitVec 5) (k : BitVec 3)
  | tmovt (t : BitVec 3) (a : BitVec 5) (b : BitVec 5) (k : BitVec 3)
  | tmovtC (t : BitVec 3) (a : BitVec 5) (b : BitVec 5) (k : BitVec 3)
  | tld (t : BitVec 3) (a : BitVec 5) (b : BitVec 5) (r : BitVec 3) (c : BitVec 3)
  | tst (t : BitVec 3) (a : BitVec 5) (b : BitVec 5) (r : BitVec 3) (c : BitVec 3)
  | lpart (a : BitVec 5)
  | cmpt (d : BitVec 5) (a : BitVec 5) (b : BitVec 5) (k : BitVec 3)
  | scat (d : BitVec 5) (a : BitVec 5) (b : BitVec 5) (k : BitVec 3)
  | ecpy (a : BitVec 5)
  | eloop (a : BitVec 5)
  | efoot (a : BitVec 5)
  | kfork (d : BitVec 5) (a : BitVec 5) (b : BitVec 5)
  | kdrop (d : BitVec 5) (a : BitVec 5) (b : BitVec 5)
  | kspl (d : BitVec 5) (a : BitVec 5) (b : BitVec 5)
  | krep (d : BitVec 5) (a : BitVec 5) (b : BitVec 5)
  | kprovRd (d : BitVec 5) (a : BitVec 5)
  | kprovLive (d : BitVec 5) (a : BitVec 5) (b : BitVec 5)
  | kprovRet (d : BitVec 5) (a : BitVec 5)
  | kprovFree (d : BitVec 5) (a : BitVec 5)
  | kchk (d : BitVec 5) (a : BitVec 5) (b : BitVec 5)
  | kchkF (d : BitVec 5) (a : BitVec 5) (b : BitVec 5)
  | odeclR (a : BitVec 5)
  | odeclW (a : BitVec 5)
  | obeg (d : BitVec 5)
  | sspec (n : BitVec 5) (a : BitVec 5)
  | sdrain (n : BitVec 5)
  | wait (d : BitVec 5) (a : BitVec 5) (b : BitVec 5) (z : BitVec 2) (s : BitVec 3)
  | vfull (d : BitVec 5) (a : BitVec 5)
  | vempty (d : BitVec 5) (a : BitVec 5)
  | hartPlacement (core : BitVec 7)
  | compactionComplete (core : BitVec 7)
  | streamReadAhead (gen : BitVec 3) (count : BitVec 16)
  | hardPreemption (detail : BitVec 8)
  | copyJob (job : BitVec 64)
  | footprintComplete (job : BitVec 64)
  | codeTableSwap (core : BitVec 7)
  | eviction (asid : BitVec 16) (va : BitVec 56)
  | unconsumedError (byte : ErrorByte)
  | spareRemap (kind : SpareKind) (unit : BitVec 32) (spare : BitVec 16)
  | peerPortLost (port : BitVec 4)
  | eventRingPost (fdom : BitVec 16)
  | dieJoin (die : BitVec 2)
  | aqctl (value : BitVec 64)
  | tailq (queue : BitVec 8) (tail : BitVec 32)
  | registerWrite (offset : BitVec 16) (value : BitVec 64)
  | packetFetch (queue : BitVec 8)
  | whippletreeIssueCycle (core : BitVec 7) (group : BitVec 3)
  | illegalInstruction (w : BitVec 32)
  | accessPerforms (stream : BitVec 4)
  | peerPortRequest (port : BitVec 4) (op : PeerOp)
  | hostMemoryAccess (op : HostOp)
  | eret
  | ebreak
  | prog
  | yield
  | halt
  | cvy
  | endk
  | lstop
  | tdetach
  | ocom
  | hartWake
  | hartReclaim
  | producerLands
  | softRequestEscalation
  | energyTick
  | watchdogExpiry
  | handlerOverrun
  | gateArrival
  | beatEnd
  | batchAppend
  | orderFirstGrant
  | startStage
  | powerStateChange
  | qcreate
  | qdestroy
  | load
  | unload
  | launch
  | release
  | cancel
  | preempt
  | tlbinv
  | kvmap
  | asidcfg
  | fdring
  | setbeat
  | setltol
  | kvevict
  deriving DecidableEq, Repr

end Sys2Proof
end

