-- ==== Sys2Proof/Machine/State.lean ====
section
/-! DEFINITION. The state of a Ronoz N9 package as plain data: the hart in focus, the other harts, memory and the
device's own state (R1 to R344), the faults and refusals, and the state after reset. INVENTORY.md lists every field
with its rule and reset value. -/

namespace Sys2Proof.Machine

/-- Causes for which a hart waits (R13). -/
inductive WaitCause where
  | fullEmpty | address | stream | grant | frontier | emulation
  deriving DecidableEq, Repr

/-- The six states of a hart (R12). -/
inductive HState where
  | created | resident | waiting (c : WaitCause) | saved | ready | retired
  deriving DecidableEq, Repr

/-- A hart's name: its launch's leaf RCB address and its launch index (R5, R9), and the acceptance sequence number of
the LAUNCH command, so that two launches of one RCB stay apart. -/
structure HartId where
  rcb : BitVec 56
  hidx : BitVec 32
  seq : BitVec 64
  deriving DecidableEq, Repr

/-- What a hart has from its launch: the values snapshotted at acceptance and those re-read at residency (R5 to R7);
`ebuds` and `lgbuds` hold the effective EBUD and LGBUD at each RCB of its path, the leaf's first (R11). -/
structure LaunchInfo where
  asid : BitVec 16
  fdom : BitVec 16
  emuh : BitVec 56
  det : Bool
  pers : Bool
  rwid : Nat
  hcnt : BitVec 32
  code : BitVec 56
  segb : BitVec 32
  stkb : BitVec 56
  stks : BitVec 32
  wdog : BitVec 32
  cmask : BitVec 128
  prio : BitVec 4
  wght : BitVec 4
  lgbud : BitVec 16
  ebud : BitVec 48
  ebuds : List (BitVec 48)
  lgbuds : List (BitVec 16)
  tbud : BitVec 64
  acceptedNs : Nat
  deriving DecidableEq, Repr

/-- A vector register (R45): its configuration word and its data, of which 256 × W bits are in use. -/
structure VReg where
  cfg : BitVec 32
  data : BitVec 2048
  deriving DecidableEq, Repr

/-- A tile (R48, R215): element [i][j] stands at bit 32 × (64 i + j). -/
structure Tile where
  enabled : Bool
  data : BitVec 131072
  deriving DecidableEq, Repr

/-- An address generator (R174 to R180): the record as loaded, the elements consumed, the elements read ahead beyond
them, and whether its register is bound. -/
structure Gen where
  loaded : Bool
  bound : Bool
  record : BitVec 512
  pos : Nat
  ahead : Nat
  deriving DecidableEq, Repr

/-- An accumulation window (R186 to R190); the partial P[l][j] is entry l × CNT + j. -/
structure Window where
  opened : Bool
  base : BitVec 64
  desc : BitVec 64
  parts : List (BitVec 64)
  deriving DecidableEq, Repr

/-- Registers a long-latency producer has emptied, and the model's countdown to their landing by themselves (R49). -/
structure Pending where
  regs : List Nat
  due : Nat
  deriving DecidableEq, Repr

/-- A store issued and not yet performed: its stream, whether it goes to a scratchpad, its address and bytes (R193). -/
structure HeldWrite where
  stream : Nat
  pad : Bool
  addr : Nat
  data : List Byte
  deriving DecidableEq, Repr

/-- Where a load under way delivers: a scalar register, or a group of vector registers of `w`-bit elements. -/
inductive LoadDest where
  | scalar (reg : Reg) (signed : Bool)
  | vector (reg grp w : Nat)
  deriving DecidableEq, Repr

/-- A load issued and not yet performed: its stream, whether it goes to a scratchpad, its destination, the bytes of an
element, and each element's index and address (R193, R196). -/
structure LateLoad where
  stream : Nat
  dest : LoadDest
  size : Nat
  elems : List (Nat × Nat)
  deriving DecidableEq, Repr

/-- A vector word issued whose loads have not performed (R193, R196): the word, the registers it reads and writes, the
streams it loads in, the position of each read-bound register at which its elements begin, and the cycle and RIDX of its issue
(log entry 85). -/
structure LateWord where
  word : BitVec 32
  reads : List Nat
  writes : List Nat
  streams : List Nat
  starts : List (Nat × Nat)
  cycle : Nat
  ridx : BitVec 32
  deriving DecidableEq, Repr

/-- Why a soft request was raised: by a host command, for a ready hart (R14), for the energy budget of an RCB (R11), or
for a spare remap of a unit (R342). -/
inductive SoftWhy where
  | host
  | ready (id : HartId)
  | budget (rcb : Nat)
  | spare (kind : SpareKind) (unit : Nat)
  deriving DecidableEq, Repr

/-- A soft request: the device time in ns at which it was raised, and why (R265). -/
structure SoftReq where
  since : Nat
  why : SoftWhy
  deriving DecidableEq, Repr

/-- State of a lane of a vector-thread section (R259). -/
inductive LaneState where
  | running | stopped | faulted
  deriving DecidableEq, Repr

/-- One store a lane holds until `vjoin` (R209): virtual address, the location it named at issue, bytes, value. -/
structure LaneStore where
  va : BitVec 64
  pa : Nat
  size : Nat
  value : BitVec 64
  deriving DecidableEq, Repr

/-- A virtual lane (R232 to R240). `inbox` is its incoming cross-lane queue, oldest first; `rounds` counts its
roundings under RSR (R236); the last four fields record its fault. -/
structure Lane where
  idx : Nat
  pc : BitVec 64
  st : LaneState
  words : Nat
  inbox : List (BitVec 64)
  held : List LaneStore
  rounds : Nat
  cause : BitVec 8
  detail : BitVec 8
  fel : Bool
  faddr : BitVec 64
  deriving DecidableEq, Repr

/-- An open vector-thread section (R234): its lanes in ascending order, the tail of the cross-lane queue and the
values in force at the `vfetch`. -/
structure Section where
  lanes : List Lane
  tail : Option (BitVec 64)
  sregs : Vector (BitVec 64) 32
  vl : Nat
  rmode : BitVec 3
  rotn : BitVec 6
  seed : BitVec 64
  deriving DecidableEq, Repr

/-- An `eloop` replay (R245 to R247): the `eloop` word, body words, TAIL, counts, nest indices (EIX) and body index
(EBI). -/
structure Replay where
  word : BitVec 32
  body : List (BitVec 32)
  tailAt : Nat
  counts : List Nat
  index : List Nat
  bodyIndex : Nat
  deriving DecidableEq, Repr

/-- Transaction state of a hart (R312). -/
inductive TxState where
  | idle | declaring | submitted | opened
  deriving DecidableEq, Repr

/-- A hart's order-first state (R311, R312): the declaration buffer of granules and whether each is declared for
writing, the count of its earlier `obeg` (R325), the address of the last one (log entry 105), its place once merged, and the
result that it has yet to deliver. `ghost` names the transaction, by that count, that was withdrawn after it entered a gate and
has not been placed yet (R325). -/
structure Tx where
  st : TxState
  buf : List (Nat × Bool)
  begun : Nat
  site : BitVec 64
  placed : Option (Nat × Nat)
  result : Option (BitVec 64)
  ghost : Option Nat
  deriving DecidableEq, Repr

/-- A running emulation handler (R257): the emulated hart's scalars, the emulated word's address, the resume PC and
whether the scalar area in memory was written. `overrunAt` is when its watchdog interval began anew (R270). -/
structure Handler where
  sregs : Vector (BitVec 64) 32
  pc : BitVec 64
  rpc : BitVec 64
  areaWritten : Bool
  overrunAt : Option Nat
  deriving DecidableEq, Repr

/-- The record of a save (R254, R259, R260). `reserve` says the context stands in the firmware reserve slot;
`released` that the domain has released the hart (R12);
`inHandler` that the record is the handler frame (R257); `performed` is the completion map (R185); `count`
is what an instruction over table entries had counted (R275); `vec` says that a vector instruction is recorded (R262);
`cycle` is that of the save, `lost` that its area could not be read when the hart was to be restored (R256). -/
structure SaveRec where
  cause : BitVec 8
  detail : BitVec 8
  pc : BitVec 64
  rpc : BitVec 64
  word : BitVec 32
  payload : BitVec 32
  wcause : BitVec 3
  pend : Bool
  fel : Bool
  fidx : Nat
  faddr : BitVec 64
  ctr : List (BitVec 16)
  skip : List Nat
  performed : BitVec 8192
  count : Nat
  reserve : Bool
  released : Bool
  inHandler : Bool
  contextError : Bool
  vec : Bool
  cycle : Nat
  lost : Bool
  deriving DecidableEq, Repr

/-- What is left of a restart (R263): for each relative lane group the least index to re-execute (0xFFFF for none) and
the count of later instructions to skip; the completion map of a vector atomic. -/
structure Restart where
  ctr : List (BitVec 16)
  skip : List Nat
  performed : BitVec 8192
  fidx : Nat
  count : Nat
  deriving DecidableEq, Repr

/-- What a waiting hart watches: a word of memory (cause 2) or a block-table entry (cause 5), by its virtual address and
where that lies, or registers (cause 1); `hit` is set when the awaited write has happened (R13, R27). -/
structure Watch where
  va : BitVec 64
  addr : Nat
  len : Nat
  regs : List Nat
  gen : Nat
  need : Nat
  hit : Bool
  deriving DecidableEq, Repr

/-- Elements an instruction in execution has taken from a walking stream, in order: the block-table entry each came by,
whether its block was absent, and the flags its re-rotation sets; with the table's address (R303, R305). -/
structure Walked where
  base : Nat
  elems : List (BitVec 64 × Bool × Nat)
  deriving DecidableEq, Repr

/-- A strip held back (R26): the cycle at which it was, the registers it writes and reads (mask m as 32 + m, scale register
x as 48 + x), the streams of its accesses, and the register fields of its word. -/
structure Strip where
  since : Nat
  writes : List Nat
  reads : List Nat
  streams : List Nat
  fields : List Reg
  deriving DecidableEq, Repr

/-- A hart's context (R9, R44 to R51 and the rules named at each part). `soft` holds the soft requests raised on it
and not yet taken, oldest first (R265); `cancelling` says a CANCEL has named the hart and waits for its save (R330).
`heldStrips` holds the strips held back (R26); `late` the loads under way, `lateWord` a vector word whose loads are
(R196); `counted` the block-table entries of absent blocks that the instruction under restart has counted
already (R303); `badRegs` that an uncorrectable error stands in the storage of a register (R256). -/
structure Hart where
  id : HartId
  info : LaunchInfo
  st : HState
  core : Nat
  ctx : Nat
  w : Nat
  lgb : Nat
  rowBase : Nat
  since : Nat
  sregs : Vector (BitVec 64) 32
  pc : BitVec 64
  vregs : Vector VReg 32
  masks : Vector (BitVec 8192) 8
  cvgm : BitVec 8192
  scales : Vector (BitVec 8192) 8
  tiles : Vector Tile 8
  trows : Nat
  vl : Nat
  headEw : BitVec 3
  headGrp : BitVec 2
  flags : BitVec 64
  rmode : BitVec 3
  rotn : BitVec 6
  seed : BitVec 64
  dens : BitVec 7
  trapbase : BitVec 64
  repth : BitVec 64
  ridx : BitVec 32
  ecnt : BitVec 48
  gens : Vector Gen 8
  windows : Vector Window 4
  pend : List Pending
  heldStrips : List Strip
  wbuf : List HeldWrite
  late : List LateLoad
  lateWord : Option LateWord
  counted : List (BitVec 64)
  badRegs : Bool
  sect : Option Section
  replay : Option Replay
  tx : Tx
  handler : Option Handler
  save : Option SaveRec
  restart : Option Restart
  soft : List SoftReq
  cancelling : Bool
  hardReq : Option (BitVec 8)
  partDue : Bool
  wdogFrom : Nat
  watch : Watch
  ir : BitVec 32
  irPayload : BitVec 32
  /-- In a lane's turn, the lane's element index (R236); none in the hart's own turn. The model's own. -/
  lane : Option Nat
  /-- Elements at or above this index are not executed in this turn: a stream element faulted there (R178). The
  model's own, none between steps. -/
  limit : Option Nat
  /-- The elements taken from read streams for the instruction in execution, by register. The model's own, empty
  between steps. -/
  taken : List (Nat × List Nat)
  /-- What walks have supplied to the instruction in execution. The model's own, empty between steps. -/
  walked : List Walked
  deriving DecidableEq, Repr

/-- One bank pair of a core's code table (R252). -/
structure CodeTable where
  live : Vector (BitVec 32) 16
  shadow : Vector (BitVec 32) 16
  gen : BitVec 64
  swapPending : Bool
  deriving DecidableEq, Repr

/-- A lane group's arbiter (R22). `chosen` is the context whose head an arbiter's cycle has let issue, and has charged,
until that hart's turn runs it; the model's own. -/
structure Arbiter where
  turn : Nat
  credit : List Int
  chosen : Option Nat
  deriving DecidableEq, Repr

/-- A declaration at a gate: its hart, and the cycle, core and context of its arrival (R318). -/
structure GateEntry where
  who : HartId
  cycle : Nat
  core : Nat
  ctx : Nat
  deriving DecidableEq, Repr

/-- An entry of a granule's home queue (R319). -/
structure QueueEntry where
  who : HartId
  write : Bool
  granted : Bool
  deriving DecidableEq, Repr

/-- A merged order awaiting its append (R319). -/
structure Merged where
  beat : Nat
  order : List HartId
  deriving DecidableEq, Repr

/-- An engine job (R248 to R251): `payloadDone` once its copy is made, `failed` once it stopped at a fault. -/
structure Job where
  id : Nat
  core : Nat
  who : HartId
  asid : BitVec 16
  fdom : BitVec 16
  card : BitVec 4096
  payloadDone : Bool
  failed : Bool
  done : Bool
  deriving DecidableEq, Repr

/-- An entry of the seed log (R89). -/
structure SeedEntry where
  seedv : BitVec 64
  rcb : BitVec 64
  hidx : BitVec 32
  loc : BitVec 8
  ctx : BitVec 8
  time : BitVec 64
  deriving DecidableEq, Repr

/-- A host queue (R327). -/
structure Queue where
  id : Nat
  base : BitVec 64
  log2 : Nat
  tail : BitVec 32
  head : BitVec 32
  enabled : Bool
  err : Bool
  stopped : Bool
  ltol : BitVec 32
  deriving DecidableEq, Repr

/-- An accepted command that has not completed (R328 to R331); `leftOut` says that a CANCEL has left out a hart which an earlier
RELEASE had let go (R334). -/
structure Cmd where
  seq : BitVec 64
  queue : Nat
  pkt : Vector (BitVec 64) 8
  began : Bool
  leftOut : Bool
  deriving DecidableEq, Repr

/-- A journal entry (R332). -/
structure JEntry where
  seq : BitVec 64
  time : BitVec 64
  queue : BitVec 8
  opc : BitVec 8
  kind : BitVec 8
  outcome : BitVec 16
  detail : BitVec 64
  chain : BitVec 256
  deriving DecidableEq, Repr

/-- A loaded object and its references by queue (R340, R341). -/
structure Obj where
  handle : BitVec 64
  digest : BitVec 256
  entry : BitVec 64
  len : Nat
  refs : List Nat
  deriving DecidableEq, Repr

/-- An accepted launch (R8, R10): harts not yet retired, whether any was cancelled, and the completion word. -/
structure Launch where
  rcb : BitVec 56
  seq : BitVec 64
  queue : Nat
  handle : BitVec 64
  left : Nat
  cancelled : Bool
  info : LaunchInfo
  donea : BitVec 56
  donev : BitVec 64
  deriving DecidableEq, Repr

/-- Per-ASID tables (R336). -/
structure AsidCfg where
  asid : BitVec 16
  prov : BitVec 64
  ring : BitVec 64
  log2 : Nat
  deriving DecidableEq, Repr

/-- A fault domain's event ring (R334). -/
structure FdRing where
  fdom : BitVec 16
  base : BitVec 64
  log2 : Nat
  deriving DecidableEq, Repr

/-- An event to be written to a fault domain's ring (R334). -/
structure FdEvent where
  fdom : BitVec 16
  cause : BitVec 8
  detail : BitVec 8
  rcb : BitVec 64
  hidx : BitVec 32
  trapbase : BitVec 64
  time : BitVec 64
  frame : BitVec 34
  deriving DecidableEq, Repr

/-- A remap of a logical unit onto a spare of its group (R2, R342). -/
structure Remap where
  kind : SpareKind
  unit : Nat
  group : Nat
  spare : Nat
  deriving DecidableEq, Repr

/-- An element that a `.rep` load of a launch has read: the line's replica keeps it until the launch ends (R169, R211). -/
structure Replica where
  seq : BitVec 64
  pa : Nat
  size : Nat
  value : Nat
  deriving DecidableEq, Repr

/-- Where an uncorrectable error arises: a byte of memory, of a scratchpad, or the registers of the hart in focus (R214,
R256). -/
inductive Spoil where
  | mem (pa : BitVec 52)
  | pad (a : Nat)
  | regs
  deriving DecidableEq, Repr

/-- One turn of the device: bring a hart to the focus, take a command in hand, then make the device step named, or when
none is named the next instruction of the focused hart, of the lane named, or of the lane group named alone (R19). `spoil`
is where an uncorrectable error arises first; `hold` lets the next turn share this one's cycle. Log entry 1. -/
structure Turn where
  focus : Option HartId
  lane : Option Nat
  group : Option Nat
  cmd : Option (BitVec 64)
  spoil : Option Spoil
  act : Option Instr
  hold : Bool
  deriving DecidableEq, Repr

/-- The state of the machine. -/
structure State where
  hart : Hart
  parked : List Hart
  mem : List Host.Cell
  pads : List Host.Cell
  poison : List Nat
  padPoison : List Nat
  pages : List Page
  tlb : List Page
  kv : List (Nat × BitVec 64)
  kvOld : List (Nat × BitVec 64)
  replicas : List Replica
  codeTabs : List (Nat × CodeTable)
  lparts : List (Nat × BitVec 64)
  arbs : List (Nat × Arbiter)
  cycle : Nat
  lastTick : Nat
  beat : BitVec 13
  nextBeat : BitVec 13
  beatNo : Nat
  beatFrom : Nat
  gates : Vector (List GateEntry) 4
  merged : List Merged
  granules : List (Nat × List QueueEntry)
  jobs : List Job
  nextJob : Nat
  seedLog : List SeedEntry
  seedCount : BitVec 64
  stage : Nat
  joined : BitVec 4
  verified : Bool
  firmwareGood : Bool
  startDone : Bool
  aqbase : BitVec 64
  aqctl : BitVec 64
  pstate : BitVec 3
  queues : List Queue
  cmds : List Cmd
  inHand : Option (BitVec 64)
  journal : List JEntry
  jhead : BitVec 64
  launches : List Launch
  objs : List Obj
  asids : List AsidCfg
  rings : List FdRing
  events : List FdEvent
  ewt : BitVec 64
  remaps : List Remap
  portsLost : List (BitVec 4)
  exhausted : List (BitVec 56)
  holding : List Nat
  delaying : List Nat
  fromReplica : Bool
  loadLat : Nat
  holdBack : Bool
  draws : Nat
  agenda : List Turn
  deriving DecidableEq, Repr

/-- Stops of the machine. Every fault the spec describes is taken as an exception or a device event and gives a next
state; the one stop left is an access that names bytes the spec says do not exist. -/
inductive Fault where
  /-- The host or a peer names bytes that the package's 384 GiB of memory do not have (R1; log entry 71). Raised by
  HOST_MEMORY_ACCESS and PEER_PORT_REQUEST. Safe: the spec gives no such byte. -/
  | noSuchPhysicalByte (pa : Nat)
  deriving DecidableEq, Repr

/-- Refusals of the model. -/
inductive Refusal where
  /-- An instruction of the table that has no meaning here yet. Raised by a refused arm of Dispatch only. Safe. -/
  | notModelled (mnemonic : String)
  deriving DecidableEq, Repr

/-- The result of executing an instruction or making a device step. -/
abbrev Res := Host.Outcome State Fault Refusal

/-- The configuration word of an untagged, full register (R9, R45). -/
def VReg.fresh : VReg := { cfg := 0x00080000, data := 0 }

/-- A hart's launch values before any launch (log entry 2). -/
def LaunchInfo.none : LaunchInfo :=
  { asid := 0, fdom := 0, emuh := 0, det := false, pers := false, rwid := 1, hcnt := 1, code := 0, segb := 0,
    stkb := 0, stks := 0, wdog := 0, cmask := 0, prio := 0, wght := 0, lgbud := 0, ebud := 0, ebuds := [], lgbuds := [],
    tbud := 0, acceptedNs := 0 }

/-- Nothing watched. -/
def Watch.none : Watch := { va := 0, addr := 0, len := 0, regs := [], gen := 0, need := 0, hit := false }

/-- A transaction state at hart creation (R312). -/
def Tx.none : Tx := { st := .idle, buf := [], begun := 0, site := 0, placed := .none, result := .none, ghost := .none }

/-- A hart as R9 and R50 create it: launch index `i` of the launch described, entered at sequence `n`. The values that
R9 gives to s2 to s5 are written by `Hart.create`. -/
def Hart.blank (id : HartId) (info : LaunchInfo) (n : Nat) : Hart :=
  { id := id, info := info, st := .created, core := 0, ctx := 0, w := 1, lgb := 0, rowBase := 0, since := n
    sregs := Vector.replicate 32 0, pc := info.code.setWidth 64
    vregs := Vector.replicate 32 VReg.fresh
    masks := Vector.replicate 8 0, cvgm := 0, scales := Vector.replicate 8 0
    tiles := Vector.replicate 8 { enabled := false, data := 0 }, trows := 0
    vl := 0, headEw := 6, headGrp := 0
    flags := 0, rmode := 0, rotn := 32, seed := 0, dens := 0, trapbase := 0, repth := 0, ridx := 0, ecnt := 0
    gens := Vector.replicate 8 { loaded := false, bound := false, record := 0, pos := 0, ahead := 0 }
    windows := Vector.replicate 4 { opened := false, base := 0, desc := 0, parts := [] }
    pend := [], heldStrips := [], wbuf := [], late := [], lateWord := none, counted := [], badRegs := false
    sect := none, replay := none, tx := Tx.none, handler := none
    save := none, restart := none, soft := [], cancelling := false, hardReq := none, partDue := false
    wdogFrom := 0
    watch := Watch.none, ir := 0, irPayload := 0, lane := none, limit := none, taken := [], walked := [] }

/-- The hart slot when no hart exists (log entry 2). -/
def Hart.absent : Hart :=
  { Hart.blank { rcb := 0, hidx := 0, seq := 0 } LaunchInfo.none 0 with st := .retired }

/-- The machine right after reset (R50, R317, R326, R339): stage 0, no queue, no launch, no hart, memory listing
nothing. The values the spec does not give are those of log entries 2 to 11. -/
def State.reset : State :=
  { hart := Hart.absent, parked := [], mem := [], pads := [], poison := [], padPoison := [], pages := [], tlb := []
    kv := [], kvOld := [], replicas := []
    codeTabs := [], lparts := [], arbs := [], cycle := 0, lastTick := 0, beat := 512, nextBeat := 512, beatNo := 0
    beatFrom := 0, gates := Vector.replicate 4 [], merged := [], granules := [], jobs := [], nextJob := 0
    seedLog := [], seedCount := 0, stage := 0, joined := 0, verified := false, firmwareGood := true, startDone := false
    aqbase := 0, aqctl := 0, pstate := 0
    queues := [], cmds := [], inHand := none, journal := [], jhead := 0, launches := [], objs := [], asids := []
    rings := [], events := [], ewt := 0, remaps := [], portsLost := [], exhausted := [], holding := []
    delaying := [], fromReplica := false, loadLat := 8
    holdBack := false, draws := 0, agenda := [] }

end Sys2Proof.Machine
end

