-- ==== Sys2Proof/Machine/Numbers.lean ====
section
/-! DEFINITION. Element types and their values (R46, R91 to R95, R99): widths, classes, decoding of raw bits into exact
values, and exact arithmetic on those values. An exact finite value is a sign, a natural significand and a power of two. -/

namespace Sys2Proof.Machine

/-- An element type: tag and fraction count (R45, R46). -/
structure Ty where
  tag : Nat
  frac : Nat
  deriving DecidableEq, Repr

/-- The classes by which the entries select an operation (R130). -/
inductive TClass where
  | untagged | sint | nint | fx | ba | flt | stor | tok
  deriving DecidableEq, Repr

/-- Element width in bits of a tag; 0 for untagged (R46). -/
def tagWidth (tag : Nat) : Nat :=
  [0, 8, 16, 32, 64, 8, 16, 32, 64, 16, 32, 16, 32, 16, 16, 32, 64, 8, 8, 6, 2, 4, 7, 32, 4, 4, 4].getD tag 0

/-- The class of a tag (R130). -/
def tagClass (tag : Nat) : TClass :=
  if 1 ≤ tag ∧ tag ≤ 4 ∨ tag = 24 then .sint
  else if 5 ≤ tag ∧ tag ≤ 8 ∨ tag = 25 then .nint
  else if tag = 9 ∨ tag = 10 then .fx
  else if tag = 11 ∨ tag = 12 then .ba
  else if 13 ≤ tag ∧ tag ≤ 16 then .flt
  else if tag = 23 then .tok
  else if 17 ≤ tag ∧ tag ≤ 22 ∨ tag = 26 then .stor
  else .untagged

/-- Width of a type. -/
def Ty.w (t : Ty) : Nat := tagWidth t.tag

/-- Class of a type. -/
def Ty.cls (t : Ty) : TClass := tagClass t.tag

/-- Class I of R130: integers of either sign. -/
def Ty.isInt (t : Ty) : Bool := t.cls == .sint || t.cls == .nint

/-- Class F of R130. -/
def Ty.isFlt (t : Ty) : Bool := t.cls == .flt

/-- A floating-point format (R93, R94): exponent bits, fraction bits, bias, and whether the exponent field of all ones
is an infinity or NaN row as in IEEE 754. -/
structure FFmt where
  eb : Nat
  fb : Nat
  bias : Nat
  ieee : Bool
  deriving DecidableEq, Repr

/-- The format of a floating tag, the narrow ones included (R93, R94). -/
def fmtOf (tag : Nat) : FFmt :=
  match tag with
  | 13 => ⟨5, 10, 15, true⟩
  | 14 => ⟨8, 7, 127, true⟩
  | 15 => ⟨8, 23, 127, true⟩
  | 16 => ⟨11, 52, 1023, true⟩
  | 17 => ⟨4, 3, 7, false⟩
  | 18 => ⟨5, 2, 15, true⟩
  | _ => ⟨3, 2, 3, false⟩

/-- Whether the tag is one of the floating formats of R93 and R94, which `vcvt` converts. -/
def isFloatTag (tag : Nat) : Bool := 13 ≤ tag && tag ≤ 19

/-- An exact value: a NaN, an infinity, or ± m × 2^e (a zero keeps its sign). -/
inductive FVal where
  | nan (signalling : Bool)
  | inf (neg : Bool)
  | fin (neg : Bool) (m : Nat) (e : Int)
  deriving DecidableEq, Repr

/-- The code above which a magnitude is no finite number of the format (R94). -/
def FFmt.maxCode (f : FFmt) : Nat :=
  if f.ieee then (2 ^ f.eb - 1) * 2 ^ f.fb - 1
  else if f.eb = 4 then 0x7E else 2 ^ (f.eb + f.fb) - 1

/-- Exponent of the least significant place of subnormals. -/
def FFmt.qmin (f : FFmt) : Int := 1 - (f.bias : Int) - f.fb

/-- The value of raw bits in a floating format (R93, R94). -/
def FFmt.decode (f : FFmt) (raw : Nat) : FVal :=
  let neg := raw / 2 ^ (f.eb + f.fb) % 2 == 1
  let code := raw % 2 ^ (f.eb + f.fb)
  let ex := code / 2 ^ f.fb
  let fr := code % 2 ^ f.fb
  if f.ieee && ex == 2 ^ f.eb - 1 then
    if fr == 0 then .inf neg else .nan (fr / 2 ^ (f.fb - 1) == 0)
  else if !f.ieee && f.eb == 4 && code == 0x7F then .nan false
  else if ex == 0 then .fin neg fr f.qmin
  else .fin neg (2 ^ f.fb + fr) (f.qmin + ex - 1)

/-- The default NaN of a format as raw bits (R95); F6 has none, and 0 stands for its result (R98). -/
def FFmt.nan (f : FFmt) : Nat :=
  if f.ieee then (2 ^ f.eb - 1) * 2 ^ f.fb + 2 ^ (f.fb - 1)
  else if f.eb = 4 then 0x7F else 0

/-- Raw bits read as a two's-complement integer of `w` bits (R91). -/
def toSigned (w raw : Nat) : Int := if 2 * raw < 2 ^ w then raw else (raw : Int) - 2 ^ w

/-- An integer modulo 2^w (R130's wrap). -/
def wrap (w : Nat) (x : Int) : Nat := (x % (2 ^ w : Nat)).toNat

/-- The integer a raw element stands for: signed for S and FX, natural for N, BA and TOK (R91, R92). -/
def Ty.int (t : Ty) (raw : Nat) : Int :=
  match t.cls with
  | .sint | .fx => toSigned t.w raw
  | .tok => ((raw % 2 ^ 24 : Nat) : Int)
  | _ => raw

/-- The finite value i × 2^e. -/
def FVal.ofInt (i : Int) (e : Int) : FVal := .fin (i < 0) i.natAbs e

/-- The exact value of a raw element (R91 to R94); a binary angle is its value in turns, in [0, 1). -/
def Ty.value (t : Ty) (raw : Nat) : FVal :=
  if isFloatTag t.tag then (fmtOf t.tag).decode raw
  else match t.cls with
    | .fx => FVal.ofInt (t.int raw) (-(t.frac : Int))
    | .ba => FVal.ofInt raw (-(t.w : Int))
    | _ => FVal.ofInt (t.int raw) 0

/-- Whether the value is a NaN or an infinity. -/
def FVal.special : FVal → Bool
  | .fin _ _ _ => false
  | _ => true

/-- Whether the value is a NaN. -/
def FVal.isNan : FVal → Bool
  | .nan _ => true
  | _ => false

/-- Whether the value is a signalling NaN. -/
def FVal.isSnan : FVal → Bool
  | .nan s => s
  | _ => false

/-- Whether the value is a zero of either sign. -/
def FVal.isZero : FVal → Bool
  | .fin _ m _ => m == 0
  | _ => false

/-- The sign of a value that is no NaN. -/
def FVal.neg : FVal → Bool
  | .inf n => n
  | .fin n _ _ => n
  | .nan _ => false

/-- Signed significand of a finite value. -/
def sgn (neg : Bool) (m : Nat) : Int := if neg then -(m : Int) else m

/-- Signed significand of a finite value over the place 2^e, for e at or below its own. -/
def scaled (neg : Bool) (m : Nat) (me e : Int) : Int := sgn neg m * 2 ^ (me - e).toNat

/-- Exact sum. An exact zero sum of unlike signs is +0, or −0 when rounding toward −∞ (R98, IEEE 754). The Bool says
the operation is invalid or read a signalling NaN (R95). -/
def FVal.add (down : Bool) : FVal → FVal → FVal × Bool
  | .nan s, b => (.nan false, s || b.isSnan)
  | a, .nan s => (.nan false, s || a.isSnan)
  | .inf n, .inf n' => if n = n' then (.inf n, false) else (.nan false, true)
  | .inf n, _ => (.inf n, false)
  | _, .inf n => (.inf n, false)
  | .fin n m e, .fin n' m' e' =>
    let lo := min e e'
    let s := scaled n m e lo + scaled n' m' e' lo
    if s = 0 then
      (.fin (if m = 0 ∧ m' = 0 ∧ n = n' then n else down) 0 lo, false)
    else (FVal.ofInt s lo, false)

/-- The negated value. -/
def FVal.negate : FVal → FVal
  | .nan s => .nan s
  | .inf n => .inf (!n)
  | .fin n m e => .fin (!n) m e

/-- Exact product (R131: 0 × ∞ is invalid). -/
def FVal.mul : FVal → FVal → FVal × Bool
  | .nan s, b => (.nan false, s || b.isSnan)
  | a, .nan s => (.nan false, s || a.isSnan)
  | .inf n, b => if b.isZero then (.nan false, true) else (.inf (n != b.neg), false)
  | a, .inf n => if a.isZero then (.nan false, true) else (.inf (a.neg != n), false)
  | .fin n m e, .fin n' m' e' => (.fin (n != n') (m * m') (e + e'), false)

/-- Exact a × b + c; an invalid product stays invalid whatever the addend (R131). -/
def FVal.fma (down : Bool) (a b c : FVal) : FVal × Bool :=
  let (p, bad) := a.mul b
  let (r, bad') := p.add down c
  (r, bad || bad')

/-- Order of two values that are no NaN: −1, 0 or 1; zeros are equal. -/
def FVal.cmp : FVal → FVal → Int
  | .inf n, .inf n' => if n = n' then 0 else if n then -1 else 1
  | .inf n, _ => if n then -1 else 1
  | _, .inf n => if n then 1 else -1
  | .fin n m e, .fin n' m' e' =>
    let lo := min e e'
    let d := scaled n m e lo - scaled n' m' e' lo
    if d < 0 then -1 else if d = 0 then 0 else 1
  | _, _ => 0

/-- The absolute value. -/
def FVal.abs : FVal → FVal
  | .nan s => .nan s
  | .inf _ => .inf false
  | .fin _ m e => .fin false m e

end Sys2Proof.Machine
end

