-- ==== Sys2Proof/Machine/Flags.lean ====
section
/-! DEFINITION. The FLAGS register's bits (R51), the rounding modes (R96, R97), saturation and what becomes of a result
that its format cannot hold (R98). Every function answers the raw element and the flag bits the result sets. -/

namespace Sys2Proof.Machine

/-- FLAGS bits (R51). -/
def fSAT : Nat := 1
def fINEXACT : Nat := 2
def fINVALID : Nat := 4
def fCVG : Nat := 8
def fAPPROX : Nat := 16
def fNOLEGAL : Nat := 32
def fESAT : Nat := 64

/-- A flag bit when the condition holds. -/
def flagIf (c : Bool) (f : Nat) : Nat := if c then f else 0

/-- Rounding modes as RMODE codes them (R50, R96). -/
def RNE : Nat := 0
def RTZ : Nat := 1
def RUP : Nat := 2
def RDN : Nat := 3
def RSR : Nat := 4

/-- The mode of operations that round RNE when RMODE is RSR (R96). -/
def noRsr (mode : Nat) : Nat := if mode = RSR then RNE else mode

/-- The significand m / 2^shift of a number of the given sign, rounded to a natural number by the mode, with `draw` the
64-bit draw of R97; and whether bits were lost. -/
def roundShift (mode draw : Nat) (neg : Bool) (m shift : Nat) : Nat × Bool :=
  let n := m / 2 ^ shift
  let rem := m % 2 ^ shift
  if rem = 0 then (n, false)
  else
    let up : Bool :=
      match mode with
      | 0 => 2 ^ shift < 2 * rem || (2 * rem == 2 ^ shift && n % 2 == 1)
      | 1 => false
      | 2 => !neg
      | 3 => neg
      | _ =>
        if neg then !(draw * 2 ^ shift < 2 ^ 64 * (2 ^ shift - rem))
        else draw * 2 ^ shift < 2 ^ 64 * rem
    (if up then n + 1 else n, true)

/-- ± m × 2^e rounded to an integer multiple of 2^q: the signed multiple and whether bits were lost. -/
def roundAt (mode draw : Nat) (neg : Bool) (m : Nat) (e q : Int) : Int × Bool :=
  if q ≤ e then (sgn neg (m * 2 ^ (e - q).toNat), false)
  else
    let (n, x) := roundShift mode draw neg m (q - e).toNat
    (sgn neg n, x)

/-- Rounding to the nearest integer, ties to even, of the quotient of two naturals. -/
def rneDiv (a b : Nat) : Nat :=
  let n := a / b
  let r := a % b
  if b < 2 * r ∨ (2 * r = b ∧ n % 2 = 1) then n + 1 else n

/-- RNE of an integer divided by 2^k. -/
def rneShiftInt (x : Int) (k : Nat) : Int × Bool :=
  let (n, l) := roundShift RNE 0 (x < 0) x.natAbs k
  (sgn (x < 0) n, l)

/-- A finite value rounded into a floating format (R96 to R98). `satExit` is the overflow rule of a rotation's exit
(R113): the largest finite value with SAT, and an exact zero written as +0; a negative value that rounds to zero is
written -0 there (log entry 82). -/
def FFmt.round (f : FFmt) (mode draw : Nat) (satExit : Bool) (neg : Bool) (m : Nat) (e : Int) : Nat × Nat :=
  let signBit := if neg then 2 ^ (f.eb + f.fb) else 0
  if m = 0 then (if satExit then 0 else signBit, 0)
  else
    let q := max ((Nat.log2 m : Int) + e - f.fb) f.qmin
    let (n, lost) := if q ≤ e then (m * 2 ^ (e - q).toNat, false) else roundShift mode draw neg m (q - e).toNat
    let code := (q - f.qmin).toNat * 2 ^ f.fb + n
    let above := f.maxCode < code || (!f.ieee && mode == RSR && f.maxCode == code && lost
      && (FVal.cmp (.fin false m e) (f.decode f.maxCode) == 1))
    if above then
      if satExit || !f.ieee then (signBit + f.maxCode, fSAT + fINEXACT)
      else
        let toMax := mode == RTZ || (mode == RUP && neg) || (mode == RDN && !neg)
        (signBit + (if toMax then f.maxCode else f.maxCode + 1), fINEXACT)
    else (if satExit && n == 0 then (if lost then signBit else 0) else signBit + code, flagIf lost fINEXACT)

/-- Any value into a floating format (R95, R98). An F8A infinity saturates, an F6 NaN is +0 with INVALID. -/
def FFmt.fit (f : FFmt) (mode draw : Nat) : FVal → Nat × Nat
  | .nan _ => (f.nan, flagIf (!f.ieee && f.eb == 3) fINVALID)
  | .inf neg =>
    let signBit := if neg then 2 ^ (f.eb + f.fb) else 0
    if f.ieee then (signBit + f.maxCode + 1, 0) else (signBit + f.maxCode, fSAT + fINEXACT)
  | .fin neg m e => f.round mode draw false neg m e

/-- Least value of an integer, fixed-point or token format. -/
def Ty.lo (t : Ty) : Int :=
  match t.cls with
  | .sint | .fx => -(2 ^ (t.w - 1) : Nat)
  | _ => 0

/-- Greatest value of an integer, fixed-point or token format; a conversion into TOK stops at 0xFF_FFFE (R146). -/
def Ty.hi (t : Ty) : Int :=
  match t.cls with
  | .sint | .fx => (2 ^ (t.w - 1) : Nat) - 1
  | .tok => 0xFFFFFE
  | _ => (2 ^ t.w : Nat) - 1

/-- An integer saturated into the format (R98): SAT and INEXACT when it changes. -/
def Ty.sat (t : Ty) (x : Int) : Nat × Nat :=
  if x < t.lo then (wrap t.w t.lo, fSAT + fINEXACT)
  else if t.hi < x then (wrap t.w t.hi, fSAT + fINEXACT)
  else (wrap t.w x, 0)

/-- Any value into the type, by rounding and then saturating or wrapping, as R98's table lays down. -/
def Ty.fit (t : Ty) (mode draw : Nat) (v : FVal) : Nat × Nat :=
  if isFloatTag t.tag then (fmtOf t.tag).fit mode draw v
  else match t.cls with
    | .ba =>
      match v with
      | .fin neg m e =>
        let (i, lost) := roundAt mode draw neg m e (-(t.w : Int))
        (wrap t.w i, flagIf lost fINEXACT)
      | _ => (0, fINVALID)
    | _ =>
      match v with
      | .nan _ => (0, fINVALID)
      | .inf neg => (wrap t.w (if neg then t.lo else t.hi), fSAT + fINEXACT)
      | .fin neg m e =>
        let (i, lost) := roundAt mode draw neg m e (-(t.frac : Int))
        let (r, fl) := t.sat i
        (r, fl ||| flagIf lost fINEXACT)

/-- The counter generator (R116). -/
def scg (key stream index : Nat) : Nat :=
  let M := 2 ^ 64
  let v := (key + ((stream * 2 ^ 32 + index) % M) * 0xC3A59E1B4D27F86B) % M
  let v := v ^^^ (v / 2 ^ 31)
  let v := v * 0x8F3A61D52B97E44D % M
  let v := v ^^^ (v / 2 ^ 29)
  let v := v * 0xB2E41C7955A30F91 % M
  v ^^^ (v / 2 ^ 32)

/-- The smallest power of two at least `n`, and 1 for 0 (R117). -/
def pow2AtLeast (n : Nat) : Nat := if n ≤ 1 then 1 else 2 ^ (Nat.log2 (n - 1) + 1)

/-- One level of the reduction tree: element e joined with element e + length/2 (R117). -/
def reduceLevel {α : Type} (op : α → α → α) (t : List α) : List α :=
  List.zipWith op (t.take (t.length / 2)) (t.drop (t.length / 2))

/-- The reduction tree over a list whose length is 2^k (R117). -/
def reduceTree {α : Type} (op : α → α → α) : Nat → List α → List α
  | 0, t => t
  | k + 1, t => reduceTree op k (reduceLevel op t)

end Sys2Proof.Machine
end

