-- ==== Sys2Proof/WellFormed.lean ====
section
/-! DEFINITION. Which instructions as syntax the encoding admits: the reserved field values of R33 to R37 and of the
instructions' own entries are refused here, constructor by constructor. Conditions on the machine's state are no part of it. -/

namespace Sys2Proof

/-- The instruction holds no reserved field value (R39). -/
def Instr.wf : Instr → Bool
  | .trap _ => true
  | .eret => true
  | .ebreak => true
  | .fence m s => decide (m ≠ 0 ∧ s.toNat ≤ 5)
  | .sbar m => decide (m ≠ 0)
  | .gets d n => decide (n.toNat ≤ 16 ∧ (n = 6 → d.toNat < 8))
  | .puts a n => decide (n.toNat ≤ 16 ∧ (n = 6 → a.toNat < 8))
  | .prog => true
  | .yield => true
  | .halt => true
  | .cvy => true
  | .seed _ => true
  | .endk => true
  | .undefinedOpcode w => decide (0x28 ≤ w.toNat / 2 ^ 26 ∧ w.toNat / 2 ^ 26 ≤ 0x3E)
  | .add _ _ _ => true
  | .sub _ _ _ => true
  | .mul _ _ _ => true
  | .mulh _ _ _ => true
  | .div _ _ _ => true
  | .divn _ _ _ => true
  | .rem _ _ _ => true
  | .remn _ _ _ => true
  | .and _ _ _ => true
  | .or _ _ _ => true
  | .xor _ _ _ => true
  | .andn _ _ _ => true
  | .sll _ _ _ => true
  | .srl _ _ _ => true
  | .sra _ _ _ => true
  | .slt _ _ _ => true
  | .sltn _ _ _ => true
  | .min _ _ _ => true
  | .max _ _ _ => true
  | .minn _ _ _ => true
  | .maxn _ _ _ => true
  | .clz _ _ => true
  | .ctz _ _ => true
  | .popc _ _ => true
  | .addi _ _ _ => true
  | .andi _ _ _ => true
  | .ori _ _ _ => true
  | .xori _ _ _ => true
  | .slli _ _ _ => true
  | .srli _ _ _ => true
  | .srai _ _ _ => true
  | .lui _ _ => true
  | .limm _ _ => true
  | .limmh _ _ => true
  | .ldb _ _ _ => true
  | .ldh _ _ _ => true
  | .ldw _ _ _ => true
  | .ldd _ _ _ => true
  | .ldbS _ _ _ => true
  | .ldhS _ _ _ => true
  | .ldwS _ _ _ => true
  | .stb _ _ _ => true
  | .sth _ _ _ => true
  | .stw _ _ _ => true
  | .std _ _ _ => true
  | .amoAdd _ _ _ s z => decide (s.toNat ≤ 5 ∧ 2 ≤ z.toNat)
  | .amoSwap _ _ _ s z => decide (s.toNat ≤ 5 ∧ 2 ≤ z.toNat)
  | .amoCas _ _ _ s z => decide (s.toNat ≤ 5 ∧ 2 ≤ z.toNat)
  | .amoMin _ _ _ s z => decide (s.toNat ≤ 5 ∧ 2 ≤ z.toNat)
  | .amoMax _ _ _ s z => decide (s.toNat ≤ 5 ∧ 2 ≤ z.toNat)
  | .amoAnd _ _ _ s z => decide (s.toNat ≤ 5 ∧ 2 ≤ z.toNat)
  | .amoOr _ _ _ s z => decide (s.toNat ≤ 5 ∧ 2 ≤ z.toNat)
  | .amoXor _ _ _ s z => decide (s.toNat ≤ 5 ∧ 2 ≤ z.toNat)
  | .ldAcq _ _ s _ => decide (s.toNat ≤ 5)
  | .stRel _ _ s _ => decide (s.toNat ≤ 5)
  | .beq _ _ _ => true
  | .bne _ _ _ => true
  | .blt _ _ _ => true
  | .bge _ _ _ => true
  | .bltn _ _ _ => true
  | .bgen _ _ _ => true
  | .jal _ => true
  | .jalr _ _ _ => true
  | .slti _ _ _ => true
  | .vsetlb _ _ _ _ => true
  | .vcfg _ t f _ => decide (t.toNat ≤ 26 ∧ (if t = 9 then f.toNat ≤ 15 else if t = 10 then f.toNat ≤ 31 else f = 0))
  | .vcfgw _ w s => decide (w.toNat ≤ 5 ∧ s ≠ 1 ∧ s ≠ 2)
  | .vsetl _ _ _ _ => true
  | .vtag _ _ => true
  | .vadd _ _ _ _ _ _ => true
  | .vsub _ _ _ _ _ _ => true
  | .vmul _ _ _ _ _ _ => true
  | .vfma _ _ _ _ _ _ => true
  | .vmin _ _ _ _ _ _ => true
  | .vmax _ _ _ _ _ _ => true
  | .vabs _ _ _ _ => true
  | .vneg _ _ _ _ => true
  | .vand _ _ _ _ _ _ => true
  | .vor _ _ _ _ _ _ => true
  | .vxor _ _ _ _ _ _ => true
  | .vshl _ _ _ _ _ _ => true
  | .vshr _ _ _ _ _ _ => true
  | .vadc _ _ _ _ _ _ => true
  | .vsbc _ _ _ _ _ _ => true
  | .vmov _ _ _ _ => true
  | .vsel _ _ _ _ _ _ => true
  | .vadds _ _ _ _ _ => true
  | .vsubs _ _ _ _ _ => true
  | .vmuls _ _ _ _ _ => true
  | .vfmas _ _ _ _ _ => true
  | .vmins _ _ _ _ _ => true
  | .vmaxs _ _ _ _ _ => true
  | .vands _ _ _ _ _ => true
  | .vors _ _ _ _ _ => true
  | .vxors _ _ _ _ _ => true
  | .vshls _ _ _ _ _ => true
  | .vshrs _ _ _ _ _ => true
  | .vsels _ _ _ _ _ => true
  | .vceq _ _ _ _ _ _ => true
  | .vcne _ _ _ _ _ _ => true
  | .vclt _ _ _ _ _ _ => true
  | .vcge _ _ _ _ _ _ => true
  | .vceqs _ _ _ _ _ x => decide (x = 0)
  | .vcnes _ _ _ _ _ x => decide (x = 0)
  | .vclts _ _ _ _ _ x => decide (x = 0)
  | .vcges _ _ _ _ _ x => decide (x = 0)
  | .mand _ _ _ => true
  | .mor _ _ _ => true
  | .mxor _ _ _ => true
  | .mnot _ _ => true
  | .mpop _ _ => true
  | .mfirst _ _ => true
  | .mshup _ _ => true
  | .mset _ => true
  | .mclr _ => true
  | .vslideup _ _ _ _ _ => true
  | .vslidedn _ _ _ _ _ => true
  | .vgath _ _ _ _ _ _ => true
  | .vcomp _ _ _ _ _ => true
  | .vexpd _ _ _ _ => true
  | .vbcast _ _ _ => true
  | .vidx _ _ => true
  | .vrsum _ _ _ _ => true
  | .vrmax _ _ _ _ => true
  | .vrmin _ _ _ _ => true
  | .vsmaxe d _ _ _ => decide (d.toNat < 8)
  | .vcvt _ _ _ _ => true
  | .vquant _ _ b _ _ => decide (b.toNat < 8)
  | .vdeq _ _ b _ _ => decide (b.toNat < 8)
  | .vpack _ _ _ _ => true
  | .vunpk _ _ _ _ => true
  | .rotc _ _ n _ _ _ => decide (n.toNat ≤ 44)
  | .rotcG _ _ n _ _ _ => decide (n.toNat ≤ 44)
  | .rotl _ _ n _ _ _ => decide (n.toNat ≤ 44)
  | .rotlG _ _ n _ _ _ => decide (n.toNat ≤ 44)
  | .roth _ _ n _ _ _ => decide (n.toNat ≤ 47)
  | .rothG _ _ n _ _ _ => decide (n.toNat ≤ 47)
  | .vtac _ _ n _ _ _ => decide (n.toNat ≤ 44)
  | .vtacG _ _ n _ _ _ => decide (n.toNat ≤ 44)
  | .vtal _ _ n _ _ _ => decide (n.toNat ≤ 44)
  | .vtalG _ _ n _ _ _ => decide (n.toNat ≤ 44)
  | .vtah _ _ n _ _ _ => decide (n.toNat ≤ 47)
  | .vtahG _ _ n _ _ _ => decide (n.toNat ≤ 47)
  | .vld _ _ _ _ => true
  | .vlds _ _ _ _ _ => true
  | .vldx _ _ _ _ _ _ => true
  | .vldb _ _ _ _ _ => true
  | .vldff _ _ _ _ _ => true
  | .vldseg _ _ _ f => decide (f ≠ 0)
  | .vst _ _ _ _ => true
  | .vsts _ _ _ _ _ => true
  | .vstx _ _ _ _ _ _ => true
  | .vstb _ _ _ _ _ => true
  | .vstseg _ _ _ _ f => decide (f ≠ 0)
  | .vamoAdd _ _ _ _ _ s => decide (s.toNat ≤ 5)
  | .vamoMin _ _ _ _ _ s => decide (s.toNat ≤ 5)
  | .vamoMax _ _ _ _ _ s => decide (s.toNat ≤ 5)
  | .vamoSwap _ _ _ _ _ s => decide (s.toNat ≤ 5)
  | .accw d _ _ => decide (d.toNat < 4)
  | .vacc d _ _ _ _ _ => decide (d.toNat < 4)
  | .accm d => decide (d.toNat < 4)
  | .accx d => decide (d.toNat < 4)
  | .vxlat _ _ _ _ _ => true
  | .vxlatFf _ _ _ _ _ => true
  | .bind d _ => decide (24 ≤ d.toNat)
  | .unbind d => decide (24 ≤ d.toNat)
  | .vfetch _ _ _ => true
  | .lfetch _ _ _ => true
  | .lstop => true
  | .vjoin _ => true
  | .tmask _ _ _ _ => true
  | .tadv _ _ _ => true
  | .smax _ _ _ _ _ => true
  | .sexp _ _ b _ _ => decide (2 ≤ b.toNat ∧ b.toNat % 2 = 0)
  | .spick _ _ _ _ _ => true
  | .srand _ _ _ => true
  | .mop _ _ _ _ _ => true
  | .mopS _ a b _ _ => decide (2 ≤ a.toNat ∧ a.toNat ≤ 9 ∧ 2 ≤ b.toNat ∧ b.toNat ≤ 9)
  | .mopx _ _ _ _ _ => true
  | .tattach q => decide (1 ≤ q.toNat ∧ q.toNat ≤ 3)
  | .tdetach => true
  | .ten _ => true
  | .tdis _ => true
  | .tzero _ => true
  | .tmovv _ _ _ _ => true
  | .tmovvC _ _ _ _ => true
  | .tmovt _ _ _ _ => true
  | .tmovtC _ _ _ _ => true
  | .tld _ _ _ _ _ => true
  | .tst _ _ _ _ _ => true
  | .lpart _ => true
  | .cmpt _ _ _ _ => true
  | .scat _ _ _ _ => true
  | .ecpy _ => true
  | .eloop _ => true
  | .efoot _ => true
  | .kfork _ _ _ => true
  | .kdrop _ _ _ => true
  | .kspl _ _ _ => true
  | .krep _ _ _ => true
  | .kprovRd _ _ => true
  | .kprovLive _ _ _ => true
  | .kprovRet _ _ => true
  | .kprovFree _ _ => true
  | .kchk _ _ _ => true
  | .kchkF _ _ _ => true
  | .odeclR _ => true
  | .odeclW _ => true
  | .obeg _ => true
  | .ocom => true
  | .sspec n _ => decide (2 ≤ n.toNat ∧ n.toNat ≤ 9)
  | .sdrain n => decide (n.toNat ≤ 9)
  | .wait _ _ _ z s => decide (2 ≤ z.toNat ∧ s.toNat ≤ 5)
  | .vfull _ _ => true
  | .vempty _ _ => true
  | .hartPlacement _ => true
  | .hartWake => true
  | .hartReclaim => true
  | .producerLands => true
  | .compactionComplete _ => true
  | .streamReadAhead _ _ => true
  | .hardPreemption _ => true
  | .softRequestEscalation => true
  | .energyTick => true
  | .watchdogExpiry => true
  | .handlerOverrun => true
  | .gateArrival => true
  | .beatEnd => true
  | .batchAppend => true
  | .orderFirstGrant => true
  | .copyJob _ => true
  | .footprintComplete _ => true
  | .codeTableSwap _ => true
  | .eviction _ _ => true
  | .unconsumedError _ => true
  | .spareRemap _ _ _ => true
  | .peerPortLost _ => true
  | .eventRingPost _ => true
  | .startStage => true
  | .dieJoin _ => true
  | .powerStateChange => true
  | .aqctl _ => true
  | .tailq _ _ => true
  | .registerWrite _ _ => true
  | .packetFetch _ => true
  | .qcreate => true
  | .qdestroy => true
  | .load => true
  | .unload => true
  | .launch => true
  | .release => true
  | .cancel => true
  | .preempt => true
  | .tlbinv => true
  | .kvmap => true
  | .asidcfg => true
  | .fdring => true
  | .setbeat => true
  | .setltol => true
  | .kvevict => true
  | .whippletreeIssueCycle _ _ => true
  | .illegalInstruction _ => true
  | .accessPerforms _ => true
  | .peerPortRequest _ _ => true
  | .hostMemoryAccess _ => true

/-- The instruction is well formed. -/
abbrev Instr.WellFormed (i : Instr) : Prop := i.wf = true

end Sys2Proof
end

