-- ==== Sys2Proof/Decode.lean ====
section
/-! DEFINITION. The decoder and the encoder, written from the encoding tables of R32 to R37 and of the entries.
Decoding is total: a word of a reserved major is `undefinedOpcode` (R38), any other word that is no instruction is
`illegalInstruction` (R39). Fields are taken with division and remainder, so that arithmetic decides an encoding. -/

namespace Sys2Proof

/-- `n` bits of `w` from bit `lo` upward. -/
def bits (w lo n : Nat) : Nat := w / 2 ^ lo % 2 ^ n

/-- The same bits as a bit vector. -/
def fld (w lo n : Nat) : BitVec n := BitVec.ofNat n (w / 2 ^ lo)

/-- Words of major 0x00 (R35, R36). -/
def decode00 (w : Nat) : Option Instr :=
  if bits w 11 15 = 0 ∧ bits w 0 5 = 0 then some (Instr.trap (fld w 5 6))
  else if bits w 0 26 = 1 then some (Instr.eret)
  else if bits w 0 26 = 2 then some (Instr.ebreak)
  else if bits w 21 5 = 0 ∧ bits w 8 3 = 0 ∧ bits w 0 5 = 3 then some (Instr.fence (fld w 11 10) (fld w 5 3))
  else if bits w 21 5 = 0 ∧ bits w 0 11 = 4 then some (Instr.sbar (fld w 11 10))
  else if bits w 16 5 = 0 ∧ bits w 0 11 = 5 then some (Instr.gets (fld w 21 5) (fld w 11 5))
  else if bits w 21 5 = 0 ∧ bits w 0 11 = 6 then some (Instr.puts (fld w 16 5) (fld w 11 5))
  else if bits w 0 26 = 7 then some (Instr.prog)
  else if bits w 0 26 = 8 then some (Instr.yield)
  else if bits w 0 26 = 9 then some (Instr.halt)
  else if bits w 0 26 = 10 then some (Instr.cvy)
  else if bits w 0 21 = 11 then some (Instr.seed (fld w 21 5))
  else if bits w 0 26 = 67108863 then some (Instr.endk)
  else none

/-- Words of major 0x01 (R35, R36). -/
def decode01 (w : Nat) : Option Instr :=
  if bits w 0 11 = 0 then some (Instr.add (fld w 21 5) (fld w 16 5) (fld w 11 5))
  else if bits w 0 11 = 1 then some (Instr.sub (fld w 21 5) (fld w 16 5) (fld w 11 5))
  else if bits w 0 11 = 2 then some (Instr.mul (fld w 21 5) (fld w 16 5) (fld w 11 5))
  else if bits w 0 11 = 3 then some (Instr.mulh (fld w 21 5) (fld w 16 5) (fld w 11 5))
  else if bits w 0 11 = 4 then some (Instr.div (fld w 21 5) (fld w 16 5) (fld w 11 5))
  else if bits w 0 11 = 5 then some (Instr.divn (fld w 21 5) (fld w 16 5) (fld w 11 5))
  else if bits w 0 11 = 6 then some (Instr.rem (fld w 21 5) (fld w 16 5) (fld w 11 5))
  else if bits w 0 11 = 7 then some (Instr.remn (fld w 21 5) (fld w 16 5) (fld w 11 5))
  else if bits w 0 11 = 8 then some (Instr.and (fld w 21 5) (fld w 16 5) (fld w 11 5))
  else if bits w 0 11 = 9 then some (Instr.or (fld w 21 5) (fld w 16 5) (fld w 11 5))
  else if bits w 0 11 = 10 then some (Instr.xor (fld w 21 5) (fld w 16 5) (fld w 11 5))
  else if bits w 0 11 = 11 then some (Instr.andn (fld w 21 5) (fld w 16 5) (fld w 11 5))
  else if bits w 0 11 = 12 then some (Instr.sll (fld w 21 5) (fld w 16 5) (fld w 11 5))
  else if bits w 0 11 = 13 then some (Instr.srl (fld w 21 5) (fld w 16 5) (fld w 11 5))
  else if bits w 0 11 = 14 then some (Instr.sra (fld w 21 5) (fld w 16 5) (fld w 11 5))
  else if bits w 0 11 = 15 then some (Instr.slt (fld w 21 5) (fld w 16 5) (fld w 11 5))
  else if bits w 0 11 = 16 then some (Instr.sltn (fld w 21 5) (fld w 16 5) (fld w 11 5))
  else if bits w 0 11 = 17 then some (Instr.min (fld w 21 5) (fld w 16 5) (fld w 11 5))
  else if bits w 0 11 = 18 then some (Instr.max (fld w 21 5) (fld w 16 5) (fld w 11 5))
  else if bits w 0 11 = 19 then some (Instr.minn (fld w 21 5) (fld w 16 5) (fld w 11 5))
  else if bits w 0 11 = 20 then some (Instr.maxn (fld w 21 5) (fld w 16 5) (fld w 11 5))
  else if bits w 0 16 = 21 then some (Instr.clz (fld w 21 5) (fld w 16 5))
  else if bits w 0 16 = 22 then some (Instr.ctz (fld w 21 5) (fld w 16 5))
  else if bits w 0 16 = 23 then some (Instr.popc (fld w 21 5) (fld w 16 5))
  else none

/-- Words of major 0x02 (R35, R36). -/
def decode02 (w : Nat) : Option Instr :=
  some (Instr.addi (fld w 21 5) (fld w 16 5) (fld w 0 16))

/-- Words of major 0x03 (R35, R36). -/
def decode03 (w : Nat) : Option Instr :=
  some (Instr.andi (fld w 21 5) (fld w 16 5) (fld w 0 16))

/-- Words of major 0x04 (R35, R36). -/
def decode04 (w : Nat) : Option Instr :=
  some (Instr.ori (fld w 21 5) (fld w 16 5) (fld w 0 16))

/-- Words of major 0x05 (R35, R36). -/
def decode05 (w : Nat) : Option Instr :=
  some (Instr.xori (fld w 21 5) (fld w 16 5) (fld w 0 16))

/-- Words of major 0x06 (R35, R36). -/
def decode06 (w : Nat) : Option Instr :=
  if bits w 6 10 = 0 then some (Instr.slli (fld w 21 5) (fld w 16 5) (fld w 0 6))
  else if bits w 6 10 = 256 then some (Instr.srli (fld w 21 5) (fld w 16 5) (fld w 0 6))
  else if bits w 6 10 = 512 then some (Instr.srai (fld w 21 5) (fld w 16 5) (fld w 0 6))
  else none

/-- Words of major 0x07 (R35, R36). -/
def decode07 (w : Nat) : Option Instr :=
  if bits w 16 5 = 0 then some (Instr.lui (fld w 21 5) (fld w 0 16))
  else none

/-- Words of major 0x08 (R35, R36). -/
def decode08 (w : Nat) : Option Instr :=
  if bits w 13 3 = 0 then some (Instr.ldb (fld w 21 5) (fld w 16 5) (fld w 0 13))
  else if bits w 13 3 = 2 then some (Instr.ldh (fld w 21 5) (fld w 16 5) (fld w 0 13))
  else if bits w 13 3 = 4 then some (Instr.ldw (fld w 21 5) (fld w 16 5) (fld w 0 13))
  else if bits w 13 3 = 6 then some (Instr.ldd (fld w 21 5) (fld w 16 5) (fld w 0 13))
  else if bits w 13 3 = 1 then some (Instr.ldbS (fld w 21 5) (fld w 16 5) (fld w 0 13))
  else if bits w 13 3 = 3 then some (Instr.ldhS (fld w 21 5) (fld w 16 5) (fld w 0 13))
  else if bits w 13 3 = 5 then some (Instr.ldwS (fld w 21 5) (fld w 16 5) (fld w 0 13))
  else none

/-- Words of major 0x09 (R35, R36). -/
def decode09 (w : Nat) : Option Instr :=
  if bits w 13 3 = 0 then some (Instr.stb (fld w 21 5) (fld w 16 5) (fld w 0 13))
  else if bits w 13 3 = 2 then some (Instr.sth (fld w 21 5) (fld w 16 5) (fld w 0 13))
  else if bits w 13 3 = 4 then some (Instr.stw (fld w 21 5) (fld w 16 5) (fld w 0 13))
  else if bits w 13 3 = 6 then some (Instr.std (fld w 21 5) (fld w 16 5) (fld w 0 13))
  else none

/-- Words of major 0x0A (R35, R36). -/
def decode0A (w : Nat) : Option Instr :=
  if bits w 7 4 = 0 ∧ bits w 0 2 = 0 then some (Instr.amoAdd (fld w 21 5) (fld w 16 5) (fld w 11 5) (fld w 4 3) (fld w 2 2))
  else if bits w 7 4 = 1 ∧ bits w 0 2 = 0 then some (Instr.amoSwap (fld w 21 5) (fld w 16 5) (fld w 11 5) (fld w 4 3) (fld w 2 2))
  else if bits w 7 4 = 2 ∧ bits w 0 2 = 0 then some (Instr.amoCas (fld w 21 5) (fld w 16 5) (fld w 11 5) (fld w 4 3) (fld w 2 2))
  else if bits w 7 4 = 3 ∧ bits w 0 2 = 0 then some (Instr.amoMin (fld w 21 5) (fld w 16 5) (fld w 11 5) (fld w 4 3) (fld w 2 2))
  else if bits w 7 4 = 4 ∧ bits w 0 2 = 0 then some (Instr.amoMax (fld w 21 5) (fld w 16 5) (fld w 11 5) (fld w 4 3) (fld w 2 2))
  else if bits w 7 4 = 5 ∧ bits w 0 2 = 0 then some (Instr.amoAnd (fld w 21 5) (fld w 16 5) (fld w 11 5) (fld w 4 3) (fld w 2 2))
  else if bits w 7 4 = 6 ∧ bits w 0 2 = 0 then some (Instr.amoOr (fld w 21 5) (fld w 16 5) (fld w 11 5) (fld w 4 3) (fld w 2 2))
  else if bits w 7 4 = 7 ∧ bits w 0 2 = 0 then some (Instr.amoXor (fld w 21 5) (fld w 16 5) (fld w 11 5) (fld w 4 3) (fld w 2 2))
  else if bits w 7 9 = 8 ∧ bits w 0 2 = 0 then some (Instr.ldAcq (fld w 21 5) (fld w 16 5) (fld w 4 3) (fld w 2 2))
  else if bits w 21 5 = 0 ∧ bits w 7 4 = 9 ∧ bits w 0 2 = 0 then some (Instr.stRel (fld w 16 5) (fld w 11 5) (fld w 4 3) (fld w 2 2))
  else none

/-- Words of major 0x0B (R35, R36). -/
def decode0B (w : Nat) : Option Instr :=
  if bits w 13 3 = 0 then some (Instr.beq (fld w 21 5) (fld w 16 5) (fld w 0 13))
  else if bits w 13 3 = 1 then some (Instr.bne (fld w 21 5) (fld w 16 5) (fld w 0 13))
  else if bits w 13 3 = 2 then some (Instr.blt (fld w 21 5) (fld w 16 5) (fld w 0 13))
  else if bits w 13 3 = 3 then some (Instr.bge (fld w 21 5) (fld w 16 5) (fld w 0 13))
  else if bits w 13 3 = 4 then some (Instr.bltn (fld w 21 5) (fld w 16 5) (fld w 0 13))
  else if bits w 13 3 = 5 then some (Instr.bgen (fld w 21 5) (fld w 16 5) (fld w 0 13))
  else none

/-- Words of major 0x0C (R35, R36). -/
def decode0C (w : Nat) : Option Instr :=
  some (Instr.jal (fld w 0 26))

/-- Words of major 0x0D (R35, R36). -/
def decode0D (w : Nat) : Option Instr :=
  some (Instr.jalr (fld w 21 5) (fld w 16 5) (fld w 0 16))

/-- Words of major 0x0E (R35, R36). -/
def decode0E (w : Nat) : Option Instr :=
  some (Instr.slti (fld w 21 5) (fld w 16 5) (fld w 0 16))

/-- Words of major 0x0F (R35, R36). -/
def decode0F (w : Nat) : Option Instr :=
  some (Instr.vsetlb (fld w 21 5) (fld w 16 5) (fld w 13 3) (fld w 0 13))

/-- Words of major 0x10 (R35, R36). -/
def decode10 (w : Nat) : Option Instr :=
  if bits w 9 7 = 0 ∧ bits w 0 1 = 0 then some (Instr.vcfg (fld w 21 5) (fld w 16 5) (fld w 3 6) (fld w 1 2))
  else if bits w 9 12 = 1 ∧ bits w 0 3 = 0 then some (Instr.vcfgw (fld w 21 5) (fld w 6 3) (fld w 3 3))
  else if bits w 9 7 = 2 ∧ bits w 0 4 = 0 then some (Instr.vsetl (fld w 21 5) (fld w 16 5) (fld w 6 3) (fld w 4 2))
  else if bits w 0 16 = 1536 then some (Instr.vtag (fld w 21 5) (fld w 16 5))
  else none

/-- Words of major 0x11 (R35, R36). -/
def decode11 (w : Nat) : Option Instr :=
  if bits w 0 6 = 0 then some (Instr.vadd (fld w 21 5) (fld w 16 5) (fld w 11 5) (fld w 8 3) (fld w 7 1) (fld w 6 1))
  else if bits w 0 6 = 1 then some (Instr.vsub (fld w 21 5) (fld w 16 5) (fld w 11 5) (fld w 8 3) (fld w 7 1) (fld w 6 1))
  else if bits w 0 6 = 2 then some (Instr.vmul (fld w 21 5) (fld w 16 5) (fld w 11 5) (fld w 8 3) (fld w 7 1) (fld w 6 1))
  else if bits w 0 6 = 3 then some (Instr.vfma (fld w 21 5) (fld w 16 5) (fld w 11 5) (fld w 8 3) (fld w 7 1) (fld w 6 1))
  else if bits w 0 6 = 4 then some (Instr.vmin (fld w 21 5) (fld w 16 5) (fld w 11 5) (fld w 8 3) (fld w 7 1) (fld w 6 1))
  else if bits w 0 6 = 5 then some (Instr.vmax (fld w 21 5) (fld w 16 5) (fld w 11 5) (fld w 8 3) (fld w 7 1) (fld w 6 1))
  else if bits w 11 5 = 0 ∧ bits w 0 7 = 6 then some (Instr.vabs (fld w 21 5) (fld w 16 5) (fld w 8 3) (fld w 7 1))
  else if bits w 11 5 = 0 ∧ bits w 0 7 = 7 then some (Instr.vneg (fld w 21 5) (fld w 16 5) (fld w 8 3) (fld w 7 1))
  else if bits w 0 6 = 8 then some (Instr.vand (fld w 21 5) (fld w 16 5) (fld w 11 5) (fld w 8 3) (fld w 7 1) (fld w 6 1))
  else if bits w 0 6 = 9 then some (Instr.vor (fld w 21 5) (fld w 16 5) (fld w 11 5) (fld w 8 3) (fld w 7 1) (fld w 6 1))
  else if bits w 0 6 = 10 then some (Instr.vxor (fld w 21 5) (fld w 16 5) (fld w 11 5) (fld w 8 3) (fld w 7 1) (fld w 6 1))
  else if bits w 0 6 = 11 then some (Instr.vshl (fld w 21 5) (fld w 16 5) (fld w 11 5) (fld w 8 3) (fld w 7 1) (fld w 6 1))
  else if bits w 0 6 = 12 then some (Instr.vshr (fld w 21 5) (fld w 16 5) (fld w 11 5) (fld w 8 3) (fld w 7 1) (fld w 6 1))
  else if bits w 0 6 = 13 then some (Instr.vadc (fld w 21 5) (fld w 16 5) (fld w 11 5) (fld w 8 3) (fld w 7 1) (fld w 6 1))
  else if bits w 0 6 = 14 then some (Instr.vsbc (fld w 21 5) (fld w 16 5) (fld w 11 5) (fld w 8 3) (fld w 7 1) (fld w 6 1))
  else if bits w 11 5 = 0 ∧ bits w 0 7 = 15 then some (Instr.vmov (fld w 21 5) (fld w 16 5) (fld w 8 3) (fld w 7 1))
  else if bits w 0 6 = 16 then some (Instr.vsel (fld w 21 5) (fld w 16 5) (fld w 11 5) (fld w 8 3) (fld w 7 1) (fld w 6 1))
  else none

/-- Words of major 0x12 (R35, R36). -/
def decode12 (w : Nat) : Option Instr :=
  if bits w 0 7 = 0 then some (Instr.vadds (fld w 21 5) (fld w 16 5) (fld w 11 5) (fld w 8 3) (fld w 7 1))
  else if bits w 0 7 = 1 then some (Instr.vsubs (fld w 21 5) (fld w 16 5) (fld w 11 5) (fld w 8 3) (fld w 7 1))
  else if bits w 0 7 = 2 then some (Instr.vmuls (fld w 21 5) (fld w 16 5) (fld w 11 5) (fld w 8 3) (fld w 7 1))
  else if bits w 0 7 = 3 then some (Instr.vfmas (fld w 21 5) (fld w 16 5) (fld w 11 5) (fld w 8 3) (fld w 7 1))
  else if bits w 0 7 = 4 then some (Instr.vmins (fld w 21 5) (fld w 16 5) (fld w 11 5) (fld w 8 3) (fld w 7 1))
  else if bits w 0 7 = 5 then some (Instr.vmaxs (fld w 21 5) (fld w 16 5) (fld w 11 5) (fld w 8 3) (fld w 7 1))
  else if bits w 0 7 = 8 then some (Instr.vands (fld w 21 5) (fld w 16 5) (fld w 11 5) (fld w 8 3) (fld w 7 1))
  else if bits w 0 7 = 9 then some (Instr.vors (fld w 21 5) (fld w 16 5) (fld w 11 5) (fld w 8 3) (fld w 7 1))
  else if bits w 0 7 = 10 then some (Instr.vxors (fld w 21 5) (fld w 16 5) (fld w 11 5) (fld w 8 3) (fld w 7 1))
  else if bits w 0 7 = 11 then some (Instr.vshls (fld w 21 5) (fld w 16 5) (fld w 11 5) (fld w 8 3) (fld w 7 1))
  else if bits w 0 7 = 12 then some (Instr.vshrs (fld w 21 5) (fld w 16 5) (fld w 11 5) (fld w 8 3) (fld w 7 1))
  else if bits w 0 7 = 16 then some (Instr.vsels (fld w 21 5) (fld w 16 5) (fld w 11 5) (fld w 8 3) (fld w 7 1))
  else none

/-- Words of major 0x13 (R35, R36). -/
def decode13 (w : Nat) : Option Instr :=
  if bits w 24 2 = 0 ∧ bits w 0 6 = 0 then some (Instr.vceq (fld w 21 3) (fld w 16 5) (fld w 11 5) (fld w 8 3) (fld w 7 1) (fld w 6 1))
  else if bits w 24 2 = 0 ∧ bits w 0 6 = 1 then some (Instr.vcne (fld w 21 3) (fld w 16 5) (fld w 11 5) (fld w 8 3) (fld w 7 1) (fld w 6 1))
  else if bits w 24 2 = 0 ∧ bits w 0 6 = 2 then some (Instr.vclt (fld w 21 3) (fld w 16 5) (fld w 11 5) (fld w 8 3) (fld w 7 1) (fld w 6 1))
  else if bits w 24 2 = 0 ∧ bits w 0 6 = 3 then some (Instr.vcge (fld w 21 3) (fld w 16 5) (fld w 11 5) (fld w 8 3) (fld w 7 1) (fld w 6 1))
  else if bits w 24 2 = 0 ∧ bits w 0 6 = 4 then some (Instr.vceqs (fld w 21 3) (fld w 16 5) (fld w 11 5) (fld w 8 3) (fld w 7 1) (fld w 6 1))
  else if bits w 24 2 = 0 ∧ bits w 0 6 = 5 then some (Instr.vcnes (fld w 21 3) (fld w 16 5) (fld w 11 5) (fld w 8 3) (fld w 7 1) (fld w 6 1))
  else if bits w 24 2 = 0 ∧ bits w 0 6 = 6 then some (Instr.vclts (fld w 21 3) (fld w 16 5) (fld w 11 5) (fld w 8 3) (fld w 7 1) (fld w 6 1))
  else if bits w 24 2 = 0 ∧ bits w 0 6 = 7 then some (Instr.vcges (fld w 21 3) (fld w 16 5) (fld w 11 5) (fld w 8 3) (fld w 7 1) (fld w 6 1))
  else none

/-- Words of major 0x14 (R35, R36). -/
def decode14 (w : Nat) : Option Instr :=
  if bits w 24 2 = 0 ∧ bits w 19 2 = 0 ∧ bits w 14 2 = 0 ∧ bits w 0 11 = 0 then some (Instr.mand (fld w 21 3) (fld w 16 3) (fld w 11 3))
  else if bits w 24 2 = 0 ∧ bits w 19 2 = 0 ∧ bits w 14 2 = 0 ∧ bits w 0 11 = 1 then some (Instr.mor (fld w 21 3) (fld w 16 3) (fld w 11 3))
  else if bits w 24 2 = 0 ∧ bits w 19 2 = 0 ∧ bits w 14 2 = 0 ∧ bits w 0 11 = 2 then some (Instr.mxor (fld w 21 3) (fld w 16 3) (fld w 11 3))
  else if bits w 24 2 = 0 ∧ bits w 19 2 = 0 ∧ bits w 0 16 = 3 then some (Instr.mnot (fld w 21 3) (fld w 16 3))
  else if bits w 19 2 = 0 ∧ bits w 0 16 = 4 then some (Instr.mpop (fld w 21 5) (fld w 16 3))
  else if bits w 19 2 = 0 ∧ bits w 0 16 = 5 then some (Instr.mfirst (fld w 21 5) (fld w 16 3))
  else if bits w 24 2 = 0 ∧ bits w 19 2 = 0 ∧ bits w 0 16 = 6 then some (Instr.mshup (fld w 21 3) (fld w 16 3))
  else if bits w 24 2 = 0 ∧ bits w 0 21 = 7 then some (Instr.mset (fld w 21 3))
  else if bits w 24 2 = 0 ∧ bits w 0 21 = 8 then some (Instr.mclr (fld w 21 3))
  else none

/-- Words of major 0x15 (R35, R36). -/
def decode15 (w : Nat) : Option Instr :=
  if bits w 0 7 = 0 then some (Instr.vslideup (fld w 21 5) (fld w 16 5) (fld w 11 5) (fld w 8 3) (fld w 7 1))
  else if bits w 0 7 = 1 then some (Instr.vslidedn (fld w 21 5) (fld w 16 5) (fld w 11 5) (fld w 8 3) (fld w 7 1))
  else if bits w 0 6 = 2 then some (Instr.vgath (fld w 21 5) (fld w 16 5) (fld w 11 5) (fld w 8 3) (fld w 7 1) (fld w 6 1))
  else if bits w 0 7 = 3 then some (Instr.vcomp (fld w 21 5) (fld w 16 5) (fld w 11 5) (fld w 8 3) (fld w 7 1))
  else if bits w 11 5 = 0 ∧ bits w 0 7 = 4 then some (Instr.vexpd (fld w 21 5) (fld w 16 5) (fld w 8 3) (fld w 7 1))
  else if bits w 16 5 = 0 ∧ bits w 0 8 = 5 then some (Instr.vbcast (fld w 21 5) (fld w 11 5) (fld w 8 3))
  else if bits w 11 10 = 0 ∧ bits w 0 8 = 6 then some (Instr.vidx (fld w 21 5) (fld w 8 3))
  else none

/-- Words of major 0x16 (R35, R36). -/
def decode16 (w : Nat) : Option Instr :=
  if bits w 11 5 = 0 ∧ bits w 0 7 = 0 then some (Instr.vrsum (fld w 21 5) (fld w 16 5) (fld w 8 3) (fld w 7 1))
  else if bits w 11 5 = 0 ∧ bits w 0 7 = 1 then some (Instr.vrmax (fld w 21 5) (fld w 16 5) (fld w 8 3) (fld w 7 1))
  else if bits w 11 5 = 0 ∧ bits w 0 7 = 2 then some (Instr.vrmin (fld w 21 5) (fld w 16 5) (fld w 8 3) (fld w 7 1))
  else if bits w 11 5 = 0 ∧ bits w 0 7 = 3 then some (Instr.vsmaxe (fld w 21 5) (fld w 16 5) (fld w 8 3) (fld w 7 1))
  else none

/-- Words of major 0x17 (R35, R36). -/
def decode17 (w : Nat) : Option Instr :=
  if bits w 11 5 = 0 ∧ bits w 0 7 = 0 then some (Instr.vcvt (fld w 21 5) (fld w 16 5) (fld w 8 3) (fld w 7 1))
  else if bits w 0 7 = 1 then some (Instr.vquant (fld w 21 5) (fld w 16 5) (fld w 11 5) (fld w 8 3) (fld w 7 1))
  else if bits w 0 7 = 2 then some (Instr.vdeq (fld w 21 5) (fld w 16 5) (fld w 11 5) (fld w 8 3) (fld w 7 1))
  else if bits w 11 5 = 0 ∧ bits w 0 7 = 3 then some (Instr.vpack (fld w 21 5) (fld w 16 5) (fld w 8 3) (fld w 7 1))
  else if bits w 11 5 = 0 ∧ bits w 0 7 = 4 then some (Instr.vunpk (fld w 21 5) (fld w 16 5) (fld w 8 3) (fld w 7 1))
  else none

/-- Words of major 0x18 (R35, R36). -/
def decode18 (w : Nat) : Option Instr :=
  if bits w 21 1 = 0 ∧ bits w 6 4 = 0 ∧ bits w 0 1 = 0 then some (Instr.rotc (fld w 22 4) (fld w 16 5) (fld w 10 6) (fld w 3 3) (fld w 2 1) (fld w 1 1))
  else if bits w 21 1 = 0 ∧ bits w 6 4 = 1 ∧ bits w 0 1 = 0 then some (Instr.rotcG (fld w 22 4) (fld w 16 5) (fld w 10 6) (fld w 3 3) (fld w 2 1) (fld w 1 1))
  else if bits w 21 1 = 0 ∧ bits w 6 4 = 4 ∧ bits w 0 1 = 0 then some (Instr.rotl (fld w 22 4) (fld w 16 5) (fld w 10 6) (fld w 3 3) (fld w 2 1) (fld w 1 1))
  else if bits w 21 1 = 0 ∧ bits w 6 4 = 5 ∧ bits w 0 1 = 0 then some (Instr.rotlG (fld w 22 4) (fld w 16 5) (fld w 10 6) (fld w 3 3) (fld w 2 1) (fld w 1 1))
  else if bits w 21 1 = 0 ∧ bits w 6 4 = 8 ∧ bits w 0 1 = 0 then some (Instr.roth (fld w 22 4) (fld w 16 5) (fld w 10 6) (fld w 3 3) (fld w 2 1) (fld w 1 1))
  else if bits w 21 1 = 0 ∧ bits w 6 4 = 9 ∧ bits w 0 1 = 0 then some (Instr.rothG (fld w 22 4) (fld w 16 5) (fld w 10 6) (fld w 3 3) (fld w 2 1) (fld w 1 1))
  else if bits w 21 1 = 0 ∧ bits w 6 4 = 2 ∧ bits w 0 1 = 0 then some (Instr.vtac (fld w 22 4) (fld w 16 5) (fld w 10 6) (fld w 3 3) (fld w 2 1) (fld w 1 1))
  else if bits w 21 1 = 0 ∧ bits w 6 4 = 3 ∧ bits w 0 1 = 0 then some (Instr.vtacG (fld w 22 4) (fld w 16 5) (fld w 10 6) (fld w 3 3) (fld w 2 1) (fld w 1 1))
  else if bits w 21 1 = 0 ∧ bits w 6 4 = 6 ∧ bits w 0 1 = 0 then some (Instr.vtal (fld w 22 4) (fld w 16 5) (fld w 10 6) (fld w 3 3) (fld w 2 1) (fld w 1 1))
  else if bits w 21 1 = 0 ∧ bits w 6 4 = 7 ∧ bits w 0 1 = 0 then some (Instr.vtalG (fld w 22 4) (fld w 16 5) (fld w 10 6) (fld w 3 3) (fld w 2 1) (fld w 1 1))
  else if bits w 21 1 = 0 ∧ bits w 6 4 = 10 ∧ bits w 0 1 = 0 then some (Instr.vtah (fld w 22 4) (fld w 16 5) (fld w 10 6) (fld w 3 3) (fld w 2 1) (fld w 1 1))
  else if bits w 21 1 = 0 ∧ bits w 6 4 = 11 ∧ bits w 0 1 = 0 then some (Instr.vtahG (fld w 22 4) (fld w 16 5) (fld w 10 6) (fld w 3 3) (fld w 2 1) (fld w 1 1))
  else none

/-- Words of major 0x19 (R35, R36). -/
def decode19 (w : Nat) : Option Instr :=
  if bits w 11 5 = 0 ∧ bits w 1 7 = 0 then some (Instr.vld (fld w 21 5) (fld w 16 5) (fld w 8 3) (fld w 0 1))
  else if bits w 1 7 = 4 then some (Instr.vlds (fld w 21 5) (fld w 16 5) (fld w 11 5) (fld w 8 3) (fld w 0 1))
  else if bits w 7 1 = 0 ∧ bits w 1 5 = 8 then some (Instr.vldx (fld w 21 5) (fld w 16 5) (fld w 11 5) (fld w 8 3) (fld w 6 1) (fld w 0 1))
  else if bits w 1 7 = 12 then some (Instr.vldb (fld w 21 5) (fld w 16 5) (fld w 11 5) (fld w 8 3) (fld w 0 1))
  else if bits w 1 7 = 16 then some (Instr.vldff (fld w 21 5) (fld w 16 5) (fld w 11 5) (fld w 8 3) (fld w 0 1))
  else if bits w 11 5 = 0 ∧ bits w 3 5 = 5 then some (Instr.vldseg (fld w 21 5) (fld w 16 5) (fld w 8 3) (fld w 0 3))
  else none

/-- Words of major 0x1A (R35, R36). -/
def decode1A (w : Nat) : Option Instr :=
  if bits w 11 5 = 0 ∧ bits w 0 7 = 0 then some (Instr.vst (fld w 21 5) (fld w 16 5) (fld w 8 3) (fld w 7 1))
  else if bits w 0 7 = 8 then some (Instr.vsts (fld w 21 5) (fld w 16 5) (fld w 11 5) (fld w 8 3) (fld w 7 1))
  else if bits w 0 6 = 16 then some (Instr.vstx (fld w 21 5) (fld w 16 5) (fld w 11 5) (fld w 8 3) (fld w 7 1) (fld w 6 1))
  else if bits w 0 7 = 24 then some (Instr.vstb (fld w 21 5) (fld w 16 5) (fld w 11 5) (fld w 8 3) (fld w 7 1))
  else if bits w 11 5 = 0 ∧ bits w 3 4 = 5 then some (Instr.vstseg (fld w 21 5) (fld w 16 5) (fld w 8 3) (fld w 7 1) (fld w 0 3))
  else none

/-- Words of major 0x1B (R35, R36). -/
def decode1B (w : Nat) : Option Instr :=
  if bits w 7 1 = 0 ∧ bits w 3 3 = 0 then some (Instr.vamoAdd (fld w 21 5) (fld w 16 5) (fld w 11 5) (fld w 8 3) (fld w 6 1) (fld w 0 3))
  else if bits w 7 1 = 0 ∧ bits w 3 3 = 1 then some (Instr.vamoMin (fld w 21 5) (fld w 16 5) (fld w 11 5) (fld w 8 3) (fld w 6 1) (fld w 0 3))
  else if bits w 7 1 = 0 ∧ bits w 3 3 = 2 then some (Instr.vamoMax (fld w 21 5) (fld w 16 5) (fld w 11 5) (fld w 8 3) (fld w 6 1) (fld w 0 3))
  else if bits w 7 1 = 0 ∧ bits w 3 3 = 3 then some (Instr.vamoSwap (fld w 21 5) (fld w 16 5) (fld w 11 5) (fld w 8 3) (fld w 6 1) (fld w 0 3))
  else if bits w 0 11 = 32 then some (Instr.accw (fld w 21 5) (fld w 16 5) (fld w 11 5))
  else if bits w 0 6 = 33 then some (Instr.vacc (fld w 21 5) (fld w 16 5) (fld w 11 5) (fld w 8 3) (fld w 7 1) (fld w 6 1))
  else if bits w 0 21 = 34 then some (Instr.accm (fld w 21 5))
  else if bits w 0 21 = 35 then some (Instr.accx (fld w 21 5))
  else none

/-- Words of major 0x1C (R35, R36). -/
def decode1C (w : Nat) : Option Instr :=
  if bits w 0 7 = 0 then some (Instr.vxlat (fld w 21 5) (fld w 16 5) (fld w 11 5) (fld w 8 3) (fld w 7 1))
  else if bits w 0 7 = 1 then some (Instr.vxlatFf (fld w 21 5) (fld w 16 5) (fld w 11 5) (fld w 8 3) (fld w 7 1))
  else none

/-- Words of major 0x1D (R35, R36). -/
def decode1D (w : Nat) : Option Instr :=
  if bits w 0 16 = 0 then some (Instr.bind (fld w 21 5) (fld w 16 5))
  else if bits w 0 21 = 1 then some (Instr.unbind (fld w 21 5))
  else none

/-- Words of major 0x1E (R35, R36). -/
def decode1E (w : Nat) : Option Instr :=
  if bits w 21 5 = 0 ∧ bits w 0 8 = 0 then some (Instr.vfetch (fld w 16 5) (fld w 11 5) (fld w 8 3))
  else if bits w 21 5 = 0 ∧ bits w 11 5 = 0 ∧ bits w 0 7 = 1 then some (Instr.lfetch (fld w 16 5) (fld w 8 3) (fld w 7 1))
  else if bits w 0 26 = 2 then some (Instr.lstop)
  else if bits w 0 21 = 3 then some (Instr.vjoin (fld w 21 5))
  else none

/-- Words of major 0x1F (R35, R36). -/
def decode1F (w : Nat) : Option Instr :=
  if bits w 24 2 = 0 ∧ bits w 0 8 = 0 then some (Instr.tmask (fld w 21 3) (fld w 16 5) (fld w 11 5) (fld w 8 3))
  else if bits w 0 11 = 1 then some (Instr.tadv (fld w 21 5) (fld w 16 5) (fld w 11 5))
  else if bits w 0 7 = 2 then some (Instr.smax (fld w 21 5) (fld w 16 5) (fld w 11 5) (fld w 8 3) (fld w 7 1))
  else if bits w 0 7 = 3 then some (Instr.sexp (fld w 21 5) (fld w 16 5) (fld w 11 5) (fld w 8 3) (fld w 7 1))
  else if bits w 0 7 = 4 then some (Instr.spick (fld w 21 5) (fld w 16 5) (fld w 11 5) (fld w 8 3) (fld w 7 1))
  else if bits w 0 11 = 5 then some (Instr.srand (fld w 21 5) (fld w 16 5) (fld w 11 5))
  else none

/-- Words of major 0x20 (R35, R36). -/
def decode20 (w : Nat) : Option Instr :=
  if bits w 24 2 = 0 ∧ bits w 0 5 = 0 then some (Instr.mop (fld w 21 3) (fld w 16 5) (fld w 11 5) (fld w 8 3) (fld w 5 3))
  else if bits w 24 2 = 0 ∧ bits w 0 5 = 1 then some (Instr.mopS (fld w 21 3) (fld w 16 5) (fld w 11 5) (fld w 8 3) (fld w 5 3))
  else if bits w 24 2 = 0 ∧ bits w 21 1 = 0 ∧ bits w 0 5 = 2 then some (Instr.mopx (fld w 22 2) (fld w 16 5) (fld w 11 5) (fld w 8 3) (fld w 5 3))
  else none

/-- Words of major 0x21 (R35, R36). -/
def decode21 (w : Nat) : Option Instr :=
  if bits w 11 15 = 0 ∧ bits w 0 8 = 0 then some (Instr.tattach (fld w 8 3))
  else if bits w 0 26 = 1 then some (Instr.tdetach)
  else if bits w 24 2 = 0 ∧ bits w 0 21 = 2 then some (Instr.ten (fld w 21 3))
  else if bits w 24 2 = 0 ∧ bits w 0 21 = 3 then some (Instr.tdis (fld w 21 3))
  else if bits w 24 2 = 0 ∧ bits w 0 21 = 4 then some (Instr.tzero (fld w 21 3))
  else if bits w 24 2 = 0 ∧ bits w 0 8 = 5 then some (Instr.tmovv (fld w 21 3) (fld w 16 5) (fld w 11 5) (fld w 8 3))
  else if bits w 24 2 = 0 ∧ bits w 0 8 = 37 then some (Instr.tmovvC (fld w 21 3) (fld w 16 5) (fld w 11 5) (fld w 8 3))
  else if bits w 24 2 = 0 ∧ bits w 0 8 = 6 then some (Instr.tmovt (fld w 21 3) (fld w 16 5) (fld w 11 5) (fld w 8 3))
  else if bits w 24 2 = 0 ∧ bits w 0 8 = 38 then some (Instr.tmovtC (fld w 21 3) (fld w 16 5) (fld w 11 5) (fld w 8 3))
  else if bits w 24 2 = 0 ∧ bits w 0 5 = 7 then some (Instr.tld (fld w 21 3) (fld w 16 5) (fld w 11 5) (fld w 8 3) (fld w 5 3))
  else if bits w 24 2 = 0 ∧ bits w 0 5 = 8 then some (Instr.tst (fld w 21 3) (fld w 16 5) (fld w 11 5) (fld w 8 3) (fld w 5 3))
  else none

/-- Words of major 0x22 (R35, R36). -/
def decode22 (w : Nat) : Option Instr :=
  if bits w 21 5 = 0 ∧ bits w 0 16 = 0 then some (Instr.lpart (fld w 16 5))
  else if bits w 0 8 = 1 then some (Instr.cmpt (fld w 21 5) (fld w 16 5) (fld w 11 5) (fld w 8 3))
  else if bits w 0 8 = 2 then some (Instr.scat (fld w 21 5) (fld w 16 5) (fld w 11 5) (fld w 8 3))
  else none

/-- Words of major 0x23 (R35, R36). -/
def decode23 (w : Nat) : Option Instr :=
  if bits w 21 5 = 0 ∧ bits w 0 16 = 0 then some (Instr.ecpy (fld w 16 5))
  else if bits w 21 5 = 0 ∧ bits w 0 16 = 1 then some (Instr.eloop (fld w 16 5))
  else if bits w 21 5 = 0 ∧ bits w 0 16 = 2 then some (Instr.efoot (fld w 16 5))
  else none

/-- Words of major 0x24 (R35, R36). -/
def decode24 (w : Nat) : Option Instr :=
  if bits w 0 11 = 0 then some (Instr.kfork (fld w 21 5) (fld w 16 5) (fld w 11 5))
  else if bits w 0 11 = 1 then some (Instr.kdrop (fld w 21 5) (fld w 16 5) (fld w 11 5))
  else if bits w 0 11 = 2 then some (Instr.kspl (fld w 21 5) (fld w 16 5) (fld w 11 5))
  else if bits w 0 11 = 3 then some (Instr.krep (fld w 21 5) (fld w 16 5) (fld w 11 5))
  else if bits w 0 16 = 4 then some (Instr.kprovRd (fld w 21 5) (fld w 16 5))
  else if bits w 0 11 = 36 then some (Instr.kprovLive (fld w 21 5) (fld w 16 5) (fld w 11 5))
  else if bits w 0 16 = 68 then some (Instr.kprovRet (fld w 21 5) (fld w 16 5))
  else if bits w 0 16 = 100 then some (Instr.kprovFree (fld w 21 5) (fld w 16 5))
  else if bits w 0 11 = 5 then some (Instr.kchk (fld w 21 5) (fld w 16 5) (fld w 11 5))
  else if bits w 0 11 = 37 then some (Instr.kchkF (fld w 21 5) (fld w 16 5) (fld w 11 5))
  else none

/-- Words of major 0x25 (R35, R36). -/
def decode25 (w : Nat) : Option Instr :=
  if bits w 21 5 = 0 ∧ bits w 0 16 = 0 then some (Instr.odeclR (fld w 16 5))
  else if bits w 21 5 = 0 ∧ bits w 0 16 = 32 then some (Instr.odeclW (fld w 16 5))
  else if bits w 0 21 = 1 then some (Instr.obeg (fld w 21 5))
  else if bits w 0 26 = 2 then some (Instr.ocom)
  else none

/-- Words of major 0x26 (R35, R36). -/
def decode26 (w : Nat) : Option Instr :=
  if bits w 0 16 = 0 then some (Instr.sspec (fld w 21 5) (fld w 16 5))
  else if bits w 0 21 = 1 then some (Instr.sdrain (fld w 21 5))
  else none

/-- Words of major 0x27 (R35, R36). -/
def decode27 (w : Nat) : Option Instr :=
  if bits w 10 1 = 0 ∧ bits w 0 5 = 0 then some (Instr.wait (fld w 21 5) (fld w 16 5) (fld w 11 5) (fld w 8 2) (fld w 5 3))
  else if bits w 0 16 = 1 then some (Instr.vfull (fld w 21 5) (fld w 16 5))
  else if bits w 0 16 = 2 then some (Instr.vempty (fld w 21 5) (fld w 16 5))
  else none

/-- The long form (R37): the word of major 0x3F and its payload. -/
def decode3F (w p : Nat) : Option Instr :=
  if bits w 20 6 = 0 ∧ bits w 0 15 = 0 then some (Instr.limm (fld w 15 5) (fld p 0 32))
  else if bits w 20 6 = 1 ∧ bits w 0 15 = 0 then some (Instr.limmh (fld w 15 5) (fld p 0 32))
  else none

/-- The instruction of a defined major, before its reserved field values are refused. -/
def decodeDefined (w p : Nat) : Option Instr :=
  match w / 2 ^ 26 with
  | 0 => decode00 w
  | 1 => decode01 w
  | 2 => decode02 w
  | 3 => decode03 w
  | 4 => decode04 w
  | 5 => decode05 w
  | 6 => decode06 w
  | 7 => decode07 w
  | 8 => decode08 w
  | 9 => decode09 w
  | 10 => decode0A w
  | 11 => decode0B w
  | 12 => decode0C w
  | 13 => decode0D w
  | 14 => decode0E w
  | 15 => decode0F w
  | 16 => decode10 w
  | 17 => decode11 w
  | 18 => decode12 w
  | 19 => decode13 w
  | 20 => decode14 w
  | 21 => decode15 w
  | 22 => decode16 w
  | 23 => decode17 w
  | 24 => decode18 w
  | 25 => decode19 w
  | 26 => decode1A w
  | 27 => decode1B w
  | 28 => decode1C w
  | 29 => decode1D w
  | 30 => decode1E w
  | 31 => decode1F w
  | 32 => decode20 w
  | 33 => decode21 w
  | 34 => decode22 w
  | 35 => decode23 w
  | 36 => decode24 w
  | 37 => decode25 w
  | 38 => decode26 w
  | 39 => decode27 w
  | 63 => decode3F w p
  | _ => none

/-- The instruction of a word (and of the payload word after it, which only a long form uses). Total. -/
def decodeWord (w p : Nat) : Instr :=
  if 0x28 ≤ w / 2 ^ 26 ∧ w / 2 ^ 26 ≤ 0x3E then .undefinedOpcode (fld w 0 32)
  else match decodeDefined w p with
    | some i => if i.wf then i else .illegalInstruction (fld w 0 32)
    | none => .illegalInstruction (fld w 0 32)

/-- Whether the word opens a long form, whose payload is fetched too (R31). -/
def isLong (w : Nat) : Bool := w / 2 ^ 26 == 63

/-- Bytes an instruction takes (R31). -/
def instrBytes (w : Nat) : Nat := if isLong w then 8 else 4

/-- The natural number of bytes stored little-endian (R31). -/
def leNat : List Byte → Nat
  | [] => 0
  | b :: bs => b.toNat + 256 * leNat bs

/-- Reading an instruction from bytes: the instruction and the bytes after it; none when a word is not whole. -/
def decodeBytes (bs : List Byte) : Option (Instr × List Byte) :=
  if bs.length < 4 then none
  else
    let w := leNat (bs.take 4)
    if isLong w then
      if bs.length < 8 then none
      else some (decodeWord w (leNat ((bs.drop 4).take 4)), bs.drop 8)
    else some (decodeWord w 0, bs.drop 4)

/-- `n` as `k` bytes, least significant first. -/
def natLe : Nat → Nat → List Byte
  | 0, _ => []
  | k + 1, n => BitVec.ofNat 8 n :: natLe k (n / 256)

/-- The decoder on a word numbered as the opcode table numbers its bits: bit 0 is the least significant bit of the
first word and the payload counts on from bit 32; bits above `nbits` are zero. -/
def decodeTableWord (nbits w : Nat) : Option Instr :=
  match decodeBytes (natLe 8 (w % 2 ^ nbits)) with
  | some (i, _) => some i
  | none => none

/-- A field at its place in the word. -/
def place {n : Nat} (x : BitVec n) (lo : Nat) : Nat := x.toNat * 2 ^ lo

/-- The words of an instruction (none for a device step, which has no encoding). -/
def encode : Instr → Option (List Nat)
  | .trap c => some [0x0 + place c 5]
  | .eret => some [0x1]
  | .ebreak => some [0x2]
  | .fence m s => some [0x3 + place m 11 + place s 5]
  | .sbar m => some [0x4 + place m 11]
  | .gets d n => some [0x5 + place d 21 + place n 11]
  | .puts a n => some [0x6 + place a 16 + place n 11]
  | .prog => some [0x7]
  | .yield => some [0x8]
  | .halt => some [0x9]
  | .cvy => some [0xa]
  | .seed d => some [0xb + place d 21]
  | .endk => some [0x3ffffff]
  | .undefinedOpcode w => some [w.toNat]
  | .add d a b => some [0x4000000 + place d 21 + place a 16 + place b 11]
  | .sub d a b => some [0x4000001 + place d 21 + place a 16 + place b 11]
  | .mul d a b => some [0x4000002 + place d 21 + place a 16 + place b 11]
  | .mulh d a b => some [0x4000003 + place d 21 + place a 16 + place b 11]
  | .div d a b => some [0x4000004 + place d 21 + place a 16 + place b 11]
  | .divn d a b => some [0x4000005 + place d 21 + place a 16 + place b 11]
  | .rem d a b => some [0x4000006 + place d 21 + place a 16 + place b 11]
  | .remn d a b => some [0x4000007 + place d 21 + place a 16 + place b 11]
  | .and d a b => some [0x4000008 + place d 21 + place a 16 + place b 11]
  | .or d a b => some [0x4000009 + place d 21 + place a 16 + place b 11]
  | .xor d a b => some [0x400000a + place d 21 + place a 16 + place b 11]
  | .andn d a b => some [0x400000b + place d 21 + place a 16 + place b 11]
  | .sll d a b => some [0x400000c + place d 21 + place a 16 + place b 11]
  | .srl d a b => some [0x400000d + place d 21 + place a 16 + place b 11]
  | .sra d a b => some [0x400000e + place d 21 + place a 16 + place b 11]
  | .slt d a b => some [0x400000f + place d 21 + place a 16 + place b 11]
  | .sltn d a b => some [0x4000010 + place d 21 + place a 16 + place b 11]
  | .min d a b => some [0x4000011 + place d 21 + place a 16 + place b 11]
  | .max d a b => some [0x4000012 + place d 21 + place a 16 + place b 11]
  | .minn d a b => some [0x4000013 + place d 21 + place a 16 + place b 11]
  | .maxn d a b => some [0x4000014 + place d 21 + place a 16 + place b 11]
  | .clz d a => some [0x4000015 + place d 21 + place a 16]
  | .ctz d a => some [0x4000016 + place d 21 + place a 16]
  | .popc d a => some [0x4000017 + place d 21 + place a 16]
  | .addi d a i => some [0x8000000 + place d 21 + place a 16 + place i 0]
  | .andi d a i => some [0xc000000 + place d 21 + place a 16 + place i 0]
  | .ori d a i => some [0x10000000 + place d 21 + place a 16 + place i 0]
  | .xori d a i => some [0x14000000 + place d 21 + place a 16 + place i 0]
  | .slli d a h => some [0x18000000 + place d 21 + place a 16 + place h 0]
  | .srli d a h => some [0x18004000 + place d 21 + place a 16 + place h 0]
  | .srai d a h => some [0x18008000 + place d 21 + place a 16 + place h 0]
  | .lui d i => some [0x1c000000 + place d 21 + place i 0]
  | .limm d p => some [0xFC000000 + place d 15, p.toNat]
  | .limmh d p => some [0xFC100000 + place d 15, p.toNat]
  | .ldb d a o => some [0x20000000 + place d 21 + place a 16 + place o 0]
  | .ldh d a o => some [0x20004000 + place d 21 + place a 16 + place o 0]
  | .ldw d a o => some [0x20008000 + place d 21 + place a 16 + place o 0]
  | .ldd d a o => some [0x2000c000 + place d 21 + place a 16 + place o 0]
  | .ldbS d a o => some [0x20002000 + place d 21 + place a 16 + place o 0]
  | .ldhS d a o => some [0x20006000 + place d 21 + place a 16 + place o 0]
  | .ldwS d a o => some [0x2000a000 + place d 21 + place a 16 + place o 0]
  | .stb d a o => some [0x24000000 + place d 21 + place a 16 + place o 0]
  | .sth d a o => some [0x24004000 + place d 21 + place a 16 + place o 0]
  | .stw d a o => some [0x24008000 + place d 21 + place a 16 + place o 0]
  | .std d a o => some [0x2400c000 + place d 21 + place a 16 + place o 0]
  | .amoAdd d a b s z => some [0x28000000 + place d 21 + place a 16 + place b 11 + place s 4 + place z 2]
  | .amoSwap d a b s z => some [0x28000080 + place d 21 + place a 16 + place b 11 + place s 4 + place z 2]
  | .amoCas d a b s z => some [0x28000100 + place d 21 + place a 16 + place b 11 + place s 4 + place z 2]
  | .amoMin d a b s z => some [0x28000180 + place d 21 + place a 16 + place b 11 + place s 4 + place z 2]
  | .amoMax d a b s z => some [0x28000200 + place d 21 + place a 16 + place b 11 + place s 4 + place z 2]
  | .amoAnd d a b s z => some [0x28000280 + place d 21 + place a 16 + place b 11 + place s 4 + place z 2]
  | .amoOr d a b s z => some [0x28000300 + place d 21 + place a 16 + place b 11 + place s 4 + place z 2]
  | .amoXor d a b s z => some [0x28000380 + place d 21 + place a 16 + place b 11 + place s 4 + place z 2]
  | .ldAcq d a s z => some [0x28000400 + place d 21 + place a 16 + place s 4 + place z 2]
  | .stRel a b s z => some [0x28000480 + place a 16 + place b 11 + place s 4 + place z 2]
  | .beq a b o => some [0x2c000000 + place a 21 + place b 16 + place o 0]
  | .bne a b o => some [0x2c002000 + place a 21 + place b 16 + place o 0]
  | .blt a b o => some [0x2c004000 + place a 21 + place b 16 + place o 0]
  | .bge a b o => some [0x2c006000 + place a 21 + place b 16 + place o 0]
  | .bltn a b o => some [0x2c008000 + place a 21 + place b 16 + place o 0]
  | .bgen a b o => some [0x2c00a000 + place a 21 + place b 16 + place o 0]
  | .jal o => some [0x30000000 + place o 0]
  | .jalr d a i => some [0x34000000 + place d 21 + place a 16 + place i 0]
  | .slti d a i => some [0x38000000 + place d 21 + place a 16 + place i 0]
  | .vsetlb a b e o => some [0x3c000000 + place a 21 + place b 16 + place e 13 + place o 0]
  | .vcfg d t f g => some [0x40000000 + place d 21 + place t 16 + place f 3 + place g 1]
  | .vcfgw d w s => some [0x40000200 + place d 21 + place w 6 + place s 3]
  | .vsetl d a e g => some [0x40000400 + place d 21 + place a 16 + place e 6 + place g 4]
  | .vtag d a => some [0x40000600 + place d 21 + place a 16]
  | .vadd d a b k w x => some [0x44000000 + place d 21 + place a 16 + place b 11 + place k 8 + place w 7 + place x 6]
  | .vsub d a b k w x => some [0x44000001 + place d 21 + place a 16 + place b 11 + place k 8 + place w 7 + place x 6]
  | .vmul d a b k w x => some [0x44000002 + place d 21 + place a 16 + place b 11 + place k 8 + place w 7 + place x 6]
  | .vfma d a b k w x => some [0x44000003 + place d 21 + place a 16 + place b 11 + place k 8 + place w 7 + place x 6]
  | .vmin d a b k w x => some [0x44000004 + place d 21 + place a 16 + place b 11 + place k 8 + place w 7 + place x 6]
  | .vmax d a b k w x => some [0x44000005 + place d 21 + place a 16 + place b 11 + place k 8 + place w 7 + place x 6]
  | .vabs d a k w => some [0x44000006 + place d 21 + place a 16 + place k 8 + place w 7]
  | .vneg d a k w => some [0x44000007 + place d 21 + place a 16 + place k 8 + place w 7]
  | .vand d a b k w x => some [0x44000008 + place d 21 + place a 16 + place b 11 + place k 8 + place w 7 + place x 6]
  | .vor d a b k w x => some [0x44000009 + place d 21 + place a 16 + place b 11 + place k 8 + place w 7 + place x 6]
  | .vxor d a b k w x => some [0x4400000a + place d 21 + place a 16 + place b 11 + place k 8 + place w 7 + place x 6]
  | .vshl d a b k w x => some [0x4400000b + place d 21 + place a 16 + place b 11 + place k 8 + place w 7 + place x 6]
  | .vshr d a b k w x => some [0x4400000c + place d 21 + place a 16 + place b 11 + place k 8 + place w 7 + place x 6]
  | .vadc d a b k w x => some [0x4400000d + place d 21 + place a 16 + place b 11 + place k 8 + place w 7 + place x 6]
  | .vsbc d a b k w x => some [0x4400000e + place d 21 + place a 16 + place b 11 + place k 8 + place w 7 + place x 6]
  | .vmov d a k w => some [0x4400000f + place d 21 + place a 16 + place k 8 + place w 7]
  | .vsel d a b k w x => some [0x44000010 + place d 21 + place a 16 + place b 11 + place k 8 + place w 7 + place x 6]
  | .vadds d a b k w => some [0x48000000 + place d 21 + place a 16 + place b 11 + place k 8 + place w 7]
  | .vsubs d a b k w => some [0x48000001 + place d 21 + place a 16 + place b 11 + place k 8 + place w 7]
  | .vmuls d a b k w => some [0x48000002 + place d 21 + place a 16 + place b 11 + place k 8 + place w 7]
  | .vfmas d a b k w => some [0x48000003 + place d 21 + place a 16 + place b 11 + place k 8 + place w 7]
  | .vmins d a b k w => some [0x48000004 + place d 21 + place a 16 + place b 11 + place k 8 + place w 7]
  | .vmaxs d a b k w => some [0x48000005 + place d 21 + place a 16 + place b 11 + place k 8 + place w 7]
  | .vands d a b k w => some [0x48000008 + place d 21 + place a 16 + place b 11 + place k 8 + place w 7]
  | .vors d a b k w => some [0x48000009 + place d 21 + place a 16 + place b 11 + place k 8 + place w 7]
  | .vxors d a b k w => some [0x4800000a + place d 21 + place a 16 + place b 11 + place k 8 + place w 7]
  | .vshls d a b k w => some [0x4800000b + place d 21 + place a 16 + place b 11 + place k 8 + place w 7]
  | .vshrs d a b k w => some [0x4800000c + place d 21 + place a 16 + place b 11 + place k 8 + place w 7]
  | .vsels d a b k w => some [0x48000010 + place d 21 + place a 16 + place b 11 + place k 8 + place w 7]
  | .vceq d a b k w x => some [0x4c000000 + place d 21 + place a 16 + place b 11 + place k 8 + place w 7 + place x 6]
  | .vcne d a b k w x => some [0x4c000001 + place d 21 + place a 16 + place b 11 + place k 8 + place w 7 + place x 6]
  | .vclt d a b k w x => some [0x4c000002 + place d 21 + place a 16 + place b 11 + place k 8 + place w 7 + place x 6]
  | .vcge d a b k w x => some [0x4c000003 + place d 21 + place a 16 + place b 11 + place k 8 + place w 7 + place x 6]
  | .vceqs d a b k w x => some [0x4c000004 + place d 21 + place a 16 + place b 11 + place k 8 + place w 7 + place x 6]
  | .vcnes d a b k w x => some [0x4c000005 + place d 21 + place a 16 + place b 11 + place k 8 + place w 7 + place x 6]
  | .vclts d a b k w x => some [0x4c000006 + place d 21 + place a 16 + place b 11 + place k 8 + place w 7 + place x 6]
  | .vcges d a b k w x => some [0x4c000007 + place d 21 + place a 16 + place b 11 + place k 8 + place w 7 + place x 6]
  | .mand d a b => some [0x50000000 + place d 21 + place a 16 + place b 11]
  | .mor d a b => some [0x50000001 + place d 21 + place a 16 + place b 11]
  | .mxor d a b => some [0x50000002 + place d 21 + place a 16 + place b 11]
  | .mnot d a => some [0x50000003 + place d 21 + place a 16]
  | .mpop d a => some [0x50000004 + place d 21 + place a 16]
  | .mfirst d a => some [0x50000005 + place d 21 + place a 16]
  | .mshup d a => some [0x50000006 + place d 21 + place a 16]
  | .mset d => some [0x50000007 + place d 21]
  | .mclr d => some [0x50000008 + place d 21]
  | .vslideup d a b k w => some [0x54000000 + place d 21 + place a 16 + place b 11 + place k 8 + place w 7]
  | .vslidedn d a b k w => some [0x54000001 + place d 21 + place a 16 + place b 11 + place k 8 + place w 7]
  | .vgath d a b k w x => some [0x54000002 + place d 21 + place a 16 + place b 11 + place k 8 + place w 7 + place x 6]
  | .vcomp d a b k w => some [0x54000003 + place d 21 + place a 16 + place b 11 + place k 8 + place w 7]
  | .vexpd d a k w => some [0x54000004 + place d 21 + place a 16 + place k 8 + place w 7]
  | .vbcast d b k => some [0x54000005 + place d 21 + place b 11 + place k 8]
  | .vidx d k => some [0x54000006 + place d 21 + place k 8]
  | .vrsum d a k w => some [0x58000000 + place d 21 + place a 16 + place k 8 + place w 7]
  | .vrmax d a k w => some [0x58000001 + place d 21 + place a 16 + place k 8 + place w 7]
  | .vrmin d a k w => some [0x58000002 + place d 21 + place a 16 + place k 8 + place w 7]
  | .vsmaxe d a k w => some [0x58000003 + place d 21 + place a 16 + place k 8 + place w 7]
  | .vcvt d a k w => some [0x5c000000 + place d 21 + place a 16 + place k 8 + place w 7]
  | .vquant d a b k w => some [0x5c000001 + place d 21 + place a 16 + place b 11 + place k 8 + place w 7]
  | .vdeq d a b k w => some [0x5c000002 + place d 21 + place a 16 + place b 11 + place k 8 + place w 7]
  | .vpack d a k w => some [0x5c000003 + place d 21 + place a 16 + place k 8 + place w 7]
  | .vunpk d a k w => some [0x5c000004 + place d 21 + place a 16 + place k 8 + place w 7]
  | .rotc p z n k w x => some [0x60000000 + place p 22 + place z 16 + place n 10 + place k 3 + place w 2 + place x 1]
  | .rotcG p z n k w x => some [0x60000040 + place p 22 + place z 16 + place n 10 + place k 3 + place w 2 + place x 1]
  | .rotl p z n k w x => some [0x60000100 + place p 22 + place z 16 + place n 10 + place k 3 + place w 2 + place x 1]
  | .rotlG p z n k w x => some [0x60000140 + place p 22 + place z 16 + place n 10 + place k 3 + place w 2 + place x 1]
  | .roth p z n k w x => some [0x60000200 + place p 22 + place z 16 + place n 10 + place k 3 + place w 2 + place x 1]
  | .rothG p z n k w x => some [0x60000240 + place p 22 + place z 16 + place n 10 + place k 3 + place w 2 + place x 1]
  | .vtac p z n k w x => some [0x60000080 + place p 22 + place z 16 + place n 10 + place k 3 + place w 2 + place x 1]
  | .vtacG p z n k w x => some [0x600000c0 + place p 22 + place z 16 + place n 10 + place k 3 + place w 2 + place x 1]
  | .vtal p z n k w x => some [0x60000180 + place p 22 + place z 16 + place n 10 + place k 3 + place w 2 + place x 1]
  | .vtalG p z n k w x => some [0x600001c0 + place p 22 + place z 16 + place n 10 + place k 3 + place w 2 + place x 1]
  | .vtah p z n k w x => some [0x60000280 + place p 22 + place z 16 + place n 10 + place k 3 + place w 2 + place x 1]
  | .vtahG p z n k w x => some [0x600002c0 + place p 22 + place z 16 + place n 10 + place k 3 + place w 2 + place x 1]
  | .vld d a k r => some [0x64000000 + place d 21 + place a 16 + place k 8 + place r 0]
  | .vlds d a b k r => some [0x64000008 + place d 21 + place a 16 + place b 11 + place k 8 + place r 0]
  | .vldx d a b k x r => some [0x64000010 + place d 21 + place a 16 + place b 11 + place k 8 + place x 6 + place r 0]
  | .vldb d a b k r => some [0x64000018 + place d 21 + place a 16 + place b 11 + place k 8 + place r 0]
  | .vldff d a b k r => some [0x64000020 + place d 21 + place a 16 + place b 11 + place k 8 + place r 0]
  | .vldseg d a k f => some [0x64000028 + place d 21 + place a 16 + place k 8 + place f 0]
  | .vst d a k w => some [0x68000000 + place d 21 + place a 16 + place k 8 + place w 7]
  | .vsts d a b k w => some [0x68000008 + place d 21 + place a 16 + place b 11 + place k 8 + place w 7]
  | .vstx d a b k w x => some [0x68000010 + place d 21 + place a 16 + place b 11 + place k 8 + place w 7 + place x 6]
  | .vstb d a b k w => some [0x68000018 + place d 21 + place a 16 + place b 11 + place k 8 + place w 7]
  | .vstseg d a k w f => some [0x68000028 + place d 21 + place a 16 + place k 8 + place w 7 + place f 0]
  | .vamoAdd d a b k x s => some [0x6c000000 + place d 21 + place a 16 + place b 11 + place k 8 + place x 6 + place s 0]
  | .vamoMin d a b k x s => some [0x6c000008 + place d 21 + place a 16 + place b 11 + place k 8 + place x 6 + place s 0]
  | .vamoMax d a b k x s => some [0x6c000010 + place d 21 + place a 16 + place b 11 + place k 8 + place x 6 + place s 0]
  | .vamoSwap d a b k x s => some [0x6c000018 + place d 21 + place a 16 + place b 11 + place k 8 + place x 6 + place s 0]
  | .accw d a b => some [0x6c000020 + place d 21 + place a 16 + place b 11]
  | .vacc d a b k w x => some [0x6c000021 + place d 21 + place a 16 + place b 11 + place k 8 + place w 7 + place x 6]
  | .accm d => some [0x6c000022 + place d 21]
  | .accx d => some [0x6c000023 + place d 21]
  | .vxlat d a b k w => some [0x70000000 + place d 21 + place a 16 + place b 11 + place k 8 + place w 7]
  | .vxlatFf d a b k w => some [0x70000001 + place d 21 + place a 16 + place b 11 + place k 8 + place w 7]
  | .bind d a => some [0x74000000 + place d 21 + place a 16]
  | .unbind d => some [0x74000001 + place d 21]
  | .vfetch a b k => some [0x78000000 + place a 16 + place b 11 + place k 8]
  | .lfetch a k w => some [0x78000001 + place a 16 + place k 8 + place w 7]
  | .lstop => some [0x78000002]
  | .vjoin d => some [0x78000003 + place d 21]
  | .tmask d a b k => some [0x7c000000 + place d 21 + place a 16 + place b 11 + place k 8]
  | .tadv d a b => some [0x7c000001 + place d 21 + place a 16 + place b 11]
  | .smax d a b k w => some [0x7c000002 + place d 21 + place a 16 + place b 11 + place k 8 + place w 7]
  | .sexp d a b k w => some [0x7c000003 + place d 21 + place a 16 + place b 11 + place k 8 + place w 7]
  | .spick d a b k w => some [0x7c000004 + place d 21 + place a 16 + place b 11 + place k 8 + place w 7]
  | .srand d a b => some [0x7c000005 + place d 21 + place a 16 + place b 11]
  | .mop t a b r c => some [0x80000000 + place t 21 + place a 16 + place b 11 + place r 8 + place c 5]
  | .mopS t a b r c => some [0x80000001 + place t 21 + place a 16 + place b 11 + place r 8 + place c 5]
  | .mopx t a b r c => some [0x80000002 + place t 22 + place a 16 + place b 11 + place r 8 + place c 5]
  | .tattach q => some [0x84000000 + place q 8]
  | .tdetach => some [0x84000001]
  | .ten t => some [0x84000002 + place t 21]
  | .tdis t => some [0x84000003 + place t 21]
  | .tzero t => some [0x84000004 + place t 21]
  | .tmovv t d b k => some [0x84000005 + place t 21 + place d 16 + place b 11 + place k 8]
  | .tmovvC t d b k => some [0x84000025 + place t 21 + place d 16 + place b 11 + place k 8]
  | .tmovt t a b k => some [0x84000006 + place t 21 + place a 16 + place b 11 + place k 8]
  | .tmovtC t a b k => some [0x84000026 + place t 21 + place a 16 + place b 11 + place k 8]
  | .tld t a b r c => some [0x84000007 + place t 21 + place a 16 + place b 11 + place r 8 + place c 5]
  | .tst t a b r c => some [0x84000008 + place t 21 + place a 16 + place b 11 + place r 8 + place c 5]
  | .lpart a => some [0x88000000 + place a 16]
  | .cmpt d a b k => some [0x88000001 + place d 21 + place a 16 + place b 11 + place k 8]
  | .scat d a b k => some [0x88000002 + place d 21 + place a 16 + place b 11 + place k 8]
  | .ecpy a => some [0x8c000000 + place a 16]
  | .eloop a => some [0x8c000001 + place a 16]
  | .efoot a => some [0x8c000002 + place a 16]
  | .kfork d a b => some [0x90000000 + place d 21 + place a 16 + place b 11]
  | .kdrop d a b => some [0x90000001 + place d 21 + place a 16 + place b 11]
  | .kspl d a b => some [0x90000002 + place d 21 + place a 16 + place b 11]
  | .krep d a b => some [0x90000003 + place d 21 + place a 16 + place b 11]
  | .kprovRd d a => some [0x90000004 + place d 21 + place a 16]
  | .kprovLive d a b => some [0x90000024 + place d 21 + place a 16 + place b 11]
  | .kprovRet d a => some [0x90000044 + place d 21 + place a 16]
  | .kprovFree d a => some [0x90000064 + place d 21 + place a 16]
  | .kchk d a b => some [0x90000005 + place d 21 + place a 16 + place b 11]
  | .kchkF d a b => some [0x90000025 + place d 21 + place a 16 + place b 11]
  | .odeclR a => some [0x94000000 + place a 16]
  | .odeclW a => some [0x94000020 + place a 16]
  | .obeg d => some [0x94000001 + place d 21]
  | .ocom => some [0x94000002]
  | .sspec n a => some [0x98000000 + place n 21 + place a 16]
  | .sdrain n => some [0x98000001 + place n 21]
  | .wait d a b z s => some [0x9c000000 + place d 21 + place a 16 + place b 11 + place z 8 + place s 5]
  | .vfull d a => some [0x9c000001 + place d 21 + place a 16]
  | .vempty d a => some [0x9c000002 + place d 21 + place a 16]
  | .hartPlacement _ => none
  | .hartWake => none
  | .hartReclaim => none
  | .producerLands => none
  | .compactionComplete _ => none
  | .streamReadAhead _ _ => none
  | .hardPreemption _ => none
  | .softRequestEscalation => none
  | .energyTick => none
  | .watchdogExpiry => none
  | .handlerOverrun => none
  | .gateArrival => none
  | .beatEnd => none
  | .batchAppend => none
  | .orderFirstGrant => none
  | .copyJob _ => none
  | .footprintComplete _ => none
  | .codeTableSwap _ => none
  | .eviction _ _ => none
  | .unconsumedError _ => none
  | .spareRemap _ _ _ => none
  | .peerPortLost _ => none
  | .eventRingPost _ => none
  | .startStage => none
  | .dieJoin _ => none
  | .powerStateChange => none
  | .aqctl _ => none
  | .tailq _ _ => none
  | .registerWrite _ _ => none
  | .packetFetch _ => none
  | .qcreate => none
  | .qdestroy => none
  | .load => none
  | .unload => none
  | .launch => none
  | .release => none
  | .cancel => none
  | .preempt => none
  | .tlbinv => none
  | .kvmap => none
  | .asidcfg => none
  | .fdring => none
  | .setbeat => none
  | .setltol => none
  | .kvevict => none
  | .whippletreeIssueCycle _ _ => none
  | .illegalInstruction w => some [w.toNat]
  | .accessPerforms _ => none
  | .peerPortRequest _ _ => none
  | .hostMemoryAccess _ => none

/-- Decoding the words that `encode` gives. -/
def decodeWords : List Nat → Option Instr
  | [w] => some (decodeWord w 0)
  | [w, p] => some (decodeWord w p)
  | _ => none

end Sys2Proof
end

