-- ==== Sys2Proof/Machine/Registers.lean ====
section
/-! DEFINITION. Device time, the command journal and event posts (R332, R334), and the host registers of BAR0
(R326, R327). -/

namespace Sys2Proof.Machine

/-- Device time in ns (R3). -/
def State.ns (s : State) : Nat := 2 * s.cycle / 5

/-! ## Journal and events -/

/-- A journal entry is written (R332). -/
def State.note (s : State) (queue opc kind : Nat) (outcome : Nat) (detail : BitVec 64) : State :=
  let prev : BitVec 256 := match s.journal.getLast? with
    | some e => e.chain
    | none => 0
  let d2 := queue + opc * 2 ^ 8 + kind * 2 ^ 16 + outcome * 2 ^ 32
  let bytes := natLe 32 prev.toNat ++ natLe 8 s.jhead.toNat ++ natLe 8 s.ns ++ natLe 8 d2 ++ natLe 8 detail.toNat
  let e : JEntry :=
    { seq := s.jhead, time := BitVec.ofNat 64 s.ns, queue := BitVec.ofNat 8 queue, opc := BitVec.ofNat 8 opc
      kind := BitVec.ofNat 8 kind, outcome := BitVec.ofNat 16 outcome, detail := detail, chain := Config.sm3 bytes }
  let j := s.journal ++ [e]
  { s with journal := j.drop (j.length - 1048576), jhead := s.jhead + 1 }

/-- An event is posted to a fault domain; it waits until its ring has room (R334). -/
def State.post (s : State) (e : FdEvent) : State := { s with events := s.events ++ [e] }

/-- A queue of the device (R327). -/
def State.queue? (s : State) (q : Nat) : Option Queue := s.queues.find? (fun x => x.id == q)

/-- A queue changed. -/
def State.setQueue (s : State) (q : Nat) (f : Queue → Queue) : State :=
  { s with queues := s.queues.map (fun x => if x.id = q then f x else x) }

/-- A queue enters its error state: journal kind 6 with OUTCOME 7, and the queue error is posted to domain 0 (R328).
The entry's DETAIL and the event's code are not given: free values. -/
def State.queueError (s : State) (q : Nat) : State :=
  ((s.setQueue q (fun x => { x with err := true })).note q 0 6 7 (Config.openDetail s.jhead.toNat)).post
    { fdom := 0, cause := Config.eventCause 0, detail := 0, rcb := 0, hidx := 0, trapbase := 0
      time := BitVec.ofNat 64 s.ns, frame := 0 }

/-! ## Power (R338) -/

/-- Exit latency of a power state in µs. -/
def exitLatency (p : Nat) : Nat := if p = 0 then 0 else if p = 1 then 2 else if p = 2 then 50 else if p = 3 then 2000 else 40000

/-- The deepest power state the enabled queues allow; A3 and A4 need every launch to have retired (R338). -/
def State.deepest (s : State) : Nat :=
  let ok (p : Nat) : Bool := s.queues.all (fun q => !q.enabled || decide (exitLatency p ≤ q.ltol.toNat))
    && (decide (p ≤ 2) || s.launches.isEmpty)
  (([4, 3, 2, 1] : List Nat).find? ok).getD 0

/-- The power state changed; a change between A2 or above and a deeper state writes a journal entry (R338, R332). -/
def State.setPower (s : State) (p : Nat) : State :=
  let s' := { s with pstate := BitVec.ofNat 3 p }
  if decide (s.pstate.toNat ≤ 2) == decide (p ≤ 2) then s' else s'.note 0 0 4 0 (BitVec.ofNat 64 p)

/-- A state deeper than the queues now allow is left at once (R338). -/
def State.powerUp (s : State) : State := if s.deepest < s.pstate.toNat then s.setPower s.deepest else s

/-! ## Registers -/

/-- The bits of AQCTL that name something (R326). -/
def aqctlMask : BitVec 64 := 0xFFFFFFFF0000011F

/-- A write of AQCTL sets queue 0's size, enable and latency tolerance (R326). Enabling it makes a fresh queue 0 at
AQBASE; a size outside 4 to 16 enables nothing (log entry 18). -/
def State.writeAqctl (s : State) (v : BitVec 64) : State :=
  State.powerUp <|
  let v := v &&& aqctlMask
  let k := bits v.toNat 0 5
  let ltol := v.extractLsb' 32 32
  let on := v.getLsbD 8 && decide (4 ≤ k) && decide (k ≤ 16)
  let s := { s with aqctl := v }
  match s.queue? 0 with
  | some q =>
    if q.enabled && on then s.setQueue 0 (fun q => { q with log2 := k, ltol := ltol })
    else if on then
      s.setQueue 0 (fun q => { q with base := s.aqbase, log2 := k, tail := 0, head := 0, enabled := true
                                      stopped := false, ltol := ltol })
    else s.setQueue 0 (fun q => { q with enabled := false, ltol := ltol })
  | none =>
    if on then
      { s with queues := { id := 0, base := s.aqbase, log2 := k, tail := 0, head := 0, enabled := true, err := false
                           stopped := false, ltol := ltol } :: s.queues }
    else s

/-- A doorbell: the tail index of queue q (R327). A queue that does not exist or is not enabled has none. -/
def State.writeTail (s : State) (q : Nat) (v : BitVec 32) : State :=
  match s.queue? q with
  | none => s
  | some x =>
    if !x.enabled || x.err then s
    else
      let s := s.setQueue q (fun x => { x with tail := v })
      if 2 ^ x.log2 < (v - x.head).toNat then s.queueError q else s

/-- A host register as it reads, by its offset in doublewords (R326). A WO register's value is not given. -/
def State.readReg (s : State) (n : Nat) : BitVec 64 :=
  if n = 0 then BitVec.ofNat 64 (s.stage % 4 + s.joined.toNat * 16 + (if s.verified then 256 else 0))
  else if n = 1 then s.aqbase
  else if n = 2 then s.aqctl
  else if n = 3 then s.jhead
  else if n = 4 then s.seedCount
  else if n = 5 then s.pstate.setWidth 64
  else if 512 ≤ n ∧ n < 1024 then
    if n % 2 = 0 then Config.openDetail n
    else match s.queue? ((n - 512) / 2) with
      | some q => q.head.setWidth 64
      | none => 0
  else 0

/-- A write of a host register, by its offset in doublewords (R326). RO registers and offsets not listed ignore it;
AQBASE is writable only while queue 0 is disabled, and takes a value that is not aligned too (log entry 111). -/
def State.writeReg (s : State) (n : Nat) (v : BitVec 64) : State :=
  if n = 1 then
    match s.queue? 0 with
    | some q => if q.enabled then s else { s with aqbase := v }
    | none => { s with aqbase := v }
  else if n = 2 then s.writeAqctl v
  else if 512 ≤ n ∧ n < 1024 ∧ n % 2 = 0 then s.writeTail ((n - 512) / 2) (v.setWidth 32)
  else s

/-! ## The read-only window of BAR2 (R326) -/

/-- The doublewords of a journal entry (R332). -/
def JEntry.words (e : JEntry) : List Nat :=
  [e.seq.toNat, e.time.toNat, e.queue.toNat + e.opc.toNat * 2 ^ 8 + e.kind.toNat * 2 ^ 16 + e.outcome.toNat * 2 ^ 32,
    e.detail.toNat] ++ (List.range 4).map (fun i => e.chain.toNat / 2 ^ (64 * i) % 2 ^ 64)

/-- The doublewords of a seed-log entry (R89). -/
def SeedEntry.words (e : SeedEntry) : List Nat :=
  [e.seedv.toNat, e.rcb.toNat, e.hidx.toNat + e.loc.toNat * 2 ^ 32 + e.ctx.toNat * 2 ^ 40, e.time.toNat]

/-- The entry that stands at a place of a ring of `size` entries, `count` having been written in all and the list holding
the last of them. -/
def ringEntry {α : Type} (l : List α) (count size i : Nat) : Option α :=
  (l.zipIdx (count - l.length)).findSome? (fun p => if p.2 % size = i then some p.1 else none)

/-- Entries of the journal ring and of the seed-log ring, and where the latter begins (R89, R326, R332). -/
def journalEntries : Nat := 1048576
def seedEntries : Nat := 4096
def seedWindow : Nat := 0x4000000

/-- A doubleword of the window: entry n of the journal stands at 64 × (n mod 1,048,576), the seed log from 0x400_0000. A
place that no entry has reached yet, and one that names nothing, reads as memory that nothing has written. -/
def State.windowWord (s : State) (n : Nat) : Nat :=
  if n < seedWindow / 8 then
    match ringEntry s.journal s.jhead.toNat journalEntries (n / 8) with
    | some e => e.words.getD (n % 8) 0
    | none => 0
  else match ringEntry s.seedLog s.seedCount.toNat seedEntries ((n - seedWindow / 8) / 4) with
    | some e => e.words.getD (n % 4) 0
    | none => 0

/-- A byte of the window. -/
def State.windowByte (s : State) (o : Nat) : Byte := BitVec.ofNat 8 (s.windowWord (o / 8) / 2 ^ (8 * (o % 8)))

/-- Where the registers behind BAR0 pages stand among the numbers of physical bytes, beyond all of memory. -/
def barBase : Nat := 2 ^ 60

/-- A byte of the registers. -/
def State.barByte (s : State) (o : Nat) : Byte := (s.readReg (o / 8)).extractLsb' (8 * (o % 8)) 8

/-- Bytes stored to the registers by a hart (R327): the doubleword they fall in, its other bytes as they read. -/
def State.barWrite (s : State) (o : Nat) (bs : List Byte) : State :=
  let n := o / 8
  let old := (s.readReg n).toNat
  let lo := 8 * (o % 8)
  let w := 8 * bs.length
  let new := old % 2 ^ lo + leNat bs * 2 ^ lo + old / 2 ^ (lo + w) * 2 ^ (lo + w)
  s.writeReg n (BitVec.ofNat 64 new)

end Sys2Proof.Machine
end

