-- ==== Sys2Proof/Machine/Ops.lean ====
section
/-! DEFINITION. The named operations: registers, memory in its canonical form, translation and the per-element checks of
R344, streams of accesses, the journal and event posts, and the one operation that takes an exception (R255) with the
save area it writes (R259, R260). -/

namespace Sys2Proof.Machine

/-! ## The focus -/

/-- The state with another hart context in focus. -/
def State.setHart (s : State) (h : Hart) : State := { s with hart := h }

/-- The state with the focused hart's context changed. -/
def State.upd (s : State) (f : Hart → Hart) : State := { s with hart := f s.hart }

/-! ## Scalar registers and the program counter -/

/-- Reading a scalar register; s0 reads as zero (R44). -/
def Hart.rd (h : Hart) (r : Reg) : Word := if r = 0 then 0 else h.sregs[r.toNat]'r.isLt

/-- Writing a scalar register; a write to s0 is discarded (R44, R58). -/
def Hart.wr (h : Hart) (r : Reg) (v : Word) : Hart :=
  if r = 0 then h else { h with sregs := h.sregs.set r.toNat v r.isLt }

/-- The program counter moved past an instruction of `n` bytes (R31). -/
def Hart.advance (h : Hart) (n : Nat) : Hart := { h with pc := h.pc + BitVec.ofNat 64 n }

/-- FLAGS with bits set; the device only ever sets them (R51). -/
def Hart.raise (h : Hart) (bits : Nat) : Hart := { h with flags := h.flags ||| BitVec.ofNat 64 bits }

/-- ECNT raised by a charge; it saturates and sets ESAT (R269). -/
def Hart.spend (h : Hart) (n : Nat) : Hart :=
  if h.ecnt.toNat + n < 2 ^ 48 then { h with ecnt := BitVec.ofNat 48 (h.ecnt.toNat + n) }
  else { h with ecnt := BitVec.ofNat 48 (2 ^ 48 - 1), flags := h.flags ||| BitVec.ofNat 64 fESAT }

/-- The instruction of one word is done in context `h`. -/
def State.done (s : State) (h : Hart) : Res := .next (s.setHart (h.advance 4))

/-! ## Memory -/

/-- Reading a byte; an unlisted address reads as 0 (log entry 4). -/
def memGet : List Host.Cell → Nat → Byte
  | [], _ => 0
  | (x, b) :: t, a => if x = a then b else if a < x then 0 else memGet t a

/-- Writing a byte, in canonical form: writing 0 removes the entry. -/
def memSet : List Host.Cell → Nat → Byte → List Host.Cell
  | [], a, v => if v = 0 then [] else [(a, v)]
  | (x, b) :: t, a, v =>
    if a < x then (if v = 0 then (x, b) :: t else (a, v) :: (x, b) :: t)
    else if a = x then (if v = 0 then t else (a, v) :: t)
    else (x, b) :: memSet t a v

/-- The canonical form from an address upward: strictly rising, nothing listed that reads as 0 anyway. -/
def memWfFrom : Nat → List Host.Cell → Bool
  | _, [] => true
  | lo, (a, b) :: t => decide (lo ≤ a) && decide (b ≠ 0) && memWfFrom (a + 1) t

/-- The canonical form of a memory. -/
def Memory.wf (m : List Host.Cell) : Bool := memWfFrom 0 m

/-- `n` bytes from address `a` as a natural number, little-endian. -/
def memRead (m : List Host.Cell) (a : Nat) : Nat → Nat
  | 0 => 0
  | n + 1 => (memGet m a).toNat + 256 * memRead m (a + 1) n

/-- Storing a list of bytes from address `a` upward. -/
def memStore (m : List Host.Cell) (a : Nat) : List Byte → List Host.Cell
  | [] => m
  | b :: bs => memStore (memSet m a b) (a + 1) bs

/-- Reading a list of bytes. -/
def memBytes (m : List Host.Cell) (a : Nat) : Nat → List Byte
  | 0 => []
  | n + 1 => memGet m a :: memBytes m (a + 1) n

/-! ## Association lists of the device's sparse state -/

/-- The value held for a key, or the default. -/
def lookupD {κ α : Type} [DecidableEq κ] (l : List (κ × α)) (k : κ) (d : α) : α :=
  match l with
  | [] => d
  | (x, v) :: t => if x = k then v else lookupD t k d

/-- The list with the key's value replaced. -/
def assign {κ α : Type} [DecidableEq κ] (l : List (κ × α)) (k : κ) (v : α) : List (κ × α) :=
  (k, v) :: l.filter (fun p => !decide (p.1 = k))

/-- A fresh code table (R252). -/
def CodeTable.zero : CodeTable :=
  { live := Vector.replicate 16 0, shadow := Vector.replicate 16 0, gen := 0, swapPending := false }

/-- The code table of a core. -/
def State.codeTab (s : State) (core : Nat) : CodeTable := lookupD s.codeTabs core CodeTable.zero

/-- LPART of a core (R20). -/
def State.lpart (s : State) (core : Nat) : BitVec 64 := lookupD s.lparts core 0

/-- The leaf entry of a KV frame (R335). -/
def State.leaf (s : State) (frame : Nat) : BitVec 64 := lookupD s.kv frame 0

/-- The leaf entry of a frame replaced. -/
def State.setLeaf (s : State) (frame : Nat) (e : BitVec 64) : State := { s with kv := assign s.kv frame e }

/-- REFC of a leaf entry. -/
def refcOf (e : BitVec 64) : Nat := (e >>> 48).toNat

/-- Owning ASID of a leaf entry. -/
def ownerOf (e : BitVec 64) : BitVec 16 := e.extractLsb' 32 16

/-- V of a leaf entry. -/
def validOf (e : BitVec 64) : Bool := e.getLsbD 0

/-- The count of a frame, count(f) of R274 to R277 (R297). -/
def State.count (s : State) (frame : Nat) : Nat := refcOf (s.leaf frame)

/-- A leaf entry with another count. -/
def leafWithCount (e : BitVec 64) (c : Nat) : BitVec 64 := (e &&& 0x0000FFFFFFFFFFFF) ||| (BitVec.ofNat 64 c <<< 48)

/-- An arbiter that has just been reset (R22). -/
def Arbiter.fresh : Arbiter := { turn := 0, credit := List.replicate 8 0, chosen := none }

/-- The arbiter of lane group `g` of a core. -/
def State.arb (s : State) (core g : Nat) : Arbiter := lookupD s.arbs (core * 8 + g) Arbiter.fresh

/-- That arbiter replaced. -/
def State.setArb (s : State) (core g : Nat) (a : Arbiter) : State :=
  { s with arbs := assign s.arbs (core * 8 + g) a }

/-- Setting a hart's credit on every lane group of its grant, where it has not been let issue any more (R22, R25). -/
def State.creditAll (s : State) (h : Hart) (f : Int → Int) : State :=
  (List.range h.w).foldl (fun s g =>
    let a := s.arb h.core (h.lgb + g)
    s.setArb h.core (h.lgb + g) { a with credit := a.credit.set h.ctx (f (a.credit.getD h.ctx 0))
                                         chosen := a.chosen.filter (fun c => c != h.ctx) }) s

/-! ## All harts -/

/-- Every hart of the device that the state holds. -/
def State.harts (s : State) : List Hart := s.hart :: s.parked

/-- Every hart's context changed by `f`. -/
def State.mapHarts (s : State) (f : Hart → Hart) : State :=
  { s with hart := f s.hart, parked := s.parked.map f }

/-- Whether a hart occupies a context (R12): resident or waiting. -/
def Hart.onCore (h : Hart) : Bool :=
  match h.st with
  | .resident | .waiting _ => true
  | _ => false

/-- Bringing a hart to the focus; nothing changes when no hart has that name. -/
def State.focus (s : State) (id : HartId) : State :=
  if s.hart.id = id then s
  else match s.parked.find? (fun h => decide (h.id = id)) with
    | some h => { s with hart := h, parked := s.hart :: s.parked.filter (fun x => !decide (x.id = id)) }
    | none => s

/-- A step on another hart, which is brought to the focus for it. -/
def State.onHart (s : State) (id : HartId) (f : State → State) : State := (f (s.focus id)).focus s.hart.id

/-! ## Performing writes -/

/-- Bytes of HBM: 8 stacks of 48 GiB (R1). They stand at the device addresses from 0 upward (log entry 71). -/
def hbmBytes : Nat := 8 * 48 * 2 ^ 30

/-- Whether two byte ranges meet. -/
def overlaps (a n b m : Nat) : Bool := decide (a < b + m) && decide (b < a + n)

/-- A write of `n` bytes at `a` has performed: harts that watch a byte of it may wake (R13, R27). -/
def noteWrite (a n : Nat) (h : Hart) : Hart :=
  if h.watch.len ≠ 0 ∧ overlaps a n h.watch.addr h.watch.len then { h with watch := { h.watch with hit := true } } else h

/-- A write performing in physical memory, or on the registers behind a BAR0 page (R327). -/
def State.commitMem (s : State) (a : Nat) (bs : List Byte) : State :=
  if barBase ≤ a then s.barWrite (a - barBase) bs
  else { s.mapHarts (noteWrite a bs.length) with
      mem := memStore s.mem a bs, poison := s.poison.filter (fun p => !(decide (a ≤ p) && decide (p < a + bs.length))) }

/-- A write of the device at a device address; an address past the end of HBM names no byte and takes nothing. -/
def State.putDevice (s : State) (a : Nat) (bs : List Byte) : State := if hbmBytes < a + bs.length then s else s.commitMem a bs

/-- A write performing in a scratchpad. -/
def State.commitPad (s : State) (a : Nat) (bs : List Byte) : State :=
  { s with pads := memStore s.pads a bs
           padPoison := s.padPoison.filter (fun p => !(decide (a ≤ p) && decide (p < a + bs.length))) }

/-- A write performing where it is addressed. -/
def State.commit (s : State) (pad : Bool) (a : Nat) (bs : List Byte) : State :=
  if pad then s.commitPad a bs else s.commitMem a bs

/-- The focused hart's held writes of the selected streams perform, oldest first (R195). -/
def State.drainList (s : State) (sel : Nat → Bool) : List HeldWrite → State
  | [] => s
  | w :: ws => (if sel w.stream then s.commit w.pad w.addr w.data else s).drainList sel ws

/-- Every held write of the selected streams of the focused hart has performed. -/
def State.drain (s : State) (sel : Nat → Bool) : State :=
  let ws := s.hart.wbuf
  let s := s.upd (fun h => { h with wbuf := h.wbuf.filter (fun w => !sel w.stream) })
  s.drainList sel ws

/-- Every held write has performed. -/
def State.drainAll (s : State) : State := s.drain (fun _ => true)

/-- A store of stream `k`: held when the streams being held contain it, else performed after the stream's earlier
writes (R195, R196; log entry 9). `now` stores perform at once (atomics, KV frames, peer and host pages). -/
def State.store (s : State) (k : Nat) (now pad : Bool) (a : Nat) (bs : List Byte) : State :=
  if s.holding.contains k ∧ ¬ now then
    s.upd (fun h => { h with wbuf := h.wbuf ++ [{ stream := k, pad := pad, addr := a, data := bs }] })
  else (s.drain (fun j => j == k)).commit pad a bs

/-- The byte of a held write at an address. -/
def HeldWrite.byteAt (w : HeldWrite) (pad : Bool) (a : Nat) : Option Byte :=
  if w.pad = pad ∧ w.addr ≤ a then w.data[a - w.addr]? else none

/-- A byte as a load of stream `k` of hart `h` sees it: its own stream's newest held write, else memory (R194, R196). -/
def State.see (s : State) (h : Hart) (k : Nat) (pad : Bool) (a : Nat) : Byte :=
  match (h.wbuf.filter (fun w => w.stream == k)).reverse.findSome? (fun w => w.byteAt pad a) with
  | some b => b
  | none => if barBase ≤ a then s.barByte (a - barBase) else memGet (if pad then s.pads else s.mem) a

/-- `n` bytes as a load of stream `k` sees them. -/
def State.load (s : State) (h : Hart) (k : Nat) (pad : Bool) (a : Nat) : Nat → Nat
  | 0 => 0
  | n + 1 => (s.see h k pad a).toNat + 256 * s.load h k pad (a + 1) n

/-! ## Translation and the per-element checks -/

/-- The kinds of access. -/
inductive Acc where
  | read | write | fetch
  deriving DecidableEq, Repr

/-- DETAIL of a page fault (R254). -/
def Acc.detail : Acc → BitVec 8
  | .read => 0
  | .write => 1
  | .fetch => 2

/-- A fault met at an access: cause, DETAIL and faulting address (R254, R260). -/
structure Flt where
  cause : BitVec 8
  detail : BitVec 8
  faddr : BitVec 64
  deriving DecidableEq, Repr

/-- Causes of R254. -/
def cIllegal : BitVec 8 := 0x01
def cUndefined : BitVec 8 := 0x02
def cType : BitVec 8 := 0x03
def cEmpty : BitVec 8 := 0x04
def cTile : BitVec 8 := 0x05
def cPage : BitVec 8 := 0x06
def cProt : BitVec 8 := 0x07
def cAlign : BitVec 8 := 0x08
def cMachine : BitVec 8 := 0x09
def cCow : BitVec 8 := 0x0A
def cStale : BitVec 8 := 0x0B
def cUndecl : BitVec 8 := 0x0C
def cWdog : BitVec 8 := 0x0D
def cTrap : BitVec 8 := 0x10
def cBreak : BitVec 8 := 0x11
def cSoft : BitVec 8 := 0x20
def cHard : BitVec 8 := 0x21
def cReclaim : BitVec 8 := 0x22

/-- Bytes of a page (R1). -/
def pageBytes : PageSize → Nat
  | .k256 => 2 ^ 18
  | .m16 => 2 ^ 24
  | .g1 => 2 ^ 30

/-- Where an address lands. -/
structure Phys where
  pa : Nat
  attr : PageAttr
  deriving DecidableEq, Repr

/-- Base of the code window, the KV window, and of the firmware's store of loaded objects (R335, R340; log entry 6). -/
def codeWindow : Nat := 0x00E0000000000000
def kvWindow : Nat := 0x00F0000000000000
def windowEnd : Nat := 0x0100000000000000
def objectStore : Nat := 320 * 2 ^ 30

/-- Whether a page translates an address of an address space. -/
def pageCovers (p : Page) (asid : BitVec 16) (va : Nat) : Bool :=
  decide (p.asid = asid) && decide (p.vbase.toNat ≤ va) && decide (va < p.vbase.toNat + pageBytes p.size)

/-- Whether an access uses the old translation where a changed entry leaves the choice open (R212): a free value, by the
cycle and the address, so that each access chooses for itself. -/
def State.usesOld (s : State) (va : Nat) : Bool := Config.usesOld s.cycle va

/-- The page in force: the page table's, or until an invalidation has completed an old translation (R212). -/
def State.pageOf (s : State) (asid : BitVec 16) (va : Nat) : Option Page :=
  match s.tlb.find? (fun p => pageCovers p asid va) with
  | some p => if s.usesOld va then some p else s.pages.find? (fun p => pageCovers p asid va)
  | none => s.pages.find? (fun p => pageCovers p asid va)

/-- The leaf entry by which an access reaches a frame: until an invalidation has completed it may be the one before a KVMAP
or KVEVICT (R212, R335). In one cycle every access to a frame goes by the same one (log entry 93). -/
def State.leafFor (s : State) (frame : Nat) : BitVec 64 :=
  match s.kvOld.find? (fun p => p.1 == frame) with
  | some p => if s.usesOld (kvWindow + frame * 2 ^ 18) then p.2 else s.leaf frame
  | none => s.leaf frame

/-- Whether a page permits the access. -/
def pagePermits (p : Page) : Acc → Bool
  | .read => p.readable
  | .write => p.writable
  | .fetch => p.executable

/-- Checks 6.1 and 6.3 to 6.5 of R344: the physical address, or the fault. A page of HBM that names no byte of it
translates nothing there (log entry 71). -/
def State.translate (s : State) (asid : BitVec 16) (acc : Acc) (va : BitVec 64) : Except Flt Phys :=
  let a := va.toNat
  if windowEnd ≤ a then .error ⟨cPage, acc.detail, va⟩
  else if kvWindow ≤ a then
    let f := (a - kvWindow) / 2 ^ 18
    let e := s.leafFor f
    if ownerOf e ≠ asid then .error ⟨cProt, 0, va⟩
    else if !validOf e then .error ⟨cPage, acc.detail, va⟩
    else if acc = .fetch then .error ⟨cProt, 0, va⟩
    else .ok ⟨(a - kvWindow) % 2 ^ 52, .hbm⟩
  else if codeWindow ≤ a then
    if s.objs.any (fun o => decide (o.entry.toNat ≤ a) && decide (a < o.entry.toNat + o.len)) then
      if acc = .write then .error ⟨cProt, 0, va⟩ else .ok ⟨(objectStore + (a - codeWindow)) % 2 ^ 52, .hbm⟩
    else .error ⟨cPage, acc.detail, va⟩
  else match s.pageOf asid a with
    | none => .error ⟨cPage, acc.detail, va⟩
    | some p =>
      if p.attr = .hbm ∧ hbmBytes ≤ p.pbase.toNat + (a - p.vbase.toNat) then .error ⟨cPage, acc.detail, va⟩
      else if pagePermits p acc then
        .ok ⟨(if p.attr = .bar0 then barBase else 0) + (p.pbase.toNat + (a - p.vbase.toNat)) % 2 ^ 52, p.attr⟩
      else .error ⟨cProt, 0, va⟩

/-- Whether a virtual address lies in the hart's own stack area (R321). -/
def Hart.inStack (h : Hart) (a : Nat) : Bool :=
  let lo := h.info.stkb.toNat + h.id.hidx.toNat * h.info.stks.toNat
  decide (lo ≤ a) && decide (a < lo + h.info.stks.toNat)

/-- Whether the open transaction covers an access; instruction fetch is exempt (R321). -/
def Hart.declared (h : Hart) (acc : Acc) (va pa : Nat) : Bool :=
  if h.tx.st = .opened ∧ acc ≠ .fetch then
    h.inStack va || h.tx.buf.any (fun g => decide (g.1 = pa / 1024 * 1024) && (g.2 || decide (acc = .read)))
  else true

/-- Checks 6.1 to 6.5 of R344 on one element of `n` bytes at a virtual address: where it lands, or its fault. -/
def State.locate (s : State) (h : Hart) (acc : Acc) (n : Nat) (va : BitVec 64) : Except Flt Phys :=
  if windowEnd ≤ va.toNat then .error ⟨cPage, acc.detail, va⟩
  else if va.toNat % n ≠ 0 then .error ⟨cAlign, 0, va⟩
  else s.translate h.info.asid acc va

/-- Whether an access meets a peer whose port is lost: the sub-operation completes with a machine-check (R343). -/
def State.portLost (s : State) (p : Phys) : Bool :=
  match p.attr with
  | .peer q => s.portsLost.contains q
  | _ => false

/-- Checks 6.6 to 6.8 of R344 on an element that 6.1 to 6.5 pass: its place again, or its fault. -/
def State.admitted (s : State) (h : Hart) (acc : Acc) (n : Nat) (va : BitVec 64) (p : Phys) : Except Flt Phys :=
  if !h.declared acc va.toNat p.pa then .error ⟨cUndecl, 0, va⟩
  else if acc = .write ∧ p.attr = .hbm ∧ 1 < s.count (p.pa / 2 ^ 18) then .error ⟨cCow, 0, va⟩
  else if s.portLost p ∨ acc ≠ .write ∧ (List.range n).any (fun i => s.poison.contains (p.pa + i)) then
    .error ⟨cMachine, 0, va⟩
  else .ok p

/-- The checks of R344 on one element of `n` bytes at a virtual address: where it lands, or its fault. -/
def State.access (s : State) (h : Hart) (acc : Acc) (n : Nat) (va : BitVec 64) : Except Flt Phys :=
  match s.locate h acc n va with
  | .error f => .error f
  | .ok p => s.admitted h acc n va p

/-- The place in R344's order of the condition that a fault reports. -/
def State.orderOf (s : State) (h : Hart) (f : Flt) : Nat :=
  let a := f.faddr.toNat
  if f.cause = cPage then (if windowEnd ≤ a then 1 else 4)
  else if f.cause = cAlign then 2
  else if f.cause = cProt then
    (if kvWindow ≤ a ∧ a < windowEnd ∧ ownerOf (s.leafFor ((a - kvWindow) / 2 ^ 18)) ≠ h.info.asid then 3 else 5)
  else if f.cause = cUndecl then 6
  else if f.cause = cCow then 7
  else 8

/-- Two accesses that one element makes: each check of R344 is made for both before the next. -/
def State.both (s : State) (h : Hart) (a b : Except Flt Phys) : Except Flt (Phys × Phys) :=
  match a, b with
  | .ok p, .ok q => .ok (p, q)
  | .error f, .ok _ => .error f
  | .ok _, .error g => .error g
  | .error f, .error g => .error (if s.orderOf h g < s.orderOf h f then g else f)

/-- An atomic element reads and writes (R70, R184). DETAIL of a page fault is that of a write (log entry 75). -/
def State.accessRmw (s : State) (h : Hart) (n : Nat) (va : BitVec 64) : Except Flt Phys :=
  match s.both h (s.access h .write n va) (s.access h .read n va) with
  | .error f => .error (if f.cause = cPage then { f with detail := 1 } else f)
  | .ok (_, q) => .ok q

/-- Whether stores to a place perform at once: KV frames (R299) and peer or host pages (R203). -/
def State.performsNow (s : State) (p : Phys) : Bool := decide (p.attr ≠ .hbm) || decide (s.count (p.pa / 2 ^ 18) ≠ 0)

/-- Whether a load of stream `k` is issued without performing yet (R193, R196): the streams being delayed contain it, and
it reads memory. The model's own choice of when a load performs (log entry 85). -/
def State.delays (s : State) (k : Nat) (p : Phys) : Bool :=
  s.delaying.contains k && s.hart.lane.isNone && decide (p.attr = .hbm)

/-! ## Events of harts -/

/-- The event of a hart's cause (R255). -/
def State.postHart (s : State) (h : Hart) (cause detail : BitVec 8) : State :=
  s.post { fdom := h.info.fdom, cause := cause, detail := detail, rcb := h.id.rcb.setWidth 64, hidx := h.id.hidx
           trapbase := h.trapbase, time := BitVec.ofNat 64 s.ns, frame := 0 }

/-! ## The save area (R259, R260) -/

/-- `n` 32-bit or other fields packed upward, `w` bits each. -/
def packNat (w : Nat) : List Nat → Nat
  | [] => 0
  | x :: xs => x % 2 ^ w + 2 ^ w * packNat w xs

/-- A Bool as a number. -/
def b2n (b : Bool) : Nat := if b then 1 else 0

/-- Element `e` of packed data (R91). -/
def elemAt (raw w e : Nat) : Nat := raw / 2 ^ (w * e) % 2 ^ w

/-- Packed data with element `e` replaced. -/
def setElem (raw w e v : Nat) : Nat := raw - elemAt raw w e * 2 ^ (w * e) + v % 2 ^ w * 2 ^ (w * e)

/-- WCAUSE codes (R13). -/
def WaitCause.code : WaitCause → BitVec 3
  | .fullEmpty => 1
  | .address => 2
  | .stream => 3
  | .grant => 4
  | .frontier => 5
  | .emulation => 6

/-- Configuration word fields (R45). -/
def cfgTag (c : BitVec 32) : Nat := (c.extractLsb' 0 5).toNat
def cfgFrac (c : BitVec 32) : Nat := (c.extractLsb' 5 6).toNat
def cfgGrp (c : BitVec 32) : Nat := 2 ^ (c.extractLsb' 11 2).toNat
def cfgW2 (c : BitVec 32) : Nat := (c.extractLsb' 13 3).toNat
def cfgSlc (c : BitVec 32) : Nat := (c.extractLsb' 16 3).toNat
def cfgFull (c : BitVec 32) : Bool := c.getLsbD 19

/-- Vector register `r` (register numbers are taken modulo 32). -/
def Hart.v (h : Hart) (r : Nat) : VReg := h.vregs[r % 32]'(Nat.mod_lt r (by decide))

/-- Vector register `r` replaced. -/
def Hart.setV (h : Hart) (r : Nat) (x : VReg) : Hart :=
  { h with vregs := h.vregs.set (r % 32) x (Nat.mod_lt r (by decide)) }

/-- The full/empty bit of a register written (R49). -/
def Hart.setFull (h : Hart) (full : Bool) (r : Nat) : Hart :=
  let c := (h.v r).cfg
  h.setV r { h.v r with cfg := if full then c ||| 0x00080000 else c &&& 0xFFF7FFFF }

/-- Registers `r` to `r + n − 1` all made full or empty. -/
def Hart.setFulls (h : Hart) (full : Bool) (rs : List Nat) : Hart := rs.foldl (fun h r => h.setFull full r) h

/-- The bits of a group, v_n first (R47). -/
def Hart.grpBits (h : Hart) (r : Nat) : Nat → Nat
  | 0 => 0
  | g + 1 => (h.v r).data.toNat % 2 ^ (256 * h.w) + 2 ^ (256 * h.w) * h.grpBits (r + 1) g

/-- Packed bits put back into the registers of a group. -/
def Hart.putBits (h : Hart) (r : Nat) : Nat → Nat → Hart
  | 0, _ => h
  | g + 1, raw =>
    (h.setV r { h.v r with data := BitVec.ofNat 2048 (raw % 2 ^ (256 * h.w)) }).putBits (r + 1) g
      (raw / 2 ^ (256 * h.w))

/-- A loaded value of `n` bytes as a scalar (R68). -/
def loadedWord (signed : Bool) (n v : Nat) : Word :=
  if signed then BitVec.ofInt 64 (toSigned (8 * n) v) else BitVec.ofNat 64 v

/-! ## Bound registers (R177, R178) -/

/-- The generator behind register v24 + i. -/
def Hart.gen (h : Hart) (i : Nat) : Gen := h.gens[i % 8]'(Nat.mod_lt i (by decide))

/-- That generator replaced. -/
def Hart.setGen (h : Hart) (i : Nat) (g : Gen) : Hart :=
  { h with gens := h.gens.set (i % 8) g (Nat.mod_lt i (by decide)) }

/-- Whether a field names the cross-lane queue: v31 in a lane's turn (R237). -/
def Hart.isXq (h : Hart) (r : Nat) : Bool := h.lane.isSome && r == 31

/-- The generator index of a register v24 to v31. -/
def genOf (r : Nat) : Nat := r - 24

/-- Whether a vector register is bound (R177). -/
def Hart.isBound (h : Hart) (r : Nat) : Bool := decide (24 ≤ r) && (h.gen (genOf r)).bound && !h.isXq r

/-- DIR of a generator's record: true for a write stream (R174). -/
def Gen.isWrite (g : Gen) : Bool := g.record.getLsbD 127

/-- Bound to a read stream, or to a write stream. -/
def Hart.readBound (h : Hart) (r : Nat) : Bool := h.isBound r && !(h.gen (genOf r)).isWrite
def Hart.writeBound (h : Hart) (r : Nat) : Bool := h.isBound r && (h.gen (genOf r)).isWrite

/-- Members of a group. -/
def members (r g : Nat) : List Nat := (List.range g).map (fun i => r + i)

/-- Registers as they stood before, where they are bound: a bound register keeps its configuration and data (R178). -/
def Hart.keepBound (h : Hart) (rs : List Nat) (t : Hart) : Hart :=
  (rs.filter (fun r => h.isBound r)).foldl (fun t r => t.setV r (h.v r)) t

/-! ## Loads under way (R193, R196) -/

/-- A load of the focused hart performs: the stores its stream still holds perform before it (R195), its bytes are read now
and reach its destination. -/
def State.landLate (s : State) (l : LateLoad) : State :=
  let s := s.drain (fun k => k == l.stream)
  let val (a : Nat) : Nat := s.load s.hart l.stream false a l.size
  match l.dest with
  | .scalar r signed => s.upd (fun h => h.wr r (loadedWord signed l.size (val ((l.elems.headD (0, 0)).2))))
  | .vector r g w => s.upd (fun h =>
      h.keepBound (members r g) (h.putBits r g (l.elems.foldl (fun raw p => setElem raw w p.1 (val p.2)) (h.grpBits r g))))

/-- Loads of the focused hart perform, oldest first. -/
def State.landLates (s : State) : List LateLoad → State
  | [] => s
  | l :: ls => (s.landLate l).landLates ls

/-- Every load under way of the focused hart performs. -/
def State.settleLoads (s : State) : State :=
  let ls := s.hart.late
  (s.upd (fun h => { h with late := [] })).landLates ls

/-! ## Full and empty -/

/-- Whether a load under way has still to deliver what a producer empties its registers for. -/
def Hart.awaits (h : Hart) (p : Pending) : Bool :=
  h.late.any (fun l => match l.dest with
    | .vector r _ _ => p.regs.contains r
    | .scalar _ _ => false)
  || h.lateWord.any (fun x => x.writes.any (fun r => p.regs.contains r))

/-- Every pending producer lands (R49, R255). -/
def Hart.landAll (h : Hart) : Hart :=
  { h.setFulls true (h.pend.flatMap (fun p => p.regs)) with pend := [], heldStrips := [] }

/-- Mask register `i`. -/
def Hart.mask (h : Hart) (i : Nat) : BitVec 8192 := h.masks[i % 8]'(Nat.mod_lt i (by decide))

/-- Mask register `i` replaced. -/
def Hart.setMask (h : Hart) (i : Nat) (m : BitVec 8192) : Hart :=
  { h with masks := h.masks.set (i % 8) m (Nat.mod_lt i (by decide)) }

/-- Scale register `i` (R48). -/
def Hart.scale (h : Hart) (i : Nat) : BitVec 8192 := h.scales[i % 8]'(Nat.mod_lt i (by decide))

/-- Tile `i` (R48). -/
def Hart.tile (h : Hart) (i : Nat) : Tile := h.tiles[i % 8]'(Nat.mod_lt i (by decide))

/-- Tile `i` replaced. -/
def Hart.setTile (h : Hart) (i : Nat) (t : Tile) : Hart :=
  { h with tiles := h.tiles.set (i % 8) t (Nat.mod_lt i (by decide)) }

/-- Window `i` (R186). -/
def Hart.window (h : Hart) (i : Nat) : Window := h.windows[i % 4]'(Nat.mod_lt i (by decide))

/-- Window `i` replaced. -/
def Hart.setWindow (h : Hart) (i : Nat) (x : Window) : Hart :=
  { h with windows := h.windows.set (i % 4) x (Nat.mod_lt i (by decide)) }

/-- Bits of a list of conditions, bit i for entry i. -/
def bitsOf (l : List Bool) : Nat := packNat 1 (l.map b2n)

/-- The doublewords of the header, D0 to D43 (R260), from a context and its record. -/
def headerWords (h : Hart) (r : SaveRec) : List Nat :=
  let ctr := r.ctr.map (fun c => c.toNat)
  [ r.pc.toNat % 2 ^ 56 + 2 ^ 63,
    r.rpc.toNat % 2 ^ 56,
    r.word.toNat + r.payload.toNat * 2 ^ 32,
    r.cause.toNat + r.detail.toNat * 2 ^ 8 + r.wcause.toNat * 2 ^ 16 + b2n r.pend * 2 ^ 19 + b2n r.fel * 2 ^ 20,
    r.fidx % 2 ^ 32,
    r.faddr.toNat,
    h.vl % 2 ^ 14 + h.w % 16 * 2 ^ 16 + h.lgb % 8 * 2 ^ 20 + h.trows % 128 * 2 ^ 24 + h.headEw.toNat * 2 ^ 32
      + h.headGrp.toNat * 2 ^ 36,
    h.ecnt.toNat,
    packNat 16 (ctr.take 4),
    packNat 16 (ctr.drop 4),
    packNat 3 r.skip,
    bitsOf ((List.range 32).map (fun i => cfgFull (h.v i).cfg))
      + bitsOf ((List.range 8).map (fun i => (h.gen i).bound)) * 2 ^ 32
      + bitsOf ((List.range 4).map (fun i => (h.window i).opened)) * 2 ^ 40
      + b2n h.sect.isSome * 2 ^ 44 + b2n h.replay.isSome * 2 ^ 45
      + b2n (decide (h.tx.st = .submitted ∨ h.tx.st = .opened)) * 2 ^ 46,
    bitsOf ((List.range 8).map (fun i => (h.tile i).enabled)),
    h.flags.toNat % 2 ^ 7 + h.rmode.toNat * 2 ^ 8 + h.rotn.toNat * 2 ^ 16 + h.dens.toNat * 2 ^ 24
      + h.ridx.toNat * 2 ^ 32,
    h.seed.toNat,
    h.repth.toNat ]
  ++ (List.range 16).map (fun n => (h.v (2 * n)).cfg.toNat + (h.v (2 * n + 1)).cfg.toNat * 2 ^ 32)
  ++ (match h.replay with
      | none => [0, 0, 0, 0]
      | some p => [p.bodyIndex % 32, packNat 32 (p.index.take 2), packNat 32 ((p.index.drop 2).take 2),
          packNat 32 (p.index.drop 4)])
  ++ (List.range 4).flatMap (fun i =>
      if (h.window i).opened then [(h.window i).base.toNat, (h.window i).desc.toNat] else [0, 0])

/-- A number of `n` doublewords as stores of 8 bytes from offset `o` upward. -/
def dwords (o : Nat) : Nat → Nat → List (Nat × Nat)
  | 0, _ => []
  | n + 1, v => (o, v % 2 ^ 64) :: dwords (o + 8) n (v / 2 ^ 64)

/-- Which causes write which parts of the area (R259). -/
inductive SaveKind where
  | full | soft | entry
  deriving DecidableEq, Repr

/-- A lane's entry of the save area (R240, R259). -/
def laneWords (o : Nat) (l : Lane) : List (Nat × Nat) :=
  let st := match l.st with
    | .running => 0
    | .stopped => 1
    | .faulted => 2
  (o, l.pc.toNat % 2 ^ 56 + st * 2 ^ 56)
    :: ((List.range l.inbox.length).map (fun i => (o + 16 + 8 * i, (l.inbox.getD i 0).toNat)))
    ++ (List.range l.held.length).flatMap (fun i =>
        match l.held[i]? with
        | some w => [(o + 64 + 16 * i, w.va.toNat), (o + 72 + 16 * i, w.value.toNat)]
        | none => [])

/-- The offset of lane e's entry (R259). -/
def laneOffset (e : Nat) : Nat := if e < 64 then 0x8000 + 0x2000 * e else 0x2A8000 + 0x2000 * (e - 64)

/-- The doublewords of the area's body: vector data, masks, scales, generators, windows, tiles and lanes (R259). -/
def bodyWords (k : SaveKind) (h : Hart) (r : SaveRec) : List (Nat × Nat) :=
  if k = .entry then []
  else
    (if k = .full then
      (List.range 32).flatMap (fun i => dwords (0x300 + 256 * i) (4 * h.w) (h.v i).data.toNat)
        ++ dwords 0x6B00 128 r.performed.toNat
     else [])
    ++ (List.range 8).flatMap (fun i => dwords (0x2300 + 1024 * i) 128 (h.mask i).toNat)
    ++ dwords 0x4300 128 h.cvgm.toNat
    ++ (List.range 8).flatMap (fun i => dwords (0x4700 + 1024 * i) 128 (h.scale i).toNat)
    ++ (List.range 8).flatMap (fun i =>
        if (h.gen i).loaded then
          dwords (0x6700 + 128 * i) 8 (h.gen i).record.toNat ++ [(0x6700 + 128 * i + 64, (h.gen i).pos % 2 ^ 64)]
        else [])
    ++ (List.range 4).flatMap (fun i =>
        let w := h.window i
        if w.opened then
          let cnt := w.desc.toNat % 2 ^ 32
          (List.range (8 * h.w * cnt)).map (fun x =>
            (0x88000 + 0x80000 * i + 8 * (1024 * (x / cnt) + x % cnt), (w.parts.getD x 0).toNat))
        else [])
    ++ (List.range 8).flatMap (fun i =>
        if (h.tile i).enabled then dwords (0x288000 + 0x4000 * i) (32 * h.trows) (h.tile i).data.toNat else [])
    ++ (if k = .full then
        match h.sect with
        | some q => q.lanes.flatMap (fun l => laneWords (laneOffset l.idx) l)
        | none => []
       else [])

/-- The scalars as doublewords from an offset upward. -/
def scalarWords (o : Nat) (h : Hart) : List (Nat × Nat) :=
  (List.range 32).map (fun i => (o + 8 * i, (h.rd (BitVec.ofNat 5 i)).toNat))

/-- Every doubleword the save writes, as offset and value, the header's D0 last (R259). -/
def saveWords (k : SaveKind) (h : Hart) (r : SaveRec) : List (Nat × Nat) :=
  let hdr := headerWords h r
  let hdr := if k = .entry then hdr.take 8 else hdr ++ List.replicate (64 - hdr.length) 0
  let hw := (List.range hdr.length).map (fun i => (8 * i, hdr.getD i 0))
  bodyWords k h r ++ scalarWords 0x200 h ++ hw.drop 1 ++ hw.take 1

/-- Storing doublewords at TRAPBASE + offset; none when one of them does not translate for writing (R259). -/
def State.putWords (s : State) (h : Hart) : List (Nat × Nat) → Option State
  | [] => some s
  | (o, v) :: rest =>
    match s.translate h.info.asid .write (h.trapbase + BitVec.ofNat 64 o) with
    | .error _ => none
    | .ok p => (s.commitMem p.pa (natLe 8 v)).putWords h rest

/-- The doubleword a domain or handler left at TRAPBASE + offset; none when it does not translate for reading. -/
def State.getWord (s : State) (h : Hart) (o : Nat) : Option Nat :=
  match s.translate h.info.asid .read (h.trapbase + BitVec.ofNat 64 o) with
  | .error _ => none
  | .ok p => if (List.range 8).any (fun i => s.poison.contains (p.pa + i)) then none else some (memRead s.mem p.pa 8)

/-- Writing the context of the focused hart: the area, or the reserve slot when TRAPBASE is 0 or a write faults, which
posts protection with DETAIL 1 in the latter case (R259). -/
def State.writeArea (s : State) (k : SaveKind) (r : SaveRec) : State :=
  let h := s.hart
  let keep (b : Bool) (s : State) := s.upd (fun h => { h with save := some { r with reserve := b } })
  if h.trapbase = 0 then keep true s
  else match s.putWords h (saveWords k h r) with
    | some s' => keep false s'
    | none => (keep true s).postHart h cProt 1

/-! ## Taking an exception -/

/-- What an exception records. `whole` marks a vector instruction that had no effect, whose counters are all 0 (R262);
otherwise the counters given stand. `keep` says that the trap stopped no instruction that an earlier restart has yet to
finish (R263). -/
structure Trap where
  cause : BitVec 8
  detail : BitVec 8
  rpc : BitVec 64
  fel : Bool
  fidx : Nat
  faddr : BitVec 64
  ctr : List (BitVec 16)
  performed : BitVec 8192
  count : Nat := 0
  keep : Bool := false
  deriving DecidableEq, Repr

/-- Counters of an instruction complete on every group, or not recorded (R262). -/
def ctrDone : List (BitVec 16) := List.replicate 8 0xFFFF

/-- Counters of a vector instruction that faulted with no effect (R262). -/
def ctrWhole : List (BitVec 16) := List.replicate 8 0

/-- Whether a major belongs to the scalar instructions, for which no vector instruction is recorded (R262). -/
def scalarMajor (w : BitVec 32) : Bool :=
  let m := w.toNat / 2 ^ 26
  m ≤ 0x0F || m == 0x22 && w.toNat % 32 == 0 || m == 0x23 || m == 0x24 || m == 0x25 || m == 0x26 || m == 0x27 || 0x28 ≤ m

/-- Causes for which no instruction is recorded and progress within one is kept: WDOG, hard pre-emption, reclaim (R254,
R262). -/
def boundaryCause (c : BitVec 8) : Bool := c == cWdog || c == cHard || c == cReclaim

/-- Whether a pre-emption is taken with a save of this cause: a pre-emption itself, or one that waited (R256, R260; log
entry 80). -/
def Hart.preempted (h : Hart) (cause : BitVec 8) : Bool :=
  cause == cSoft || cause == cHard || cause == cWdog || h.hardReq.isSome

/-- DETAIL of a hart's event: bit 7 is set while its emulation handler runs (R257). -/
def Hart.eventDetail (h : Hart) (d : BitVec 8) : BitVec 8 := if h.handler.isSome then d ||| 0x80 else d

/-- The record of a trap taken by a hart in the cycle `now`. WCAUSE is 0 while the emulation handler runs, which a release resumes
itself (R257, R260; log entry 69). -/
def Hart.record (h : Hart) (now : Nat) (t : Trap) : SaveRec :=
  { cause := t.cause, detail := h.eventDetail t.detail, pc := h.pc, rpc := t.rpc
    word := (match h.replay with
      | some p => p.word
      | none => h.ir), payload := h.irPayload
    wcause := (match h.st with
      | .waiting c => if h.handler.isSome then 0 else c.code
      | _ => 0)
    pend := h.preempted t.cause, fel := t.fel, fidx := t.fidx, faddr := t.faddr, ctr := t.ctr
    skip := (match h.restart with
      | some q => if t.ctr = ctrWhole ∨ t.ctr = ctrDone then List.replicate 8 0
        else if q.ctr.isEmpty then q.skip.map (fun x => x - 1) else q.skip
      | none => List.replicate 8 0)
    performed := t.performed, count := t.count, reserve := true, released := false, inHandler := h.handler.isSome
    contextError := h.badRegs, vec := decide (t.ctr ≠ ctrDone), cycle := now, lost := false }

/-- Which parts of the area a cause writes (R259). -/
def saveKindOf (cause : BitVec 8) : SaveKind := if cause = cSoft then .soft else .full

/-- Granules of a released transaction: every entry of the hart leaves its home queues, and entries that stand free are
granted (R319, R316). -/
def grantQueue : Bool → Bool → List QueueEntry → List QueueEntry
  | _, _, [] => []
  | anyBefore, writeBefore, e :: es =>
    let g := if e.write then !anyBefore else !writeBefore
    { e with granted := e.granted || g } :: grantQueue true (writeBefore || e.write) es

/-- Every entry of a hart withdrawn from the home queues. -/
def State.releaseGranules (s : State) (id : HartId) : State :=
  { s with granules := (s.granules.map (fun q =>
      (q.1, grantQueue false false (q.2.filter (fun e => !decide (e.who = id)))))).filter (fun q => !q.2.isEmpty) }

/-- Whether a hart's declaration stands in a gate's batch (R318). -/
def State.inGate (s : State) (id : HartId) : Bool := s.gates.toList.any (fun b => b.any (fun e => decide (e.who = id)))

/-- The focused hart's transaction ends: grants released, buffer cleared (R312, R316, R322). One withdrawn from a gate
leaves its declaration there, to be placed and skipped (R325); a later one cannot have entered meanwhile. -/
def State.endTx (s : State) : State :=
  let id := s.hart.id
  { (s.releaseGranules id).upd (fun h =>
      { h with tx := { h.tx with st := .idle, buf := [], placed := none, result := none
                                 ghost := if s.inGate id then some (h.tx.ghost.getD (h.tx.begun - 1)) else none } }) with
    merged := s.merged.map (fun m => { m with order := m.order.filter (fun i => !decide (i = id)) }) }

/-- A faulting lane halts; its hart runs on until every lane has stopped or faulted (R240). -/
def laneFault (e : Nat) (t : Trap) (h : Hart) : Hart :=
  match h.sect with
  | none => h
  | some q =>
    { h with sect := some { q with lanes := q.lanes.map (fun l =>
        if l.idx = e then
          { l with st := .faulted, cause := t.cause, detail := t.detail, fel := t.fel, faddr := t.faddr }
        else l) } }

/-- A fault inside the emulation handler writes the handler frame, never the header or the scalar area; vector, mask,
tile and scale state is saved as for any fault (R257). -/
def State.writeFrame (s : State) (r : SaveRec) : State :=
  let h := s.hart
  let words := bodyWords .full h r ++ scalarWords 0x7D00 h
    ++ (((List.range 8).map (fun i => (0x7C00 + 8 * i, (headerWords h r).getD i 0))).drop 1)
    ++ [(0x7C00, (headerWords h r).getD 0 0)]
  let keep (b : Bool) (s : State) := s.upd (fun h => { h with save := some { r with reserve := b } })
  if h.trapbase = 0 then keep true s
  else match s.putWords h words with
    | some s' => keep false s'
    | none => (keep true s).postHart h cProt 0x81

/-! ## Watchdog -/

/-- The interval of a hart in ns: WDOG of a persistent region, TBUD of another, 0 for none (R270). -/
def Hart.interval (h : Hart) : Nat := 1000 * (if h.info.pers then h.info.wdog.toNat else h.info.tbud.toNat)

/-- Whether the interval of a hart that holds a context has run out (R270). That of a region that is not persistent stays run out, so
that a hart released after it expires again (log entry 110). -/
def State.wdogDue (s : State) (h : Hart) : Bool :=
  h.onCore && h.interval != 0
    && decide ((if h.info.pers then h.wdogFrom else h.info.acceptedNs) + h.interval ≤ s.ns)

/-- Whether the further interval of a hart's emulation handler has run out (R270). -/
def State.overrun (s : State) (h : Hart) : Bool :=
  h.onCore && (h.handler.bind (fun k => k.overrunAt)).any (fun n => decide (n + h.interval ≤ s.ns))

/-- Whether a fault of the focused hart meets its watchdog's expiry, or its handler's overrun (R256, R270). -/
def State.meetsWdog (s : State) (cause : BitVec 8) : Bool :=
  decide (cause.toNat ≤ 0x0C) && (if s.hart.handler.isSome then s.overrun s.hart else s.wdogDue s.hart)

/-- The expiry's journal entry and the release of grants (R270, R322, R333). A transaction that is being declared stands
(R312). -/
def State.wdogRelease (s : State) : State :=
  let s := (s.note 0 0 3 0 (s.hart.id.rcb.setWidth 64)).drainAll
  if s.hart.tx.st = .submitted ∨ s.hart.tx.st = .opened then s.endTx else s

/-- The focused hart saved for a trap: what was issued lands and performs, the context is written, the hart passes to
saved and its credits are cleared; for causes up to 0x11 the event is posted to its fault domain (R25, R255, R257). -/
def State.saved (s : State) (t : Trap) : State :=
  let r := s.hart.record s.cycle t
  let s := (s.settleLoads.upd (fun h => h.landAll)).drainAll
  let s := if s.hart.handler.isSome then s.writeFrame r else s.writeArea (saveKindOf t.cause) r
  let s := s.upd (fun h => { h with st := .saved, watch := if r.wcause = 0 then Watch.none else h.watch
                                    limit := none, taken := [], walked := []
                                    restart := if boundaryCause t.cause || t.keep then h.restart else none
                                    hardReq := none })
  let s := s.creditAll s.hart (fun _ => 0)
  if t.cause.toNat ≤ 0x11 then s.postHart s.hart r.cause r.detail else s

/-- A save that meets a pre-emption or an expiry counts as that too, and has PEND set (R256). -/
def Hart.meeting (h : Hart) : Hart := { h with hardReq := some (h.hardReq.getD 0) }

/-- The focused hart saved for a fault that meets its watchdog's expiry: PEND is set and WDOG is posted as well; where that is its
handler's overrun, WDOG has DETAIL 1 and the hart can only be cancelled (R256, R270; log entry 59). -/
def State.savedWithWdog (s : State) (t : Trap) : State :=
  let ranOut := s.hart.handler.isSome
  let d := s.hart.eventDetail (if ranOut then 1 else 0)
  let s := (s.upd Hart.meeting).wdogRelease.saved t
  let s := if ranOut then s.upd (fun h => { h with save := h.save.map (fun r => { r with contextError := true }) }) else s
  s.postHart s.hart cWdog d

/-- TAKING AN EXCEPTION: the hart is saved. In a lane's turn the lane halts instead (R240). An uncorrectable error in the storage
of a register makes the save a machine-check, which a pre-emption or an expiry then meets, and a fault that meets a watchdog
expiry has PEND set and WDOG posted as well (R256). -/
def State.taken (s : State) (t : Trap) : State :=
  match s.hart.lane with
  | some e => s.upd (laneFault e t)
  | none =>
    let bad := s.hart.badRegs
    let u := if bad then { t with cause := cMachine, detail := 1 } else t
    if s.meetsWdog t.cause then s.savedWithWdog u
    else if bad && s.hart.preempted t.cause then
      let d := s.hart.eventDetail t.detail
      let s := (s.upd Hart.meeting).saved u
      if t.cause = cWdog then s.postHart s.hart cWdog d else s
    else s.saved u

/-- The same as the result of an instruction. -/
def State.take (s : State) (t : Trap) : Res := .next (s.taken t)

/-- A fault of class Instruction (R254): no effect, RPC at the word. -/
def Trap.atWord (h : Hart) (cause detail : BitVec 8) : Trap :=
  { cause := cause, detail := detail, rpc := h.pc, fel := false, fidx := 0, faddr := 0
    ctr := if scalarMajor h.ir then ctrDone else ctrWhole, performed := 0 }

/-- Raising a fault that leaves no effect. -/
def State.fault (s : State) (cause detail : BitVec 8) : Res := s.take (Trap.atWord s.hart cause detail)

/-- The illegal-instruction fault (R39). -/
def State.illegal (s : State) : Res := s.fault cIllegal 0

/-- A memory fault of a scalar instruction (R61): element index 0 recorded with its address (log entry 16). -/
def State.faultAt (s : State) (f : Flt) : Res :=
  if f.cause = cUndecl ∧ s.hart.lane = none then
    (s.drainAll.endTx).take { Trap.atWord s.hart f.cause f.detail with fel := true, faddr := f.faddr }
  else s.take { Trap.atWord s.hart f.cause f.detail with fel := true, faddr := f.faddr }

/-- A fault of the fetch of a word (R31, R344). What a restart has yet to do stands. -/
def State.fetchFault (s : State) (f : Flt) : Res :=
  s.take { Trap.atWord s.hart f.cause f.detail with fel := true, faddr := f.faddr, keep := true }

/-- A fault raised with FEL = 0 (R273, R277, R289). -/
def State.faultPlain (s : State) (f : Flt) : Res :=
  s.take { Trap.atWord s.hart f.cause f.detail with faddr := f.faddr }

/-- The hart waits with a cause, its instruction not performed (R12, R13). In a lane's turn the lane does not move
on, and `limit` 0 says so (R236). -/
def State.wait (s : State) (c : WaitCause) (w : Watch) : Res :=
  match s.hart.lane with
  | some _ => .next (s.upd (fun h => { h with taken := [], walked := [], limit := some 0 }))
  | none => .next (s.upd (fun h => { h with st := .waiting c, watch := w, taken := [], walked := [], limit := none }))

/-- A word holds its issue: nothing changes yet, and in a lane's turn the lane does not move on (R236, R252). -/
def State.held (s : State) : Res :=
  .next (s.upd (fun h => { h with taken := [], walked := [], limit := if h.lane.isSome then some 0 else none }))

/-! ## Element reads and writes through translation -/

/-- A load of `n` bytes in stream `k`. -/
def State.readVa (s : State) (k n : Nat) (va : BitVec 64) : Except Flt Nat :=
  (s.access s.hart .read n va).map (fun p => s.load s.hart k false p.pa n)

/-- A store of `n` bytes in stream `k`. -/
def State.writeVa (s : State) (k n : Nat) (va : BitVec 64) (v : Nat) : Except Flt State :=
  (s.access s.hart .write n va).map (fun p => s.store k (s.performsNow p) false p.pa (natLe n v))

/-! ## Fetching -/

/-- Whether a word is illegal whatever follows it (R39): its payload is not fetched then (R40). -/
def illegalWord (w : Nat) : Bool :=
  match decodeWord w 0 with
  | .illegalInstruction _ => true
  | _ => false

/-- The word at the focused hart's PC, and the payload word of a long form; or the fault of the fetch (R31, R344). The
newest word that has performed is fetched (log entry 74). -/
def State.fetch (s : State) : Except Flt (BitVec 32 × BitVec 32) :=
  let pc := s.hart.pc
  match s.access s.hart .fetch 4 pc with
  | .error f => .error f
  | .ok p =>
    let w := memRead s.mem p.pa 4
    if isLong w && !illegalWord w then
      match s.access s.hart .fetch 4 (pc + 4) with
      | .error f => .error f
      | .ok q => .ok (BitVec.ofNat 32 w, BitVec.ofNat 32 (memRead s.mem q.pa 4))
    else .ok (BitVec.ofNat 32 w, 0)

/-- The word under execution noted in the context (R260). -/
def Hart.withWord (h : Hart) (w p : BitVec 32) : Hart := { h with ir := w, irPayload := p }

/-- The word at the focused hart's PC and its payload noted, as a save between instructions records them (R260); zeros
where it cannot be fetched (log entry 48). -/
def State.notePcWord (s : State) : State :=
  match s.fetch with
  | .ok (w, p) => s.upd (fun h => h.withWord w p)
  | .error _ => s.upd (fun h => h.withWord 0 0)

end Sys2Proof.Machine
end

