-- ==== Sys2Proof/Machine/Scalar.lean ====
section
/-! DEFINITION. The scalar instructions: arithmetic (R58, R62 to R67), loads and stores (R59 to R61, R68), scoped atomics
(R69 to R72), branches and jumps (R73 to R75). -/

namespace Sys2Proof.Machine

/-! ## Arithmetic -/

/-- s[d] takes a value and the PC moves on (R58). -/
def State.writeScalar (s : State) (d : Reg) (v : Word) : Res := s.done (s.hart.wr d v)

/-- Quotient of signed division, rounded toward zero; all ones for a zero divisor (R62, R63). -/
def divSigned (a b : Word) : Word := if b = 0 then BitVec.allOnes 64 else BitVec.ofInt 64 (a.toInt.tdiv b.toInt)

/-- Quotient of natural division; all ones for a zero divisor (R62, R63). -/
def divNatural (a b : Word) : Word := if b = 0 then BitVec.allOnes 64 else BitVec.ofNat 64 (a.toNat / b.toNat)

/-- Remainders: a − quotient × b, and a itself for a zero divisor (R62, R63). -/
def remSigned (a b : Word) : Word := if b = 0 then a else a - divSigned a b * b
def remNatural (a b : Word) : Word := if b = 0 then a else a - divNatural a b * b

/-- High half of the signed product (R62). -/
def mulHigh (a b : Word) : Word := BitVec.ofInt 64 (a.toInt * b.toInt / 2 ^ 64)

/-- 1 when a condition holds, else 0. -/
def boolWord (c : Bool) : Word := if c then 1 else 0

/-- Count of leading zero bits, 64 for 0 (R62). -/
def leadingZeros (a : Word) : Nat := if a = 0 then 64 else 63 - Nat.log2 a.toNat

/-- Count of trailing zero bits among the first `n` bits (R62). -/
def trailingZeros (a : Nat) : Nat → Nat
  | 0 => 0
  | n + 1 => if a % 2 = 1 then 0 else 1 + trailingZeros (a / 2) n

/-- Count of one bits among the first `n` bits (R62). -/
def onesCount (a : Nat) : Nat → Nat
  | 0 => 0
  | n + 1 => a % 2 + onesCount (a / 2) n

/-- `add`: the sum (R62). -/
def execAdd (d a b : Reg) (s : State) : Res :=
  s.writeScalar d (s.hart.rd a + s.hart.rd b)

/-- `sub`: the difference (R62). -/
def execSub (d a b : Reg) (s : State) : Res :=
  s.writeScalar d (s.hart.rd a - s.hart.rd b)

/-- `mul`: low 64 bits of the product (R62). -/
def execMul (d a b : Reg) (s : State) : Res :=
  s.writeScalar d (s.hart.rd a * s.hart.rd b)

/-- `mulh`: high 64 bits of the signed product (R62). -/
def execMulh (d a b : Reg) (s : State) : Res :=
  s.writeScalar d (mulHigh (s.hart.rd a) (s.hart.rd b))

/-- `div`: signed quotient (R62). -/
def execDiv (d a b : Reg) (s : State) : Res :=
  s.writeScalar d (divSigned (s.hart.rd a) (s.hart.rd b))

/-- `divn`: natural quotient (R62). -/
def execDivn (d a b : Reg) (s : State) : Res :=
  s.writeScalar d (divNatural (s.hart.rd a) (s.hart.rd b))

/-- `rem`: signed remainder (R62). -/
def execRem (d a b : Reg) (s : State) : Res :=
  s.writeScalar d (remSigned (s.hart.rd a) (s.hart.rd b))

/-- `remn`: natural remainder (R62). -/
def execRemn (d a b : Reg) (s : State) : Res :=
  s.writeScalar d (remNatural (s.hart.rd a) (s.hart.rd b))

/-- `and`: bitwise AND (R62). -/
def execAnd (d a b : Reg) (s : State) : Res :=
  s.writeScalar d (s.hart.rd a &&& s.hart.rd b)

/-- `or`: bitwise OR (R62). -/
def execOr (d a b : Reg) (s : State) : Res :=
  s.writeScalar d (s.hart.rd a ||| s.hart.rd b)

/-- `xor`: bitwise XOR (R62). -/
def execXor (d a b : Reg) (s : State) : Res :=
  s.writeScalar d (s.hart.rd a ^^^ s.hart.rd b)

/-- `andn`: a AND NOT b (R62). -/
def execAndn (d a b : Reg) (s : State) : Res :=
  s.writeScalar d (s.hart.rd a &&& ~~~(s.hart.rd b))

/-- `sll`: left shift by b[5:0] (R62). -/
def execSll (d a b : Reg) (s : State) : Res :=
  s.writeScalar d ((s.hart.rd a) <<< ((s.hart.rd b).toNat % 64))

/-- `srl`: logical right shift by b[5:0] (R62). -/
def execSrl (d a b : Reg) (s : State) : Res :=
  s.writeScalar d ((s.hart.rd a) >>> ((s.hart.rd b).toNat % 64))

/-- `sra`: arithmetic right shift by b[5:0] (R62). -/
def execSra (d a b : Reg) (s : State) : Res :=
  s.writeScalar d ((s.hart.rd a).sshiftRight ((s.hart.rd b).toNat % 64))

/-- `slt`: 1 if a < b, signed (R62). -/
def execSlt (d a b : Reg) (s : State) : Res :=
  s.writeScalar d (boolWord (decide ((s.hart.rd a).toInt < (s.hart.rd b).toInt)))

/-- `sltn`: 1 if a < b, natural (R62). -/
def execSltn (d a b : Reg) (s : State) : Res :=
  s.writeScalar d (boolWord (decide ((s.hart.rd a).toNat < (s.hart.rd b).toNat)))

/-- `min`: the smaller, signed (R62). -/
def execMin (d a b : Reg) (s : State) : Res :=
  s.writeScalar d (if (s.hart.rd a).toInt < (s.hart.rd b).toInt then s.hart.rd a else s.hart.rd b)

/-- `max`: the larger, signed (R62). -/
def execMax (d a b : Reg) (s : State) : Res :=
  s.writeScalar d (if (s.hart.rd a).toInt < (s.hart.rd b).toInt then s.hart.rd b else s.hart.rd a)

/-- `minn`: the smaller, natural (R62). -/
def execMinn (d a b : Reg) (s : State) : Res :=
  s.writeScalar d (if (s.hart.rd a).toNat < (s.hart.rd b).toNat then s.hart.rd a else s.hart.rd b)

/-- `maxn`: the larger, natural (R62). -/
def execMaxn (d a b : Reg) (s : State) : Res :=
  s.writeScalar d (if (s.hart.rd a).toNat < (s.hart.rd b).toNat then s.hart.rd b else s.hart.rd a)

/-- `clz`: count of leading zeros (R62). -/
def execClz (d a : Reg) (s : State) : Res :=
  s.writeScalar d (BitVec.ofNat 64 (leadingZeros (s.hart.rd a)))

/-- `ctz`: count of trailing zeros (R62). -/
def execCtz (d a : Reg) (s : State) : Res :=
  s.writeScalar d (BitVec.ofNat 64 (trailingZeros (s.hart.rd a).toNat 64))

/-- `popc`: count of one bits (R62). -/
def execPopc (d a : Reg) (s : State) : Res :=
  s.writeScalar d (BitVec.ofNat 64 (onesCount (s.hart.rd a).toNat 64))

/-- `addi`: adds the sign-extended immediate (R64). -/
def execAddi (d a : Reg) (i : BitVec 16) (s : State) : Res :=
  s.writeScalar d (s.hart.rd a + i.signExtend 64)

/-- `andi`: ANDs the zero-extended immediate (R64). -/
def execAndi (d a : Reg) (i : BitVec 16) (s : State) : Res :=
  s.writeScalar d (s.hart.rd a &&& i.zeroExtend 64)

/-- `ori`: ORs the zero-extended immediate (R64). -/
def execOri (d a : Reg) (i : BitVec 16) (s : State) : Res :=
  s.writeScalar d (s.hart.rd a ||| i.zeroExtend 64)

/-- `xori`: XORs the zero-extended immediate (R64). -/
def execXori (d a : Reg) (i : BitVec 16) (s : State) : Res :=
  s.writeScalar d (s.hart.rd a ^^^ i.zeroExtend 64)

/-- `slti`: 1 if a is below the signed immediate (R64). -/
def execSlti (d a : Reg) (i : BitVec 16) (s : State) : Res :=
  s.writeScalar d (boolWord (decide ((s.hart.rd a).toInt < i.toInt)))

/-- `slli`: shift by the immediate amount (R65). -/
def execSlli (d a : Reg) (h : BitVec 6) (s : State) : Res :=
  s.writeScalar d ((s.hart.rd a) <<< h.toNat)

/-- `srli`: shift by the immediate amount (R65). -/
def execSrli (d a : Reg) (h : BitVec 6) (s : State) : Res :=
  s.writeScalar d ((s.hart.rd a) >>> h.toNat)

/-- `srai`: shift by the immediate amount (R65). -/
def execSrai (d a : Reg) (h : BitVec 6) (s : State) : Res :=
  s.writeScalar d ((s.hart.rd a).sshiftRight h.toNat)

/-- `lui`: the signed immediate × 2^16 (R66). -/
def execLui (d : Reg) (i : BitVec 16) (s : State) : Res :=
  s.writeScalar d (i.signExtend 64 <<< 16)

/-- `limm`: the sign-extended payload; the PC moves by 8 (R37, R67). -/
def execLimm (d : Reg) (p : BitVec 32) (s : State) : Res :=
  .next (s.setHart ((s.hart.wr d (p.signExtend 64)).advance 8))

/-- `limmh`: the payload in the high half, the low half unchanged (R37, R67). -/
def execLimmh (d : Reg) (p : BitVec 32) (s : State) : Res :=
  .next (s.setHart ((s.hart.wr d (p ++ (s.hart.rd d).setWidth 32)).advance 8))

/-! ## Loads and stores -/

/-- Address of a scalar load or store of `n` bytes (R68). -/
def Hart.scalarAddr (h : Hart) (a : Reg) (o : BitVec 13) (n : Nat) : Word := h.rd a + BitVec.ofInt 64 (o.toInt * n)

/-- A scalar load in stream S0 (R59 to R61, R68). One that is delayed reads its bytes, and writes s[d], when it performs
(R196). -/
def State.scalarLoad (s : State) (signed : Bool) (n : Nat) (d a : Reg) (o : BitVec 13) : Res :=
  match s.access s.hart .read n (s.hart.scalarAddr a o n) with
  | .error f => s.faultAt f
  | .ok p =>
    if s.delays 0 p then
      s.done { s.hart with late := s.hart.late ++ [{ stream := 0, dest := .scalar d signed, size := n, elems := [(0, p.pa)] }] }
    else s.done (s.hart.wr d (loadedWord signed n (s.load s.hart 0 false p.pa n)))

/-- A scalar store in stream S0 (R59 to R61, R68). -/
def State.scalarStore (s : State) (n : Nat) (d a : Reg) (o : BitVec 13) : Res :=
  match s.writeVa 0 n (s.hart.scalarAddr a o n) ((s.hart.rd d).toNat % 2 ^ (8 * n)) with
  | .error f => s.faultAt f
  | .ok s' => s'.done s'.hart

/-- `ldb`: zero-extending load of 1 byte (R68). -/
def execLdb (d a : Reg) (o : BitVec 13) (s : State) : Res :=
  s.scalarLoad false 1 d a o

/-- `ldh`: zero-extending load of 2 bytes (R68). -/
def execLdh (d a : Reg) (o : BitVec 13) (s : State) : Res :=
  s.scalarLoad false 2 d a o

/-- `ldw`: zero-extending load of 4 bytes (R68). -/
def execLdw (d a : Reg) (o : BitVec 13) (s : State) : Res :=
  s.scalarLoad false 4 d a o

/-- `ldd`: zero-extending load of 8 bytes (R68). -/
def execLdd (d a : Reg) (o : BitVec 13) (s : State) : Res :=
  s.scalarLoad false 8 d a o

/-- `ldb.s`: sign-extending load of 1 byte (R68). -/
def execLdbS (d a : Reg) (o : BitVec 13) (s : State) : Res :=
  s.scalarLoad true 1 d a o

/-- `ldh.s`: sign-extending load of 2 bytes (R68). -/
def execLdhS (d a : Reg) (o : BitVec 13) (s : State) : Res :=
  s.scalarLoad true 2 d a o

/-- `ldw.s`: sign-extending load of 4 bytes (R68). -/
def execLdwS (d a : Reg) (o : BitVec 13) (s : State) : Res :=
  s.scalarLoad true 4 d a o

/-- `stb`: store of the low 1 byte (R68). -/
def execStb (d a : Reg) (o : BitVec 13) (s : State) : Res :=
  s.scalarStore 1 d a o

/-- `sth`: store of the low 2 bytes (R68). -/
def execSth (d a : Reg) (o : BitVec 13) (s : State) : Res :=
  s.scalarStore 2 d a o

/-- `stw`: store of the low 4 bytes (R68). -/
def execStw (d a : Reg) (o : BitVec 13) (s : State) : Res :=
  s.scalarStore 4 d a o

/-- `std`: store of the low 8 bytes (R68). -/
def execStd (d a : Reg) (o : BitVec 13) (s : State) : Res :=
  s.scalarStore 8 d a o

/-! ## Scoped atomics -/

/-- The write of an atomic, from the old value, the operand and the expected value, all of `n` bytes (R70). -/
abbrev AmoOp := Nat → Nat → Nat → Nat → Nat

/-- A signed choice between two values of `n` bytes. -/
def signedMin (n x y : Nat) : Nat := if toSigned (8 * n) x < toSigned (8 * n) y then x else y
def signedMax (n x y : Nat) : Nat := if toSigned (8 * n) x < toSigned (8 * n) y then y else x

/-- Whether an atomic that PCIe cannot carry names a host page (R72). A page onto BAR0 is none: every atomic reads and
writes the registers behind it (log entry 83). -/
def State.amoToHost (s : State) (n : Nat) (va : Word) : Bool :=
  va.toNat % n == 0 && (match s.translate s.hart.info.asid .write va with
    | .ok p => p.attr == .host
    | .error _ => false)

/-- An `amo` of `n` bytes: one indivisible read and write, after the earlier writes of S0; s[d] receives the old value
sign-extended (R70, R71). `pcie` says whether a host page can serve it (R72). -/
def State.amo (s : State) (pcie : Bool) (op : AmoOp) (d a b : Reg) (z : BitVec 2) : Res :=
  let n := 2 ^ z.toNat
  let va := s.hart.rd a
  if !pcie && s.amoToHost n va then s.faultAt ⟨cProt, 0, va⟩
  else match s.accessRmw s.hart n va with
  | .error f => s.faultAt f
  | .ok p =>
    let v := (s.hart.rd b).toNat % 2 ^ (8 * n)
    let x := (s.hart.rd d).toNat % 2 ^ (8 * n)
    let s1 := s.drain (fun k => k == 0)
    let old := s1.load s1.hart 0 false p.pa n
    let s2 := s1.store 0 true false p.pa (natLe n (op n old v x))
    s2.done (s2.hart.wr d (loadedWord true n old))

/-- `amo.add`: the new value is old + v (R70). The scope adds nothing in this model (log entry 14). -/
def execAmoAdd (d a b : Reg) (_sc : BitVec 3) (z : BitVec 2) (s : State) : Res :=
  s.amo true (fun n old v _ => (old + v) % 2 ^ (8 * n)) d a b z

/-- `amo.swap`: the new value is v (R70). The scope adds nothing in this model (log entry 14). -/
def execAmoSwap (d a b : Reg) (_sc : BitVec 3) (z : BitVec 2) (s : State) : Res :=
  s.amo true (fun _ _ v _ => v) d a b z

/-- `amo.cas`: the new value is v when the old value equals s[d], else the old value; the write is always made (R70). The scope adds nothing in this model (log entry 14). -/
def execAmoCas (d a b : Reg) (_sc : BitVec 3) (z : BitVec 2) (s : State) : Res :=
  s.amo true (fun _ old v x => if old = x then v else old) d a b z

/-- `amo.min`: the new value is the signed minimum (R70). The scope adds nothing in this model (log entry 14). -/
def execAmoMin (d a b : Reg) (_sc : BitVec 3) (z : BitVec 2) (s : State) : Res :=
  s.amo false (fun n old v _ => signedMin n old v) d a b z

/-- `amo.max`: the new value is the signed maximum (R70). The scope adds nothing in this model (log entry 14). -/
def execAmoMax (d a b : Reg) (_sc : BitVec 3) (z : BitVec 2) (s : State) : Res :=
  s.amo false (fun n old v _ => signedMax n old v) d a b z

/-- `amo.and`: the new value is bitwise AND (R70). The scope adds nothing in this model (log entry 14). -/
def execAmoAnd (d a b : Reg) (_sc : BitVec 3) (z : BitVec 2) (s : State) : Res :=
  s.amo false (fun _ old v _ => old &&& v) d a b z

/-- `amo.or`: the new value is bitwise OR (R70). The scope adds nothing in this model (log entry 14). -/
def execAmoOr (d a b : Reg) (_sc : BitVec 3) (z : BitVec 2) (s : State) : Res :=
  s.amo false (fun _ old v _ => old ||| v) d a b z

/-- `amo.xor`: the new value is bitwise XOR (R70). The scope adds nothing in this model (log entry 14). -/
def execAmoXor (d a b : Reg) (_sc : BitVec 3) (z : BitVec 2) (s : State) : Res :=
  s.amo false (fun _ old v _ => old ^^^ v) d a b z

/-- `ld.acq`: a zero-extending load with acquire ordering (R70, R199): it performs at issue, before every access that
follows. -/
def execLdAcq (d a : Reg) (_sc : BitVec 3) (z : BitVec 2) (s : State) : Res :=
  match s.readVa 0 (2 ^ z.toNat) (s.hart.rd a) with
  | .error f => s.faultAt f
  | .ok v => s.done (s.hart.wr d (loadedWord false (2 ^ z.toNat) v))

/-- `st.rel`: a store that performs after every earlier access of S0 to S9 has performed (R70, R199). -/
def execStRel (a b : Reg) (_sc : BitVec 3) (z : BitVec 2) (s : State) : Res :=
  let n := 2 ^ z.toNat
  match s.access s.hart .write n (s.hart.rd a) with
  | .error f => s.faultAt f
  | .ok p =>
    let s' := s.drainAll.store 0 (s.performsNow p) false p.pa (natLe n (s.hart.rd b).toNat)
    s'.done s'.hart

/-! ## Branches and jumps -/

/-- The target of a branch word (R33). -/
def Hart.branchTarget (h : Hart) (o : BitVec 13) : Word := h.pc + BitVec.ofInt 64 (4 * o.toInt)

/-- A branch: to its target when the relation holds, else to the next word (R73). -/
def State.branch (s : State) (taken : Bool) (o : BitVec 13) : Res :=
  if taken then .next (s.upd (fun h => { h with pc := h.branchTarget o })) else s.done s.hart

/-- `beq`: taken when a = b (R73). -/
def execBeq (a b : Reg) (o : BitVec 13) (s : State) : Res :=
  s.branch (s.hart.rd a == s.hart.rd b) o

/-- `bne`: taken when a ≠ b (R73). -/
def execBne (a b : Reg) (o : BitVec 13) (s : State) : Res :=
  s.branch (s.hart.rd a != s.hart.rd b) o

/-- `blt`: taken when a < b, signed (R73). -/
def execBlt (a b : Reg) (o : BitVec 13) (s : State) : Res :=
  s.branch (decide ((s.hart.rd a).toInt < (s.hart.rd b).toInt)) o

/-- `bge`: taken when a ≥ b, signed (R73). -/
def execBge (a b : Reg) (o : BitVec 13) (s : State) : Res :=
  s.branch (decide ((s.hart.rd b).toInt ≤ (s.hart.rd a).toInt)) o

/-- `bltn`: taken when a < b, natural (R73). -/
def execBltn (a b : Reg) (o : BitVec 13) (s : State) : Res :=
  s.branch (decide ((s.hart.rd a).toNat < (s.hart.rd b).toNat)) o

/-- `bgen`: taken when a ≥ b, natural (R73). -/
def execBgen (a b : Reg) (o : BitVec 13) (s : State) : Res :=
  s.branch (decide ((s.hart.rd b).toNat ≤ (s.hart.rd a).toNat)) o

/-- `jal`: s1 receives PC + 4; PC + 4 × offset is the target (R74). -/
def execJal (o : BitVec 26) (s : State) : Res :=
  .next (s.upd (fun h => { h.wr 1 (h.pc + 4) with pc := h.pc + BitVec.ofInt 64 (4 * o.toInt) }))

/-- `jalr`: the target uses s[a] as it stood; one that is no multiple of 4 faults and nothing is written (R75). -/
def execJalr (d a : Reg) (i : BitVec 16) (s : State) : Res :=
  let t := s.hart.rd a + i.signExtend 64
  if t.toNat % 4 ≠ 0 then s.faultAt ⟨cAlign, 0, t⟩
  else .next (s.upd (fun h => { h.wr d (h.pc + 4) with pc := t }))

end Sys2Proof.Machine
end

