-- ==== Sys2Proof/Machine/Rotate.lean ====
section
/-! DEFINITION. Rotation arithmetic (R105 to R115): entry into the 48-bit state, the circular pre-step, the iteration
and its gait, gain compensation, exit rounding and the convergence precondition, on one element. The constants are the
values of the formulas of R111 and R112, computed from those formulas. -/

namespace Sys2Proof.Machine

/-- alpha(circular, i) for i = 0 to 43 (R111): 2^44 × atan(2^−i) / (2π), rounded to nearest. -/
def alphaC : List Nat :=
  [2199023255552, 1298159229407, 685911684590, 348179481054, 174765388006, 87467890064, 43744617923, 21873643805, 10936988781, 5468515251, 2734260233, 1367130443, 683565262, 341782636, 170891319, 85445659]
  ++ [42722830, 21361415, 10680707, 5340354, 2670177, 1335088, 667544, 333772, 166886, 83443, 41722, 20861, 10430, 5215, 2608, 1304]
  ++ [652, 326, 163, 81, 41, 20, 10, 5, 3, 1, 1, 0]

/-- alpha(hyperbolic, i) for i = 1 to 44, entry 0 unused (R111): 2^44 × atanh(2^−i), rounded to nearest. -/
def alphaH : List Nat :=
  [0, 9663495886466, 4493269704773, 2210585088982, 1100946648375, 549934875789, 274900279843, 137441749777, 68719826265, 34359782059, 17179874645, 8589935275, 4294967381, 2147483659, 1073741825, 536870912]
  ++ [268435456, 134217728, 67108864, 33554432, 16777216, 8388608, 4194304, 2097152, 1048576, 524288, 262144, 131072, 65536, 32768, 16384, 8192]
  ++ [4096, 2048, 1024, 512, 256, 128, 64, 32, 16, 8, 4, 2, 1]

/-- C of R112 for circular counts 1 to 44, entry 0 unused: RNE(2^32 / K(n)). -/
def gainC : List Nat :=
  [0, 3037000500, 2716375826, 2635271635, 2614921743, 2609829388, 2608555990, 2608237621, 2608158028, 2608138129, 2608133154, 2608131911, 2608131600, 2608131522, 2608131503, 2608131498]
  ++ [2608131497, 2608131496, 2608131496, 2608131496, 2608131496, 2608131496, 2608131496, 2608131496, 2608131496, 2608131496, 2608131496, 2608131496, 2608131496, 2608131496, 2608131496, 2608131496]
  ++ [2608131496, 2608131496, 2608131496, 2608131496, 2608131496, 2608131496, 2608131496, 2608131496, 2608131496, 2608131496, 2608131496, 2608131496, 2608131496]

/-- C of R112 for hyperbolic counts 1 to 47, entry 0 unused: RNE(2^32 / K(n)). -/
def gainH : List Nat :=
  [0, 4959401049, 5122047379, 5162538502, 5172651222, 5182783751, 5185316262, 5185949351, 5186107621, 5186147188, 5186157080, 5186159553, 5186160171, 5186160326, 5186160365, 5186160403]
  ++ [5186160413, 5186160415, 5186160416, 5186160416, 5186160416, 5186160416, 5186160416, 5186160416, 5186160416, 5186160416, 5186160416, 5186160416, 5186160416, 5186160416, 5186160416, 5186160416]
  ++ [5186160416, 5186160416, 5186160416, 5186160416, 5186160416, 5186160416, 5186160416, 5186160416, 5186160416, 5186160416, 5186160416, 5186160416, 5186160416, 5186160416, 5186160416, 5186160416]

/-- floor(2^256 × tanh(θ(n) / 2^44)) for n = 1 to 47: |atanh(y / x)| > θ(n) / 2^44 exactly when |y| / x lies above tanh,
and no quotient of 48-bit integers lies within 2^−150 of it, so 256 bits decide the comparison (R115). -/
def tanhTheta : List Nat :=
  [0, 57896044618660463849652274188503426024661681784423073586646295176667032966182, 77194726158212258063265294553132624456198069836831170009299515809437382635372, 84617295981117303035191381934698128562448273686805930762094910166007785047520, 87842274593826565629491821139289988131081963982227266697744697237083905638655, 90775279834191867790729567867533704838010297581776173155797610925267066743935, 92136578632440210995681291599231069426511345762468523229853796763568902356982, 92792152411648474760807625900871860405209789571792292060366792810403833408661, 93113821086529083111881653922007850487003715007412045256126182325175078298146, 93273144532546793374399530554663535220393602416554640875699131079889088202506, 93352430854071617732841886606668674846660079194057519854365914119477838197814, 93391980453904651671705352580664259135242314857968905974833226795794732690933, 93411731899724546556768797047364809237840731359902086228968983876948979047203, 93421601788622798257118809597287796203790829045517094680208260807610429326928, 93426535275134492243210782950111829485841904167808700268184864352110469864486, 93431467789922971776447880508703668294231719193387479669816172749589960536597]
  ++ [93433933682954455735111281882024883626738130294901420132914030941978526427191, 93435166538388607072113231853428804318871096940513395446353591946187543206665, 93435782943336529948276431738972675017359567753199981269731041462439109609605, 93436091140118322912111698297930129878602058810963719247727766785879704861100, 93436245237086192240981301343149866323379729282637154386412270876000379844840, 93436322285214371987845400343891066500849806750267351421877898038231229426802, 93436360809189523365721319245293551808802120387591400196993169344915415159414, 93436380071154864459999822418147279708002988108922402783052754842955534354145, 93436389702131976362127907496755388662153849613071162592126567967383090341237, 93436394517619142652395870636506523217606089627808273768719406317838594598277, 93436396925362378382387921386931327423268629729657878513055073958901820029967, 93436398129233909393605600186211486614345308222442035540899305382417576707121, 93436398731169653185770744957992671717582270721872748547147892752570076772411, 93436399032137519653492505188934552690580658054230704039245533152182564194675, 93436399182621451530263196203420347492017718469435531836796630964615359043023, 93436399257863417129375996177635964416671245857678246710548581630214214184129]
  ++ [93436399295484399844114259999264328623069387928882631344266718352732927274283, 93436399314294891180278857895930821652668354056802917087473513856262931860578, 93436399323700136843060023344129917398334073234701009345008696103425876618468, 93436399328402759673125322693621274016321056270738161432736661094565676131693, 93436399330754071087826651524768072816284604304454256582545767821699121103698, 93436399331929726795094485729448398377094197538326600234682117910225343314744, 93436399332517554648707695279066123452466619244361888325559470053344184298517, 93436399332811468575509123165694480408239820602062147382450332288555937148219, 93436399332958425538908542886963545471191304464059044081116373398592916600305, 93436399333031904020607929192086801271501159137211519269699830664339993345126, 93436399333068643261457541455770610191685601152731263008963397232980459763223, 93436399333105382502307099793535873202488190666008840101049379725870438668125, 93436399333123752122731858740199050009980307385511807365449826969913289791599, 93436399333132936932944233157975774742418149149940521615240005236602632055172, 93436399333137529338050419102975421191206150622569361268265639882124237400128, 93436399333139825540603511759503065436291938348893050250495412106113343041255]

/-- LN2 and INVLN2 of R292: RNE(2^44 × ln 2) and RNE(2^44 / ln 2). -/
def ln2Const : Nat := 12193974156573
def invLn2Const : Nat := 25380159564675

/-- The three modes (R36). -/
inductive RotMode where
  | circular | linear | hyperbolic
  deriving DecidableEq, Repr

/-- The hyperbolic gait: the shift of iteration k (R110). -/
def gait (k : Nat) : Nat :=
  if k ≤ 4 then k else if k = 5 then 4 else if k ≤ 14 then k - 1 else if k = 15 then 13
  else if k ≤ 42 then k - 2 else if k = 43 then 40 else k - 3

/-- The shift of iteration k = 1, 2, … (R110). -/
def rotShift (m : RotMode) (k : Nat) : Nat :=
  match m with
  | .hyperbolic => gait k
  | _ => k - 1

/-- alpha(mode, i) (R111). -/
def rotAlpha (m : RotMode) (i : Nat) : Int :=
  match m with
  | .circular => (alphaC.getD i 0 : Nat)
  | .linear => (2 ^ (44 - i) : Nat)
  | .hyperbolic => (alphaH.getD i 0 : Nat)

/-- θ(n) (R111). -/
def rotTheta (n : Nat) : Int := ((List.range n).map (fun j => rotAlpha .hyperbolic (gait (j + 1)))).sum

/-- C(mode, n) (R112). -/
def rotGain (m : RotMode) (n : Nat) : Nat :=
  match m with
  | .circular => gainC.getD n 0
  | .linear => 2 ^ 32
  | .hyperbolic => gainH.getD n 0

/-- The state's arithmetic is modulo 2^48, read as signed (R106). -/
def wrap48 (x : Int) : Int := toSigned 48 (wrap 48 x)

/-- The internal state. -/
structure RotState where
  x : Int
  y : Int
  z : Int
  deriving DecidableEq, Repr

/-- The mode constant m of R110. -/
def modeSign : RotMode → Int
  | .circular => 1
  | .linear => 0
  | .hyperbolic => -1

/-- Iteration k (R110). -/
def rotIterate (m : RotMode) (vta : Bool) (k : Nat) (s : RotState) : RotState :=
  let i := rotShift m k
  let d : Int := if vta then (if s.y < 0 then 1 else -1) else if 0 ≤ s.z then 1 else -1
  let xs := s.x / (2 ^ i : Nat)
  let ys := s.y / (2 ^ i : Nat)
  { x := wrap48 (s.x - modeSign m * d * ys), y := wrap48 (s.y + d * xs), z := wrap48 (s.z - d * rotAlpha m i) }

/-- Iterations `k` to `k + n − 1`. -/
def rotRun (m : RotMode) (vta : Bool) : Nat → Nat → RotState → RotState
  | 0, _, s => s
  | n + 1, k, s => rotRun m vta n (k + 1) (rotIterate m vta k s)

/-- The circular pre-step (R109). -/
def rotPre (vta : Bool) (s : RotState) : RotState :=
  if vta then
    if s.x < 0 ∨ (s.x = 0 ∧ s.y < 0) then { x := wrap48 (-s.x), y := wrap48 (-s.y), z := wrap48 (s.z + 2 ^ 43) } else s
  else
    let q := (s.z + 2 ^ 41) / 2 ^ 42
    let z := s.z - q * 2 ^ 42
    if q = 1 then { x := wrap48 (-s.y), y := s.x, z := z }
    else if q = -1 then { x := s.y, y := wrap48 (-s.x), z := z }
    else if q = 0 then { s with z := z }
    else { x := wrap48 (-s.x), y := wrap48 (-s.y), z := z }

/-- The convergence precondition fails (R115). -/
def rotFails (m : RotMode) (vta : Bool) (n : Nat) (s : RotState) : Bool :=
  match m, vta with
  | .circular, _ => false
  | .linear, false => decide (2 ^ 45 ≤ s.z.natAbs)
  | .linear, true => decide (2 * s.x.natAbs ≤ s.y.natAbs)
  | .hyperbolic, false => decide (rotTheta n < s.z.natAbs)
  | .hyperbolic, true =>
    decide (s.x ≤ s.y.natAbs) || decide (s.x * (tanhTheta.getD n 0 : Nat) < (s.y.natAbs : Int) * 2 ^ 256)

/-- Exponent of the leading one of a nonzero finite value. -/
def topExp (m : Nat) (e : Int) : Int := Nat.log2 m + e

/-- An FP64 significand rounded RNE to 24 bits before entry (R106): value and whether it changed. -/
def round24 (m : Nat) (e : Int) : Nat × Int × Bool :=
  if Nat.log2 m < 24 then (m, e, false)
  else
    let k := Nat.log2 m - 23
    let (n, lost) := roundShift RNE 0 false m k
    (n, e + k, lost)

/-- A finite value at entry: FP64 operands are rounded to 24 significant bits. -/
def enterRound (t : Ty) (neg : Bool) (m : Nat) (e : Int) : Bool × Nat × Int × Nat :=
  if t.tag = 16 ∧ m ≠ 0 then
    let (n, e', lost) := round24 m e
    (neg, n, e', flagIf lost fINEXACT)
  else (neg, m, e, 0)

/-- A finite value over the unit 2^(eL − 35), rounded toward minus infinity (R106). -/
def enterAt (eL : Int) (v : Bool × Nat × Int × Nat) : Int :=
  let (neg, m, e, _) := v
  let u := eL - 35
  if u ≤ e then sgn neg (m * 2 ^ (e - u).toNat) else sgn neg m / (2 ^ (u - e).toNat : Nat)

/-- The pair's entry (R106): x, y, eL and flags. Only for values that are no NaN or infinity. -/
def enterPair (t : Ty) (X Y : Nat) : Int × Int × Int × Nat :=
  if t.cls = .fx then (t.int X * 2 ^ 12, t.int Y * 2 ^ 12, 0, 0)
  else match t.value X, t.value Y with
    | .fin n m e, .fin n' m' e' =>
      let a := enterRound t n m e
      let b := enterRound t n' m' e'
      let (_, ma, ea, fa) := a
      let (_, mb, eb, fb) := b
      if ma = 0 ∧ mb = 0 then (0, 0, 0, 0)
      else
        let eL := if ma = 0 then topExp mb eb else if mb = 0 then topExp ma ea else max (topExp ma ea) (topExp mb eb)
        (enterAt eL a, enterAt eL b, eL, fa ||| fb)
    | _, _ => (0, 0, 0, 0)

/-- The angle's entry (R107): internal z and flags. Bits that its RNE or its saturation discards set no INEXACT (log
entry 78). -/
def enterAngle (m : RotMode) (t : Ty) (Z : Nat) : Int × Nat :=
  match m with
  | .circular =>
    if t.tag = 12 then (toSigned 44 (Z * 2 ^ 12), 0)
    else if t.tag = 11 then (toSigned 44 (Z * 2 ^ 28), 0)
    else match t.value Z with
      | .fin neg k e => (toSigned 44 (wrap 44 (roundAt RNE 0 neg k e (-44)).1), 0)
      | _ => (0, 0)
  | _ =>
    match t.value Z with
    | .fin neg k e =>
      let i := (roundAt RNE 0 neg k e (-44)).1
      if i < -(2 ^ 47 : Nat) then (-(2 ^ 47 : Nat), fSAT)
      else if (2 ^ 47 - 1 : Nat) < i then ((2 ^ 47 - 1 : Nat), fSAT)
      else (i, 0)
    | _ => (0, 0)

/-- Exit of x or y (R113). -/
def exitPair (t : Ty) (eL : Int) (x : Int) : Nat × Nat :=
  if t.cls = .fx then
    let (r, lost) := rneShiftInt x 12
    let (v, fl) := t.sat r
    (v, fl ||| flagIf lost fINEXACT)
  else (fmtOf t.tag).round RNE 0 true (x < 0) x.natAbs (eL - 35)

/-- Exit of z (R113). -/
def exitAngle (m : RotMode) (t : Ty) (z : Int) : Nat × Nat :=
  if t.tag = 12 then
    let (r, lost) := rneShiftInt z 12
    (wrap 32 r, flagIf lost fINEXACT)
  else if t.tag = 11 then
    let (r, lost) := rneShiftInt z 28
    (wrap 16 r, flagIf lost fINEXACT)
  else
    let z := if m = .circular then toSigned 44 (wrap 44 z) else z
    if t.cls = .fx then t.fit RNE 0 (FVal.ofInt z (-44))
    else (fmtOf t.tag).round RNE 0 true (z < 0) z.natAbs (-44)

/-- What a rotation gives for one element. -/
structure RotOut where
  x : Nat
  y : Nat
  z : Nat
  flags : Nat
  fail : Bool
  deriving DecidableEq, Repr

/-- The default NaN of a floating type, 0 of any other (R114). -/
def nanOrZero (t : Ty) : Nat := if t.cls = .flt then (fmtOf t.tag).nan else 0

/-- Gain compensation (R112): the value kept exact, and whether bits were lost. -/
def rotComp (m : RotMode) (n : Nat) (x : Int) : Int × Bool := rneShiftInt (x * (rotGain m n : Nat)) 32

/-- One element of a rotation (R155). -/
def rotElem (m : RotMode) (vta g : Bool) (n : Nat) (pt zt : Ty) (X Y Z : Nat) : RotOut :=
  if (pt.value X).special || (pt.value Y).special || (zt.value Z).special then
    { x := nanOrZero pt, y := nanOrZero pt, z := nanOrZero zt, flags := fINVALID, fail := false }
  else
    let (x, y, eL, f1) := enterPair pt X Y
    let (z, f2) := enterAngle m zt Z
    let s : RotState := { x := x, y := y, z := z }
    let s := if m = .circular then rotPre vta s else s
    let fail := rotFails m vta n s
    let s := rotRun m vta n 1 s
    let (cx, lx) := if g then rotComp m n s.x else (s.x, false)
    let (cy, ly) := if g then rotComp m n s.y else (s.y, false)
    let (ox, f3) := exitPair pt eL cx
    let (oy, f4) := exitPair pt eL cy
    let (oz, f5) := exitAngle m zt s.z
    { x := ox, y := oy, z := oz
      flags := f1 ||| f2 ||| f3 ||| f4 ||| (if vta then f5 else 0) ||| flagIf (lx || ly) fINEXACT, fail := fail }

/-- The tags a pair may carry, and an angle in a mode (R105). -/
def pairTag (t : Ty) : Bool := t.tag == 9 || t.tag == 10 || (13 ≤ t.tag && t.tag ≤ 16)
def angleTag (m : RotMode) (t : Ty) : Bool := pairTag t || (m == .circular && t.cls == .ba)

end Sys2Proof.Machine
end

