-- ==== Sys2Proof/Machine/Operands.lean ====
section
/-! DEFINITION. Operand forms: element types and groups from configuration words (R45 to R47, R119, R120), reading and
writing elements, execution masks, the elements an instruction runs over (R56, R236, R263), and scalar operands (R122). -/

namespace Sys2Proof.Machine

/-- The element type a configuration word names. -/
def cfgTy (c : BitVec 32) : Ty := ⟨cfgTag c, cfgFrac c⟩

/-- A configuration word without W2 and SLC, full (R45, R120). `g` is the group size. -/
def mkCfg (t : Ty) (g : Nat) : BitVec 32 :=
  BitVec.ofNat 32 (t.tag + t.frac * 2 ^ 5 + Nat.log2 g * 2 ^ 11 + 2 ^ 19)

/-- The type of a vector register. -/
def Hart.ty (h : Hart) (r : Reg) : Ty := cfgTy (h.v r.toNat).cfg

/-- The group size of a vector register, 1, 2, 4 or 8. -/
def Hart.grp (h : Hart) (r : Reg) : Nat := cfgGrp (h.v r.toNat).cfg

/-- Capacity of a group of `g` registers at element width `w` (R119). -/
def capacity (W g w : Nat) : Nat :=
  if w = 0 then 0 else if w = 7 then 256 * W * g / 7 / 16 * 16 else 256 * W * g / w

/-- The elements the instruction may reach: VL, or the lane's element and those below it (R119, R236). -/
def Hart.reach (h : Hart) : Nat :=
  match h.lane with
  | some e => e + 1
  | none => h.vl

/-- The operand's capacity holds `n` elements; an untagged operand is not held against it (R119). -/
def Hart.fits (h : Hart) (r : Nat) (g w n : Nat) : Bool := h.isXq r || w == 0 || decide (n ≤ capacity h.w g w)

/-- The registers an operand may reach: all of them, and in a lane's turn those below v31 (R237; log entry 81). -/
def Hart.regEnd (h : Hart) : Nat := if h.lane.isSome then 31 else 32

/-- The group base is legal (R47, R119). -/
def Hart.baseOk (h : Hart) (r g : Nat) : Bool := h.isXq r || (r % g == 0 && decide (r + g ≤ h.regEnd))

/-- A vector operand passes R119 against `n` elements under its own configuration word. -/
def Hart.opOk (h : Hart) (r : Reg) (n : Nat) : Bool :=
  h.baseOk r.toNat (h.grp r) && h.fits r.toNat (h.grp r) (h.ty r).w n

/-- A destination passes R119 under a result configuration. -/
def Hart.resOk (h : Hart) (r : Reg) (t : Ty) (g n : Nat) : Bool :=
  h.baseOk r.toNat g && h.fits r.toNat g t.w n


/-- An element as the device writes it: bits [31:24] of a TOK are zero (R92). -/
def Ty.stored (t : Ty) (x : Nat) : Nat := if t.cls = .tok then x % 2 ^ 24 else x

/-- Reading elements of a group: those taken from its stream when the register is bound (R178), the value popped from
the cross-lane queue (R237), else the register's bits. -/
def Hart.reader (h : Hart) (r g w : Nat) : Nat → Nat :=
  match h.taken.find? (fun p => p.1 == r) with
  | some (_, l) => if h.isXq r then fun _ => l.getD 0 0 % 2 ^ w else fun e => l.getD e 0
  | none =>
    let raw := h.grpBits r g
    fun e => elemAt raw w e

/-- Reading the elements of a vector operand under its own configuration word. -/
def Hart.elems (h : Hart) (r : Reg) : Nat → Nat := h.reader r.toNat (h.grp r) (h.ty r).w

/-- Writing elements of a group of registers. -/
def Hart.writeGroup (h : Hart) (r g w : Nat) (l : List (Nat × Nat)) : Hart :=
  if h.isXq r then { h with taken := h.taken ++ l.map (fun p => (99, [p.2])) }
  else h.keepBound (members r g) (h.putBits r g (l.foldl (fun raw p => setElem raw w p.1 p.2) (h.grpBits r g)))

/-- The result configuration written into every member of a group, FE kept (R120); a register bound to a write stream
keeps its own (R178), and the cross-lane queue has none. -/
def Hart.setCfg (h : Hart) (r g : Nat) (c : BitVec 32) : Hart :=
  if h.isXq r || h.isBound r then h
  else h.keepBound (members r g) ((List.range g).foldl (fun h i =>
    let fe := (h.v (r + i)).cfg &&& 0x00080000
    h.setV (r + i) { h.v (r + i) with cfg := (c &&& 0xFFF7FFFF) ||| fe }) h)

/-- Execution mask: field 0 is unmasked, 1 to 7 select m1 to m7 (R33). -/
def Hart.sel (h : Hart) (k : BitVec 3) (e : Nat) : Bool := k == 0 || (h.mask k.toNat).getLsbD e

/-- Whether a restart leaves element `e` of width `w` to this instruction (R263). -/
def Hart.restarts (h : Hart) (w e : Nat) : Bool :=
  match h.restart with
  | none => true
  | some r =>
    let g := w * e % (256 * h.w) / 256
    if r.ctr.isEmpty then r.skip.getD g 0 == 0
    else
      let c := r.ctr.getD g 0xFFFF
      c != 0xFFFF && decide (c.toNat ≤ e)

/-- Whether an element lies below the stream fault that limits the instruction (R178), and is left to it by a restart. -/
def Hart.left (h : Hart) (w e : Nat) : Bool :=
  (match h.limit with
    | some k => decide (e < k)
    | none => true) && h.restarts w e

/-- The elements the instruction runs over: below VL, below a stream fault (R178), left by a restart (R263); in a
lane's turn the lane's own (R236). -/
def Hart.range (h : Hart) (w : Nat) : List Nat :=
  match h.lane with
  | some e => [e]
  | none => (List.range h.vl).filter (fun e => h.left w e)

/-- The active elements (R121). -/
def Hart.active (h : Hart) (k : BitVec 3) (w : Nat) : List Nat := (h.range w).filter (fun e => h.sel k e)

/-- The scalar operand of a vector-with-scalar instruction: the low `w` bits of s[b] (R122). -/
def Hart.scalarElem (h : Hart) (r : Reg) (w : Nat) : Nat := (h.rd r).toNat % 2 ^ w

/-- A mask register with bit `e` replaced. -/
def setBit (m : BitVec 8192) (e : Nat) (b : Bool) : BitVec 8192 :=
  if b then m ||| (1#8192 <<< e) else m &&& ~~~(1#8192 <<< e)

/-- A mask register with a list of bits replaced. -/
def setBits (m : BitVec 8192) (l : List (Nat × Bool)) : BitVec 8192 := l.foldl (fun m p => setBit m p.1 p.2) m

/-- The 64-bit draw of element `e` under RSR (R97); in a lane's turn, the draw of its c-th rounding (R236), c counting from
0, one for each drawing instruction (log entry 79). -/
def Hart.draw (h : Hart) (e : Nat) : Nat :=
  match h.lane, h.sect with
  | some l, some q =>
    let c := match q.lanes.find? (fun x => x.idx == l) with
      | some x => x.rounds
      | none => 0
    scg h.seed.toNat (0x40000000 ^^^ h.id.hidx.toNat) ((l * 2 ^ 16 + c) % 2 ^ 32)
  | _, _ => scg h.seed.toNat (0x80000000 ^^^ h.id.hidx.toNat) ((h.ridx.toNat + e) % 2 ^ 32)

/-- The rounding context of an element: RMODE and, under RSR, its draw. -/
def Hart.rmodeN (h : Hart) : Nat := h.rmode.toNat
def Hart.drawFor (h : Hart) (e : Nat) : Nat := if h.rmodeN = RSR then h.draw e else 0

/-- RIDX advances by VL after an instruction that rounds under RSR (R97); a lane counts its own roundings (R236). -/
def Hart.spendDraws (h : Hart) : Hart :=
  if h.rmodeN = RSR then
    match h.lane, h.sect with
    | some l, some q =>
      { h with sect := some { q with lanes := q.lanes.map (fun x => if x.idx = l then { x with rounds := x.rounds + 1 } else x) } }
    | some _, none => h
    | none, _ => { h with ridx := h.ridx + BitVec.ofNat 32 h.vl }
  else h

/-- The vector registers that an instruction reads and those it writes, groups by their members. -/
def Hart.vecForm (h : Hart) (i : Instr) : List Nat × List Nat :=
  let own (r : Reg) := members r.toNat (h.grp r)
  let like (r a : Reg) := members r.toNat (h.grp a)
  let two (r a : Reg) := members r.toNat (2 * h.grp a)
  let pair (p : BitVec 4) := members (2 * p.toNat) (2 * cfgGrp (h.v (2 * p.toNat)).cfg)
  let fields (r : Reg) (f : BitVec 3) := members r.toNat ((f.toNat + 1) * h.grp r)
  match i with
  | .vadd d a b _ _ _ | .vsub d a b _ _ _ | .vmul d a b _ _ _ | .vmin d a b _ _ _ | .vmax d a b _ _ _
  | .vand d a b _ _ _ | .vor d a b _ _ _ | .vxor d a b _ _ _ | .vshl d a b _ _ _ | .vshr d a b _ _ _
  | .vadc d a b _ _ _ | .vsbc d a b _ _ _ | .vsel d a b _ _ _ | .vgath d a b _ _ _ => (own a ++ own b, like d a)
  | .vfma d a b _ _ _ => (own a ++ own b ++ own d, own d)
  | .vabs d a _ _ | .vneg d a _ _ | .vmov d a _ _ | .vexpd d a _ _ => (own a, like d a)
  | .vcvt d a _ _ | .vrsum d a _ _ | .vrmax d a _ _ | .vrmin d a _ _ => (own a, own d)
  | .vpack d a _ _ => (two a a, like d a)
  | .vunpk d a _ _ => (own a, two d a)
  | .vquant d a _ _ _ | .vdeq d a _ _ _ | .vxlat d a _ _ _ | .vxlatFf d a _ _ _ | .smax d a _ _ _ | .sexp d a _ _ _ =>
    (own a, own d)
  | .vadds d a _ _ _ | .vsubs d a _ _ _ | .vmuls d a _ _ _ | .vmins d a _ _ _ | .vmaxs d a _ _ _ | .vands d a _ _ _
  | .vors d a _ _ _ | .vxors d a _ _ _ | .vshls d a _ _ _ | .vshrs d a _ _ _ | .vsels d a _ _ _
  | .vslideup d a _ _ _ | .vslidedn d a _ _ _ | .vcomp d a _ _ _ => (own a, like d a)
  | .vfmas d a _ _ _ => (own a ++ own d, own d)
  | .vceq _ a b _ _ _ | .vcne _ a b _ _ _ | .vclt _ a b _ _ _ | .vcge _ a b _ _ _ | .vacc _ a b _ _ _
  | .mop _ a b _ _ | .mopx _ a b _ _ => (own a ++ own b, [])
  | .vceqs _ a _ _ _ _ | .vcnes _ a _ _ _ _ | .vclts _ a _ _ _ _ | .vcges _ a _ _ _ _ | .vsmaxe _ a _ _
  | .spick _ a _ _ _ | .tmovt _ a _ _ | .tmovtC _ a _ _ => (own a, [])
  | .rotc p z _ _ _ _ | .rotcG p z _ _ _ _ | .rotl p z _ _ _ _ | .rotlG p z _ _ _ _ | .roth p z _ _ _ _
  | .rothG p z _ _ _ _ => (own z ++ pair p, pair p)
  | .vtac p z _ _ _ _ | .vtacG p z _ _ _ _ | .vtal p z _ _ _ _ | .vtalG p z _ _ _ _ | .vtah p z _ _ _ _
  | .vtahG p z _ _ _ _ => (own z ++ pair p, own z ++ pair p)
  | .vbcast d _ _ | .vidx d _ | .tmovv _ d _ _ | .tmovvC _ d _ _ => ([], own d)
  | .vld d _ _ _ | .vlds d _ _ _ _ | .vldb d _ _ _ _ | .vldff d _ _ _ _ => ([], own d)
  | .vldx d _ b _ _ _ => (own b, own d)
  | .vldseg d _ _ f => ([], fields d f)
  | .vst d _ _ _ | .vsts d _ _ _ _ | .vstb d _ _ _ _ => (own d, [])
  | .vstx d _ b _ _ _ => (own d ++ own b, [])
  | .vstseg d _ _ _ f => (fields d f, [])
  | .vamoAdd d _ b _ _ _ | .vamoMin d _ b _ _ _ | .vamoMax d _ b _ _ _ | .vamoSwap d _ b _ _ _ => (own d ++ own b, own d)
  | .cmpt d a b _ => (own a, like d a ++ own b)
  | .vcfg d _ _ g => ([], members d.toNat (2 ^ g.toNat))
  | .vcfgw d _ _ => ([], own d)
  | .vtag d a => ([], like d a)
  | .bind d _ => ([], [d.toNat])
  | .scat d a b _ => (own a ++ own b, like d a)
  | _ => ([], [])


/-- Bits of an EW code (R34). -/
def ewBits (ew : Nat) : Nat := [2, 4, 6, 7, 8, 16, 32, 64].getD ew 64

/-- VLMAX at an EW code and group size (R77, R128). -/
def vlmaxOf (W ew g : Nat) : Nat := capacity W g (ewBits ew)

/-- Widths of the W2 codes (R45). -/
def w2Bits (code : Nat) : Nat := [0, 4, 8, 16, 32, 64].getD code 0

end Sys2Proof.Machine
end

