-- ==== Sys2Proof/Machine/Streams.lean ====
section
/-! DEFINITION. Stream pattern records (R174), the elements a bound register takes from or sends to its stream (R178,
R179), walks of block tables (R296, R302 to R306, R309), and the frame of every vector instruction: the check order of
R40, full/empty waits (R49) and bound registers. -/

namespace Sys2Proof.Machine

/-! ## Records -/

/-- Doubleword n of a record or card held as one number. -/
def dw (rec n : Nat) : Nat := rec / 2 ^ (64 * n) % 2 ^ 64

/-- The fields of a stream record (R174). -/
structure StreamRec where
  base : Nat
  write : Bool
  space : Nat
  ccore : Nat
  mode : Nat
  ndim : Nat
  slot : Nat
  pos0 : Nat
  counts : List Nat
  strides : List Int
  freq : Nat
  deriving DecidableEq, Repr

/-- Reading the fields of a record. `ndim` is the number of dimensions. -/
def parseStream (r : Nat) : StreamRec :=
  let d1 := dw r 1
  let ndim := bits d1 54 3 + 1
  { base := bits (dw r 0) 0 56, write := bits d1 63 1 == 1, space := bits d1 61 2, ccore := bits d1 59 2
    mode := bits d1 57 2, ndim := ndim, slot := bits d1 32 14, pos0 := bits d1 0 32
    counts := (List.range ndim).map (fun k => bits (dw r (2 + k)) 32 32)
    strides := (List.range ndim).map (fun k => toSigned 32 (bits (dw r (2 + k)) 0 32))
    freq := bits (dw r 7) 0 56 }

/-- The record holds no reserved or out-of-range value (R174, R305). -/
def streamRecOk (r : Nat) : Bool :=
  let p := parseStream r
  bits (dw r 0) 56 8 == 0 && bits (dw r 1) 46 8 == 0 && p.space != 3 && p.mode != 3
    && decide (p.ndim ≤ (if p.mode = 2 then 5 else 6))
    && (p.mode == 0 || (p.space == 0 && p.strides.getD 1 0 == 0))
    && p.counts.all (fun c => c != 0)
    && (List.range 6).all (fun k => decide (k < p.ndim) || dw r (2 + k) == 0 || (k == 5 && p.mode == 2))
    && (p.mode != 2 || (p.counts.getD 0 0 % 2 == 0 && !p.write && p.freq % 8 == 0 && bits (dw r 7) 56 8 == 0))

/-- Elements of the whole stream (R179). -/
def StreamRec.total (p : StreamRec) : Nat := p.counts.foldl (· * ·) 1

/-- The nest indices of element `j`, dimension 0 innermost (R174). -/
def nestIndex : List Nat → Nat → List Nat
  | [], _ => []
  | c :: cs, j => j % c :: nestIndex cs (j / c)

/-- Σ ik × STRk over the dimensions that pass `keep`. -/
def strideSum (keep : Nat → Bool) (idx : List Nat) (str : List Int) : Int :=
  ((List.range idx.length).map (fun k => if keep k then (idx.getD k 0 : Int) * str.getD k 0 else 0)).sum

/-- A generator's parsed record. -/
def Gen.pat (g : Gen) : StreamRec := parseStream g.record.toNat

/-- Bytes of a scratchpad (R1). -/
def padBytes : Nat := 2 ^ 22

/-- The core of a record's scratchpad space as seen from `core` (R174): its own, or CCORE of its cluster. -/
def padCore (core space ccore : Nat) : Nat := if space = 2 then core / 4 * 4 + ccore else core

/-! ## Block-table entries (R296) -/

/-- A block-table entry. -/
structure Entry where
  d0 : Nat
  d1 : Nat
  deriving DecidableEq, Repr

def Entry.frame (e : Entry) : Nat := bits e.d0 0 34
def Entry.reservedOk (e : Entry) : Bool := bits e.d0 34 6 == 0 && bits e.d0 44 4 == 0
/-- A mapped entry; one with a nonzero reserved bit is treated as unmapped (R296). -/
def Entry.mapped (e : Entry) : Bool := bits e.d0 40 1 == 1 && e.reservedOk
def Entry.shared (e : Entry) : Bool := bits e.d0 41 1 == 1
def Entry.spliced (e : Entry) : Bool := bits e.d0 42 1 == 1
def Entry.pending (e : Entry) : Bool := bits e.d0 43 1 == 1
def Entry.pidx (e : Entry) : Nat := bits e.d0 48 16
def Entry.poff (e : Entry) : Nat := bits e.d1 0 32
def Entry.rthru (e : Entry) : Nat := bits e.d1 32 16
def Entry.mark (e : Entry) : Nat := bits e.d1 48 16

/-- An entry put together from its fields. -/
def Entry.make (frame pidx : Nat) (mapped shared spliced pending : Bool) (poff rthru mark : Nat) : Entry :=
  { d0 := frame % 2 ^ 34 + b2n mapped * 2 ^ 40 + b2n shared * 2 ^ 41 + b2n spliced * 2 ^ 42 + b2n pending * 2 ^ 43
          + pidx % 2 ^ 16 * 2 ^ 48
    d1 := poff % 2 ^ 32 + rthru % 2 ^ 16 * 2 ^ 32 + mark % 2 ^ 16 * 2 ^ 48 }

/-- Reading an entry as one 16-byte access of stream `k`: both doublewords, 16-byte alignment being checked (R273). -/
def State.readEntry (s : State) (k : Nat) (va : BitVec 64) : Except Flt Entry :=
  match s.access s.hart .read 16 va with
  | .error f => .error f
  | .ok p => .ok { d0 := s.load s.hart k false p.pa 8, d1 := s.load s.hart k false (p.pa + 8) 8 }

/-- The entry a walk reads: exempt from the check of an open transaction (R321). -/
def State.walkEntry (s : State) (k : Nat) (va : BitVec 64) : Except Flt Entry :=
  match s.access { s.hart with tx := Tx.none } .read 16 va with
  | .error f => .error f
  | .ok p => .ok { d0 := s.load s.hart k false p.pa 8, d1 := s.load s.hart k false (p.pa + 8) 8 }

/-- The provenance table's base of an ASID; 0 for none (R336). -/
def State.provBase (s : State) (asid : BitVec 16) : Nat :=
  match s.asids.find? (fun a => decide (a.asid = asid)) with
  | some a => a.prov.toNat
  | none => 0

/-- STATE of a provenance entry; 0 when the ASID has no table (R281, R336). -/
def State.provState (s : State) (asid : BitVec 16) (i : Nat) : Nat :=
  let b := s.provBase asid
  if b = 0 then 0 else memRead s.mem (b + 16 * i + 8) 8 % 4

/-- Whether an uncorrectable error stands in a provenance entry that is read (R214). -/
def State.provBad (s : State) (asid : BitVec 16) (i : Nat) : Bool :=
  let b := s.provBase asid
  b != 0 && (List.range 16).any (fun k => s.poison.contains (b + 16 * i + k))

/-- The virtual address of a byte of a frame in the KV window (R335). -/
def kvAddr (frame off : Nat) : BitVec 64 := BitVec.ofNat 64 (kvWindow + frame * 2 ^ 18 + off)

/-! ## Taking elements -/

/-- What taking one stream element gives: its bits, whether it came from an absent block, flags; or a fault; or the
block-table entry (physical and virtual address) it must wait on (R306). -/
inductive Took where
  | val (raw : Nat) (absent : Option (BitVec 64)) (flags : Nat)
  | flt (f : Flt)
  | frontier (pa : Nat) (va : BitVec 64)
  deriving DecidableEq, Repr

/-- The checks of R344 on an element of a scratchpad: its place among the scratchpads' bytes, or its fault. An address
outside the 4 MiB is a protection fault (R225, log entry 17). -/
def State.padAccess (s : State) (h : Hart) (acc : Acc) (n : Nat) (p : StreamRec) (va : BitVec 64) : Except Flt Nat :=
  let a := padCore h.core p.space p.ccore * padBytes + va.toNat
  if windowEnd ≤ va.toNat then .error ⟨cPage, acc.detail, va⟩
  else if va.toNat % n ≠ 0 then .error ⟨cAlign, 0, va⟩
  else if padBytes ≤ va.toNat then .error ⟨cProt, 0, va⟩
  else if acc = .read ∧ (List.range n).any (fun i => s.padPoison.contains (a + i)) then .error ⟨cMachine, 0, va⟩
  else .ok a

/-- One element of an affine stream (MODE 0). -/
def State.takeAffine (s : State) (k n : Nat) (p : StreamRec) (j : Nat) : Took :=
  let off := strideSum (fun _ => true) (nestIndex p.counts j) p.strides
  let va := BitVec.ofInt 64 (p.base + off)
  if p.space = 0 then
    match s.readVa k n va with
    | .error f => .flt f
    | .ok v => .val v none 0
  else match s.padAccess s.hart .read n p va with
    | .error f => .flt f
    | .ok a => .val (s.load s.hart k true a n) none 0

/-- The virtual address of an element of a walk in its frame. -/
def walkAddr (p : StreamRec) (e : Entry) (tok : Nat) (idx : List Nat) : BitVec 64 :=
  kvAddr e.frame 0 + BitVec.ofInt 64 ((tok % 16 * 2 ^ 14 : Nat) + (p.slot : Int) + strideSum (fun k => k != 1) idx p.strides)

/-- The attended layer (R306). -/
def Hart.layer (h : Hart) : Nat := bits h.repth.toNat 32 16

/-- Whether an uncorrectable error stands in the ACNT word of a table, to which the first use of an absent block adds (R214,
R303). -/
def State.acntBad (s : State) (base : Nat) : Bool :=
  match s.translate s.hart.info.asid .write (BitVec.ofNat 64 base - 16) with
  | .error _ => false
  | .ok q => (List.range 8).any (fun i => s.poison.contains (q.pa + i))

/-- One element of a walking read stream (R302 to R306). A block whose frame is not valid is absent (R303), by the leaf entry
by which the walk reaches it (R335). -/
def State.takeWalk (s : State) (k n : Nat) (t : Ty) (p : StreamRec) (j : Nat) : Took :=
  let idx := nestIndex p.counts j
  let tok := p.pos0 + idx.getD 1 0
  let eva := BitVec.ofNat 64 (p.base + 16 * (tok / 16))
  match s.walkEntry k eva with
  | .error f => .flt f
  | .ok e =>
    let i0 := idx.getD 0 0
    let turns : Bool := p.mode == 2 && e.spliced && e.poff != 0
    let at_ (i : Nat) : BitVec 64 := walkAddr p e tok (idx.set 0 i)
    if !e.mapped || !validOf (s.leafFor e.frame) then
      if s.acntBad p.base && !s.hart.counted.contains eva then .flt ⟨cMachine, 0, BitVec.ofNat 64 p.base - 16⟩
      else .val 0 (some eva) 0
    else if e.spliced && s.provBad s.hart.info.asid e.pidx then .flt ⟨cMachine, 0, eva⟩
    else if e.spliced && s.provState s.hart.info.asid e.pidx != 1 then .flt ⟨cStale, 0, eva⟩
    else if e.pending && e.mark / 2 ^ (tok % 16) % 2 == 1 && decide (e.rthru ≤ s.hart.layer) then
      match s.translate s.hart.info.asid .read eva with
      | .ok q => .frontier q.pa eva
      | .error f => .flt f
    else if turns then
      match s.readVa k n (at_ (i0 / 2 * 2)), s.readVa k n (at_ (i0 / 2 * 2 + 1)),
          s.readVa k 4 (BitVec.ofNat 64 (p.freq + 4 * (i0 / 2))) with
      | .ok x, .ok y, .ok f =>
        let o := rotElem .circular false true 32 t ⟨12, 0⟩ x y (f * e.poff % 2 ^ 32)
        .val (if i0 % 2 = 0 then o.x else o.y) none o.flags
      | .error f, _, _ => .flt f
      | _, .error f, _ => .flt f
      | _, _, .error f => .flt f
    else match s.readVa k n (at_ i0) with
      | .error f => .flt f
      | .ok v => .val v none 0

/-- One element of a read stream; past the end it is zero (R179). -/
def State.takeOne (s : State) (k n : Nat) (t : Ty) (p : StreamRec) (j : Nat) : Took :=
  if p.total ≤ j then .val 0 none 0
  else if p.mode = 0 then s.takeAffine k n p j
  else s.takeWalk k n t p j

/-- The block-table entry an element of a walk is reached by (R302). -/
def walkEntryVa (p : StreamRec) (j : Nat) : BitVec 64 :=
  BitVec.ofNat 64 (p.base + 16 * ((p.pos0 + (nestIndex p.counts j).getD 1 0) / 16))

/-- Whether a restart leaves element `e` out on every lane group (R263). -/
def Hart.passed (h : Hart) (e : Nat) : Bool :=
  match h.restart with
  | some r => !r.ctr.isEmpty && r.ctr.all (fun c => decide (e < c.toNat))
  | none => false

/-- What taking a run of elements gives: the bits, what a walk supplied, and the first element not supplied with its
fault or the entry waited on. -/
structure Run where
  raws : List Nat
  elems : List (BitVec 64 × Bool × Nat)
  fault : Option (Nat × Flt)
  frontier : Option (Nat × BitVec 64)
  deriving DecidableEq, Repr

/-- Taking `n` elements from index `e` upward, `j` being the position of element 0; elements that a restart leaves out
are not read again (R178). -/
def State.takeRun (s : State) (k w : Nat) (t : Ty) (p : StreamRec) : Nat → Nat → Nat → Run
  | 0, _, _ => { raws := [], elems := [], fault := none, frontier := none }
  | n + 1, e, j =>
    match (if s.hart.passed e then Took.val 0 none 0 else s.takeOne k w t p (j + e)) with
    | .flt f => { raws := [], elems := [], fault := some (e, f), frontier := none }
    | .frontier a va => { raws := [], elems := [], fault := none, frontier := some (a, va) }
    | .val v ab fl =>
      let r := s.takeRun k w t p n (e + 1) j
      { r with raws := v :: r.raws, elems := (walkEntryVa p (j + e), ab.isSome, fl) :: r.elems }

/-! ## Sending elements -/

/-- Where an element of a write stream goes; nowhere past the end (R179). A write walk's copy-on-write and unmapped
faults name the entry (R299, R309). -/
def State.sendAddr (s : State) (k n : Nat) (p : StreamRec) (j : Nat) : Except Flt (Option (Bool × Nat × Bool)) :=
  if p.total ≤ j then .ok none
  else
    let idx := nestIndex p.counts j
    if p.mode = 0 then
      let va := BitVec.ofInt 64 (p.base + strideSum (fun _ => true) idx p.strides)
      if p.space = 0 then
        (s.access s.hart .write n va).map (fun q => some (false, q.pa, s.performsNow q))
      else (s.padAccess s.hart .write n p va).map (fun a => some (true, a, false))
    else
      let tok := p.pos0 + idx.getD 1 0
      let eva := BitVec.ofNat 64 (p.base + 16 * (tok / 16))
      match s.walkEntry k eva with
      | .error f => .error f
      | .ok e =>
        if !e.mapped then .error ⟨cPage, 1, eva⟩
        else match s.access s.hart .write n (walkAddr p e tok idx) with
          | .error f => .error (if f.cause = cCow then { f with faddr := eva } else f)
          | .ok q => .ok (some (false, q.pa, true))

/-- The first active element among those listed whose sending would fault (R178). -/
def State.sendFault (s : State) (k n : Nat) (p : StreamRec) (pos : Nat) : List Nat → Option (Nat × Flt)
  | [] => none
  | e :: es =>
    match s.sendAddr k n p (pos + e) with
    | .error f => some (e, f)
    | .ok _ => s.sendFault k n p pos es

/-- Sending elements, index and bits. -/
def State.sendAll (s : State) (k n : Nat) (p : StreamRec) (pos : Nat) : List (Nat × Nat) → State
  | [] => s
  | (e, v) :: es =>
    match s.sendAddr k n p (pos + e) with
    | .ok (some (pad, a, now)) => (s.store k now pad a (natLe n v)).sendAll k n p pos es
    | _ => s.sendAll k n p pos es

/-- Elements for one destination group, bit for bit, as a load or an atomic's old value (R164, R184; log entry 98): into the
register, or to the stream it is bound to (R178). -/
def State.putRaw (s : State) (r g : Nat) (t : Ty) (l : List (Nat × Nat)) : State :=
  if s.hart.writeBound r then
    let gen := s.hart.gen (genOf r)
    s.sendAll (genOf r + 2) (t.w / 8) gen.pat gen.pos l
  else s.upd (fun h => h.writeGroup r g t.w l)

/-- The results of a vector instruction for one destination group, each as the device writes it (R92). -/
def State.putElems (s : State) (r g : Nat) (t : Ty) (l : List (Nat × Nat)) : State :=
  s.putRaw r g t (l.map (fun p => (p.1, t.stored p.2)))

/-! ## The frame of a vector instruction -/

/-- A vector source: register, group size, trap bit, and the elements it takes when bound (R178). -/
structure Src where
  reg : Nat
  grp : Nat
  trap : Bool
  need : Nat
  deriving DecidableEq, Repr

/-- A vector destination: register, group size, its result type where the entry gives a result configuration, and the
addresses of a write stream that the instruction uses (R178). -/
structure Dst where
  reg : Nat
  grp : Nat
  cfg : Option (Ty × Nat)
  len : Nat
  deriving DecidableEq, Repr

/-- What a vector instruction asks of the frame: conditions of checks 2 to 4, its sources and destinations, the active
elements it sends in ascending order, whether it works element by element, whether only its sending does (`sendwise`),
the width by which a fault divides its elements among lane groups, 0 for that of its bound register, and, where it sends
fewer than it was to perform, the elements it was to perform. -/
structure VSpec where
  ill : Bool
  tile : Option (BitVec 8)
  mism : Bool
  srcs : List Src
  dsts : List Dst
  sends : List Nat
  lanewise : Bool
  sendwise : Bool := false
  w : Nat := 0
  act : List Nat := []

/-- The elements an instruction was to perform. -/
def VSpec.owed (v : VSpec) : List Nat := if v.act.isEmpty then v.sends else v.act

/-- The registers of a list found empty (R49). A lane waits for one that was empty at the `vfetch` (R236). -/
def Hart.empties (h : Hart) (rs : List Nat) : List Nat := rs.filter (fun r => !cfgFull (h.v r).cfg)

/-- Distinct bound read registers among the sources with the elements each must supply: the larger of its operands'
needs (R178). -/
def boundNeeds (h : Hart) (l : List Src) : List (Nat × Nat × Bool) :=
  let b := l.filter (fun x => h.readBound x.reg)
  let regs := (b.map (fun x => x.reg)).eraseDups
  regs.map (fun r =>
    let xs := b.filter (fun x => x.reg == r)
    (r, (xs.map (fun x => x.need)).foldl max 0, xs.any (fun x => x.trap)))

/-- Whether a walk stream's use is refused: REPTH[63:48] set (check 2, R306), or a tag that re-rotation does not take
(check 4, R305). -/
def walkIllegal (h : Hart) (r : Nat) : Bool :=
  let p := (h.gen (genOf r)).pat
  p.mode != 0 && bits h.repth.toNat 48 16 != 0
def walkMismatch (h : Hart) (r : Nat) : Bool :=
  let p := (h.gen (genOf r)).pat
  p.mode == 2 && !(pairTag (cfgTy (h.v r).cfg) && (cfgTy (h.v r).cfg).tag != 16)

/-- Elements of one bound register taken into the context (R178): the run, or the reason none is taken. -/
def State.takeReg (s : State) (r need : Nat) : Run :=
  let g := s.hart.gen (genOf r)
  let t := cfgTy (s.hart.v r).cfg
  s.takeRun (genOf r + 2) (t.w / 8) t g.pat need 0 g.pos

/-- Adding to a table's ACNT (R303). -/
def State.bumpAcnt (s : State) (base : Nat) (n : Nat) : State :=
  if n = 0 then s
  else match s.translate s.hart.info.asid .write (BitVec.ofNat 64 base - 16) with
    | .error _ => s
    | .ok p => s.commitMem p.pa (natLe 8 ((memRead s.mem p.pa 8 + n) % 2 ^ 64))

/-- The elements of a walk below `k` that the instruction in execution uses; in a lane's turn the lane's own (R236). -/
def Hart.walkedElems (h : Hart) (k : Nat) (w : Walked) : List Nat :=
  (List.range (min k w.elems.length)).filter (fun e => !h.passed e && (match h.lane with
    | some l => e == l
    | none => true))

/-- What a walk supplied for an element. -/
def Walked.at (w : Walked) (e : Nat) : BitVec 64 × Bool × Nat := w.elems.getD e (0, false, 0)

/-- What one walk's elements below `k` bring about: APPROX and the flags of re-rotation, and 1 in ACNT for each absent
block, once for the instruction and its restarts together (R303, R305). -/
def State.settleWalk (k : Nat) (s : State) (w : Walked) : State :=
  let h := s.hart
  let es := h.walkedElems k w
  let away := ((es.filter (fun e => (w.at e).2.1)).map (fun e => (w.at e).1)).eraseDups
  let new := away.filter (fun b => !h.counted.contains b)
  let fl := es.foldl (fun a e => a ||| (w.at e).2.2) (flagIf (!away.isEmpty) fAPPROX)
  (s.setHart ({ h with counted := h.counted ++ new }.raise fl)).bumpAcnt w.base new.length

/-- The bits of m0 that the walks of an instruction leave for its elements below `k`: set for an element that any of them
took from an absent block, cleared for every other (R303). -/
def Hart.absentBits (h : Hart) (k : Nat) : List (Nat × Bool) :=
  (((h.walked.flatMap (fun w => h.walkedElems k w)).eraseDups).filter (fun e => decide (e < h.vl))).map
    (fun e => (e, h.walked.any (fun w => (w.at e).2.1)))

/-- What the walks of the instruction in execution bring about for its elements below `k`. -/
def State.settle (s : State) (k : Nat) : State :=
  let m := setBits (s.hart.mask 0) (s.hart.absentBits k)
  (s.hart.walked.foldl (State.settleWalk k) s).upd (fun h =>
    { (if h.walked.isEmpty then h else h.setMask 0 m) with walked := [] })

/-- The lower of two first faults. -/
def firstFault (a b : Option (Nat × Flt)) : Option (Nat × Flt) :=
  match a, b with
  | none, b => b
  | a, none => a
  | some x, some y => if y.1 < x.1 then some y else some x

/-- The counters recorded for a fault at element `k` of an instruction over elements of width `w`, `act` listing in
ascending order the elements it was to perform: the least one of each lane group that was suppressed (R262). -/
def Hart.counters (h : Hart) (w : Nat) (act : List Nat) (k : Nat) : List (BitVec 16) :=
  (List.range 8).map (fun g =>
    match act.find? (fun e => decide (k ≤ e) && w * e % (256 * h.w) / 256 == g) with
    | some e => BitVec.ofNat 16 e
    | none => 0xFFFF)

/-- The active elements an instruction was to perform before a stream fault cut it short (R178). -/
def Hart.owed (h : Hart) (k : BitVec 3) (w : Nat) : List Nat := { h with limit := none }.active k w

/-- The trap of a fault of element `k` (R163): the index and address are recorded, with the counters given, the elements
below `done` being complete. An undeclared access releases the transaction first (R322). In a lane's turn the lane faults. -/
def State.raiseElem (s : State) (ctr : List (BitVec 16)) (done k : Nat) (f : Flt) : Res :=
  let s := s.settle done
  let h := s.hart
  let t : Trap := { cause := f.cause, detail := f.detail, rpc := h.pc, fel := true, fidx := k, faddr := f.faddr
                    ctr := ctr, performed := 0 }
  if f.cause = cUndecl ∧ h.lane = none then (s.drainAll.endTx).take t else s.take t

/-- A per-element fault at element `k` of width `w`: the elements of `act` below it are complete, those from it upward
were suppressed (R163, R262). -/
def State.elemFault (s : State) (w : Nat) (act : List Nat) (k : Nat) (f : Flt) : Res :=
  s.raiseElem (s.hart.counters w act k) k k f

/-- A fault at element `k` of an instruction that restart re-executes whole (R230, R262). -/
def State.wholeFault (s : State) (k : Nat) (f : Flt) : Res := s.raiseElem ctrWhole 0 k f

/-- After the instruction: what was taken is forgotten, and every bound register's position stands after the
instruction's elements (R178). Values pushed to the cross-lane queue in a lane's turn stay noted. -/
def advanceStreams (reads : List (Nat × Nat)) (writes : List (Nat × Nat)) (h : Hart) : Hart :=
  let h := reads.foldl (fun h p => let g := h.gen (genOf p.1)
                                   h.setGen (genOf p.1) { g with pos := g.pos + p.2, ahead := g.ahead - p.2 }) h
  let h := writes.foldl (fun h p => let g := h.gen (genOf p.1)
                                    h.setGen (genOf p.1) { g with pos := g.pos + p.2 }) h
  { h with taken := h.taken.filter (fun p => p.1 == 99), limit := none, counted := [] }

/-- Whether a generator has yet to hold elements that an instruction takes (R178). -/
def Gen.short (g : Gen) (need : Nat) : Bool := decide (g.ahead < min need (g.pat.total - g.pos))

/-- A run of elements noted in the context. -/
def State.noteRun (s : State) (r : Nat) (run : Run) : State :=
  let g := s.hart.gen (genOf r)
  s.upd (fun h => { h with taken := h.taken ++ [(r, run.raws)]
                           walked := if g.pat.mode = 0 then h.walked
                             else h.walked ++ [{ base := g.pat.base, elems := run.elems }] })

/-- A bound source with the elements it must supply and its trap bit (`boundNeeds`), and what taking them gives. -/
abbrev Taking := (Nat × Nat × Bool) × Run

/-- What taking the elements of every bound source gives. `whole` takes all elements under a restart too, for an instruction
that does not work element by element. -/
def State.takings (s : State) (whole : Bool) (needs : List (Nat × Nat × Bool)) : List Taking :=
  let from_ := if whole then s.upd (fun h => { h with restart := none }) else s
  needs.map (fun n => (n, from_.takeReg n.1 n.2.1))

/-- Whether a source's stream has still to read elements that the instruction takes (R178). -/
def State.lateFor (s : State) (x : Taking) : Bool := (s.hart.gen (genOf x.1.1)).short x.1.2.1

/-- The sources that cannot supply their elements yet (R178, R306). -/
def State.unready (s : State) (runs : List Taking) : List Taking := runs.filter (fun x => s.lateFor x || x.2.frontier.isSome)

/-- The elements of every bound source taken: the context with the elements and the fault that limits the instruction, or the
wait on the first that cannot supply its elements yet (R178, R306). -/
def State.takeSources (s : State) (runs : List Taking) : Except Res (State × Option (Nat × Flt)) :=
  match s.unready runs with
  | x :: _ =>
    match x.2.frontier.filter (fun _ => !s.lateFor x) with
    | some (pa, va) => .error (s.wait .frontier { Watch.none with va := va, addr := pa, len := 16 })
    | none => .error (s.wait .stream { Watch.none with gen := genOf x.1.1, need := x.1.2.1 })
  | [] => .ok (runs.foldl (fun s x => s.noteRun x.1.1 x.2) s, runs.foldl (fun lim x => firstFault lim x.2.fault) none)

/-- A use of a bound register that is illegal (R178, R306): reading one bound to a write stream, writing one bound to a
read stream, members of a group that is not itself bound included; and a walk with REPTH[63:48] set. -/
def Hart.misuse (h : Hart) (v : VSpec) : Bool :=
  let grp (r g : Nat) : List Nat := if h.isXq r then [] else if h.isBound r then [r] else members r g
  v.srcs.any (fun x => (grp x.reg x.grp).any (fun r => h.writeBound r) || (h.readBound x.reg && walkIllegal h x.reg))
    || v.dsts.any (fun d => (grp d.reg d.grp).any (fun r => h.readBound r) || (h.writeBound d.reg && walkIllegal h d.reg))

/-- THE FRAME of a vector instruction: R40's checks 2 to 5 in order, waiting for empty registers (R49) and for stream
elements (R178), then the body on the context with its stream elements taken; a fault of a stream element limits the
body to the elements below it and is raised after them. At VL = 0 streams move on without an access (R56, R222). An empty
source or a stream that cannot supply its elements, whose trap bit is set, faults before any wait (log entry 99), and a write
stream accepts its elements at any time (log entry 91). -/
def State.vector (s : State) (v : VSpec) (body : State → Res) : Res :=
  let h := s.hart
  let srcRegs := v.srcs.map (fun x => x.reg)
  let misuse := h.misuse v
  let wrongCfg := v.dsts.any (fun d => h.writeBound d.reg && (match d.cfg with
      | some (t, g) => decide (cfgTy (h.v d.reg).cfg ≠ t) || cfgGrp (h.v d.reg).cfg != g
      | none => false))
    || srcRegs.any (fun r => h.readBound r && walkMismatch h r)
  if v.ill || misuse then s.illegal
  else match v.tile with
  | some d => s.fault cTile d
  | none =>
    if v.mism || wrongCfg then s.fault cType 0
    else
      let srcE := v.srcs.filter (fun x => !h.readBound x.reg && !h.isXq x.reg && !(h.empties (members x.reg x.grp)).isEmpty)
      let dstE := v.dsts.flatMap (fun d => if h.isXq d.reg || h.isBound d.reg then [] else h.empties (members d.reg d.grp))
      let needs := boundNeeds h v.srcs
      let runs := s.takings (!v.lanewise) needs
      if (srcE.any (fun x => x.trap) || (s.unready runs).any (fun x => x.1.2.2)) ∧ h.lane = none then s.fault cEmpty 0
      else if !srcE.isEmpty || !dstE.isEmpty then
        s.wait .fullEmpty { Watch.none with regs := srcE.flatMap (fun x => h.empties (members x.reg x.grp)) ++ dstE }
      else
        let outs := (v.dsts.filter (fun d => h.writeBound d.reg)).map (fun d => d.reg)
        let lens := (v.dsts.filter (fun d => h.writeBound d.reg)).map (fun d => (d.reg, d.len))
        match s.takeSources runs with
        | .error r => r
        | .ok (s1, limS) =>
          let idle : Bool := !needs.isEmpty && h.vl == 0 && h.lane.isNone
          let s1 := if idle then s1.upd (fun h => { h with taken := [], walked := [] }) else s1
          let limS := if idle then none else limS
          let limO := outs.foldl (fun lim r =>
            let g := h.gen (genOf r)
            firstFault lim (s.sendFault (genOf r + 2) ((cfgTy (h.v r).cfg).w / 8) g.pat g.pos v.sends)) none
          match firstFault limS limO with
          | none =>
            match body s1 with
            | .next s2 =>
              if s2.hart.pc = h.pc then .next s2
              else .next ((s2.settle 65536).upd (advanceStreams (needs.map (fun p => (p.1, p.2.1))) lens))
            | .fault f => .fault f
            | .refused r => .refused r
          | some (k, f) =>
            let w := if v.w ≠ 0 then v.w else match outs with
              | r :: _ => (cfgTy (h.v r).cfg).w
              | [] => match needs with
                | p :: _ => (cfgTy (h.v p.1).cfg).w
                | [] => 8
            if !v.lanewise && !(v.sendwise && limS.isNone) then
              (s1.upd (fun h => { h with taken := [], walked := [] })).wholeFault k f
            else
              match body (s1.upd (fun h => { h with limit := some k })) with
              | .next s2 =>
                if s2.hart.pc = h.pc then .next s2
                else (s2.upd (fun h' => { h' with taken := [], limit := none, pc := h.pc, ridx := h.ridx })).elemFault w
                  v.owed k f
              | .fault f => .fault f
              | .refused r => .refused r

/-- A long-latency producer's destinations become empty at issue and land later (R49); in a lane's turn nothing is
observed empty (R236). -/
def State.produce (s : State) (regs : List Nat) (due : Nat) : State :=
  if s.hart.lane.isSome then s
  else s.upd (fun h => { h.setFulls false regs with pend := h.pend ++ [{ regs := regs, due := due }] })

end Sys2Proof.Machine
end

