-- ==== Sys2Proof/Machine/Lanes.lean ====
section
/-! DEFINITION. What the words of a vector-thread block read, write and pass on (R235 to R237), and what holds up the issue of a
vector word in its own hart (R49, R178, R252). The turns of lanes are in Turn.lean. -/

namespace Sys2Proof.Machine

/-- Whether a lane may execute a word of this instruction (R235). -/
def laneAdmits (w : BitVec 32) (i : Instr) : Bool :=
  let m := w.toNat / 2 ^ 26
  (match i with
    | .mand _ _ _ | .mor _ _ _ | .mxor _ _ _ | .mnot _ _ | .mset _ | .mclr _ => true
    | .vldx _ _ _ _ _ _ | .vstx _ _ _ _ _ _ | .lfetch _ _ _ | .lstop => true
    | .illegalInstruction _ => false
    | _ => m == 0x11 || m == 0x12 || m == 0x13 || m == 0x17 || m == 0x18)

/-- The vector sources and destinations of an instruction admitted in a block, and its mask field (R237). -/
def laneForm : Instr → List Nat × List Nat × BitVec 3
  | .vadd d a b k _ _ | .vsub d a b k _ _ | .vmul d a b k _ _ | .vmin d a b k _ _ | .vmax d a b k _ _
  | .vand d a b k _ _ | .vor d a b k _ _ | .vxor d a b k _ _ | .vshl d a b k _ _ | .vshr d a b k _ _
  | .vadc d a b k _ _ | .vsbc d a b k _ _ => ([a.toNat, b.toNat], [d.toNat], k)
  | .vsel d a b _ _ _ => ([a.toNat, b.toNat], [d.toNat], 0)
  | .vfma d a b k _ _ => ([a.toNat, b.toNat, d.toNat], [d.toNat], k)
  | .vabs d a k _ | .vneg d a k _ | .vmov d a k _ | .vcvt d a k _ | .vpack d a k _ | .vunpk d a k _
  | .vquant d a _ k _ | .vdeq d a _ k _ => ([a.toNat], [d.toNat], k)
  | .vadds d a _ k _ | .vsubs d a _ k _ | .vmuls d a _ k _ | .vmins d a _ k _ | .vmaxs d a _ k _ | .vands d a _ k _
  | .vors d a _ k _ | .vxors d a _ k _ | .vshls d a _ k _ | .vshrs d a _ k _ | .vsels d a _ k _ => ([a.toNat], [d.toNat], k)
  | .vfmas d a _ k _ => ([a.toNat, d.toNat], [d.toNat], k)
  | .vceq _ a b k _ _ | .vcne _ a b k _ _ | .vclt _ a b k _ _ | .vcge _ a b k _ _ => ([a.toNat, b.toNat], [], k)
  | .vceqs _ a _ k _ _ | .vcnes _ a _ k _ _ | .vclts _ a _ k _ _ | .vcges _ a _ k _ _ => ([a.toNat], [], k)
  | .rotc p z _ k _ _ | .rotcG p z _ k _ _ | .rotl p z _ k _ _ | .rotlG p z _ k _ _ | .roth p z _ k _ _
  | .rothG p z _ k _ _ => ([z.toNat, 2 * p.toNat], [2 * p.toNat], k)
  | .vtac p z _ k _ _ | .vtacG p z _ k _ _ | .vtal p z _ k _ _ | .vtalG p z _ k _ _ | .vtah p z _ k _ _
  | .vtahG p z _ k _ _ => ([z.toNat, 2 * p.toNat], [2 * p.toNat, z.toNat], k)
  | .vldx d _ b k _ _ => ([b.toNat], [d.toNat], k)
  | .vstx d _ b k _ _ => ([d.toNat, b.toNat], [], k)
  | .lfetch a k _ => ([a.toNat], [], k)
  | _ => ([], [], 0)

/-- Whether lane `e` pops the cross-lane queue: an operand it reads names v31, and the element is active. `vsel` reads
the one of its operands that the mask chooses (R136, R237). -/
def Hart.popsQueue (h : Hart) (e : Nat) (i : Instr) : Bool :=
  match i with
  | .vsel _ a b k _ _ => (if h.sel k e then a else b) == 31
  | _ => let f := laneForm i
         f.1.contains 31 && h.sel f.2.2 e

/-- The configuration under which the cross-lane queue is read and written: that of the other vector source, or of the
destination, or N64 where neither is a register (R237). -/
def Hart.queueCfg (h : Hart) (i : Instr) : BitVec 32 :=
  let f := laneForm i
  match (f.1 ++ f.2.1).find? (fun r => r != 31) with
  | some r => (h.v r).cfg ||| 0x00080000
  | none => mkCfg ⟨8, 0⟩ 1

/-- The lane whose pushes lane `e` pops, and the lane that pops what lane `e` pushes. -/
def Section.before (q : Section) (e : Nat) : Option Lane := (q.lanes.filter (fun l => decide (l.idx < e))).getLast?
def Section.after (q : Section) (e : Nat) : Option Lane := q.lanes.find? (fun l => decide (e < l.idx))

/-- Popping the queue of a lane: the value, whether the queue had ended, and what remains; none while the lane must wait
(R237). The lowest active lane finds its queue ended once its seed is taken (log entry 26). -/
def Section.pop (q : Section) (l : Lane) : Option (BitVec 64 × Bool × List (BitVec 64)) :=
  match l.inbox with
  | v :: rest => some (v, false, rest)
  | [] => match q.before l.idx with
    | some p => if p.st = .stopped then some (0, true, []) else none
    | none => some (0, true, [])

/-- Values pushed by lane `e`: to the next lane's queue of 4, none while they do not fit; the last to the tail (R237). -/
def Section.push (q : Section) (e : Nat) (vs : List (BitVec 64)) : Option Section :=
  match vs.getLast?, q.after e with
  | none, _ => some q
  | some v, none => some { q with tail := some v }
  | some _, some n =>
    if 4 < n.inbox.length + vs.length then none
    else some { q with lanes := q.lanes.map (fun l => if l.idx = n.idx then { l with inbox := l.inbox ++ vs } else l) }

/-- Whether some lane of the section has not stopped. -/
def Section.busy (q : Section) : Bool := q.lanes.any (fun l => decide (l.st ≠ .stopped))

/-- How far each lane group of a hart's grant has gone: the least index of the word at PC that it has yet to do, 0xFFFF where
that word is complete, and the words after it that are (R262, R263). -/
def Hart.progress (h : Hart) : List (BitVec 16) × List Nat :=
  match h.restart with
  | none => (List.replicate 8 0, List.replicate 8 0)
  | some r =>
    if r.ctr.isEmpty then (r.skip.map (fun x => if x = 0 then 0 else 0xFFFF), r.skip.map (fun x => x - 1))
    else (r.ctr, r.skip)

/-! ## What can issue -/

/-- The depth of a pairing of tags, none where R222 lists none. -/
def mopDepth (a b : Ty) : Option Nat :=
  let f8 (t : Nat) := t == 17 || t == 18
  let ps (t : Nat) := t == 20 || t == 21
  if (a.tag = 14 ∧ b.tag = 14) ∨ (a.tag = 13 ∧ b.tag = 13) then some 1
  else if (f8 a.tag && f8 b.tag) ∨ (a.tag = 22 ∧ b.tag = 22) then some 2
  else if ps a.tag && ps b.tag then some 4
  else none

/-- The elements that each generator must hold before a vector instruction issues: VL for a read-bound source, but 2 × VL for
the va of `vunpk` and 64 × d for the vb of `mop` and `mop.s` (R149, R178, R222, R224). -/
def Hart.streamNeeds (h : Hart) (i : Instr) : List (Nat × Nat) :=
  let bound (l : List (Nat × Nat)) := ((l.filter (fun p => h.readBound p.1)).map (fun p => (genOf p.1, p.2))).eraseDups
  match i with
  | .vunpk _ a _ _ => bound [(a.toNat, 2 * h.vl)]
  | .mop _ a b _ _ =>
    let n := 64 * (mopDepth (h.ty a) (h.ty b)).getD 1
    if a = b then bound [(a.toNat, max h.vl n)] else bound [(a.toNat, h.vl), (b.toNat, n)]
  | .mopS _ a b _ _ =>
    let n := 64 * (mopDepth (h.ty a) (h.ty b)).getD 1
    if a = b then [(a.toNat - 2, h.vl + n)] else [(a.toNat - 2, h.vl), (b.toNat - 2, n)]
  | _ => bound ((h.vecForm i).1.map (fun r => (r, h.vl)))

/-- Whether a register that a vector instruction names is empty, or a stream has not supplied its elements (R49, R178). -/
def Hart.blocked (h : Hart) (i : Instr) : Bool :=
  let f := h.vecForm i
  (f.1 ++ f.2).any (fun r => !h.isBound r && !h.isXq r && !cfgFull (h.v r).cfg)
    || (h.streamNeeds i).any (fun p => let g := h.gen p.1
                                       decide (g.ahead < min p.2 (g.pat.total - g.pos)))

/-- Counters and skips that leave an instruction begun on some lane groups or elements and not complete on all (R262). -/
def partDone (ctr : List (BitVec 16)) (skip : List Nat) : Bool :=
  (decide (ctr ≠ ctrWhole) && ctr.any (fun c => c != 0xFFFF)) || skip.any (fun n => n != 0)

/-- An instruction that captures CTGEN holds its issue while a swap is pending, but for one that a restart finishes, which has
issued before (R252). -/
def State.codeHeld (s : State) (uses : Bool) : Bool :=
  uses && (s.codeTab s.hart.core).swapPending && !s.hart.restart.any (fun r => partDone r.ctr r.skip)

/-- Whether a vector instruction captures CTGEN: `vquant` to CT4 and `vdeq` from it (R147, R148, R252). -/
def Hart.usesCode (h : Hart) (i : Instr) : Bool :=
  match i with
  | .vquant d _ _ _ _ => (h.ty d).tag == 26
  | .vdeq _ a _ _ _ => (h.ty a).tag == 26
  | _ => false

/-- The word at a hart's PC, when it can be fetched. -/
def State.wordAt (s : State) (h : Hart) : Option Nat :=
  match s.translate h.info.asid .fetch h.pc with
  | .ok p => some (memRead s.mem p.pa 4)
  | .error _ => none

/-- Whether a hart can issue: resident, or waiting while its own emulation handler runs (R257). -/
def Hart.runnable (h : Hart) : Bool :=
  decide (h.st = .resident) || (decide (h.st = .waiting .emulation) && h.handler.isSome)

end Sys2Proof.Machine
end

