-- ==== Sys2Proof/Machine/Rcb.lean ====
section
/-! DEFINITION. Region control blocks (R4 to R8): reading a block, the path to the root, effective values, the checks
of acceptance and the values a launch takes from its tree. The device reads blocks at device addresses. -/

namespace Sys2Proof.Machine

/-- Doubleword `n` of the RCB at a device address (R5); past HBM's end, the bytes of the package's byte memory there (log entry 71). -/
def State.rcbD (s : State) (rcb n : Nat) : Nat := memRead s.mem (rcb + 8 * n) 8

/-- PARENT of an RCB. -/
def State.rcbParent (s : State) (rcb : Nat) : Nat := bits (s.rcbD rcb 4) 0 56

/-- The RCBs from one toward the root, at most `n` of them (R4, R6). -/
def State.chain (s : State) : Nat → Nat → List Nat
  | 0, _ => []
  | n + 1, a => a :: (if s.rcbParent a = 0 then [] else s.chain n (s.rcbParent a))

/-- The path of a leaf; an accepted tree has at most 8 levels (R8). -/
def State.path (s : State) (rcb : Nat) : List Nat := s.chain 8 rcb

/-- The effective value of a field along a path: the first RCB whose override bit is set, or the root (R6). -/
def State.eff (s : State) (ovr : Nat) (read : Nat → Nat) : List Nat → Nat
  | [] => 0
  | [r] => read r
  | r :: rest => if bits (s.rcbD r 0) (32 + ovr) 1 = 1 then read r else s.eff ovr read rest

/-- Effective values of the inheritable fields (R5, R6). -/
def State.effPrio (s : State) (p : List Nat) : Nat := s.eff 0 (fun r => bits (s.rcbD r 0) 56 4) p
def State.effWght (s : State) (p : List Nat) : Nat := s.eff 1 (fun r => bits (s.rcbD r 0) 52 4) p
def State.effLgbud (s : State) (p : List Nat) : Nat := s.eff 2 (fun r => bits (s.rcbD r 1) 48 16) p
def State.effEbud (s : State) (p : List Nat) : Nat := s.eff 3 (fun r => bits (s.rcbD r 1) 0 48) p
def State.effTbud (s : State) (p : List Nat) : Nat := s.eff 4 (fun r => s.rcbD r 3) p
def State.effFdom (s : State) (p : List Nat) : Nat := s.eff 5 (fun r => bits (s.rcbD r 0) 16 16) p
def State.effAsid (s : State) (p : List Nat) : Nat := s.eff 6 (fun r => bits (s.rcbD r 0) 0 16) p
def State.effEmuh (s : State) (p : List Nat) : Nat := s.eff 7 (fun r => bits (s.rcbD r 2) 0 56) p
def State.effDet (s : State) (p : List Nat) : Bool := s.eff 8 (fun r => bits (s.rcbD r 0) 48 1) p == 1
def State.effPers (s : State) (p : List Nat) : Bool := s.eff 8 (fun r => bits (s.rcbD r 0) 47 1) p == 1

/-- Every suffix of a path: the RCB and the path from it to the root. -/
def suffixes : List Nat → List (List Nat)
  | [] => []
  | r :: rest => (r :: rest) :: suffixes rest

/-- The values read again each time a hart becomes resident (R7). -/
def State.refresh (s : State) (rcb : Nat) (i : LaunchInfo) : LaunchInfo :=
  let p := s.path rcb
  { i with prio := BitVec.ofNat 4 (s.effPrio p), wght := BitVec.ofNat 4 (s.effWght p)
           lgbud := BitVec.ofNat 16 (s.effLgbud p), ebud := BitVec.ofNat 48 (s.effEbud p)
           ebuds := (suffixes p).map (fun q => BitVec.ofNat 48 (s.effEbud q))
           lgbuds := (suffixes p).map (fun q => BitVec.ofNat 16 (s.effLgbud q)), tbud := BitVec.ofNat 64 (s.effTbud p) }

/-- The values a launch takes at acceptance (R5, R7). -/
def State.launchInfo (s : State) (rcb : Nat) : LaunchInfo :=
  let p := s.path rcb
  let d := s.rcbD rcb
  s.refresh rcb
    { asid := BitVec.ofNat 16 (s.effAsid p), fdom := BitVec.ofNat 16 (s.effFdom p), emuh := BitVec.ofNat 56 (s.effEmuh p)
      det := s.effDet p, pers := s.effPers p, rwid := bits (d 8) 32 4, hcnt := BitVec.ofNat 32 (d 8)
      code := BitVec.ofNat 56 (d 9), segb := BitVec.ofNat 32 (d 10), stkb := BitVec.ofNat 56 (d 12)
      stks := BitVec.ofNat 32 (d 13), wdog := BitVec.ofNat 32 (d 14), cmask := BitVec.ofNat 128 (d 15 + d 16 * 2 ^ 64)
      prio := 0, wght := 0, lgbud := 0, ebud := 0, ebuds := [], lgbuds := [], tbud := 0, acceptedNs := s.ns }

/-- Whether every reserved bit of an RCB is zero, by its kind; bits that R5's table gives no row count as reserved (R5, R8; log
entry 44). -/
def State.rcbReservedOk (s : State) (rcb : Nat) : Bool :=
  let d := s.rcbD rcb
  bits (d 0) 41 6 == 0 && bits (d 2) 56 8 == 0 && bits (d 4) 56 8 == 0 && bits (d 5) 56 8 == 0
    && bits (d 6) 56 8 == 0 && d 7 == 0
    && (if bits (d 0) 60 4 = 1 then
          bits (d 8) 36 28 == 0 && bits (d 9) 56 8 == 0 && bits (d 10) 32 32 == 0 && bits (d 11) 56 8 == 0
            && bits (d 12) 56 8 == 0 && bits (d 13) 32 32 == 0 && bits (d 14) 32 32 == 0 && bits (d 17) 56 8 == 0
            && (List.range 13).all (fun i => d (19 + i) == 0)
        else (List.range 24).all (fun i => d (8 + i) == 0))

/-- The checks of R8: whether the launch of a leaf RCB is accepted. No core is ever out of service, so a CMASK always
names one (R1, R2). -/
def State.launchOk (s : State) (rcb : Nat) : Bool :=
  let p := s.chain 9 rcb
  let d := s.rcbD rcb
  decide (p.length ≤ 8) && p.all (fun r => r % 256 == 0 && decide (bits (s.rcbD r 0) 60 4 ≤ 1) && s.rcbReservedOk r)
    && (let w := bits (d 8) 32 4
        w == 1 || w == 2 || w == 4 || w == 8)
    && bits (d 8) 0 32 != 0 && bits (d 13) 0 32 % 16 == 0
    && !(s.effPers p && bits (d 14) 0 32 == 0)

/-- LEVEL written into every RCB of the path, the root's being 0 (R4, R5). -/
def State.writeLevels (s : State) (rcb : Nat) : State :=
  let p := s.path rcb
  (List.range p.length).foldl (fun s i =>
    let r := p.getD i 0
    let lv := p.length - 1 - i
    let b := memRead s.mem (r + 6) 1
    s.putDevice (r + 6) [BitVec.ofNat 8 (b % 2 + lv % 8 * 2 + b / 16 * 16)]) s

/-- Whether a hart belongs to the subtree of an RCB (R11). -/
def State.inSubtree (s : State) (rcb : Nat) (h : Hart) : Bool := (s.path h.id.rcb.toNat).contains rcb

end Sys2Proof.Machine
end

