-- ==== Sys2Proof/Machine/Grant.lean ====
section
/-! DEFINITION. Lane-group and tile-row grants (R15 to R17, R20, R21, R216), the lane-group budget (R11), the completion of
commands and launches (R10, R331) and the retirement of a hart (R87). -/

namespace Sys2Proof.Machine

/-! ## Lane groups -/

/-- Whether a hart is bound to a lane group of a core (R15). -/
def Hart.boundTo (h : Hart) (core lg : Nat) : Bool :=
  h.onCore && h.core == core && decide (h.lgb ≤ lg) && decide (lg < h.lgb + h.w)

/-- The harts bound to a lane group, other than one. -/
def State.boundHarts (s : State) (self : HartId) (core lg : Nat) : List Hart :=
  s.harts.filter (fun h => decide (h.id ≠ self) && h.boundTo core lg)

/-- Fields of LPART (R20). -/
def partEn (p : BitVec 64) : Bool := p.getLsbD 0
def partHA (p : BitVec 64) : Nat := bits p.toNat 6 3
def partHB (p : BitVec 64) : Nat := bits p.toNat 9 3

/-- The lane groups within which a context of a core may be granted: all, its part, or none (R21). -/
def State.lgWindow (s : State) (core ctx : Nat) : Nat × Nat :=
  let p := s.lpart core
  if !partEn p then (0, 8)
  else if ctx = partHA p then (0, 4)
  else if ctx = partHB p then (4, 8)
  else (0, 0)

/-- Whether the block of `w` lane groups from `g` lies in the window and is free of every other hart. -/
def State.blockFree (s : State) (self : HartId) (core : Nat) (win : Nat × Nat) (g w : Nat) : Bool :=
  decide (win.1 ≤ g) && decide (g + w ≤ win.2)
    && (List.range w).all (fun i => (s.boundHarts self core (g + i)).isEmpty)

/-- The free aligned block of width `w` of the lowest number (R15; which of several a hart gets is log entry 73). -/
def State.freeBlock (s : State) (self : HartId) (core ctx w : Nat) : Option Nat :=
  ((List.range 8).filter (fun g => g % w == 0)).find? (fun g => s.blockFree self core (s.lgWindow core ctx) g w)

/-- The shared lane group with the fewest bound harts, below 8, the lowest number among equals (R16). -/
def State.sharedGroup (s : State) (self : HartId) (core ctx : Nat) : Option Nat :=
  let win := s.lgWindow core ctx
  let cand := (List.range 8).filter (fun g => decide (win.1 ≤ g) && decide (g < win.2)
    && (s.boundHarts self core g).all (fun h => h.w == 1) && decide ((s.boundHarts self core g).length < 8))
  cand.foldl (fun best g => match best with
    | none => some g
    | some b => if (s.boundHarts self core g).length < (s.boundHarts self core b).length then some g else some b) none

/-- The grant a hart could have on a context of a core: first lane group and width (R16, R17, R28). `exact` asks for
the width `want` and nothing less. -/
def State.grantOn (s : State) (self : HartId) (core ctx want : Nat) (exact : Bool) (rwid : Nat) : Option (Nat × Nat) :=
  let widths := [8, 4, 2, 1].filter (fun w => if exact then w == want else decide (w ≤ want))
  match widths.findSome? (fun w => (s.freeBlock self core ctx w).map (fun g => (g, w))) with
  | some r => some r
  | none => if want = 1 ∧ rwid = 1 then (s.sharedGroup self core ctx).map (fun g => (g, 1)) else none

/-- The width a hart needs when it next becomes resident, and whether it may take less (R16, R17, R21, R28, R190). -/
def Hart.wantWidth (h : Hart) : Nat × Bool :=
  let fresh := match h.save with
    | none => true
    | some r => r.cause = cSoft
  if fresh && !(h.windows.toList.any (fun w => w.opened)) then (h.info.rwid, h.info.det) else (h.w, true)

/-- The lane groups of a subtree that stand granted, each once (R11), with a proposed grant added. -/
def State.subtreeGroups (s : State) (rcb : Nat) (self : HartId) (core g w : Nat) : Nat :=
  let inSub := s.harts.filter (fun h => decide (h.id ≠ self) && h.onCore && s.inSubtree rcb h)
  ((List.range 1024).filter (fun x =>
    (x / 8 == core && decide (g ≤ x % 8) && decide (x % 8 < g + w))
      || inSub.any (fun h => h.boundTo (x / 8) (x % 8)))).length


/-- The lane-group budgets at a hart's leaf and at every ancestor, as the RCBs stand (R5, R11). -/
def State.lgbudsOf (s : State) (id : HartId) : List Nat := (suffixes (s.path id.rcb.toNat)).map (fun p => s.effLgbud p)

/-- The budgets that a hart read when it became resident (R7). -/
def LaunchInfo.budgets (i : LaunchInfo) : List Nat := i.lgbuds.map (fun b => b.toNat)

/-- Whether a grant keeps the lane-group budgets given at the leaf and at every ancestor (R11). -/
def State.budgetOk (s : State) (buds : List Nat) (self : HartId) (core g w : Nat) : Bool :=
  ((s.path self.rcb.toNat).zip buds).all (fun p => p.2 == 0 || decide (s.subtreeGroups p.1 self core g w ≤ p.2))

/-- The summed energy counters of a subtree (R11), those of its harts that have retired included (log entry 72). -/
def State.subtreeEnergy (s : State) (rcb : Nat) : Nat :=
  ((s.harts.filter (fun h => s.inSubtree rcb h)).map (fun h => h.ecnt.toNat)).sum

/-- Whether a subtree has reached its energy budget as its RCBs stand (R11); `p` is the path from its RCB. -/
def State.overEbud (s : State) (p : List Nat) : Bool :=
  let b := s.effEbud p
  b != 0 && decide (b ≤ s.subtreeEnergy (p.headD 0))

/-- The RCBs over a hart whose subtrees have reached the budgets it read when it became resident (R7, R11). -/
def State.spentOver (s : State) (h : Hart) : List Nat :=
  ((s.path h.id.rcb.toNat).zip h.info.ebuds).filterMap (fun p =>
    if p.2 ≠ 0 ∧ p.2.toNat ≤ s.subtreeEnergy p.1 then some p.1 else none)

/-! ## Tile rows (R216) -/

/-- Whether rows `lo` to `lo + n − 1` of a core's matrix unit are free of every other hart. -/
def State.rowsFree (s : State) (self : HartId) (core lo n : Nat) : Bool :=
  s.harts.all (fun h => decide (h.id = self) || !h.onCore || h.core != core || h.trows == 0
    || !overlaps lo n h.rowBase h.trows)

/-- The first aligned free block of `n` rows within a range. -/
def State.rowBlock (s : State) (self : HartId) (core lo hi n : Nat) : Option Nat :=
  ([0, 16, 32, 48].filter (fun r => r % n == 0 && decide (lo ≤ r) && decide (r + n ≤ hi))).find?
    (fun r => s.rowsFree self core r n)

/-- The largest aligned free block of at most `n` rows within a range: base and size. -/
def State.rowsUpTo (s : State) (self : HartId) (core lo hi n : Nat) : Option (Nat × Nat) :=
  ([64, 32, 16].filter (fun k => decide (k ≤ n))).findSome? (fun k => (s.rowBlock self core lo hi k).map (fun r => (r, k)))

/-- The rows within which a context of a core may be granted: all, its part's, or none (R21, R216). -/
def State.rowWindow (s : State) (core ctx : Nat) : Nat × Nat :=
  let p := s.lpart core
  if !partEn p then (0, 64)
  else if ctx = partHA p then (0, 32)
  else if ctx = partHB p then (32, 64)
  else (0, 0)

/-- The rows `tattach` grants to a hart that asks for `n`: base and count, (0, 0) for none (R216). -/
def State.rowGrant (s : State) (h : Hart) (n : Nat) : Nat × Nat :=
  let win := s.rowWindow h.core h.ctx
  (if h.info.det then (s.rowBlock h.id h.core win.1 win.2 n).map (fun r => (r, n))
   else s.rowsUpTo h.id h.core win.1 win.2 n).getD (0, 0)

/-! ## New grants at a strip-mine head (R21) -/

/-- A hart's context changed, wherever it stands. -/
def State.modHart (s : State) (id : HartId) (f : Hart → Hart) : State :=
  s.mapHarts (fun h => if h.id = id then f h else h)

/-- Every unbound vector register full with zero data (R265). -/
def Hart.deadVectors (h : Hart) : Hart :=
  (List.range 32).foldl (fun h r => if h.isBound r then h else (h.setV r { h.v r with data := 0 }).setFull true r) h

/-- Whether a window of a hart is open, which keeps its grant (R190). -/
def Hart.windowOpen (h : Hart) : Bool := h.windows.toList.any (fun w => w.opened)

/-- The grant for which a hart exchanges its own at a head: the widest its part and the budgets it read allow, exactly RWID in
a deterministic region; the block it holds where that is one of them (R7, R11, R16, R21, R28). -/
def State.newGrant (s : State) (h : Hart) : Option (Nat × Nat) :=
  let win := s.lgWindow h.core h.ctx
  let ok (g : Nat) (w : Nat) : Bool := s.blockFree h.id h.core win g w && s.budgetOk h.info.budgets h.id h.core g w
  let at_ (w : Nat) : Option (Nat × Nat) :=
    ((if h.w = w then [h.lgb] else []) ++ (List.range 8).filter (fun g => g % w == 0)).find? (fun g => ok g w) |>.map
      (fun g => (g, w))
  match ([8, 4, 2, 1].filter (fun w => if h.info.det then w == h.info.rwid else decide (w ≤ h.info.rwid))).findSome? at_ with
  | some r => some r
  | none =>
    if h.info.rwid = 1 then
      ((s.sharedGroup h.id h.core h.ctx).filter (fun g => s.budgetOk h.info.budgets h.id h.core g 1)).map (fun g => (g, 1))
    else none

/-- A hart takes a new grant: it is bound to its lane groups with credit 0, its vector registers dead where the width
changes (R21, R22, R265). -/
def State.takeGrant (s : State) (h : Hart) (g w : Nat) : State :=
  if g = h.lgb ∧ w = h.w then s.modHart h.id (fun x => { x with w := w, partDue := false })
  else
    let h' := { (if w = h.w then h else h.landAll.deadVectors) with lgb := g, w := w, partDue := false }
    ((s.creditAll h (fun _ => 0)).modHart h.id (fun _ => h')).creditAll h' (fun _ => 0)

/-- Whether a hart stands at a strip-mine head that it has yet to run, with nothing under way that it does not end. -/
def State.atHead (s : State) (h : Hart) : Bool :=
  decide (h.st = .resident) && h.replay.isNone && h.sect.isNone && h.handler.isNone && h.late.isEmpty
    && h.lateWord.isNone && h.restart.isNone && h.soft.isEmpty && (match s.wordAt h with
      | some w => (match decodeWord w 0 with
        | .vsetl _ _ _ _ | .vsetlb _ _ _ _ => true
        | _ => false)
      | none => false)

/-- A change of LPART takes effect at the head of the focused hart (R21): it gets a grant within its part. Where the other
named hart stands there and is at its own head, the two exchange. None while it must wait for its part. A hart that LPART
does not name, or whose window is open, keeps its grant (log entry 19). -/
def State.regrant (s : State) : Option State :=
  let h := s.hart
  if !h.partDue || h.windowOpen || decide (s.lgWindow h.core h.ctx = (0, 0)) then some s
  else match s.newGrant h with
    | some (g, w) => some (s.takeGrant h g w)
    | none =>
      match s.harts.find? (fun x => decide (x.id ≠ h.id) && x.core == h.core && x.partDue && !x.windowOpen && s.atHead x) with
      | none => none
      | some o =>
        let out := s.modHart o.id (fun x => { x with w := 0 })
        match out.newGrant h with
        | none => none
        | some (g, w) =>
          let s1 := out.takeGrant h g w
          match s1.newGrant o with
          | none => none
          | some (g', w') => some (s1.takeGrant o g' w')

/-! ## Soft requests (R265) -/

/-- The hart in a context of a core. -/
def State.hartAt (s : State) (core ctx : Nat) : Option Hart :=
  s.harts.find? (fun h => h.onCore && h.core == core && h.ctx == ctx)

/-- Whether a core is in a hart's core set, on a die that has joined (R5, R12, R339). -/
def State.mayUse (s : State) (h : Hart) (core : Nat) : Bool :=
  (h.info.cmask == 0 || h.info.cmask.getLsbD core) && s.joined.getLsbD (core / 32)

/-- Whether every context of every core a hart may use is held. -/
def State.noContext (s : State) (h : Hart) : Bool :=
  (List.range 128).all (fun c => !s.mayUse h c || (List.range 8).all (fun x => (s.hartAt c x).isSome))

/-- The effective PRIO of a hart now (R6, R7, R14). -/
def State.prioOf (s : State) (h : Hart) : Nat := s.effPrio (s.path h.id.rcb.toNat)

/-- The harts a remap interrupts: those bound to the lane group, or on the core (R342). -/
def spareAffects (k : SpareKind) (unit : Nat) (h : Hart) : Bool :=
  match k with
  | .laneGroup => h.boundTo (unit / 8) (unit % 8)
  | .core => h.onCore && h.core == unit
  | _ => false

/-- Whether a reason for a soft request on a hart still stands (R265): a ready hart of higher priority without a context (R14),
an energy budget that the hart read and that is reached (R7, R11), or a remap of a unit the hart is on (R342). A host's
command stands. -/
def State.softApplies (s : State) (h : Hart) (why : SoftWhy) : Bool :=
  match why with
  | .ready id => s.harts.any (fun x => decide (x.id = id ∧ x.st = .ready) && s.noContext x
      && decide (h.info.prio.toNat < s.prioOf x))
  | .budget rcb => (s.spentOver h).contains rcb
  | .spare kind unit => spareAffects kind unit h
  | .host => true

/-- The soft requests on a hart whose reasons still stand; one that no longer applies lapses (R265). -/
def State.standing (s : State) (h : Hart) : List SoftReq := h.soft.filter (fun r => s.softApplies h r.why)

/-- Whether a soft pre-emption is to be taken at a head: deferred while a transaction is open (R265, R324) and while the
emulation handler runs (R13). A request that no longer applies has lapsed. -/
def State.softDue (s : State) (h : Hart) : Bool :=
  !(s.standing h).isEmpty && decide (h.tx.st ≠ .opened) && h.handler.isNone

/-- A soft request raised on a hart that holds a context; an earlier one for the same reason stands (R265). -/
def Hart.request (now : Nat) (why : SoftWhy) (h : Hart) : Hart :=
  if h.onCore ∧ h.soft.all (fun r => decide (r.why ≠ why)) then { h with soft := h.soft ++ [{ since := now, why := why }] } else h

/-! ## Completion of commands and launches -/

/-- A doubleword written at a device address. -/
def State.writeDevice (s : State) (a : Nat) (v : Nat) : State := s.putDevice a (natLe 8 v)

/-- A command completes: its journal entry of kind 1, then its completion doubleword (R331). -/
def State.complete (s : State) (c : Cmd) (outcome : Nat) : State :=
  let opc := bits (c.pkt[0]).toNat 0 8
  let s := s.note c.queue opc 1 outcome c.seq
  let caddr := bits (c.pkt[7]).toNat 0 56
  let s := if caddr = 0 then s else s.writeDevice caddr (c.seq.toNat * 2 ^ 16 + outcome)
  { s with cmds := s.cmds.filter (fun x => !decide (x.seq = c.seq)) }

/-- The last hart of a launch has retired: its replicas are dropped (R211), DONEV, or all ones when a hart was cancelled,
is written to DONEA in the launch's address space, and the LAUNCH completes (R10, R255, R331). -/
def State.finishLaunch (s : State) (l : Launch) : State :=
  let v := if l.cancelled then 2 ^ 64 - 1 else l.donev.toNat
  let s := { s with replicas := s.replicas.filter (fun r => !decide (r.seq = l.seq)) }
  let s := if l.donea = 0 then s
    else match s.translate l.info.asid .write (l.donea.setWidth 64) with
      | .ok p => s.commitMem p.pa (natLe 8 v)
      | .error _ => s
  let s := { s with launches := s.launches.filter (fun x => !decide (x.seq = l.seq)) }
  match s.cmds.find? (fun c => decide (c.seq = l.seq)) with
  | some c => s.complete c (if l.cancelled then 4 else 0)
  | none => s

/-- One hart fewer of a launch; `cancelled` marks it (R10, R255). -/
def State.launchLess (s : State) (seq : BitVec 64) (cancelled : Bool) : State :=
  match s.launches.find? (fun l => decide (l.seq = seq)) with
  | none => s
  | some l =>
    let l := { l with left := l.left - 1, cancelled := l.cancelled || cancelled }
    let s := { s with launches := s.launches.map (fun x => if x.seq = seq then l else x) }
    if l.left = 0 then s.finishLaunch l else s

/-- A hart's context as it leaves the machine: bindings, windows, rows and everything under way end (R87). -/
def Hart.close (h : Hart) : Hart :=
  { h with st := .retired, trows := 0, sect := none, replay := none, handler := none, save := none, restart := none
           soft := [], cancelling := false, hardReq := none, partDue := false, watch := Watch.none
           pend := [], heldStrips := [], wbuf := [], late := [], lateWord := none, counted := [], badRegs := false
           gens := h.gens.map (fun g => { g with bound := false, loaded := false, ahead := 0 })
           windows := h.windows.map (fun w => { w with opened := false, parts := [] }) }

/-- EN of the core's LPART cleared when the focused hart is one it names (R241). -/
def State.endPartition (s : State) : State :=
  let h := s.hart
  let p := s.lpart h.core
  if h.onCore && partEn p && (h.ctx == partHA p || h.ctx == partHB p) then
    { (s.mapHarts (fun x => if x.onCore ∧ x.core = h.core ∧ (x.ctx = partHA p ∨ x.ctx = partHB p) then
        { x with partDue := true } else x)) with
      lparts := assign s.lparts h.core (p &&& ~~~1#64) }
  else s

/-- The focused hart retires (R10, R87, R255). -/
def State.retire (s : State) (cancelled : Bool) : State :=
  let s := s.endTx.endPartition
  let s := if s.hart.onCore then s.creditAll s.hart (fun _ => 0) else s
  let seq := s.hart.id.seq
  (s.upd (fun h => h.close)).launchLess seq cancelled

end Sys2Proof.Machine
end

