-- ==== Sys2Proof/Machine/Issue.lean ====
section
/-! DEFINITION. Which vector words can issue on a lane group in this cycle, and the passing of its arbiter's turn (R22). -/

namespace Sys2Proof.Machine

/-! ## What can issue -/

/-- Whether a walk stands at its repair frontier within the elements that a vector instruction takes (R306). -/
def State.atFrontier (s : State) (h : Hart) (i : Instr) : Bool :=
  (h.streamNeeds i).any (fun p => (h.gen p.1).bound && (h.gen p.1).pat.mode != 0
    && ((s.setHart h).takeReg (p.1 + 24) p.2).frontier.isSome)

/-- Whether a strip-mine head must wait for its part of the lane groups, with no soft request to take there (R21, R76). -/
def State.awaitsPart (s : State) (h : Hart) (i : Instr) : Bool :=
  match i with
  | .vsetl _ _ _ _ | .vsetlb _ _ _ _ => !s.softDue h && (s.focus h.id).regrant.isNone
  | _ => false

/-- Whether a vector instruction cannot issue in this cycle: it must wait for a register, for stream elements, at a repair
frontier, for a code table to swap, or for its part of the lane groups (R21, R22, R49, R178, R252, R306). -/
def State.blocked (s : State) (h : Hart) (i : Instr) : Bool :=
  h.blocked i || (s.setHart h).codeHeld (h.usesCode i) || s.atFrontier h i || s.awaitsPart h i

/-- The word at a hart's head: that of the replay under way, else the one at its PC (R22, R246). -/
def State.headWord (s : State) (h : Hart) : Option Nat :=
  match h.replay with
  | some p => some (p.body.getD p.bodyIndex 0).toNat
  | none => s.wordAt h

/-- Whether a word is a vector instruction that can issue in this cycle. -/
def State.issuable (s : State) (h : Hart) (w : Nat) : Bool :=
  !scalarMajor (BitVec.ofNat 32 w) && !s.blocked h (decodeWord w 0)

/-- Whether a hart can issue the vector instruction at its head (R22); a `vjoin` cannot while a lane of its section runs
(R234). -/
def State.candidate (s : State) (h : Hart) : Bool :=
  h.runnable && !h.sect.any Section.busy && (match s.headWord h with
    | some w => s.issuable h w
    | none => false)

/-- The relative lane group that holds element `e` of `w`-bit elements (R262). -/
def Hart.groupOf (h : Hart) (w e : Nat) : Nat := w * e % (256 * h.w) / 256

/-- The width by which a lane's word lies on a lane group: that of the first vector register it names, else that of the last
strip-mine head (R262; log entry 55). -/
def Hart.laneWidth (h : Hart) (i : Instr) : Nat :=
  let f := laneForm i
  match (f.1 ++ f.2.1).find? (fun r => r != 31) with
  | some r => (cfgTy (h.v r).cfg).w
  | none => ewBits h.headEw.toNat

/-- Whether lane `l` must wait at its word for the cross-lane queue: to pop from a queue that is empty while its producer
runs, or to push into a full one (R237). -/
def Section.queueWaits (q : Section) (h : Hart) (l : Lane) (i : Instr) : Bool :=
  let f := laneForm i
  (h.popsQueue l.idx i && (q.pop l).isNone)
    || (f.2.1.contains 31 && h.sel f.2.2 l.idx && (q.after l.idx).any (fun n => decide (4 ≤ n.inbox.length)))

/-- The word of lane `l` when it can issue, and the relative lane group it issues on (R22, R236). -/
def State.laneReady (s : State) (h : Hart) (q : Section) (l : Lane) : Option (Nat × Nat) :=
  let h' := { h with pc := l.pc, lane := some l.idx }
  match s.wordAt h' with
  | none => none
  | some w =>
    let i := decodeWord w 0
    if l.st ≠ .running ∨ q.queueWaits h' l i = true ∨ s.blocked h' i = true then none
    else some (h.groupOf (h.laneWidth i) l.idx, w)

/-- The vector word that a hart can issue on lane group `lg` of its core in this cycle (R22): that of its lowest lane there while
a section is open, or of the lane in whose turn the hart is; else its head, on a lane group that has gone ahead the word
it has come to (R19). -/
def State.headOn (s : State) (lg : Nat) (h : Hart) : Option Nat :=
  if !h.runnable then none
  else match h.sect.filter Section.busy with
    | some q => q.lanes.findSome? (fun l =>
        if h.lane.any (fun e => e != l.idx) then none
        else ((s.laneReady h q l).filter (fun p => h.lgb + p.1 == lg)).map (fun p => p.2))
    | none =>
      let p := h.progress
      let n := if p.1.getD (lg - h.lgb) 0 = 0xFFFF then p.2.getD (lg - h.lgb) 0 + 1 else 0
      if n = 0 then (if s.candidate h then s.headWord h else none)
      else if h.replay.isSome ∨ 4 < n + h.heldStrips.length then none
      else match (List.range (n + 1)).mapM (fun j => s.wordAt (h.advance (4 * j))) with
        | some ws => if ws.all (fun w => s.issuable h w) then ws.getLast? else none
        | none => none

/-- Whether a hart is a candidate on lane group `lg` of its core (R22). -/
def State.candidateOn (s : State) (lg : Nat) (h : Hart) : Bool := (s.headOn lg h).isSome

/-! ## The arbiter's turn (R22) -/

/-- The harts bound to a lane group that are resident. -/
def State.arbHarts (s : State) (core lg : Nat) : List Hart := s.harts.filter (fun h => h.boundTo core lg)

/-- The bound hart in a context. -/
def State.arbHart (s : State) (core lg ctx : Nat) : Option Hart := (s.arbHarts core lg).find? (fun h => h.ctx == ctx)

/-- The next bound context above one, wrapping, whose hart has weight. -/
def State.nextTurn (s : State) (core lg ctx : Nat) : Option Nat :=
  ((List.range 8).map (fun i => (ctx + 1 + i) % 8)).find? (fun c =>
    match s.arbHart core lg c with
    | some h => h.info.wght != 0
    | none => false)

/-- The turn passes to the next bound hart with weight, which is refilled (R22); nothing changes when none has weight. -/
def State.passTurn (s : State) (core lg : Nat) : State :=
  let a := s.arb core lg
  match s.nextTurn core lg a.turn with
  | none => s
  | some c =>
    match s.arbHart core lg c with
    | none => s
    | some h =>
      let refill := min (a.credit.getD c 0 + 4 * (h.info.wght.toNat : Int)) (4 * (h.info.wght.toNat : Int))
      let v := if s.candidateOn lg h && decide (refill ≤ 0) then 1 else refill
      s.setArb core lg { a with turn := c, credit := a.credit.set c v }

end Sys2Proof.Machine
end

