-- ==== Sys2Proof/Machine/System.lean ====
section
/-! DEFINITION. The system major (R78 to R90), words that are no instruction (R38, R39), the emulation handler (R257),
and the configuration and strip-length instructions (R76, R77, R124 to R128). -/

namespace Sys2Proof.Machine

/-! ## Traps and the emulation handler -/

/-- A deliberate trap: the instruction is complete and release resumes at PC + 4 (R78, R79, R254). -/
def State.trapAfter (s : State) (cause detail : BitVec 8) : Res :=
  s.take { Trap.atWord s.hart cause detail with rpc := s.hart.pc + 4 }

/-- `trap code`: cause 0x10 with the code as DETAIL (R78). -/
def execTrap (c : BitVec 6) (s : State) : Res := s.trapAfter cTrap (c.setWidth 8)

/-- `ebreak`: cause 0x11 (R79). -/
def execEbreak (s : State) : Res := s.trapAfter cBreak 0

/-- A doubleword of the scalar area on return from the handler, else the device's own copy (R257, log entry 12). -/
def State.areaScalar (s : State) (k : Handler) (i : Fin 32) : BitVec 64 :=
  if i.val = 0 then 0
  else if k.areaWritten then
    match s.getWord s.hart (0x200 + 8 * i.val) with
    | some v => BitVec.ofNat 64 v
    | none => k.sregs[i.val]
  else k.sregs[i.val]

/-- The resume PC that the handler left in the record (R80, R257), at the TRAPBASE in force at the `eret` (log entry 84). -/
def State.areaRpc (s : State) (k : Handler) : BitVec 64 :=
  if k.areaWritten then
    match s.getWord s.hart 8 with
    | some v => BitVec.ofNat 64 (v % 2 ^ 56)
    | none => k.rpc
  else k.rpc

/-- `eret`: every earlier instruction of the handler completes, s0 to s31 are reloaded and the hart resumes at RPC;
illegal where no handler runs (R80, R257). -/
def execEret (s : State) : Res :=
  match s.hart.handler with
  | none => s.illegal
  | some k =>
    let s := (s.upd (fun h => h.landAll)).drainAll
    let regs := Vector.ofFn (fun i => s.areaScalar k i)
    let pc := s.areaRpc k
    .next (s.upd (fun h => { h with sregs := regs, pc := pc, handler := none, save := none, st := .resident
                                    watch := Watch.none }))

/-- Entry to the emulation handler (R38, R257): D0 to D7 and the scalars are written, VALID last, and the same context
runs EMUH with a fresh scalar file. -/
def State.enterHandler (s : State) (w : BitVec 32) : Res :=
  let h := s.hart
  let t : Trap := { Trap.atWord h cUndefined 0 with rpc := h.pc + 4 }
  let r := { h.record s.cycle t with word := w, payload := 0, wcause := 6, pend := false }
  let s := s.writeArea .entry r
  let written := match s.hart.save with
    | some r => !r.reserve
    | none => false
  let fresh : Vector (BitVec 64) 32 :=
    (((Vector.replicate 32 0).set 2 (h.trapbase + 0x7C00)).set 3 h.trapbase).set 4 (w.setWidth 64) |>.set 5 h.pc
  let k : Handler := { sregs := h.sregs, pc := h.pc, rpc := h.pc + 4, areaWritten := written, overrunAt := none }
  .next (s.upd (fun h => { h with sregs := fresh, pc := h.info.emuh.setWidth 64, handler := some k, save := none
                                  st := .waiting .emulation }))

/-- A word of a reserved major: the emulation handler of the hart's region, or an illegal-instruction fault when the
region has none or the handler itself met it (R38). -/
def execUndefinedOpcode (w : BitVec 32) (s : State) : Res :=
  if s.hart.info.emuh = 0 ∨ s.hart.handler.isSome ∨ s.hart.lane.isSome then s.illegal else s.enterHandler w

/-- Any other word that is no instruction: an illegal-instruction fault, never emulated (R39). -/
def execIllegalInstruction (_w : BitVec 32) (s : State) : Res := s.illegal

/-- `endk`: an illegal-instruction fault (R41, R90). -/
def execEndk (s : State) : Res := s.illegal

/-! ## Ordering -/

/-- Held writes of the named streams have performed (R81, R82). -/
def State.orderStreams (s : State) (m : BitVec 10) : State := s.drain (fun k => m.getLsbD k)

/-- `fence.sc mask`: the named streams' earlier accesses are ordered ahead of their later ones (R81, R201; the scope is
log entry 14). -/
def execFence (m : BitVec 10) (_sc : BitVec 3) (s : State) : Res :=
  let s := s.orderStreams m
  s.done s.hart

/-- `sbar mask`: the same within the hart (R82). -/
def execSbar (m : BitVec 10) (s : State) : Res :=
  let s := s.orderStreams m
  s.done s.hart

/-- `cvy`: in a deterministic region everything before it has completed, with memory effects performed (R29, R88). -/
def execCvy (s : State) : Res :=
  if s.hart.info.det then
    let s := (s.upd (fun h => h.landAll)).drainAll
    s.done s.hart
  else s.done s.hart

/-! ## Named state -/

/-- VLMAX: the greatest length at the width and group of the last head under the current grant (R50, R83). -/
def Hart.vlmax (h : Hart) : Nat := vlmaxOf h.w h.headEw.toNat (2 ^ h.headGrp.toNat)

/-- The rows that TROWS reports: at most 32 for a hart that LPART names, once the exchange at its head has put that in force
(R21; log entry 97). -/
def State.trowsSeen (s : State) (h : Hart) : Nat :=
  let p := s.lpart h.core
  if partEn p && !h.partDue && (h.ctx == partHA p || h.ctx == partHB p) then min 32 h.trows else h.trows

/-- A named state register as `gets` reads it (R50, R83). CVGM is read into a mask register. -/
def State.namedValue (s : State) (n : Nat) : Option Word :=
  let h := s.hart
  match n with
  | 0 => some (BitVec.ofNat 64 h.vl)
  | 1 => some (BitVec.ofNat 64 h.vlmax)
  | 2 => some (BitVec.ofNat 64 h.w)
  | 3 => some (BitVec.ofNat 64 (s.trowsSeen h))
  | 4 => some (s.lpart h.core)
  | 5 => some h.flags
  | 7 => some (h.rmode.setWidth 64)
  | 8 => some (h.rotn.setWidth 64)
  | 9 => some h.seed
  | 10 => some (h.ecnt.setWidth 64)
  | 11 => some s.ewt
  | 12 => some (h.dens.setWidth 64)
  | 13 => some (s.codeTab h.core).gen
  | 14 => some h.trapbase
  | 15 => some h.repth
  | 16 => some (s.beat.setWidth 64)
  | _ => none

/-- `gets sd, NAME`: FLAGS and CVGM wait for every earlier vector instruction (R49, R83). -/
def execGets (d n : Reg) (s : State) : Res :=
  if n = 6 then
    if 8 ≤ d.toNat then s.illegal
    else
      let h := s.hart.landAll
      s.done (h.setMask d.toNat h.cvgm)
  else match s.namedValue n.toNat with
    | some v => s.done ((if n = 5 then s.hart.landAll else s.hart).wr d v)
    | none => s.illegal

/-- The context after a write of a named register, none where the write is refused (R50, R84). -/
def Hart.putNamed (h : Hart) (n : Nat) (v : Word) : Option Hart :=
  match n with
  | 5 => if v.toNat < 2 ^ 7 then some { h.landAll with flags := v } else none
  | 7 => if v.toNat ≤ 4 then some { h with rmode := v.setWidth 3 } else none
  | 8 => if 1 ≤ v.toNat ∧ v.toNat ≤ 47 then some { h with rotn := v.setWidth 6 } else none
  | 9 => some { h with seed := v, ridx := 0 }
  | 12 => if v.toNat ≤ 64 then some { h with dens := v.setWidth 7 } else none
  | 14 => if v.toNat % 512 = 0 then some { h with trapbase := v } else none
  | 15 => some { h with repth := v }
  | _ => none

/-- `puts NAME, sa`: values out of range and registers marked RO are illegal and nothing is written (R84). -/
def execPuts (a n : Reg) (s : State) : Res :=
  if n = 6 then
    if 8 ≤ a.toNat then s.illegal
    else
      let h := s.hart.landAll
      s.done { h with cvgm := h.mask a.toNat }
  else match s.hart.putNamed n.toNat (s.hart.rd a) with
    | some h => s.done h
    | none => s.illegal

/-! ## Progress, turns, retirement -/

/-- `prog`: restarts the watchdog interval of a persistent region (R85, R270). -/
def execProg (s : State) : Res :=
  s.done (if s.hart.info.pers then { s.hart with wdogFrom := s.ns } else s.hart)

/-- The end of the focused hart's turn on one lane group (R86). -/
def State.yieldOn (s : State) (lg : Nat) : State :=
  let h := s.hart
  let a := s.arb h.core lg
  let s := s.setArb h.core lg { a with credit := a.credit.set h.ctx (min (a.credit.getD h.ctx 0) 0) }
  if a.turn = h.ctx then s.passTurn h.core lg else s

/-- `yield`: the turn ends on every lane group of the grant; the hart stays resident (R86). -/
def execYield (s : State) : Res :=
  let s := (List.range s.hart.w).foldl (fun s i => s.yieldOn (s.hart.lgb + i)) s
  s.done s.hart

/-- `halt`: earlier instructions complete, accesses perform, an open transaction releases, and the hart retires; a
lane may not (R87). -/
def execHalt (s : State) : Res :=
  if s.hart.lane.isSome then s.illegal
  else .next (((s.upd (fun h => h.landAll)).drainAll).retire false)

/-- The entry of the seed log for a draw (R89). -/
def State.seedEntry (s : State) (v : BitVec 64) : SeedEntry :=
  let h := s.hart
  { seedv := v, rcb := h.id.rcb.setWidth 64, hidx := h.id.hidx
    loc := BitVec.ofNat 8 (h.core / 32 * 64 + h.core % 32 * 2), ctx := BitVec.ofNat 8 h.ctx
    time := BitVec.ofNat 64 s.ns }

/-- Whether a transaction forbids `seed`, `wait`, the token-mask engine and majors 0x23 and 0x24 (R323). -/
def Hart.inTx (h : Hart) : Bool := decide (h.tx.st = .submitted ∨ h.tx.st = .opened)

/-- `seed sd`: a draw of the entropy source, a free value, to s[d] and SEED; RIDX becomes 0 and the draw is logged
(R89). Illegal in a transaction (R323). -/
def execSeed (d : Reg) (s : State) : Res :=
  if s.hart.inTx then s.illegal
  else
    let v := Config.entropy s.draws
    let log := s.seedLog ++ [s.seedEntry v]
    let s := { s with draws := s.draws + 1, seedLog := log.drop (log.length - 4096), seedCount := s.seedCount + 1 }
    s.done { s.hart.wr d v with seed := v, ridx := 0 }

/-! ## Strip-mine heads -/

/-- Taking the soft request at the head (R76, R128, R254): the head wrote nothing. -/
def State.takeSoft (s : State) : Res :=
  let h := { s.hart with soft := [] }
  (s.setHart h).take { Trap.atWord h cSoft 0 with ctr := ctrDone }


/-- Granting a vector length (R76, R77, R128): the head's width and group are recorded, VL set. -/
def Hart.grantLength (h : Hart) (ew : BitVec 3) (grp : BitVec 2) (n : Nat) : Hart :=
  { h with headEw := ew, headGrp := grp, vl := min n (vlmaxOf h.w ew.toNat (2 ^ grp.toNat)) }

/-- `vsetl sd, sa, ew, G` (R128). -/
def execVsetl (d a : Reg) (ew : BitVec 3) (g : BitVec 2) (s : State) : Res :=
  if s.softDue s.hart then s.takeSoft
  else match s.regrant with
  | none => .next s
  | some s =>
    let h := s.hart.grantLength ew g (s.hart.rd a).toNat
    s.done (h.wr d (BitVec.ofNat 64 h.vl))

/-- `vsetlb sa, sb, ew, label`: as `vsetl` at group 1, and a branch when the length is zero (R76, R77). -/
def execVsetlb (a b : Reg) (ew : BitVec 3) (o : BitVec 13) (s : State) : Res :=
  if s.softDue s.hart then s.takeSoft
  else match s.regrant with
  | none => .next s
  | some s =>
    let h := s.hart.grantLength ew 0 (s.hart.rd b).toNat
    let h := h.wr a (BitVec.ofNat 64 h.vl)
    if h.vl = 0 then .next (s.setHart { h with pc := h.pc + BitVec.ofInt 64 (4 * o.toInt) }) else s.done h

/-! ## Configuration -/

/-- Whether a tag and fraction count may be configured (R46, R125). -/
def cfgLegal (t f : Nat) : Bool :=
  decide (t ≤ 26) && (if t = 9 then decide (f ≤ 15) else if t = 10 then decide (f ≤ 31) else f == 0)

/-- A configuration instruction: illegal on a bound register (R178), waiting for an empty destination (R49), then the
words of a group rewritten, FE and data kept. -/
def State.configure (s : State) (ill : Bool) (d g : Nat) (c : BitVec 32) : Res :=
  let h := s.hart
  if ill || d % g != 0 || (members d g).any (fun r => h.isBound r) then s.illegal
  else
    let e := h.empties (members d g)
    if !e.isEmpty then s.wait .fullEmpty { Watch.none with regs := e }
    else s.done ((members d g).foldl (fun h r =>
      h.setV r { h.v r with cfg := (c &&& 0xFFF7FFFF) ||| ((h.v r).cfg &&& 0x00080000) }) h)

/-- `vcfg vd, type, G` (R125). -/
def execVcfg (d t : Reg) (f : BitVec 6) (g : BitVec 2) (s : State) : Res :=
  s.configure (!cfgLegal t.toNat f.toNat) d.toNat (2 ^ g.toNat)
    (BitVec.ofNat 32 (t.toNat + f.toNat * 2 ^ 5 + g.toNat * 2 ^ 11))

/-- `vcfgw vd, w2, slc`: vd's word with the two fields changed, written to every member of its group (R47, R126). -/
def execVcfgw (d : Reg) (w sl : BitVec 3) (s : State) : Res :=
  let c := (s.hart.v d.toNat).cfg
  s.configure (decide (6 ≤ w.toNat) || sl.toNat == 1 || sl.toNat == 2) d.toNat (s.hart.grp d)
    ((c &&& 0xFFF81FFF) ||| BitVec.ofNat 32 (w.toNat * 2 ^ 13 + sl.toNat * 2 ^ 16))

/-- `vtag vd, va` (R127); both group bases are checked (R119). -/
def execVtag (d a : Reg) (s : State) : Res :=
  let g := s.hart.grp a
  s.configure (a.toNat % g != 0 || (members a.toNat g).any (fun r => s.hart.isBound r)) d.toNat g (s.hart.v a.toNat).cfg

end Sys2Proof.Machine
end

