-- ==== Sys2Proof/Machine/VectorArith.lean ====
section
/-! DEFINITION. Elementwise vector arithmetic, majors 0x11 and 0x12 (R118 to R136). -/

namespace Sys2Proof.Machine

/-! ## The operations -/

/-- The elementwise operations of R130, the carry forms apart. -/
inductive EOp where
  | add | sub | mul | fma | min | max | abs | neg | and | or | xor | shl | shr | mov | sel
  deriving DecidableEq, Repr

/-- The four operations that widen and that draw under RSR (R97, R123). -/
def EOp.arith : EOp → Bool
  | .add | .sub | .mul | .fma => true
  | _ => false

/-- The classes an operation accepts (R130). -/
def EOp.accepts (op : EOp) (c : TClass) : Bool :=
  match op, c with
  | _, .untagged => false
  | .mov, _ | .sel, _ | .and, _ | .or, _ | .xor, _ => true
  | _, .stor | _, .tok => false
  | .shl, .flt | .shr, .flt => false
  | .fma, .ba | .min, .ba | .max, .ba | .abs, .ba => false
  | _, _ => true

/-- The signed, natural or floating tag of a given width among those W2 reaches; 0 for none. -/
def wideTag (c : TClass) (w : Nat) : Nat :=
  match c, w with
  | .sint, 8 => 1
  | .sint, 16 => 2
  | .sint, 32 => 3
  | .sint, 64 => 4
  | .nint, 8 => 5
  | .nint, 16 => 6
  | .nint, 32 => 7
  | .nint, 64 => 8
  | .fx, 32 => 10
  | .flt, 32 => 15
  | .flt, 64 => 16
  | _, _ => 0

/-- The result type of a widening operation, none for a pair R123 does not list. `doubles` is the FRAC of mul and fma. -/
def widenTy (t : Ty) (w2 : Nat) (doubles : Bool) : Option Ty :=
  let tag := wideTag t.cls w2
  if t.w < w2 ∧ tag ≠ 0 then some ⟨tag, if t.cls = .fx then (if doubles then 2 * t.frac else t.frac) else 0⟩ else none

/-- The result type and group of an operation on va's configuration word (R123, R130), and whether W2 allows it. -/
def EOp.result (op : EOp) (c : BitVec 32) : Ty × Nat × Bool :=
  let t := cfgTy c
  let w2 := w2Bits (cfgW2 c)
  if op.arith && cfgW2 c != 0 then
    match widenTy t w2 (op == .mul || op == .fma) with
    | some r => (r, cfgGrp c * w2 / t.w, true)
    | none => (t, cfgGrp c, false)
  else (t, cfgGrp c, true)

/-- Whether the result group of a widening operation would exceed 8 (R123). -/
def EOp.tooWide (op : EOp) (c : BitVec 32) : Bool :=
  op.arith && (cfgTy c).w != 0 && decide (8 * (cfgTy c).w < cfgGrp c * w2Bits (cfgW2 c))

/-- Same TAG, FRAC and GRP. -/
def sameCfg (c c' : BitVec 32) : Bool := c.extractLsb' 0 13 == c'.extractLsb' 0 13

/-- Whether the second vector source fits the first (R130). -/
def EOp.pairs (op : EOp) (c c' : BitVec 32) : Bool :=
  if op == .shl || op == .shr || (op == .mul && (cfgTy c).cls == .ba) then
    ((cfgTy c').cls == .sint || (cfgTy c').cls == .nint) && (cfgTy c').w == (cfgTy c).w && cfgGrp c == cfgGrp c'
  else sameCfg c c'

/-- Exact combination of two or three values (R131); the Bool says the operation is invalid. -/
def EOp.exact (op : EOp) (down : Bool) (a b c : FVal) : FVal × Bool :=
  match op with
  | .sub => a.add down b.negate
  | .mul => a.mul b
  | .fma => FVal.fma down a b c
  | _ => a.add down b

/-- The same on integers (R130, R132). -/
def EOp.exactInt (op : EOp) (a b c : Int) : Int :=
  match op with
  | .sub => a - b
  | .mul => a * b
  | .fma => c + a * b
  | _ => a + b

/-- `vadd`, `vsub`, `vmul` and `vfma` on one element (R131, R132): raw result and flags. -/
def EOp.compute (op : EOp) (t tb rt : Ty) (mode draw a b c : Nat) : Nat × Nat :=
  match t.cls with
  | .fx | .flt =>
    let (v, bad) := op.exact (mode == RDN) (t.value a) (tb.value b) (rt.value c)
    let (r, fl) := rt.fit mode draw v
    (r, fl ||| flagIf bad fINVALID)
  | _ => (wrap rt.w (op.exactInt (t.int a) (tb.int b) (rt.int c)), 0)

/-- `vmin` and `vmax` on one element (R133). -/
def minMax (wantMax : Bool) (t : Ty) (x y : Nat) : Nat × Nat :=
  match t.cls with
  | .flt =>
    let a := t.value x
    let b := t.value y
    let fl := flagIf (a.isSnan || b.isSnan) fINVALID
    if a.isNan && b.isNan then ((fmtOf t.tag).nan, fl)
    else if a.isNan then (y, fl)
    else if b.isNan then (x, fl)
    else
      let c := a.cmp b
      let below := decide (c < 0) || (c == 0 && a.neg && !b.neg)
      (if below != wantMax then x else y, fl)
  | _ => (if decide (t.int x < t.int y) != wantMax then x else y, 0)

/-- `vabs` and `vneg` on one element (R133). -/
def absNeg (negate : Bool) (t : Ty) (x : Nat) : Nat × Nat :=
  match t.cls with
  | .flt =>
    let v := t.value x
    if v.isNan then ((fmtOf t.tag).nan, flagIf v.isSnan fINVALID)
    else
      let s := 2 ^ (t.w - 1)
      (if negate then (x + s) % 2 ^ t.w else x % s, 0)
  | .fx => t.sat (if negate then -(t.int x) else (t.int x).natAbs)
  | .sint => (wrap t.w (if negate then -(t.int x) else (t.int x).natAbs), 0)
  | _ => (if negate then wrap t.w (-(x : Int)) else x, 0)

/-- `vshl` and `vshr` on one element by `k` (R135). -/
def shiftLeft (t : Ty) (x k : Nat) : Nat := if t.w ≤ k then 0 else x * 2 ^ k % 2 ^ t.w
def shiftRight (t : Ty) (x k : Nat) : Nat :=
  match t.cls with
  | .sint | .fx => wrap t.w (toSigned t.w x / 2 ^ (min k t.w))
  | _ => if t.w ≤ k then 0 else x / 2 ^ k

/-- Any elementwise operation on one element: old destination `c`, mask bit `m`. -/
def EOp.element (op : EOp) (t tb rt : Ty) (mode draw a b c : Nat) (m : Bool) : Nat × Nat :=
  match op with
  | .add | .sub | .mul | .fma => op.compute t tb rt mode draw a b c
  | .min => minMax false t a b
  | .max => minMax true t a b
  | .abs => absNeg false t a
  | .neg => absNeg true t a
  | .and => (a &&& b, 0)
  | .or => (a ||| b, 0)
  | .xor => (a ^^^ b, 0)
  | .shl => (shiftLeft t a b, 0)
  | .shr => (shiftRight t a b, 0)
  | .mov => (a, 0)
  | .sel => (if m then a else b, 0)

/-! ## Running an instruction over its elements -/

/-- Results of an elementwise instruction written: the result configuration, the flags of the active elements and the
elements, by index, raw bits and flags (R56, R120, R121). Nothing at VL = 0. -/
def State.putResults (s : State) (d : Reg) (g : Nat) (t : Ty) (c : Option (BitVec 32)) (l : List (Nat × Nat × Nat)) :
    State :=
  if s.hart.reach = 0 then s
  else
    let fl := (l.map (fun p => p.2.2)).foldl (fun a b => a ||| b) 0
    let s := s.upd (fun h => (match c with
      | some c => h.setCfg d.toNat g c
      | none => h).raise fl)
    s.putElems d.toNat g t (l.map (fun p => (p.1, p.2.1)))

/-- Operands of an elementwise instruction: the second one a vector, a scalar, or none. -/
inductive Second where
  | vec (r : Reg) (trap : Bool)
  | scal (r : Reg)
  | none
  deriving DecidableEq, Repr

/-- Bits of a one-bit field as a Bool. -/
def bit1 (x : BitVec 1) : Bool := x == 1

/-- The conditions and operands of an elementwise instruction for the frame (R119, R123, R130, R131). -/
def Hart.eSpec (h : Hart) (op : EOp) (d a : Reg) (b : Second) (k : BitVec 3) (w : Bool) : VSpec :=
  let n := h.reach
  let ca := (h.v a.toNat).cfg
  let t := cfgTy ca
  let (rt, rg, okW) := op.result ca
  let srcA : Src := { reg := a.toNat, grp := cfgGrp ca, trap := w, need := h.vl }
  let ill0 := !h.opOk a n || !h.resOk d rt rg n || op.tooWide ca || (op == .fma && h.isBound d.toNat)
  let mism0 := !op.accepts t.cls || !okW
    || (op == .fma && !h.isXq d.toNat && !sameCfg (h.v d.toNat).cfg (mkCfg rt rg))
  let sends := if op = .sel then h.range rt.w else h.active k rt.w
  let dst : Dst := { reg := d.toNat, grp := rg, cfg := some (rt, rg), len := h.vl }
  let old : List Src := if op = .fma then [{ reg := d.toNat, grp := rg, trap := false, need := 0 }] else []
  match b with
  | .vec r x =>
    let cb := (h.v r.toNat).cfg
    { ill := ill0 || !h.opOk r n, tile := Option.none
      mism := mism0 || (cfgTy cb).cls == .untagged || !op.pairs ca cb
      srcs := [srcA, { reg := r.toNat, grp := cfgGrp cb, trap := x, need := h.vl }] ++ old, dsts := [dst], sends := sends
      lanewise := true, w := rt.w }
  | _ =>
    { ill := ill0, tile := Option.none, mism := mism0, srcs := srcA :: old, dsts := [dst], sends := sends, lanewise := true
      w := rt.w }

/-- The value of the second operand for element `e` (R122): shift amounts are the whole scalar. -/
def Hart.second (h : Hart) (op : EOp) (w : Nat) (b : Second) : Nat → Nat :=
  match b with
  | .vec r _ => h.elems r
  | .scal r => if op = .shl ∨ op = .shr then fun _ => (h.rd r).toNat else fun _ => h.scalarElem r w
  | .none => fun _ => 0

/-- The type in which the second operand is read: its own, va's for a scalar, and the integer of va's width for the
multiplier of a binary angle (R122, R132). -/
def Hart.secondTy (h : Hart) (op : EOp) (t : Ty) (b : Second) : Ty :=
  match b with
  | .vec r _ => h.ty r
  | _ => if op = .mul ∧ t.cls = .ba then ⟨wideTag .nint t.w, 0⟩ else t

/-- An instruction of majors 0x11 and 0x12 other than the carry forms. -/
def State.elementwise (s : State) (op : EOp) (d a : Reg) (b : Second) (k : BitVec 3) (w : Bool) : Res :=
  s.vector (s.hart.eSpec op d a b k w) (fun s =>
    let h := s.hart
    let ca := (h.v a.toNat).cfg
    let t := cfgTy ca
    let (rt, rg, _) := op.result ca
    let tb := h.secondTy op t b
    let ra := h.elems a
    let rb := h.second op t.w b
    let rc : Nat → Nat := if op = .fma then h.reader d.toNat rg rt.w else fun _ => 0
    let draws := op.arith && (rt.cls == .fx || rt.cls == .flt)
    let es := if op = .sel then h.range rt.w else h.active k rt.w
    let l := es.map (fun e =>
      (e, op.element t tb rt h.rmodeN (if draws then h.drawFor e else 0) (ra e) (rb e) (rc e) (h.sel k e)))
    let c := if op = .mov then ca else mkCfg rt rg
    let s := s.putResults d rg rt (some c) l
    s.done (if draws then s.hart.spendDraws else s.hart))

/-- `vadd vd, va, vb`: sum (R131). -/
def execVadd (d a b : Reg) (k : BitVec 3) (w x : BitVec 1) (s : State) : Res :=
  s.elementwise .add d a (.vec b (bit1 x)) k (bit1 w)

/-- `vsub vd, va, vb`: difference (R131). -/
def execVsub (d a b : Reg) (k : BitVec 3) (w x : BitVec 1) (s : State) : Res :=
  s.elementwise .sub d a (.vec b (bit1 x)) k (bit1 w)

/-- `vmul vd, va, vb`: product (R131, R132). -/
def execVmul (d a b : Reg) (k : BitVec 3) (w x : BitVec 1) (s : State) : Res :=
  s.elementwise .mul d a (.vec b (bit1 x)) k (bit1 w)

/-- `vfma vd, va, vb`: fused vd + va × vb (R131). -/
def execVfma (d a b : Reg) (k : BitVec 3) (w x : BitVec 1) (s : State) : Res :=
  s.elementwise .fma d a (.vec b (bit1 x)) k (bit1 w)

/-- `vmin vd, va, vb`: the smaller (R133). -/
def execVmin (d a b : Reg) (k : BitVec 3) (w x : BitVec 1) (s : State) : Res :=
  s.elementwise .min d a (.vec b (bit1 x)) k (bit1 w)

/-- `vmax vd, va, vb`: the larger (R133). -/
def execVmax (d a b : Reg) (k : BitVec 3) (w x : BitVec 1) (s : State) : Res :=
  s.elementwise .max d a (.vec b (bit1 x)) k (bit1 w)

/-- `vand vd, va, vb`: bitwise AND (R135). -/
def execVand (d a b : Reg) (k : BitVec 3) (w x : BitVec 1) (s : State) : Res :=
  s.elementwise .and d a (.vec b (bit1 x)) k (bit1 w)

/-- `vor vd, va, vb`: bitwise OR (R135). -/
def execVor (d a b : Reg) (k : BitVec 3) (w x : BitVec 1) (s : State) : Res :=
  s.elementwise .or d a (.vec b (bit1 x)) k (bit1 w)

/-- `vxor vd, va, vb`: bitwise XOR (R135). -/
def execVxor (d a b : Reg) (k : BitVec 3) (w x : BitVec 1) (s : State) : Res :=
  s.elementwise .xor d a (.vec b (bit1 x)) k (bit1 w)

/-- `vshl vd, va, vb`: left shift (R135). -/
def execVshl (d a b : Reg) (k : BitVec 3) (w x : BitVec 1) (s : State) : Res :=
  s.elementwise .shl d a (.vec b (bit1 x)) k (bit1 w)

/-- `vshr vd, va, vb`: right shift (R135). -/
def execVshr (d a b : Reg) (k : BitVec 3) (w x : BitVec 1) (s : State) : Res :=
  s.elementwise .shr d a (.vec b (bit1 x)) k (bit1 w)

/-- `vsel vd, va, vb`: va where the mask bit is set, vb elsewhere (R136). -/
def execVsel (d a b : Reg) (k : BitVec 3) (w x : BitVec 1) (s : State) : Res :=
  s.elementwise .sel d a (.vec b (bit1 x)) k (bit1 w)

/-- `vadds vd, va, sb`: sum, the second operand a scalar (R131, R122). -/
def execVadds (d a b : Reg) (k : BitVec 3) (w : BitVec 1) (s : State) : Res :=
  s.elementwise .add d a (.scal b) k (bit1 w)

/-- `vsubs vd, va, sb`: difference, the second operand a scalar (R131, R122). -/
def execVsubs (d a b : Reg) (k : BitVec 3) (w : BitVec 1) (s : State) : Res :=
  s.elementwise .sub d a (.scal b) k (bit1 w)

/-- `vmuls vd, va, sb`: product, the second operand a scalar (R131, R132, R122). -/
def execVmuls (d a b : Reg) (k : BitVec 3) (w : BitVec 1) (s : State) : Res :=
  s.elementwise .mul d a (.scal b) k (bit1 w)

/-- `vfmas vd, va, sb`: fused vd + va × the scalar, the second operand a scalar (R131, R122). -/
def execVfmas (d a b : Reg) (k : BitVec 3) (w : BitVec 1) (s : State) : Res :=
  s.elementwise .fma d a (.scal b) k (bit1 w)

/-- `vmins vd, va, sb`: the smaller, the second operand a scalar (R133, R122). -/
def execVmins (d a b : Reg) (k : BitVec 3) (w : BitVec 1) (s : State) : Res :=
  s.elementwise .min d a (.scal b) k (bit1 w)

/-- `vmaxs vd, va, sb`: the larger, the second operand a scalar (R133, R122). -/
def execVmaxs (d a b : Reg) (k : BitVec 3) (w : BitVec 1) (s : State) : Res :=
  s.elementwise .max d a (.scal b) k (bit1 w)

/-- `vands vd, va, sb`: bitwise AND, the second operand a scalar (R135, R122). -/
def execVands (d a b : Reg) (k : BitVec 3) (w : BitVec 1) (s : State) : Res :=
  s.elementwise .and d a (.scal b) k (bit1 w)

/-- `vors vd, va, sb`: bitwise OR, the second operand a scalar (R135, R122). -/
def execVors (d a b : Reg) (k : BitVec 3) (w : BitVec 1) (s : State) : Res :=
  s.elementwise .or d a (.scal b) k (bit1 w)

/-- `vxors vd, va, sb`: bitwise XOR, the second operand a scalar (R135, R122). -/
def execVxors (d a b : Reg) (k : BitVec 3) (w : BitVec 1) (s : State) : Res :=
  s.elementwise .xor d a (.scal b) k (bit1 w)

/-- `vshls vd, va, sb`: left shift, the second operand a scalar (R135, R122). -/
def execVshls (d a b : Reg) (k : BitVec 3) (w : BitVec 1) (s : State) : Res :=
  s.elementwise .shl d a (.scal b) k (bit1 w)

/-- `vshrs vd, va, sb`: right shift, the second operand a scalar (R135, R122). -/
def execVshrs (d a b : Reg) (k : BitVec 3) (w : BitVec 1) (s : State) : Res :=
  s.elementwise .shr d a (.scal b) k (bit1 w)

/-- `vsels vd, va, sb`: va where the mask bit is set, the scalar elsewhere, the second operand a scalar (R136, R122). -/
def execVsels (d a b : Reg) (k : BitVec 3) (w : BitVec 1) (s : State) : Res :=
  s.elementwise .sel d a (.scal b) k (bit1 w)

/-- `vabs vd, va`: absolute value (R133). -/
def execVabs (d a : Reg) (k : BitVec 3) (w : BitVec 1) (s : State) : Res :=
  s.elementwise .abs d a .none k (bit1 w)

/-- `vneg vd, va`: negation (R133). -/
def execVneg (d a : Reg) (k : BitVec 3) (w : BitVec 1) (s : State) : Res :=
  s.elementwise .neg d a .none k (bit1 w)

/-- `vmov vd, va`: the elements and the whole configuration word of va (R136). -/
def execVmov (d a : Reg) (k : BitVec 3) (w : BitVec 1) (s : State) : Res :=
  s.elementwise .mov d a .none k (bit1 w)

/-! ## Carry forms -/

/-- `vadc` and `vsbc` (R134): carries in and out of m0, read as it stood at the start; a masked-off element's bit of m0
becomes 0. -/
def State.carry (s : State) (sub : Bool) (d a b : Reg) (k : BitVec 3) (w x : Bool) : Res :=
  let h := s.hart
  let spec := h.eSpec .add d a (.vec b x) k w
  let t := h.ty a
  let g := h.grp a
  let n := h.reach
  s.vector { spec with
      ill := !h.opOk a n || !h.opOk b n || !h.resOk d t g n
      mism := !t.isInt || !sameCfg (h.v a.toNat).cfg (h.v b.toNat).cfg
      dsts := [{ reg := d.toNat, grp := g, cfg := some (t, g), len := h.vl }], sends := h.active k t.w, w := t.w } (fun s =>
    let h := s.hart
    let ra := h.elems a
    let rb := h.elems b
    let m0 := h.mask 0
    let tot (e : Nat) : Int :=
      let c : Int := if m0.getLsbD e then 1 else 0
      if sub then (ra e : Int) - rb e - c else (ra e : Int) + rb e + c
    let l := (h.active k t.w).map (fun e => (e, wrap t.w (tot e), 0))
    let cs := (h.range t.w).map (fun e =>
      (e, h.sel k e && (if sub then decide (tot e < 0) else decide ((2 ^ t.w : Nat) ≤ tot e))))
    let s := s.putResults d g t (some (mkCfg t g)) l
    s.done (s.hart.setMask 0 (setBits m0 cs)))

/-- `vadc vd, va, vb` (R134). -/
def execVadc (d a b : Reg) (k : BitVec 3) (w x : BitVec 1) (s : State) : Res :=
  s.carry false d a b k (bit1 w) (bit1 x)

/-- `vsbc vd, va, vb` (R134). -/
def execVsbc (d a b : Reg) (k : BitVec 3) (w x : BitVec 1) (s : State) : Res :=
  s.carry true d a b k (bit1 w) (bit1 x)

end Sys2Proof.Machine
end

