-- ==== Sys2Proof/Machine/VectorMore.lean ====
section
/-! DEFINITION. Compares (R137, R138), mask operations (R139), permutes (R140, R141), reductions and scale selection
(R142 to R144, R101, R117), conversions, quantisation and pairing (R145 to R149, R99 to R104). -/

namespace Sys2Proof.Machine

/-! ## Compares -/

/-- The relations of R137. -/
inductive Rel where
  | eq | ne | lt | ge
  deriving DecidableEq, Repr

/-- A relation from an order of two values. -/
def Rel.holds (r : Rel) (c : Int) : Bool :=
  match r with
  | .eq => c == 0
  | .ne => c != 0
  | .lt => decide (c < 0)
  | .ge => decide (0 ≤ c)

/-- Sign of the difference of two integers. -/
def orderInt (a b : Int) : Int := if a < b then -1 else if a = b then 0 else 1

/-- A compare of two raw elements (R138): the bit and the flags. -/
def Rel.compare (r : Rel) (t : Ty) (x y : Nat) : Bool × Nat :=
  match t.cls with
  | .flt =>
    let a := t.value x
    let b := t.value y
    if a.isNan || b.isNan then
      let quietOk := r == .eq || r == .ne
      (r == .ne, flagIf (!quietOk || a.isSnan || b.isSnan) fINVALID)
    else (r.holds (a.cmp b), 0)
  | _ => (r.holds (orderInt (t.int x) (t.int y)), 0)

/-- Whether a relation is defined on a class (R138). -/
def Rel.accepts (r : Rel) : TClass → Bool
  | .untagged | .stor => false
  | .ba => r == .eq || r == .ne
  | _ => true

/-- A compare instruction: every bit below VL of the mask register is written, masked-off ones with 0 (R137). -/
def State.compares (s : State) (r : Rel) (d : BitVec 3) (a : Reg) (b : Second) (k : BitVec 3) (w : Bool) : Res :=
  let h := s.hart
  let n := h.reach
  let ca := (h.v a.toNat).cfg
  let t := cfgTy ca
  let srcA : Src := { reg := a.toNat, grp := cfgGrp ca, trap := w, need := h.vl }
  let spec : VSpec :=
    match b with
    | .vec rb x =>
      let cb := (h.v rb.toNat).cfg
      { ill := !h.opOk a n || !h.opOk rb n, tile := none, mism := !r.accepts t.cls || !sameCfg ca cb
        srcs := [srcA, { reg := rb.toNat, grp := cfgGrp cb, trap := x, need := h.vl }], dsts := [], sends := h.range t.w
        lanewise := true, w := t.w }
    | _ => { ill := !h.opOk a n, tile := none, mism := !r.accepts t.cls, srcs := [srcA], dsts := []
             sends := h.range t.w, lanewise := true, w := t.w }
  s.vector spec (fun s =>
    let h := s.hart
    let ra := h.elems a
    let rb := h.second .add t.w b
    let l := (h.range t.w).map (fun e => (e, if h.sel k e then r.compare t (ra e) (rb e) else (false, 0)))
    let fl := (l.map (fun p => p.2.2)).foldl (fun x y => x ||| y) 0
    s.done ((h.setMask d.toNat (setBits (h.mask d.toNat) (l.map (fun p => (p.1, p.2.1))))).raise fl))

/-- `vceq md, va, vb` (R137, R138). -/
def execVceq (d : BitVec 3) (a b : Reg) (k : BitVec 3) (w x : BitVec 1) (s : State) : Res :=
  s.compares .eq d a (.vec b (bit1 x)) k (bit1 w)

/-- `vceqs md, va, sb`: against the scalar of R122 (R137, R138). -/
def execVceqs (d : BitVec 3) (a b : Reg) (k : BitVec 3) (w _x : BitVec 1) (s : State) : Res :=
  s.compares .eq d a (.scal b) k (bit1 w)

/-- `vcne md, va, vb` (R137, R138). -/
def execVcne (d : BitVec 3) (a b : Reg) (k : BitVec 3) (w x : BitVec 1) (s : State) : Res :=
  s.compares .ne d a (.vec b (bit1 x)) k (bit1 w)

/-- `vcnes md, va, sb`: against the scalar of R122 (R137, R138). -/
def execVcnes (d : BitVec 3) (a b : Reg) (k : BitVec 3) (w _x : BitVec 1) (s : State) : Res :=
  s.compares .ne d a (.scal b) k (bit1 w)

/-- `vclt md, va, vb` (R137, R138). -/
def execVclt (d : BitVec 3) (a b : Reg) (k : BitVec 3) (w x : BitVec 1) (s : State) : Res :=
  s.compares .lt d a (.vec b (bit1 x)) k (bit1 w)

/-- `vclts md, va, sb`: against the scalar of R122 (R137, R138). -/
def execVclts (d : BitVec 3) (a b : Reg) (k : BitVec 3) (w _x : BitVec 1) (s : State) : Res :=
  s.compares .lt d a (.scal b) k (bit1 w)

/-- `vcge md, va, vb` (R137, R138). -/
def execVcge (d : BitVec 3) (a b : Reg) (k : BitVec 3) (w x : BitVec 1) (s : State) : Res :=
  s.compares .ge d a (.vec b (bit1 x)) k (bit1 w)

/-- `vcges md, va, sb`: against the scalar of R122 (R137, R138). -/
def execVcges (d : BitVec 3) (a b : Reg) (k : BitVec 3) (w _x : BitVec 1) (s : State) : Res :=
  s.compares .ge d a (.scal b) k (bit1 w)

/-! ## Masks -/

/-- A mask operation: bit e of md for every e below VL; a mask bit lies where the element of the last head's width
does (R139, R262). -/
def State.maskOp (s : State) (d : BitVec 3) (f : Nat → Bool) : Res :=
  let h := s.hart
  let l := (h.range (ewBits h.headEw.toNat)).map (fun e => (e, f e))
  s.done (h.setMask d.toNat (setBits (h.mask d.toNat) l))

/-- The indices below VL whose bit is set. -/
def Hart.setIndices (h : Hart) (m : BitVec 8192) : List Nat := (List.range h.vl).filter (fun e => m.getLsbD e)

/-- `mand` (R139). -/
def execMand (d a b : BitVec 3) (s : State) : Res :=
  s.maskOp d (fun e => (s.hart.mask a.toNat).getLsbD e && (s.hart.mask b.toNat).getLsbD e)

/-- `mor` (R139). -/
def execMor (d a b : BitVec 3) (s : State) : Res :=
  s.maskOp d (fun e => (s.hart.mask a.toNat).getLsbD e || (s.hart.mask b.toNat).getLsbD e)

/-- `mxor` (R139). -/
def execMxor (d a b : BitVec 3) (s : State) : Res :=
  s.maskOp d (fun e => (s.hart.mask a.toNat).getLsbD e != (s.hart.mask b.toNat).getLsbD e)

/-- `mnot` (R139). -/
def execMnot (d a : BitVec 3) (s : State) : Res :=
  s.maskOp d (fun e => !(s.hart.mask a.toNat).getLsbD e)

/-- `mshup` (R139). -/
def execMshup (d a : BitVec 3) (s : State) : Res :=
  s.maskOp d (fun e => decide (e ≠ 0) && (s.hart.mask a.toNat).getLsbD (e - 1))

/-- `mset` (R139). -/
def execMset (d : BitVec 3) (s : State) : Res :=
  s.maskOp d (fun _ => true)

/-- `mclr` (R139). -/
def execMclr (d : BitVec 3) (s : State) : Res :=
  s.maskOp d (fun _ => false)

/-- `mpop sd, ma`: the count of set bits below VL (R139). -/
def execMpop (d : Reg) (a : BitVec 3) (s : State) : Res :=
  s.done (s.hart.wr d (BitVec.ofNat 64 (s.hart.setIndices (s.hart.mask a.toNat)).length))

/-- `mfirst sd, ma`: the least set bit below VL, all ones when there is none (R139). -/
def execMfirst (d : Reg) (a : BitVec 3) (s : State) : Res :=
  let v : Word := match s.hart.setIndices (s.hart.mask a.toNat) with
    | e :: _ => BitVec.ofNat 64 e
    | [] => BitVec.allOnes 64
  s.done (s.hart.wr d v)

/-! ## Permutes -/

/-- The active elements whatever a restart has left, in ascending order. -/
def Hart.everyActive (h : Hart) (k : BitVec 3) : List Nat := (List.range h.vl).filter (fun e => h.sel k e)

/-- Whether a type indexes (R141, R164): N8 to N64. -/
def isIndexTy (t : Ty) : Bool := 5 ≤ t.tag && t.tag ≤ 8

/-- A permute of va into vd under va's configuration (R141). `idx` is the index register and its trap bit, if any;
`place` gives the elements written. -/
def State.permute (s : State) (d a : Reg) (idx : Option (Reg × Bool)) (w : Bool)
    (place : Hart → (Nat → Nat) → List (Nat × Nat)) (after : Hart → Hart → Hart) : Res :=
  let h := s.hart
  let ca := (h.v a.toNat).cfg
  let t := cfgTy ca
  let g := cfgGrp ca
  let n := h.reach
  let more : List Src := match idx with
    | some (r, x) => [{ reg := r.toNat, grp := h.grp r, trap := x, need := h.vl }]
    | none => []
  let idxIll := match idx with
    | some (r, _) => !h.opOk r n
    | none => false
  let idxMism := match idx with
    | some (r, _) => !isIndexTy (h.ty r)
    | none => false
  s.vector
    { ill := !h.opOk a n || !h.resOk d t g n || idxIll, tile := none, mism := t.cls == .untagged || idxMism
      srcs := { reg := a.toNat, grp := g, trap := w, need := h.vl } :: more
      dsts := [{ reg := d.toNat, grp := g, cfg := some (t, g), len := h.vl }]
      sends := ((place h (fun _ => 0)).map (fun p => p.1)).filter (fun e => h.left t.w e), lanewise := false
      sendwise := true, w := t.w } (fun s =>
    let l := (place s.hart (s.hart.elems a)).filter (fun p => s.hart.left t.w p.1)
    let s' := s.putResults d g t (some (mkCfg t g)) (l.map (fun p => (p.1, p.2, 0)))
    s'.done (after s.hart s'.hart))

/-- `vslideup vd, va, sb` (R141). -/
def execVslideup (d a b : Reg) (k : BitVec 3) (w : BitVec 1) (s : State) : Res :=
  s.permute d a none (bit1 w) (fun h r =>
    let o := (h.rd b).toNat
    ((h.everyActive k).filter (fun e => decide (o ≤ e))).map (fun e => (e, r (e - o)))) (fun _ h => h)

/-- `vslidedn vd, va, sb` (R141). -/
def execVslidedn (d a b : Reg) (k : BitVec 3) (w : BitVec 1) (s : State) : Res :=
  s.permute d a none (bit1 w) (fun h r =>
    let o := (h.rd b).toNat
    (h.everyActive k).map (fun e => (e, if e + o < h.vl then r (e + o) else 0))) (fun _ h => h)

/-- `vgath vd, va, vb` (R141). -/
def execVgath (d a b : Reg) (k : BitVec 3) (w x : BitVec 1) (s : State) : Res :=
  s.permute d a (some (b, bit1 x)) (bit1 w) (fun h r =>
    let i := h.elems b
    (h.everyActive k).map (fun e => (e, if i e < h.vl then r (i e) else 0))) (fun _ h => h)

/-- A list of active elements with their places in it. -/
def places (l : List Nat) : List (Nat × Nat) := l.zipIdx

/-- `vcomp vd, va, sb`: the active elements packed, and their count in s[b], at VL = 0 too (R141), where no stream element
faults. -/
def execVcomp (d a b : Reg) (k : BitVec 3) (w : BitVec 1) (s : State) : Res :=
  s.permute d a none (bit1 w) (fun h r => (places (h.everyActive k)).map (fun p => (p.2, r p.1)))
    (fun h0 h => if h0.limit.isSome then h else h.wr b (BitVec.ofNat 64 (h0.everyActive k).length))

/-- `vexpd vd, va`: the k-th active element receives element k (R141). -/
def execVexpd (d a : Reg) (k : BitVec 3) (w : BitVec 1) (s : State) : Res :=
  s.permute d a none (bit1 w) (fun h r => (places (h.everyActive k)).map (fun p => (p.1, r p.2))) (fun _ h => h)

/-- An instruction that writes vd in vd's own configuration from no vector source (R141). -/
def State.fill (s : State) (d : Reg) (k : BitVec 3) (intOnly : Bool) (f : Nat → Nat) : Res :=
  let h := s.hart
  let t := h.ty d
  let g := h.grp d
  s.vector
    { ill := !h.opOk d h.reach, tile := none, mism := t.cls == .untagged || (intOnly && !t.isInt), srcs := []
      dsts := [{ reg := d.toNat, grp := g, cfg := none, len := h.vl }], sends := h.active k t.w, lanewise := true, w := t.w }
    (fun s =>
      let s := s.putResults d g t none ((s.hart.active k t.w).map (fun e => (e, f e % 2 ^ t.w, 0)))
      s.done s.hart)

/-- `vbcast vd, sb` (R141). -/
def execVbcast (d b : Reg) (k : BitVec 3) (s : State) : Res := s.fill d k false (fun _ => (s.hart.rd b).toNat)

/-- `vidx vd` (R141). -/
def execVidx (d : Reg) (k : BitVec 3) (s : State) : Res := s.fill d k true (fun e => e)

/-! ## Reductions -/

/-- The reductions of R142. -/
inductive ROp where
  | sum | max | min
  deriving DecidableEq, Repr

/-- The identity of a reduction as a raw element (R117). -/
def ROp.identity (op : ROp) (t : Ty) (mode : Nat) : Nat :=
  match op, t.cls with
  | .sum, .flt => if mode = RDN then 0 else 2 ^ (t.w - 1)
  | .sum, _ => 0
  | .max, .flt => (fmtOf t.tag).maxCode + 1 + 2 ^ (t.w - 1)
  | .min, .flt => (fmtOf t.tag).maxCode + 1
  | .max, _ => wrap t.w t.lo
  | .min, _ => wrap t.w t.hi

/-- One step of a reduction on raw elements with the flags so far (R143). -/
def ROp.join (op : ROp) (t : Ty) (mode : Nat) (x y : Nat × Nat) : Nat × Nat :=
  let (r, fl) := match op with
    | .sum => EOp.compute .add t t t mode 0 x.1 y.1 0
    | .max => minMax true t x.1 y.1
    | .min => minMax false t x.1 y.1
  (r, fl ||| x.2 ||| y.2)

/-- An element entering a reduction, widened exactly (R123, R143). -/
def widenElem (t rt : Ty) (x : Nat) : Nat × Nat :=
  if t = rt then (x, 0)
  else match t.cls with
    | .flt =>
      let v := t.value x
      let (r, fl) := rt.fit RNE 0 v
      (r, fl ||| flagIf v.isSnan fINVALID)
    | _ => (wrap rt.w (t.int x), 0)

/-- A NaN as an instruction's result: the default NaN of its format, a signalling one setting INVALID (R95). -/
def Ty.quieted (t : Ty) (x : Nat × Nat) : Nat × Nat :=
  if t.cls = .flt ∧ (t.value x.1).isNan then ((fmtOf t.tag).nan, x.2 ||| flagIf (t.value x.1).isSnan fINVALID) else x

/-- The tree of R117 over VL elements. A NaN that no step of the tree meets, at VL = 1, is a NaN result all the same (R95). -/
def ROp.reduce (op : ROp) (t rt : Ty) (mode vl : Nat) (sel : Nat → Bool) (r : Nat → Nat) : Nat × Nat :=
  let L := pow2AtLeast vl
  let leaves := (List.range L).map (fun e =>
    if decide (e < vl) && sel e then widenElem t rt (r e) else (op.identity rt mode, 0))
  rt.quieted ((reduceTree (op.join rt mode) (Nat.log2 L) leaves).headD (0, 0))

/-- Classes a reduction accepts (R143). -/
def ROp.accepts (op : ROp) : TClass → Bool
  | .sint | .nint | .fx | .flt => true
  | .ba => op == .sum
  | _ => false

/-- A reduction into element 0 of vd, whose result group is 1 (R143). Nothing at VL = 0. -/
def State.reduction (s : State) (op : ROp) (d a : Reg) (k : BitVec 3) (w : Bool) : Res :=
  let h := s.hart
  let ca := (h.v a.toNat).cfg
  let t := cfgTy ca
  let (rt, okW) : Ty × Bool :=
    if op = .sum ∧ cfgW2 ca ≠ 0 then
      match widenTy t (w2Bits (cfgW2 ca)) false with
      | some r => (r, true)
      | none => (t, false)
    else (t, true)
  s.vector
    { ill := !h.opOk a h.vl, tile := none, mism := !op.accepts t.cls || !okW
      srcs := [{ reg := a.toNat, grp := cfgGrp ca, trap := w, need := h.vl }]
      dsts := [{ reg := d.toNat, grp := 1, cfg := some (rt, 1), len := h.vl }]
      sends := if h.vl = 0 then [] else [0], lanewise := false
      w := t.w }
    (fun s =>
      let h := s.hart
      if h.vl = 0 then s.done h
      else
        let (r, fl) := op.reduce t rt (noRsr h.rmodeN) h.vl (h.sel k) (h.elems a)
        let s := s.putResults d 1 rt (some (mkCfg rt 1)) [(0, r, fl)]
        s.done s.hart)

/-- `vrsum vd, va` (R143). -/
def execVrsum (d a : Reg) (k : BitVec 3) (w : BitVec 1) (s : State) : Res := s.reduction .sum d a k (bit1 w)

/-- `vrmax vd, va` (R143). -/
def execVrmax (d a : Reg) (k : BitVec 3) (w : BitVec 1) (s : State) : Res := s.reduction .max d a k (bit1 w)

/-- `vrmin vd, va` (R143). -/
def execVrmin (d a : Reg) (k : BitVec 3) (w : BitVec 1) (s : State) : Res := s.reduction .min d a k (bit1 w)

/-- floor(log2 |x|) of a finite nonzero value (R101). -/
def FVal.exponent : FVal → Option Int
  | .fin _ m e => if m = 0 then none else some ((Nat.log2 m : Int) + e)
  | _ => none

/-- The scale entry of one block and the flags it sets, from the active values of its 16 positions (R101). -/
def blockScale (vals : List (Option FVal)) : Nat × Nat :=
  let act := vals.filterMap id
  if act.any (fun v => v.special) then (255 * 2 ^ 8, fINVALID)
  else
    match (act.filterMap FVal.exponent).max? with
    | none => (0, 0)
    | some mx =>
      let E := (min (max (mx + 127) 1) 254).toNat
      let u := (List.range 8).map (fun p =>
        let es := ((vals.drop (2 * p)).take 2).filterMap (fun v => v.bind FVal.exponent)
        es.all (fun x => decide (x + 127 ≤ (E : Int) - 1)))
      (E * 2 ^ 8 + bitsOf u, 0)

/-- A scale register with a list of 16-bit entries replaced. -/
def putScales (x : BitVec 8192) (l : List (Nat × Nat)) : BitVec 8192 :=
  BitVec.ofNat 8192 (l.foldl (fun raw p => setElem raw 16 p.1 p.2) x.toNat)

/-- Entry `b` of a scale register (R100). -/
def Hart.scaleAt (h : Hart) (x b : Nat) : Nat := elemAt (h.scale x).toNat 16 b

/-- `vsmaxe xd, va`: the block scales of R101 (R144). -/
def execVsmaxe (d a : Reg) (k : BitVec 3) (w : BitVec 1) (s : State) : Res :=
  let h := s.hart
  let t := h.ty a
  s.vector
    { ill := decide (8 ≤ d.toNat) || !h.opOk a h.vl, tile := none, mism := t.cls != .flt
      srcs := [{ reg := a.toNat, grp := h.grp a, trap := bit1 w, need := h.vl }], dsts := [], sends := []
      lanewise := false } (fun s =>
    let h := s.hart
    let r := h.elems a
    let blocks := (List.range ((h.vl + 15) / 16)).map (fun b =>
      (b, blockScale ((List.range 16).map (fun i =>
        if decide (16 * b + i < h.vl) && h.sel k (16 * b + i) then some (t.value (r (16 * b + i))) else none))))
    let fl := (blocks.map (fun p => p.2.2)).foldl (fun x y => x ||| y) 0
    let x := putScales (h.scale d.toNat) (blocks.map (fun p => (p.1, p.2.1)))
    s.done ({ h with scales := h.scales.set (d.toNat % 8) x (Nat.mod_lt _ (by decide)) }.raise fl))

/-! ## Conversions -/

/-- The groups of tags between which `vcvt` converts (R146). -/
inductive CvtClass where
  | int | fx | ba | flt | tok | none
  deriving DecidableEq, Repr

/-- The group of a type. -/
def cvtClass (t : Ty) : CvtClass :=
  if isFloatTag t.tag then .flt
  else match t.cls with
    | .sint | .nint => .int
    | .fx => .fx
    | .ba => .ba
    | .tok => .tok
    | _ => .none

/-- The pairs of R146's table. -/
def cvtOk (a b : CvtClass) : Bool :=
  match a, b with
  | .none, _ | _, .none => false
  | .int, .ba => false
  | .int, _ => true
  | .tok, .int | .tok, .tok => true
  | .tok, _ => false
  | .ba, .int => false
  | _, .tok => false
  | _, _ => true

/-- A conversion of one element (R146). -/
def convert (t rt : Ty) (mode draw x : Nat) : Nat × Nat :=
  if t = rt then (x, 0)
  else
    let v := t.value x
    let (r, fl) := rt.fit mode draw v
    (r, fl ||| flagIf v.isSnan fINVALID)

/-- An instruction from va into vd under vd's own configuration. -/
def Hart.intoOwn (h : Hart) (ill mism : Bool) (d a : Reg) (k : BitVec 3) (w : Bool) : VSpec :=
  { ill := ill || !h.opOk a h.reach || !h.opOk d h.reach, tile := none, mism := mism
    srcs := [{ reg := a.toNat, grp := h.grp a, trap := w, need := h.vl }]
    dsts := [{ reg := d.toNat, grp := h.grp d, cfg := none, len := h.vl }], sends := h.active k (h.ty d).w
    lanewise := true, w := (h.ty d).w }

/-- `vcvt vd, va` (R146). Under RSR every conversion but a copy draws (R97); it is a copy where va and vd have equal TAG
and FRAC (log entry 77). -/
def execVcvt (d a : Reg) (k : BitVec 3) (w : BitVec 1) (s : State) : Res :=
  let h := s.hart
  let t := h.ty a
  let rt := h.ty d
  let g := h.grp d
  s.vector (h.intoOwn false (!cvtOk (cvtClass t) (cvtClass rt)) d a k (bit1 w)) (fun s =>
    let h := s.hart
    let r := h.elems a
    let l := (h.active k rt.w).map (fun e => (e, convert t rt h.rmodeN (if t = rt then 0 else h.drawFor e) (r e)))
    let s := s.putResults d g rt none l
    s.done (if t = rt then s.hart else s.hart.spendDraws))

/-- Bits of a paired-scale code, 0 for another tag (R99). -/
def psBits (t : Ty) : Nat := if t.tag = 20 then 2 else if t.tag = 21 then 4 else if t.tag = 22 then 7 else 0

/-- E and the pair bit u of an element under a block's scale entry (R99, R100). -/
def scaleE (sc : Nat) : Nat := bits sc 8 8
def scaleU (sc e : Nat) : Nat := bits sc (e % 16 / 2) 1

/-- Quantising one value into a paired-scale code of `m` bits (R102); in a block with E 0 or 255 no value raises a flag (log
entry 100). -/
def psQuant (m sc e : Nat) (v : FVal) : Nat × Nat :=
  let E := scaleE sc
  if E = 0 ∨ E = 255 then (0, 0)
  else match v with
    | .fin neg mm me =>
      let (q, lost) := roundAt RNE 0 false mm me ((E : Int) - 127 - scaleU sc e - ((m : Int) - 2))
      let top := 2 ^ (m - 1) - 1
      let M := min q.toNat top
      let above := decide (top < q.toNat)
      let code := (if neg && M != 0 then 2 ^ (m - 1) else 0) + M
      (code, flagIf above fSAT ||| flagIf (lost || above) fINEXACT)
    | _ => (0, fINVALID)

/-- The value of a paired-scale code (R99). -/
def psValue (m sc e code : Nat) : FVal :=
  let E := scaleE sc
  if E = 0 then .fin false 0 0
  else if E = 255 then .nan false
  else .fin (code / 2 ^ (m - 1) % 2 == 1) (code % 2 ^ (m - 1)) ((E : Int) - 127 - scaleU sc e - ((m : Int) - 2))

/-- |a − b| of two finite values over a common place. -/
def FVal.distance : FVal → FVal → FVal
  | a, b => (a.add false b.negate).1.abs

/-- The entry of a bank nearest to a finite value, ties to the lowest index, NaN entries never chosen (R147). -/
def nearestEntry (bank : List FVal) (v : FVal) : Option Nat :=
  (places' bank).foldl (fun best p =>
    if p.1.isNan then best
    else match best with
      | none => some p.2
      | some b => if FVal.cmp (p.1.distance v) ((bank.getD b v).distance v) < 0 then some p.2 else best) none
where
  places' (l : List FVal) : List (FVal × Nat) := l.zipIdx

/-- Quantising one value into CT4 by the live bank (R104, R147). -/
def ctQuant (bank : List FVal) (v : FVal) : Nat × Nat :=
  if v.isNan then (0, fINVALID)
  else
    let same := (List.range bank.length).find? (fun i => (bank.getD i v) == v && v.special)
    match same with
    | some i => (i, 0)
    | none =>
      match nearestEntry bank v with
      | none => (0, fINVALID)
      | some i => (i, flagIf (FVal.cmp (bank.getD i v) v != 0) fINEXACT)

/-- The live bank of a core's code table as values (R104). -/
def CodeTable.bank (c : CodeTable) : List FVal := c.live.toList.map (fun x => (fmtOf 15).decode x.toNat)

/-- `vquant vd, va, xb` (R147). -/
def execVquant (d a b : Reg) (k : BitVec 3) (w : BitVec 1) (s : State) : Res :=
  let h := s.hart
  let t := h.ty a
  let rt := h.ty d
  let g := h.grp d
  let ct := rt.tag == 26
  s.vector (h.intoOwn (decide (8 ≤ b.toNat) || (ct && b != 0)) (t.cls != .flt || !(ct || psBits rt != 0)) d a k (bit1 w))
    (fun s =>
      if s.codeHeld ct then s.held
      else
        let h := s.hart
        let r := h.elems a
        let bank := (s.codeTab h.core).bank
        let f (e : Nat) : Nat × Nat :=
          if ct then ctQuant bank (t.value (r e)) else psQuant (psBits rt) (h.scaleAt b.toNat (e / 16)) e (t.value (r e))
        let s := s.putResults d g rt none ((h.active k rt.w).map (fun e => (e, f e)))
        s.done s.hart)

/-- `vdeq vd, va, xb` (R148). -/
def execVdeq (d a b : Reg) (k : BitVec 3) (w : BitVec 1) (s : State) : Res :=
  let h := s.hart
  let t := h.ty a
  let rt := h.ty d
  let g := h.grp d
  let ct := t.tag == 26
  s.vector (h.intoOwn (decide (8 ≤ b.toNat) || (ct && b != 0)) (rt.cls != .flt || !(ct || psBits t != 0)) d a k (bit1 w))
    (fun s =>
      if s.codeHeld ct then s.held
      else
        let h := s.hart
        let r := h.elems a
        let bank := (s.codeTab h.core).bank
        let f (e : Nat) : Nat × Nat :=
          let v := if ct then bank.getD (r e) (.fin false 0 0) else psValue (psBits t) (h.scaleAt b.toNat (e / 16)) e (r e)
          rt.fit h.rmodeN (h.drawFor e) v
        let s := s.putResults d g rt none ((h.active k rt.w).map (fun e => (e, f e)))
        s.done s.hart.spendDraws)

/-! ## Pairing -/

/-- `vunpk vd, va`: interleaved elements apart into vd and vd + G (R149). -/
def execVunpk (d a : Reg) (k : BitVec 3) (w : BitVec 1) (s : State) : Res :=
  let h := s.hart
  let ca := (h.v a.toNat).cfg
  let t := cfgTy ca
  let g := cfgGrp ca
  let d2 : Reg := d + BitVec.ofNat 5 g
  s.vector
    { ill := d.toNat % (2 * g) != 0 || decide (h.regEnd < d.toNat + 2 * g) || !h.opOk a (2 * h.reach), tile := none
      mism := t.cls == .untagged
      srcs := [{ reg := a.toNat, grp := g, trap := bit1 w, need := 2 * h.vl }]
      dsts := [{ reg := d.toNat, grp := g, cfg := some (t, g), len := h.vl },
               { reg := d2.toNat, grp := g, cfg := some (t, g), len := h.vl }]
      sends := h.active k t.w, lanewise := false, sendwise := true, w := t.w } (fun s =>
    let es := s.hart.active k t.w
    let r := s.hart.elems a
    let s := s.putResults d g t (some (mkCfg t g)) (es.map (fun e => (e, r (2 * e), 0)))
    let s := s.putResults d2 g t (some (mkCfg t g)) (es.map (fun e => (e, r (2 * e + 1), 0)))
    s.done s.hart)

/-- The elements of vd that `vpack` writes, with the pair member and element each comes from; in a lane's turn the one
whose index is the lane's (R236), and both where they are pushed (R237). -/
def Hart.packed (h : Hart) (d : Reg) (k : BitVec 3) (w : Nat) : List (Nat × Bool × Nat) :=
  let es := match h.lane with
    | some e => [e]
    | none => List.range h.vl
  ((es.filter (fun e => h.sel k e)).flatMap (fun e => [(2 * e, false, e), (2 * e + 1, true, e)])).filter (fun p =>
    match h.lane with
    | some e => h.isXq d.toNat || p.1 == e
    | none => h.left w p.1)

/-- `vpack vd, va`: the pair at va and va + G interleaved into vd (R149). The second member is held to the configuration of
the first alone (log entry 101). -/
def execVpack (d a : Reg) (k : BitVec 3) (w : BitVec 1) (s : State) : Res :=
  let h := s.hart
  let ca := (h.v a.toNat).cfg
  let t := cfgTy ca
  let g := cfgGrp ca
  let a2 : Reg := a + BitVec.ofNat 5 g
  s.vector
    { ill := a.toNat % (2 * g) != 0 || decide (h.regEnd < a.toNat + 2 * g) || !h.fits a.toNat g t.w (2 * h.reach)
        || !h.resOk d t g (2 * h.reach), tile := none
      mism := t.cls == .untagged || !sameCfg ca (h.v a2.toNat).cfg
      srcs := [{ reg := a.toNat, grp := g, trap := bit1 w, need := h.vl },
               { reg := a2.toNat, grp := g, trap := bit1 w, need := h.vl }]
      dsts := [{ reg := d.toNat, grp := g, cfg := some (t, g), len := 2 * h.vl }]
      sends := (h.packed d k t.w).map (fun p => p.1), lanewise := false, sendwise := true, w := t.w } (fun s =>
    let l := s.hart.packed d k t.w
    let r := s.hart.elems a
    let r2 := s.hart.elems a2
    let s := s.putResults d g t (some (mkCfg t g)) (l.map (fun p => (p.1, if p.2.1 then r2 p.2.2 else r p.2.2, 0)))
    s.done s.hart)

end Sys2Proof.Machine
end

