-- ==== Sys2Proof/Machine/VectorMemory.lean ====
section
/-! DEFINITION. Vector loads and stores (R161 to R173), vector atomics (R183 to R185), accumulation windows (R186 to
R190), position translation (R191, R192), streams (R174 to R180), and `wait`, `vfull` and `vempty` (R181, R182). -/

namespace Sys2Proof.Machine

/-! ## Element places -/

/-- Where an element lies: a byte address and a bit offset within its byte (R162). -/
structure Place where
  va : BitVec 64
  bit : Nat
  deriving DecidableEq, Repr

/-- The place `o` bits above a base address (R162). -/
def placeAt (base : BitVec 64) (o : Nat) : Place := { va := base + BitVec.ofNat 64 (o / 8), bit := o % 8 }

/-- Bytes an element of `w` bits touches. -/
def Place.bytes (p : Place) (w : Nat) : Nat := (p.bit + w + 7) / 8

/-- The checks of R344 on an element: its physical bytes' places, or its fault. -/
def State.reach (s : State) (acc : Acc) (w : Nat) (p : Place) : Except Flt (List Phys) :=
  if 8 ≤ w then
    if windowEnd ≤ p.va.toNat then .error ⟨cPage, acc.detail, p.va⟩
    else if p.bit ≠ 0 then .error ⟨cAlign, 0, p.va⟩
    else (s.access s.hart acc (w / 8) p.va).map (fun q => [q])
  else
    if p.bytes w ≤ 1 then (s.access s.hart acc 1 p.va).map (fun q => [q])
    else (s.both s.hart (s.access s.hart acc 1 p.va) (s.access s.hart acc 1 (p.va + 1))).map (fun q => [q.1, q.2])

/-- The held stores of the lane in whose turn the hart is (R209). -/
def Hart.laneHeld (h : Hart) : List LaneStore :=
  match h.lane, h.sect with
  | some l, some q => (match q.lanes.find? (fun x => x.idx == l) with
    | some x => x.held
    | none => [])
  | _, _ => []

/-- A byte of memory as a lane's own held stores leave it, newest first. -/
def heldByte (l : List LaneStore) (pa : Nat) : Option Nat :=
  l.reverse.findSome? (fun x =>
    if x.pa ≤ pa ∧ pa < x.pa + x.size then some (x.value.toNat / 2 ^ (8 * (pa - x.pa)) % 256) else none)

/-- `n` bytes of stream S1, a lane's own held stores first (R194, R209). -/
def State.see1 (s : State) (q : Phys) (n : Nat) : Nat :=
  let raw := s.load s.hart 1 false q.pa n
  let held := s.hart.laneHeld
  if held.isEmpty then raw
  else packNat 8 ((List.range n).map (fun i => (heldByte held (q.pa + i)).getD (elemAt raw 8 i)))

/-- The value that a replica made by the focused hart's launch keeps of an element (R169, R211). -/
def State.replica (s : State) (pa n : Nat) : Option Nat :=
  (s.replicas.find? (fun r => decide (r.seq = s.hart.id.seq ∧ r.pa = pa ∧ r.size = n))).map (fun r => r.value)

/-- An element of whole bytes in stream S1; `rep` lets a replica supply it (R169). -/
def State.seeElem (s : State) (rep : Bool) (q : Phys) (n : Nat) : Nat :=
  if rep && s.fromReplica then (s.replica q.pa n).getD (s.see1 q n) else s.see1 q n

/-- A `.rep` load has read an element from its location: the replica keeps that value (R169). One that came from a store not yet
performed is no value of the location, and no replica keeps it (R202, R209). -/
def State.keepReplica (s : State) (q : Phys) (n v : Nat) : State :=
  if (s.fromReplica ∧ (s.replica q.pa n).isSome) ∨ memRead s.mem q.pa n ≠ v then s
  else { s with replicas := { seq := s.hart.id.seq, pa := q.pa, size := n, value := v }
    :: s.replicas.filter (fun r => !decide (r.seq = s.hart.id.seq ∧ r.pa = q.pa ∧ r.size = n)) }

/-- An element's bits in stream S1. -/
def State.readPlace (s : State) (rep : Bool) (w : Nat) (p : Place) : Except Flt Nat :=
  match s.reach .read w p with
  | .error f => .error f
  | .ok [q] => .ok (if 8 ≤ w then s.seeElem rep q (w / 8) else s.see1 q 1 / 2 ^ p.bit % 2 ^ w)
  | .ok (q :: q' :: _) => .ok ((s.see1 q 1 + 256 * s.see1 q' 1) / 2 ^ p.bit % 2 ^ w)
  | .ok [] => .ok 0

/-- A bit-masked write of one byte: it performs at once, and an uncorrectable error in the byte's other bits stays (R173; log
entry 95). -/
def State.writeBits (s : State) (q : Phys) (b : Nat) : State :=
  { s.store 1 true false q.pa [BitVec.ofNat 8 b] with poison := s.poison }

/-- An element written in stream S1; below 8 bits, by bit-masked writes of its bytes (R171, R173). -/
def State.writePlace (s : State) (w : Nat) (p : Place) (v : Nat) : Except Flt State :=
  match s.reach .write w p with
  | .error f => .error f
  | .ok [q] =>
    if 8 ≤ w then .ok (s.store 1 (s.performsNow q) false q.pa (natLe (w / 8) v))
    else
      let s := s.drain (fun k => k == 1)
      let old := s.load s.hart 1 false q.pa 1
      .ok (s.writeBits q (old - old / 2 ^ p.bit % 2 ^ w * 2 ^ p.bit + v * 2 ^ p.bit))
  | .ok (q :: q' :: _) =>
    let s := s.drain (fun k => k == 1)
    let old := s.load s.hart 1 false q.pa 1 + 256 * s.load s.hart 1 false q'.pa 1
    let new := old - old / 2 ^ p.bit % 2 ^ w * 2 ^ p.bit + v * 2 ^ p.bit
    .ok ((s.writeBits q new).writeBits q' (new / 256))
  | .ok [] => .ok s

/-! ## Loads -/

/-- The addressing forms of R167. -/
inductive Form where
  | unit
  | strided (r : Reg)
  | indexed (r : Reg) (trap : Bool)
  | bitOffset (r : Reg)
  deriving DecidableEq, Repr

/-- The place of element `e` of width `w` from base s[a] (R167). -/
def Hart.formPlace (h : Hart) (f : Form) (a : Reg) (w : Nat) : Nat → Place :=
  let b := h.rd a
  match f with
  | .unit => fun e => placeAt b (e * w)
  | .strided r => fun e => { va := b + BitVec.ofInt 64 ((e : Int) * (h.rd r).toInt), bit := 0 }
  | .indexed r _ =>
    let i := h.elems r
    fun e => { va := b + BitVec.ofNat 64 (i e), bit := 0 }
  | .bitOffset r => fun e => placeAt b ((h.rd r).toNat + e * w)

/-- What the frame asks of a memory form: sources, illegality and mismatch of its index register (R164). -/
def Hart.formParts (h : Hart) (f : Form) : List Src × Bool × Bool :=
  match f with
  | .indexed r x =>
    ([{ reg := r.toNat, grp := h.grp r, trap := x, need := h.vl }], !h.opOk r h.reach, !isIndexTy (h.ty r))
  | _ => ([], false, false)

/-- Whether a form takes elements below 8 bits (R166). -/
def Form.subByte : Form → Bool
  | .unit | .bitOffset _ => true
  | _ => false

/-- Reading active elements in ascending order up to the first fault: index and bits, and that fault (R163). -/
def State.gather (s : State) (rep : Bool) (w : Nat) (place : Nat → Place) : List Nat → List (Nat × Nat) × Option (Nat × Flt)
  | [] => ([], none)
  | e :: es =>
    match s.readPlace rep w (place e) with
    | .error f => ([], some (e, f))
    | .ok v =>
      let (l, flt) := s.gather rep w place es
      ((e, v) :: l, flt)

/-- The replicas that a `.rep` load of these elements leaves (R169); elements below 8 bits leave none. -/
def State.keepReplicas (s : State) (w : Nat) (place : Nat → Place) : List (Nat × Nat) → State
  | [] => s
  | (e, v) :: l =>
    match s.reach .read w (place e) with
    | .ok [q] => (if 8 ≤ w then s.keepReplica q (w / 8) v else s).keepReplicas w place l
    | _ => s.keepReplicas w place l

/-- What a load does with the elements it read, whose bits it never alters (R164). -/
def State.landLoad (s : State) (d : Reg) (g : Nat) (t : Ty) (l : List (Nat × Nat)) : State :=
  let s := s.putRaw d.toNat g t l
  if s.hart.isBound d.toNat then s else s.produce (members d.toNat g) s.loadLat

/-- The load issued without performing yet (R193, R196), where it may be: its destination is a register, no element faults
and each lies in memory. -/
def State.issueLoad (s : State) (d : Reg) (g : Nat) (t : Ty) (place : Nat → Place) (es : List Nat) : Option State :=
  if s.hart.isBound d.toNat ∨ t.w < 8 ∨ es = [] then none
  else
    let spots : Option (List (Nat × Nat)) := es.mapM (fun e => match s.reach .read t.w (place e) with
      | .ok [q] => if s.delays 1 q then some (e, q.pa) else none
      | _ => none)
    spots.map (fun l =>
      let x : LateLoad := { stream := 1, dest := .vector d.toNat g t.w, size := t.w / 8, elems := l }
      (s.upd (fun h => { h with late := h.late ++ [x] })).produce (members d.toNat g) s.loadLat)

/-- A load of major 0x19 other than `vldff` and `vldseg` (R166, R167). -/
def State.vload (s : State) (rep : Bool) (f : Form) (d a : Reg) (k : BitVec 3) : Res :=
  let h := s.hart
  let t := h.ty d
  let g := h.grp d
  let (srcs, ill, mism) := h.formParts f
  s.vector
    { ill := ill || !h.opOk d h.reach || (!f.subByte && t.w != 0 && decide (t.w < 8)), tile := none
      mism := mism || t.cls == .untagged, srcs := srcs
      dsts := [{ reg := d.toNat, grp := g, cfg := none, len := h.vl }], sends := h.active k t.w, lanewise := true
      w := t.w }
    (fun s =>
      let h := s.hart
      if h.reach = 0 then s.done h
      else
        let place := h.formPlace f a t.w
        let es := h.active k t.w
        let (l, flt) := s.gather rep t.w place es
        let s1 := if rep then s.keepReplicas t.w place l else s
        match flt with
        | some (e, x) => (s1.putRaw d.toNat g t l).elemFault t.w (h.owed k t.w) e x
        | none =>
          let s2 := ((if rep then none else s.issueLoad d g t place es).getD (s1.landLoad d g t l))
          s2.done s2.hart)

/-- `vld vd, sa` (R167); `.rep` lets replicas supply its elements (R169). -/
def execVld (d a : Reg) (k : BitVec 3) (r : BitVec 1) (s : State) : Res := s.vload (bit1 r) .unit d a k

/-- `vlds vd, sa, sb` (R167). -/
def execVlds (d a b : Reg) (k : BitVec 3) (r : BitVec 1) (s : State) : Res := s.vload (bit1 r) (.strided b) d a k

/-- `vldx vd, sa, vb` (R167). -/
def execVldx (d a b : Reg) (k : BitVec 3) (x r : BitVec 1) (s : State) : Res :=
  s.vload (bit1 r) (.indexed b (bit1 x)) d a k

/-- `vldb vd, sa, sb` (R167). -/
def execVldb (d a b : Reg) (k : BitVec 3) (r : BitVec 1) (s : State) : Res := s.vload (bit1 r) (.bitOffset b) d a k

/-- Whether a fault after element 0 ends a `vldff` quietly (R168). -/
def Flt.soft (f : Flt) : Bool := f.cause == cPage || f.cause == cProt || f.cause == cAlign

/-- The active elements that a `vldff` loads: those below the fault that ends it quietly. -/
def State.firstFaultElems (s : State) (a : Reg) (k : BitVec 3) (w : Nat) : List Nat :=
  let es := s.hart.active k w
  match (s.gather false w (s.hart.formPlace .unit a w) es).2 with
  | some (e, x) => if e ≠ 0 ∧ x.soft then es.filter (fun i => decide (i < e)) else es
  | none => es

/-- `vldff vd, sa, sb`: the elements below the first page, protection or misaligned-access fault, and their count in
s[b]; a fault of element 0, and any other fault, is raised (R168). -/
def execVldff (d a b : Reg) (k : BitVec 3) (r : BitVec 1) (s : State) : Res :=
  let h := s.hart
  let t := h.ty d
  let g := h.grp d
  let rep := bit1 r
  s.vector
    { ill := !h.opOk d h.reach, tile := none, mism := t.cls == .untagged, srcs := []
      dsts := [{ reg := d.toNat, grp := g, cfg := none, len := h.vl }], sends := s.firstFaultElems a k t.w
      lanewise := true, w := t.w, act := h.active k t.w }
    (fun s =>
      let h := s.hart
      if h.vl = 0 then s.done (h.wr b 0)
      else
        let place := h.formPlace .unit a t.w
        let (l, flt) := s.gather rep t.w place (h.active k t.w)
        let s := if rep then s.keepReplicas t.w place l else s
        match flt with
        | none =>
          let s := s.landLoad d g t l
          s.done (if h.limit.isSome then s.hart else s.hart.wr b (BitVec.ofNat 64 h.vl))
        | some (e, x) =>
          if e ≠ 0 ∧ x.soft then
            let s := s.landLoad d g t l
            s.done (s.hart.wr b (BitVec.ofNat 64 e))
          else (s.putRaw d.toNat g t l).elemFault t.w (h.owed k t.w) e x)

/-- The place of field `f` of element `e` in a segment of `n` fields (R167). -/
def Hart.segPlace (h : Hart) (a : Reg) (w n f e : Nat) : Place := placeAt (h.rd a) ((e * n + f) * w)

/-- Reading segment fields of active elements, all fields of an element before any counts (R167). -/
def State.gatherSeg (s : State) (w n : Nat) (a : Reg) : List Nat → List (Nat × List Nat) × Option (Nat × Flt)
  | [] => ([], none)
  | e :: es =>
    match (List.range n).mapM (fun f => s.readPlace false w (s.hart.segPlace a w n f e)) with
    | .error x => ([], some (e, x))
    | .ok vs =>
      let (l, flt) := s.gatherSeg w n a es
      ((e, vs) :: l, flt)

/-- The field groups' base registers of a segment access. -/
def segRegs (d : Reg) (g n : Nat) : List Nat := (List.range n).map (fun f => d.toNat + f * g)

/-- What a segment access asks of the frame besides its data operands (R166, R167, R178). -/
def Hart.segIll (h : Hart) (d : Reg) (n : Nat) : Bool :=
  let t := h.ty d
  let g := h.grp d
  !h.opOk d h.reach || decide (32 < d.toNat + n * g) || (t.w != 0 && decide (t.w < 8))
    || (members d.toNat (n * g)).any (fun r => h.isBound r)

/-- Segment data put into the field groups, every member with vd's configuration (R167). -/
def Hart.putSegs (h : Hart) (d : Reg) (g n : Nat) (t : Ty) (c : BitVec 32) (l : List (Nat × List Nat)) : Hart :=
  (List.range n).foldl (fun h f =>
    let r := d.toNat + f * g
    (h.setCfg r g c).writeGroup r g t.w (l.map (fun p => (p.1, p.2.getD f 0)))) h

/-- `vldseg vd, sa, F` (R167). -/
def execVldseg (d a : Reg) (k : BitVec 3) (f : BitVec 3) (s : State) : Res :=
  let h := s.hart
  let t := h.ty d
  let g := h.grp d
  let n := f.toNat + 1
  let c := (h.v d.toNat).cfg
  s.vector
    { ill := h.segIll d n, tile := none, mism := t.cls == .untagged, srcs := []
      dsts := (segRegs d g n).map (fun r => { reg := r, grp := g, cfg := none, len := h.vl }), sends := h.active k t.w
      lanewise := true, w := t.w }
    (fun s =>
      let h := s.hart
      if h.vl = 0 then s.done h
      else
        let (l, flt) := s.gatherSeg t.w n a (h.active k t.w)
        let s := s.upd (fun h => h.putSegs d g n t c l)
        match flt with
        | some (e, x) => s.elemFault t.w (h.owed k t.w) e x
        | none =>
          let s := s.produce (members d.toNat (n * g)) s.loadLat
          s.done s.hart)

/-! ## Stores -/

/-- Storing elements in ascending order up to the first fault: the state, and that fault (R163, R171, R172). -/
def State.scatter (s : State) (w : Nat) (place : Nat → Place) (val : Nat → Nat) : List Nat → State × Option (Nat × Flt)
  | [] => (s, none)
  | e :: es =>
    match s.writePlace w (place e) (val e) with
    | .error f => (s, some (e, f))
    | .ok s' => s'.scatter w place val es

/-- A lane's store is held until `vjoin`, at most 256 of them (R209, R240). -/
def State.laneStore (s : State) (w : Nat) (p : Place) (v : Nat) : Res :=
  match s.hart.lane with
  | none => s.illegal
  | some e =>
    if 256 ≤ s.hart.laneHeld.length then s.illegal
    else match s.reach .write w p with
      | .error f => s.elemFault w [e] e f
      | .ok q =>
        let x : LaneStore := { va := p.va, pa := (q.map (fun y => y.pa)).headD 0, size := w / 8, value := BitVec.ofNat 64 v }
        s.done { s.hart with sect := s.hart.sect.map (fun q =>
          { q with lanes := q.lanes.map (fun l => if l.idx = e then { l with held := l.held ++ [x] } else l) }) }

/-- A store of major 0x1A other than `vstseg` (R170, R171). -/
def State.vstore (s : State) (f : Form) (d a : Reg) (k : BitVec 3) (w : Bool) : Res :=
  let h := s.hart
  let t := h.ty d
  let (srcs, ill, mism) := h.formParts f
  s.vector
    { ill := ill || !h.opOk d h.reach || (!f.subByte && t.w != 0 && decide (t.w < 8)), tile := none
      mism := mism || t.cls == .untagged
      srcs := { reg := d.toNat, grp := h.grp d, trap := w, need := h.vl } :: srcs, dsts := [], sends := h.active k t.w
      lanewise := true, w := t.w }
    (fun s =>
      let h := s.hart
      let place := h.formPlace f a t.w
      let val (e : Nat) : Nat := t.stored (h.elems d e)
      match h.lane with
      | some e => if h.sel k e then s.laneStore t.w (place e) (val e) else s.done h
      | none =>
        let (s, flt) := s.scatter t.w place val (h.active k t.w)
        match flt with
        | some (e, x) => s.elemFault t.w (h.owed k t.w) e x
        | none => s.done s.hart)

/-- `vst vd, sa` (R171). -/
def execVst (d a : Reg) (k : BitVec 3) (w : BitVec 1) (s : State) : Res := s.vstore .unit d a k (bit1 w)

/-- `vsts vd, sa, sb` (R171). -/
def execVsts (d a b : Reg) (k : BitVec 3) (w : BitVec 1) (s : State) : Res := s.vstore (.strided b) d a k (bit1 w)

/-- `vstx vd, sa, vb` (R171). -/
def execVstx (d a b : Reg) (k : BitVec 3) (w x : BitVec 1) (s : State) : Res :=
  s.vstore (.indexed b (bit1 x)) d a k (bit1 w)

/-- `vstb vd, sa, sb` (R171). -/
def execVstb (d a b : Reg) (k : BitVec 3) (w : BitVec 1) (s : State) : Res := s.vstore (.bitOffset b) d a k (bit1 w)

/-- Storing segments: every field of an element is checked before any is performed (R167, R171). -/
def State.scatterSeg (s : State) (w n : Nat) (a : Reg) (val : Nat → Nat → Nat) :
    List Nat → State × Option (Nat × Flt)
  | [] => (s, none)
  | e :: es =>
    match (List.range n).findSome? (fun f => match s.reach .write w (s.hart.segPlace a w n f e) with
        | .error x => some x
        | .ok _ => none) with
    | some x => (s, some (e, x))
    | none =>
      let s' := (List.range n).foldl (fun s f =>
        match s.writePlace w (s.hart.segPlace a w n f e) (val f e) with
        | .ok s' => s'
        | .error _ => s) s
      s'.scatterSeg w n a val es

/-- The source of a field of a segment store: its type and its elements, under the configuration word of its own first
register (R164). -/
def Hart.segField (h : Hart) (d : Reg) (g f : Nat) : Ty × (Nat → Nat) :=
  let r := BitVec.ofNat 5 (d.toNat + f * g)
  (h.ty r, h.elems r)

/-- `vstseg vd, sa, F` (R171). Each field's source is an operand under its own configuration word (R119, R164); the places
are those of vd's width (R167), and a field whose own elements are wider stores their low bits (log entry 92). -/
def execVstseg (d a : Reg) (k : BitVec 3) (w : BitVec 1) (f : BitVec 3) (s : State) : Res :=
  let h := s.hart
  let t := h.ty d
  let g := h.grp d
  let n := f.toNat + 1
  let fields := segRegs d g n
  s.vector
    { ill := h.segIll d n || fields.any (fun r => !h.opOk (BitVec.ofNat 5 r) h.reach), tile := none
      mism := fields.any (fun r => cfgTag (h.v r).cfg == 0)
      srcs := fields.map (fun r => { reg := r, grp := h.grp (BitVec.ofNat 5 r), trap := bit1 w, need := h.vl }), dsts := []
      sends := h.active k t.w, lanewise := true, w := t.w }
    (fun s =>
      let h := s.hart
      let val (f e : Nat) : Nat := (h.segField d g f).1.stored ((h.segField d g f).2 e) % 2 ^ t.w
      let (s, flt) := s.scatterSeg t.w n a val (h.active k t.w)
      match flt with
      | some (e, x) => s.elemFault t.w (h.owed k t.w) e x
      | none => s.done s.hart)

/-! ## Vector atomics -/

/-- The operations of R183. -/
inductive VAmo where
  | add | min | max | swap
  deriving DecidableEq, Repr

/-- The tags an operation takes (R183). -/
def VAmo.accepts (op : VAmo) (t : Ty) : Bool :=
  decide (32 ≤ t.w) && (op == .swap || t.isInt || t.tag == 12 || t.isFlt)

/-- The new value of a location and the flags (R183, R184). -/
def VAmo.apply (op : VAmo) (t : Ty) (mode old v : Nat) : Nat × Nat :=
  match op with
  | .add => EOp.compute .add t t t (noRsr mode) 0 old v 0
  | .min => minMax false t old v
  | .max => minMax true t old v
  | .swap => (t.stored v, 0)

/-- Whether PCIe can carry the operation to a host page (R185). BA32 is no integer type there (log entry 103). -/
def VAmo.pcie (op : VAmo) (t : Ty) : Bool := op == .swap || (op == .add && t.isInt)

/-- An atomic element's checks: read and write, and what a host page can serve (R185, R344). -/
def State.amoReach (s : State) (op : VAmo) (t : Ty) (va : BitVec 64) : Except Flt Phys :=
  let n := t.w / 8
  if !op.pcie t && s.amoToHost n va && decide (va.toNat < windowEnd) then .error ⟨cProt, 0, va⟩
  else s.accessRmw s.hart n va

/-- Performing atomic elements in ascending order up to the first fault: the state, old values, flags, and the fault
(R184). -/
def State.amoEach (s : State) (op : VAmo) (t : Ty) (addr : Nat → BitVec 64) (val : Nat → Nat) :
    List Nat → State × List (Nat × Nat) × Nat × Option (Nat × Flt)
  | [] => (s, [], 0, none)
  | e :: es =>
    match s.amoReach op t (addr e) with
    | .error f => (s, [], 0, some (e, f))
    | .ok q =>
      let s := s.drain (fun k => k == 1)
      let old := s.load s.hart 1 false q.pa (t.w / 8)
      let (new, fl) := op.apply t s.hart.rmodeN old (val e)
      let s := s.store 1 true false q.pa (natLe (t.w / 8) new)
      let (s, l, fl', flt) := s.amoEach op t addr val es
      (s, (e, old) :: l, fl ||| fl', flt)

/-- A vector atomic (R183 to R185); each element performs once, the completion map of a restart saying which have
(R263). -/
def State.vamo (s : State) (op : VAmo) (d a b : Reg) (k : BitVec 3) (x : Bool) : Res :=
  let h := s.hart
  let t := h.ty d
  let g := h.grp d
  s.vector
    { ill := !h.opOk d h.vl || !h.opOk b h.vl || (h.info.det && isFloatTag t.tag) || h.isBound d.toNat, tile := none
      mism := !op.accepts t || !isIndexTy (h.ty b)
      srcs := [{ reg := b.toNat, grp := h.grp b, trap := x, need := h.vl }, { reg := d.toNat, grp := g, trap := false, need := 0 }]
      dsts := [{ reg := d.toNat, grp := g, cfg := none, len := h.vl }], sends := h.active k t.w, lanewise := true
      w := t.w }
    (fun s =>
      let h := s.hart
      if h.vl = 0 then s.done h
      else
        let doneMap : BitVec 8192 := match h.restart with
          | some r => r.performed
          | none => 0
        let es := (h.active k t.w).filter (fun e => !doneMap.getLsbD e)
        let idx := h.elems b
        let (s, l, fl, flt) := s.amoEach op t (fun e => h.rd a + BitVec.ofNat 64 (idx e)) (h.elems d) es
        let s := (s.upd (fun h => h.raise fl)).putRaw d.toNat g t l
        match flt with
        | some (e, f) =>
          let s := s.settle e
          let h := s.hart
          let t' : Trap := { cause := f.cause, detail := f.detail, rpc := h.pc, fel := true, fidx := e, faddr := f.faddr
                             ctr := h.counters t.w (h.owed k t.w) e, performed := doneMap ||| setBits 0 (l.map (fun p => (p.1, true))) }
          (if f.cause = cUndecl then s.drainAll.endTx else s).take t'
        | none =>
          let s := s.produce (members d.toNat g) s.loadLat
          s.done s.hart)

/-- `vamo.add.sc vd, sa, vb` (R183, R184; the scope is log entry 14). -/
def execVamoAdd (d a b : Reg) (k : BitVec 3) (x : BitVec 1) (_sc : BitVec 3) (s : State) : Res :=
  s.vamo .add d a b k (bit1 x)

/-- `vamo.min.sc vd, sa, vb` (R183, R184; the scope is log entry 14). -/
def execVamoMin (d a b : Reg) (k : BitVec 3) (x : BitVec 1) (_sc : BitVec 3) (s : State) : Res :=
  s.vamo .min d a b k (bit1 x)

/-- `vamo.max.sc vd, sa, vb` (R183, R184; the scope is log entry 14). -/
def execVamoMax (d a b : Reg) (k : BitVec 3) (x : BitVec 1) (_sc : BitVec 3) (s : State) : Res :=
  s.vamo .max d a b k (bit1 x)

/-- `vamo.swap.sc vd, sa, vb` (R183, R184; the scope is log entry 14). -/
def execVamoSwap (d a b : Reg) (k : BitVec 3) (x : BitVec 1) (_sc : BitVec 3) (s : State) : Res :=
  s.vamo .swap d a b k (bit1 x)

/-! ## Accumulation windows -/

/-- The element type of a window (R187). -/
def Window.ty (x : Window) : Ty := ⟨bits x.desc.toNat 32 5, 0⟩

/-- CNT of a window (R187). -/
def Window.cnt (x : Window) : Nat := bits x.desc.toNat 0 32

/-- The types a window takes (R187). -/
def windowTag (t : Nat) : Bool := t == 3 || t == 4 || t == 7 || t == 8 || t == 15 || t == 16

/-- Partials at the identity of R117's sum: −0, or +0 when the effective mode is RDN, for floating types (R187). -/
def freshParts (t : Ty) (mode n : Nat) : List (BitVec 64) :=
  List.replicate n (BitVec.ofNat 64 (ROp.identity .sum t (noRsr mode)))

/-- `accw w, sa, sb`: opens a window (R187). -/
def execAccw (d a b : Reg) (s : State) : Res :=
  let h := s.hart
  let w := d.toNat
  let x : Window := { opened := true, base := h.rd a, desc := h.rd b, parts := [] }
  if 4 ≤ w || (h.window w).opened || !windowTag x.ty.tag || bits x.desc.toNat 37 27 != 0 || x.cnt == 0
      || decide (1024 < x.cnt) then s.illegal
  else if x.base.toNat % (x.ty.w / 8) ≠ 0 then s.faultAt ⟨cAlign, 0, x.base⟩
  else s.done (h.setWindow w { x with parts := freshParts x.ty h.rmodeN (8 * h.w * x.cnt) })

/-- One contribution to a partial (R188): the raw value and its flags. -/
def accumulate (t : Ty) (mode : Nat) (p : BitVec 64) (v : Nat) : BitVec 64 × Nat :=
  let (r, fl) := EOp.compute .add t t t (noRsr mode) 0 (p.toNat % 2 ^ t.w) v 0
  (BitVec.ofNat 64 r, fl)

/-- Contributions of active elements, lanes met in ascending element order (R188). -/
def accumulateAll (t : Ty) (mode lanes cnt : Nat) (val idx : Nat → Nat) :
    List Nat → List (BitVec 64) × Nat → List (BitVec 64) × Nat
  | [], acc => acc
  | e :: es, (ps, fl) =>
    if idx e < cnt then
      let i := e % lanes * cnt + idx e
      let (p, f) := accumulate t mode (ps.getD i 0) (val e)
      accumulateAll t mode lanes cnt val idx es (ps.set i p, fl ||| f)
    else accumulateAll t mode lanes cnt val idx es (ps, fl ||| fINVALID)

/-- `vacc w, va, vb` (R188). -/
def execVacc (d a b : Reg) (k : BitVec 3) (w x : BitVec 1) (s : State) : Res :=
  let h := s.hart
  let n := d.toNat
  let win := h.window n
  let t := h.ty a
  s.vector
    { ill := decide (4 ≤ n) || !win.opened || !h.opOk a h.vl || !h.opOk b h.vl, tile := none
      mism := t != win.ty || !isIndexTy (h.ty b)
      srcs := [{ reg := a.toNat, grp := h.grp a, trap := bit1 w, need := h.vl },
               { reg := b.toNat, grp := h.grp b, trap := bit1 x, need := h.vl }], dsts := []
      sends := h.active k t.w, lanewise := true, w := t.w }
    (fun s =>
      let h := s.hart
      let (ps, fl) := accumulateAll t h.rmodeN (8 * h.w) win.cnt (h.elems a) (h.elems b) (h.active k t.w) (win.parts, 0)
      s.done ((h.setWindow n { win with parts := ps }).raise fl))

/-- One element of a fold: every lane's partial added to the word of memory, ascending (R189). -/
def foldWord (t : Ty) (mode cnt j old : Nat) (ps : List (BitVec 64)) (lanes : Nat) : Nat × Nat :=
  (List.range lanes).foldl (fun acc l =>
    let (p, f) := accumulate t mode (BitVec.ofNat 64 acc.1) ((ps.getD (l * cnt + j) 0).toNat % 2 ^ t.w)
    (p.toNat, acc.2 ||| f)) (old, 0)

/-- The partials of element `j` back at the identity. -/
def clearParts (ps : List (BitVec 64)) (ident : BitVec 64) (cnt lanes j : Nat) : List (BitVec 64) :=
  (List.range lanes).foldl (fun ps l => ps.set (l * cnt + j) ident) ps

/-- The folds of a window, ascending, up to the first fault (R189, R210). -/
def State.folds (s : State) (w : Nat) : List Nat → State × Option (Nat × Flt)
  | [] => (s, none)
  | j :: js =>
    let h := s.hart
    let x := h.window w
    let t := x.ty
    let va := x.base + BitVec.ofNat 64 (j * (t.w / 8))
    match s.accessRmw h (t.w / 8) va with
    | .error f => (s, some (j, f))
    | .ok q =>
      let s := s.drain (fun k => k == 1)
      let old := s.load s.hart 1 false q.pa (t.w / 8)
      let (new, fl) := foldWord t h.rmodeN x.cnt j old x.parts (8 * h.w)
      let s := s.store 1 true false q.pa (natLe (t.w / 8) new)
      let ident := BitVec.ofNat 64 (ROp.identity .sum t (noRsr h.rmodeN))
      (s.upd (fun h => (h.setWindow w { x with parts := clearParts x.parts ident x.cnt (8 * h.w) j }).raise fl)).folds w js

/-- `accm` and `accx`: folding a window (R189), at VL = 0 too (log entry 76). A fault at element j leaves those below it
folded, and its index in every counter; restart resumes there (R263; log entry 107). -/
def State.foldWindow (s : State) (d : Reg) (close : Bool) : Res :=
  let h := s.hart
  let w := d.toNat
  let x := h.window w
  if 4 ≤ w || !x.opened then s.illegal
  else
    let start := match h.restart with
      | some r => r.fidx
      | none => 0
    let (s, flt) := s.folds w ((List.range x.cnt).filter (fun j => decide (start ≤ j)))
    match flt with
    | some (j, f) =>
      let h := s.hart
      let t : Trap := { cause := f.cause, detail := f.detail, rpc := h.pc, fel := true, fidx := j, faddr := f.faddr
                        ctr := List.replicate 8 (BitVec.ofNat 16 j), performed := 0 }
      (if f.cause = cUndecl then s.drainAll.endTx else s).take t
    | none => s.done (if close then s.hart.setWindow w { s.hart.window w with opened := false, parts := [] } else s.hart)

/-- `accm w` (R189). -/
def execAccm (d : Reg) (s : State) : Res := s.foldWindow d false

/-- `accx w` (R189). -/
def execAccx (d : Reg) (s : State) : Res := s.foldWindow d true

/-! ## Translating positions -/

/-- The entries of the blocks that hold active positions, up to the first fault (R191). -/
def State.lookups (s : State) (base : BitVec 64) (pos : Nat → Nat) : List Nat → List (Nat × Entry) × Option (Nat × Flt)
  | [] => ([], none)
  | e :: es =>
    match s.readEntry 1 (base + BitVec.ofNat 64 (16 * (pos e / 16))) with
    | .error f => ([], some (e, f))
    | .ok x =>
      let (l, flt) := s.lookups base pos es
      ((e, x) :: l, flt)

/-- Physical address of a token slot (R191). -/
def Entry.slot (x : Entry) (p : Nat) : Nat := x.frame * 2 ^ 18 + p % 16 * 2 ^ 14

/-- Entries up to the first one that is unmapped. -/
def mappedPrefix : List (Nat × Entry) → List (Nat × Entry)
  | [] => []
  | p :: ps => if p.2.mapped then p :: mappedPrefix ps else []

/-- Whether a restarted `vxlat.ff` had met its unmapped block before the fault: an active element that it passes over has its
bit of m0 set (R192, R263). -/
def Hart.stoppedBefore (h : Hart) (k : BitVec 3) (w : Nat) : Bool :=
  (List.range h.vl).any (fun e => h.sel k e && !h.restarts w e && (h.mask 0).getLsbD e)

/-- The first fault in sending the elements listed to the stream that a register is bound to (R178). -/
def State.boundFault (s : State) (r w : Nat) (es : List Nat) : Option (Nat × Flt) :=
  let g := s.hart.gen (genOf r)
  if s.hart.writeBound r then s.sendFault (genOf r + 2) (w / 8) g.pat g.pos es else none

/-- `vxlat` and `vxlat.ff` (R191, R192). Only elements whose block is mapped are sent to a bound vd. -/
def State.vxlate (s : State) (ff : Bool) (d a b : Reg) (k : BitVec 3) (w : Bool) : Res :=
  let h := s.hart
  let t := h.ty d
  let g := h.grp d
  s.vector
    { ill := !h.opOk d h.vl || !h.opOk a h.vl, tile := none
      mism := t.tag != 8 || !((h.ty a).tag == 7 || (h.ty a).tag == 8)
      srcs := [{ reg := a.toNat, grp := h.grp a, trap := w, need := h.vl }]
      dsts := [{ reg := d.toNat, grp := g, cfg := none, len := h.vl }], sends := [], lanewise := true, w := t.w
      act := h.active k t.w }
    (fun s =>
      let h := s.hart
      if h.vl = 0 then s.done h
      else
        let pos := h.elems a
        let (l, flt) := s.lookups (h.rd b) pos (h.active k t.w)
        let away (e : Nat) : Bool := l.any (fun p => p.1 == e && !p.2.mapped)
        let stop : Option Nat :=
          if !ff then none
          else if h.stoppedBefore k t.w then some 0
          else (l.find? (fun p => !p.2.mapped)).map (fun p => p.1)
        let use := if ff then (if stop = some 0 then [] else mappedPrefix l) else l
        let vals := (use.filter (fun p => p.2.mapped)).map (fun p => (p.1, p.2.slot (pos p.1)))
        let fault : Option (Nat × Flt) := match s.boundFault d.toNat t.w (vals.map (fun p => p.1)) with
          | some x => some x
          | none => if stop.isSome then none else flt
        let lim := min ((fault.map (fun x => x.1)).getD h.vl) (h.limit.getD h.vl)
        let m0 (e : Nat) : Bool := stop.any (fun q => decide (q ≤ e)) || away e
        let bits0 := ((List.range h.vl).filter (fun e => decide (e < lim) && (h.restarts t.w e || !h.sel k e))).map (fun e => (e, m0 e))
        let s := s.upd (fun h => h.setMask 0 (setBits (h.mask 0) bits0))
        match fault with
        | some (e, x) => (s.putElems d.toNat g t (vals.filter (fun p => decide (p.1 < e)))).elemFault t.w (h.owed k t.w) e x
        | none =>
          let s := s.landLoad d g t vals
          s.done s.hart)

/-- `vxlat vd, va, sb` (R191). -/
def execVxlat (d a b : Reg) (k : BitVec 3) (w : BitVec 1) (s : State) : Res := s.vxlate false d a b k (bit1 w)

/-- `vxlat.ff vd, va, sb` (R192). -/
def execVxlatFf (d a b : Reg) (k : BitVec 3) (w : BitVec 1) (s : State) : Res := s.vxlate true d a b k (bit1 w)

/-! ## Streams and bound registers -/

/-- Reading a record of 64 bytes in S0: alignment, then faults of its doublewords in ascending order (R344). -/
def State.readRecord (s : State) (va : BitVec 64) (n : Nat) : Except Flt Nat :=
  if va.toNat % (8 * n) ≠ 0 then .error ⟨cAlign, 0, va⟩
  else ((List.range n).mapM (fun i => s.readVa 0 8 (va + BitVec.ofNat 64 (8 * i)))).map (packNat 64)

/-- A generator with a record just loaded. -/
def Gen.loadedWith (r : Nat) (bound : Bool) : Gen :=
  { loaded := true, bound := bound, record := BitVec.ofNat 512 r, pos := 0, ahead := 0 }

/-- `sspec n, sa` (R175): n, a bound generator, alignment, faults, contents, in that order. -/
def execSspec (n a : Reg) (s : State) : Res :=
  let h := s.hart
  if n.toNat < 2 ∨ 9 < n.toNat ∨ (h.gen (n.toNat - 2)).bound then s.illegal
  else match s.readRecord (h.rd a) 8 with
    | .error f => s.faultAt f
    | .ok r => if !streamRecOk r then s.illegal else s.done (h.setGen (n.toNat - 2) (Gen.loadedWith r false))

/-- `sdrain n`: every access of stream Sn has performed (R176). -/
def execSdrain (n : Reg) (s : State) : Res :=
  if 9 < n.toNat then s.illegal
  else
    let s := s.drain (fun k => k == n.toNat)
    s.done s.hart

/-- The release of a bound register: its writes drained, the register full with zero data (R180). -/
def State.unbindReg (s : State) (r : Nat) : State :=
  if s.hart.isBound r then
    (s.drain (fun k => k == genOf r + 2)).upd (fun h =>
      let h := h.setGen (genOf r) { h.gen (genOf r) with loaded := false, bound := false, ahead := 0 }
      (h.setV r { h.v r with data := 0 }).setFull true r)
  else s

/-- `bind vd, sa` (R177): the field, the type, alignment, faults, contents, in that order; a bound register is first
unbound. The bind waits for an empty vd as any write of a register does. Its field names a register for its stream, not a group of
VL elements, so R119's checks are not made, here and in `unbind` (log entry 108). -/
def execBind (d a : Reg) (s : State) : Res :=
  let h := s.hart
  let t := h.ty d
  if d.toNat < 24 then s.illegal
  else if t.w < 8 then s.fault cType 0
  else if !h.isBound d.toNat ∧ !(h.empties [d.toNat]).isEmpty then
    s.wait .fullEmpty { Watch.none with regs := [d.toNat] }
  else match s.readRecord (h.rd a) 8 with
    | .error f => s.faultAt f
    | .ok r =>
      if !streamRecOk r then s.illegal
      else
        let s := s.unbindReg d.toNat
        s.done (s.hart.setGen (genOf d.toNat) (Gen.loadedWith r true))

/-- `unbind vd` (R180; log entry 108). -/
def execUnbind (d : Reg) (s : State) : Res :=
  if d.toNat < 24 then s.illegal
  else
    let s := s.unbindReg d.toNat
    s.done s.hart

/-! ## Waiting and testing -/

/-- `wait.z.sc sd, sb, 0(sa)` (R181): waits with cause 2 while the word equals s[b]; once any write has reached the
word, the value it then holds is delivered. Illegal in a transaction (R323). -/
def execWait (d a b : Reg) (z : BitVec 2) (_sc : BitVec 3) (s : State) : Res :=
  let h := s.hart
  let n := 2 ^ z.toNat
  let va := h.rd a
  if h.inTx then s.illegal
  else match s.access h .read n va with
    | .error f => s.faultAt f
    | .ok q =>
      let v := s.load h 0 false q.pa n
      let woken := h.watch.hit && h.watch.addr == q.pa && h.watch.len == n
      if v = (h.rd b).toNat % 2 ^ (8 * n) ∧ !woken then
        s.wait .address { Watch.none with va := va, addr := q.pa, len := n }
      else s.done { h.wr d (BitVec.ofNat 64 v) with watch := Watch.none }

/-- Whether every member of a register's group is full. -/
def Hart.allFull (h : Hart) (a : Reg) : Bool := (h.empties (members a.toNat (h.grp a))).isEmpty

/-- `vfull` and `vempty` (R182) on an operand that passes R119: in a deterministic region they wait until every member
is full. -/
def State.testFull (s : State) (d a : Reg) (wantFull : Bool) : Res :=
  let h := s.hart
  if !h.opOk a h.vl then s.illegal
  else if h.info.det then
    let h := h.landAll
    s.done (h.wr d (if wantFull then 1 else 0))
  else s.done (h.wr d (if h.allFull a == wantFull then 1 else 0))

/-- `vfull sd, va` (R182). -/
def execVfull (d a : Reg) (s : State) : Res := s.testFull d a true

/-- `vempty sd, va` (R182). -/
def execVempty (d a : Reg) (s : State) : Res := s.testFull d a false

end Sys2Proof.Machine
end

