-- ==== Sys2Proof/Machine/VThread.lean ====
section
/-! DEFINITION. The vector-thread instructions, major 0x1E (R232 to R240). The turns of lanes, which run the blocks, are
in Turn.lean. -/

namespace Sys2Proof.Machine

/-- Lane `e` of the open section changed. -/
def Hart.modLane (h : Hart) (e : Nat) (f : Lane → Lane) : Hart :=
  { h with sect := h.sect.map (fun q => { q with lanes := q.lanes.map (fun l => if l.idx = e then f l else l) }) }

/-- Lane `e` of the open section. -/
def Hart.laneOf (h : Hart) (e : Nat) : Option Lane := h.sect.bind (fun q => q.lanes.find? (fun l => l.idx == e))

/-- A lane as `vfetch` starts it at an address (R234). -/
def Lane.fresh (e : Nat) (pc : BitVec 64) (inbox : List (BitVec 64)) : Lane :=
  { idx := e, pc := pc, st := .running, words := 0, inbox := inbox, held := [], rounds := 0, cause := 0, detail := 0
    fel := false, faddr := 0 }

/-- The lanes of a section in ascending order; the seed is queued to the lowest one (R237). -/
def startLanes (pc seed : BitVec 64) : List Nat → List Lane
  | [] => []
  | e :: es => Lane.fresh e pc [seed] :: es.map (fun x => Lane.fresh x pc [])

/-- `vfetch sa, sb[, mk]`: opens a section whose lanes are the active elements; with no lane the seed goes to the tail
(R232, R234, R237). -/
def execVfetch (a b : Reg) (k : BitVec 3) (s : State) : Res :=
  let h := s.hart
  let pc := h.rd a
  if h.sect.isSome || h.lane.isSome then s.illegal
  else if pc.toNat % 4 ≠ 0 then s.faultAt ⟨cAlign, 0, pc⟩
  else
    let es := (List.range h.vl).filter (fun e => h.sel k e)
    let q : Section :=
      { lanes := startLanes pc (h.rd b) es, tail := if es.isEmpty then some (h.rd b) else none, sregs := h.sregs
        vl := h.vl, rmode := h.rmode, rotn := h.rotn, seed := h.seed }
    s.done { h with sect := some q }

/-- `lfetch va[, mk]`: ends the lane's block; an active lane goes on at va[e], another stops (R238). Outside a block it
is an illegal instruction (log entry 22). -/
def execLfetch (a : Reg) (k : BitVec 3) (_w : BitVec 1) (s : State) : Res :=
  match s.hart.lane with
  | none => s.illegal
  | some e =>
    let h := s.hart
    s.vector
      { ill := !h.opOk a h.reach, tile := none, mism := (h.ty a).tag != 8
        srcs := [{ reg := a.toNat, grp := h.grp a, trap := false, need := h.vl }], dsts := [], sends := []
        lanewise := true }
      (fun s =>
        let h := s.hart
        if h.sel k e then
          let t := BitVec.ofNat 64 (h.elems a e)
          if t.toNat % 4 ≠ 0 then s.faultAt ⟨cAlign, 0, t⟩
          else .next (s.setHart { h.modLane e (fun l => { l with words := 0 }) with pc := t })
        else s.done (h.modLane e (fun l => { l with st := .stopped, words := 0 })))

/-- `lstop`: ends the block and stops the lane (R238); illegal outside a block (log entry 22). -/
def execLstop (s : State) : Res :=
  match s.hart.lane with
  | none => s.illegal
  | some e => s.done (s.hart.modLane e (fun l => { l with st := .stopped, words := 0 }))

/-- A lane's held stores performing in program order in S1 (R209): the state, and those from the first fault upward with
it. -/
def State.commitStores (s : State) : List LaneStore → State × List LaneStore × Option Flt
  | [] => (s, [], none)
  | w :: ws =>
    match s.writeVa 1 w.size w.va w.value.toNat with
    | .error f => (s, w :: ws, some f)
    | .ok s' => s'.commitStores ws

/-- The lanes' held stores performing, lane by lane in ascending order, up to the first fault with its lane (R209). -/
def State.commitLanes (s : State) : List Lane → State × Option (Nat × Flt)
  | [] => (s, none)
  | l :: ls =>
    let (s', left, flt) := s.commitStores l.held
    let s' := s'.upd (fun h => h.modLane l.idx (fun x => { x with held := left }))
    match flt with
    | some f => (s', some (l.idx, f))
    | none => s'.commitLanes ls

/-- `vjoin sd`: stalls until every lane has stopped; then the held writes perform, every register is full and s[d] receives the
tail's value, or 0 (R236, R239). A fault during commit leaves the writes before it performed and the rest held. -/
def execVjoin (d : Reg) (s : State) : Res :=
  match s.hart.sect with
  | none => s.illegal
  | some q =>
    if s.hart.lane.isSome then s.illegal
    else if q.busy then .next s
    else
      match s.commitLanes q.lanes with
      | (s, some (e, f)) =>
        let t : Trap := { Trap.atWord s.hart f.cause f.detail with fel := true, fidx := e, faddr := f.faddr }
        if f.cause = cUndecl then (s.drainAll.endTx).take t else s.take t
      | (s, none) =>
        let s := s.drain (fun k => k == 1)
        let h := { s.hart.landAll with sect := none }
        s.done (h.wr d (q.tail.getD 0))

end Sys2Proof.Machine
end

