-- ==== Sys2Proof/Machine/Engine.lean ====
section
/-! DEFINITION. Lane partition (R20, R21, R241), compaction instructions (R242 to R244), loop replay (R245 to R247),
engine jobs (R205 to R208, R248 to R251) and the code table's swap (R252). -/

namespace Sys2Proof.Machine

/-! ## Lane partition -/

/-- Whether two contexts of a core are held by harts of one launch, none with RWID above 4 where `narrow` (R21, R241). -/
def State.partHarts (s : State) (core a b : Nat) (narrow : Bool) : Bool :=
  match s.hartAt core a, s.hartAt core b with
  | some x, some y => decide (x.id.seq = y.id.seq) && !(narrow && (decide (4 < x.info.rwid) || decide (4 < y.info.rwid)))
  | _, _ => false

/-- `lpart sa`: writes LPART; a change takes effect at each named hart's next head (R21, R241). A write that changes EN,
HA or HB needs two contexts of one launch. -/
def execLpart (a : Reg) (s : State) : Res :=
  let h := s.hart
  let v := h.rd a
  let old := s.lpart h.core
  let tooWide (c : Nat) : Bool := match s.hartAt h.core c with
    | some x => decide (4 < x.info.rwid)
    | none => false
  if bits v.toNat 12 52 ≠ 0 ∨ bits v.toNat 1 5 ≠ 0 then s.illegal
  else if partEn v && h.info.det && (tooWide (partHA v) || tooWide (partHB v)) then s.illegal
  else if v = old then s.done h
  else if partHA v = partHB v ∨ !s.partHarts h.core (partHA v) (partHB v) (partEn v && h.info.det) then s.illegal
  else
    let named (x : Hart) : Bool := x.onCore && x.core == h.core
      && (x.ctx == partHA v || x.ctx == partHB v || (partEn old && (x.ctx == partHA old || x.ctx == partHB old)))
    let s := { (s.mapHarts (fun x => if named x then { x with partDue := true } else x)) with
      lparts := assign s.lparts h.core v }
    s.done s.hart

/-! ## Compaction -/

/-- The elements a source register gives: those of its stream when it is bound, else the register's. -/
def State.peek (s : State) (r : Reg) (need : Nat) : Nat → Nat :=
  if s.hart.readBound r.toNat then
    let l := (s.takeReg r.toNat need).raws
    fun e => l.getD e 0
  else s.hart.elems r

/-- N16, N32 or N64 (R243, R244). -/
def isWideIndex (t : Ty) : Bool := 6 ≤ t.tag && t.tag ≤ 8

/-- `cmpt vd, va, vb[, mk]`: active elements of va packed into vd, their places into vb (R243). -/
def execCmpt (d a b : Reg) (k : BitVec 3) (s : State) : Res :=
  let h := s.hart
  let ca := (h.v a.toNat).cfg
  let t := cfgTy ca
  let g := cfgGrp ca
  let tb := h.ty b
  let gb := h.grp b
  s.vector
    { ill := !h.opOk a h.vl || !h.resOk d t g h.vl || !h.opOk b h.vl, tile := none
      mism := t.cls == .untagged || !isWideIndex tb
      srcs := [{ reg := a.toNat, grp := g, trap := false, need := h.vl }]
      dsts := [{ reg := d.toNat, grp := g, cfg := some (t, g), len := h.vl },
               { reg := b.toNat, grp := gb, cfg := none, len := h.vl }]
      sends := (List.range (h.everyActive k).length).filter (fun e => h.left t.w e), lanewise := false, sendwise := true
      w := t.w }
    (fun s =>
      let h := s.hart
      let ra := h.elems a
      let ps := (places (h.everyActive k)).filter (fun p => h.left t.w p.2)
      let s := s.putResults d g t (some (mkCfg t g)) (ps.map (fun p => (p.2, ra p.1, 0)))
      let s := if h.vl = 0 then s else s.putElems b.toNat gb tb (ps.map (fun p => (p.2, p.1)))
      s.done s.hart)

/-- `scat vd, va, vb[, mk]`: the first K elements of va put at the places vb names; the last of equals stands (R244). -/
def execScat (d a b : Reg) (k : BitVec 3) (s : State) : Res :=
  let h := s.hart
  let ca := (h.v a.toNat).cfg
  let t := cfgTy ca
  let g := cfgGrp ca
  let count (h : Hart) : Nat := (h.everyActive k).length
  let spots (h : Hart) (rb : Nat → Nat) : List (Nat × Nat) :=
    ((List.range (count h)).map (fun i => (rb i, i))).filter (fun p => decide (p.1 < h.vl))
  s.vector
    { ill := !h.opOk a h.vl || !h.resOk d t g h.vl || !h.opOk b h.vl, tile := none
      mism := t.cls == .untagged || !isWideIndex (h.ty b)
      srcs := [{ reg := a.toNat, grp := g, trap := false, need := h.vl },
               { reg := b.toNat, grp := h.grp b, trap := false, need := h.vl }]
      dsts := [{ reg := d.toNat, grp := g, cfg := some (t, g), len := h.vl }]
      sends := (let l := (spots h (s.peek b h.vl)).map (fun p => p.1)
                (List.range h.vl).filter (fun e => l.contains e && h.left t.w e))
      lanewise := false, sendwise := true, w := t.w }
    (fun s =>
      let h := s.hart
      let ra := h.elems a
      let s := s.putResults d g t (some (mkCfg t g))
        (((spots h (h.elems b)).filter (fun p => h.left t.w p.1)).map (fun p => (p.1, ra p.2, 0)))
      s.done s.hart)

/-! ## Loop replay -/

/-- Whether a body may hold a word (R246). -/
def replayable (w : Nat) : Bool :=
  let m := w / 2 ^ 26
  match decodeWord w 0 with
  | .illegalInstruction _ | .undefinedOpcode _ | .mpop _ _ | .mfirst _ _ | .vcomp _ _ _ _ _ | .accw _ _ _ | .accm _
  | .accx _ | .tattach _ | .tdetach | .lpart _ => false
  | _ => (0x11 ≤ m && m ≤ 0x1B) || m == 0x20 || m == 0x21 || m == 0x22

/-- The next iteration of a nest, dimension 0 innermost; none after the last (R246). -/
def nextIndex : List Nat → List Nat → Option (List Nat)
  | c :: cs, i :: is =>
    if i + 1 < c then some ((i + 1) :: is) else (nextIndex cs is).map (fun t => 0 :: t)
  | _, _ => none

/-- An iteration with no word before the tail starts where the tail issues: at the last index of dimension 0. -/
def Replay.enter (r : Replay) (idx : List Nat) : Replay :=
  { r with bodyIndex := 0, index := if r.tailAt = 0 then idx.set 0 (r.counts.getD 0 1 - 1) else idx }

/-- The next word to issue at or after the body index; none when the nest has ended (R246). -/
def Replay.settle (r : Replay) : Option Replay :=
  let last := r.index.getD 0 0 + 1 == r.counts.getD 0 1
  if r.bodyIndex < r.body.length ∧ (r.bodyIndex < r.tailAt ∨ last = true) then some r
  else (nextIndex r.counts r.index).map (fun idx => r.enter idx)

/-- The loop record of R245 from its eight doublewords: BODY, TAIL, BLEN and the counts in use; none for a reserved or
out-of-range value. -/
def parseLoop (r : Nat) : Option (Nat × Nat × Nat × List Nat) :=
  let d1 := dw r 1
  let blen := bits d1 0 5
  let ndim := bits d1 8 3
  let tail := bits d1 16 5
  let cnt := (List.range 6).map (fun k => bits (dw r (2 + k / 2)) (32 * (k % 2)) 32)
  let ok := bits (dw r 0) 56 8 == 0 && bits (dw r 0) 0 2 == 0 && bits d1 21 43 == 0 && bits d1 11 5 == 0
    && bits d1 5 3 == 0 && decide (ndim ≤ 5) && decide (1 ≤ blen) && decide (blen ≤ 16) && decide (tail ≤ blen)
    && (List.range 6).all (fun k => if k ≤ ndim then cnt.getD k 0 != 0 else cnt.getD k 0 == 0)
    && dw r 5 == 0 && dw r 6 == 0 && dw r 7 == 0
  if ok then some (bits (dw r 0) 0 56, tail, blen, cnt.take (ndim + 1)) else none

/-- The words of a body, fetched in ascending order. -/
def State.fetchBody (s : State) (h : Hart) (va : Nat) : Nat → Except Flt (List Nat)
  | 0 => .ok []
  | n + 1 =>
    match s.access h .fetch 4 (BitVec.ofNat 64 va) with
    | .error f => .error f
    | .ok p =>
      match s.fetchBody h (va + 4) n with
      | .error f => .error f
      | .ok ws => .ok (memRead s.mem p.pa 4 :: ws)

/-- `eloop sa`: reads the record in S0, loads the body and opens its replay (R245, R246); the replayed words issue in the
hart's later turns, and the pc passes the `eloop` after the last one. Illegal in a transaction (R323). -/
def execEloop (a : Reg) (s : State) : Res :=
  let h := s.hart
  if h.inTx then s.illegal
  else match s.readRecord (h.rd a) 8 with
    | .error f => s.faultAt f
    | .ok r =>
      match parseLoop r with
      | none => s.illegal
      | some (body, tail, blen, cnt) =>
        match s.fetchBody h body blen with
        | .error f => s.faultAt f
        | .ok ws =>
          if !ws.all replayable then s.illegal
          else
            let p : Replay :=
              { word := h.ir, body := ws.map (BitVec.ofNat 32), tailAt := tail, counts := cnt, index := cnt.map (fun _ => 0)
                bodyIndex := 0 }
            .next (s.upd (fun h => { h with replay := some (p.enter p.index) }))

/-! ## Job cards -/

/-- A place a job reaches: 0 memory, 1 a scratchpad, 3 a code table, with its core (R248). -/
def resolveSpace (core d : Nat) : Nat × Nat :=
  let sp := bits d 62 2
  let cc := core / 4 * 4 + bits d 60 2
  if sp = 0 then (0, 0) else if sp = 1 then (1, core) else if sp = 2 then (1, cc) else (3, cc)

/-- A declared region: its place, base and length. -/
structure Region where
  space : Nat × Nat
  base : Nat
  len : Nat
  deriving DecidableEq, Repr

/-- Region `k` of a card: 0 to 3 read, 4 to 7 write. -/
def cardRegion (core card k : Nat) : Region :=
  { space := resolveSpace core (dw card (3 + 2 * k)), base := bits (dw card (3 + 2 * k)) 0 56
    len := bits (dw card (4 + 2 * k)) 0 48 }

/-- Regions in use. -/
def readRegions (core card : Nat) : List Region := (List.range (bits (dw card 0) 56 3)).map (cardRegion core card)
def writeRegions (core card : Nat) : List Region :=
  (List.range (bits (dw card 0) 52 3)).map (fun k => cardRegion core card (4 + k))

/-- The card holds no reserved or out-of-range value for the kind submitted (R248, R249). -/
def cardOk (kind card : Nat) : Bool :=
  let d := dw card
  let nrd := bits (d 0) 56 3
  let nwr := bits (d 0) 52 3
  let inUse (k : Nat) : Bool := if k < 4 then decide (k < nrd) else decide (k - 4 < nwr)
  bits (d 0) 60 4 == kind && bits (d 0) 59 1 == 0 && bits (d 0) 55 1 == 0 && bits (d 0) 51 1 == 0
    && bits (d 0) 0 48 == 0 && decide (nrd ≤ 4) && decide (nwr ≤ 4) && decide (bits (d 0) 48 3 ≤ 5)
    && bits (d 1) 56 8 == 0 && d 2 != 2 ^ 64 - 1
    && (List.range 8).all (fun k =>
        if inUse k then bits (d (3 + 2 * k)) 56 4 == 0 && bits (d (4 + 2 * k)) 48 16 == 0
          && (decide (4 ≤ k) || bits (d (3 + 2 * k)) 62 2 != 3)
        else d (3 + 2 * k) == 0 && d (4 + 2 * k) == 0)
    && (if kind = 0 then
          let ndim := bits (d 21) 0 4
          bits (d 19) 56 4 == 0 && bits (d 19) 62 2 != 3 && bits (d 20) 56 4 == 0 && bits (d 21) 10 54 == 0
            && bits (d 21) 4 4 == 0 && decide (ndim ≤ 13)
            && (List.range 14).all (fun k =>
                if k ≤ ndim then bits (d (23 + 2 * k)) 32 32 == 0 && bits (d (23 + 2 * k)) 0 32 != 0
                else d (22 + 2 * k) == 0 && d (23 + 2 * k) == 0)
            && (List.range 14).all (fun k => d (50 + k) == 0)
        else (List.range 45).all (fun k => d (19 + k) == 0))

/-- A card of 512 bytes read whole in S0 (R249). -/
def State.readCard (s : State) (va : BitVec 64) : Except Flt Nat := s.readRecord va 64

/-- Jobs of a core that are outstanding. -/
def State.outstanding (s : State) (core : Nat) : List Job := s.jobs.filter (fun j => j.core == core && !j.done)

/-- `ecpy` and `efoot`: the card at s[a] is submitted to the core's task scheduler (R249); the S0 and S1 writes before it
perform first (R206). The front end stalls while 64 jobs are outstanding; illegal in a transaction (R323). -/
def State.submitJob (s : State) (kind : Nat) (a : Reg) : Res :=
  let h := s.hart
  if h.inTx then s.illegal
  else if 64 ≤ (s.outstanding h.core).length then .next s
  else match s.readCard (h.rd a) with
    | .error f => s.faultAt f
    | .ok c =>
      if !cardOk kind c then s.illegal
      else
        let s := s.drain (fun k => decide (k ≤ 1))
        let j : Job := { id := s.nextJob, core := h.core, who := h.id, asid := h.info.asid, fdom := h.info.fdom
                         card := BitVec.ofNat 4096 c, payloadDone := false, failed := false, done := false }
        { s with jobs := s.jobs ++ [j], nextJob := s.nextJob + 1 }.done s.hart

/-- `ecpy sa` (R249). -/
def execEcpy (a : Reg) (s : State) : Res := s.submitJob 0 a

/-- `efoot sa` (R249). -/
def execEfoot (a : Reg) (s : State) : Res := s.submitJob 1 a

/-! ## Running jobs -/

/-- Kind of a job: 0 copy, 1 footprint. -/
def Job.kind (j : Job) : Nat := bits (dw j.card.toNat 0) 60 4

/-- Whether two regions share a byte, or name one code table, whose shadow bank they share whole (R207, R252). Bases are virtual
addresses and are compared as such, whatever address spaces the jobs have (log entry 96). -/
def Region.meets (a b : Region) : Bool :=
  a.space == b.space && a.len != 0 && b.len != 0 && (a.space.1 == 3 || overlaps a.base a.len b.base b.len)

/-- Whether two jobs conflict: a write region of one overlaps any region of the other (R207). -/
def Job.conflicts (a b : Job) : Bool :=
  let ra := readRegions a.core a.card.toNat
  let wa := writeRegions a.core a.card.toNat
  let rb := readRegions b.core b.card.toNat
  let wb := writeRegions b.core b.card.toNat
  wa.any (fun x => (rb ++ wb).any (fun y => x.meets y)) || wb.any (fun x => ra.any (fun y => x.meets y))

/-- Whether every earlier conflicting job of the core has completed (R207, R251). -/
def State.jobReady (s : State) (j : Job) : Bool :=
  s.jobs.all (fun x => x.core != j.core || decide (j.id ≤ x.id) || x.done || !x.conflicts j)

/-- A job changed. -/
def State.setJob (s : State) (id : Nat) (f : Job → Job) : State :=
  { s with jobs := s.jobs.map (fun x => if x.id = id then f x else x) }

/-- An event of a job's issuer (R205, R208). -/
def State.postJob (s : State) (j : Job) (f : Flt) : State :=
  let tb := match s.harts.find? (fun h => decide (h.id = j.who)) with
    | some h => h.trapbase
    | none => 0
  s.post { fdom := j.fdom, cause := f.cause, detail := f.detail, rcb := j.who.rcb.setWidth 64, hidx := j.who.hidx
           trapbase := tb, time := BitVec.ofNat 64 s.ns, frame := 0 }

/-- The checks of an engine's access of `n` bytes in memory: no transaction bounds an engine. -/
def State.engineAccess (s : State) (asid : BitVec 16) (acc : Acc) (n : Nat) (va : BitVec 64) : Except Flt Phys :=
  s.access { Hart.absent with info := { LaunchInfo.none with asid := asid } } acc n va

/-- The completion doubleword of a job written; a fault of that write is posted to the issuer's domain (R208). -/
def State.completeJob (s : State) (j : Job) (v : Nat) : State :=
  let s := s.setJob j.id (fun x => { x with done := true })
  let ca := bits (dw j.card.toNat 1) 0 56
  if ca = 0 then s
  else match s.engineAccess j.asid .write 8 (BitVec.ofNat 64 ca) with
    | .ok p => s.commitMem p.pa (natLe 8 v)
    | .error f => s.postJob j f

/-- A job stops at a fault: posted, and the completion word receives all ones (R205, R208). -/
def State.failJob (s : State) (j : Job) (f : Flt) : State :=
  let s := (s.postJob j f).setJob j.id (fun x => { x with failed := true })
  s.completeJob j (2 ^ 64 - 1)

/-- Whether an element lies inside a region of a list. -/
def inRegions (l : List Region) (sp : Nat × Nat) (addr n : Nat) : Bool :=
  l.any (fun r => r.space == sp && decide (r.base ≤ addr) && decide (addr + n ≤ r.base + r.len))

/-- Byte `o` of a bank of entries. -/
def bankByte (b : Vector (BitVec 32) 16) (o : Nat) : Byte := (b.toList.getD (o / 4) 0).extractLsb' (8 * (o % 4)) 8

/-- A bank with a byte replaced. -/
def bankPut (b : Vector (BitVec 32) 16) (o : Nat) (v : Byte) : Vector (BitVec 32) 16 :=
  b.mapIdx (fun i x => if i = o / 4 then
    let sh := 8 * (o % 4)
    (x &&& ~~~(0xFF#32 <<< sh)) ||| (v.setWidth 32 <<< sh) else x)

/-- Bytes stored into a core's shadow bank from byte `o` upward (R252). -/
def State.putShadow (s : State) (core o : Nat) (bs : List Byte) : State :=
  let c := s.codeTab core
  let c' : CodeTable := { c with shadow := (bs.zipIdx).foldl (fun b p => bankPut b (o + p.2) p.1) c.shadow }
  { s with codeTabs := assign s.codeTabs core c' }

/-- An element's address in its place: alignment, then the declared regions, then the place's own bounds (R250, R252). -/
def jobReach (l : List Region) (sp : Nat × Nat) (addr : Int) (n : Nat) : Except Flt Nat :=
  let va := BitVec.ofInt 64 addr
  let a := va.toNat
  if a % n ≠ 0 then .error ⟨cAlign, 0, va⟩
  else if !inRegions l sp a n then .error ⟨cProt, 0, va⟩
  else if sp.1 = 1 ∧ padBytes < a + n then .error ⟨cProt, 0, va⟩
  else if sp.1 = 3 ∧ 64 < a + n then .error ⟨cProt, 0, va⟩
  else .ok a

/-- One element's bytes read by a job. -/
def State.jobRead (s : State) (j : Job) (sp : Nat × Nat) (addr : Int) (n : Nat) : Except Flt (List Byte) :=
  match jobReach (readRegions j.core j.card.toNat) sp addr n with
  | .error f => .error f
  | .ok a =>
    if sp.1 = 1 then
      let b := sp.2 * padBytes + a
      if (List.range n).any (fun i => s.padPoison.contains (b + i)) then .error ⟨cMachine, 0, BitVec.ofInt 64 addr⟩
      else .ok (memBytes s.pads b n)
    else (s.engineAccess j.asid .read n (BitVec.ofNat 64 a)).map (fun p => memBytes s.mem p.pa n)

/-- One element's bytes written by a job. A store to a KV frame meets copy-on-write (R299). -/
def State.jobWrite (s : State) (j : Job) (sp : Nat × Nat) (addr : Int) (bs : List Byte) : Except Flt State :=
  match jobReach (writeRegions j.core j.card.toNat) sp addr bs.length with
  | .error f => .error f
  | .ok a =>
    if sp.1 = 1 then .ok (s.commitPad (sp.2 * padBytes + a) bs)
    else if sp.1 = 3 then .ok (s.putShadow sp.2 a bs)
    else (s.engineAccess j.asid .write bs.length (BitVec.ofNat 64 a)).map (fun p => s.commitMem p.pa bs)

/-- The elements of a copy from number `i` upward, in nest order, up to the first fault, with its number (R250). -/
def State.copyFrom (s : State) (j : Job) (n : Nat) (src dst : Nat × Nat) (sb db : Nat) (cnt : List Nat)
    (ss ds : List Int) : Nat → Nat → State × Option (Nat × Flt)
  | 0, _ => (s, none)
  | m + 1, i =>
    let idx := nestIndex cnt i
    match s.jobRead j src (sb + strideSum (fun _ => true) idx ss) n with
    | .error f => (s, some (i, f))
    | .ok bs =>
      match s.jobWrite j dst (db + strideSum (fun _ => true) idx ds) bs with
      | .error f => (s, some (i, f))
      | .ok s' => s'.copyFrom j n src dst sb db cnt ss ds m (i + 1)

/-- The payload of a copy job (R250). -/
def State.runCopy (s : State) (j : Job) : State × Option (Nat × Flt) :=
  let d := dw j.card.toNat
  let dims := List.range (bits (d 21) 0 4 + 1)
  let cnt := dims.map (fun k => bits (d (23 + 2 * k)) 0 32)
  s.copyFrom j (2 ^ bits (d 21) 8 2) (resolveSpace j.core (d 19)) (resolveSpace j.core (d 20)) (bits (d 19) 0 56)
    (bits (d 20) 0 56) cnt (dims.map (fun k => toSigned 32 (bits (d (22 + 2 * k)) 32 32)))
    (dims.map (fun k => toSigned 32 (bits (d (22 + 2 * k)) 0 32))) (cnt.foldl (· * ·) 1) 0

/-- The cores whose shadow bank a copy job writes (R252). -/
def Job.tables (j : Job) : List Nat :=
  let t := resolveSpace j.core (dw j.card.toNat 20)
  ((t :: (writeRegions j.core j.card.toNat).map (fun r => r.space)).filter (fun x => x.1 == 3)).map (fun x => x.2)

/-- A swap becomes pending on a core (R252). -/
def State.pendSwap (s : State) (core : Nat) : State :=
  { s with codeTabs := assign s.codeTabs core { s.codeTab core with swapPending := true } }

/-- The bytes an engine moved charged to the issuer while it holds a context: ENG for each whole 64 bytes (R268, R269; log entry
46). -/
def State.chargeJob (s : State) (j : Job) (bytes : Nat) : State :=
  let e := bits s.ewt.toNat 40 8 * (bytes / 64)
  s.mapHarts (fun h => if h.id = j.who ∧ h.onCore then h.spend e else h)

/-- COPY_JOB: a copy engine runs a job none of whose earlier conflicting jobs is under way, and writes its completion
word, which waits for the swap when the job wrote a code table (R207, R208, R250, R252). -/
def execCopyJob (job : BitVec 64) (s : State) : Res :=
  match s.jobs.find? (fun j => j.id == job.toNat && !j.done && !j.payloadDone && j.kind == 0) with
  | none => .next s
  | some j =>
    if !s.jobReady j then .next s
    else
      let d := dw j.card.toNat
      let size := 2 ^ bits (d 21) 8 2
      let moved := (List.range (bits (d 21) 0 4 + 1)).foldl (fun n k => n * bits (d (23 + 2 * k)) 0 32) size
      match s.runCopy j with
      | (s, some (i, f)) => .next ((s.chargeJob j (size * i)).failJob j f)
      | (s, none) =>
        let s := (s.setJob j.id (fun x => { x with payloadDone := true })).chargeJob j moved
        if j.tables.isEmpty then .next (s.completeJob j (d 2)) else .next (j.tables.foldl (fun s c => s.pendSwap c) s)

/-- FOOTPRINT_COMPLETE: a footprint job completes once every earlier conflicting job has (R251). -/
def execFootprintComplete (job : BitVec 64) (s : State) : Res :=
  match s.jobs.find? (fun j => j.id == job.toNat && !j.done && j.kind == 1) with
  | none => .next s
  | some j => if s.jobReady j then .next (s.completeJob j (dw j.card.toNat 2)) else .next s

/-- The copy jobs whose payload is done and whose tables have all swapped complete (R252). -/
def State.finishTables (s : State) : List Job → State
  | [] => s
  | j :: js =>
    (if j.payloadDone && !j.done && j.tables.all (fun c => !(s.codeTab c).swapPending) then
      s.completeJob j (dw j.card.toNat 2) else s).finishTables js

/-- Whether the vector word at a hart's PC, or one of the `n` after it, captures CTGEN; the words are looked for up to a
distance. -/
def State.captures (s : State) : Nat → Hart → Nat → Bool
  | 0, _, _ => false
  | fuel + 1, h, n =>
    match s.wordAt h with
    | none => false
    | some w =>
      if scalarMajor (BitVec.ofNat 32 w) then s.captures fuel (h.advance 4) n
      else h.usesCode (decodeWord w 0) || (match n with
        | 0 => false
        | n + 1 => s.captures fuel (h.advance 4) n)

/-- Whether a hart has begun an instruction that captured the current CTGEN and has yet to complete it: part of it is done, as
its restart or the record of its fault says, and it goes on where it stopped (R252, R262, R263; log entry 106). -/
def State.midCode (s : State) (h : Hart) : Bool :=
  let mid (h : Hart) (ctr : List (BitVec 16)) (skip : List Nat) : Bool := partDone ctr skip && s.captures 64 h (skip.foldl max 0)
  decide (h.st ≠ .retired)
    && (h.restart.any (fun r => mid h r.ctr r.skip)
      || h.save.any (fun r => r.vec && r.rpc == r.pc && mid { h with pc := r.pc } r.ctr r.skip))

/-- CODE_TABLE_SWAP: once no hart of the core has an instruction under way that captured CTGEN, the shadow bank becomes live,
CTGEN advances by 1 and the new shadow bank copies the new live one (R252). -/
def execCodeTableSwap (core : BitVec 7) (s : State) : Res :=
  let c := s.codeTab core.toNat
  if !c.swapPending || s.harts.any (fun h => h.core == core.toNat && s.midCode h) then .next s
  else
    let c' : CodeTable := { live := c.shadow, shadow := c.shadow, gen := c.gen + 1, swapPending := false }
    let s := { s with codeTabs := assign s.codeTabs core.toNat c' }
    .next (s.finishTables s.jobs)

end Sys2Proof.Machine
end

