-- ==== Sys2Proof/Machine/Kv.lean ====
section
/-! DEFINITION. The instructions on block tables and page counts, major 0x24 (R272 to R282), the block-table rules they
rest on (R296 to R301), and the freeing of a frame (R301, R336). -/

namespace Sys2Proof.Machine

/-! ## Entries -/

/-- Entry `j` of a table. -/
def entryVa (table : BitVec 64) (j : Nat) : BitVec 64 := table + BitVec.ofNat 64 (16 * j)

/-- An entry as an instruction of major 0x24 reads it in S0: one with a nonzero reserved bit is a protection fault
(R273, R296). -/
def State.tableEntry (s : State) (va : BitVec 64) : Except Flt Entry :=
  match s.readEntry 0 va with
  | .error f => .error f
  | .ok e => if e.reservedOk then .ok e else .error ⟨cProt, 0, va⟩

/-- Bytes of an entry. -/
def Entry.bytes (e : Entry) : List Byte := natLe 8 e.d0 ++ natLe 8 e.d1

/-- Where an entry is written, its 16 bytes as one access (R273). -/
def State.entryPlace (s : State) (va : BitVec 64) : Except Flt Phys := s.access s.hart .write 16 va

/-- An entry written, performing at once (R273). -/
def State.putEntry (s : State) (p : Phys) (e : Entry) : State := s.store 0 true false p.pa e.bytes

/-- Whether the hart may raise or lower a frame's count; `raise` also refuses a count at its top (R274, R275, R297). -/
def State.countable (s : State) (frame : Nat) (raise : Bool) : Bool :=
  s.count frame != 0 && !(raise && s.count frame == 0xFFFF) && decide (ownerOf (s.leaf frame) = s.hart.info.asid)

/-- A frame's count changed, indivisibly (R298). -/
def State.setCount (s : State) (frame c : Nat) : State := s.setLeaf frame (leafWithCount (s.leaf frame) c)

/-! ## Freeing a frame -/

/-- The frame number appended to the free ring of an ASID, or none when there is no ring or it is full (R336). TAIL and
HEAD are running counts and a ring of 2^k entries is full at 2^k (log entry 29). -/
def State.pushFree (s : State) (asid : BitVec 16) (frame : Nat) : Option State :=
  match s.asids.find? (fun a => decide (a.asid = asid) && a.ring != 0) with
  | none => none
  | some a =>
    let base := a.ring.toNat
    let tail := memRead s.mem base 8
    let head := memRead s.mem (base + 8) 8
    if 2 ^ a.log2 ≤ (tail + 2 ^ 64 - head) % 2 ^ 64 then none
    else
      let s := s.writeDevice (base + 64 + 8 * (tail % 2 ^ a.log2)) frame
      some (s.writeDevice base ((tail + 1) % 2 ^ 64))

/-- Every load under way of every hart performs (R213). -/
def State.drainReaders (s : State) : State :=
  ((s.harts.filter (fun h => !h.late.isEmpty)).map (fun h => h.id)).foldl (fun s id => s.onHart id State.settleLoads) s

/-- A frame whose count reached 0 is freed: its leaf entry becomes invalid, no older one is in force any more, reads under way
complete from its old contents, and the frame goes to the owning ASID's free ring, or to domain 0 as an event (R212, R213,
R301, R336). -/
def State.freeFrame (s : State) (frame : Nat) : State :=
  let e := s.leaf frame
  let s := { s.setLeaf frame (e &&& ~~~1#64) with kvOld := s.kvOld.filter (fun p => p.1 != frame) }.drainReaders
  match s.pushFree (ownerOf e) frame with
  | some s => s
  | none => s.post { fdom := 0, cause := 0xF1, detail := 0, rcb := s.hart.id.rcb.setWidth 64, hidx := s.hart.id.hidx
                     trapbase := 0, time := BitVec.ofNat 64 s.ns, frame := BitVec.ofNat 34 frame }

/-! ## Progress over entries -/

/-- The entry at which a restarted instruction resumes (R273). -/
def Hart.resumeAt (h : Hart) : Nat :=
  match h.restart with
  | some r => r.fidx
  | none => 0

/-- What a restarted instruction had counted when it faulted (R275). -/
def Hart.resumeCount (h : Hart) : Nat :=
  match h.restart with
  | some r => r.count
  | none => 0

/-- A fault on entry `j`: recorded with FEL = 1, the entries below it complete (R273). -/
def State.entryFault (s : State) (j count : Nat) (f : Flt) : Res :=
  s.take { Trap.atWord s.hart f.cause f.detail with fel := true, fidx := j, faddr := f.faddr, count := count }

/-- Entries `j` upward, `n` of them, each by `f`, up to the first fault. -/
def State.overEntries (s : State) (f : State → Nat → Except Flt State) : Nat → Nat → State × Option (Nat × Flt)
  | 0, _ => (s, none)
  | n + 1, j =>
    match f s j with
    | .error x => (s, some (j, x))
    | .ok s' => s'.overEntries f n (j + 1)

/-! ## kfork, kdrop -/

/-- One entry of `kfork` (R274). -/
def State.forkEntry (parent child : BitVec 64) (s : State) (j : Nat) : Except Flt State :=
  let pv := entryVa parent j
  let cv := entryVa child j
  match s.tableEntry pv with
  | .error f => .error f
  | .ok pe =>
    if !pe.mapped then (s.entryPlace cv).map (fun q => s.putEntry q pe)
    else match s.tableEntry cv with
      | .error f => .error f
      | .ok ce =>
        if ce.mapped then .error ⟨cProt, 0, cv⟩
        else if pe.pending || !s.countable pe.frame true then .error ⟨cProt, 0, pv⟩
        else match s.entryPlace pv, s.entryPlace cv with
          | .error f, _ => .error f
          | _, .error f => .error f
          | .ok p, .ok q =>
            let e : Entry := { pe with d0 := pe.d0 ||| 2 ^ 41 }
            .ok (((s.setCount pe.frame (s.count pe.frame + 1)).putEntry p e).putEntry q e)

/-- `kfork sd, sa, sb`: shares the first s[b] entries of the parent table at s[a] with the child table at s[d] (R274).
Illegal in a transaction (R323). -/
def execKfork (d a b : Reg) (s : State) : Res :=
  let h := s.hart
  if h.inTx then s.illegal
  else
    let j0 := h.resumeAt
    match s.overEntries (State.forkEntry (h.rd a) (h.rd d)) ((h.rd b).toNat - j0) j0 with
    | (s, some (j, f)) => s.entryFault j 0 f
    | (s, none) => s.done s.hart

/-- Entries `j` upward, `n` of them, dropped up to the first fault: the state, the frames freed and that fault (R275). -/
def State.dropEntries (s : State) (table : BitVec 64) : Nat → Nat → Nat → State × Nat × Option (Nat × Flt)
  | 0, _, freed => (s, freed, none)
  | n + 1, j, freed =>
    let va := entryVa table j
    match s.tableEntry va with
    | .error f => (s, freed, some (j, f))
    | .ok e =>
      if !e.mapped then s.dropEntries table n (j + 1) freed
      else if !s.countable e.frame false then (s, freed, some (j, ⟨cProt, 0, va⟩))
      else match s.entryPlace va with
        | .error f => (s, freed, some (j, f))
        | .ok p =>
          let c := s.count e.frame - 1
          let s := (s.setCount e.frame c).putEntry p ⟨0, 0⟩
          if c = 0 then (s.freeFrame e.frame).dropEntries table n (j + 1) (freed + 1)
          else s.dropEntries table n (j + 1) freed

/-- `kdrop sd, sa, sb`: releases the first s[b] entries of the table at s[a]; s[d] is the number of frames freed
(R275). -/
def execKdrop (d a b : Reg) (s : State) : Res :=
  let h := s.hart
  if h.inTx then s.illegal
  else
    let j0 := h.resumeAt
    match s.dropEntries (h.rd a) ((h.rd b).toNat - j0) j0 h.resumeCount with
    | (s, freed, some (j, f)) => s.entryFault j freed f
    | (s, freed, none) => s.done (s.hart.wr d (BitVec.ofNat 64 freed))

/-! ## kspl -/

/-- The fields of a splice record (R276). -/
structure Splice where
  dblk : Nat
  nblk : Nat
  srct : Nat
  poff : Nat
  pidx : Nat
  deriving DecidableEq, Repr

/-- Reading a splice record; none when it holds a reserved value or NBLK = 0 (R276, R277). -/
def parseSplice (r : Nat) : Option Splice :=
  if bits (dw r 1) 56 8 = 0 ∧ bits (dw r 2) 48 16 = 0 ∧ dw r 3 = 0 ∧ bits (dw r 0) 32 32 ≠ 0 then
    some { dblk := bits (dw r 0) 0 32, nblk := bits (dw r 0) 32 32, srct := bits (dw r 1) 0 56
           poff := bits (dw r 2) 0 32, pidx := bits (dw r 2) 32 16 }
  else none

/-- One entry of `kspl` (R277). -/
def State.spliceEntry (table : BitVec 64) (p : Splice) (s : State) (j : Nat) : Except Flt State :=
  let sv := entryVa (BitVec.ofNat 64 p.srct) j
  let tv := entryVa table (p.dblk + j)
  match s.tableEntry sv, s.tableEntry tv with
  | .error f, _ => .error f
  | _, .error f => .error f
  | .ok se, .ok te =>
    if !se.mapped then .error ⟨cProt, 0, sv⟩
    else if te.mapped then .error ⟨cProt, 0, tv⟩
    else if !s.countable se.frame true then .error ⟨cProt, 0, sv⟩
    else (s.entryPlace tv).map (fun q =>
      (s.setCount se.frame (s.count se.frame + 1)).putEntry q
        (Entry.make se.frame p.pidx true true true false p.poff 0 0))

/-- The check of a version's provenance before it is spliced (R277, R281). -/
def spliceFault (state : Nat) : Option Flt :=
  if state = 1 then none else some ⟨if state = 2 then cStale else cProt, 0, 0⟩

/-- `kspl sd, sa, sb`: maps precomputed blocks into the table at s[a] by the record at s[b] (R277). -/
def execKspl (d a b : Reg) (s : State) : Res :=
  let h := s.hart
  if h.inTx then s.illegal
  else match s.readRecord (h.rd b) 4 with
    | .error f => s.faultPlain f
    | .ok r =>
      match parseSplice r with
      | none => s.illegal
      | some p =>
        match (if s.provBad h.info.asid p.pidx then some ⟨cMachine, 0, 0⟩ else spliceFault (s.provState h.info.asid p.pidx)) with
        | some f => s.faultPlain f
        | none =>
          let j0 := h.resumeAt
          match s.overEntries (State.spliceEntry (h.rd a) p) (p.nblk - j0) j0 with
          | (s, some (j, f)) => s.entryFault j 0 f
          | (s, none) => s.done (s.hart.wr d (BitVec.ofNat 64 p.nblk))

/-! ## krep -/

/-- The fields of a repair record (R278). -/
structure Repair where
  blk : Nat
  slot : Nat
  tag : Nat
  fresh : Nat
  nel : Nat
  ntok : Nat
  tstr : Nat
  deriving DecidableEq, Repr

/-- Reading a repair record; none when it holds a reserved value or runs past a token slot (R278). -/
def parseRepair (r : Nat) : Option Repair :=
  let d0 := dw r 0
  let d2 := dw r 2
  let tag := bits d0 48 5
  let slot := bits d0 32 14
  let nel := bits d2 0 16
  let ntok := bits d2 16 5
  if bits d0 46 2 = 0 ∧ bits d0 53 11 = 0 ∧ bits (dw r 1) 56 8 = 0 ∧ bits d2 21 11 = 0 ∧ dw r 3 = 0
      ∧ (tag = 14 ∨ tag = 15) ∧ 1 ≤ nel ∧ 1 ≤ ntok ∧ ntok ≤ 16 ∧ slot + nel * (tagWidth tag / 8) ≤ 16384 then
    some { blk := bits d0 0 32, slot := slot, tag := tag, fresh := bits (dw r 1) 0 56, nel := nel, ntok := ntok
           tstr := bits d2 32 32 }
  else none

/-- Whether a pair of values marks its token under a threshold (R279). -/
def deviates (thr fresh cached : FVal) : Bool :=
  if thr.isNan || fresh.isNan || cached.isNan then true
  else match fresh, cached with
    | .inf n, .inf n' => if n = n' then thr.cmp (.fin false 0 0) == -1 else true
    | .inf _, _ => true
    | _, .inf _ => true
    | _, _ => thr.cmp ((fresh.add false cached.negate).1.abs) == -1

/-- Element `i` of token `t`, cached and fresh, read in S1 (R279). -/
def State.repairPair (s : State) (p : Repair) (frame t i : Nat) : Except Flt (FVal × FVal) :=
  let n := tagWidth p.tag / 8
  let off := t * 2 ^ 14 + p.slot + i * n
  let pa := frame * 2 ^ 18 + off
  let f := fmtOf p.tag
  if pa % n ≠ 0 then .error ⟨cAlign, 0, kvAddr frame off⟩
  else if (List.range n).any (fun k => s.poison.contains (pa + k)) then .error ⟨cMachine, 0, kvAddr frame off⟩
  else (s.readVa 1 n (BitVec.ofNat 64 (p.fresh + t * p.tstr + i * n))).map (fun v =>
    (f.decode v, f.decode (s.load s.hart 1 false pa n)))

/-- Whether token `t` is marked, element by element (R279). -/
def State.repairToken (s : State) (p : Repair) (thr : FVal) (frame t : Nat) : List Nat → Except Flt Bool
  | [] => .ok false
  | i :: is =>
    match s.repairPair p frame t i with
    | .error f => .error f
    | .ok (x, y) => (s.repairToken p thr frame t is).map (fun b => deviates thr x y || b)

/-- The mask of marked tokens. -/
def State.repairMask (s : State) (p : Repair) (thr : FVal) (frame : Nat) : List Nat → Except Flt Nat
  | [] => .ok 0
  | t :: ts =>
    match s.repairToken p thr frame t (List.range p.nel) with
    | .error f => .error f
    | .ok b => (s.repairMask p thr frame ts).map (fun m => m + b2n b * 2 ^ t)

/-- `krep sd, sa, sb`: compares fresh values with cached ones and marks the tokens that deviate (R279). Faults of the
values carry their address, with FEL = 1 and FIDX 0 (log entry 30). -/
def execKrep (d a b : Reg) (s : State) : Res :=
  let h := s.hart
  if h.inTx then s.illegal
  else match s.readRecord (h.rd b) 4 with
    | .error f => s.faultPlain f
    | .ok r =>
      match parseRepair r with
      | none => s.illegal
      | some p =>
        let va := entryVa (h.rd a) p.blk
        match s.readEntry 0 va with
        | .error f => s.entryFault 0 0 f
        | .ok e =>
          if !e.reservedOk || !e.mapped || !e.spliced || e.pending then s.faultPlain ⟨cProt, 0, va⟩
          else if !validOf (s.leaf e.frame) then s.faultPlain ⟨cPage, 0, va⟩
          else match s.entryPlace va with
            | .error f => s.entryFault 0 0 f
            | .ok q =>
              match s.repairMask p ((fmtOf 15).decode (h.repth.toNat % 2 ^ 32)) e.frame (List.range p.ntok) with
              | .error f => s.faultAt f
              | .ok m =>
                let e' := Entry.make e.frame e.pidx true e.shared true (m != 0) e.poff (if m = 0 then e.rthru else 0) m
                let s := s.putEntry q e'
                s.done (s.hart.wr d (BitVec.ofNat 64 m))

/-! ## kchk -/

/-- The entry after `kchk` or `kchk.f` to layer `l` (R280). -/
def Entry.checked (e : Entry) (final : Bool) (l : Nat) : Entry :=
  if !e.pending then e
  else Entry.make e.frame e.pidx true e.shared e.spliced (!final) e.poff (max e.rthru l) (if final then 0 else e.mark)

/-- `kchk` and `kchk.f`: a release over S0 to S9, then the entry's update; an unchanged entry is not written (R280). An
entry with a nonzero reserved bit is treated as unmapped (R296). -/
def State.check (s : State) (final : Bool) (d a b : Reg) : Res :=
  let h := s.hart
  if h.inTx then s.illegal
  else
    let s := s.drainAll
    let va := entryVa (h.rd a) ((h.rd b).toNat % 2 ^ 32)
    match s.accessRmw s.hart 16 va, s.readEntry 0 va with
    | .error f, _ => s.entryFault 0 0 f
    | _, .error f => s.entryFault 0 0 f
    | .ok q, .ok e =>
      if !e.reservedOk || !e.mapped then s.faultPlain ⟨cProt, 0, va⟩
      else
        let e' := e.checked final (bits (h.rd b).toNat 32 16)
        let s := if e' = e then s else s.putEntry q e'
        s.done (s.hart.wr d (BitVec.ofNat 64 e'.rthru))

/-- `kchk sd, sa, sb` (R280). -/
def execKchk (d a b : Reg) (s : State) : Res := s.check false d a b

/-- `kchk.f sd, sa, sb` (R280). -/
def execKchkF (d a b : Reg) (s : State) : Res := s.check true d a b

/-! ## kprov -/

/-- An operation on provenance entry s[a]: `f` gives, from the old STATE, the new VER and STATE, if any (R281, R282). -/
def State.provenance (s : State) (d a : Reg) (f : Nat → Option (Option Nat × Nat)) : Res :=
  let h := s.hart
  let v := (h.rd a).toNat
  let base := s.provBase h.info.asid
  if h.inTx then s.illegal
  else if v / 2 ^ 16 ≠ 0 ∨ base = 0 then s.faultPlain ⟨cProt, 0, 0⟩
  else
    let pa := base + 16 * v
    let d1 := memRead s.mem (pa + 8) 8
    let st := d1 % 4
    if (List.range 16).any (fun i => s.poison.contains (pa + i)) then s.faultPlain ⟨cMachine, 0, 0⟩
    else if st = 3 then s.faultPlain ⟨cProt, 0, 0⟩
    else
      let s := match f st with
        | none => s
        | some (ver, st') =>
          let s := match ver with
            | some x => s.writeDevice pa x
            | none => s
          s.writeDevice (pa + 8) (d1 - st + st')
      s.done (s.hart.wr d (BitVec.ofNat 64 st))

/-- `kprov.rd sd, sa` (R282). -/
def execKprovRd (d a : Reg) (s : State) : Res := s.provenance d a (fun _ => none)

/-- `kprov.live sd, sa, sb` (R282). -/
def execKprovLive (d a b : Reg) (s : State) : Res :=
  let v := (s.hart.rd b).toNat
  s.provenance d a (fun st => if st = 0 then some (some v, 1) else none)

/-- `kprov.ret sd, sa`: a release at package scope where it retires a version (R282). -/
def execKprovRet (d a : Reg) (s : State) : Res :=
  s.drainAll.provenance d a (fun st => if st = 1 then some (none, 2) else none)

/-- `kprov.free sd, sa` (R282). -/
def execKprovFree (d a : Reg) (s : State) : Res := s.provenance d a (fun st => if st = 2 then some (none, 0) else none)

end Sys2Proof.Machine
end

