-- ==== Sys2Proof/Machine/Sampling.lean ====
section
/-! DEFINITION. Grammar and sampling instructions, major 0x1F (R283 to R295). -/

namespace Sys2Proof.Machine

/-! ## Grammar images and contexts (R284 to R286) -/

/-- The header of a grammar image (R284). -/
structure Grammar where
  nst : Nat
  ntok : Nat
  nsym : Nat
  cls : Nat
  ncls : Nat
  msk : Nat
  stt : Nat
  cnd : Nat
  trn : Nat
  nmsk : Nat
  nrow : Nat
  deriving DecidableEq, Repr

/-- Reading the fields of a header. -/
def parseGrammar (r : Nat) : Grammar :=
  { nst := bits (dw r 0) 0 32, ntok := bits (dw r 0) 32 21, nsym := bits (dw r 0) 56 6, cls := bits (dw r 1) 0 56
    ncls := bits (dw r 2) 0 17, msk := bits (dw r 3) 0 56, stt := bits (dw r 4) 0 56, cnd := bits (dw r 5) 0 56
    trn := bits (dw r 6) 0 56, nmsk := bits (dw r 7) 0 32, nrow := bits (dw r 7) 32 32 }

/-- A grammar context with its image (R286). -/
structure GContext where
  gram : Grammar
  state : Nat
  depth : Nat
  stk : Nat
  d1 : Nat
  nadv : Nat
  deriving DecidableEq, Repr

/-- A read of the token-mask engine, an S1 access (R289). -/
def State.engineRead (s : State) (n va : Nat) : Except Flt Nat := s.readVa 1 n (BitVec.ofNat 64 va)

/-- 64 bytes aligned to 64, read in S1 (R284, R286, R289). -/
def State.read64 (s : State) (va : BitVec 64) : Except Flt Nat :=
  if windowEnd ≤ va.toNat then .error ⟨cPage, 0, va⟩
  else if va.toNat % 64 ≠ 0 then .error ⟨cAlign, 0, va⟩
  else ((List.range 8).mapM (fun i => s.readVa 1 8 (va + BitVec.ofNat 64 (8 * i)))).map (packNat 64)

/-- The context at an address and its image's header. -/
def State.readContext (s : State) (va : BitVec 64) : Except Flt GContext :=
  match s.read64 va with
  | .error f => .error f
  | .ok c =>
    (s.read64 (BitVec.ofNat 64 (bits (dw c 0) 0 56))).map (fun g =>
      { gram := parseGrammar g, state := bits (dw c 1) 0 32, depth := bits (dw c 1) 32 11, stk := bits (dw c 2) 0 56
        d1 := dw c 1, nadv := dw c 3 })

/-- The masks of a context: that of its state, and that of its conditioned row's entry for the top symbol, if present;
none for a malformed context (R285, R287). -/
def State.contextMasks (s : State) (c : GContext) : Except Flt (Option (Nat × Option Nat)) := do
  let g := c.gram
  if g.nst ≤ c.state ∨ 1024 < c.depth then return none
  let top ← if c.depth = 0 then pure 63 else s.engineRead 1 (c.stk + c.depth - 1)
  if 63 < top ∨ (top < 63 ∧ g.nsym ≤ top) then return none
  let q ← s.engineRead 8 (g.stt + 8 * c.state)
  let base := bits q 0 32
  let cix := bits q 32 32
  if g.nmsk ≤ base ∨ (cix ≠ 0xFFFFFFFF ∧ g.nrow ≤ cix) then return none
  if cix = 0xFFFFFFFF then return some (base, none)
  let e ← s.engineRead 4 (g.cnd + 256 * cix + 4 * top)
  if e = 0xFFFFFFFF then return some (base, none)
  if g.nmsk ≤ e then return none
  return some (base, some e)

/-- Bit `t` of mask `k` (R284, R285). -/
def State.maskBit (s : State) (g : Grammar) (k t : Nat) : Except Flt Bool :=
  (s.engineRead 1 (g.msk + k * (64 * ((g.ntok + 511) / 512)) + t / 8)).map (fun b => bits b (t % 8) 1 == 1)

/-- Whether a token is allowed (R287). -/
def State.allowed (s : State) (g : Grammar) (m : Nat × Option Nat) (t : Nat) : Except Flt Bool :=
  if g.ntok ≤ t then .ok false
  else match s.maskBit g m.1 t with
    | .error f => .error f
    | .ok true => .ok true
    | .ok false => match m.2 with
      | none => .ok false
      | some k => s.maskBit g k t

/-- The bits of `tmask` for elements listed (R287). -/
def State.maskBits (s : State) (g : Grammar) (m : Nat × Option Nat) (t0 : Nat) (sel : Nat → Bool) :
    List Nat → Except Flt (List (Nat × Bool))
  | [] => .ok []
  | e :: es =>
    match (if sel e then s.allowed g m (t0 + e) else .ok false) with
    | .error f => .error f
    | .ok b => (s.maskBits g m t0 sel es).map (fun l => (e, b) :: l)

/-- `tmask md, sa, sb[, mk]`: the allowed tokens from s[b] upward under the context at s[a]; a malformed context gives
zeros and INVALID (R287). Its faults have FEL = 0 and no effect (R289); illegal in a transaction (R323). -/
def execTmask (d : BitVec 3) (a b : Reg) (k : BitVec 3) (s : State) : Res :=
  let h := s.hart
  if h.inTx then s.illegal
  else if h.vl = 0 then s.done h
  else
    let es := List.range h.vl
    match s.readContext (h.rd a) with
    | .error f => s.faultPlain f
    | .ok c =>
      match s.contextMasks c with
      | .error f => s.faultPlain f
      | .ok none =>
        s.done ((h.setMask d.toNat (setBits (h.mask d.toNat) (es.map (fun e => (e, false))))).raise fINVALID)
      | .ok (some m) =>
        match s.maskBits c.gram m (h.rd b).toNat (h.sel k) es with
        | .error f => s.faultPlain f
        | .ok l => s.done (h.setMask d.toNat (setBits (h.mask d.toNat) l))

/-- What an advance of a context by a token comes to: a code, and for code 0 the new state, depth and the symbol pushed
with its place (R288). -/
def State.advanceContext (s : State) (c : GContext) (t : Nat) : Except Flt (Nat × Option (Nat × Nat × Option (Nat × Nat))) := do
  let g := c.gram
  let m ← s.contextMasks c
  match m with
  | none => return (5, none)
  | some m =>
    if t = 0xFFFFFF ∨ g.ntok ≤ t then return (4, none)
    let ok ← s.allowed g m t
    if !ok then return (1, none)
    let cl ← s.engineRead 2 (g.cls + 2 * t)
    if g.ncls ≤ cl then return (5, none)
    let x ← s.engineRead 8 (g.trn + 8 * (c.state * g.ncls + cl))
    let next := bits x 0 32
    let act := bits x 32 2
    let sym := bits x 34 6
    if g.nst ≤ next ∨ ((act = 1 ∨ act = 3) ∧ g.nsym ≤ sym) then return (5, none)
    if (act = 2 ∨ act = 3) ∧ c.depth = 0 then return (2, none)
    if act = 1 ∧ c.depth = 1024 then return (3, none)
    let depth := if act = 1 then c.depth + 1 else if act = 2 then c.depth - 1 else c.depth
    return (0, some (next, depth, if act = 1 ∨ act = 3 then some (c.stk + depth - 1, sym) else none))

/-- The context written after an accepted advance: STATE, DEPTH, NADV and the pushed byte, as one step (R286, R288,
R289); every place is reached before any is written. -/
def State.writeContext (s : State) (va : BitVec 64) (c : GContext) (next depth : Nat) (push : Option (Nat × Nat)) :
    Except Flt State := do
  let p1 ← s.access s.hart .write 8 (va + 8)
  let p3 ← s.access s.hart .write 8 (va + 24)
  let d1 := c.d1 / 2 ^ 43 * 2 ^ 43 + depth * 2 ^ 32 + next
  let fin (s : State) : State :=
    (s.store 1 true false p1.pa (natLe 8 d1)).store 1 true false p3.pa (natLe 8 ((c.nadv + 1) % 2 ^ 64))
  match push with
  | none => return fin s
  | some (a, sym) =>
    let p ← s.access s.hart .write 1 (BitVec.ofNat 64 a)
    return fin (s.store 1 true false p.pa [BitVec.ofNat 8 sym])

/-- `tadv sd, sa, sb`: tries to advance the context by the token s[b][23:0]; s[d] receives the code (R288). -/
def execTadv (d a b : Reg) (s : State) : Res :=
  let h := s.hart
  let finish (s : State) (code : Nat) : Res := s.done (s.hart.wr d (BitVec.ofNat 64 code))
  if h.inTx then s.illegal
  else match s.readContext (h.rd a) with
    | .error f => s.faultPlain f
    | .ok c =>
      match s.advanceContext c ((h.rd b).toNat % 2 ^ 24) with
      | .error f => s.faultPlain f
      | .ok (code, none) => finish s code
      | .ok (code, some (next, depth, push)) =>
        match s.writeContext (h.rd a) c next depth push with
        | .error f => s.faultPlain f
        | .ok s => finish s code

/-! ## Sampling -/

/-- FP16, BF16 or FP32 (R290, R291). -/
def isLogit (t : Ty) : Bool := 13 ≤ t.tag && t.tag ≤ 15

/-- The first of the largest values among elements, with its index; NaN elements are passed over (R290). -/
def firstMax (t : Ty) (r : Nat → Nat) : List Nat → Option (Nat × FVal) → Option (Nat × FVal)
  | [], best => best
  | e :: es, best =>
    let v := t.value (r e)
    if v.isNan then firstMax t r es best
    else match best with
      | none => firstMax t r es (some (e, v))
      | some (i, x) => firstMax t r es (if x.cmp v == -1 then some (e, v) else some (i, x))

/-- `smax vd, va, sb[, mk]`: the largest active element and, in s[b], its lowest index (R290). -/
def execSmax (d a b : Reg) (k : BitVec 3) (w : BitVec 1) (s : State) : Res :=
  let h := s.hart
  let t := h.ty a
  s.vector
    { ill := !h.opOk a h.vl, tile := none, mism := !isLogit t
      srcs := [{ reg := a.toNat, grp := h.grp a, trap := bit1 w, need := h.vl }]
      dsts := [{ reg := d.toNat, grp := 1, cfg := some (t, 1), len := h.vl }]
      sends := if h.vl = 0 then [] else [0], lanewise := false, w := t.w }
    (fun s =>
      let h := s.hart
      let r := h.elems a
      let es := h.everyActive k
      let fl := flagIf (es.any (fun e => (t.value (r e)).isNan)) fINVALID
      let (raw, i) : Nat × Word := match firstMax t r es none with
        | some (e, _) => (r e, BitVec.ofNat 64 e)
        | none => ((fmtOf t.tag).maxCode + 1 + 2 ^ (t.w - 1), BitVec.allOnes 64)
      let s := s.putResults d 1 t (some (mkCfg t 1)) [(0, raw, fl)]
      s.done (s.hart.wr b i))

/-- RNE of a signed quotient n / m, for a positive m. -/
def rneQuot (n : Int) (m : Nat) : Int := sgn (n < 0) (rneDiv n.natAbs m)

/-- The weight of a scaled difference D × 2^−44 ≤ 0 (R292). -/
def expWeight (D : Int) : Nat :=
  let k := (D * invLn2Const + 2 ^ 87) / 2 ^ 88
  let r := D - k * ln2Const
  let o := rotRun .hyperbolic false 24 1 { x := 2 ^ 42, y := 0, z := r }
  let x := (rotComp .hyperbolic 24 o.x).1 + (rotComp .hyperbolic 24 o.y).1
  let sh := (10 - k).toNat
  min (rneShiftInt x sh).1.toNat (2 ^ 32 - 1)

/-- A weight and its flags from x, M and T (R292). -/
def sampleWeight (x m t : FVal) : Nat × Nat :=
  match m, t with
  | .fin nm mm em, .fin nt mt et =>
    if nt && mt != 0 then (0, fINVALID)
    else if x.isNan then (0, fINVALID)
    else if mt = 0 then (if x.cmp m == 0 then 2 ^ 32 - 1 else 0, 0)
    else match x with
      | .inf n => if n then (0, 0) else (2 ^ 32 - 1, fSAT)
      | .fin nx mx ex =>
        let lo := min (min ex em) et
        let num := scaled nx mx ex lo - scaled nm mm em lo
        let den := (scaled false mt et lo).toNat
        if 0 < num then (2 ^ 32 - 1, fSAT)
        else if num < -23 * (den : Int) then (0, 0)
        else (expWeight (rneQuot (num * 2 ^ 44) den), 0)
      | .nan _ => (0, fINVALID)
  | _, _ => (0, fINVALID)

/-- `sexp vd, va, sb[, mk]`: weights of the active elements, and their sum added into s[b+1] (R291, R292). -/
def execSexp (d a b : Reg) (k : BitVec 3) (w : BitVec 1) (s : State) : Res :=
  let h := s.hart
  let t := h.ty a
  let rt : Ty := ⟨7, 0⟩
  let rg := h.grp a * 32 / (max t.w 1)
  s.vector
    { ill := b.toNat % 2 != 0 || b == 0 || (isLogit t && decide (8 < rg)) || decide (8 * h.w < h.vl) || !h.opOk a h.vl
        || (isLogit t && !h.resOk d rt rg h.vl)
      tile := none, mism := !isLogit t
      srcs := [{ reg := a.toNat, grp := h.grp a, trap := bit1 w, need := h.vl }]
      dsts := [{ reg := d.toNat, grp := rg, cfg := some (rt, rg), len := h.vl }], sends := h.active k 32
      lanewise := true, w := 32 }
    (fun s =>
      let h := s.hart
      let r := h.elems a
      let v := (h.rd b).toNat
      let m := (fmtOf 15).decode (v % 2 ^ 32)
      let tt := (fmtOf 15).decode (v / 2 ^ 32)
      let l := (h.active k 32).map (fun e => (e, sampleWeight (t.value (r e)) m tt))
      let sum := (l.map (fun p => p.2.1)).sum
      let s := s.putResults d rg rt (some (mkCfg rt rg)) (l.map (fun p => (p.1, p.2.1, p.2.2)))
      let s := if s.hart.vl = 0 || s.hart.isBound d.toNat then s else s.produce (members d.toNat rg) s.loadLat
      s.done (s.hart.wr (b + 1) (s.hart.rd (b + 1) + BitVec.ofNat 64 sum)))

/-- The first active element whose running sum exceeds the target, or the whole sum (R294). -/
def pick (t : Nat) (r : Nat → Nat) : List Nat → Nat → Nat ⊕ Nat
  | [], p => .inr p
  | e :: es, p => if t < p + r e then .inl e else pick t r es (p + r e)

/-- `spick sd, va, sb[, mk]` (R294). -/
def execSpick (d a b : Reg) (k : BitVec 3) (w : BitVec 1) (s : State) : Res :=
  let h := s.hart
  s.vector
    { ill := !h.opOk a h.vl, tile := none, mism := (h.ty a).tag != 7
      srcs := [{ reg := a.toNat, grp := h.grp a, trap := bit1 w, need := h.vl }], dsts := [], sends := []
      lanewise := false }
    (fun s =>
      let h := s.hart
      let t := (h.rd b).toNat
      if t = 2 ^ 64 - 1 then s.done ((h.wr d 0xFFFFFF).raise fNOLEGAL)
      else match pick t (h.elems a) (h.everyActive k) 0 with
        | .inl e => s.done (h.wr d (BitVec.ofNat 64 e))
        | .inr p => s.done ((h.wr b (BitVec.ofNat 64 (t - p))).wr d (BitVec.allOnes 64)))

/-- `srand sd, sa, sb`: the sampling target (R293). -/
def execSrand (d a b : Reg) (s : State) : Res :=
  let h := s.hart
  let q := (h.rd a).toNat
  let total := (h.rd b).toNat
  if total = 0 then s.done ((h.wr d (BitVec.allOnes 64)).raise fNOLEGAL)
  else if bits q 30 1 = 1 then s.done (h.wr d 0)
  else s.done (h.wr d (BitVec.ofNat 64 (scg h.seed.toNat (bits q 0 30) (bits q 32 32) * total / 2 ^ 64)))

end Sys2Proof.Machine
end

