-- ==== Sys2Proof/Machine/OrderFirst.lean ====
section
/-! DEFINITION. Order-first transactions, major 0x25 (R310 to R316), the starting gates, the merged order and the home
queues (R317 to R320, R325). -/

namespace Sys2Proof.Machine

/-! ## Declarations -/

/-- The declaration buffer with a granule declared; none when it is full (R314). -/
def declare (buf : List (Nat × Bool)) (g : Nat) (write : Bool) : Option (List (Nat × Bool)) :=
  if buf.any (fun x => x.1 == g) then some (buf.map (fun x => if x.1 = g then (g, x.2 || write) else x))
  else if 16 ≤ buf.length then none
  else some (buf ++ [(g, write)])

/-- `odecl.r` and `odecl.w` (R314): the state, then the translation, the attribute, and the full buffer. -/
def State.odecl (s : State) (write : Bool) (a : Reg) : Res :=
  let h := s.hart
  let va := h.rd a
  if h.tx.st = .submitted ∨ h.tx.st = .opened then s.illegal
  else match s.translate h.info.asid (if write then .write else .read) va with
    | .error f => s.faultAt f
    | .ok p =>
      if p.attr ≠ .hbm then s.faultAt ⟨cProt, 0, va⟩
      else match declare h.tx.buf (p.pa / 1024 * 1024) write with
        | none => s.illegal
        | some b => s.done { h with tx := { h.tx with st := .declaring, buf := b } }

/-- `odecl.r sa` (R314). -/
def execOdeclR (a : Reg) (s : State) : Res := s.odecl false a

/-- `odecl.w sa` (R314). -/
def execOdeclW (a : Reg) (s : State) : Res := s.odecl true a

/-- `obeg sd`: submits the buffer and waits with cause 4; the same one, executed again once the transaction is open, delivers
(B << 16) | P (R312, R315). In any other state, and anywhere else, it is illegal (log entry 105). -/
def execObeg (d : Reg) (s : State) : Res :=
  let h := s.hart
  match h.tx.st, h.tx.result with
  | .declaring, _ =>
    (s.setHart { h with tx := { h.tx with st := .submitted, begun := h.tx.begun + 1, site := h.pc } }).wait .grant Watch.none
  | .opened, some v => if h.pc = h.tx.site then s.done { h.wr d v with tx := { h.tx with result := none } } else s.illegal
  | .submitted, _ => if h.pc = h.tx.site then s.wait .grant Watch.none else s.illegal
  | _, _ => s.illegal

/-- `ocom`: a release at package scope, then every granule is released and the buffer cleared (R316, R204). -/
def execOcom (s : State) : Res :=
  if s.hart.tx.st ≠ .opened then s.illegal
  else
    let s := s.drainAll.endTx
    s.done s.hart

/-! ## Gates, beats, home queues -/

/-- How many of a hart's transactions, from its first, have been placed in a merged order or were withdrawn before they
entered a gate; one withdrawn after that counts, and those after it, once its batch is merged (R325). -/
def Hart.placedCount (h : Hart) : Nat :=
  h.tx.ghost.getD (h.tx.begun - (if h.tx.st = .submitted ∧ h.tx.placed = none then 1 else 0))

/-- Whether every transaction of the launch with an earlier key has been placed (R325). -/
def State.keyDue (s : State) (h : Hart) : Bool :=
  let k := h.tx.begun - 1
  s.harts.all (fun x => decide (x.id = h.id) || x.id.seq != h.id.seq || decide (x.st = .retired)
    || decide (k + (if x.id.hidx.toNat < h.id.hidx.toNat then 1 else 0) ≤ x.placedCount))

/-- Whether one declaration stands ahead of another at a gate: it arrived in an earlier cycle, or in the same cycle from a
lower core, or from a lower context of that core (R318). -/
def GateEntry.before (a b : GateEntry) : Bool :=
  decide (a.cycle < b.cycle) || (a.cycle == b.cycle && (decide (a.core < b.core) || (a.core == b.core && decide (a.ctx < b.ctx))))

/-- A declaration joins those at a gate, behind every one that stands ahead of it (R318). -/
def arrive (e : GateEntry) : List GateEntry → List GateEntry
  | [] => [e]
  | x :: xs => if e.before x then e :: x :: xs else x :: arrive e xs

/-- GATE_ARRIVAL: the focused hart's declaration joins the batch of its die's gate (R318); in a deterministic launch
only in the order of keys (R325). -/
def execGateArrival (s : State) : Res :=
  let h := s.hart
  let die := h.core / 32 % 4
  let e : GateEntry := { who := h.id, cycle := s.cycle, core := h.core, ctx := h.ctx }
  if h.tx.st = .submitted ∧ h.tx.placed = none ∧ s.inGate h.id = false ∧ (h.info.det = false ∨ s.keyDue h = true) then
    .next { s with gates := s.gates.mapIdx (fun d b => if d = die then arrive e b else b) }
  else .next s

/-- What a gate sends at the end of a beat: at most 256 declarations, none of a die that has not joined (R318, R319). -/
def State.sent (s : State) (die : Nat) : List GateEntry :=
  if s.joined.getLsbD die then (s.gates.toList.getD die []).take 256 else []

/-- Whether the hart of a declaration has withdrawn it from the gate (R312, R325). -/
def State.withdrawn (s : State) (id : HartId) : Bool :=
  !s.harts.any (fun h => decide (h.id = id ∧ h.tx.st = .submitted) && h.tx.ghost.isNone)

/-- The batch of a gate at the end of a beat, withdrawn declarations left out (R319; log entry 88). -/
def State.batch (s : State) (die : Nat) : List HartId :=
  ((s.sent die).map (fun e => e.who)).filter (fun id => !s.withdrawn id)

/-- A hart's place in the merged order noted, when its transaction is among those merged (R315). -/
def placeIn (beat : Nat) (order : List HartId) (h : Hart) : Hart :=
  match order.findIdx? (fun i => decide (i = h.id)) with
  | some p => { h with tx := { h.tx with placed := some (beat, p) } }
  | none => h

/-- A withdrawn declaration is placed with the batch that held it (R325). -/
def unghost (ids : List HartId) (h : Hart) : Hart :=
  if ids.contains h.id then { h with tx := { h.tx with ghost := none } } else h

/-- The end of a beat: the batches of dies 0 to 3 form the merged order, and the BEAT set by the host comes into force (R317,
R319). -/
def State.endBeat (s : State) : State :=
  let order := (List.range 4).flatMap (fun d => s.batch d)
  let sent := (List.range 4).flatMap (fun d => (s.sent d).map (fun e => e.who))
  let gates := s.gates.mapIdx (fun d b => if s.joined.getLsbD d then b.drop 256 else b)
  let s := (s.mapHarts (placeIn s.beatNo order)).mapHarts (unghost sent)
  { s with gates := gates
           merged := if order.isEmpty then s.merged else s.merged ++ [{ beat := s.beatNo, order := order }]
           beatNo := s.beatNo + 1, beatFrom := s.beatFrom + s.beat.toNat, beat := s.nextBeat }

/-- The declaration buffer of a hart by its name. -/
def State.bufOf (s : State) (id : HartId) : List (Nat × Bool) :=
  match s.harts.find? (fun h => decide (h.id = id)) with
  | some h => if h.tx.st = .submitted then h.tx.buf else []
  | none => []

/-- Entries appended to the home queues, and those that stand free granted (R319). -/
def appendEntries (who : HartId) : List (Nat × Bool) → List (Nat × List QueueEntry) → List (Nat × List QueueEntry)
  | [], qs => qs
  | (g, w) :: rest, qs =>
    let q := lookupD qs g [] ++ [{ who := who, write := w, granted := false }]
    appendEntries who rest (assign qs g (grantQueue false false q))

/-- A merged order appended to the home queues of its granules, `ms` being left (R319). -/
def State.appendOrder (s : State) (m : Merged) (ms : List Merged) : State :=
  { s with merged := ms, granules := m.order.foldl (fun qs i => appendEntries i (s.bufOf i) qs) s.granules }

/-- BATCH_APPEND: the oldest merged order is appended to the home queues of its granules (R319). -/
def execBatchAppend (s : State) : Res :=
  match s.merged with
  | [] => .next s
  | m :: ms => .next (s.appendOrder m ms)

/-- Whether every declared granule of a hart is granted (R319). -/
def State.allGranted (s : State) (h : Hart) : Bool :=
  h.tx.buf.all (fun g => (lookupD s.granules g.1 []).any (fun e => decide (e.who = h.id) && e.granted))

/-- A hart's transaction opens once every granule is granted, and its `obeg` has its result: the beat modulo 2^48 and the place
(R312, R315, R319). -/
def State.grantTx (s : State) (h : Hart) : Hart :=
  match h.tx.placed with
  | some (b, p) =>
    if h.tx.st = .submitted ∧ s.allGranted h = true then
      { h with tx := { h.tx with st := .opened, result := some (BitVec.ofNat 64 (b % 2 ^ 48 * 2 ^ 16 + p)) } }
    else h
  | none => h

/-- ORDER_FIRST_GRANT of the focused hart (R319). -/
def execOrderFirstGrant (s : State) : Res := .next (s.upd s.grantTx)

/-! ## The end of a beat -/

/-- The merged orders left by earlier beats are appended. -/
def State.appendOrders (s : State) : List Merged → State
  | [] => s
  | m :: ms => (s.appendOrder m ms).appendOrders ms

/-- What the beat that ends may not put off: the orders of earlier beats are appended to the home queues, and every transaction
whose granules stand granted opens (R27, R319, R320). -/
def State.keepPromise (s : State) : State :=
  let s := s.appendOrders s.merged
  s.mapHarts s.grantTx

/-- A beat that has lasted BEAT ends, with what it may not put off; beats run from the start of stage S1 (R317). -/
def State.passBeat (s : State) : State :=
  if s.stage = 0 ∨ s.ns < s.beatFrom + s.beat.toNat then s else s.keepPromise.endBeat

/-- BEAT_END. A step applies it itself in the cycle in which the beat has lasted BEAT (R317). -/
def execBeatEnd (s : State) : Res := .next s.passBeat

end Sys2Proof.Machine
end

