-- ==== Sys2Proof/Machine/Sched.lean ====
section
/-! DEFINITION. The scheduler's steps: placement and restore, wake and reclaim, landing, compaction, read-ahead, hard
pre-emption and escalation, energy, the watchdog, and the whippletree's issue cycle (R11 to R27, R49, R178, R193, R263
to R270). -/

namespace Sys2Proof.Machine

/-! ## Waking and reclaiming -/

/-- Whether a waiting cause's wake condition holds (R13). -/
def Hart.wakes (h : Hart) : WaitCause → Bool
  | .fullEmpty => (h.empties h.watch.regs).isEmpty
  | .address => h.watch.hit
  | .stream =>
    let g := h.gen h.watch.gen
    decide (min h.watch.need (g.pat.total - g.pos) ≤ g.ahead)
  | .grant => decide (h.tx.st ≠ .submitted)
  | .frontier => h.watch.hit
  | .emulation => false

/-- The state a hart runs in: waiting for its emulation handler while that runs (R13, R257). -/
def Hart.running (h : Hart) : HState := if h.handler.isSome then .waiting .emulation else .resident

/-- The waiting cause a WCAUSE code names. -/
def causeOfCode (c : BitVec 3) : Option WaitCause :=
  match c.toNat with
  | 1 => some .fullEmpty
  | 2 => some .address
  | 3 => some .stream
  | 4 => some .grant
  | 5 => some .frontier
  | _ => none

/-- Whether a saved hart may become ready: no cause pending, and released when its cause needs a release (R12, R255) or its
save area could not be read (R256). -/
def Hart.mayReady (h : Hart) (r : SaveRec) : Bool :=
  (r.released || (decide (0x20 ≤ r.cause.toNat) && !r.lost)) && !h.cancelling
    && (match causeOfCode r.wcause with
      | none => true
      | some c => h.wakes c)

/-- HART_WAKE: the focused hart resumes, or becomes ready when it is saved (R12, R13). -/
def execHartWake (s : State) : Res :=
  let h := s.hart
  match h.st with
  | .waiting c => if h.wakes c then .next (s.setHart { h with st := h.running }) else .next s
  | .saved =>
    match h.save with
    | some r => if h.mayReady r then .next (s.setHart { h with st := .ready, since := s.cycle }) else .next s
    | none => .next s
  | _ => .next s

/-- A save between instructions, with no instruction recorded (R254, R262). -/
def boundaryTrap (h : Hart) (cause detail : BitVec 8) : Trap :=
  { cause := cause, detail := detail, rpc := h.pc, fel := false, fidx := 0, faddr := 0, ctr := ctrDone, performed := 0 }

/-- Such a save taken, its word being the one at PC (R254, R260). -/
def State.boundary (s : State) (cause detail : BitVec 8) : State :=
  s.notePcWord.taken (boundaryTrap s.hart cause detail)

/-- Whether a hart has a vector instruction to finish that is done on some lane groups or elements and not on others, or waits to
finish it (R160, R263, R266). -/
def Hart.midWord (h : Hart) : Bool :=
  h.restart.isSome && decide (h.st = .resident ∨ h.st = .waiting .stream ∨ h.st = .waiting .frontier)

/-- Whether a save between instructions is put off: while the hart waits with cause 1 or 6, holds order-first grants, or
has an instruction issued on some lane groups and not on others, which completes first (R13, R160, R266; log entry 50). -/
def Hart.deferred (h : Hart) : Bool :=
  decide (h.st = .waiting .fullEmpty) || h.handler.isSome || decide (h.tx.st = .opened) || h.midWord

/-- HART_RECLAIM: the focused hart, waiting with cause 2 to 5, is saved with cause 0x22, its cause kept (R12, R266). -/
def execHartReclaim (s : State) : Res :=
  let h := s.hart
  match h.st with
  | .waiting c => if c = .fullEmpty ∨ c = .emulation ∨ h.deferred = true then .next s
                  else .next (s.boundary cReclaim 0)
  | _ => .next s

/-! ## Hard pre-emption -/

/-- A pre-emption meets the fault for which the focused hart was saved in this cycle: PEND is set in its record (R256, R260),
and it counts as taken. -/
def State.pendFault (s : State) : State :=
  let h := s.hart
  match h.save with
  | some r =>
    if h.st = .saved ∧ r.cycle = s.cycle ∧ r.cause.toNat ≤ 0x0C ∧ r.pend = false then
      let r := { r with pend := true }
      let s := s.setHart { h with save := some r, soft := [] }
      if r.reserve then s
      else (s.putWords h [((if r.inHandler then 0x7C18 else 0x18), (headerWords h r).getD 3 0)]).getD s
    else s
  | none => s

/-- A hard pre-emption of the focused hart: taken now, or kept until it may be taken (R266); one that meets a fault in its
cycle is noted with it (R256). -/
def State.hardPreempt (s : State) (detail : BitVec 8) : State :=
  let h := s.hart
  if !h.onCore then s.pendFault
  else if h.deferred then s.setHart { h with hardReq := some (h.hardReq.getD detail), soft := [] }
  else (s.setHart { h with soft := [] }).boundary cHard (h.hardReq.getD detail)

/-- HARD_PREEMPTION of the focused hart (R254, R266). -/
def execHardPreemption (detail : BitVec 8) (s : State) : Res := .next (s.hardPreempt detail)

/-- DETAIL of the hard pre-emption that a soft request becomes: 2 when a spare remap raised it, else 1 (R254, R265, R342). -/
def SoftWhy.detail : SoftWhy → BitVec 8
  | .spare _ _ => 2
  | _ => 1

/-- SOFT_REQUEST_ESCALATION: requests that no longer apply lapse; the oldest not taken within 100 µs becomes a hard
pre-emption (R265, R342). -/
def execSoftRequestEscalation (s : State) : Res :=
  let h := s.hart
  let s := s.setHart { h with soft := s.standing h }
  match s.hart.soft.find? (fun r => decide (r.since + 100000 ≤ s.ns)) with
  | some r => .next (s.hardPreempt r.why.detail)
  | none => .next s

/-! ## Landing, compaction, read-ahead, performing -/

/-- PRODUCER_LANDS: the oldest producer's destinations become full (R49), its load having performed. -/
def execProducerLands (s : State) : Res :=
  match s.hart.pend with
  | [] => .next s
  | p :: ps =>
    let s := if s.hart.awaits p then s.settleLoads else s
    .next (s.upd (fun h => { h.setFulls true p.regs with pend := ps }))

/-- COMPACTION_COMPLETE: the strips held back on a core complete (R26). Their results are those of the unmerged strips,
which the model gives at issue (log entry 11). -/
def execCompactionComplete (core : BitVec 7) (s : State) : Res :=
  .next (s.mapHarts (fun h => if h.core = core.toNat then { h with heldStrips := [] } else h))

/-- STREAM_READ_AHEAD: a read generator of the focused hart, bound or loaded for `mop.s`, has `count` more elements to
supply, not past the end of its stream (R178, R179, R224). -/
def execStreamReadAhead (gen : BitVec 3) (count : BitVec 16) (s : State) : Res :=
  let h := s.hart
  let g := h.gen gen.toNat
  if (g.bound || g.loaded) && !g.isWrite then
    .next (s.setHart (h.setGen gen.toNat { g with ahead := min (g.ahead + count.toNat) (g.pat.total - g.pos) }))
  else .next s

/-- The oldest held write of a stream performs. -/
def performFirst (stream : Nat) : List HeldWrite → Option (HeldWrite × List HeldWrite)
  | [] => none
  | w :: ws => if w.stream = stream then some (w, ws) else (performFirst stream ws).map (fun p => (p.1, w :: p.2))

/-- The oldest load under way of a stream, and the others. -/
def firstLoad (stream : Nat) : List LateLoad → Option (LateLoad × List LateLoad)
  | [] => none
  | l :: ls => if l.stream = stream then some (l, ls) else (firstLoad stream ls).map (fun p => (p.1, l :: p.2))

/-- ACCESS_PERFORMS: the oldest write of a stream of the focused hart that is held performs, or else its oldest load under
way (R193, R195, R196). -/
def execAccessPerforms (stream : BitVec 4) (s : State) : Res :=
  match performFirst stream.toNat s.hart.wbuf with
  | some (w, ws) => .next ((s.upd (fun h => { h with wbuf := ws })).commit w.pad w.addr w.data)
  | none => match firstLoad stream.toNat s.hart.late with
    | some (l, ls) => .next ((s.upd (fun h => { h with late := ls })).landLate l)
    | none => .next s

/-! ## Placement and restore -/

/-- Whether a hart is next of its launch to leave created: harts do so in ascending index order (R12). -/
def State.inTurn (s : State) (h : Hart) : Bool :=
  decide (h.st ≠ .created) || s.harts.all (fun x => x.id.seq != h.id.seq || decide (x.st ≠ .created)
    || decide (h.id.hidx.toNat ≤ x.id.hidx.toNat))

/-- A context held by no hart, a grant and a block of rows for a hart on a core, within every budget (R11 to R17, R21,
R28, R190, R216): context, first lane group, width and first row. Of several free contexts, blocks and rows it is the
lowest number (log entry 73). -/
def State.slotFor (s : State) (h : Hart) (core : Nat) : Option (Nat × Nat × Nat × Nat) :=
  let (want, exact) := h.wantWidth
  (List.range 8).findSome? (fun ctx =>
    if (s.hartAt core ctx).isSome then none
    else match s.grantOn h.id core ctx want exact h.info.rwid with
      | none => none
      | some (g, w) =>
        if !s.budgetOk (s.lgbudsOf h.id) h.id core g w then none
        else if h.trows = 0 then some (ctx, g, w, 0)
        else
          let win := s.rowWindow core ctx
          (s.rowBlock h.id core win.1 win.2 h.trows).map (fun r => (ctx, g, w, r)))

/-- Whether some RCB over a hart has reached its energy budget, so that it is not resumed (R11). -/
def State.energyHeld (s : State) (h : Hart) : Bool := (suffixes (s.path h.id.rcb.toNat)).any (fun p => s.overEbud p)

/-- Whether a hart could be placed on a core now. -/
def State.placeable (s : State) (h : Hart) (core : Nat) : Bool :=
  decide (h.st = .created ∨ h.st = .ready) && s.mayUse h core && s.inTurn h && !s.energyHeld h
    && (s.slotFor h core).isSome

/-- Of two harts, the one R14 prefers: the higher priority, then the earlier entry; of harts that entered in one cycle the one
of the lower launch sequence number, then of the lower index (log entry 73). -/
def State.better (s : State) (a b : Hart) : Bool :=
  decide (s.prioOf b < s.prioOf a)
    || (s.prioOf a == s.prioOf b && (decide (a.since < b.since)
      || (a.since == b.since && (decide (a.id.seq.toNat < b.id.seq.toNat)
        || (a.id.seq == b.id.seq && decide (a.id.hidx.toNat ≤ b.id.hidx.toNat))))))

/-- The hart R14 prefers among a list. -/
def State.best (s : State) : List Hart → Option Hart
  | [] => none
  | h :: hs => match s.best hs with
    | none => some h
    | some x => if s.better h x then some h else some x

/-- What is left to redo after a restore (R263, R273): nothing when the domain has moved the resume PC, or when the
record names no instruction. A vector instruction recorded whose counters the domain has made 0xFFFF is passed over. -/
def SaveRec.toRestart (r : SaveRec) : Option Restart :=
  if r.rpc ≠ r.pc ∨ (r.vec = false ∧ r.ctr.all (fun c => c == 0xFFFF) ∧ r.skip.all (fun x => x == 0) ∧ r.fidx = 0 ∧ r.count = 0) then none
  else some { ctr := r.ctr, skip := r.skip, performed := r.performed, fidx := if r.fel then r.fidx else 0
              count := r.count }

/-- Lanes as a restart resumes them: faulted ones run again at their PC (R240). -/
def Section.resume (q : Section) : Section :=
  { q with lanes := q.lanes.map (fun l => if l.st = .faulted then { l with st := .running } else l) }

/-- A hart's context restored (R263, R265, R267): after a soft pre-emption its vector registers are dead; a replay, and an
instruction that a save between instructions cut off, go on unless the domain has moved the resume PC; nothing is read
ahead. -/
def Hart.restore (h : Hart) : Hart :=
  match h.save with
  | none => h
  | some r =>
    let h := if r.cause = cSoft then h.deadVectors else h
    let left : Option Restart := match r.toRestart with
      | some q => some q
      | none => if r.rpc = r.pc then h.restart else none
    { h with pc := r.rpc, restart := left, save := none, sect := h.sect.map Section.resume
             replay := if r.rpc = r.pc then h.replay else none
             counted := if left.isSome then h.counted else []
             gens := h.gens.map (fun g => { g with ahead := 0 }) }

/-- TZI is cleared in the save area of a released hart that is restored (R260). -/
def State.clearTzi (s : State) (h : Hart) : State :=
  match h.save with
  | none => s
  | some r =>
    if !r.released || r.reserve || r.inHandler then s
    else match s.getWord h 96 with
      | none => s
      | some v => (s.putWords h [(96, v - bits v 8 8 * 2 ^ 8)]).getD s

/-- Whether the save area from which a hart is to be restored holds an uncorrectable error (R256); that of a released hart has
been read at its release. -/
def State.areaLost (s : State) (h : Hart) : Bool :=
  match h.save with
  | none => false
  | some r =>
    !s.poison.isEmpty && !r.reserve && !r.released
      && (saveWords (saveKindOf r.cause) h r).any (fun p =>
        match s.translate h.info.asid .read (h.trapbase + BitVec.ofNat 64 p.1) with
        | .ok q => (List.range 8).any (fun i => s.poison.contains (q.pa + i))
        | .error _ => false)

/-- A hart whose save area cannot be read stays saved, with a machine-check of DETAIL 1, until it is released or cancelled
(R256). -/
def State.loseArea (s : State) (h : Hart) : State :=
  (s.modHart h.id (fun h => { h with st := .saved, save := h.save.map (fun r => { r with lost := true }) })).postHart h cMachine 1

/-- A hart becomes resident in the slot given: policy is read again, its credits start at 0, its watchdog interval
begins, in a persistent region a running handler's further one too (R7, R12, R22, R260, R270). -/
def State.placeHart (s : State) (h : Hart) (core : Nat) (slot : Nat × Nat × Nat × Nat) : State :=
  let s := s.clearTzi h
  let (ctx, g, w, row) := slot
  let h0 := h.restore
  let h' := { h0 with core := core, ctx := ctx, lgb := g, w := w, rowBase := row, wdogFrom := s.ns
                      info := s.refresh h.id.rcb.toNat h.info, partDue := false
                      handler := if h.info.pers then h0.handler.map (fun (k : Handler) => { k with overrunAt := none })
                        else h0.handler }
  let s := s.modHart h.id (fun _ => { h' with st := h'.running })
  s.creditAll { h' with st := h'.running } (fun _ => 0)

/-- The resident hart on which a ready hart of priority `p` raises a soft request: of the lowest priority below `p` on
the cores it may use, on the lowest core, in the lowest context (R14). -/
def State.victim (s : State) (h : Hart) (p : Nat) : Option Hart :=
  let l := s.harts.filter (fun x => decide (x.st = .resident) && s.mayUse h x.core && decide (x.info.prio.toNat < p))
  let key (x : Hart) : Nat := (x.info.prio.toNat * 128 + x.core) * 8 + x.ctx
  l.foldl (fun best x => match best with
    | none => some x
    | some b => if key x < key b then some x else some b) none

/-- Harts in the order R14 prefers them; `n` is their number. -/
def State.inOrder (s : State) : Nat → List Hart → List Hart
  | 0, _ => []
  | n + 1, l => match s.best l with
    | none => []
    | some h => h :: s.inOrder n (l.filter (fun x => !decide (x.id = h.id)))

/-- The ready harts that may use a core and find every context they may have held (R14). One that an exhausted EBUD holds back raises
no request (R11; log entry 102). -/
def State.contenders (s : State) (c : Nat) : List Hart :=
  let l := s.harts.filter (fun h => decide (h.st = .ready) && s.mayUse h c && !s.energyHeld h && s.noContext h)
  s.inOrder l.length l

/-- A ready hart without a context raises a soft request on the resident hart R14 names. -/
def State.contend (s : State) (h : Hart) : State :=
  match s.victim h (s.prioOf h) with
  | some v => s.modHart v.id (Hart.request s.ns (.ready h.id))
  | none => s

/-- HART_PLACEMENT on a core: the best hart that fits becomes resident; where none fits, each ready hart for which no
context is free raises a soft request (R12, R14 to R17, R28, R256, R267). -/
def execHartPlacement (core : BitVec 7) (s : State) : Res :=
  let c := core.toNat
  match s.best (s.harts.filter (fun h => s.placeable h c)) with
  | some h =>
    if s.areaLost h then .next (s.loseArea h)
    else match s.slotFor h c with
      | some slot => .next (s.placeHart h c slot)
      | none => .next s
  | none => .next ((s.contenders c).foldl State.contend s)

/-! ## Energy -/

/-- The static share of one lane group shared among the harts bound to it (R269). -/
def State.staticShare (s : State) (h : Hart) : Nat :=
  if h.onCore then
    ((List.range h.w).map (fun i => bits s.ewt.toNat 56 8 / max 1 (s.arbHarts h.core (h.lgb + i)).length)).sum
  else 0

/-- The RCBs over a hart whose subtrees have reached their budgets as the RCBs stand, by which a hart without a context is not
resumed (R11). -/
def State.heldOver (s : State) (h : Hart) : List Nat :=
  ((suffixes (s.path h.id.rcb.toNat)).filter (fun p => s.overEbud p)).map (fun p => p.headD 0)

/-- The RCBs whose subtrees have reached a budget, each once: the one that a hart in a context read when it became resident,
or the one that holds back a hart without a context (R7, R11). -/
def State.spentRcbs (s : State) : List Nat :=
  (s.harts.flatMap (fun h => if h.onCore then s.spentOver h
    else if h.st = .retired then [] else s.heldOver h)).eraseDups

/-- A soft request on a hart for an energy budget that it read and that its subtree has reached (R7, R11). -/
def State.budgetRequest (s : State) (h : Hart) : Hart :=
  match s.spentOver h with
  | r :: _ => h.request s.ns (.budget r)
  | [] => h

/-- The post of EBUD to the fault domain of a subtree (R11). The event names the RCB; its HIDX and TRAPBASE are 0 (log
entry 31). -/
def State.postEbud (s : State) (rcb : Nat) : State :=
  s.post { fdom := BitVec.ofNat 16 (s.effFdom (s.path rcb)), cause := 0xF0, detail := 0, rcb := BitVec.ofNat 64 rcb
           hidx := 0, trapbase := 0, time := BitVec.ofNat 64 s.ns, frame := 0 }

/-- ENERGY_TICK: when a µs of device time has passed, each bound hart is charged its static share, and the subtree sums
are compared with EBUD: soft requests, and a post for each RCB that has newly reached its budget (R11, R269). -/
def execEnergyTick (s : State) : Res :=
  if s.ns / 1000 ≤ s.lastTick then .next s
  else
    let s := s.mapHarts (fun h => if h.onCore then h.spend (s.staticShare h) else h)
    let s := { s with lastTick := s.lastTick + 1 }
    let spent := s.spentRcbs
    let old := s.exhausted.filter (fun r => spent.contains r.toNat || s.overEbud (s.path r.toNat))
    let new := spent.filter (fun r => !old.contains (BitVec.ofNat 56 r))
    let s := new.foldl (fun s r => s.postEbud r) (s.mapHarts s.budgetRequest)
    .next { s with exhausted := new.map (BitVec.ofNat 56) ++ old }

/-! ## Watchdog -/

/-- The expiry taken: the journal entry, then grants released as an undeclared access releases them, and the save with
cause 0x0D, which posts WDOG (R270, R312, R322, R333). -/
def State.expire (s : State) (detail : BitVec 8) : State := s.wdogRelease.boundary cWdog detail

/-- WATCHDOG_EXPIRY of the focused hart (R270). A hart waiting with cause 1 is saved once its producer lands, which the
expiry awaits; words issued on some lane groups complete on the others first, as for a hard pre-emption (R160, R266; log
entry 50); while the emulation handler runs, one further interval begins. -/
def execWatchdogExpiry (s : State) : Res :=
  let h := s.hart
  if !s.wdogDue h || h.midWord then .next s
  else match h.handler with
    | some k =>
      match k.overrunAt with
      | some _ => .next s
      | none => .next (s.setHart { h with handler := some { k with overrunAt := some s.ns } })
    | none =>
      let s := if h.st = .waiting .fullEmpty then s.settleLoads.upd (fun h => { h.landAll with st := .resident }) else s
      .next (s.expire 0)

/-- HANDLER_OVERRUN: no `eret` within one further interval ends the wait with DETAIL 1; the hart can only be cancelled
(R270). -/
def execHandlerOverrun (s : State) : Res :=
  let h := s.hart
  if s.overrun h then
    let s := s.expire 1
    .next (s.upd (fun h => { h with save := h.save.map (fun r => { r with contextError := true }) }))
  else .next s

/-! ## The whippletree (R22, R23) -/

/-- Passes of a rotation word (R159). -/
def Hart.passes (h : Hart) (w : Nat) : Nat :=
  let n := if bits w 10 6 = 0 then h.rotn.toNat else bits w 10 6
  let n := if bits w 8 2 = 2 then n else min n 44
  (n + 7) / 8

/-- The occupancy of a hart's head (R23): a gain-compensated rotation takes one cycle beside its passes. -/
def Hart.occupancy (h : Hart) (w : Nat) : Nat :=
  let m := w / 2 ^ 26
  if m = 0x18 then h.passes w + bits w 6 1
  else if m = 0x1F ∧ bits w 0 6 = 3 then 5
  else 1

/-- A lane group's arbiter lets a candidate issue its head: its credit falls by the occupancy where `charge`. -/
def State.issue (s : State) (core lg : Nat) (h : Hart) (charge : Bool) : State :=
  let k : Nat := match s.headOn lg h with
    | some w => h.occupancy w
    | none => 0
  let a := s.arb core lg
  s.setArb core lg { a with chosen := some h.ctx
                            credit := if charge then a.credit.set h.ctx (a.credit.getD h.ctx 0 - k) else a.credit }

/-- The candidate in the lowest context among those that pass a test. -/
def State.lowest (s : State) (core lg : Nat) (p : Hart → Bool) : Option Hart :=
  (List.range 8).findSome? (fun c => match s.arbHart core lg c with
    | some h => if s.candidateOn lg h && p h then some h else none
    | none => none)

/-- The rest of the cycle once the holder of the turn does not issue. -/
def State.afterTurn (s : State) (c g : Nat) (isCand : Bool) : State :=
  let a := s.arb c g
  if (s.arbHarts c g).any (fun h => h.info.wght != 0) then
    let s := if isCand then s
      else s.setArb c g { a with credit := a.credit.set a.turn (min (a.credit.getD a.turn 0) 0) }
    let s := s.passTurn c g
    match s.arbHart c g (s.arb c g).turn with
    | some h =>
      if s.candidateOn g h then s.issue c g h true
      else if (s.lowest c g (fun x => x.info.wght != 0)).isSome then s
      else match s.lowest c g (fun x => x.info.wght == 0) with
        | some x => s.issue c g x false
        | none => s
    | none => s
  else match s.lowest c g (fun _ => true) with
    | some x => s.issue c g x false
    | none => s

/-- No hart is let issue on a lane group. -/
def State.unchoose (s : State) (core lg : Nat) : State := s.setArb core lg { s.arb core lg with chosen := none }

/-- One cycle of a lane group's arbiter whose issue port is free (R22): the hart that holds the turn issues while it can
and has credit, else as the procedure goes on. -/
def State.arbCycle (s : State) (core lg : Nat) : State :=
  let s := s.unchoose core lg
  let a := s.arb core lg
  match s.arbHart core lg a.turn with
  | some h =>
    if s.candidateOn lg h && decide (0 < a.credit.getD a.turn 0) then s.issue core lg h true
    else s.afterTurn core lg (s.candidateOn lg h)
  | none => s.afterTurn core lg false

/-- The hart that a lane group's arbiter has let issue, while it can. -/
def State.chosenHart (s : State) (core lg : Nat) : Option Hart :=
  match (s.arb core lg).chosen with
  | some c => (s.arbHart core lg c).filter (fun h => s.candidateOn lg h)
  | none => none

/-- Whether a lane group's arbiter lets a hart issue now: it has been chosen in a cycle before, or is in this one (R22). -/
def State.arbitrate (s : State) (core lg : Nat) (id : HartId) : State × Bool :=
  let s := if (s.chosenHart core lg).isSome then s else s.arbCycle core lg
  match s.chosenHart core lg with
  | some x => if x.id = id then (s.unchoose core lg, true) else (s, false)
  | none => (s, false)

/-- Whether an instruction has still to run on a lane group of the grant: a restart, or a lane group that went ahead, may
have completed it there (R19, R263). -/
def Hart.owes (h : Hart) (g : Nat) : Bool :=
  match h.restart with
  | none => true
  | some r => if r.ctr.isEmpty then r.skip.getD g 0 == 0 else r.ctr.getD g 0xFFFF != 0xFFFF

/-- Whether every lane group of the focused hart's grant lets it issue its vector instruction now (R22). -/
def State.mayIssue (s : State) : State × Bool :=
  let h := s.hart
  ((List.range h.w).filter (fun g => h.owes g)).foldl (fun r i =>
    let q := r.1.arbitrate h.core (h.lgb + i) h.id
    (q.1, r.2 && q.2)) (s, true)

/-- WHIPPLETREE_ISSUE_CYCLE: one cycle of a lane group's arbiter whose issue port is free (R22). The hart it lets issue
comes to the focus; one chosen before holds the port until it issues. -/
def execWhippletreeIssueCycle (core : BitVec 7) (group : BitVec 3) (s : State) : Res :=
  let s := if (s.chosenHart core.toNat group.toNat).isSome then s else s.arbCycle core.toNat group.toNat
  match s.chosenHart core.toNat group.toNat with
  | some h => .next (s.focus h.id)
  | none => .next s

end Sys2Proof.Machine
end

