-- ==== Sys2Proof/Machine/HostSide.lean ====
section
/-! DEFINITION. The device in its system: host registers, queues and packets (R326 to R331), acceptance by stage (R339),
the event rings (R334), power (R338), the staged start (R339), spares (R342), peers (R343) and the host's and peers'
accesses. The commands are in Commands.lean. -/

namespace Sys2Proof.Machine

/-! ## Registers -/

/-- AQCTL written by the host (R326). -/
def execAqctl (v : BitVec 64) (s : State) : Res := .next (s.writeAqctl v)

/-- TAILq written by the host (R327). -/
def execTailq (q : BitVec 8) (tail : BitVec 32) (s : State) : Res := .next (s.writeTail q.toNat tail)

/-- A doubleword written to BAR0 at a byte offset (R326); between registers nothing is written. -/
def execRegisterWrite (offset : BitVec 16) (v : BitVec 64) (s : State) : Res :=
  if offset.toNat % 8 = 0 then .next (s.writeReg (offset.toNat / 8) v) else .next s

/-! ## Packets -/

/-- Doubleword `n` of a command's packet. -/
def Cmd.d (c : Cmd) (n : Nat) : Nat := (c.pkt.toList.getD n 0).toNat

/-- OPC and BAR of a command (R329). -/
def Cmd.opc (c : Cmd) : Nat := bits (c.d 0) 0 8
def Cmd.bar (c : Cmd) : Bool := bits (c.d 0) 8 1 == 1

/-- The commands a stage accepts (R339). -/
def stageAccepts (stage op : Nat) : Bool :=
  let s0 : List Nat := [0x01, 0x02, 0x0B, 0x0C, 0x0D, 0x0E]
  let s1 : List Nat := [0x03, 0x04, 0x05, 0x09, 0x0A, 0x0F]
  s0.contains op || (decide (1 ≤ stage) && s1.contains op) || decide (2 ≤ stage)

/-- Whether queue 0 refuses every packet but QDESTROY, its firmware having failed verification (R339). -/
def State.firmwareRefuses (s : State) (q : Nat) : Bool := s.stage == 0 && !s.firmwareGood && q == 0

/-- A packet is accepted: the journal entry of kind 0, HEAD past it, the command among those accepted (R328, R332). An
OPC not listed, or a packet refused for want of good firmware, completes at once with outcome 1 (R330, R339). -/
def State.accept (s : State) (q : Nat) (pkt : Vector (BitVec 64) 8) : State :=
  let c : Cmd := { seq := s.jhead, queue := q, pkt := pkt, began := false, leftOut := false }
  let s' := (s.note q c.opc 0 0 (BitVec.ofNat 64 (c.d 0 / 2 ^ 32))).setQueue q (fun x => { x with head := x.head + 1 })
  let s' := { s' with cmds := s'.cmds ++ [c] }
  if c.opc = 0 ∨ 0x0F < c.opc ∨ (s.firmwareRefuses q = true ∧ c.opc ≠ 2) then s'.complete c 1 else s'

/-- The packet holds no reserved bit that is nonzero: `ms` are the bits D1 to D6 that the command names (R329, R330). -/
def Cmd.clean (c : Cmd) (ms : List Nat) : Bool :=
  bits (c.d 0) 9 23 == 0 && bits (c.d 7) 56 8 == 0
    && (List.range 6).all (fun i => c.d (i + 1) &&& (2 ^ 64 - 1 - ms.getD i 0) == 0)

/-- Whether an accepted QDESTROY, in good form, names a queue: it is fetched no further (R330). -/
def State.destroyed (s : State) (q : Nat) : Bool :=
  s.cmds.any (fun c => c.opc == 2 && c.queue == 0 && c.clean [0x1FF] && bits (c.d 1) 0 8 == q)

/-- PACKET_FETCH of a queue: the packet at HEAD is copied whole and accepted; one that the stage does not accept yet
stays at HEAD, and one that cannot be read puts the queue into its error state (R327, R328, R339). -/
def execPacketFetch (queue : BitVec 8) (s : State) : Res :=
  let q := queue.toNat
  match s.queue? q with
  | none => .next s
  | some x =>
    if !x.enabled || x.err || x.stopped || s.destroyed q || x.head == x.tail then .next s
    else
      let a := x.base.toNat + 64 * (x.head.toNat % 2 ^ x.log2)
      if hbmBytes < a + 64 ∨ (List.range 64).any (fun i => s.poison.contains (a + i)) = true then .next (s.queueError q)
      else
        let pkt : Vector (BitVec 64) 8 := Vector.ofFn (fun i => BitVec.ofNat 64 (memRead s.mem (a + 8 * i.val) 8))
        let op := (pkt[0]).toNat % 256
        if 1 ≤ op ∧ op ≤ 0x0F ∧ stageAccepts s.stage op = false ∧ s.firmwareRefuses q = false then .next s
        else .next (s.accept q pkt)

/-! ## Event rings -/

/-- The first waiting event of a domain, and the others. -/
def firstEvent (fdom : BitVec 16) : List FdEvent → Option (FdEvent × List FdEvent)
  | [] => none
  | e :: es => if e.fdom = fdom then some (e, es) else (firstEvent fdom es).map (fun p => (p.1, e :: p.2))

/-- The doublewords of an event-ring entry (R334). -/
def FdEvent.words (e : FdEvent) : List Nat :=
  [e.cause.toNat + e.detail.toNat * 2 ^ 8, e.rcb.toNat, e.hidx.toNat, e.trapbase.toNat, e.time.toNat, e.frame.toNat, 0, 0]

/-- EVENT_RING_POST: the oldest event of a domain is written whole to its ring, then TAIL; it waits while the ring is
full or absent (R334; the counts are those of log entry 29). -/
def execEventRingPost (fdom : BitVec 16) (s : State) : Res :=
  match s.rings.find? (fun r => decide (r.fdom = fdom)), firstEvent fdom s.events with
  | some r, some (e, rest) =>
    let base := r.base.toNat
    let tail := memRead s.mem base 8
    let head := memRead s.mem (base + 8) 8
    if 2 ^ r.log2 ≤ (tail + 2 ^ 64 - head) % 2 ^ 64 then .next s
    else
      let s := { s with events := rest }
      let s := s.putDevice (base + 64 + 64 * (tail % 2 ^ r.log2)) (e.words.flatMap (natLe 8))
      .next (s.writeDevice base ((tail + 1) % 2 ^ 64))
  | _, _ => .next s

/-- An event to the management domain that names no hart (R214, R334, R342, R343). -/
def State.postManagement (s : State) (code : Nat) : State :=
  s.post { fdom := 0, cause := Config.eventCause code, detail := 0, rcb := 0, hidx := 0, trapbase := 0
           time := BitVec.ofNat 64 s.ns, frame := 0 }

/-! ## Start and power -/

/-- START_STAGE: firmware that passes verification sets STAGE[8]; then S1, whose start begins the beats, S2, and the end
of S2 (R317, R339). Firmware that fails leaves the device in S0. Each stage change writes a journal entry of kind 5. -/
def execStartStage (s : State) : Res :=
  if s.stage = 0 then
    if !s.firmwareGood then .next s
    else if !s.verified then .next { s with verified := true }
    else
      let s := { s with stage := 1, beatFrom := s.ns, beatNo := 0 }
      .next (s.note 0 0 5 0 (Config.packDetail 1 s.joined.toNat))
  else if s.stage = 1 then
    let s := { s with stage := 2 }
    .next (s.note 0 0 5 0 (Config.packDetail 2 s.joined.toNat))
  else .next { s with startDone := true }

/-- DIE_JOIN: in S2 a die joins after its self-test, with a journal entry of kind 5 (R339). -/
def execDieJoin (die : BitVec 2) (s : State) : Res :=
  if s.stage = 2 ∧ s.joined.getLsbD die.toNat = false ∧ s.startDone = false then
    let s := { s with joined := s.joined ||| (1#4 <<< die.toNat) }
    .next (s.note 0 0 5 0 (Config.packDetail 2 s.joined.toNat))
  else .next s

/-- POWER_STATE_CHANGE to the deepest state allowed (R338). -/
def execPowerStateChange (s : State) : Res :=
  if s.deepest = s.pstate.toNat then .next s else .next (s.setPower s.deepest)

/-! ## Eviction, errors, spares -/

/-- The accesses issued by every hart that passes a test have performed: its held writes and its loads under way. -/
def State.drainHarts (s : State) (p : Hart → Bool) : State :=
  ((s.harts.filter p).map (fun h => h.id)).foldl (fun s id => s.onHart id (fun s => s.settleLoads.drainAll)) s

/-- EVICTION: an unpinned page is taken once every accepted write has performed, whichever address space it came from; its
translations go with it (R213). -/
def execEviction (asid : BitVec 16) (va : BitVec 56) (s : State) : Res :=
  match s.pages.find? (fun p => pageCovers p asid va.toNat) with
  | none => .next s
  | some p =>
    if p.pinned then .next s
    else
      let s := s.drainHarts (fun _ => true)
      .next { s with pages := s.pages.filter (fun x => !pageCovers x asid va.toNat)
                     tlb := s.tlb.filter (fun x => !pageCovers x asid va.toNat) }

/-- UNCONSUMED_ERROR: an uncorrectable error at a byte of memory or of a scratchpad that is never consumed is posted to the
management domain (R214). -/
def execUnconsumedError (byte : ErrorByte) (s : State) : Res :=
  match byte with
  | .mem pa =>
    if s.poison.contains pa.toNat then
      .next ({ s with poison := s.poison.filter (fun p => p != pa.toNat) }.postManagement 1)
    else .next s
  | .pad a =>
    if s.padPoison.contains a.toNat then
      .next ({ s with padPoison := s.padPoison.filter (fun p => p != a.toNat) }.postManagement 1)
    else .next s

/-- Spares of a kind in a unit's group, and the group (R1, R342). Units are numbered across the package. -/
def spareGroup (k : SpareKind) (unit : Nat) : Nat × Nat :=
  match k with
  | .laneGroup => (unit / 8, 1)
  | .core => (unit / 32, 2)
  | .l2Slice => (unit / 32, 1)
  | .pseudoChannel => (unit / 2 ^ 16, 1)
  | .dieLane => (unit / 64, 4)

/-- Whether a number names a unit in service: 1,024 lane groups, 128 cores, 1,024 L2 slices, 8 stacks (R1, R2). The spec
counts neither the pseudo-channels of a stack nor the lanes between dies. -/
def unitInService (k : SpareKind) (unit : Nat) : Bool :=
  match k with
  | .laneGroup | .l2Slice => decide (unit < 1024)
  | .core => decide (unit < 128)
  | .pseudoChannel => decide (unit / 2 ^ 16 < 8)
  | .dieLane => true

/-- SPARE_REMAP: the farrier remaps a logical unit onto a spare of its group, the newest remap of a unit being its mapping:
the journal entry first, then a soft request on each hart concerned. With no spare left domain 0 receives the event (R2,
R333, R342). A group's spares are numbered from 0, and a second remap of a unit leaves its earlier spare taken (log entry 58). -/
def execSpareRemap (kind : SpareKind) (unit : BitVec 32) (spare : BitVec 16) (s : State) : Res :=
  let (g, n) := spareGroup kind unit.toNat
  let used := s.remaps.filter (fun x => decide (x.kind = kind) && x.group == g)
  if !unitInService kind unit.toNat then .next s
  else if n ≤ used.length then .next (s.postManagement 2)
  else if n ≤ spare.toNat ∨ used.any (fun x => x.spare == spare.toNat) = true then .next s
  else
    let s := s.note 0 0 2 0 (Config.packDetail unit.toNat spare.toNat)
    let s := { s with remaps := { kind := kind, unit := unit.toNat, group := g, spare := spare.toNat } :: s.remaps }
    .next (s.mapHarts (fun h => if spareAffects kind unit.toNat h then h.request s.ns (.spare kind unit.toNat) else h))

/-! ## Peers and the host's accesses -/

/-- PEER_PORT_LOST: domain 0 is told, and each peer sub-operation through the port completes with a machine-check at its
element (R343; `State.admitted`). -/
def execPeerPortLost (port : BitVec 4) (s : State) : Res :=
  if 12 ≤ port.toNat ∨ s.portsLost.contains port = true then .next s
  else .next ({ s with portsLost := port :: s.portsLost }.postManagement 3)

/-- The new value a peer's scalar atomic stores, from operation, old value, operand and expected value (R70). -/
def peerAmo (op : BitVec 3) (n old v x : Nat) : Nat :=
  match op.toNat with
  | 0 => (old + v) % 2 ^ (8 * n)
  | 1 => v
  | 2 => if old = x then v else old
  | 3 => signedMin n old v
  | 4 => signedMax n old v
  | 5 => old &&& v
  | 6 => old ||| v
  | _ => old ^^^ v

/-- The operation of R184 that a peer names. -/
def peerOp (o : BitVec 2) : VAmo :=
  match o.toNat with
  | 0 => .add
  | 1 => .min
  | 2 => .max
  | _ => .swap

/-- PEER_PORT_REQUEST: a peer's read, write or atomic served here, as completer (R343). A read changes nothing; an atomic
that is not naturally aligned, or of a type the operation does not take, is no request of R343 (log entry 112). Floating-point addition
rounds to nearest (log entry 89). -/
def execPeerPortRequest (port : BitVec 4) (op : PeerOp) (s : State) : Res :=
  if 12 ≤ port.toNat ∨ s.portsLost.contains port = true then .next s
  else match op with
    | .read pa n => if hbmBytes < pa.toNat + n.toNat then .fault (.noSuchPhysicalByte pa.toNat) else .next s
    | .write pa bs =>
      if hbmBytes < pa.toNat + bs.length then .fault (.noSuchPhysicalByte pa.toNat) else .next (s.commitMem pa.toNat bs)
    | .amo o wide pa v x =>
      let n := if wide then 8 else 4
      let a := pa.toNat
      if a % n ≠ 0 then .next s
      else if hbmBytes < a + n then .fault (.noSuchPhysicalByte a)
      else
        let w := peerAmo o n (memRead s.mem a n) (v.toNat % 2 ^ (8 * n)) (x.toNat % 2 ^ (8 * n))
        .next (s.commitMem a (natLe n w))
    | .vamo o tag pa v =>
      let t : Ty := ⟨tag.toNat, 0⟩
      let n := t.w / 8
      let a := pa.toNat
      if (peerOp o).accepts t = false ∨ a % n ≠ 0 then .next s
      else if hbmBytes < a + n then .fault (.noSuchPhysicalByte a)
      else .next (s.commitMem a (natLe n ((peerOp o).apply t RNE (memRead s.mem a n) (v.toNat % 2 ^ t.w)).1))

/-- Whether a page's bases are multiples of its size, and a page of HBM lies within it (R1). -/
def pageAligned (p : Page) : Bool :=
  p.vbase.toNat % pageBytes p.size == 0 && p.pbase.toNat % pageBytes p.size == 0
    && (decide (p.attr ≠ .hbm) || decide (p.pbase.toNat + pageBytes p.size ≤ hbmBytes))

/-- Whether two pages of one address space overlap. -/
def pagesMeet (p q : Page) : Bool :=
  decide (p.asid = q.asid) && overlaps p.vbase.toNat (pageBytes p.size) q.vbase.toNat (pageBytes q.size)

/-- The page tables with the pages that pass a test taken out; they stay in force for now where `old` (R212). -/
def State.dropPages (s : State) (p : Page → Bool) (old : Bool) : State :=
  { s with pages := s.pages.filter (fun x => !p x)
           tlb := if old then s.pages.filter p ++ s.tlb else s.tlb.filter (fun x => !p x) }

/-- HOST_MEMORY_ACCESS: the host reads or writes device memory, reads the window of BAR2 (`State.windowByte`), or edits the
page tables it owns (R212, R326, R327; log entry 6). -/
def execHostMemoryAccess (op : HostOp) (s : State) : Res :=
  match op with
  | .read pa n => if hbmBytes < pa.toNat + n.toNat then .fault (.noSuchPhysicalByte pa.toNat) else .next s
  | .write pa bs =>
    if hbmBytes < pa.toNat + bs.length then .fault (.noSuchPhysicalByte pa.toNat) else .next (s.commitMem pa.toNat bs)
  | .readWindow _ _ => .next s
  | .setPage p old =>
    if !pageAligned p then .next s
    else
      let s := s.dropPages (pagesMeet p) old
      .next { s with pages := p :: s.pages }
  | .dropPage asid va old => .next (s.dropPages (fun x => pageCovers x asid va.toNat) old)

end Sys2Proof.Machine
end

