-- ==== Sys2Proof/Machine/Commands.lean ====
section
/-! DEFINITION. The fifteen commands of the host's queues (R330, R331): each acts on the accepted command in hand. -/

namespace Sys2Proof.Machine

/-! ## The command in hand -/

/-- The command in hand when its OPC is the one named. -/
def State.handCmd (s : State) (op : Nat) : Option Cmd :=
  match s.inHand with
  | none => none
  | some q => s.cmds.find? (fun c => decide (c.seq = q) && c.opc == op)

/-- Commands of the same queue accepted earlier and not completed. -/
def State.earlier (s : State) (c : Cmd) : List Cmd :=
  s.cmds.filter (fun x => x.queue == c.queue && decide (x.seq.toNat < c.seq.toNat))

/-- Whether a command's effect may begin: every earlier command of its queue has begun, and has completed for BAR
(R331). -/
def State.mayBegin (s : State) (c : Cmd) : Bool := if c.bar then (s.earlier c).isEmpty else (s.earlier c).all (fun x => x.began)

/-- The launch index that a RELEASE or a CANCEL names; none for every hart of the launch (R330). -/
def Cmd.index (c : Cmd) : Option Nat := if c.opc = 7 ∧ bits (c.d 2) 32 1 = 1 then none else some (bits (c.d 2) 0 32)

/-- Whether two of them name a hart in common. -/
def Cmd.meets (c x : Cmd) : Bool :=
  x.d 1 == c.d 1 && (c.index.isNone || x.index.isNone || c.index == x.index)

/-- Whether a RELEASE or CANCEL accepted earlier than this one, naming one of its harts, has not begun yet: the one
accepted first takes effect (R334; log entry 51). -/
def State.overtakes (s : State) (c : Cmd) : Bool :=
  s.cmds.any (fun x => (x.opc == 6 || x.opc == 7) && !x.began && decide (x.seq.toNat < c.seq.toNat) && c.meets x)

/-- All 64 bits of an operand doubleword. -/
def whole : Nat := 2 ^ 64 - 1

/-- A command begins its effect. -/
def State.begin (s : State) (c : Cmd) : State :=
  { s with cmds := s.cmds.map (fun x => if x.seq = c.seq then { x with began := true } else x) }

/-- A command that leaves some hart out (R334). -/
def State.leaveOut (s : State) (c : Cmd) (left : Bool) : State :=
  { s with cmds := s.cmds.map (fun x => if x.seq = c.seq then { x with leftOut := left } else x) }

/-- THE FRAME of a command: nothing happens while it may not begin; a malformed packet completes with outcome 1; else
its effect. -/
def State.command (s : State) (op : Nat) (ms : List Nat) (effect : Cmd → State) : Res :=
  match s.handCmd op with
  | none => .next s
  | some c =>
    if !c.began && !s.mayBegin c then .next s
    else if !c.clean ms then .next (s.complete c 1)
    else .next (effect c)

/-! ## Harts named by a command -/

/-- The harts of the oldest launch of an RCB that have not retired: all of them, or the one of an index. -/
def State.named (s : State) (rcb : Nat) (idx : Option Nat) : List Hart :=
  let l := s.harts.filter (fun h => h.id.rcb.toNat == rcb && decide (h.st ≠ .retired)
    && (match idx with
      | none => true
      | some i => h.id.hidx.toNat == i))
  let oldest := (l.map (fun h => h.id.seq.toNat)).foldl min (2 ^ 64)
  l.filter (fun h => h.id.seq.toNat == oldest)

/-- A hart cancelled: one that holds no context retires at once; another is hard pre-empted with DETAIL 3 and retires
once it is saved (R330). -/
def State.cancelHart (s : State) (id : HartId) : State :=
  s.onHart id (fun s =>
    let s := s.upd (fun h => { h with cancelling := true })
    let s := s.hardPreempt 3
    if s.hart.onCore then s else s.retire true)

/-- Whether a RELEASE of a hart has taken effect and the hart has not resumed since (R334). -/
def Hart.releasePending (h : Hart) : Bool :=
  match h.save with
  | some r => r.released
  | none => false

/-- Harts being cancelled that have been saved meanwhile retire. -/
def State.reap (s : State) (p : Hart → Bool) : State :=
  ((s.harts.filter (fun h => h.cancelling && !h.onCore && decide (h.st ≠ .retired) && p h)).map (fun h => h.id)).foldl
    (fun s id => s.onHart id (fun s => s.retire true)) s

/-! ## Queues -/

/-- QCREATE (R330). -/
def execQcreate (s : State) : Res :=
  s.command 0x01 [whole, 0xFFFFFFFF00001FFF] (fun c =>
    let q := bits (c.d 2) 0 8
    let k := bits (c.d 2) 8 5
    if c.queue ≠ 0 ∨ q = 0 ∨ k < 4 ∨ 16 < k ∨ c.d 1 % 4096 ≠ 0 then s.complete c 1
    else if (s.queue? q).isSome then s.complete c 5
    else
      let x : Queue := { id := q, base := BitVec.ofNat 64 (c.d 1), log2 := k, tail := 0, head := 0, enabled := true
                         err := false, stopped := false, ltol := BitVec.ofNat 32 (bits (c.d 2) 32 32) }
      { s with queues := s.queues ++ [x] }.powerUp.complete c 0)

/-- The launches of a queue cancelled, and its LAUNCH commands that have not begun (R330). -/
def State.cancelQueue (s : State) (q : Nat) : State :=
  let seqs := (s.launches.filter (fun l => l.queue == q)).map (fun l => l.seq)
  let ids := (s.harts.filter (fun h => seqs.contains h.id.seq && decide (h.st ≠ .retired))).map (fun h => h.id)
  let s := ids.foldl (fun s id => s.cancelHart id) s
  (s.cmds.filter (fun c => c.queue == q && c.opc == 5 && !c.began)).foldl (fun s c => s.complete c 4) s

/-- QDESTROY: fetching stops, the launches are cancelled with CANCEL, and the command completes, its queue gone, once
every launch of the queue has ended (R330). -/
def execQdestroy (s : State) : Res :=
  s.command 0x02 [0x1FF] (fun c =>
    let q := bits (c.d 1) 0 8
    if c.queue ≠ 0 then s.complete c 1
    else if (s.queue? q).isNone then s.complete c 5
    else
      let s := (s.begin c).setQueue q (fun x => { x with stopped := true })
      let s := if bits (c.d 1) 8 1 = 1 then s.cancelQueue q else s
      if s.launches.any (fun l => l.queue == q) || s.cmds.any (fun x => x.queue == q && x.opc == 5) then s
      else { s with queues := s.queues.filter (fun x => x.id != q) }.complete c 0)

/-- SETLTOL; for queue 0 AQCTL[63:32] too (R330). -/
def execSetltol (s : State) : Res :=
  s.command 0x0E [0xFF, 0xFFFFFFFF] (fun c =>
    let q := bits (c.d 1) 0 8
    let l := BitVec.ofNat 32 (c.d 2)
    if q ≠ 0 ∧ (s.queue? q).isNone = true then s.complete c 5
    else
      let s := if q = 0 then { s with aqctl := (s.aqctl &&& 0xFFFFFFFF) ||| (l.setWidth 64 <<< 32) } else s
      ((s.setQueue q (fun x => { x with ltol := l })).powerUp).complete c 0)

/-! ## Objects and launches -/

/-- The end of the code window's part in use, on a page boundary. -/
def State.nextEntry (s : State) : Nat :=
  s.objs.foldl (fun e o => max e ((o.entry.toNat + o.len + 2 ^ 18 - 1) / 2 ^ 18 * 2 ^ 18)) codeWindow

/-- The handle and entry base written for a LOAD. -/
def State.loadResult (s : State) (c : Cmd) (o : Obj) : State :=
  s.putDevice (c.d 3) (natLe 8 o.handle.toNat ++ natLe 8 o.entry.toNat)

/-- LOAD: the image is verified and translated; one whose digest is that of a loaded object gives the same handle with a
reference more (R340, R341). Outcome 1 for an image that reaches past HBM's 384 GiB is log entry 90. -/
def execLoad (s : State) : Res :=
  s.command 0x03 [whole, whole, whole] (fun c =>
    if hbmBytes < c.d 1 + c.d 2 then s.complete c 1
    else
      let image := memBytes s.mem (c.d 1) (c.d 2)
      let digest := Config.sm3 image
      match s.objs.find? (fun o => decide (o.digest = digest)) with
      | some o =>
        let add (x : Obj) : Obj := if x.handle = o.handle then { x with refs := c.queue :: x.refs } else x
        let s := { s with objs := s.objs.map add }
        (s.loadResult c o).complete c 0
      | none =>
        match Config.orieder image with
        | none => s.complete c 3
        | some native =>
          let e := s.nextEntry
          if hbmBytes < objectStore + (e - codeWindow) + native.length then s.complete c 3
          else
            let o : Obj := { handle := c.seq + 1, digest := digest, entry := BitVec.ofNat 64 e, len := native.length
                             refs := [c.queue] }
            let s := { s with objs := s.objs ++ [o] }.putDevice (objectStore + (e - codeWindow)) native
            (s.loadResult c o).complete c 0)

/-- UNLOAD: after the queue's earlier launches one of its references is dropped; the object is freed at 0 (R341). -/
def execUnload (s : State) : Res :=
  s.command 0x04 [whole] (fun c =>
    if (s.earlier c).any (fun x => x.opc == 5) then s
    else match s.objs.find? (fun o => o.handle.toNat == c.d 1 && o.refs.contains c.queue) with
      | none => s.complete c 5
      | some o =>
        let objs := s.objs.map (fun x => if x.handle = o.handle then { x with refs := x.refs.erase c.queue } else x)
        { s with objs := objs.filter (fun x => !x.refs.isEmpty) }.complete c 0)

/-- A hart of a launch in its start state (R9). -/
def Hart.create (id : HartId) (info : LaunchInfo) (args now : Nat) : Hart :=
  let h := Hart.blank id info now
  let sp := info.stkb.toNat + (id.hidx.toNat + 1) * info.stks.toNat
  let r := (h.sregs.set 2 (BitVec.ofNat 64 sp)).set 3 (id.hidx.setWidth 64)
  { h with sregs := (r.set 4 (info.hcnt.setWidth 64)).set 5 (BitVec.ofNat 64 args) }

/-- A launch whose checks have passed: levels written, harts created (R4, R7, R9). -/
def State.startLaunch (s : State) (c : Cmd) : State :=
  let rcb := c.d 1
  let info := s.launchInfo rcb
  let n := info.hcnt.toNat
  let args := bits (s.rcbD rcb 11) 0 56
  let done := BitVec.ofNat 56 (s.rcbD rcb 17)
  let l : Launch :=
    { rcb := BitVec.ofNat 56 rcb, seq := c.seq, queue := c.queue, handle := BitVec.ofNat 64 (c.d 2), left := n,
      cancelled := false, info, donea := done, donev := BitVec.ofNat 64 (s.rcbD rcb 18) }
  let new := (List.range n).map (fun i =>
    let id : HartId := { rcb := BitVec.ofNat 56 rcb, hidx := BitVec.ofNat 32 i, seq := c.seq }
    Hart.create id info args s.cycle)
  let s := (s.begin c).writeLevels rcb
  { s with launches := s.launches ++ [l], parked := s.parked ++ new }.powerUp

/-- LAUNCH: waits for a die of its CMASK to join; rejected with outcome 2 under R8, where its handle has no reference
left, where CODE or CODE + SEGB lies outside the object, or where no such die joined by the end of S2 (R8, R331, R339
to R341). -/
def execLaunch (s : State) : Res :=
  s.command 0x05 [whole, whole] (fun c =>
    if c.began then s
    else
      let rcb := c.d 1
      let mask := s.rcbD rcb 15 + s.rcbD rcb 16 * 2 ^ 64
      let code := bits (s.rcbD rcb 9) 0 56
      let segb := bits (s.rcbD rcb 10) 0 32
      let inside := match s.objs.find? (fun o => o.handle.toNat == c.d 2) with
        | none => false
        | some o => decide (o.entry.toNat ≤ code) && decide (code < o.entry.toNat + o.len)
            && decide (code + segb ≤ o.entry.toNat + o.len)
      if 2 ^ 56 ≤ rcb ∨ s.launchOk rcb = false ∨ inside = false then s.complete c 2
      else if (List.range 4).any (fun d => s.joined.getLsbD d && (mask == 0 || bits mask (32 * d) 32 != 0)) then
        s.startLaunch c
      else if s.startDone then s.complete c 2
      else s)

/-! ## Harts -/

/-- Doublewords of the save area at the offsets listed, or the fault of the first that cannot be read; cause 0x09 for an
uncorrectable error (R256, R261). -/
def State.areaWords (s : State) (h : Hart) : List Nat → Except Flt (List Nat)
  | [] => .ok []
  | o :: os =>
    let va := h.trapbase + BitVec.ofNat 64 o
    match s.translate h.info.asid .read va with
    | .error f => .error f
    | .ok p =>
      if (List.range 8).any (fun i => s.poison.contains (p.pa + i)) then .error ⟨cMachine, 1, va⟩
      else match s.areaWords h os with
        | .error f => .error f
        | .ok ws => .ok (memRead s.mem p.pa 8 :: ws)

/-- Doubleword offsets of `n` doublewords from an offset upward. -/
def offsets (o n : Nat) : List Nat := (List.range n).map (fun i => o + 8 * i)

/-- The header's RW fields as a release reads them (R260). -/
structure Edit where
  rpc : Nat
  ctr : List (BitVec 16)
  skip : List Nat
  ten : Nat
  tzi : Nat
  flags : Nat
  rmode : Nat
  rotn : Nat
  dens : Nat
  seed : Nat
  repth : Nat

/-- The fields from D1, D8, D9, D10, D12, D13, D14 and D15. -/
def Edit.of (l : List Nat) : Edit :=
  let d (i : Nat) : Nat := l.getD i 0
  { rpc := bits (d 0) 0 56, ctr := (List.range 8).map (fun g => BitVec.ofNat 16 (bits (d (1 + g / 4)) (16 * (g % 4)) 16))
    skip := (List.range 8).map (fun g => bits (d 3) (3 * g) 3), ten := bits (d 4) 0 8, tzi := bits (d 4) 8 8
    flags := bits (d 5) 0 7, rmode := bits (d 5) 8 3, rotn := bits (d 5) 16 6, dens := bits (d 5) 24 7
    seed := d 6, repth := d 7 }

/-- No value that `puts` would refuse (R84, R261). -/
def Edit.ok (e : Edit) : Bool :=
  decide (e.rmode ≤ 4) && decide (1 ≤ e.rotn) && decide (e.rotn ≤ 47) && decide (e.dens ≤ 64)

/-- The header's edits in a context: named state, and tiles enabled, disabled or zeroed (R258, R260). TZI enables a tile by itself, and
TEN alone gives one that was disabled the device's own copy of its data (log entry 109). -/
def Hart.edit (h : Hart) (e : Edit) : Hart :=
  let tiles := h.tiles.mapIdx (fun t x =>
    if bits e.tzi t 1 = 1 then { enabled := true, data := 0 } else { x with enabled := bits e.ten t 1 == 1 })
  { h with flags := BitVec.ofNat 64 e.flags, rmode := BitVec.ofNat 3 e.rmode, rotn := BitVec.ofNat 6 e.rotn
           dens := BitVec.ofNat 7 e.dens, seed := BitVec.ofNat 64 e.seed, repth := BitVec.ofNat 64 e.repth, tiles := tiles }

/-- Scalars as read back; s0 stays zero. -/
def Hart.putScalars (h : Hart) (l : List Nat) : Hart :=
  { h with sregs := h.sregs.mapIdx (fun i _ => if i = 0 then 0 else BitVec.ofNat 64 (l.getD i 0)) }

/-- Vector data as read back: 4 × W doublewords a register, upward from v0. -/
def Hart.putVectors (h : Hart) (l : List Nat) : Hart :=
  { h with vregs := h.vregs.mapIdx (fun i x =>
      { x with data := BitVec.ofNat 2048 (packNat 64 ((l.drop (4 * h.w * i)).take (4 * h.w))) }) }

/-- Masks m0 to m7 as read back. -/
def Hart.putMasks (h : Hart) (l : List Nat) : Hart :=
  { h with masks := h.masks.mapIdx (fun i _ => BitVec.ofNat 8192 (packNat 64 ((l.drop (128 * i)).take 128))) }

/-- What a release reads back: the header's RW fields, the scalars, the vector data and the masks; the context and the record with
them, or the fault (R261). After a fault in the handler the frame's RPC stands for the header, but where the fault was a page
fault, after which the handler resumes at its faulting instruction (R257; log entry 104). -/
def State.readBack (s : State) (h : Hart) (r : SaveRec) : Except Flt (Option (Hart × SaveRec)) :=
  let soft := decide (r.cause = cSoft)
  let hdr := if r.inHandler then [0x7C08] else [8, 64, 72, 80, 96, 104, 112, 120]
  let vec := if soft then [] else (List.range 32).flatMap (fun i => offsets (0x300 + 256 * i) (4 * h.w))
  match s.areaWords h hdr, s.areaWords h (offsets (if r.inHandler then 0x7D00 else 0x200) 32), s.areaWords h vec,
      s.areaWords h (offsets 0x2300 1024) with
  | .ok hd, .ok sc, .ok ve, .ok ma =>
    let h1 := (h.putScalars sc).putMasks ma
    let h1 := if soft then h1 else h1.putVectors ve
    if r.inHandler then
      .ok (some (h1, if r.cause = cPage then r else { r with rpc := BitVec.ofNat 64 (bits (hd.getD 0 0) 0 56) }))
    else
      let e := Edit.of hd
      if e.ok then .ok (some (h1.edit e, { r with rpc := BitVec.ofNat 64 e.rpc, ctr := e.ctr, skip := e.skip }))
      else .ok none
  | .error f, _, _, _ => .error f
  | _, .error f, _, _ => .error f
  | _, _, .error f, _ => .error f
  | _, _, _, .error f => .error f

/-- A hart released: ready when nothing else keeps it saved (R12, R255). -/
def State.releaseHart (s : State) (h : Hart) (r : SaveRec) : State :=
  let r := { r with released := true }
  let ready := h.mayReady r
  s.modHart h.id (fun _ => { h with save := some r, st := if ready then .ready else .saved
                                    since := if ready then s.cycle else h.since })

/-- RELEASE of a saved hart (R255, R261): outcome 5 where it is not saved or is being cancelled, 6 where a value or an
access is refused. A context kept in the reserve slot is restored from there. -/
def execRelease (s : State) : Res :=
  s.command 0x06 [whole, 0xFFFFFFFF] (fun c =>
    if s.overtakes c then s
    else match (s.named (c.d 1) (some (c.d 2))).find? (fun h => decide (h.st = .saved) && !h.cancelling) with
      | none => s.complete c 5
      | some h =>
        match h.save with
        | none => s.complete c 5
        | some r =>
          if r.contextError then s.complete c 6
          else if r.reserve then (s.releaseHart h r).complete c 0
          else match s.readBack h r with
            | .ok (some (h', r')) => (s.releaseHart h' r').complete c 0
            | .ok none => s.complete c 6
            | .error f =>
              if f.cause = cMachine then (s.postHart h cMachine 1).complete c 6 else s.complete c 6)

/-- CANCEL of one hart or of every hart of the launch (R330, R334): completes once each is cancelled, with outcome 0, or 5 where
an earlier RELEASE has taken effect on one of them, which runs on. -/
def execCancel (s : State) : Res :=
  s.command 0x07 [whole, 0x1FFFFFFFF] (fun c =>
    let idx := c.index
    let mine (h : Hart) : Bool := h.id.rcb.toNat == c.d 1 && (match idx with
      | none => true
      | some i => h.id.hidx.toNat == i)
    let finish (s : State) (left : Bool) : State :=
      if s.harts.any (fun h => h.cancelling && decide (h.st ≠ .retired) && mine h) then s
      else s.complete c (if left then 5 else 0)
    if c.began then finish (s.reap mine) c.leftOut
    else if s.overtakes c then s
    else
      let all := s.named (c.d 1) idx
      let l := all.filter (fun h => !h.releasePending)
      if l.isEmpty then s.complete c 5
      else
        let left := decide (l.length < all.length)
        finish ((l.map (fun h => h.id)).foldl (fun s id => s.cancelHart id) ((s.begin c).leaveOut c left)) left)

/-- Whether a hard pre-emption of some hart of a launch is still put off (R266). -/
def State.preemptPending (s : State) (rcb : Nat) : Bool := (s.named rcb none).any (fun h => h.onCore && h.hardReq.isSome)

/-- PREEMPT of each hart of a launch: soft requests, or with HARD a hard pre-emption with DETAIL 3, complete once none is
put off any more (R265, R266, R330, R331). -/
def execPreempt (s : State) : Res :=
  s.command 0x08 [whole, 1] (fun c =>
    let l := s.named (c.d 1) none
    if c.began then (if s.preemptPending (c.d 1) then s else s.complete c 0)
    else if l.isEmpty then s.complete c 5
    else if bits (c.d 2) 0 1 = 1 then
      let s := (l.map (fun h => h.id)).foldl (fun s id => s.onHart id (fun s => s.hardPreempt 3)) (s.begin c)
      if s.preemptPending (c.d 1) then s else s.complete c 0
    else
      (l.foldl (fun s h => s.modHart h.id (Hart.request s.ns .host)) s).complete c 0)

/-! ## Memory set up by the host -/

/-- Whether a page holds a translation of a range of an address space; length 0 names all of it. -/
def inRange (asid : BitVec 16) (base len : Nat) (p : Page) : Bool :=
  decide (p.asid = asid) && (len == 0 || overlaps base len p.vbase.toNat (pageBytes p.size))

/-- Whether a frame of the KV window lies in a range of an address space that an old or a new entry names as its owner. -/
def State.frameInRange (s : State) (asid : BitVec 16) (base len : Nat) (p : Nat × BitVec 64) : Bool :=
  (decide (ownerOf p.2 = asid) || decide (ownerOf (s.leaf p.1) = asid))
    && (len == 0 || overlaps base len (kvWindow + p.1 * 2 ^ 18) (2 ^ 18))

/-- A word that a hart watches is found again by the translation in force; a hart whose word lies elsewhere now, or nowhere,
looks again (R13, R212). -/
def State.rewatch (s : State) (asid : BitVec 16) (base len : Nat) (h : Hart) : Hart :=
  let w := h.watch
  if w.len = 0 ∨ h.info.asid ≠ asid ∨ (len ≠ 0 ∧ overlaps base len w.va.toNat w.len = false) then h
  else match s.translate asid .read w.va with
    | .ok p => if p.pa = w.addr then h else { h with watch := { w with addr := p.pa, hit := true } }
    | .error _ => { h with watch := { w with hit := true } }

/-- TLBINV: accesses that held an old translation of the range have performed, and none is in force any more (R212,
R337). -/
def execTlbinv (s : State) : Res :=
  s.command 0x09 [0xFFFF, whole, whole] (fun c =>
    let asid := BitVec.ofNat 16 (c.d 1)
    let s := s.drainHarts (fun h => decide (h.info.asid = asid))
    let s := { s with tlb := s.tlb.filter (fun p => !inRange asid (c.d 2) (c.d 3) p)
                      kvOld := s.kvOld.filter (fun p => !s.frameInRange asid (c.d 2) (c.d 3) p) }
    (s.mapHarts (s.rewatch asid (c.d 2) (c.d 3))).complete c 0)

/-- A leaf entry from its fields; valid and pinned (R335). -/
def leafEntry (refc : Nat) (asid : BitVec 16) : BitVec 64 := BitVec.ofNat 64 (refc * 2 ^ 48 + asid.toNat * 2 ^ 32 + 3)

/-- Frames of the KV window that memory holds (log entry 71). -/
def kvFrames : Nat := hbmBytes / 2 ^ 18

/-- A frame gets another leaf entry by KVMAP: writes issued before have performed to it (R299), and until an invalidation
the old entry may still be used (R212). -/
def State.mapFrame (s : State) (f : Nat) (e : BitVec 64) : State :=
  let s := s.drainHarts (fun _ => true)
  { s with kvOld := (f, s.leaf f) :: s.kvOld.filter (fun p => p.1 != f) }.setLeaf f e

/-- KVMAP of a frame: a fresh one with count 1, or one taken out, returned to its owner (R335). -/
def execKvmap (s : State) : Res :=
  s.command 0x0A [whole, 0xFFFF] (fun c =>
    let f := c.d 1
    let asid := BitVec.ofNat 16 (c.d 2)
    let e := s.leaf f
    if kvFrames ≤ f ∨ validOf e = true then s.complete c 5
    else if refcOf e = 0 then (s.mapFrame f (leafEntry 1 asid)).complete c 0
    else if ownerOf e = asid then (s.mapFrame f (leafEntry (refcOf e) asid)).complete c 0
    else s.complete c 5)

/-- KVEVICT of a frame mapped in an ASID: V and PIN cleared, the rest kept, accesses issued before having performed and no
old entry left (R212, R213, R330, R335). -/
def execKvevict (s : State) : Res :=
  s.command 0x0F [whole, 0xFFFF] (fun c =>
    let f := c.d 1
    let e := s.leaf f
    if 2 ^ 34 ≤ f ∨ validOf e = false ∨ ownerOf e ≠ BitVec.ofNat 16 (c.d 2) then s.complete c 5
    else
      let s := s.drainHarts (fun _ => true)
      ({ s with kvOld := s.kvOld.filter (fun p => p.1 != f) }.setLeaf f (e &&& ~~~3#64)).complete c 0)

/-- ASIDCFG of an ASID's provenance table and free ring; outcome 5 while a launch of the ASID runs (R330, R336). -/
def execAsidcfg (s : State) : Res :=
  s.command 0x0B [0xFFFF, whole, whole, 0x1F] (fun c =>
    let asid := BitVec.ofNat 16 (c.d 1)
    let k := c.d 4
    if c.d 2 % 2 ^ 20 ≠ 0 ∨ c.d 3 % 64 ≠ 0 ∨ k < 4 ∨ 20 < k then s.complete c 1
    else if s.launches.any (fun l => decide (l.info.asid = asid)) then s.complete c 5
    else
      let a : AsidCfg := { asid := asid, prov := BitVec.ofNat 64 (c.d 2), ring := BitVec.ofNat 64 (c.d 3), log2 := k }
      { s with asids := a :: s.asids.filter (fun x => !decide (x.asid = asid)) }.complete c 0)

/-- FDRING of a fault domain's event ring (R330, R334). -/
def execFdring (s : State) : Res :=
  s.command 0x0C [0xFFFF, whole, 0x1F] (fun c =>
    let d := BitVec.ofNat 16 (c.d 1)
    let k := c.d 3
    if c.d 2 % 64 ≠ 0 ∨ k < 4 ∨ 16 < k then s.complete c 1
    else
      let r : FdRing := { fdom := d, base := BitVec.ofNat 64 (c.d 2), log2 := k }
      { s with rings := r :: s.rings.filter (fun x => !decide (x.fdom = d)) }.complete c 0)

/-- SETBEAT: BEAT from the next beat boundary on, which all four gates take together; the command completes there, and at once
before beats run (R317, R330, R331; log entry 62). -/
def execSetbeat (s : State) : Res :=
  s.command 0x0D [whole] (fun c =>
    if c.d 1 < 256 ∨ 4096 < c.d 1 ∨ c.d 1 % 256 ≠ 0 then s.complete c 1
    else
      let v := BitVec.ofNat 13 (c.d 1)
      let s := if c.began then s
        else { s.begin c with nextBeat := v, beat := if s.stage = 0 then v else s.beat }
      if s.beat = s.nextBeat then s.complete c 0 else s)

end Sys2Proof.Machine
end

