-- ==== Sys2Proof/Machine/Matrix.lean ====
section
/-! DEFINITION. The matrix instructions, majors 0x20 and 0x21 (R215 to R230). -/

namespace Sys2Proof.Machine

/-! ## Tiles -/

/-- Element [i][j] of a tile as raw FP32 bits (R215). -/
def Tile.at (t : Tile) (i j : Nat) : Nat := elemAt t.data.toNat 32 (64 * i + j)

/-- A tile whose first elements, row by row, are those listed, the others kept. -/
def Tile.withRows (t : Tile) (l : List Nat) : Tile :=
  let n := 32 * l.length
  { t with data := BitVec.ofNat 131072 (packNat 32 l + t.data.toNat / 2 ^ n * 2 ^ n) }

/-- A tile with a list of elements, index 64 i + j and bits, replaced. -/
def Tile.put (t : Tile) (l : List (Nat × Nat)) : Tile :=
  { t with data := BitVec.ofNat 131072 (l.foldl (fun raw p => setElem raw 32 p.1 p.2) t.data.toNat) }

/-- The lowest disabled tile among those named, as the DETAIL of the fault (R40, R254). -/
def Hart.disabledTile (h : Hart) (ts : List Nat) : Option (BitVec 8) :=
  ((List.range 8).find? (fun t => ts.contains t && !(h.tile t).enabled)).map (fun t => BitVec.ofNat 8 t)

/-! ## Attach, enable, clear -/

/-- `tattach rows`: rows granted by R216; illegal when some are held already (R219). -/
def execTattach (q : BitVec 3) (s : State) : Res :=
  let h := s.hart
  if h.trows ≠ 0 ∨ q = 0 ∨ 3 < q.toNat then s.illegal
  else
    let (base, n) := s.rowGrant h (8 * 2 ^ q.toNat)
    s.done { h with trows := n, rowBase := base }

/-- `tdetach`: tiles disabled and discarded, rows released (R220). -/
def execTdetach (s : State) : Res :=
  let h := s.hart
  if h.trows = 0 then s.done h
  else s.done { h with trows := 0, rowBase := 0, tiles := Vector.replicate 8 { enabled := false, data := 0 } }

/-- `ten t` (R221). -/
def execTen (t : BitVec 3) (s : State) : Res :=
  let h := s.hart
  if h.trows = 0 then s.illegal
  else if (h.tile t.toNat).enabled then s.done h
  else s.done (h.setTile t.toNat { enabled := true, data := 0 })

/-- `tdis t` (R221). -/
def execTdis (t : BitVec 3) (s : State) : Res :=
  let h := s.hart
  if h.trows ≠ 0 ∧ (h.tile t.toNat).enabled then s.done (h.setTile t.toNat { enabled := false, data := 0 })
  else s.done h

/-- `tzero t` (R221). -/
def execTzero (t : BitVec 3) (s : State) : Res :=
  let h := s.hart
  if h.trows = 0 then s.illegal
  else match h.disabledTile [t.toNat] with
    | some d => s.fault cTile d
    | none => s.done (h.setTile t.toNat { enabled := true, data := 0 })

/-! ## Outer products -/

/-- The value of an operand element; paired-scale elements take entry floor(e / 16) of their scale register (R222). -/
def Hart.mopValue (h : Hart) (t : Ty) (x e raw : Nat) : FVal :=
  if psBits t ≠ 0 then psValue (psBits t) (h.scaleAt x (e / 16)) e raw else t.value raw

/-- The exact sum of an old element and `d` products, and whether it is invalid or read a signalling NaN (R223). -/
def dotInto (a b : Nat → FVal) : Nat → Nat → FVal → FVal × Bool
  | 0, _, s => (s, false)
  | n + 1, k, s =>
    let (r, bad) := FVal.fma false (a k) (b k) s
    let (r', bad') := dotInto a b n (k + 1) r
    (r', bad || bad')

/-- The tile rows below R after an outer product, with its flags (R223). `old`, `va`, `vb` are element values; `rm` and
`cm` the masks; `f` the format. Unmasked positions keep their bits. -/
def outer (f : FFmt) (d R : Nat) (old : Nat → Nat → Nat) (va vb : Nat → FVal) (rm cm : Nat → Bool) : List (Nat × Nat) :=
  (List.range (64 * R)).map (fun x =>
    let i := x / 64
    let j := x % 64
    if rm i && cm j then
      let (v, bad) := dotInto (fun k => va (i * d + k)) (fun k => vb (j * d + k)) d 0 (f.decode (old i j))
      let bad := bad || (f.decode (old i j)).isSnan
      let (r, fl) := f.fit RNE 0 v
      (r, fl ||| flagIf bad fINVALID)
    else (old i j, 0))

/-- All flags of a list of results. -/
def allFlags (l : List (Nat × Nat)) : Nat := (l.map (fun p => p.2)).foldl (fun a b => a ||| b) 0

/-- The limits of R222 on VL and TROWS that depend on the depth. -/
def Hart.mopLimits (h : Hart) (d : Nat) : Bool := h.vl % d == 0 && decide (h.vl / d ≤ h.trows)

/-- `mop t, va, vb` (R222, R223). -/
def execMop (t : BitVec 3) (a b : Reg) (r c : BitVec 3) (s : State) : Res :=
  let h := s.hart
  let ta := h.ty a
  let tb := h.ty b
  let dep := mopDepth ta tb
  let limits := match dep with
    | some d => h.mopLimits d && h.fits b.toNat (h.grp b) tb.w (64 * d)
    | none => true
  s.vector
    { ill := h.trows == 0 || !h.opOk a h.vl || !h.baseOk b.toNat (h.grp b) || !limits, tile := h.disabledTile [t.toNat]
      mism := dep.isNone
      srcs := [{ reg := a.toNat, grp := h.grp a, trap := false, need := h.vl },
               { reg := b.toNat, grp := h.grp b, trap := false, need := 64 * dep.getD 1 }]
      dsts := [], sends := [], lanewise := false }
    (fun s =>
      let h := s.hart
      let d := dep.getD 1
      let old := (h.tile t.toNat)
      let ra := h.elems a
      let rb := h.elems b
      let out := outer (fmtOf 15) d (h.vl / d) old.at (fun e => h.mopValue ta 6 e (ra e)) (fun e => h.mopValue tb 7 e (rb e))
        (h.sel r) (h.sel c)
      s.done ((h.setTile t.toNat (old.withRows (out.map (fun p => p.1)))).raise (allFlags out)))

/-! ## Outer products from scratchpad views -/

/-- The tile window of SPACE 1 (R225). -/
def windowBase : Nat := 0x400000
def inWindow (p : StreamRec) (a : Nat) : Bool := p.space == 1 && decide (windowBase ≤ a) && decide (a < windowBase + 0x20000)

/-- The address of a stream element of an affine record. -/
def StreamRec.addr (p : StreamRec) (j : Nat) : BitVec 64 :=
  BitVec.ofInt 64 (p.base + strideSum (fun _ => true) (nestIndex p.counts j) p.strides)

/-- The tiles a run of stream elements reads through the window, rows at or above TROWS apart (R225). -/
def Hart.windowTiles (h : Hart) (p : StreamRec) (from_ n : Nat) : List Nat :=
  ((List.range n).filterMap (fun e =>
    if p.total ≤ from_ + e then none
    else
      let a := (p.addr (from_ + e)).toNat
      if inWindow p a && decide ((a - windowBase) % 0x4000 / 256 < h.trows) then some ((a - windowBase) / 0x4000) else none)).eraseDups

/-- One operand element from a scratchpad view or the tile window: raw bits in the operand type, and flags (R224,
R225). An address in the window that names no element is refused as the window's other misuses are (log entry 21). -/
def State.viewElem (s : State) (k : Nat) (t : Ty) (p : StreamRec) (j : Nat) : Except Flt (Nat × Nat) :=
  let h := s.hart
  if p.total ≤ j then .ok (0, 0)
  else
    let va := p.addr j
    let a := va.toNat
    if inWindow p a then
      let o := a - windowBase
      if h.trows ≤ o % 0x4000 / 256 ∨ o % 4 ≠ 0 then .error ⟨cProt, 0, va⟩
      else
        let raw := (h.tile (o / 0x4000)).at (o % 0x4000 / 256) (o % 256 / 4)
        if psBits t ≠ 0 then .ok (Config.windowCode t.tag raw % 2 ^ t.w, 0)
        else
          let v := (fmtOf 15).decode raw
          let (r, fl) := t.fit RNE 0 v
          .ok (r, fl ||| flagIf v.isSnan fINVALID)
    else
      let n := (t.w + 7) / 8
      match s.takeAffine k n p j with
      | .val v _ _ => .ok (v % 2 ^ t.w, 0)
      | .flt f => .error f
      | .frontier _ _ => .ok (0, 0)

/-- A run of operand elements, up to the first fault. -/
def State.viewRun (s : State) (k : Nat) (t : Ty) (p : StreamRec) : Nat → Nat → List (Nat × Nat) × Option (Nat × Flt)
  | 0, _ => ([], none)
  | n + 1, j =>
    match s.viewElem k t p j with
    | .error f => ([], some (j, f))
    | .ok v =>
      let (l, flt) := s.viewRun k t p n (j + 1)
      (v :: l, flt)

/-- Whether a generator's record serves `mop.s` (R224). -/
def Gen.viewOk (g : Gen) : Bool :=
  let p := g.pat
  g.loaded && !g.bound && !p.write && p.mode == 0 && (p.space == 1 || p.space == 2)

/-- `mop.s t, nA, nB` (R224 to R226). Of two faulting elements the one of the lower index in its own operand is raised, A's where
they are equal (R163; log entry 94). At VL = 0 the streams move on without an access (R56). -/
def execMopS (t : BitVec 3) (a b : Reg) (r c : BitVec 3) (s : State) : Res :=
  let h := s.hart
  let nA := a.toNat
  let nB := b.toNat
  let okN (n : Nat) : Bool := decide (2 ≤ n) && decide (n ≤ 9)
  let gA := h.gen (nA - 2)
  let gB := h.gen (nB - 2)
  let ta := h.ty a
  let tb := h.ty b
  let dep := mopDepth ta tb
  let d := dep.getD 1
  let limits := match dep with
    | some d => h.mopLimits d
    | none => true
  if !okN nA || !okN nB || !gA.viewOk || !gB.viewOk || h.trows == 0 || !limits then s.illegal
  else
    let pA := gA.pat
    let pB := gB.pat
    let fromB := if nA = nB then gA.pos + h.vl else gB.pos
    let named := t.toNat :: (h.windowTiles pA gA.pos h.vl ++ h.windowTiles pB fromB (64 * d))
    match h.disabledTile named with
    | some x => s.fault cTile x
    | none =>
      if dep.isNone then s.fault cType 0
      else
        let need := if nA = nB then h.vl + 64 * d else h.vl
        if gA.ahead < min need (pA.total - gA.pos) then
          s.wait .stream { Watch.none with gen := nA - 2, need := need }
        else if nA ≠ nB ∧ gB.ahead < min (64 * d) (pB.total - gB.pos) then
          s.wait .stream { Watch.none with gen := nB - 2, need := 64 * d }
        else
          let step (n k : Nat) (h : Hart) : Hart :=
            let g := h.gen (n - 2)
            h.setGen (n - 2) { g with pos := g.pos + k, ahead := g.ahead - k }
          if h.vl = 0 then s.done (step nB (64 * d) h)
          else
            let (la, fa) := s.viewRun nA ta pA h.vl gA.pos
            let (lb, fb) := s.viewRun nB tb pB (64 * d) fromB
            match firstFault (fa.map (fun x => (x.1 - gA.pos, x.2))) (fb.map (fun x => (x.1 - fromB, x.2))) with
            | some (e, f) => s.wholeFault e f
            | none =>
              let old := h.tile t.toNat
              let xa (e : Nat) : FVal := h.mopValue ta 6 e (la.getD e (0, 0)).1
              let xb (e : Nat) : FVal := h.mopValue tb 7 e (lb.getD e (0, 0)).1
              let out := outer (fmtOf 15) d (h.vl / d) old.at xa xb (h.sel r) (h.sel c)
              let h := step nB (64 * d) (step nA h.vl h)
              s.done ((h.setTile t.toNat (old.withRows (out.map (fun p => p.1)))).raise
                (allFlags out ||| allFlags la ||| allFlags lb))

/-! ## FP64 products -/

/-- RNE of a value to `n` significant bits, and whether it changed (R228). -/
def sigRound (n : Nat) : FVal → FVal × Bool
  | .fin neg m e =>
    if m = 0 then (.fin neg m e, false)
    else
      let q : Int := (Nat.log2 m : Int) + e - ((n : Int) - 1)
      if q ≤ e then (.fin neg m e, false)
      else
        let (k, lost) := roundShift RNE 0 neg m (q - e).toNat
        (.fin neg k q, lost)
  | v => (v, false)

/-- `mopx t, va, vb`: FP64 products into the tile pair 2t, 2t + 1 (R228). -/
def execMopx (t : BitVec 2) (a b : Reg) (r c : BitVec 3) (s : State) : Res :=
  let h := s.hart
  let t0 := 2 * t.toNat
  let ta := h.ty a
  let tb := h.ty b
  let sa := cfgSlc (h.v a.toNat).cfg
  let sb := cfgSlc (h.v b.toNat).cfg
  let ok := ta.tag == 16 && tb.tag == 16 && sa == sb && decide (3 ≤ sa)
  let limits := h.mopLimits 1 && h.fits b.toNat (h.grp b) tb.w 64
  s.vector
    { ill := h.trows == 0 || !h.opOk a h.vl || !h.opOk b h.vl || !limits, tile := h.disabledTile [t0, t0 + 1], mism := !ok
      srcs := [{ reg := a.toNat, grp := h.grp a, trap := false, need := h.vl },
               { reg := b.toNat, grp := h.grp b, trap := false, need := 64 }]
      dsts := [], sends := [], lanewise := false }
    (fun s =>
      let h := s.hart
      let hi := h.tile t0
      let lo := h.tile (t0 + 1)
      let old (i j : Nat) : Nat := hi.at i j * 2 ^ 32 + lo.at i j
      let ra := h.elems a
      let rb := h.elems b
      let xa (e : Nat) := sigRound (8 * sa) (ta.value (ra e))
      let xb (e : Nat) := sigRound (8 * sa) (tb.value (rb e))
      let out := outer (fmtOf 16) 1 h.vl old (fun e => (xa e).1) (fun e => (xb e).1) (h.sel r) (h.sel c)
      let usedRows := (List.range h.vl).filter (fun i => h.sel r i)
      let usedCols := (List.range 64).filter (fun j => h.sel c j)
      let lost := (!usedCols.isEmpty && usedRows.any (fun i => (xa i).2)) || (!usedRows.isEmpty && usedCols.any (fun j => (xb j).2))
      let h := h.setTile t0 (hi.withRows (out.map (fun p => p.1 / 2 ^ 32)))
      let h := h.setTile (t0 + 1) (lo.withRows (out.map (fun p => p.1 % 2 ^ 32)))
      s.done (h.raise (allFlags out ||| flagIf lost fINEXACT)))

/-! ## Slices -/

/-- Whether a vector type moves between tiles and vectors (R229). -/
def sliceTy (t : Ty) : Bool := 13 ≤ t.tag && t.tag ≤ 16

/-- The limits of R229 on VL and the slice index. -/
def Hart.sliceIll (h : Hart) (col : Bool) (t : BitVec 3) (ty : Ty) (r : Nat) : Bool :=
  (if col then decide (h.trows < h.vl) || decide (64 ≤ r) else decide (64 < h.vl) || decide (h.trows ≤ r))
    || (ty.tag == 16 && t.toNat % 2 == 1)

/-- The tiles a slice move names (R229). -/
def sliceTiles (t : BitVec 3) (ty : Ty) : List Nat := if ty.tag = 16 then [t.toNat, t.toNat + 1] else [t.toNat]

/-- Index 64 i + j of element `e` of a row or column slice. -/
def sliceIndex (col : Bool) (r e : Nat) : Nat := if col then 64 * e + r else 64 * r + e

/-- A slice element converted for the vector's type (R229): raw bits and flags. -/
def sliceOut (ty : Ty) (mode draw hi lo : Nat) : Nat × Nat :=
  if ty.tag = 15 then (hi, 0)
  else if ty.tag = 16 then (hi * 2 ^ 32 + lo, 0)
  else
    let v := (fmtOf 15).decode hi
    let (r, fl) := (fmtOf ty.tag).fit mode draw v
    (r, fl ||| flagIf v.isSnan fINVALID)

/-- `tmovv`: a slice into a vector under vd's own configuration; a long-latency producer (R229). -/
def State.tileToVector (s : State) (col : Bool) (t : BitVec 3) (d b : Reg) (k : BitVec 3) : Res :=
  let h := s.hart
  let ty := h.ty d
  let g := h.grp d
  let r := (h.rd b).toNat
  s.vector
    { ill := !h.opOk d h.vl || h.sliceIll col t ty r, tile := h.disabledTile (sliceTiles t ty), mism := !sliceTy ty, srcs := []
      dsts := [{ reg := d.toNat, grp := g, cfg := none, len := h.vl }], sends := h.active k ty.w, lanewise := true }
    (fun s =>
      let h := s.hart
      if h.vl = 0 then s.done h
      else
        let draws := ty.tag == 13 || ty.tag == 14
        let t0 := (h.tile t.toNat).data.toNat
        let t1 := (h.tile (t.toNat + 1)).data.toNat
        let l := (h.active k ty.w).map (fun e =>
          let x := sliceIndex col r e
          (e, sliceOut ty h.rmodeN (if draws then h.drawFor e else 0) (elemAt t0 32 x) (elemAt t1 32 x)))
        let s := s.putResults d g ty none l
        let s := if s.hart.isBound d.toNat then s else s.produce (members d.toNat g) s.loadLat
        s.done (if draws then s.hart.spendDraws else s.hart))

/-- A vector element converted for a tile (R229): high and low FP32 words, and flags. -/
def sliceIn (ty : Ty) (raw : Nat) : Nat × Nat × Nat :=
  if ty.tag = 15 then (raw, 0, 0)
  else if ty.tag = 16 then (raw / 2 ^ 32, raw % 2 ^ 32, 0)
  else
    let v := (fmtOf ty.tag).decode raw
    let (r, fl) := (fmtOf 15).fit RNE 0 v
    (r, 0, fl ||| flagIf v.isSnan fINVALID)

/-- `tmovt`: a vector into a slice (R229). -/
def State.vectorToTile (s : State) (col : Bool) (t : BitVec 3) (a b : Reg) (k : BitVec 3) : Res :=
  let h := s.hart
  let ty := h.ty a
  let r := (h.rd b).toNat
  s.vector
    { ill := !h.opOk a h.vl || h.sliceIll col t ty r, tile := h.disabledTile (sliceTiles t ty), mism := !sliceTy ty
      srcs := [{ reg := a.toNat, grp := h.grp a, trap := false, need := h.vl }], dsts := []
      sends := h.active k ty.w, lanewise := true }
    (fun s =>
      let h := s.hart
      let ra := h.elems a
      let l := (h.active k ty.w).map (fun e => (sliceIndex col r e, sliceIn ty (ra e)))
      let fl := allFlags (l.map (fun p => (p.1, p.2.2.2)))
      let h := h.setTile t.toNat ((h.tile t.toNat).put (l.map (fun p => (p.1, p.2.1))))
      let h := if ty.tag = 16 then
          h.setTile (t.toNat + 1) ((h.tile (t.toNat + 1)).put (l.map (fun p => (p.1, p.2.2.1))))
        else h
      s.done (h.raise fl))

/-- `tmovv vd, t, sb`: a row (R229). -/
def execTmovv (t : BitVec 3) (d b : Reg) (k : BitVec 3) (s : State) : Res := s.tileToVector false t d b k

/-- `tmovv.c vd, t, sb`: a column (R229). -/
def execTmovvC (t : BitVec 3) (d b : Reg) (k : BitVec 3) (s : State) : Res := s.tileToVector true t d b k

/-- `tmovt t, va, sb`: a row (R229). -/
def execTmovt (t : BitVec 3) (a b : Reg) (k : BitVec 3) (s : State) : Res := s.vectorToTile false t a b k

/-- `tmovt.c t, va, sb`: a column (R229). -/
def execTmovtC (t : BitVec 3) (a b : Reg) (k : BitVec 3) (s : State) : Res := s.vectorToTile true t a b k

/-! ## Loading and storing tiles -/

/-- The active elements of a tile access, 64 i + j, in ascending order (R230). -/
def Hart.tileElems (h : Hart) (r c : BitVec 3) : List Nat :=
  (List.range (64 * h.trows)).filter (fun x => h.sel r (x / 64) && h.sel c (x % 64))

/-- The address of element 64 i + j (R230). -/
def Hart.tileAddr (h : Hart) (a b : Reg) (x : Nat) : BitVec 64 :=
  h.rd a + BitVec.ofInt 64 ((x / 64 : Nat) * (h.rd b).toInt) + BitVec.ofNat 64 (4 * (x % 64))

/-- Whether base and stride are multiples of 4; otherwise the first active element faults (R230). -/
def Hart.tileAligned (h : Hart) (a b : Reg) : Bool := (h.rd a).toNat % 4 == 0 && (h.rd b).toNat % 4 == 0

/-- The misaligned-access fault of a tile access's first active element. -/
def misTile (va : BitVec 64) : Flt := if windowEnd ≤ va.toNat then ⟨cPage, 0, va⟩ else ⟨cAlign, 0, va⟩

/-- `tld t, sa, sb` (R230). Its entry does not use VL: it acts at VL = 0 too (R56; log entry 76). -/
def execTld (t : BitVec 3) (a b : Reg) (r c : BitVec 3) (s : State) : Res :=
  let h := s.hart
  match h.disabledTile [t.toNat] with
  | some d => s.fault cTile d
  | none =>
    let es := h.tileElems r c
    match h.tileAligned a b, es with
    | false, x :: _ => s.wholeFault x (misTile (h.tileAddr a b x))
    | _, _ =>
      let (l, flt) := s.gather false 32 (fun x => { va := h.tileAddr a b x, bit := 0 }) es
      let s := s.upd (fun h => h.setTile t.toNat ((h.tile t.toNat).put l))
      match flt with
      | some (x, f) => s.wholeFault x f
      | none => s.done s.hart

/-- `tst t, sa, sb` (R230), at VL = 0 too (R56; log entry 76). -/
def execTst (t : BitVec 3) (a b : Reg) (r c : BitVec 3) (s : State) : Res :=
  let h := s.hart
  match h.disabledTile [t.toNat] with
  | some d => s.fault cTile d
  | none =>
    let es := h.tileElems r c
    match h.tileAligned a b, es with
    | false, x :: _ =>
      let f := misTile (h.tileAddr a b x)
      s.wholeFault x (if f.cause = cPage then { f with detail := 1 } else f)
    | _, _ =>
      let data := (h.tile t.toNat).data.toNat
      let (s, flt) := s.scatter 32 (fun x => { va := h.tileAddr a b x, bit := 0 }) (fun x => elemAt data 32 x) es
      match flt with
      | some (x, f) => s.wholeFault x f
      | none => s.done s.hart

end Sys2Proof.Machine
end

