-- ==== Sys2Proof/Machine/Rotation.lean ====
section
/-! DEFINITION. The rotation instructions, major 0x18 (R150 to R160). -/

namespace Sys2Proof.Machine

/-- The effective count (R108, R155): the n field, or ROTN, capped at 44 outside the hyperbolic mode. -/
def Hart.rotCount (h : Hart) (m : RotMode) (n : BitVec 6) : Nat :=
  let c := if n = 0 then h.rotn.toNat else n.toNat
  if m = .hyperbolic then c else min c 44

/-- Conditions and operands of a rotation (R151 to R154, R158). In a block a pair whose y group reaches v31 is illegal (log entry
81). -/
def Hart.rotSpec (h : Hart) (m : RotMode) (vta : Bool) (x z : Nat) (k : BitVec 3) (wz wp : Bool) : VSpec :=
  let c := (h.v x).cfg
  let g := cfgGrp c
  let y := x + g
  let cz := (h.v z).cfg
  let gz := cfgGrp cz
  let n := h.reach
  let overlap := vta && !h.isXq z && overlaps z gz x (2 * g)
  { ill := x % (2 * g) != 0 || !h.fits x g (cfgTy c).w n || !h.fits y (cfgGrp (h.v y).cfg) (cfgTy (h.v y).cfg).w n
      || !h.baseOk z gz || !h.fits z gz (cfgTy cz).w n || (h.lane.isNone && decide (8 * h.w < h.vl)) || overlap
      || (h.lane.isSome && decide (31 < x + 2 * g)) || (members x (2 * g)).any (fun r => h.isBound r)
      || (vta && !h.isXq z && (members z gz).any (fun r => h.isBound r))
    tile := none
    mism := !pairTag (cfgTy c) || !sameCfg c (h.v y).cfg || !angleTag m (cfgTy cz)
      || (members x (2 * g)).any (fun r => cfgTag (h.v r).cfg == 0)
    srcs := [{ reg := x, grp := g, trap := wp, need := h.vl }, { reg := y, grp := g, trap := wp, need := h.vl },
             { reg := z, grp := gz, trap := wz, need := h.vl }]
    dsts := [], sends := h.active k (cfgTy c).w, lanewise := true, w := (cfgTy c).w }

/-- CVGM after a rotation (R155, R157): the failures of the elements run over, 0 for masked-off ones and beyond VL. A
lane writes its own bit only (R236). -/
def Hart.putCvgm (h : Hart) (l : List (Nat × Bool)) : BitVec 8192 :=
  let m := setBits h.cvgm l
  if h.lane.isSome then m else m &&& BitVec.ofNat 8192 (2 ^ h.vl - 1)

/-- A rotation over its elements (R155); a count above 16 makes it a long-latency producer (R158). -/
def State.rotation (s : State) (m : RotMode) (vta gain : Bool) (p : BitVec 4) (z : Reg) (nf : BitVec 6) (k : BitVec 3)
    (wz wp : Bool) : Res :=
  let x := 2 * p.toNat
  s.vector (s.hart.rotSpec m vta x z.toNat k wz wp) (fun s =>
    let h := s.hart
    if h.reach = 0 then s.done h
    else
      let c := (h.v x).cfg
      let g := cfgGrp c
      let t := cfgTy c
      let zt := h.ty z
      let gz := h.grp z
      let n := h.rotCount m nf
      let rx := h.reader x g t.w
      let ry := h.reader (x + g) g t.w
      let rz := h.elems z
      let outs := (h.active k t.w).map (fun e => (e, rotElem m vta gain n t zt (rx e) (ry e) (rz e)))
      let fl := (outs.map (fun o => o.2.flags)).foldl (fun a b => a ||| b) 0
      let fails := outs.any (fun o => o.2.fail)
      let cv := h.putCvgm ((h.range t.w).map (fun e => (e, outs.any (fun o => o.1 == e && o.2.fail))))
      let h := h.writeGroup x g t.w (outs.map (fun o => (o.1, o.2.x)))
      let h := h.writeGroup (x + g) g t.w (outs.map (fun o => (o.1, o.2.y)))
      let h := if vta then h.writeGroup z.toNat gz zt.w (outs.map (fun o => (o.1, o.2.z))) else h
      let s := s.setHart ({ h with cvgm := cv }.raise (fl ||| flagIf fails fCVG))
      let s := if 16 < n then
          s.produce (members x (2 * g) ++ (if vta then members z.toNat gz else [])) s.loadLat
        else s
      s.done s.hart)

/-- `rotc vp, vz, n`: circular rotate (R150, R155). -/
def execRotc (p : BitVec 4) (z : Reg) (n : BitVec 6) (k : BitVec 3) (w x : BitVec 1) (s : State) : Res :=
  s.rotation .circular false false p z n k (bit1 w) (bit1 x)

/-- `rotc.g vp, vz, n`: circular rotate with gain compensation (R150, R155). -/
def execRotcG (p : BitVec 4) (z : Reg) (n : BitVec 6) (k : BitVec 3) (w x : BitVec 1) (s : State) : Res :=
  s.rotation .circular false true p z n k (bit1 w) (bit1 x)

/-- `rotl vp, vz, n`: linear rotate (R150, R155). -/
def execRotl (p : BitVec 4) (z : Reg) (n : BitVec 6) (k : BitVec 3) (w x : BitVec 1) (s : State) : Res :=
  s.rotation .linear false false p z n k (bit1 w) (bit1 x)

/-- `rotl.g vp, vz, n`: linear rotate with gain compensation (R150, R155). -/
def execRotlG (p : BitVec 4) (z : Reg) (n : BitVec 6) (k : BitVec 3) (w x : BitVec 1) (s : State) : Res :=
  s.rotation .linear false true p z n k (bit1 w) (bit1 x)

/-- `roth vp, vz, n`: hyperbolic rotate (R150, R155). -/
def execRoth (p : BitVec 4) (z : Reg) (n : BitVec 6) (k : BitVec 3) (w x : BitVec 1) (s : State) : Res :=
  s.rotation .hyperbolic false false p z n k (bit1 w) (bit1 x)

/-- `roth.g vp, vz, n`: hyperbolic rotate with gain compensation (R150, R155). -/
def execRothG (p : BitVec 4) (z : Reg) (n : BitVec 6) (k : BitVec 3) (w x : BitVec 1) (s : State) : Res :=
  s.rotation .hyperbolic false true p z n k (bit1 w) (bit1 x)

/-- `vtac vp, vz, n`: circular vector-to-axis (R150, R155). -/
def execVtac (p : BitVec 4) (z : Reg) (n : BitVec 6) (k : BitVec 3) (w x : BitVec 1) (s : State) : Res :=
  s.rotation .circular true false p z n k (bit1 w) (bit1 x)

/-- `vtac.g vp, vz, n`: circular vector-to-axis with gain compensation (R150, R155). -/
def execVtacG (p : BitVec 4) (z : Reg) (n : BitVec 6) (k : BitVec 3) (w x : BitVec 1) (s : State) : Res :=
  s.rotation .circular true true p z n k (bit1 w) (bit1 x)

/-- `vtal vp, vz, n`: linear vector-to-axis (R150, R155). -/
def execVtal (p : BitVec 4) (z : Reg) (n : BitVec 6) (k : BitVec 3) (w x : BitVec 1) (s : State) : Res :=
  s.rotation .linear true false p z n k (bit1 w) (bit1 x)

/-- `vtal.g vp, vz, n`: linear vector-to-axis with gain compensation (R150, R155). -/
def execVtalG (p : BitVec 4) (z : Reg) (n : BitVec 6) (k : BitVec 3) (w x : BitVec 1) (s : State) : Res :=
  s.rotation .linear true true p z n k (bit1 w) (bit1 x)

/-- `vtah vp, vz, n`: hyperbolic vector-to-axis (R150, R155). -/
def execVtah (p : BitVec 4) (z : Reg) (n : BitVec 6) (k : BitVec 3) (w x : BitVec 1) (s : State) : Res :=
  s.rotation .hyperbolic true false p z n k (bit1 w) (bit1 x)

/-- `vtah.g vp, vz, n`: hyperbolic vector-to-axis with gain compensation (R150, R155). -/
def execVtahG (p : BitVec 4) (z : Reg) (n : BitVec 6) (k : BitVec 3) (w x : BitVec 1) (s : State) : Res :=
  s.rotation .hyperbolic true true p z n k (bit1 w) (bit1 x)

end Sys2Proof.Machine
end

