-- ==== Sys2Proof/Machine/Dispatch.lean ====
section
/-! DEFINITION. The dispatch of every instruction and device step to its meaning, one arm per constructor. -/

namespace Sys2Proof.Machine

/-- Executing an instruction, or making a device step. -/
def exec (i : Instr) (s : State) : Host.Outcome State Fault Refusal :=
  match i with
  | .trap c => Sys2Proof.Machine.execTrap c s
  | .fence m sc => Sys2Proof.Machine.execFence m sc s
  | .sbar m => Sys2Proof.Machine.execSbar m s
  | .gets d n => Sys2Proof.Machine.execGets d n s
  | .puts a n => Sys2Proof.Machine.execPuts a n s
  | .seed d => Sys2Proof.Machine.execSeed d s
  | .undefinedOpcode w => Sys2Proof.Machine.execUndefinedOpcode w s
  | .add d a b => Sys2Proof.Machine.execAdd d a b s
  | .sub d a b => Sys2Proof.Machine.execSub d a b s
  | .mul d a b => Sys2Proof.Machine.execMul d a b s
  | .mulh d a b => Sys2Proof.Machine.execMulh d a b s
  | .div d a b => Sys2Proof.Machine.execDiv d a b s
  | .divn d a b => Sys2Proof.Machine.execDivn d a b s
  | .rem d a b => Sys2Proof.Machine.execRem d a b s
  | .remn d a b => Sys2Proof.Machine.execRemn d a b s
  | .and d a b => Sys2Proof.Machine.execAnd d a b s
  | .or d a b => Sys2Proof.Machine.execOr d a b s
  | .xor d a b => Sys2Proof.Machine.execXor d a b s
  | .andn d a b => Sys2Proof.Machine.execAndn d a b s
  | .sll d a b => Sys2Proof.Machine.execSll d a b s
  | .srl d a b => Sys2Proof.Machine.execSrl d a b s
  | .sra d a b => Sys2Proof.Machine.execSra d a b s
  | .slt d a b => Sys2Proof.Machine.execSlt d a b s
  | .sltn d a b => Sys2Proof.Machine.execSltn d a b s
  | .min d a b => Sys2Proof.Machine.execMin d a b s
  | .max d a b => Sys2Proof.Machine.execMax d a b s
  | .minn d a b => Sys2Proof.Machine.execMinn d a b s
  | .maxn d a b => Sys2Proof.Machine.execMaxn d a b s
  | .clz d a => Sys2Proof.Machine.execClz d a s
  | .ctz d a => Sys2Proof.Machine.execCtz d a s
  | .popc d a => Sys2Proof.Machine.execPopc d a s
  | .addi d a imm => Sys2Proof.Machine.execAddi d a imm s
  | .andi d a imm => Sys2Proof.Machine.execAndi d a imm s
  | .ori d a imm => Sys2Proof.Machine.execOri d a imm s
  | .xori d a imm => Sys2Proof.Machine.execXori d a imm s
  | .slli d a h => Sys2Proof.Machine.execSlli d a h s
  | .srli d a h => Sys2Proof.Machine.execSrli d a h s
  | .srai d a h => Sys2Proof.Machine.execSrai d a h s
  | .lui d imm => Sys2Proof.Machine.execLui d imm s
  | .limm d p => Sys2Proof.Machine.execLimm d p s
  | .limmh d p => Sys2Proof.Machine.execLimmh d p s
  | .ldb d a o => Sys2Proof.Machine.execLdb d a o s
  | .ldh d a o => Sys2Proof.Machine.execLdh d a o s
  | .ldw d a o => Sys2Proof.Machine.execLdw d a o s
  | .ldd d a o => Sys2Proof.Machine.execLdd d a o s
  | .ldbS d a o => Sys2Proof.Machine.execLdbS d a o s
  | .ldhS d a o => Sys2Proof.Machine.execLdhS d a o s
  | .ldwS d a o => Sys2Proof.Machine.execLdwS d a o s
  | .stb d a o => Sys2Proof.Machine.execStb d a o s
  | .sth d a o => Sys2Proof.Machine.execSth d a o s
  | .stw d a o => Sys2Proof.Machine.execStw d a o s
  | .std d a o => Sys2Proof.Machine.execStd d a o s
  | .amoAdd d a b sc z => Sys2Proof.Machine.execAmoAdd d a b sc z s
  | .amoSwap d a b sc z => Sys2Proof.Machine.execAmoSwap d a b sc z s
  | .amoCas d a b sc z => Sys2Proof.Machine.execAmoCas d a b sc z s
  | .amoMin d a b sc z => Sys2Proof.Machine.execAmoMin d a b sc z s
  | .amoMax d a b sc z => Sys2Proof.Machine.execAmoMax d a b sc z s
  | .amoAnd d a b sc z => Sys2Proof.Machine.execAmoAnd d a b sc z s
  | .amoOr d a b sc z => Sys2Proof.Machine.execAmoOr d a b sc z s
  | .amoXor d a b sc z => Sys2Proof.Machine.execAmoXor d a b sc z s
  | .ldAcq d a sc z => Sys2Proof.Machine.execLdAcq d a sc z s
  | .stRel a b sc z => Sys2Proof.Machine.execStRel a b sc z s
  | .beq a b o => Sys2Proof.Machine.execBeq a b o s
  | .bne a b o => Sys2Proof.Machine.execBne a b o s
  | .blt a b o => Sys2Proof.Machine.execBlt a b o s
  | .bge a b o => Sys2Proof.Machine.execBge a b o s
  | .bltn a b o => Sys2Proof.Machine.execBltn a b o s
  | .bgen a b o => Sys2Proof.Machine.execBgen a b o s
  | .jal o => Sys2Proof.Machine.execJal o s
  | .jalr d a imm => Sys2Proof.Machine.execJalr d a imm s
  | .slti d a imm => Sys2Proof.Machine.execSlti d a imm s
  | .vsetlb a b e o => Sys2Proof.Machine.execVsetlb a b e o s
  | .vcfg d t f g => Sys2Proof.Machine.execVcfg d t f g s
  | .vcfgw d w sc => Sys2Proof.Machine.execVcfgw d w sc s
  | .vsetl d a e g => Sys2Proof.Machine.execVsetl d a e g s
  | .vtag d a => Sys2Proof.Machine.execVtag d a s
  | .vadd d a b k w x => Sys2Proof.Machine.execVadd d a b k w x s
  | .vsub d a b k w x => Sys2Proof.Machine.execVsub d a b k w x s
  | .vmul d a b k w x => Sys2Proof.Machine.execVmul d a b k w x s
  | .vfma d a b k w x => Sys2Proof.Machine.execVfma d a b k w x s
  | .vmin d a b k w x => Sys2Proof.Machine.execVmin d a b k w x s
  | .vmax d a b k w x => Sys2Proof.Machine.execVmax d a b k w x s
  | .vabs d a k w => Sys2Proof.Machine.execVabs d a k w s
  | .vneg d a k w => Sys2Proof.Machine.execVneg d a k w s
  | .vand d a b k w x => Sys2Proof.Machine.execVand d a b k w x s
  | .vor d a b k w x => Sys2Proof.Machine.execVor d a b k w x s
  | .vxor d a b k w x => Sys2Proof.Machine.execVxor d a b k w x s
  | .vshl d a b k w x => Sys2Proof.Machine.execVshl d a b k w x s
  | .vshr d a b k w x => Sys2Proof.Machine.execVshr d a b k w x s
  | .vadc d a b k w x => Sys2Proof.Machine.execVadc d a b k w x s
  | .vsbc d a b k w x => Sys2Proof.Machine.execVsbc d a b k w x s
  | .vmov d a k w => Sys2Proof.Machine.execVmov d a k w s
  | .vsel d a b k w x => Sys2Proof.Machine.execVsel d a b k w x s
  | .vadds d a b k w => Sys2Proof.Machine.execVadds d a b k w s
  | .vsubs d a b k w => Sys2Proof.Machine.execVsubs d a b k w s
  | .vmuls d a b k w => Sys2Proof.Machine.execVmuls d a b k w s
  | .vfmas d a b k w => Sys2Proof.Machine.execVfmas d a b k w s
  | .vmins d a b k w => Sys2Proof.Machine.execVmins d a b k w s
  | .vmaxs d a b k w => Sys2Proof.Machine.execVmaxs d a b k w s
  | .vands d a b k w => Sys2Proof.Machine.execVands d a b k w s
  | .vors d a b k w => Sys2Proof.Machine.execVors d a b k w s
  | .vxors d a b k w => Sys2Proof.Machine.execVxors d a b k w s
  | .vshls d a b k w => Sys2Proof.Machine.execVshls d a b k w s
  | .vshrs d a b k w => Sys2Proof.Machine.execVshrs d a b k w s
  | .vsels d a b k w => Sys2Proof.Machine.execVsels d a b k w s
  | .vceq d a b k w x => Sys2Proof.Machine.execVceq d a b k w x s
  | .vcne d a b k w x => Sys2Proof.Machine.execVcne d a b k w x s
  | .vclt d a b k w x => Sys2Proof.Machine.execVclt d a b k w x s
  | .vcge d a b k w x => Sys2Proof.Machine.execVcge d a b k w x s
  | .vceqs d a b k w x => Sys2Proof.Machine.execVceqs d a b k w x s
  | .vcnes d a b k w x => Sys2Proof.Machine.execVcnes d a b k w x s
  | .vclts d a b k w x => Sys2Proof.Machine.execVclts d a b k w x s
  | .vcges d a b k w x => Sys2Proof.Machine.execVcges d a b k w x s
  | .mand d a b => Sys2Proof.Machine.execMand d a b s
  | .mor d a b => Sys2Proof.Machine.execMor d a b s
  | .mxor d a b => Sys2Proof.Machine.execMxor d a b s
  | .mnot d a => Sys2Proof.Machine.execMnot d a s
  | .mpop d a => Sys2Proof.Machine.execMpop d a s
  | .mfirst d a => Sys2Proof.Machine.execMfirst d a s
  | .mshup d a => Sys2Proof.Machine.execMshup d a s
  | .mset d => Sys2Proof.Machine.execMset d s
  | .mclr d => Sys2Proof.Machine.execMclr d s
  | .vslideup d a b k w => Sys2Proof.Machine.execVslideup d a b k w s
  | .vslidedn d a b k w => Sys2Proof.Machine.execVslidedn d a b k w s
  | .vgath d a b k w x => Sys2Proof.Machine.execVgath d a b k w x s
  | .vcomp d a b k w => Sys2Proof.Machine.execVcomp d a b k w s
  | .vexpd d a k w => Sys2Proof.Machine.execVexpd d a k w s
  | .vbcast d b k => Sys2Proof.Machine.execVbcast d b k s
  | .vidx d k => Sys2Proof.Machine.execVidx d k s
  | .vrsum d a k w => Sys2Proof.Machine.execVrsum d a k w s
  | .vrmax d a k w => Sys2Proof.Machine.execVrmax d a k w s
  | .vrmin d a k w => Sys2Proof.Machine.execVrmin d a k w s
  | .vsmaxe d a k w => Sys2Proof.Machine.execVsmaxe d a k w s
  | .vcvt d a k w => Sys2Proof.Machine.execVcvt d a k w s
  | .vquant d a b k w => Sys2Proof.Machine.execVquant d a b k w s
  | .vdeq d a b k w => Sys2Proof.Machine.execVdeq d a b k w s
  | .vpack d a k w => Sys2Proof.Machine.execVpack d a k w s
  | .vunpk d a k w => Sys2Proof.Machine.execVunpk d a k w s
  | .rotc p z n k w x => Sys2Proof.Machine.execRotc p z n k w x s
  | .rotcG p z n k w x => Sys2Proof.Machine.execRotcG p z n k w x s
  | .rotl p z n k w x => Sys2Proof.Machine.execRotl p z n k w x s
  | .rotlG p z n k w x => Sys2Proof.Machine.execRotlG p z n k w x s
  | .roth p z n k w x => Sys2Proof.Machine.execRoth p z n k w x s
  | .rothG p z n k w x => Sys2Proof.Machine.execRothG p z n k w x s
  | .vtac p z n k w x => Sys2Proof.Machine.execVtac p z n k w x s
  | .vtacG p z n k w x => Sys2Proof.Machine.execVtacG p z n k w x s
  | .vtal p z n k w x => Sys2Proof.Machine.execVtal p z n k w x s
  | .vtalG p z n k w x => Sys2Proof.Machine.execVtalG p z n k w x s
  | .vtah p z n k w x => Sys2Proof.Machine.execVtah p z n k w x s
  | .vtahG p z n k w x => Sys2Proof.Machine.execVtahG p z n k w x s
  | .vld d a k r => Sys2Proof.Machine.execVld d a k r s
  | .vlds d a b k r => Sys2Proof.Machine.execVlds d a b k r s
  | .vldx d a b k x r => Sys2Proof.Machine.execVldx d a b k x r s
  | .vldb d a b k r => Sys2Proof.Machine.execVldb d a b k r s
  | .vldff d a b k r => Sys2Proof.Machine.execVldff d a b k r s
  | .vldseg d a k f => Sys2Proof.Machine.execVldseg d a k f s
  | .vst d a k w => Sys2Proof.Machine.execVst d a k w s
  | .vsts d a b k w => Sys2Proof.Machine.execVsts d a b k w s
  | .vstx d a b k w x => Sys2Proof.Machine.execVstx d a b k w x s
  | .vstb d a b k w => Sys2Proof.Machine.execVstb d a b k w s
  | .vstseg d a k w f => Sys2Proof.Machine.execVstseg d a k w f s
  | .vamoAdd d a b k x sc => Sys2Proof.Machine.execVamoAdd d a b k x sc s
  | .vamoMin d a b k x sc => Sys2Proof.Machine.execVamoMin d a b k x sc s
  | .vamoMax d a b k x sc => Sys2Proof.Machine.execVamoMax d a b k x sc s
  | .vamoSwap d a b k x sc => Sys2Proof.Machine.execVamoSwap d a b k x sc s
  | .accw d a b => Sys2Proof.Machine.execAccw d a b s
  | .vacc d a b k w x => Sys2Proof.Machine.execVacc d a b k w x s
  | .accm d => Sys2Proof.Machine.execAccm d s
  | .accx d => Sys2Proof.Machine.execAccx d s
  | .vxlat d a b k w => Sys2Proof.Machine.execVxlat d a b k w s
  | .vxlatFf d a b k w => Sys2Proof.Machine.execVxlatFf d a b k w s
  | .bind d a => Sys2Proof.Machine.execBind d a s
  | .unbind d => Sys2Proof.Machine.execUnbind d s
  | .vfetch a b k => Sys2Proof.Machine.execVfetch a b k s
  | .lfetch a k w => Sys2Proof.Machine.execLfetch a k w s
  | .vjoin d => Sys2Proof.Machine.execVjoin d s
  | .tmask d a b k => Sys2Proof.Machine.execTmask d a b k s
  | .tadv d a b => Sys2Proof.Machine.execTadv d a b s
  | .smax d a b k w => Sys2Proof.Machine.execSmax d a b k w s
  | .sexp d a b k w => Sys2Proof.Machine.execSexp d a b k w s
  | .spick d a b k w => Sys2Proof.Machine.execSpick d a b k w s
  | .srand d a b => Sys2Proof.Machine.execSrand d a b s
  | .mop t a b r c => Sys2Proof.Machine.execMop t a b r c s
  | .mopS t a b r c => Sys2Proof.Machine.execMopS t a b r c s
  | .mopx t a b r c => Sys2Proof.Machine.execMopx t a b r c s
  | .tattach q => Sys2Proof.Machine.execTattach q s
  | .ten t => Sys2Proof.Machine.execTen t s
  | .tdis t => Sys2Proof.Machine.execTdis t s
  | .tzero t => Sys2Proof.Machine.execTzero t s
  | .tmovv t d b k => Sys2Proof.Machine.execTmovv t d b k s
  | .tmovvC t d b k => Sys2Proof.Machine.execTmovvC t d b k s
  | .tmovt t a b k => Sys2Proof.Machine.execTmovt t a b k s
  | .tmovtC t a b k => Sys2Proof.Machine.execTmovtC t a b k s
  | .tld t a b r c => Sys2Proof.Machine.execTld t a b r c s
  | .tst t a b r c => Sys2Proof.Machine.execTst t a b r c s
  | .lpart a => Sys2Proof.Machine.execLpart a s
  | .cmpt d a b k => Sys2Proof.Machine.execCmpt d a b k s
  | .scat d a b k => Sys2Proof.Machine.execScat d a b k s
  | .ecpy a => Sys2Proof.Machine.execEcpy a s
  | .eloop a => Sys2Proof.Machine.execEloop a s
  | .efoot a => Sys2Proof.Machine.execEfoot a s
  | .kfork d a b => Sys2Proof.Machine.execKfork d a b s
  | .kdrop d a b => Sys2Proof.Machine.execKdrop d a b s
  | .kspl d a b => Sys2Proof.Machine.execKspl d a b s
  | .krep d a b => Sys2Proof.Machine.execKrep d a b s
  | .kprovRd d a => Sys2Proof.Machine.execKprovRd d a s
  | .kprovLive d a b => Sys2Proof.Machine.execKprovLive d a b s
  | .kprovRet d a => Sys2Proof.Machine.execKprovRet d a s
  | .kprovFree d a => Sys2Proof.Machine.execKprovFree d a s
  | .kchk d a b => Sys2Proof.Machine.execKchk d a b s
  | .kchkF d a b => Sys2Proof.Machine.execKchkF d a b s
  | .odeclR a => Sys2Proof.Machine.execOdeclR a s
  | .odeclW a => Sys2Proof.Machine.execOdeclW a s
  | .obeg d => Sys2Proof.Machine.execObeg d s
  | .sspec n a => Sys2Proof.Machine.execSspec n a s
  | .sdrain n => Sys2Proof.Machine.execSdrain n s
  | .wait d a b z sc => Sys2Proof.Machine.execWait d a b z sc s
  | .vfull d a => Sys2Proof.Machine.execVfull d a s
  | .vempty d a => Sys2Proof.Machine.execVempty d a s
  | .hartPlacement core => Sys2Proof.Machine.execHartPlacement core s
  | .compactionComplete core => Sys2Proof.Machine.execCompactionComplete core s
  | .streamReadAhead gen count => Sys2Proof.Machine.execStreamReadAhead gen count s
  | .hardPreemption detail => Sys2Proof.Machine.execHardPreemption detail s
  | .copyJob job => Sys2Proof.Machine.execCopyJob job s
  | .footprintComplete job => Sys2Proof.Machine.execFootprintComplete job s
  | .codeTableSwap core => Sys2Proof.Machine.execCodeTableSwap core s
  | .eviction asid va => Sys2Proof.Machine.execEviction asid va s
  | .unconsumedError byte => Sys2Proof.Machine.execUnconsumedError byte s
  | .spareRemap kind unit spare => Sys2Proof.Machine.execSpareRemap kind unit spare s
  | .peerPortLost port => Sys2Proof.Machine.execPeerPortLost port s
  | .eventRingPost fdom => Sys2Proof.Machine.execEventRingPost fdom s
  | .dieJoin die => Sys2Proof.Machine.execDieJoin die s
  | .aqctl value => Sys2Proof.Machine.execAqctl value s
  | .tailq queue tail => Sys2Proof.Machine.execTailq queue tail s
  | .registerWrite offset value => Sys2Proof.Machine.execRegisterWrite offset value s
  | .packetFetch queue => Sys2Proof.Machine.execPacketFetch queue s
  | .whippletreeIssueCycle core group => Sys2Proof.Machine.execWhippletreeIssueCycle core group s
  | .illegalInstruction w => Sys2Proof.Machine.execIllegalInstruction w s
  | .accessPerforms stream => Sys2Proof.Machine.execAccessPerforms stream s
  | .peerPortRequest port op => Sys2Proof.Machine.execPeerPortRequest port op s
  | .hostMemoryAccess op => Sys2Proof.Machine.execHostMemoryAccess op s
  | .eret => Sys2Proof.Machine.execEret s
  | .ebreak => Sys2Proof.Machine.execEbreak s
  | .prog => Sys2Proof.Machine.execProg s
  | .yield => Sys2Proof.Machine.execYield s
  | .halt => Sys2Proof.Machine.execHalt s
  | .cvy => Sys2Proof.Machine.execCvy s
  | .endk => Sys2Proof.Machine.execEndk s
  | .lstop => Sys2Proof.Machine.execLstop s
  | .tdetach => Sys2Proof.Machine.execTdetach s
  | .ocom => Sys2Proof.Machine.execOcom s
  | .hartWake => Sys2Proof.Machine.execHartWake s
  | .hartReclaim => Sys2Proof.Machine.execHartReclaim s
  | .producerLands => Sys2Proof.Machine.execProducerLands s
  | .softRequestEscalation => Sys2Proof.Machine.execSoftRequestEscalation s
  | .energyTick => Sys2Proof.Machine.execEnergyTick s
  | .watchdogExpiry => Sys2Proof.Machine.execWatchdogExpiry s
  | .handlerOverrun => Sys2Proof.Machine.execHandlerOverrun s
  | .gateArrival => Sys2Proof.Machine.execGateArrival s
  | .beatEnd => Sys2Proof.Machine.execBeatEnd s
  | .batchAppend => Sys2Proof.Machine.execBatchAppend s
  | .orderFirstGrant => Sys2Proof.Machine.execOrderFirstGrant s
  | .startStage => Sys2Proof.Machine.execStartStage s
  | .powerStateChange => Sys2Proof.Machine.execPowerStateChange s
  | .qcreate => Sys2Proof.Machine.execQcreate s
  | .qdestroy => Sys2Proof.Machine.execQdestroy s
  | .load => Sys2Proof.Machine.execLoad s
  | .unload => Sys2Proof.Machine.execUnload s
  | .launch => Sys2Proof.Machine.execLaunch s
  | .release => Sys2Proof.Machine.execRelease s
  | .cancel => Sys2Proof.Machine.execCancel s
  | .preempt => Sys2Proof.Machine.execPreempt s
  | .tlbinv => Sys2Proof.Machine.execTlbinv s
  | .kvmap => Sys2Proof.Machine.execKvmap s
  | .asidcfg => Sys2Proof.Machine.execAsidcfg s
  | .fdring => Sys2Proof.Machine.execFdring s
  | .setbeat => Sys2Proof.Machine.execSetbeat s
  | .setltol => Sys2Proof.Machine.execSetltol s
  | .kvevict => Sys2Proof.Machine.execKvevict s

end Sys2Proof.Machine
end

