-- ==== Sys2Proof/Machine/Turn.lean ====
section
/-! DEFINITION. One turn of the device: issue by the focused hart with loop replay (R246), restart
(R263) and energy (R269), the turns of lanes (R234 to R240), and what the device does of itself when the agenda names
nothing (log entry 1). -/

namespace Sys2Proof.Machine

/-! ## Issue of a word -/

/-- The instruction of a word and its payload. -/
def instrOf (w p : BitVec 32) : Instr := decodeWord w.toNat p.toNat

/-- Whether an instruction may issue before the `vjoin` of an open section (R234). -/
def sectionAdmits (w : BitVec 32) (i : Instr) : Bool :=
  let m := w.toNat / 2 ^ 26
  (decide (1 ≤ m) && decide (m ≤ 0x0E)) || (match i with
    | .vjoin _ => true
    | _ => false)

/-! ## Accounting for an instruction that has completed -/

/-- Matrix-unit occupancy in cycles (R231); one cycle for `tattach` and `tdetach`, of which R231 says nothing (log entry 46). -/
def Hart.matrixCycles (h : Hart) (i : Instr) : Nat :=
  match i with
  | .mopx _ a _ _ _ => (cfgSlc (h.v a.toNat).cfg * cfgSlc (h.v a.toNat).cfg + 1) / 2
  | .tld _ _ _ _ _ | .tst _ _ _ _ _ => h.trows / 4
  | _ => 1

/-- Bytes that an instruction moves in S0 whatever memory holds (R60, R68, R70, R161, R175, R177, R245, R249), and the context
and header that the token-mask engine reads for it (R289; log entry 46). -/
def scalarBytes : Instr → Nat
  | .ldb _ _ _ | .ldbS _ _ _ | .stb _ _ _ => 1
  | .ldh _ _ _ | .ldhS _ _ _ | .sth _ _ _ => 2
  | .ldw _ _ _ | .ldwS _ _ _ | .stw _ _ _ => 4
  | .ldd _ _ _ | .std _ _ _ => 8
  | .amoAdd _ _ _ _ z | .amoSwap _ _ _ _ z | .amoCas _ _ _ _ z | .amoMin _ _ _ _ z | .amoMax _ _ _ _ z
  | .amoAnd _ _ _ _ z | .amoOr _ _ _ _ z | .amoXor _ _ _ _ z | .ldAcq _ _ _ z | .stRel _ _ _ z
  | .wait _ _ _ z _ => 2 ^ z.toNat
  | .bind _ _ | .sspec _ _ | .eloop _ => 64
  | .ecpy _ | .efoot _ => 512
  | .tmask _ _ _ _ | .tadv _ _ _ => 128
  | _ => 0

/-- Whether entry `j` of a table stands mapped. -/
def State.mappedAt (s : State) (table : BitVec 64) (j : Nat) : Bool :=
  match s.tableEntry (entryVa table j) with
  | .ok e => e.mapped
  | .error _ => false

/-- Bytes that an instruction of major 0x24 moves in S0, and `krep` in S1: 16 for each entry it reads or writes, and its records
and values (R273 to R282; log entry 46); `s` is the state it begins in. -/
def State.tableBytes (s : State) (i : Instr) : Nat :=
  let h := s.hart
  let entries (n : Nat) (f : Nat → Nat) : Nat := (((List.range n).filter (fun j => decide (h.resumeAt ≤ j))).map f).sum
  match i with
  | .kfork _ a b => entries (h.rd b).toNat (fun j => if s.mappedAt (h.rd a) j then 64 else 32)
  | .kdrop _ a b => entries (h.rd b).toNat (fun j => if s.mappedAt (h.rd a) j then 32 else 16)
  | .kspl _ _ b => 32 + (match (s.readRecord (h.rd b) 4).toOption.bind parseSplice with
    | some p => entries p.nblk (fun _ => 48)
    | none => 0)
  | .krep _ _ b => 64 + (match (s.readRecord (h.rd b) 4).toOption.bind parseRepair with
    | some p => 2 * (p.ntok * p.nel * (tagWidth p.tag / 8))
    | none => 0)
  | .kchk _ _ _ | .kchkF _ _ _ => 32
  | .kprovRd _ _ => 16
  | .kprovLive _ _ _ | .kprovRet _ _ | .kprovFree _ _ => 32
  | _ => 0

/-- The elements of width `w` under mask `k` that an instruction of the hart `h`, begun in the state `s`, moves: the active ones,
and of a `vldff` those below its stop (R168; log entry 46). -/
def State.movedElems (s : State) (h : Hart) (i : Instr) (k : BitVec 3) (w : Nat) : List Nat :=
  let h := { h with restart := none, limit := none }
  match i with
  | .vldff _ a _ k _ => (s.setHart h).firstFaultElems a k w
  | _ => h.active k w

/-- Bits that an instruction moves between memory or scratchpads and vector registers, tiles or windows. -/
def State.vectorBits (s : State) (h : Hart) (i : Instr) : Nat :=
  let n (r : Reg) (k : BitVec 3) : Nat := (s.movedElems h i k (h.ty r).w).length * (h.ty r).w
  match i with
  | .vld d _ k _ | .vlds d _ _ k _ | .vldx d _ _ k _ _ | .vldb d _ _ k _ | .vldff d _ _ k _ | .vst d _ k _
  | .vsts d _ _ k _ | .vstx d _ _ k _ _ | .vstb d _ _ k _ | .vamoAdd d _ _ k _ _ | .vamoMin d _ _ k _ _
  | .vamoMax d _ _ k _ _ | .vamoSwap d _ _ k _ _ => n d k
  | .vldseg d _ k f | .vstseg d _ k _ f => (f.toNat + 1) * n d k
  | .accm w | .accx w => (h.window w.toNat).cnt * (h.window w.toNat).ty.w
  | .tld _ _ _ r c | .tst _ _ _ r c => 32 * (h.tileElems r c).length
  | .vxlat d _ _ k _ | .vxlatFf d _ _ k _ => 128 * (s.movedElems h i k (h.ty d).w).length
  | .mopS _ a b _ _ =>
    let left (x : Reg) (m : Nat) : Nat := min m ((h.gen (x.toNat - 2)).pat.total - (h.gen (x.toNat - 2)).pos)
    let n := 64 * (mopDepth (h.ty a) (h.ty b)).getD 1
    let na := left a h.vl
    na * (h.ty a).w + (if a = b then left b (h.vl + n) - na else left b n) * (h.ty b).w
  | _ => 0

/-- The mask field of a vector strip; none where the word has no execution mask (R33, R36). -/
def maskField (w : BitVec 32) : Option (BitVec 3) :=
  let m := w.toNat / 2 ^ 26
  let fn := w.toNat % 2 ^ 6
  if m = 0x18 then some (w.extractLsb' 3 3)
  else if (m = 0x11 ∨ m = 0x12) ∧ fn = 0x10 then none
  else if (0x11 ≤ m ∧ m ≤ 0x13) ∨ (0x15 ≤ m ∧ m ≤ 0x17) ∨ m = 0x19 ∨ m = 0x1A ∨ m = 0x1C then some (w.extractLsb' 8 3)
  else if m = 0x1B ∧ (fn < 32 ∨ fn = 33) then some (w.extractLsb' 8 3)
  else none

/-- The elements of width `n` that an instruction sends to a bound destination (R141, R143, R149, R178, R191, R243, R244, R290). -/
def State.sentElems (s : State) (h : Hart) (w : BitVec 32) (i : Instr) (n : Nat) : List Nat :=
  let h := { h with restart := none, limit := none }
  let s := s.setHart h
  let all := List.range h.vl
  let found (a b : Reg) (k : BitVec 3) : List (Nat × Entry) := (s.lookups (h.rd b) (s.peek a h.vl) (h.active k n)).1
  match i with
  | .bind _ _ => []
  | .vrsum _ _ _ _ | .vrmax _ _ _ _ | .vrmin _ _ _ _ | .smax _ _ _ _ _ => all.take 1
  | .vsel _ _ _ _ _ _ | .vsels _ _ _ _ _ => h.range n
  | .vslideup _ _ b k _ => (h.everyActive k).filter (fun e => decide ((h.rd b).toNat ≤ e))
  | .vcomp _ _ _ k _ | .cmpt _ _ _ k => all.take (h.everyActive k).length
  | .scat _ _ b k => all.filter (fun e => (((h.everyActive k).zipIdx).map (fun p => s.peek b h.vl p.2)).contains e)
  | .vpack d _ k _ => (h.packed d k n).map (fun p => p.1)
  | .vxlat _ a b k _ => ((found a b k).filter (fun p => p.2.mapped)).map (fun p => p.1)
  | .vxlatFf _ a b k _ => (mappedPrefix (found a b k)).map (fun p => p.1)
  | _ => s.movedElems h i ((maskField w).getD 0) n

/-- Bits that an instruction moves through the streams of bound registers (R178): the elements it takes, and those it sends,
within the stream's end (R179). -/
def State.boundBits (s : State) (h : Hart) (w : BitVec 32) (i : Instr) : Nat :=
  let width (r : Nat) : Nat := (cfgTy (h.v r).cfg).w
  let left (r : Nat) : Nat := (h.gen (genOf r)).pat.total - (h.gen (genOf r)).pos
  let reads := (((h.vecForm i).1.filter (fun r => h.readBound r)).eraseDups).map (fun r =>
    min (((h.streamNeeds i).lookup (genOf r)).getD 0) (left r) * width r)
  let writes := (((h.vecForm i).2.filter (fun r => h.writeBound r)).eraseDups).map (fun r =>
    ((s.sentElems h w i (width r)).filter (fun e => decide (e < left r))).length * width r)
  (reads ++ writes).sum

/-- The energy an instruction of the hart `h` adds, begun in the state `s` (R268, R269): its class weight, per lane group of the
context where the class is so weighted, and MEM for each 64 bytes its streams move, begun ones included (log entry 46). -/
def State.energyOf (s : State) (h : Hart) (w : BitVec 32) (i : Instr) : Nat :=
  let m := w.toNat / 2 ^ 26
  let ewt (lo : Nat) : Nat := bits s.ewt.toNat lo 8
  let moved := scalarBytes i + s.tableBytes i + (s.vectorBits h i + s.boundBits h w i + 7) / 8
  ewt 24 * ((moved + 63) / 64) +
    (if scalarMajor w then ewt 0
     else if m = 0x18 then ewt 16 * h.w * h.passes w.toNat
     else if m = 0x1F then ewt 48
     else if m = 0x20 ∨ m = 0x21 then ewt 32 * h.matrixCycles i
     else ewt 8 * h.w)

/-- What is left of a restart after a vector instruction, and after a scalar one (R263). -/
def Restart.afterVector (r : Restart) : Option Restart :=
  let skip := if r.ctr.isEmpty then r.skip.map (fun x => x - 1) else r.skip
  if skip.all (fun x => x == 0) then none
  else some { r with ctr := [], skip := skip, fidx := 0, count := 0 }
def Restart.afterScalar (r : Restart) : Option Restart := if r.ctr.isEmpty then some r else none

/-- Whether the instruction begun in the state `s` completed in `t`: the PC moved, a branch was taken to itself, `vsetlb`'s
included, which waits only for its part of the lane groups (R21), or the hart retired. A word of a reserved major does not
complete; `trap` and `ebreak` are charged before their save (`State.precharge`). -/
def completed (s t : State) (w : BitVec 32) : Bool :=
  let m := w.toNat / 2 ^ 26
  (t.hart.onCore && (t.hart.pc != s.hart.pc || (decide (0x0B ≤ m) && decide (m ≤ 0x0D)) || (m == 0x0F && s.regrant.isSome))
    && !(decide (0x28 ≤ m) && decide (m ≤ 0x3E)))
  || decide (t.hart.st = .retired)

/-- A deliberate trap completes with its save, which holds its charge (R254, R269). -/
def State.precharge (s : State) (w : BitVec 32) (i : Instr) : State :=
  match i with
  | .trap _ | .ebreak => s.upd (fun h => h.spend (s.energyOf h w i))
  | _ => s

/-! ## Compaction (R26) -/

/-- Whether the strip just issued is held back: DENS, the mask's density and the region allow it and the core chooses to. -/
def State.holdsBack (s : State) (h : Hart) (w : BitVec 32) : Bool :=
  match maskField w with
  | none => false
  | some k =>
    let n := ((List.range h.vl).filter (fun e => h.sel k e)).length
    s.holdBack && !h.info.det && decide (64 * n < h.dens.toNat * h.vl)

/-- What a vector word reads and what it writes: vector registers, mask m as 32 + m, scale register x as 48 + x, CVGM as 56, tile t
as 64 + t and window w as 72 + w. -/
def Hart.stripForm (h : Hart) (w : BitVec 32) (i : Instr) : List Nat × List Nat :=
  let f := h.vecForm i
  let m (k : BitVec 3) : Nat := 32 + k.toNat
  let k := match maskField w with
    | some k => [m k]
    | none => [m (w.extractLsb' 8 3)]
  match i with
  | .mand d a b | .mor d a b | .mxor d a b => ([m a, m b], [m d])
  | .mnot d a | .mshup d a => ([m a], [m d])
  | .mset d | .mclr d => ([], [m d])
  | .mpop _ a | .mfirst _ a => ([m a], [])
  | .rotc _ _ _ _ _ _ | .rotcG _ _ _ _ _ _ | .rotl _ _ _ _ _ _ | .rotlG _ _ _ _ _ _ | .roth _ _ _ _ _ _
  | .rothG _ _ _ _ _ _ | .vtac _ _ _ _ _ _ | .vtacG _ _ _ _ _ _ | .vtal _ _ _ _ _ _ | .vtalG _ _ _ _ _ _
  | .vtah _ _ _ _ _ _ | .vtahG _ _ _ _ _ _ => (f.1 ++ k, 56 :: f.2)
  | .tld t _ _ r c => ([m r, m c], [64 + t.toNat])
  | .vceq d _ _ _ _ _ | .vcne d _ _ _ _ _ | .vclt d _ _ _ _ _ | .vcge d _ _ _ _ _ | .vceqs d _ _ _ _ _
  | .vcnes d _ _ _ _ _ | .vclts d _ _ _ _ _ | .vcges d _ _ _ _ _ => (f.1 ++ k, [32 + d.toNat])
  | .vadc _ _ _ _ _ _ | .vsbc _ _ _ _ _ _ => (32 :: f.1 ++ k, 32 :: f.2)
  | .vsmaxe x _ _ _ => (f.1 ++ k, [48 + x.toNat])
  | .vquant _ _ x _ _ | .vdeq _ _ x _ _ => ((48 + x.toNat) :: (f.1 ++ k), f.2)
  | _ => (f.1 ++ k, f.2)

/-- The streams in which a vector word accesses memory: S1, and those of its bound registers (R161, R178). -/
def Hart.wordStreams (h : Hart) (w : BitVec 32) (i : Instr) : List Nat :=
  let m := w.toNat / 2 ^ 26
  let f := h.vecForm i
  (if 0x19 ≤ m ∧ m ≤ 0x1C then [1] else []) ++ ((f.1 ++ f.2).filter (fun r => h.isBound r)).map (fun r => genOf r + 2)

/-- The register fields of a word, field 0 apart, which names s0 or no scalar: the three of most formats, the one of a long form,
and the link register of `jal` (R32, R37, R74). -/
def wordFields (w : BitVec 32) : List Reg :=
  let m := w.toNat / 2 ^ 26
  (if m = 0x3F then [w.extractLsb' 15 5] else if m = 0x0C then [1]
    else [w.extractLsb' 21 5, w.extractLsb' 16 5, w.extractLsb' 11 5]).filter (fun r => r != 0)

/-- The strip of an instruction, held back in the cycle given. -/
def Hart.strip (h : Hart) (w : BitVec 32) (i : Instr) (now : Nat) : Strip :=
  let f := h.stripForm w i
  { since := now, writes := f.2, reads := f.1, streams := h.wordStreams w i, fields := wordFields w }

/-- Whether a held strip completes before this instruction issues: it reads one of the strip's destinations, writes one of its
sources or destinations, uses one of its streams, or is one that waits for every strip. A word that has a register field in
common with the strip may name a scalar that the strip reads or writes, and lets it complete too. -/
def Hart.stripFirst (h : Hart) (w : BitVec 32) (i : Instr) (x : Strip) : Bool :=
  let m := w.toNat / 2 ^ 26
  let f := h.stripForm w i
  (wordFields w).any (fun r => x.fields.contains r)
    || (if (1 ≤ m ∧ m ≤ 0x09) ∨ (0x0B ≤ m ∧ m ≤ 0x0E) ∨ m = 0x3F then false
      else if 0x11 ≤ m ∧ m ≤ 0x1A ∧ m ≠ 0x14 then
        f.1.any (fun r => x.writes.contains r) || f.2.any (fun r => x.reads.contains r || x.writes.contains r)
          || (h.wordStreams w i).any (fun k => x.streams.contains k)
      else true)

/-- Held strips that must complete before an instruction issues have completed. -/
def State.completeStrips (s : State) (w : BitVec 32) (i : Instr) : State :=
  s.upd (fun h => { h with heldStrips := h.heldStrips.filter (fun x => !h.stripFirst w i x) })

/-- The books of an instruction issued in the state `s`, which left the state `t`: energy, what is left of a restart, and
strips held back. -/
def State.account (s : State) (w : BitVec 32) (i : Instr) (t : State) : State :=
  if !completed s t w then t
  else t.upd (fun x =>
    { x.spend (s.energyOf s.hart w i) with
      restart := x.restart.bind (fun r => if scalarMajor w then r.afterScalar else r.afterVector)
      heldStrips := if t.holdsBack s.hart w then x.heldStrips ++ [s.hart.strip w i t.cycle] else x.heldStrips })

/-! ## Memory that vector words touch -/

/-- The bytes that a vector load or store may touch, as spans of virtual addresses, and of physical ones beyond them; and
whether it stores. None for a word that touches no memory. -/
def State.spans (s : State) (i : Instr) : Option (Bool × List (Nat × Nat)) :=
  let h := s.hart
  let spots (d : Reg) (k : BitVec 3) (place : Nat → List Place) : List (Nat × Nat) :=
    let w := (h.ty d).w
    (((List.range h.vl).filter (fun e => h.sel k e)).flatMap place).flatMap (fun p =>
      let n := p.bytes w
      (p.va.toNat, n) :: (match s.translate h.info.asid .read p.va with
        | .ok q => [(2 ^ 60 + q.pa, n)]
        | .error _ => []))
  let one (f : Form) (d a : Reg) (e : Nat) : List Place := [h.formPlace f a (h.ty d).w e]
  match i with
  | .vld d a k _ | .vldff d a _ k _ => some (false, spots d k (one .unit d a))
  | .vlds d a b k _ => some (false, spots d k (one (.strided b) d a))
  | .vldx d a b k _ _ => some (false, spots d k (one (.indexed b false) d a))
  | .vldb d a b k _ => some (false, spots d k (one (.bitOffset b) d a))
  | .vldseg d a k f => some (false, spots d k (fun e => (List.range (f.toNat + 1)).map (fun j => h.segPlace a (h.ty d).w (f.toNat + 1) j e)))
  | .vst d a k _ => some (true, spots d k (one .unit d a))
  | .vsts d a b k _ => some (true, spots d k (one (.strided b) d a))
  | .vstx d a b k _ _ => some (true, spots d k (one (.indexed b false) d a))
  | .vstb d a b k _ => some (true, spots d k (one (.bitOffset b) d a))
  | .vstseg d a k _ f => some (true, spots d k (fun e => (List.range (f.toNat + 1)).map (fun j => h.segPlace a (h.ty d).w (f.toNat + 1) j e)))
  | _ => none

/-! ## Loads under way and the words after them (R193, R196) -/

/-- Whether a word names a scalar register that a load under way has yet to write, by any of its register fields. -/
def Hart.namesLate (h : Hart) (w : BitVec 32) : Bool :=
  h.late.any (fun l => match l.dest with
    | .scalar r _ => (wordFields w).contains r
    | .vector _ _ _ => false)

/-- Whether a word must find the loads of the vector word under way performed: it reads a register which that word writes,
writes one of its registers, takes from a stream it takes from, or may name a scalar it reads. -/
def Hart.meetsWord (h : Hart) (w : BitVec 32) (i : Instr) : Bool :=
  let f := h.stripForm w i
  h.lateWord.any (fun x =>
    (wordFields w).any (fun r => (wordFields x.word).contains r)
      || f.1.any (fun r => x.writes.contains r || x.starts.any (fun p => p.1 == r))
      || f.2.any (fun r => x.writes.contains r || x.reads.contains r))

/-- The stream of the accesses a word makes that loads under way need not precede: S0 for scalar loads and stores, S1 for
vector ones, none for a word that makes no access; other words wait for every load under way. -/
def passesLoads (w : BitVec 32) : Option (Option Nat) :=
  let m := w.toNat / 2 ^ 26
  if (1 ≤ m ∧ m ≤ 0x07) ∨ m = 0x0B ∨ m = 0x0D ∨ m = 0x0E ∨ (0x11 ≤ m ∧ m ≤ 0x18) then some none
  else if m = 0x08 ∨ m = 0x09 then some (some 0)
  else if m = 0x19 ∨ m = 0x1A then some (some 1)
  else none

/-- The streams in which a word loads other than through bound registers (R60, R161, R245, R249, R273, R289). -/
def loadStreams (w : BitVec 32) : List Nat :=
  let m := w.toNat / 2 ^ 26
  if m = 0x08 ∨ m = 0x0A ∨ m = 0x1D ∨ m = 0x23 ∨ m = 0x26 ∨ m = 0x27 then [0]
  else if m = 0x24 then [0, 1]
  else if m = 0x19 ∨ m = 0x1B ∨ m = 0x1C ∨ m = 0x1F ∨ m = 0x21 then [1]
  else []

/-- The stores that the streams of a word's loads still hold perform before them: one stream performs in program order
(R195). -/
def State.beforeLoads (s : State) (w : BitVec 32) : State :=
  if s.hart.wbuf.isEmpty then s else s.drain (fun k => (loadStreams w).contains k)

/-- The read-bound registers among a word's sources, when each reads through an affine stream and the word is one that may issue
before they have been read: element-wise, a permute or a reduction, a conversion or a rotation, that writes no scalar and no
stream. -/
def Hart.lateTakes (h : Hart) (w : BitVec 32) (i : Instr) : List Nat :=
  let m := w.toNat / 2 ^ 26
  let f := h.vecForm i
  let bound := (f.1.filter (fun r => h.readBound r)).eraseDups
  let kind : Bool := decide (0x11 ≤ m) && decide (m ≤ 0x18) && m != 0x14 && (match i with
    | .vcomp _ _ _ _ _ | .illegalInstruction _ => false
    | _ => true)
  if kind && !f.2.any (fun r => h.isBound r) && bound.all (fun r => (h.gen (genOf r)).pat.mode == 0) then bound else []

/-- The virtual addresses a word would load from if it issues before its loads perform, with its streams and the bound
registers it takes from; none for a word that cannot. -/
def State.lateLoads (s : State) (w : BitVec 32) (i : Instr) : Option (List Nat × List Nat × List Nat) :=
  let h := s.hart
  let m := w.toNat / 2 ^ 26
  let f := h.vecForm i
  match i with
  | .tld _ a b r c => some ((h.tileElems r c).map (fun x => (h.tileAddr a b x).toNat), [1], [])
  | _ =>
    if m = 0x19 then
      if (f.1 ++ f.2).any (fun r => h.isBound r) then none
      else (s.spans i).map (fun l => ((l.2.map (fun p => p.1)).filter (fun a => decide (a < 2 ^ 60)), [1], []))
    else match h.lateTakes w i with
      | [] => none
      | rs => some (rs.flatMap (fun r => let g := h.gen (genOf r)
                                         (List.range (min (((h.streamNeeds i).lookup (genOf r)).getD 0) (g.pat.total - g.pos))).map
                                           (fun e => (g.pat.addr (g.pos + e)).toNat)), rs.map (fun r => genOf r + 2), rs)

/-- A vector word has issued in `s` and completed in `t`; where the streams it loads in are being delayed, its loads have yet to
perform, and what it writes is as it was (R193, R196; log entry 85). Its faults are those of its issue. -/
def State.joinWord (s t : State) (w : BitVec 32) (i : Instr) : Option State :=
  let h := s.hart
  match s.lateLoads w i with
  | none => none
  | some (vas, ks, rs) =>
    if h.lateWord.isNone ∧ h.sect.isNone ∧ h.replay.isNone ∧ h.restart.isNone ∧ h.lane.isNone ∧ vas ≠ []
        ∧ ks.all (fun k => s.delaying.contains k) ∧ vas.all (fun a => decide (a < codeWindow))
        ∧ t.hart.st = h.st ∧ t.hart.pc = h.pc + 4 then
      let f := h.stripForm w i
      let x : LateWord := { word := w, reads := f.1, writes := f.2, streams := ks
                            starts := rs.map (fun r => (r, (h.gen (genOf r)).pos)), cycle := s.cycle, ridx := h.ridx }
      some { t.upd (fun y =>
        { y with vregs := h.vregs.mapIdx (fun j v => { v with cfg := (v.cfg &&& 0xFFF7FFFF) ||| ((y.v j).cfg &&& 0x00080000) })
                 masks := h.masks, cvgm := h.cvgm, scales := h.scales, tiles := h.tiles, flags := h.flags, lateWord := some x })
        with replicas := s.replicas }
    else none

/-- Earlier loads of the streams named perform, and stores that those streams still hold (R195). -/
def State.settleStreams (s : State) (ks : List Nat) : State :=
  let ls := s.hart.late
  ((s.upd (fun h => { h with late := ls.filter (fun l => !ks.contains l.stream) })).landLates
    (ls.filter (fun l => ks.contains l.stream))).drain (fun k => ks.contains k)

/-- The loads of the vector word under way of the focused hart perform, after the earlier accesses of its streams (R194, R195):
what it writes is what it writes now, by the translation, the random draws and the masks of its issue, since nothing that it
reads has been written since. -/
def State.performWord (s : State) : State :=
  match s.hart.lateWord with
  | none => s
  | some x =>
    let s := s.settleStreams x.streams
    let h := s.hart
    let back := x.starts.foldl (fun h p => let g := h.gen (genOf p.1)
                                           h.setGen (genOf p.1) { g with pos := p.2, ahead := 65536 }) h
    let run := { back.setFulls true (x.writes.filter (fun r => decide (r < 32))) with
                 lateWord := none, pend := [], st := .resident, ridx := x.ridx }
    match exec (instrOf x.word 0) { s.setHart run with delaying := [], cycle := x.cycle } with
    | .next t =>
      let y := t.hart
      { s.setHart { h with lateWord := none, masks := y.masks, cvgm := y.cvgm, scales := y.scales, tiles := y.tiles, flags := y.flags
                           vregs := h.vregs.mapIdx (fun j v =>
                             { data := (y.v j).data, cfg := ((y.v j).cfg &&& 0xFFF7FFFF) ||| (v.cfg &&& 0x00080000) }) }
        with replicas := t.replicas }
    | _ => s.setHart { h with lateWord := none }

/-- Every load under way of the focused hart performs. -/
def State.settleAll (s : State) : State := s.settleLoads.performWord

/-- The vector word under way of every hart performs its loads: before a step that is no word of a hart. -/
def State.settleWords (s : State) : State :=
  ((s.harts.filter (fun h => h.lateWord.isSome)).map (fun h => h.id)).foldl (fun s id => s.onHart id State.performWord) s

/-- Whether some load of the hart is under way. -/
def Hart.loading (h : Hart) : Bool := !h.late.isEmpty || h.lateWord.isSome

/-- Whether a load under way belongs to a stream. -/
def Hart.loadsIn (h : Hart) (k : Nat) : Bool :=
  h.late.any (fun l => l.stream == k) || h.lateWord.any (fun x => x.streams.contains k)

/-- A word executes as a load that joins those under way, or whose own loads are left under way: behind an earlier vector word
of its stream it does not. -/
def State.joins (s : State) (w : BitVec 32) (i : Instr) : Option State :=
  if s.delaying.isEmpty ∨ (loadStreams w).any (fun k => s.hart.lateWord.any (fun x => x.streams.contains k)) = true then none
  else match exec i s with
    | .next t => if s.hart.late.length < t.hart.late.length then some t else s.joinWord t w i
    | _ => none

/-- An instruction executes, loads under way performing first where they must: those that it depends on, and those of the
stream it accesses unless it is a load that joins them; all of them before the hart leaves its core (R195, R196, R255). -/
def State.execAfterLoads (s : State) (w : BitVec 32) (i : Instr) : Res :=
  let h := s.hart
  let s := if h.loading && (h.namesLate w || h.meetsWord w i || (passesLoads w).isNone) then s.settleAll else s
  match s.joins w i with
  | some t => .next t
  | none =>
    let s := if ((passesLoads w).bind id).any (fun k => s.hart.loadsIn k) then s.settleAll else s
    match exec i (s.beforeLoads w) with
    | .next t => if s.hart.loading ∧ t.hart.st ≠ s.hart.st then exec i (s.settleAll.beforeLoads w) else .next t
    | r => r

/-- The streams of a vector word moved past the elements it takes and sends (R178). -/
def Hart.passStreams (h : Hart) (i : Instr) : Hart :=
  let move (h : Hart) (k n : Nat) : Hart := let g := h.gen k
                                           h.setGen k { g with pos := g.pos + n, ahead := g.ahead - n }
  let h' := (h.streamNeeds i).foldl (fun h p => move h p.1 p.2) h
  let sent : Nat := match i with
    | .vpack _ _ _ _ => 2 * h.vl
    | _ => h.vl
  (((h.vecForm i).2.filter (fun r => h.writeBound r)).eraseDups).foldl (fun x r => move x (genOf r) sent) h'

/-- The instruction of a word executes and is accounted for. A vector instruction of a hart that can issue it does so when
the arbiters of its lane groups let it (R22); one complete on every lane group before is passed over (R263). -/
def State.run (s : State) (w : BitVec 32) (i : Instr) : Res :=
  let go (s : State) : Res :=
    let s := (s.completeStrips w i).precharge w i
    match s.hart.restart.filter (fun r => !scalarMajor w && !r.ctr.isEmpty && r.ctr.all (fun c => c == 0xFFFF)) with
    | some _ => .next (s.account w i (s.upd (fun h => (h.passStreams i).advance 4)))
    | none => match s.execAfterLoads w i with
      | .next t => .next (s.account w i t)
      | r => r
  if s.candidate s.hart then
    match s.mayIssue with
    | (s, true) => go s
    | (s, false) => .next s
  else go s

/-! ## Loop replay -/

/-- One word of a replay: it executes with the PC at the `eloop`, which completes and is passed after the last word (R246,
R247, R269). -/
def State.replayTurn (s : State) (p : Replay) : Res :=
  let pc := s.hart.pc
  let w := p.body.getD p.bodyIndex 0
  match (s.upd (fun h => h.withWord w 0)).run w (instrOf w 0) with
  | .next t =>
    if t.hart.onCore && t.hart.pc != pc then
      match { p with bodyIndex := p.bodyIndex + 1 }.settle with
      | some p' => .next (t.upd (fun h => { h with pc := pc, replay := some p' }))
      | none => .next (t.upd (fun h => { h.spend (t.energyOf h p.word (instrOf p.word 0)) with replay := none }))
    else .next t
  | r => r

/-! ## Lanes -/

/-- The hart in a lane's turn: the lane's PC and the values in force at the `vfetch` (R234, R236). -/
def Hart.enterLane (h : Hart) (q : Section) (l : Lane) : Hart :=
  { h with pc := l.pc, sregs := q.sregs, vl := q.vl, rmode := q.rmode, rotn := q.rotn, seed := q.seed
           lane := some l.idx, limit := none, taken := [], walked := [], ir := 0, irPayload := 0 }

/-- The hart after a lane's turn: its own PC, scalars and named state, and v31, which lanes cannot reach. -/
def Hart.leaveLane (h t : Hart) : Hart :=
  { (t.setV 31 (h.v 31)) with pc := h.pc, sregs := h.sregs, vl := h.vl, rmode := h.rmode, rotn := h.rotn, seed := h.seed
                              ridx := h.ridx, lane := h.lane, limit := h.limit, taken := h.taken, ir := h.ir
                              irPayload := h.irPayload, restart := h.restart }

/-- What a lane's word does: the result, and the queue left when it popped; none while it must wait. -/
def State.laneWord (s : State) (q : Section) (l : Lane) (w : BitVec 32) (i : Instr) :
    Option (Res × List (BitVec 64)) :=
  if 32 ≤ l.words || !laneAdmits w i then some (s.illegal, l.inbox)
  else
    let s := s.upd (fun h => h.setV 31 { h.v 31 with cfg := h.queueCfg i })
    if s.hart.popsQueue l.idx i then
      match q.pop l with
      | none => none
      | some (v, ended, rest) =>
        let s := s.upd (fun h => { h.raise (if ended then fINVALID else 0) with taken := [(31, [v.toNat])] })
        some (exec i s, rest)
    else some (exec i s, l.inbox)

/-- The state after a lane's word: a fault leaves the lane at it with its queue as it was; else the lane moves on, its pushes
are delivered, and the hart is charged for the word on one lane group (R269; log entry 46); none while it must wait. -/
def State.laneDone (s : State) (q0 : Section) (e : Nat) (i : Instr) (rest : List (BitVec 64)) (t : State) : Option State :=
  let h := s.hart
  if t.hart.limit = some 0 then none
  else match t.hart.sect, t.hart.laneOf e with
    | some q, some l =>
      if l.st = .faulted then some (s.upd (fun h => { h with sect := some q }))
      else
        let vs := (t.hart.taken.filter (fun p => p.1 == 99)).flatMap (fun p => p.2.map (BitVec.ofNat 64))
        match q.push e vs with
        | none => none
        | some q' =>
          let n := match i with
            | .lfetch _ _ _ | .lstop => 0
            | _ => l.words + 1
          let put (x : Lane) : Lane := if x.idx = e then { x with pc := t.hart.pc, words := n, inbox := rest } else x
          let n := s.energyOf { h.enterLane q0 l with w := 1 } t.hart.ir i
          some (t.setHart { (h.leaveLane t.hart).spend n with sect := some { q' with lanes := q'.lanes.map put } })
    | _, _ => none

/-- Whether the arbiter of the lane group on which a lane's word lies lets the hart issue it now, and the books it leaves (R22); a
word that waits takes no port. -/
def State.laneIssue (s : State) (q : Section) (l : Lane) : State × Bool :=
  match s.laneReady s.hart q l with
  | none => (s, true)
  | some (g, _) =>
    let r := (s.upd (fun h => { h with lane := some l.idx })).arbitrate s.hart.core (s.hart.lgb + g) s.hart.id
    ({ s with arbs := r.1.arbs }, r.2)

/-- One word of lane `e`, when its arbiter lets it issue; none when it cannot move. The stores that S1 still holds perform before
a load (R195). -/
def State.laneStep (s : State) (e : Nat) : Option Res :=
  match s.hart.sect, s.hart.laneOf e with
  | some q, some l =>
    if l.st ≠ .running then none
    else match s.laneIssue q l with
    | (s, false) => some (.next s)
    | (s, true) =>
      let s1 := s.upd (fun h => h.enterLane q l)
      let r : Option (Res × List (BitVec 64) × Instr) := match s1.fetch with
        | .error f => some (s1.faultAt f, l.inbox, Instr.lstop)
        | .ok (w, p) =>
          let i := instrOf w p
          (((s1.upd (fun h => h.withWord w p)).beforeLoads w).laneWord q l w i).map
            (fun (x : Res × List (BitVec 64)) => (x.1, x.2, i))
      match r with
      | none => none
      | some (.next t, rest, i) => (s.laneDone q e i rest t).map .next
      | some (x, _, _) => some x
  | _, _ => none

/-- The hart passes to saved for its lowest faulted lane (R240): PC and WORD are the lane's, RPC the hart's own. -/
def State.saveLanes (s : State) (l : Lane) : State :=
  let h := s.hart
  let s1 := s.upd (fun h => { h with pc := l.pc, ir := 0, irPayload := 0 })
  let w := match s1.fetch with
    | .ok (w, _) => w
    | .error _ => 0
  let s1 := s1.upd (fun h => h.withWord w 0)
  let s1 := if l.cause = cUndecl then s1.drainAll.endTx else s1
  s1.taken { cause := l.cause, detail := l.detail, rpc := h.pc, fel := l.fel, fidx := l.idx, faddr := l.faddr
             ctr := ctrDone, performed := 0 }

/-- A turn of the open section: the lowest lane that can move does (R232). -/
def State.lanesTurn (s : State) (q : Section) : Res := (q.lanes.findSome? (fun l => s.laneStep l.idx)).getD (.next s)

/-- Whether a running lane can never move again once the lanes listed have ended: it pops from the empty queue of one of them, or
pushes into a full queue that one of them drains (R237). -/
def State.laneStuck (s : State) (q : Section) (ended : List Nat) (l : Lane) : Bool :=
  let h := { s.hart with pc := l.pc, lane := some l.idx }
  match s.wordAt h with
  | none => false
  | some w =>
    let i := decodeWord w 0
    let f := laneForm i
    decide (l.st = .running)
      && ((h.popsQueue l.idx i && l.inbox.isEmpty && (q.before l.idx).any (fun p => ended.contains p.idx))
        || (f.2.1.contains 31 && h.sel f.2.2 l.idx
          && (q.after l.idx).any (fun n => decide (4 ≤ n.inbox.length) && ended.contains n.idx)))

/-- The lanes that have faulted, and those that wait for ever on one of them or on one another; `n` rounds find them. -/
def State.endedLanes (s : State) (q : Section) : Nat → List Nat
  | 0 => (q.lanes.filter (fun l => decide (l.st = .faulted))).map (fun l => l.idx)
  | n + 1 =>
    let e := s.endedLanes q n
    e ++ ((q.lanes.filter (fun l => !e.contains l.idx && s.laneStuck q e l)).map (fun l => l.idx))

/-- The lowest faulted lane of the focused hart's section, once each lane has stopped or faulted, or waits for ever on the queue
of one that has faulted (R240; log entry 27). A lane that waits for a stream, a register, a table or a frontier runs on. -/
def State.lanesEnded (s : State) : Option Lane :=
  match s.hart.sect with
  | none => none
  | some q =>
    match q.lanes.find? (fun l => decide (l.st = .faulted)) with
    | none => none
    | some l =>
      let ended := s.endedLanes q q.lanes.length
      if q.lanes.any (fun x => decide (x.st ≠ .stopped) && !ended.contains x.idx) then none
      else some l

/-! ## A lane group that goes ahead (R19) -/

/-- The element width of a word that lane groups may run apart: it works element by element, its vector operands are all
of one width that divides a lane group's bits, registers or bound to affine streams; a mask word has the width of the last
strip-mine head (R262). -/
def Hart.apartWidth (h : Hart) (w : BitVec 32) (i : Instr) : Option Nat :=
  let m := w.toNat / 2 ^ 26
  match i with
  | .mand _ _ _ | .mor _ _ _ | .mxor _ _ _ | .mnot _ _ | .mset _ | .mclr _ =>
    let n := ewBits h.headEw.toNat
    if 256 % n == 0 then some n else none
  | .vpack _ _ _ _ | .vunpk _ _ _ _ | .vldff _ _ _ _ _ | .illegalInstruction _ => none
  | _ =>
    let rs := (h.vecForm i).1 ++ (h.vecForm i).2
    let n := (cfgTy (h.v (rs.headD 0)).cfg).w
    let kind : Bool := m == 0x11 || m == 0x12 || m == 0x13 || m == 0x17 || m == 0x18 || m == 0x19 || m == 0x1A
    if kind && !rs.isEmpty && n != 0 && 256 % n == 0
        && rs.all (fun r => (cfgTy (h.v r).cfg).w == n && (!h.isBound r || (h.gen (genOf r)).pat.mode == 0)) then some n
    else none

/-- A vector word that a lane group comes to, with the bytes it may touch. -/
structure SlipWord where
  word : BitVec 32
  instr : Instr
  touches : Option (Bool × List (Nat × Nat))
  deriving DecidableEq, Repr

/-- Whether two words may touch a byte in common that one of them stores. -/
def SlipWord.collide (i j : SlipWord) : Bool :=
  match i.touches, j.touches with
  | some (x, l), some (y, m) => (x || y) && l.any (fun a => m.any (fun b => overlaps a.1 a.2 b.1 b.2))
  | _, _ => false

/-- Whether a word is scalar arithmetic or a branch, which the control front end runs without a lane group's part (R19). -/
def frontWord (w : BitVec 32) : Bool :=
  let m := w.toNat / 2 ^ 26
  (decide (1 ≤ m) && decide (m ≤ 7)) || (decide (0x0B ≤ m) && decide (m ≤ 0x0E)) || m == 0x3F

/-- The machine as a lane group meets the vector word `n` vector words after PC, and those words with that one: the front end has
run the scalar words between, and streams have moved past the words before it. None where another word stands between. -/
def State.slipTo : Nat → State → Nat → List SlipWord → Option (State × List SlipWord)
  | 0, _, _, _ => none
  | fuel + 1, s, n, ws =>
    match s.fetch with
    | .error _ => none
    | .ok (w, p) =>
      let i := instrOf w p
      let s := s.upd (fun h => h.withWord w p)
      let x : SlipWord := { word := w, instr := i, touches := s.spans i }
      if frontWord w then
        if ws.isEmpty then none
        else match exec i s with
          | .next t => if t.hart.st = s.hart.st then t.slipTo fuel n ws else none
          | _ => none
      else match n with
        | 0 => some (s, ws ++ [x])
        | n + 1 => (s.upd (fun h => (h.passStreams i).advance 4)).slipTo fuel n (ws ++ [x])

/-- Whether a word's results land some time after it has issued, which empties its destinations until then (R49, R158). -/
def Hart.landsLater (h : Hart) (w : BitVec 32) : Bool :=
  let m := w.toNat / 2 ^ 26
  m == 0x19 || (m == 0x18 && decide (16 < (if bits w.toNat 10 6 = 0 then h.rotn.toNat else bits w.toNat 10 6)))

/-- Whether a lane group may run the last of the words listed ahead of the others, the words before it being complete there: all
are of one width, none stores a byte that it touches, none sends to a stream that it sends to, and none has still to land
what it needs (R19, R49, R118, R195). -/
def State.slips (s : State) (ws : List SlipWord) : Bool :=
  let h := s.hart
  match ws.getLast? with
  | none => false
  | some z =>
    let f := h.vecForm z.instr
    let width (x : SlipWord) : Option Nat := h.apartWidth x.word x.instr
    (width z).isSome && ws.all (fun x => width x == width z)
      && ws.dropLast.all (fun x =>
        let y := h.vecForm x.instr
        !x.collide z && !(y.2.any (fun r => h.writeBound r && f.2.contains r))
          && !(h.landsLater x.word && y.2.any (fun r => f.1.contains r || f.2.contains r)))

/-- What one lane group's run of a word leaves, when it touched nothing that the hart holds once for all its lane groups: PC, the
scalars and the streams stay, and what was loaded has landed. `mark` is where the group now stands: the least index of the word
at PC that it has yet to do, and the words after it that are complete. -/
def State.apart (s t : State) (g : Nat) (mark : BitVec 16 × Nat) : Option State :=
  let h := s.hart
  let (ctr, skip) := h.progress
  let fe (x : VReg) : BitVec 32 := x.cfg &&& 0xFFF7FFFF
  if t.hart.st = h.st ∧ t.hart.ridx = h.ridx ∧ t.hart.vregs.map fe = h.vregs.map fe then
    let r : Restart := { ctr := ctr.set g mark.1, skip := skip.set g mark.2, performed := 0, fidx := 0, count := 0 }
    some { t.upd (fun x => { x with pc := h.pc, sregs := h.sregs, gens := h.gens, ir := h.ir, irPayload := h.irPayload
                                    restart := some r, pend := h.pend, counted := h.counted
                                    vregs := x.vregs.mapIdx (fun i v => { v with cfg := (h.v i).cfg }) }) with
           delaying := s.delaying }
  else none

/-- The element at which a lane group's run of a word of width `w` has stopped at a fault, when the group holds it (R262). -/
def State.stoppedAt (s t : State) (w g : Nat) : Option Nat :=
  match t.hart.save with
  | some r => if t.hart.st = .saved ∧ r.fel = true ∧ s.hart.groupOf w r.fidx = g then some r.fidx else none
  | none => none

/-- One lane group of the focused hart runs its next vector word ahead of the others, at most 4 words ahead, strips held back
counted in (R19, R26, R262); the strips that the word depends on complete and the stores its streams hold perform first (R195). It
runs its own elements of the word at PC up to the first that faults. It stays where it is where the word must run on all of them
together (log entry 32). -/
def State.groupTurn (s : State) (g : Nat) : State :=
  let h := s.hart
  let (ctr, skip) := h.progress
  let n := if ctr.getD g 0 = 0xFFFF then skip.getD g 0 + 1 else 0
  if h.w ≤ g ∨ h.st ≠ .resident ∨ h.sect.isSome ∨ h.replay.isSome ∨ h.loading ∨ 4 < n + h.heldStrips.length then s
  else match (s.upd (fun h => { h with restart := none })).slipTo 64 n [] with
    | none => s
    | some (u, ws) =>
      let w := (ws.getLast?.map (fun x => x.word)).getD 0
      let i := instrOf w 0
      if !u.slips ws || u.blocked u.hart i then s
      else match u.arbitrate h.core (h.lgb + g) h.id with
        | (u', false) => { s with arbs := u'.arbs }
        | (u', true) =>
          let s := { s with arbs := u'.arbs }
          let r : Restart :=
            if n = 0 then { ctr := (List.replicate 8 0xFFFF).set g (ctr.getD g 0), skip := [], performed := 0, fidx := 0, count := 0 }
            else { ctr := [], skip := (List.replicate 8 1).set g 0, performed := 0, fidx := 0, count := 0 }
          let u' := (u'.completeStrips w i).beforeLoads w
          let begin_ (k : Option Nat) : State := { u'.upd (fun h => { h with restart := some r, limit := k }) with delaying := [] }
          match exec i (begin_ none) with
          | .next t =>
            if t.hart.pc = u.hart.pc + 4 ∧ t.hart.st = h.st then (s.apart t g (0xFFFF, n)).getD s
            else match (s.stoppedAt t ((u.hart.apartWidth w i).getD 1) g).filter (fun _ => n == 0) with
              | none => s
              | some k => match exec i (begin_ (some k)) with
                | .next t => if t.hart.pc = u.hart.pc + 4 then (s.apart t g (BitVec.ofNat 16 k, skip.getD g 0)).getD s else s
                | _ => s
          | _ => s

/-! ## A hart's turn -/

/-- The word fetched issues (R234, R246); a reserved major goes to the emulation handler there too (R38, R40). A `vjoin`
whose lanes have not all stopped gives its turn to them. -/
def State.issueWord (s : State) (w p : BitVec 32) : Res :=
  let i := instrOf w p
  let s1 := s.upd (fun h => h.withWord w p)
  match s.hart.sect with
  | none => s1.run w i
  | some q =>
    match i with
    | .undefinedOpcode _ => s1.run w i
    | .vjoin _ => if q.busy then s.lanesTurn q else s1.run w i
    | _ => if sectionAdmits w i then s1.run w i else s1.illegal

/-- The turn of the focused hart: a deferred hard pre-emption that may now be taken (R266), the save for a faulted lane when
its section has ended (R240), a word of the lane named, of the lane group named alone, of the replay under way, or the word
at PC. A hart that cannot issue does nothing. -/
def State.hartTurn (s : State) (lane group : Option Nat) : Res :=
  let h := s.hart
  let s := if lane.isSome || group.isSome || h.hardReq.isSome then s.performWord else s
  if h.hardReq.isSome && !h.deferred then .next (s.hardPreempt 0)
  else if !h.runnable then .next s
  else match s.lanesEnded with
  | some l => .next (s.saveLanes l)
  | none =>
    match lane, group with
    | some e, _ => (s.laneStep e).getD (.next s)
    | none, some g => .next (s.groupTurn g)
    | none, none => match h.replay with
      | some p => s.replayTurn p
      | none => match s.fetch with
        | .error f => (s.performWord.upd (fun h => h.withWord 0 0)).fetchFault f
        | .ok (w, p) => s.issueWord w p

/-! ## The device by itself -/

/-- Whether a device step would change the state. -/
def changes (i : Instr) (s : State) : Bool :=
  match exec i s with
  | .next t => decide (t ≠ s)
  | _ => false

/-- The command of an OPC (R330). -/
def commandOf (op : Nat) : Option Instr :=
  ([(1, .qcreate), (2, .qdestroy), (3, .load), (4, .unload), (5, .launch), (6, .release), (7, .cancel), (8, .preempt),
    (9, .tlbinv), (10, .kvmap), (11, .asidcfg), (12, .fdring), (13, .setbeat), (14, .setltol), (15, .kvevict)]
      : List (Nat × Instr)).lookup op

/-- An accepted command that can make progress, in hand. -/
def State.dueCommand (s : State) : Option (State × Instr) :=
  s.cmds.findSome? (fun c =>
    let s' := { s with inHand := some c.seq }
    match commandOf c.opc with
    | some i => if changes i s' then some (s', i) else none
    | none => none)

/-- A queue with a packet to fetch. -/
def State.dueQueue (s : State) : Option (State × Instr) :=
  s.queues.findSome? (fun q =>
    let i := Instr.packetFetch (BitVec.ofNat 8 q.id)
    if changes i s then some (s, i) else none)

/-- An event with room in its ring. -/
def State.dueEvent (s : State) : Option (State × Instr) :=
  s.events.findSome? (fun e =>
    let i := Instr.eventRingPost e.fdom
    if changes i s then some (s, i) else none)

/-- A job that can run, or a code table that can swap. -/
def State.dueJob (s : State) : Option (State × Instr) :=
  let job := s.jobs.findSome? (fun j =>
    let i := if j.kind = 0 then Instr.copyJob (BitVec.ofNat 64 j.id) else Instr.footprintComplete (BitVec.ofNat 64 j.id)
    if !j.done && changes i s then some (s, i) else none)
  match job with
  | some x => some x
  | none => s.codeTabs.findSome? (fun c =>
      if c.2.swapPending then some (s, Instr.codeTableSwap (BitVec.ofNat 7 c.1)) else none)

/-- The steps that may be due on a hart, by its state. -/
def State.hartSteps (s : State) (h : Hart) : List Instr :=
  let forState : List Instr := match h.st with
    | .waiting .fullEmpty => [.hartWake, .producerLands]
    | .waiting .stream => [.hartWake, .streamReadAhead (BitVec.ofNat 3 h.watch.gen) (BitVec.ofNat 16 h.watch.need)]
    | .waiting _ | .saved => [.hartWake]
    | _ => match h.sect with
      | some q => if q.busy then
          ((List.range 8).filter (fun k => (h.gen k).bound && !(h.gen k).isWrite && (h.gen k).short (2 * q.vl))).map
            (fun k => .streamReadAhead (BitVec.ofNat 3 k) (BitVec.ofNat 16 (2 * q.vl)))
        else []
      | none => []
  let performs : List Instr :=
    if s.cycle % 64 = 0 then
      (h.wbuf.take 1).map (fun w => .accessPerforms (BitVec.ofNat 4 w.stream))
        ++ (h.late.take 1).map (fun l => .accessPerforms (BitVec.ofNat 4 l.stream))
    else []
  let when (b : Bool) (l : List Instr) : List Instr := if b then l else []
  List.flatten [forState, when (decide (h.tx.st = .submitted)) [.gateArrival, .orderFirstGrant],
    when (!h.soft.isEmpty) [.softRequestEscalation], when (s.wdogDue h) [.watchdogExpiry],
    when h.handler.isSome [.handlerOverrun], when (!h.heldStrips.isEmpty) [.compactionComplete (BitVec.ofNat 7 h.core)],
    performs]

/-- A step due on some hart, which is brought to the focus. -/
def State.dueHart (s : State) : Option (State × Instr) :=
  s.harts.findSome? (fun h =>
    let s' := s.focus h.id
    ((s.hartSteps h).find? (fun i => changes i s')).map (fun i => (s', i)))

/-- A beat, a batch, an energy tick that device time has made due. -/
def State.dueTime (s : State) : Option (State × Instr) :=
  if s.stage ≠ 0 ∧ s.beatFrom + s.beat.toNat ≤ s.ns then some (s, .beatEnd)
  else if !s.merged.isEmpty then some (s, .batchAppend)
  else if s.lastTick < s.ns / 1000 then some (s, .energyTick)
  else none

/-- A core on which placement would do something for a hart that has no context. -/
def State.duePlacement (s : State) : Option (State × Instr) :=
  if s.harts.any (fun h => decide (h.st = .created ∨ h.st = .ready)) then
    ((List.range 128).find? (fun c => changes (.hartPlacement (BitVec.ofNat 7 c)) s)).map
      (fun c => (s, .hartPlacement (BitVec.ofNat 7 c)))
  else none

/-- The first of two that is there. -/
def orThen {α : Type} (a : Option α) (b : Unit → Option α) : Option α :=
  match a with
  | some x => some x
  | none => b ()

/-- The device step due before any hart issues. -/
def State.due (s : State) : Option (State × Instr) :=
  orThen s.dueCommand fun _ => orThen s.dueQueue fun _ => orThen s.dueEvent fun _ => orThen s.dueJob fun _ =>
    orThen s.dueHart fun _ => orThen s.dueTime fun _ => s.duePlacement

/-- What an idle device does: its staged start, then its power state (R338, R339). -/
def State.idleStep (s : State) : Option Instr :=
  if s.stage < 2 then (if s.firmwareGood then some .startStage else none)
  else if !s.startDone then
    match ([0, 1, 2, 3] : List Nat).find? (fun d => !s.joined.getLsbD d) with
    | some d => some (.dieJoin (BitVec.ofNat 2 d))
    | none => some .startStage
  else if s.deepest ≠ s.pstate.toNat then some .powerStateChange
  else none

/-- After a hart's turn of the device's own choosing the next hart that can issue comes to the focus (log entry 1). -/
def State.rotate (s : State) : State :=
  match s.parked.find? (fun h => h.runnable) with
  | none => s
  | some h => { s with hart := h, parked := s.parked.filter (fun x => !decide (x.id = h.id)) ++ [s.hart] }

/-- A turn that the agenda does not name: a device step that is due, else a hart's turn, else the idle device's. The vector words
under way perform their loads first. -/
def State.ownTurn (s : State) : Res :=
  let s := s.settleWords
  match s.due with
  | some (s', i) => exec i s'
  | none =>
    let s' := if s.hart.runnable then s else s.rotate
    if s'.hart.runnable then
      match s'.hartTurn none none with
      | .next t => .next t.rotate
      | r => r
    else match s.idleStep with
      | some i => exec i s
      | none => .next s

/-- Whether a constructor is a device step: it has no encoding and is no undefined word. -/
def isDeviceStep (i : Instr) : Bool :=
  match i with
  | .undefinedOpcode _ | .illegalInstruction _ => false
  | i => (encode i).isNone

/-- Loads under way of every hart that read a byte perform. -/
def State.settleByte (s : State) (a : Nat) : State :=
  let reads (h : Hart) : Bool := h.late.any (fun l => l.elems.any (fun e => decide (e.2 ≤ a) && decide (a < e.2 + l.size)))
  ((s.harts.filter reads).map (fun h => h.id)).foldl (fun s id => s.onHart id State.settleLoads) s.settleWords

/-- An uncorrectable error arises (R214, R256). Loads of the byte that were under way have read it before (log entry 85). -/
def State.spoil (s : State) : Spoil → State
  | .mem pa => let s := s.settleByte pa.toNat
               { s with poison := pa.toNat :: s.poison }
  | .pad a => let s := s.settleWords
              { s with padPoison := a :: s.padPoison }
  | .regs => s.upd (fun h => { h with badRegs := true })

/-- Vector words under way perform their loads before a device step; before ACCESS_PERFORMS only the focused hart's word does,
where it loads in the stream named. -/
def State.settleFor (s : State) (i : Instr) : State :=
  match i with
  | .accessPerforms k => if s.hart.lateWord.any (fun x => x.streams.contains k.toNat) then s.performWord else s
  | _ => s.settleWords

/-- What a turn of the agenda brings about before it acts: the hart in focus, an error that arises, the command in hand. -/
def State.prepare (s : State) (t : Turn) : State :=
  let s := match t.focus with
    | some id => s.focus id
    | none => s
  let s := match t.spoil with
    | some x => s.spoil x
    | none => s
  { s with inHand := t.cmd }

/-- A turn the agenda names: its device step, or the turn of the focused hart. -/
def State.namedTurn (s : State) (t : Turn) : Res :=
  let s := s.prepare t
  match t.act with
  | some i => if isDeviceStep i then exec i (s.settleFor i) else .next s
  | none => s.hartTurn t.lane t.group

/-- Producers of a hart come a step nearer to landing, and land once their loads have performed (R49; log entry 10). -/
def Hart.age (h : Hart) : Hart :=
  if h.pend.isEmpty then h
  else
    let ps := h.pend.map (fun p => { p with due := p.due - 1 })
    let lands (p : Pending) : Bool := p.due == 0 && !h.awaits p
    { h.setFulls true ((ps.filter lands).flatMap (fun p => p.regs)) with pend := ps.filter (fun p => !lands p) }

/-- Strips complete no later than 256 cycles after they were held back (R26). -/
def Hart.endStrips (now : Nat) (h : Hart) : Hart :=
  { h with heldStrips := h.heldStrips.filter (fun x => decide (now < x.since + 256)) }

/-- A step takes one cycle (R3; log entry 13), in which producers come nearer, strips end and a beat may (R317). -/
def State.tick (s : State) : State :=
  let s := { s with cycle := s.cycle + 1, inHand := none }
  ((s.mapHarts (Hart.endStrips s.cycle)).upd Hart.age).passBeat

/-- The end of a step: its cycle passes, unless the next turn shares it. -/
def State.close (s : State) (hold : Bool) : State := if hold then { s with inHand := none } else s.tick

/-- Whether the turn the next step makes shares its cycle with the turn after it. -/
def State.holds (s : State) : Bool :=
  match s.agenda with
  | [] => false
  | t :: _ => t.hold

/-- The turn the next step makes. -/
def State.turn (s : State) : Res :=
  match s.agenda with
  | [] => s.ownTurn
  | t :: rest => { s with agenda := rest }.namedTurn t

end Sys2Proof.Machine
end

