-- ==== Sys2Proof/Machine/Step.lean ====
section
/-! DEFINITION. The step of the machine: one turn of the device, which takes one cycle; and the state whose next step
runs a word given (log entry 1). -/

namespace Sys2Proof.Machine

/-- One step. -/
def step (s : State) : Host.Outcome State Fault Refusal :=
  match s.turn with
  | .next t => .next (t.close s.holds)
  | .fault f => .fault f
  | .refused r => .refused r

/-- A page of 256 KiB at virtual and physical address 0 of an address space, with every permission. -/
def fetchPage (asid : BitVec 16) : Page :=
  { asid := asid, vbase := 0, size := .k256, pbase := 0, readable := true, writable := true, executable := true
    attr := .hbm, pinned := true }

/-- A turn of the hart in focus, and nothing besides. -/
def Turn.plain : Turn := { focus := none, lane := none, group := none, cmd := none, spoil := none, act := none, hold := false }

/-- The state with the instruction of `nbits` bits stored where the next step fetches: the hart in focus is resident at
PC 0 of a page that maps address 0, with nothing under way, and the next turn is its own. It stands for the launch that
loads a program and places its hart (log entry 47). -/
def State.withFetchWord (s : State) (nbits w : Nat) : State :=
  let h := s.hart
  { s with
    hart := { h with st := .resident, pc := 0, sect := none, replay := none, handler := none, restart := none
                     hardReq := none, lane := none, late := [], lateWord := none }
    pages := fetchPage h.info.asid :: s.pages
    tlb := s.tlb.filter (fun p => !pageCovers p h.info.asid 0)
    mem := memStore s.mem 0 (natLe 8 (w % 2 ^ nbits))
    poison := s.poison.filter (fun a => decide (8 ≤ a))
    agenda := [Turn.plain] }

end Sys2Proof.Machine
end

