-- ==== Sys2Proof/Safety.lean ====
section
/-! DEFINITION. What the claims speak of: the invariants of the machine, a safe run, the context in which a vector
instruction executes on whole registers, and what an instruction leaves in one register, group, mask or memory. -/

namespace Sys2Proof.Machine

/-! ## Invariants -/

/-- The widths a lane-group grant can have (R15). -/
def grantWidth (w : Nat) : Bool := w == 1 || w == 2 || w == 4 || w == 8

/-- Memory and the scratchpads stand in canonical form. -/
def State.MemInv (s : State) : Prop := Memory.wf s.mem = true ∧ Memory.wf s.pads = true

/-- Every hart's grant is 1, 2, 4 or 8 lane groups wide (R15). -/
def State.GrantInv (s : State) : Prop := ∀ h ∈ s.harts, grantWidth h.w = true

/-! ## Safe runs -/

/-- `n` steps from a state make no stop. -/
def State.runs : Nat → State → Prop
  | 0, _ => True
  | n + 1, s => ∃ t, step s = .next t ∧ t.runs n

/-- The steps by which the outside reaches bytes of memory, the only ones that can name a byte that is not there. -/
def outsideAccess : Instr → Bool
  | .hostMemoryAccess _ | .peerPortRequest _ _ => true
  | _ => false

/-! ## Results of scalar instructions -/

/-- The state with a value in s[d] and the PC past an instruction of one word: nothing else differs. -/
def State.wrote (s : State) (d : Reg) (v : Word) : State := s.setHart ((s.hart.wr d v).advance 4)

/-- The state with the PC of the focused hart at an address: nothing else differs. -/
def State.atPc (s : State) (pc : Word) : State := s.setHart { s.hart with pc := pc }

/-! ## Memory as a hart and the others see it -/

/-- A byte of memory as a load of stream `k` of the hart in focus would read it now (R194, R196). -/
def State.sees (s : State) (k a : Nat) : Byte := s.see s.hart k false a

/-- The other harts, whatever they watch: a write may satisfy what a waiting hart waits for (R13), and nothing else of
another hart changes by it. -/
def State.others (s : State) : List Hart := s.parked.map (fun h => { h with watch := Watch.none })

/-- `t` is `s` after a one-word instruction that wrote memory: the hart's registers are as they were but for its PC and
those that `f` changes, and so are the other harts. -/
def State.AfterStore (s t : State) (f : Hart → Hart) : Prop :=
  t.hart = { f s.hart with pc := s.hart.pc + 4, watch := t.hart.watch, wbuf := t.hart.wbuf } ∧ t.others = s.others

/-- `t` is `s` after a part of an instruction that wrote memory: as `AfterStore`, with the PC where it was. -/
def State.AtStore (s t : State) (f : Hart → Hart) : Prop :=
  t.hart = { f s.hart with watch := t.hart.watch, wbuf := t.hart.wbuf } ∧ t.others = s.others

/-! ## A fault of one element -/

/-- The trap of the fault `f` of element `q` of an instruction over elements of width `w`, `act` being those it was to perform:
the index and the address are recorded, with each lane group's counter (R163, R262). -/
def Hart.elemTrap (h : Hart) (w : Nat) (act : List Nat) (q : Nat) (f : Flt) : Trap :=
  { cause := f.cause, detail := f.detail, rpc := h.pc, fel := true, fidx := q, faddr := f.faddr
    ctr := h.counters w act q, performed := 0 }

/-- The exception taken for an element's fault; an undeclared access ends the transaction first (R322). -/
def State.faults (s : State) (t : Trap) : State := (if t.cause = cUndecl then s.drainAll.endTx else s).taken t

/-! ## A hart executing whole instructions on whole registers -/

/-- The hart executes in its own turn, not in a lane's, with nothing left of a restart and nothing taken from a stream,
and its grant is one that R15 gives. -/
structure Hart.Plain (h : Hart) : Prop where
  own : h.lane = none
  whole : h.restart = none
  unlimited : h.limit = none
  untaken : h.taken = []
  unwalked : h.walked = []
  uncounted : h.counted = []
  width : grantWidth h.w = true

/-- Every register of a group is full and bound to no stream (R49, R177). -/
def Hart.usable (h : Hart) (r g : Nat) : Prop := ∀ i ∈ members r g, h.isBound i = false ∧ cfgFull (h.v i).cfg = true

/-- Element `e` of width `w` of the group of `g` registers at `r` (R47, R91). -/
def Hart.elem (h : Hart) (r g w e : Nat) : Nat := elemAt (h.grpBits r g) w e

/-- The configuration word that an instruction with the result configuration `c` leaves where `old` stood: FE is kept
(R120). -/
def resultCfg (c old : BitVec 32) : BitVec 32 := (c &&& 0xFFF7FFFF) ||| (old &&& 0x00080000)

/-- What an instruction that writes elements leaves in the registers (R56, R120, R121): in the group of `g` registers at
`d`, element `e` of width `w` holds `val e` where `act e` holds and what it held elsewhere; each member's configuration word
has become `c` of what it was; every other register is as it was. -/
structure GroupWritten (h h' : Hart) (d g w : Nat) (c : BitVec 32 → BitVec 32) (act : Nat → Bool) (val : Nat → Nat) :
    Prop where
  elems : ∀ e, w * (e + 1) ≤ 256 * h.w * g → h'.elem d g w e = if act e then val e % 2 ^ w else h.elem d g w e
  config : ∀ r ∈ members d g, (h'.v r).cfg = c (h.v r).cfg
  others : ∀ r < 32, r ∉ members d g → h'.v r = h.v r

/-- The second operand of an elementwise instruction for element `e` (R122): an element of a vector, the low bits of a
scalar, or a whole scalar as shift amount. -/
def Hart.operand2 (h : Hart) (op : EOp) (w : Nat) (b : Second) (e : Nat) : Nat :=
  match b with
  | .vec r _ => h.elem r.toNat (h.grp r) (h.ty r).w e
  | .scal r => if op = .shl ∨ op = .shr then (h.rd r).toNat else (h.rd r).toNat % 2 ^ w
  | .none => 0

/-- The active elements of an instruction, masked or not, (R121): those below VL that the mask selects. -/
def Hart.isActive (h : Hart) (k : BitVec 3) (e : Nat) : Bool := decide (e < h.vl) && h.sel k e

/-- The active elements in ascending order. -/
def Hart.activeList (h : Hart) (k : BitVec 3) : List Nat := (List.range h.vl).filter (h.isActive k)

/-- Bit `i` of an element as a byte of physical memory and a bit of it: `l` are the places that the checks of R344 found for
the bytes of an element at `p` (R162). -/
def spot (l : List Phys) (p : Place) (i : Nat) : Nat × Nat :=
  match l with
  | [] => (0, 0)
  | [q] => (q.pa + (p.bit + i) / 8, (p.bit + i) % 8)
  | q :: q' :: _ => (if p.bit + i < 8 then q.pa else q'.pa, (p.bit + i) % 8)

/-- A bit of memory as stream `k` of the hart in focus sees it. -/
def State.seesBit (s : State) (k : Nat) (x : Nat × Nat) : Bool := (s.sees k x.1).getLsbD x.2

/-- Rows 0 to R − 1 of a tile hold `val i j`, everything else of it what it held (R215, R223). -/
def TileRows (x y : Tile) (R : Nat) (val : Nat → Nat → Nat) : Prop :=
  y.enabled = x.enabled ∧ ∀ i < 64, ∀ j < 64, y.at i j = if i < R then val i j % 2 ^ 32 else x.at i j

/-- `r` is v / m rounded to the nearest integer, a tie to the even one. -/
def RoundedTo (v : Int) (m : Nat) (r : Int) : Prop :=
  2 * (v - r * m).natAbs ≤ m ∧ (2 * (v - r * m).natAbs = m → r % 2 = 0)

/-! ## Commands and device steps -/

/-- Every hart's context, whatever it watches. -/
def State.contexts (s : State) : List Hart := s.harts.map (fun h => { h with watch := Watch.none })

/-- The command in hand is `c`, of the OPC `op`; it may take effect (R331), and no bit outside those that `ms` names is set in
its operands (R329). -/
def State.handed (s : State) (op : Nat) (ms : List Nat) (c : Cmd) : Prop :=
  s.handCmd op = some c ∧ (c.began = true ∨ s.mayBegin c = true) ∧ c.clean ms = true

/-- In `t` the command has completed with an outcome: its journal entry is the last one, its completion doubleword holds its
acceptance number and the outcome, and it is no longer among those accepted (R331, R332). -/
def Completes (t : State) (c : Cmd) (outcome : Nat) : Prop :=
  let at_ := c.d 7 % 2 ^ 56
  (∀ x ∈ t.cmds, x.seq ≠ c.seq) ∧
    (at_ ≠ 0 → at_ + 8 ≤ hbmBytes → memRead t.mem at_ 8 = (c.seq.toNat * 2 ^ 16 + outcome) % 2 ^ 64) ∧
    ∃ e, t.journal.getLast? = some e ∧ e.kind = 1 ∧ e.outcome = BitVec.ofNat 16 outcome ∧ e.detail = c.seq ∧
      e.queue = BitVec.ofNat 8 c.queue

/-- It has completed, every hart's context is as it was, and every byte of memory but its completion doubleword (R331). -/
def QuietlyCompletes (s t : State) (c : Cmd) (outcome : Nat) : Prop :=
  Completes t c outcome ∧ t.contexts = s.contexts ∧ ∀ x, (x < c.d 7 % 2 ^ 56 ∨ c.d 7 % 2 ^ 56 + 8 ≤ x) →
    memGet t.mem x = memGet s.mem x

/-- The trap of a save between instructions, with no instruction recorded (R254, R262). -/
def betweenTrap (h : Hart) (cause detail : BitVec 8) : Trap :=
  { cause := cause, detail := detail, rpc := h.pc, fel := false, fidx := 0, faddr := 0, ctr := ctrDone, performed := 0 }

/-- The flags that an instruction's elements set together. -/
def orAll (l : List Nat) : Nat := l.foldl (fun a b => a ||| b) 0

end Sys2Proof.Machine
end

