-- ==== Sys2Proof/Certificates/Slice0/Obligations.lean ====
section
/-! DEFINITION. The statements for the provers, family by family. -/

open Sys2Proof Sys2Proof.Machine

/-! ## Words -/

/-- Words written out from the spec's encodings decode to the instructions they stand for (R32 to R37; the words are the
spec's own examples or written bit by bit from the entries' fields). -/
def Obligations.DecodeOfSpecWords : Prop :=
  decodeWord 0x04A63800 0 = .add 5 6 7 ∧ decodeWord 0x08A5FFFF 0 = .addi 5 5 0xFFFF ∧
  decodeWord 0x18C50003 0 = .slli 6 5 3 ∧ decodeWord 0x2102C002 0 = .ldd 8 2 2 ∧
  decodeWord 0x2502C000 0 = .std 8 2 0 ∧ decodeWord 0x28A7304C 0 = .amoAdd 5 7 6 4 3 ∧
  decodeWord 0x2CA64005 0 = .blt 5 6 5 ∧ decodeWord 0x3CA6C00C 0 = .vsetlb 5 6 6 12 ∧
  decodeWord 0x00001883 0 = .fence 3 4 ∧ decodeWord 0x80286000 0 = .mop 1 8 12 0 0 ∧
  decodeWord 0x92954800 0 = .kfork 20 21 9 ∧ decodeWord 0x770D0000 0 = .bind 24 13

/-- Decoding what the encoder gives an instruction with no reserved field value gives the instruction back: no bit of an
operand is dropped, over every instruction that has words of its own (R32 to R37). -/
def Obligations.DecodeOfEncode : Prop :=
  ∀ (i : Instr) (ws : List Nat), i.wf = true → (∀ w, i ≠ .illegalInstruction w) → encode i = some ws →
    decodeWords ws = some i

/-- The other way round: a word that the decoder does not refuse is, with its payload where it has one, the very word that
the encoder gives its instruction, so that no two words mean the same and no bit of a word is ignored.

A word is left to the emulation handler exactly when its major is 0x28 to 0x3E; every other word that no instruction
has is an illegal instruction (R38, R39). -/
def Obligations.EncodeOfDecode : Prop :=
 (∀ w p : Nat, w < 2 ^ 32 → p < 2 ^ 32 → (∀ x, decodeWord w p ≠ .illegalInstruction x) →
    encode (decodeWord w p) = some (if isLong w then [w, p] else [w])) ∧
 (∀ w p : Nat, w < 2 ^ 32 →
    ((∃ x, decodeWord w p = .undefinedOpcode x) ↔ 0x28 ≤ w / 2 ^ 26 ∧ w / 2 ^ 26 ≤ 0x3E) ∧
    (∀ x, decodeWord w p = .undefinedOpcode x → x.toNat = w) ∧
    (∀ x, decodeWord w p = .illegalInstruction x → x.toNat = w))

/-! ## A step and the whole machine -/

/-- A turn of the hart in focus runs the instruction that the bytes at its PC decode to: the word is noted, `exec` gives
the instruction's effect, the books are kept (energy, restart, strips held back) and the step takes its cycle, unless the
next turn shares it. Before `exec` the strips it cannot pass complete (R26), a deliberate trap is charged (R269), loads
under way perform where they must, and the stores perform that the streams of its loads still hold (R195, R196); with none of
these it is `exec` at that state. A vector instruction that can issue does so when the arbiters of its lane groups let it
(R22), and else only their books change: that it issues only when all of them let it in one cycle is the model's choice (log
entry 55; R19 and R22 let each lane group issue by itself). A fetch that faults raises the fetch's fault instead (R344). The
plain turn of the agenda, and a step that takes one cycle, are the model's choices (log entries 1 and 13), and so are the loads
that the agenda delays (log entry 85). -/
def Obligations.StepRunsDecoded : Prop :=
 (∀ (s : State) (hold : Bool) (rest : List Turn), s.agenda = { Turn.plain with hold := hold } :: rest →
    s.hart.st = .resident → s.hart.sect = none → s.hart.replay = none → s.hart.restart = none → s.hart.hardReq = none →
    let s0 : State := { s with agenda := rest, inHand := none }
    let ends (r : Res) : Res := match r with
      | .next t => .next (t.close hold)
      | .fault f => .fault f
      | .refused r => .refused r
    (∀ w p, s.fetch = .ok (w, p) → let i := instrOf w p
      let s1 := s0.upd (fun h => h.withWord w p)
      let runs (u : State) : Prop := let v := (u.completeStrips w i).precharge w i
        step s = ends (match v.execAfterLoads w i with
          | .next t => .next (v.account w i t)
          | r => r)
      (s1.candidate s1.hart = false → runs s1) ∧
      (s1.candidate s1.hart = true → s1.mayIssue.1 = { s1 with arbs := s1.mayIssue.1.arbs } ∧
        (s1.mayIssue.2 = true → runs s1.mayIssue.1) ∧
        (s1.mayIssue.2 = false → step s = ends (.next s1.mayIssue.1)))) ∧
    (∀ f, s.fetch = .error f → step s = ends ((s0.performWord.upd (fun h => h.withWord 0 0)).fetchFault f))) ∧
 (∀ (u : State) (w : BitVec 32) (i : Instr),
    (u.hart.late = [] → u.hart.lateWord = none → u.delaying = [] → u.execAfterLoads w i = exec i (u.beforeLoads w)) ∧
    (u.hart.wbuf = [] → u.beforeLoads w = u) ∧
    (∀ x ∈ (u.beforeLoads w).hart.wbuf, x ∈ u.hart.wbuf ∧ x.stream ∉ loadStreams w) ∧
    (u.hart.lateWord = none → u.performWord = u) ∧
    u.settleAll.hart.late = [] ∧ u.settleAll.hart.lateWord = none ∧
    (u.hart.heldStrips = [] → u.completeStrips w i = u) ∧
    ((∀ c, i ≠ .trap c) → i ≠ .ebreak → u.precharge w i = u) ∧ u.close false = u.tick)

/-- What the spec says of the machine right after reset: stage 0, no die joined, nothing verified, A0, no queue, AQBASE and
AQCTL 0, an empty journal and seed log, BEAT 512, no launch, no object; and a hart at its creation has the reset values of R50
and R45 (R9, R45, R50, R317, R326, R338, R339).

The invariants hold right after reset, where the hart in focus is one that has retired: that the machine's slot for a hart
holds such a one is the model's choice (log entry 2). -/
def Obligations.ResetState : Prop :=
 (State.reset.stage = 0 ∧ State.reset.joined = 0 ∧ State.reset.verified = false ∧ State.reset.pstate = 0 ∧
  State.reset.queues = [] ∧ State.reset.aqbase = 0 ∧ State.reset.aqctl = 0 ∧ State.reset.journal = [] ∧
  State.reset.jhead = 0 ∧ State.reset.seedLog = [] ∧ State.reset.seedCount = 0 ∧ State.reset.beat = 512 ∧
  State.reset.launches = [] ∧ State.reset.objs = [] ∧ (∀ h ∈ State.reset.harts, h.st = .retired) ∧
  ∀ id info n, let h := Hart.blank id info n
    h.vl = 0 ∧ h.trows = 0 ∧ h.flags = 0 ∧ h.cvgm = 0 ∧ h.rmode = 0 ∧ h.rotn = 32 ∧ h.seed = 0 ∧ h.ridx = 0 ∧
    h.ecnt = 0 ∧ h.dens = 0 ∧ h.trapbase = 0 ∧ h.repth = 0 ∧ h.pc = info.code.setWidth 64 ∧
    (∀ W, grantWidth W = true → ({ h with w := W } : Hart).vlmax = 8 * W) ∧
    (∀ r < 32, cfgTag (h.v r).cfg = 0 ∧ cfgFull (h.v r).cfg = true)) ∧
 (State.reset.MemInv ∧ State.reset.GrantInv)

/-- Every step keeps memory and the scratchpads in canonical form, whatever instruction or device step it makes. -/
def Obligations.StepKeepsMemoryForm : Prop :=
  ∀ s t : State, s.MemInv → step s = .next t → t.MemInv

/-- Every step leaves every hart a grant of 1, 2, 4 or 8 lane groups (R15). -/
def Obligations.StepKeepsGrantWidths : Prop :=
  ∀ s t : State, s.GrantInv → step s = .next t → t.GrantInv

/-- No instruction and no device step stops the machine, but an access of the host or of a peer that names a byte the
spec says is not there: every fault of the spec is taken as an exception, and gives a next state. Where memory's bytes end,
and the agenda that names the step, are the model's choices (log entries 71 and 1). -/
def Obligations.OnlyOutsideAccessStops : Prop :=
  (∀ (i : Instr) (s : State), outsideAccess i = false → ∃ t : State, exec i s = .next t) ∧
  (∀ (s : State) (r : Refusal), step s ≠ .refused r) ∧
  (∀ (s : State) (f : Fault), step s = .fault f → ∃ turn rest i, s.agenda = turn :: rest ∧ turn.act = some i ∧
    outsideAccess i = true ∧ ∃ pa, f = .noSuchPhysicalByte pa)

/-! ## Scalar instructions -/

/-- Writing a scalar register: s0 reads as zero and discards what is written to it; any other register holds the value
written; nothing else of the context changes (R44, R58).

The instructions of major 0x01 whose results R62 gives as one expression: the value is written to s[d], the PC moves
on by 4, and nothing else changes.

Products' high halves, quotients and remainders, with the outcomes R63 defines for a zero divisor and for the most
negative number over −1: each writes s[d], moves the PC on by 4 and changes nothing else (R62, R63).

Counts of leading zeros, trailing zeros and ones (R62): each writes s[d], moves the PC on by 4 and changes nothing
else.

The immediate forms: `addi` and `slti` take the sign-extended immediate, `andi`, `ori` and `xori` the zero-extended
one, the shifts their amount, `lui` gives the signed immediate × 2^16; the words of majors 0x02 to 0x05 and 0x0E in format I are
these instructions (R64, R65, R66).

The long forms: `limm` writes the sign-extended payload; `limmh` puts the payload into the high half and keeps the low
half; both move the PC on by 8 and change nothing else (R37, R67). -/
def Obligations.ScalarArithmetic : Prop :=
 (∀ (h : Hart) (d : Reg) (v : Word),
    (∀ r : Reg, (h.wr d v).rd r = if r = 0 then 0 else if r = d then v else h.rd r) ∧
    h.wr d v = { h with sregs := (h.wr d v).sregs } ∧ h.wr 0 v = h) ∧
 (∀ (s : State) (d ra rb : Reg), let a := s.hart.rd ra; let b := s.hart.rd rb
    exec (.add d ra rb) s = .next (s.wrote d (a + b)) ∧
    exec (.sub d ra rb) s = .next (s.wrote d (a - b)) ∧
    exec (.mul d ra rb) s = .next (s.wrote d (a * b)) ∧
    exec (.and d ra rb) s = .next (s.wrote d (a &&& b)) ∧
    exec (.or d ra rb) s = .next (s.wrote d (a ||| b)) ∧
    exec (.xor d ra rb) s = .next (s.wrote d (a ^^^ b)) ∧
    exec (.andn d ra rb) s = .next (s.wrote d (a &&& ~~~b)) ∧
    exec (.sll d ra rb) s = .next (s.wrote d (a <<< (b.toNat % 64))) ∧
    exec (.srl d ra rb) s = .next (s.wrote d (a >>> (b.toNat % 64))) ∧
    exec (.sra d ra rb) s = .next (s.wrote d (a.sshiftRight (b.toNat % 64))) ∧
    exec (.slt d ra rb) s = .next (s.wrote d (if a.toInt < b.toInt then 1 else 0)) ∧
    exec (.sltn d ra rb) s = .next (s.wrote d (if a.toNat < b.toNat then 1 else 0)) ∧
    exec (.min d ra rb) s = .next (s.wrote d (if a.toInt < b.toInt then a else b)) ∧
    exec (.max d ra rb) s = .next (s.wrote d (if a.toInt < b.toInt then b else a)) ∧
    exec (.minn d ra rb) s = .next (s.wrote d (if a.toNat < b.toNat then a else b)) ∧
    exec (.maxn d ra rb) s = .next (s.wrote d (if a.toNat < b.toNat then b else a))) ∧
 (∀ (s : State) (d ra rb : Reg), let a := s.hart.rd ra; let b := s.hart.rd rb
    (∃ v : Word, exec (.mulh d ra rb) s = .next (s.wrote d v) ∧
      2 ^ 64 * v.toInt ≤ a.toInt * b.toInt ∧ a.toInt * b.toInt < 2 ^ 64 * v.toInt + 2 ^ 64) ∧
    (∃ v : Word, exec (.divn d ra rb) s = .next (s.wrote d v) ∧
      (b = 0 → v = BitVec.allOnes 64) ∧ (b ≠ 0 → v.toNat = a.toNat / b.toNat)) ∧
    (∃ v : Word, exec (.remn d ra rb) s = .next (s.wrote d v) ∧
      (b = 0 → v = a) ∧ (b ≠ 0 → v.toNat = a.toNat % b.toNat)) ∧
    (∃ v : Word, exec (.div d ra rb) s = .next (s.wrote d v) ∧
      (b = 0 → v = BitVec.allOnes 64) ∧ (a = BitVec.intMin 64 ∧ b = BitVec.allOnes 64 → v = a) ∧
      (b ≠ 0 → ¬(a = BitVec.intMin 64 ∧ b = BitVec.allOnes 64) → v.toInt = a.toInt.tdiv b.toInt)) ∧
    (∃ v : Word, exec (.rem d ra rb) s = .next (s.wrote d v) ∧
      (b = 0 → v = a) ∧ (a = BitVec.intMin 64 ∧ b = BitVec.allOnes 64 → v = 0) ∧
      (b ≠ 0 → v.toInt = a.toInt.tmod b.toInt))) ∧
 (∀ (s : State) (d ra : Reg), let a := s.hart.rd ra
    (∃ n, exec (.clz d ra) s = .next (s.wrote d (BitVec.ofNat 64 n)) ∧ (a = 0 → n = 64) ∧
      (a ≠ 0 → n < 64 ∧ a.getLsbD (63 - n) = true ∧ ∀ i, 63 - n < i → a.getLsbD i = false)) ∧
    (∃ n, exec (.ctz d ra) s = .next (s.wrote d (BitVec.ofNat 64 n)) ∧ (a = 0 → n = 64) ∧
      (a ≠ 0 → n < 64 ∧ a.getLsbD n = true ∧ ∀ i < n, a.getLsbD i = false)) ∧
    (∃ n, exec (.popc d ra) s = .next (s.wrote d (BitVec.ofNat 64 n)) ∧
      n = ((List.range 64).filter (fun i => a.getLsbD i)).length)) ∧
 (∀ (s : State) (d ra : Reg) (i : BitVec 16) (n : BitVec 6), let a := s.hart.rd ra
    exec (.addi d ra i) s = .next (s.wrote d (a + BitVec.ofInt 64 i.toInt)) ∧
    exec (.andi d ra i) s = .next (s.wrote d (a &&& BitVec.ofNat 64 i.toNat)) ∧
    exec (.ori d ra i) s = .next (s.wrote d (a ||| BitVec.ofNat 64 i.toNat)) ∧
    exec (.xori d ra i) s = .next (s.wrote d (a ^^^ BitVec.ofNat 64 i.toNat)) ∧
    exec (.slti d ra i) s = .next (s.wrote d (if a.toInt < i.toInt then 1 else 0)) ∧
    exec (.slli d ra n) s = .next (s.wrote d (a <<< n.toNat)) ∧
    exec (.srli d ra n) s = .next (s.wrote d (a >>> n.toNat)) ∧
    exec (.srai d ra n) s = .next (s.wrote d (a.sshiftRight n.toNat)) ∧
    exec (.lui d i) s = .next (s.wrote d (BitVec.ofInt 64 (i.toInt * 2 ^ 16))) ∧
    ∀ p, ∀ m x, (m, x) ∈ [(2, Instr.addi d ra i), (3, .andi d ra i), (4, .ori d ra i), (5, .xori d ra i), (14, .slti d ra i)] →
      decodeWord (((m * 32 + d.toNat) * 32 + ra.toNat) * 2 ^ 16 + i.toNat) p = x) ∧
 (∀ (s : State) (d : Reg) (p : BitVec 32),
    exec (.limm d p) s = .next (s.setHart ((s.hart.wr d (BitVec.ofInt 64 p.toInt)).advance 8)) ∧
    exec (.limmh d p) s = .next (s.setHart ((s.hart.wr d
      (BitVec.ofNat 64 (p.toNat * 2 ^ 32 + (s.hart.rd d).toNat % 2 ^ 32))).advance 8)))

/-- A branch compares s[a] with s[b]: when the relation holds it sets PC to the branch address + 4 × sext(offset13, 13),
otherwise execution falls through. Nothing else changes. The relations are the conds 0 to 5 of format B, and 6 and 7 are
reserved (R73).

`jal` sets s1 = PC + 4 and PC = PC + 4 × sext(offset26, 26). `jalr` forms its target from s[a] as it stood before; an
aligned target sets s[d] = PC + 4 and PC = target, any other raises a misaligned-access fault at the `jalr` and writes
nothing; at a target with bits [63:56] nonzero it is the fetch that faults, s[d] written. The words are those of majors 0x0C in
format J and 0x0D in format I (R74, R75). -/
def Obligations.BranchesAndJumps : Prop :=
 (∀ (s : State) (ra rb : Reg) (o : BitVec 13), let a := s.hart.rd ra; let b := s.hart.rd rb
    let there := s.atPc (s.hart.pc + BitVec.ofInt 64 (4 * o.toInt)); let onward := s.atPc (s.hart.pc + 4)
    exec (.beq ra rb o) s = .next (if a = b then there else onward) ∧
    exec (.bne ra rb o) s = .next (if a ≠ b then there else onward) ∧
    exec (.blt ra rb o) s = .next (if a.toInt < b.toInt then there else onward) ∧
    exec (.bge ra rb o) s = .next (if b.toInt ≤ a.toInt then there else onward) ∧
    exec (.bltn ra rb o) s = .next (if a.toNat < b.toNat then there else onward) ∧
    exec (.bgen ra rb o) s = .next (if b.toNat ≤ a.toNat then there else onward) ∧
    ∀ (c : BitVec 3) p, let w := (((0x0B * 32 + ra.toNat) * 32 + rb.toNat) * 8 + c.toNat) * 2 ^ 13 + o.toNat
      decodeWord w p = ([Instr.beq ra rb o, .bne ra rb o, .blt ra rb o, .bge ra rb o, .bltn ra rb o, .bgen ra rb o].getD c.toNat
        (.illegalInstruction (BitVec.ofNat 32 w)))) ∧
 (∀ (s : State) (d ra : Reg) (o : BitVec 26) (i : BitVec 16),
    let t := s.hart.rd ra + BitVec.ofInt 64 i.toInt
    exec (.jal o) s =
      .next ((s.wrote 1 (s.hart.pc + 4)).atPc (s.hart.pc + BitVec.ofInt 64 (4 * o.toInt))) ∧
    (t.toNat % 4 = 0 → exec (.jalr d ra i) s = .next ((s.wrote d (s.hart.pc + 4)).atPc t)) ∧
    (t.toNat % 4 ≠ 0 → exec (.jalr d ra i) s = s.faultAt ⟨cAlign, 0, t⟩) ∧
    (2 ^ 56 ≤ t.toNat → ∃ x, ((s.wrote d (s.hart.pc + 4)).atPc t).fetch = .error ⟨cPage, x, t⟩) ∧
    ∀ p, decodeWord (0x0C * 2 ^ 26 + o.toNat) p = .jal o ∧
      decodeWord (((0x0D * 32 + d.toNat) * 32 + ra.toNat) * 2 ^ 16 + i.toNat) p = .jalr d ra i)

/-- A load whose element passes the checks of R344 writes s[d] with the bytes that S0 reads at s[base] + sext(offset13) × n,
zero- or sign-extended; the PC moves on by 4 and nothing else changes. With no store of S0 held back, the bytes are those of
memory (R68, R194). A load that is delayed is noted with its destination and place, and reads its bytes when it performs (R196;
that the state names the streams whose loads are delayed is log entry 85).

A store whose element passes the checks of R344 puts the low 8n bits of s[d] into the n bytes at s[base] +
sext(offset13) × n, as S0 sees memory; every byte outside them is as it was, no register but the PC changes, and the other
harts keep theirs. With nothing held back the bytes of memory themselves are those (R68, R195).

A scalar access that fails a check of R344 raises that check's fault with its address and writes nothing of its own; an
address that is no multiple of the size always fails, with misaligned access unless the address is beyond the virtual space;
an `amo` that PCIe cannot carry to a host page is a protection fault (R59, R61, R72, R344). -/
def Obligations.ScalarLoadsAndStores : Prop :=
 (∀ (s : State) (d ra : Reg) (o : BitVec 13),
    let at_ (n : Nat) : Word := s.hart.rd ra + BitVec.ofInt 64 (o.toInt * n)
    let later (pa n : Nat) (signed : Bool) : Res := .next (s.setHart { s.hart with
      late := s.hart.late ++ [{ stream := 0, dest := .scalar d signed, size := n, elems := [(0, pa)] }], pc := s.hart.pc + 4 })
    (∀ n i, (n, i) ∈ [(1, Instr.ldb d ra o), (2, .ldh d ra o), (4, .ldw d ra o), (8, .ldd d ra o)] →
      ∀ p, s.access s.hart .read n (at_ n) = .ok p → let v := s.load s.hart 0 false p.pa n
        (s.delays 0 p = false → exec i s = .next (s.wrote d (BitVec.ofNat 64 v))) ∧
        (s.delays 0 p = true → exec i s = later p.pa n false)) ∧
    (∀ n i, (n, i) ∈ [(1, Instr.ldbS d ra o), (2, .ldhS d ra o), (4, .ldwS d ra o)] →
      ∀ p, s.access s.hart .read n (at_ n) = .ok p → let v := s.load s.hart 0 false p.pa n
        (s.delays 0 p = false → exec i s = .next (s.wrote d (BitVec.ofInt 64 (BitVec.ofNat (8 * n) v).toInt))) ∧
        (s.delays 0 p = true → exec i s = later p.pa n true)) ∧
    (s.delaying = [] → ∀ p, s.delays 0 p = false) ∧
    (∀ n pa, (∀ w ∈ s.hart.wbuf, w.stream ≠ 0) → pa + n ≤ barBase → s.load s.hart 0 false pa n = memRead s.mem pa n)) ∧
 (∀ (s : State) (d ra : Reg) (o : BitVec 13), s.MemInv → ∀ n i,
    (n, i) ∈ [(1, Instr.stb d ra o), (2, .sth d ra o), (4, .stw d ra o), (8, .std d ra o)] → ∀ p,
    s.access s.hart .write n (s.hart.rd ra + BitVec.ofInt 64 (o.toInt * n)) = .ok p → p.pa + n ≤ barBase →
    ∃ t : State, exec i s = .next t ∧ s.AfterStore t id ∧
      (∀ j < n, t.sees 0 (p.pa + j) = (s.hart.rd d).extractLsb' (8 * j) 8) ∧
      (∀ x < barBase, (x < p.pa ∨ p.pa + n ≤ x) → t.sees 0 x = s.sees 0 x) ∧
      (s.hart.wbuf = [] → 0 ∉ s.holding →
        (∀ j < n, memGet t.mem (p.pa + j) = (s.hart.rd d).extractLsb' (8 * j) 8) ∧
        (∀ x, (x < p.pa ∨ p.pa + n ≤ x) → memGet t.mem x = memGet s.mem x))) ∧
 (∀ (s : State) (d ra rb : Reg) (o : BitVec 13) (sc : BitVec 3) (z : BitVec 2),
    let at_ (n : Nat) : Word := s.hart.rd ra + BitVec.ofInt 64 (o.toInt * n)
    (∀ n i, (n, i) ∈ [(1, Instr.ldb d ra o), (2, .ldh d ra o), (4, .ldw d ra o), (8, .ldd d ra o), (1, .ldbS d ra o),
        (2, .ldhS d ra o), (4, .ldwS d ra o)] → ∀ f, s.access s.hart .read n (at_ n) = .error f → exec i s = s.faultAt f) ∧
    (∀ n i, (n, i) ∈ [(1, Instr.stb d ra o), (2, .sth d ra o), (4, .stw d ra o), (8, .std d ra o)] →
      ∀ f, s.access s.hart .write n (at_ n) = .error f → exec i s = s.faultAt f) ∧
    (∀ f, s.access s.hart .read (2 ^ z.toNat) (s.hart.rd ra) = .error f → exec (.ldAcq d ra sc z) s = s.faultAt f) ∧
    (∀ f, s.access s.hart .write (2 ^ z.toNat) (s.hart.rd ra) = .error f → exec (.stRel ra rb sc z) s = s.faultAt f) ∧
    (∀ i ∈ [Instr.amoAdd d ra rb sc z, .amoSwap d ra rb sc z, .amoCas d ra rb sc z],
      ∀ f, s.accessRmw s.hart (2 ^ z.toNat) (s.hart.rd ra) = .error f → exec i s = s.faultAt f) ∧
    (∀ i ∈ [Instr.amoMin d ra rb sc z, .amoMax d ra rb sc z, .amoAnd d ra rb sc z, .amoOr d ra rb sc z, .amoXor d ra rb sc z],
      (∀ f, ¬ s.amoToHost (2 ^ z.toNat) (s.hart.rd ra) → s.accessRmw s.hart (2 ^ z.toNat) (s.hart.rd ra) = .error f →
        exec i s = s.faultAt f) ∧
      (s.amoToHost (2 ^ z.toNat) (s.hart.rd ra) → exec i s = s.faultAt ⟨cProt, 0, s.hart.rd ra⟩)) ∧
    (∀ (acc : Acc) (n : Nat) (va : Word), va.toNat % n ≠ 0 → va.toNat < windowEnd →
      s.access s.hart acc n va = .error ⟨cAlign, 0, va⟩) ∧
    (∀ (acc : Acc) (n : Nat) (va : Word), windowEnd ≤ va.toNat → s.access s.hart acc n va = .error ⟨cPage, acc.detail, va⟩))

/-- An `amo` reads the old value, writes the new one to the same bytes and sign-extends the old one into s[d], after the
earlier writes of S0; every other byte of memory is as those writes left it, and no other register but the PC changes (R70).
`v` is the operand and `x` the value of s[d] beforehand, both cut to n bytes.

`ld.acq` zero-extends what it loads into s[d] and changes nothing but that and the PC. `st.rel` writes its operand only
after every earlier write of the hart has performed: none but its own is still held afterwards (R70, R199). -/
def Obligations.ScalarAtomics : Prop :=
 (∀ (s : State) (d ra rb : Reg) (sc : BitVec 3) (z : BitVec 2), s.MemInv → ∀ p,
    let n := 2 ^ z.toNat
    let v := (s.hart.rd rb).toNat % 2 ^ (8 * n)
    let x := (s.hart.rd d).toNat % 2 ^ (8 * n)
    let s1 := s.drain (fun k => k == 0)
    let old := memRead s1.mem p.pa n
    let signed (y : Nat) : Int := (BitVec.ofNat (8 * n) y).toInt
    s.accessRmw s.hart n (s.hart.rd ra) = .ok p → p.pa + n ≤ barBase → ∀ i new,
    ((i, new) ∈ [(Instr.amoAdd d ra rb sc z, (old + v) % 2 ^ (8 * n)), (.amoSwap d ra rb sc z, v),
        (.amoCas d ra rb sc z, if old = x then v else old)] ∨
      p.attr ≠ .host ∧ (i, new) ∈ [(Instr.amoMin d ra rb sc z, if signed old < signed v then old else v),
        (.amoMax d ra rb sc z, if signed old < signed v then v else old), (.amoAnd d ra rb sc z, old &&& v),
        (.amoOr d ra rb sc z, old ||| v), (.amoXor d ra rb sc z, old ^^^ v)]) →
    ∃ t : State, exec i s = .next t ∧ s.AfterStore t (fun h => h.wr d (BitVec.ofInt 64 (signed old))) ∧
      memRead t.mem p.pa n = new ∧
      (∀ y, (y < p.pa ∨ p.pa + n ≤ y) → memGet t.mem y = memGet s1.mem y) ∧
      ((∀ w ∈ s.hart.wbuf, w.stream ≠ 0) → s1.mem = s.mem)) ∧
 (∀ (s : State) (d ra rb : Reg) (sc : BitVec 3) (z : BitVec 2), let n := 2 ^ z.toNat
    (∀ p, s.access s.hart .read n (s.hart.rd ra) = .ok p →
      exec (.ldAcq d ra sc z) s = .next (s.wrote d (BitVec.ofNat 64 (s.load s.hart 0 false p.pa n)))) ∧
    (∀ p, s.MemInv → s.access s.hart .write n (s.hart.rd ra) = .ok p → p.pa + n ≤ barBase →
      ∃ t : State, exec (.stRel ra rb sc z) s = .next t ∧ s.AfterStore t id ∧
        (∀ j < n, t.sees 0 (p.pa + j) = (s.hart.rd rb).extractLsb' (8 * j) 8) ∧
        (∀ w ∈ t.hart.wbuf, w.stream = 0 ∧ w.addr = p.pa ∧ w.data.length = n) ∧
        (∀ y, (y < p.pa ∨ p.pa + n ≤ y) → memGet t.mem y = memGet s.drainAll.mem y) ∧
        (0 ∉ s.holding → t.hart.wbuf = [])))

/-- `fence` and `sbar` leave no write of a named stream held back: each has performed, and those of other streams stay as they
were. `cvy` has every write performed and every producer landed in a deterministic region, and only moves the PC elsewhere (R81, R82,
R88, R195). That the writes of several named streams perform in program order, which R196 does not ask of two streams, and that an
`sbar` has them perform for every observer, where R82 orders them at hart scope alone, are the model's choices (log entries 9 and
14). -/
def Obligations.OrderingInstructions : Prop :=
  ∀ (s : State) (m : BitVec 10) (sc : BitVec 3),
    (∀ i ∈ [Instr.fence m sc, .sbar m], ∃ t : State, exec i s = .next t ∧ s.AfterStore t id ∧
      t.hart.wbuf = s.hart.wbuf.filter (fun w => !m.getLsbD w.stream) ∧
      t.mem = (s.drain (fun k => m.getLsbD k)).mem ∧
      (∀ k x, m.getLsbD k = true → x < barBase → t.sees k x = memGet t.mem x)) ∧
    (s.hart.info.det = false → exec .cvy s = .next (s.atPc (s.hart.pc + 4))) ∧
    (s.hart.info.det = true → ∃ t : State, exec .cvy s = .next t ∧ s.AfterStore t Hart.landAll ∧ t.hart.wbuf = [] ∧
      t.hart.pend = [] ∧ t.mem = s.drainAll.mem)

/-! ## Exceptions, named state, turns -/

/-- Taking an exception outside a lane's turn: the hart passes to saved with a record of the cause, DETAIL (bit 7 in the
emulation handler), PC, resume PC, the word, and the faulting element; loads under way and producers have landed and held
writes have performed; no other scalar, and no mask, tile, scale or named register changes, and the vector registers hold what
landing leaves; credits are 0; for causes up to 0x11 the event is posted to the hart's fault domain; with TRAPBASE 0 the
reserve slot keeps the context. An error in the storage of the hart's registers makes it a machine-check with DETAIL 1 whose
context can only be cancelled, and a pre-emption or an expiry that it replaces sets PEND, WDOG being posted after it. A fault that
meets the expiry of the watchdog is recorded with PEND set, its transaction ended and WDOG posted after it; in the handler the same
holds of its overrun, with DETAIL 1 and a context that can only be cancelled (R25, R254, R255, R256, R259, R270). That PEND marks a
pre-emption taken with the save is log entry 80. -/
def Obligations.TakingAnException : Prop :=
  ∀ (s : State) (t : Trap), s.hart.lane = none → let h := s.hart; let u := s.taken t; let h' := u.hart
    let cause : BitVec 8 := if h.badRegs then 0x09 else t.cause
    let bit7 : BitVec 8 := if h.handler.isSome then 0x80 else 0
    let detail : BitVec 8 := (if h.badRegs then 1 else t.detail) ||| bit7
    let meets : Prop := t.cause.toNat ≤ 0x0C ∧ (h.handler = none ∧ s.wdogDue h = true ∨ h.handler.isSome = true ∧ s.overrun h = true)
    let landed := s.settleLoads.hart
    let posted (e : FdEvent) (c d : BitVec 8) : Prop := e.fdom = h.info.fdom ∧ e.cause = c ∧ e.detail = d ∧
      e.rcb = h.id.rcb.setWidth 64 ∧ e.hidx = h.id.hidx ∧ e.trapbase = h.trapbase ∧ e.time = BitVec.ofNat 64 s.ns
    h'.st = .saved ∧
    (∃ r, h'.save = some r ∧ r.cause = cause ∧ r.detail = detail ∧
      r.pc = h.pc ∧ r.rpc = t.rpc ∧ r.fel = t.fel ∧ r.fidx = t.fidx ∧ r.faddr = t.faddr ∧ r.ctr = t.ctr ∧
      (h.replay = none → r.word = h.ir) ∧ r.payload = h.irPayload ∧
      (r.pend = true ↔ h.hardReq.isSome ∨ meets ∨ t.cause = 0x0D ∨ t.cause = 0x20 ∨ t.cause = 0x21) ∧
      (r.contextError = true ↔ h.badRegs = true ∨ meets ∧ h.handler.isSome = true) ∧ (h.trapbase = 0 → r.reserve = true)) ∧
    h'.pend = [] ∧ h'.late = [] ∧ h'.wbuf = [] ∧ h'.pc = h.pc ∧ h'.masks = h.masks ∧ h'.cvgm = h.cvgm ∧
    h'.scales = h.scales ∧ h'.tiles = h.tiles ∧ h'.flags = h.flags ∧ h'.vl = h.vl ∧ h'.rmode = h.rmode ∧
    h'.rotn = h.rotn ∧ h'.seed = h.seed ∧ h'.ridx = h.ridx ∧ h'.dens = h.dens ∧ h'.trapbase = h.trapbase ∧
    h'.repth = h.repth ∧ h'.ecnt = h.ecnt ∧
    (¬meets → h'.sregs = landed.sregs ∧ h'.vregs = landed.landAll.vregs) ∧
    (h.late = [] → h'.sregs = h.sregs ∧ h'.vregs = h.landAll.vregs) ∧
    (∀ g < h.w, (u.arb h.core (h.lgb + g)).credit.getD h.ctx 0 = 0) ∧
    (cause.toNat ≤ 0x11 → ∃ before e after, u.events = before ++ e :: after ∧ posted e cause detail ∧
      let turned : Prop := h.badRegs = true ∧ t.cause = 0x0D
      (¬meets → ¬turned → after = []) ∧ (turned → ∃ e', after = [e'] ∧ posted e' 0x0D (t.detail ||| bit7)) ∧
      (meets → ∃ e', after = [e'] ∧ posted e' 0x0D (if h.handler.isSome then 0x81 else 0))) ∧
    (meets → (h.tx.st = .submitted ∨ h.tx.st = .opened) → h'.tx.st = .idle) ∧ (¬meets → h'.tx = h.tx) ∧
    (h.trapbase = 0 → h.wbuf = [] → 0x11 < cause.toNat → u.events = s.events)

/-- The save area after an exception outside the emulation handler, where the writes to it translate and land below each
other in memory: D0 holds PC and VALID, D1 the resume PC, D2 the word and its payload, D3 the cause, DETAIL, WCAUSE, PEND and
FEL, D4 the element index, D5 the faulting address, and the scalars stand from 0x200 upward (R259, R260). -/
def Obligations.SaveAreaContents : Prop :=
  ∀ (s : State) (t : Trap) (P : Nat) (attr : PageAttr), s.MemInv → s.hart.lane = none → s.hart.handler = none →
    s.hart.trapbase ≠ 0 → P + 0x300 ≤ barBase →
    (∀ o < 0x300, o % 8 = 0 → s.translate s.hart.info.asid .write (s.hart.trapbase + BitVec.ofNat 64 o) = .ok ⟨P + o, attr⟩) →
    ∀ r, (s.taken t).hart.save = some r → r.reserve = false → let m := (s.taken t).mem
      memRead m P 8 = r.pc.toNat % 2 ^ 56 + 2 ^ 63 ∧
      memRead m (P + 8) 8 = r.rpc.toNat % 2 ^ 56 ∧
      memRead m (P + 16) 8 = r.word.toNat + r.payload.toNat * 2 ^ 32 ∧
      memRead m (P + 24) 8 = r.cause.toNat + r.detail.toNat * 2 ^ 8 + r.wcause.toNat * 2 ^ 16 + b2n r.pend * 2 ^ 19
        + b2n r.fel * 2 ^ 20 ∧
      memRead m (P + 32) 8 = r.fidx % 2 ^ 32 ∧ memRead m (P + 40) 8 = r.faddr.toNat ∧
      (s.hart.late = [] → ∀ i : Reg, memRead m (P + 0x200 + 8 * i.toNat) 8 = (s.hart.rd i).toNat)

/-- The deliberate traps and the words that are no instruction take their exceptions: `trap` cause 0x10 with its code and
`ebreak` cause 0x11, both resuming at PC + 4; `endk`, a word that no instruction has, `eret` outside the emulation handler and
a word of a reserved major in a region without a handler take cause 0x01, resuming at the word; so does a word of a reserved
major met by the handler itself (R38, R39, R41, R78, R79, R80, R254). -/
def Obligations.TrapsTaken : Prop :=
  ∀ (s : State) (c : BitVec 6) (w : BitVec 32),
    let counters := if scalarMajor s.hart.ir then ctrDone else ctrWhole
    let t (cause detail : BitVec 8) (rpc : Word) : Trap :=
      { cause := cause, detail := detail, rpc := rpc, fel := false, fidx := 0, faddr := 0, ctr := counters, performed := 0 }
    exec (.trap c) s = .next (s.taken (t 0x10 (c.setWidth 8) (s.hart.pc + 4))) ∧
    exec .ebreak s = .next (s.taken (t 0x11 0 (s.hart.pc + 4))) ∧
    exec .endk s = .next (s.taken (t 0x01 0 s.hart.pc)) ∧
    exec (.illegalInstruction w) s = .next (s.taken (t 0x01 0 s.hart.pc)) ∧
    (∀ p, decodeWord 2 p = .ebreak ∧ decodeWord 0x03FFFFFF p = .endk ∧ decodeWord (32 * c.toNat) p = .trap c) ∧
    (s.hart.lane = none → s.hart.badRegs = false → ∃ u r, exec .ebreak s = .next u ∧ u.hart.st = .saved ∧ u.hart.save = some r ∧ r.cause = 0x11 ∧
      r.rpc = s.hart.pc + 4) ∧
    (s.hart.handler = none → exec .eret s = .next (s.taken (t 0x01 0 s.hart.pc))) ∧
    (s.hart.info.emuh = 0 ∨ s.hart.handler.isSome = true →
      exec (.undefinedOpcode w) s = .next (s.taken (t 0x01 0 s.hart.pc)))

/-- A word of a reserved major in a region with an emulation handler: the same context runs the handler at EMUH with a fresh
scalar file (s2 = TRAPBASE + 0x7C00, s3 = TRAPBASE, s4 the word, s5 its address, every other scalar zero), the hart waiting
with cause 6; the emulated hart's scalars and its resume PC, the word's address + 4, are kept; vector, mask, tile, scale and
named registers stay the hart's own (R38, R257).

`eret` in the emulation handler ends it: its producers land and its writes perform, the scalars come back from the
scalar area (or from the device's own copy where the area could not be written, log entry 12), and the hart is resident again
at the resume PC in its record (R80, R257). That both are read at the TRAPBASE in force at the `eret` is log entry 84. -/
def Obligations.EmulationHandler : Prop :=
 (∀ (s : State) (w : BitVec 32), s.hart.info.emuh ≠ 0 → s.hart.handler = none → s.hart.lane = none →
    let h := s.hart
    ∃ t k, exec (.undefinedOpcode w) s = .next t ∧ t.hart.handler = some k ∧ k.sregs = h.sregs ∧ k.rpc = h.pc + 4 ∧
      k.pc = h.pc ∧ t.hart.st = .waiting .emulation ∧ t.hart.pc = h.info.emuh.setWidth 64 ∧
      (∀ r : Reg, t.hart.rd r = if r = 2 then h.trapbase + 0x7C00 else if r = 3 then h.trapbase
        else if r = 4 then w.setWidth 64 else if r = 5 then h.pc else 0) ∧
      t.hart.vregs = h.vregs ∧ t.hart.masks = h.masks ∧ t.hart.cvgm = h.cvgm ∧ t.hart.tiles = h.tiles ∧
      t.hart.scales = h.scales ∧ t.hart.flags = h.flags ∧ t.hart.vl = h.vl ∧ t.hart.rmode = h.rmode ∧
      t.hart.rotn = h.rotn ∧ t.hart.seed = h.seed ∧ t.hart.trapbase = h.trapbase ∧ t.hart.gens = h.gens) ∧
 (∀ (s : State) (k : Handler), s.hart.handler = some k →
    let s1 := (s.upd Hart.landAll).drainAll
    ∃ t : State, exec .eret s = .next t ∧ t.hart.handler = none ∧ t.hart.st = .resident ∧ t.hart.wbuf = [] ∧ t.hart.pend = [] ∧
      t.mem = s1.mem ∧ (k.areaWritten = false → t.hart.pc = k.rpc ∧ ∀ r : Reg, r ≠ 0 → t.hart.rd r = k.sregs[r.toNat]) ∧
      (k.areaWritten = true →
        (∀ p, s.translate s.hart.info.asid .read (s.hart.trapbase + 8) = .ok p → (∀ i < 8, s1.poison.contains (p.pa + i) = false) →
          t.hart.pc.toNat = memRead s1.mem p.pa 8 % 2 ^ 56) ∧
        (∀ (r : Reg) p, r ≠ 0 →
          s.translate s.hart.info.asid .read (s.hart.trapbase + BitVec.ofNat 64 (0x200 + 8 * r.toNat)) = .ok p →
          (∀ i < 8, s1.poison.contains (p.pa + i) = false) → (t.hart.rd r).toNat = memRead s1.mem p.pa 8)) ∧
      t.hart.vregs = s.hart.landAll.vregs ∧ t.hart.masks = s.hart.masks ∧ t.hart.flags = s.hart.flags ∧
      t.hart.tiles = s.hart.tiles ∧ t.hart.vl = s.hart.vl)

/-- `gets` writes s[d] with the named register, zero-extended, and changes nothing else but the PC; FLAGS and CVGM wait for
every earlier vector instruction, and CVGM goes to the mask register d; the reserved numbers are illegal (R50, R83). TROWS
reports at most 32 for a hart that LPART names, from the head at which the change of LPART took effect (R21): what a hart that
holds more rows then reads is log entry 97.

`puts` writes s[a] into the named register; the values R84 lists, the registers marked RO and the reserved numbers are
illegal-instruction faults and nothing is written; writing SEED sets RIDX to 0 (R50, R84, R97). -/
def Obligations.NamedState : Prop :=
 (∀ (s : State) (d : Reg), let h := s.hart
    let p := s.lpart h.core
    let rows := if partEn p = true ∧ h.partDue = false ∧ (h.ctx = partHA p ∨ h.ctx = partHB p) then min 32 h.trows else h.trows
    (∀ (n : Reg) (v : Word), (n, v) ∈ [((0 : Reg), BitVec.ofNat 64 h.vl), (1, BitVec.ofNat 64 h.vlmax), (2, BitVec.ofNat 64 h.w),
        (3, BitVec.ofNat 64 rows), (4, s.lpart h.core), (7, h.rmode.setWidth 64), (8, h.rotn.setWidth 64), (9, h.seed),
        (10, h.ecnt.setWidth 64), (11, s.ewt), (12, h.dens.setWidth 64), (13, (s.codeTab h.core).gen), (14, h.trapbase),
        (15, h.repth), (16, s.beat.setWidth 64)] →
      exec (.gets d n) s = .next (s.wrote d v)) ∧
    exec (.gets d 5) s = .next ((s.upd Hart.landAll).wrote d h.flags) ∧
    (d.toNat < 8 → exec (.gets d 6) s = .next (s.setHart ((h.landAll.setMask d.toNat h.cvgm).advance 4))) ∧
    (8 ≤ d.toNat → exec (.gets d 6) s = s.illegal) ∧
    (∀ n : Reg, 17 ≤ n.toNat → exec (.gets d n) s = s.illegal)) ∧
 (∀ (s : State) (a : Reg), let h := s.hart; let v := h.rd a; let go (h' : Hart) : Res := .next (s.setHart (h'.advance 4))
    exec (.puts a 5) s = (if v.toNat < 2 ^ 7 then go { h.landAll with flags := v } else s.illegal) ∧
    exec (.puts a 6) s = (if a.toNat < 8 then go { h.landAll with cvgm := h.mask a.toNat } else s.illegal) ∧
    exec (.puts a 7) s = (if v.toNat ≤ 4 then go { h with rmode := v.setWidth 3 } else s.illegal) ∧
    exec (.puts a 8) s = (if 1 ≤ v.toNat ∧ v.toNat ≤ 47 then go { h with rotn := v.setWidth 6 } else s.illegal) ∧
    exec (.puts a 9) s = go { h with seed := v, ridx := 0 } ∧
    exec (.puts a 12) s = (if v.toNat ≤ 64 then go { h with dens := v.setWidth 7 } else s.illegal) ∧
    exec (.puts a 14) s = (if v.toNat % 512 = 0 then go { h with trapbase := v } else s.illegal) ∧
    exec (.puts a 15) s = go { h with repth := v } ∧
    (∀ n : Reg, n ∈ [(0 : Reg), 1, 2, 3, 4, 10, 11, 13, 16] ∨ 17 ≤ n.toNat → exec (.puts a n) s = s.illegal))

/-- `yield` ends the turn on every lane group of the grant: the credit there becomes min(c, 0), and where the turn was the
hart's it passes to the next bound context with weight, which is refilled to min(c + 4 × weight, 4 × weight), or to 1 where that
is not positive and its hart is a candidate there; every other context's credit, every other arbiter and all else stays, and so
does the hart (R22, R86).

`prog` restarts the watchdog interval of a hart in a persistent region and has no other effect; `seed` writes one draw of
the entropy source, whatever it is (a free value, log entry 8), to s[d] and SEED, sets RIDX to 0 and appends the draw to the
seed log, and is illegal in a transaction (R85, R89, R323). -/
def Obligations.TurnsAndProgress : Prop :=
 (∀ s : State, let h := s.hart
    ∃ t : State, exec .yield s = .next t ∧ t = { s with hart := { h with pc := h.pc + 4 }, arbs := t.arbs } ∧
      (∀ core lg, core ≠ h.core ∨ lg < h.lgb ∨ h.lgb + h.w ≤ lg → t.arb core lg = s.arb core lg) ∧
      ∀ i < h.w, let a := s.arb h.core (h.lgb + i); let a' := t.arb h.core (h.lgb + i)
        a'.chosen = a.chosen ∧
        (∀ y, y ≠ h.ctx → y ≠ a'.turn ∨ a'.turn = a.turn → a'.credit.getD y 0 = a.credit.getD y 0) ∧
        (a.turn ≠ h.ctx → a'.turn = a.turn ∧ a'.credit = a.credit.set h.ctx (min (a.credit.getD h.ctx 0) 0)) ∧
        (∀ c, a.turn = h.ctx → s.nextTurn h.core (h.lgb + i) h.ctx = some c → a'.turn = c ∧
          (c ≠ h.ctx → a'.credit.getD h.ctx 0 = min (a.credit.getD h.ctx 0) 0) ∧
          ∀ x, s.arbHart h.core (h.lgb + i) c = some x → c < a.credit.length →
            let full : Int := 4 * x.info.wght.toNat
            let refill := min ((if c = h.ctx then min (a.credit.getD c 0) 0 else a.credit.getD c 0) + full) full
            a'.credit.getD c 0 = if s.candidateOn (h.lgb + i) x = true ∧ refill ≤ 0 then 1 else refill) ∧
        (a.turn = h.ctx → s.nextTurn h.core (h.lgb + i) h.ctx = none → a'.turn = a.turn ∧
          a'.credit = a.credit.set h.ctx (min (a.credit.getD h.ctx 0) 0))) ∧
 (∀ (s : State) (d : Reg), let h := s.hart; let v := Config.entropy s.draws
    exec .prog s = .next (s.setHart { h with pc := h.pc + 4, wdogFrom := if h.info.pers then s.ns else h.wdogFrom }) ∧
    (∀ p, decodeWord 7 p = .prog ∧ decodeWord 8 p = .yield) ∧
    (h.inTx = true → exec (.seed d) s = s.illegal) ∧
    (h.inTx = false → ∃ (t : State) (e : SeedEntry), exec (.seed d) s = .next t ∧ t.hart = { h.wr d v with seed := v, ridx := 0, pc := h.pc + 4 } ∧
      t = { s with hart := t.hart, draws := s.draws + 1, seedCount := s.seedCount + 1, seedLog := t.seedLog } ∧
      t.seedLog.getLast? = some e ∧ e.seedv = v ∧ e.rcb = h.id.rcb.setWidth 64 ∧ e.hidx = h.id.hidx ∧
      e.time = BitVec.ofNat 64 s.ns ∧ (s.seedLog.length < 4096 → t.seedLog = s.seedLog ++ [e]) ∧ t.seedLog.length ≤ max 4096 s.seedLog.length))

/-- `halt` retires the hart: nothing it issued is pending or held, its transaction has ended and no granule's queue holds it,
its stream bindings and windows are ended, and a lane partition in which it has a part is switched off; run by a lane it is
illegal (R87, R241, R312).

The last hart of a launch ends it: what the hart had stored has performed, DONEV, or all ones where a hart of the launch was cancelled,
is written to DONEA unless that is 0, and the LAUNCH completes with outcome 0, or 4 where one was cancelled (R10, R255, R331). -/
def Obligations.HaltRetires : Prop :=
  ∀ s : State, let h := s.hart
    (h.lane.isSome = true → exec .halt s = s.illegal) ∧
    (h.lane = none → ∃ t : State, exec .halt s = .next t ∧ t.hart.id = h.id ∧ t.hart.st = .retired ∧ t.hart.pend = [] ∧
      t.hart.wbuf = [] ∧ t.hart.tx.st = .idle ∧ t.hart.trows = 0 ∧ (∀ i < 8, (t.hart.gen i).bound = false) ∧
      (∀ i < 4, (t.hart.window i).opened = false) ∧ (∀ q ∈ t.granules, ∀ e ∈ q.2, e.who ≠ h.id) ∧
      (h.onCore = true → partEn (s.lpart h.core) = true → h.ctx = partHA (s.lpart h.core) ∨ h.ctx = partHB (s.lpart h.core) →
        partEn (t.lpart h.core) = false) ∧ t.hart.sregs = h.sregs ∧ t.hart.masks = h.masks) ∧
    (h.lane = none → s.MemInv → ∀ l, s.launches.find? (fun l => decide (l.seq = h.id.seq)) = some l → ∃ t : State,
      exec .halt s = .next t ∧ let m := s.drainAll.mem
      (1 < l.left → t.mem = m ∧ t.launches =
        s.launches.map (fun x => if x.seq = h.id.seq then { l with left := l.left - 1 } else x)) ∧
      (l.left = 1 → let done := if l.cancelled then 2 ^ 64 - 1 else l.donev.toNat
        t.launches = s.launches.filter (fun x => decide (x.seq ≠ h.id.seq)) ∧
        ∀ m', (l.donea = 0 ∧ m' = m ∨ l.donea ≠ 0 ∧ ∃ p, s.translate l.info.asid .write (l.donea.setWidth 64) = .ok p ∧
            p.pa + 8 ≤ barBase ∧ m' = memStore m p.pa (natLe 8 done)) →
          ((∀ c ∈ s.cmds, c.seq ≠ h.id.seq) → t.mem = m') ∧
          ∀ c, s.cmds.find? (fun c => decide (c.seq = h.id.seq)) = some c → Completes t c (if l.cancelled then 4 else 0) ∧
            ∀ x, (x < c.d 7 % 2 ^ 56 ∨ c.d 7 % 2 ^ 56 + 8 ≤ x) → memGet t.mem x = memGet m' x))

/-! ## Vector length and configuration -/

/-- A strip-mine head with no soft request to take: VL is the smaller of the length asked for and VLMAX at the width and
group size, floor(256 × W × G / bits), rounded down to a multiple of 16 for 7-bit elements; s[d] receives it, and the head's
width and group are recorded. `vsetlb` has group size 1 and branches when the length is zero (R76, R77, R128).

A soft request whose reason stands is taken at the head, which writes nothing: cause 0x20, resuming at the head. While the
hart's transaction is open or its emulation handler runs, it is not taken there. Each reason stands by itself: a host's command
always, an energy budget while the subtree's energy is at the budget the hart read, a remap while the hart is on the unit, a
ready hart while it is ready (R7, R11, R14, R76, R128, R265, R324, R342).

A change of LPART that names the hart takes effect at its head (R21): it first takes a grant within its part, of at most
RWID lane groups and of exactly RWID in a deterministic region (R28), the widest that is free and keeps the budgets it read (R7,
R11, R16), its vector registers dead where the width changes; where there is none and the other hart of the core stands at its
own such head the two exchange; else it waits at the head. With no change, with a window open, or where LPART does not name the
hart, the grant stays. What a changed width leaves and how the two come to exchange are the model's reading (log entry 19). -/
def Obligations.VectorLengthGrant : Prop :=
 (∀ (s0 s : State) (d a : Reg) (ew : BitVec 3) (g : BitVec 2) (o : BitVec 13), s0.softDue s0.hart = false →
    s0.regrant = some s →
    let h := s.hart
    let bitsOfEw := [2, 4, 6, 7, 8, 16, 32, 64].getD ew.toNat 0
    let vlmax (G : Nat) := if ew = 3 then 256 * h.w * G / 7 / 16 * 16 else 256 * h.w * G / bitsOfEw
    let n := min (h.rd a).toNat (vlmax (2 ^ g.toNat))
    let n1 := min (h.rd a).toNat (vlmax 1)
    let h1 : Hart := { h with vl := n1, headEw := ew, headGrp := 0 }
    exec (.vsetl d a ew g) s0 =
      .next (s.setHart (({ h with vl := n, headEw := ew, headGrp := g }.wr d (BitVec.ofNat 64 n)).advance 4)) ∧
    exec (.vsetlb d a ew o) s0 = .next (s.setHart { h1.wr d (BitVec.ofNat 64 n1) with
      pc := if n1 = 0 then h.pc + BitVec.ofInt 64 (4 * o.toInt) else h.pc + 4 })) ∧
 (∀ (s : State) (d a : Reg) (ew : BitVec 3) (g : BitVec 2) (o : BitVec 13), let h := s.hart
    (s.softDue h = true ↔ (∃ r ∈ h.soft, s.softApplies h r.why = true) ∧ h.tx.st ≠ .opened ∧ h.handler = none) ∧
    s.softApplies h .host = true ∧
    (∀ u, s.softApplies h (.spare .laneGroup u) = h.boundTo (u / 8) (u % 8) ∧
      (s.softApplies h (.spare .core u) = true ↔ h.onCore = true ∧ h.core = u)) ∧
    (∀ id, (∀ x ∈ s.harts, x.id = id → x.st ≠ .ready) → s.softApplies h (.ready id) = false) ∧
    (∀ rcb, s.softApplies h (.budget rcb) = true ↔
      ∃ b, (rcb, b) ∈ (s.path h.id.rcb.toNat).zip h.info.ebuds ∧ b ≠ 0 ∧ b.toNat ≤ s.subtreeEnergy rcb) ∧
    (∀ now why, h.onCore = true → (∀ r ∈ h.soft, r ∈ (h.request now why).soft) ∧ ∃ r ∈ (h.request now why).soft, r.why = why) ∧
    (s.softDue h = true → ∀ i ∈ [Instr.vsetl d a ew g, .vsetlb d a ew o],
      exec i s = .next ((s.setHart { h with soft := [] }).taken
        { cause := 0x20, detail := 0, rpc := h.pc, fel := false, fidx := 0, faddr := 0, ctr := ctrDone, performed := 0 }))) ∧
 (∀ (s : State) (d a : Reg) (ew : BitVec 3) (g : BitVec 2) (o : BitVec 13), let h := s.hart
    let win := s.lgWindow h.core h.ctx
    let partner (x : Hart) : Bool := decide (x.id ≠ h.id) && x.core == h.core && x.partDue && !x.windowOpen && s.atHead x
    let stays : Prop := h.partDue = false ∨ h.windowOpen = true ∨ win = (0, 0)
    (stays → s.regrant = some s) ∧
    (¬stays → ∀ s1, s.regrant = some s1 → ∃ lg w, grantWidth w = true ∧ win.1 ≤ lg ∧ lg + w ≤ win.2 ∧ w ≤ h.info.rwid ∧
      (h.info.det = true → w = h.info.rwid) ∧ (s.newGrant h = none ∨ s.newGrant h = some (lg, w)) ∧
      s1.hart = { (if w = h.w then h else h.landAll.deadVectors) with lgb := lg, w := w, partDue := false }) ∧
    (∀ lg w, s.newGrant h = some (lg, w) → s.budgetOk h.info.budgets h.id h.core lg w = true ∧
      (¬stays → (∀ x ∈ s.parked, x.id ≠ h.id) → ∃ s1, s.regrant = some s1 ∧ s1.parked = s.parked) ∧
      (w = 1 ∨ ∀ i < w, ∀ x ∈ s.harts, x.id ≠ h.id → x.boundTo h.core (lg + i) = false) ∧
      ∀ lg' w', grantWidth w' = true → w < w' → w' ≤ h.info.rwid → lg' % w' = 0 →
        (s.blockFree h.id h.core win lg' w' && s.budgetOk h.info.budgets h.id h.core lg' w') = false) ∧
    (¬stays → s.newGrant h = none → (∀ x ∈ s.harts, partner x = false) → s.softDue h = false →
      s.regrant = none ∧ exec (.vsetl d a ew g) s = .next s ∧ exec (.vsetlb d a ew o) s = .next s) ∧
    (¬stays → s.newGrant h = none → ∀ s1 x, s.regrant = some s1 → s.harts.find? partner = some x → ∃ x' ∈ s1.parked,
      x'.id = x.id ∧ x'.partDue = false ∧ (s.lgWindow x.core x.ctx).1 ≤ x'.lgb ∧ x'.lgb + x'.w ≤ (s.lgWindow x.core x.ctx).2 ∧
      x'.w ≤ x.info.rwid))

/-- The configuration instructions write the words of every member of a group and keep data and full bits: `vcfg` a type and
group with no second width, `vcfgw` vd's own word with the second width and slice count changed, `vtag` the whole word of va. A
bound member makes them illegal, an empty one makes them wait (R45, R47, R49, R125, R126, R127, R178). That `vcfgw` gives members
whose words differ the word of vd is log entry 86.

A configuration that no type has is illegal: a tag above 26, a fraction count above 15 or 31 for the fixed-point types and
nonzero for any other, the second widths 6 and 7, the slice counts 1 and 2, a source of `vtag` that is no multiple of its group
(R46, R119, R125, R126, R127).

A vector source found empty: with its trap bit set the instruction raises an empty-source fault and has no effect; with
none set it waits with cause 1; an empty destination makes it wait whatever the trap bits (R49). Said of `vmov`, whose
operands otherwise pass. That the fault comes before the wait where the destination is empty too is log entry 99. -/
def Obligations.ConfigurationAndEmpty : Prop :=
 (∀ (s : State) (d : Reg) (i : Instr) (g : Nat) (c : BitVec 32), let h := s.hart
    ((∃ (t : Reg) (fr : BitVec 6) (gc : BitVec 2), i = .vcfg d t fr gc ∧ cfgLegal t.toNat fr.toNat = true ∧ g = 2 ^ gc.toNat ∧
        c = BitVec.ofNat 32 (t.toNat + fr.toNat * 2 ^ 5 + gc.toNat * 2 ^ 11)) ∨
      (∃ w sl : BitVec 3, i = .vcfgw d w sl ∧ w.toNat ≤ 5 ∧ sl ≠ 1 ∧ sl ≠ 2 ∧ g = h.grp d ∧
        c = ((h.v d.toNat).cfg &&& 0xFFF81FFF) ||| BitVec.ofNat 32 (w.toNat * 2 ^ 13 + sl.toNat * 2 ^ 16)) ∨
      (∃ a : Reg, i = .vtag d a ∧ a.toNat % h.grp a = 0 ∧ (∀ r ∈ members a.toNat (h.grp a), h.isBound r = false) ∧ g = h.grp a ∧
        c = (h.v a.toNat).cfg)) →
    (d.toNat % g ≠ 0 ∨ (∃ r ∈ members d.toNat g, h.isBound r = true) → exec i s = s.illegal) ∧
    (d.toNat % g = 0 → (∀ r ∈ members d.toNat g, h.isBound r = false) → h.lane = none →
      (∃ r ∈ members d.toNat g, cfgFull (h.v r).cfg = false) → ∃ w, exec i s = .next (s.setHart { h with
        st := .waiting .fullEmpty, watch := w, taken := [], walked := [], limit := none }) ∧
        w.regs = h.empties (members d.toNat g)) ∧
    (d.toNat % g = 0 → h.usable d.toNat g → ∃ h', exec i s = .next (s.setHart h') ∧
      h' = { h with pc := h.pc + 4, vregs := h'.vregs } ∧
      ∀ r < 32, h'.v r = if r ∈ members d.toNat g then
        { h.v r with cfg := (c &&& 0xFFF7FFFF) ||| ((h.v r).cfg &&& 0x00080000) } else h.v r)) ∧
 (∀ (s : State) (d t a : Reg) (fr : BitVec 6) (gc : BitVec 2) (w sl : BitVec 3),
    (26 < t.toNat ∨ (t = 9 ∧ 15 < fr.toNat) ∨ (t = 10 ∧ 31 < fr.toNat) ∨ (t ≠ 9 ∧ t ≠ 10 ∧ fr ≠ 0) →
      exec (.vcfg d t fr gc) s = s.illegal) ∧
    (6 ≤ w.toNat ∨ sl = 1 ∨ sl = 2 → exec (.vcfgw d w sl) s = s.illegal) ∧
    (a.toNat % s.hart.grp a ≠ 0 ∨ (∃ r ∈ members a.toNat (s.hart.grp a), s.hart.isBound r = true) →
      exec (.vtag d a) s = s.illegal)) ∧
 (∀ (s : State) (d a : Reg) (k : BitVec 3) (w : BitVec 1), let h := s.hart
    let t := h.ty a
    let g := h.grp a
    h.Plain → t.cls ≠ .untagged → h.opOk a h.vl = true → h.resOk d t g h.vl = true →
    (∀ r ∈ members a.toNat g ++ members d.toNat g, h.isBound r = false) →
    ((∃ r ∈ members a.toNat g, cfgFull (h.v r).cfg = false) → w = 1 → exec (.vmov d a k w) s = s.fault cEmpty 0) ∧
    (((∃ r ∈ members a.toNat g, cfgFull (h.v r).cfg = false) ∧ w = 0 ∨
        (∀ r ∈ members a.toNat g, cfgFull (h.v r).cfg = true) ∧ ∃ r ∈ members d.toNat g, cfgFull (h.v r).cfg = false) →
      ∃ watch, exec (.vmov d a k w) s = .next (s.setHart { h with st := .waiting .fullEmpty, watch := watch }) ∧
        watch.regs = h.empties (members a.toNat g) ++ h.empties (members d.toNat g)))

/-! ## Vector arithmetic -/

/-- The elementwise instructions, in every form but the carry forms: where the operands pass R119, R123, R130 and R131, each
active element of vd receives the operation on its operands' elements under the result configuration, every other element,
register and mask keeps its value, the flags of the active elements are added to FLAGS, RIDX moves on by VL under RSR for the
operations that draw, and at VL = 0 only the PC moves (R56, R97, R120 to R123, R130, R131, R133, R135, R136). -/
def Obligations.ElementwiseResults : Prop :=
  ∀ (s : State) (op : EOp) (i : Instr) (d a r : Reg) (b : Second) (k : BitVec 3) (w x : BitVec 1),
    let v : Second := .vec r (bit1 x)
    let c : Second := .scal r
    (op, b, i) ∈ [(EOp.add, v, Instr.vadd d a r k w x), (.sub, v, .vsub d a r k w x), (.mul, v, .vmul d a r k w x),
      (.fma, v, .vfma d a r k w x), (.min, v, .vmin d a r k w x), (.max, v, .vmax d a r k w x), (.and, v, .vand d a r k w x),
      (.or, v, .vor d a r k w x), (.xor, v, .vxor d a r k w x), (.shl, v, .vshl d a r k w x), (.shr, v, .vshr d a r k w x),
      (.sel, v, .vsel d a r k w x), (.add, c, .vadds d a r k w), (.sub, c, .vsubs d a r k w), (.mul, c, .vmuls d a r k w),
      (.fma, c, .vfmas d a r k w), (.min, c, .vmins d a r k w), (.max, c, .vmaxs d a r k w), (.and, c, .vands d a r k w),
      (.or, c, .vors d a r k w), (.xor, c, .vxors d a r k w), (.shl, c, .vshls d a r k w), (.shr, c, .vshrs d a r k w),
      (.sel, c, .vsels d a r k w), (.abs, .none, .vabs d a k w), (.neg, .none, .vneg d a k w), (.mov, .none, .vmov d a k w)] →
    let h := s.hart
    let ca := (h.v a.toNat).cfg
    let t := h.ty a
    let rt := (op.result ca).1
    let rg := (op.result ca).2.1
    h.Plain → h.opOk a h.vl = true → h.resOk d rt rg h.vl = true → op.tooWide ca = false → (op.result ca).2.2 = true →
    op.accepts t.cls = true → (op = .fma → sameCfg (h.v d.toNat).cfg (mkCfg rt rg) = true) →
    (∀ y z, b = .vec y z → h.opOk y h.vl = true ∧ (h.ty y).cls ≠ .untagged ∧ op.pairs ca (h.v y.toNat).cfg = true ∧
      h.usable y.toNat (h.grp y)) →
    h.usable a.toNat (h.grp a) → h.usable d.toNat rg →
    let draws := op.arith && (rt.cls == .fx || rt.cls == .flt)
    let act := fun e => if op = .sel then decide (e < h.vl) else h.isActive k e
    let f := fun e => op.element t (h.secondTy op t b) rt h.rmode.toNat (if draws then h.drawFor e else 0)
      (h.elem a.toNat (h.grp a) t.w e) (h.operand2 op t.w b e) (if op = .fma then h.elem d.toNat rg rt.w e else 0) (h.sel k e)
    (h.vl = 0 → exec i s = .next (s.atPc (h.pc + 4))) ∧
    (0 < h.vl → ∃ h', exec i s = .next (s.setHart h') ∧
      h' = { h with vregs := h'.vregs, pc := h.pc + 4, flags := h'.flags, ridx := h'.ridx } ∧
      h'.flags = h.flags ||| BitVec.ofNat 64 (orAll (((List.range h.vl).filter act).map (fun e => (f e).2))) ∧
      h'.ridx = (if draws && h.rmode == 4 then h.ridx + BitVec.ofNat 32 h.vl else h.ridx) ∧
      GroupWritten h h' d.toNat rg rt.w (resultCfg (if op = .mov then ca else mkCfg rt rg)) act (fun e => rt.stored (f e).1))

/-- What the operations give on integer elements: sums, differences, products and fused products modulo 2^w, shifts that
give zeros (or, on signed elements, copies of the sign) from the width upward, the smaller and the larger by the type's own
order, absolute values and negations modulo 2^w, and bitwise results; none sets a flag (R130, R131, R133, R135, R136).

`vadc` and `vsbc` on integer elements: each active element of vd receives a + b + c or a − b − c modulo 2^w, c being its bit
of m0 as it stood; m0 then holds the carries or borrows of the active elements and 0 for the other elements below VL, whatever
the mask; nothing else changes (R134). -/
def Obligations.IntegerElementsAndCarries : Prop :=
 (∀ (t : Ty) (mode draw a b c : Nat) (m : Bool), t.isInt = true → a < 2 ^ t.w → b < 2 ^ t.w → c < 2 ^ t.w →
    let el (op : EOp) := op.element t t t mode draw a b c m
    let value (x : Nat) : Int := if t.cls = .sint then (BitVec.ofNat t.w x).toInt else x
    el .add = ((a + b) % 2 ^ t.w, 0) ∧ el .sub = ((a + 2 ^ t.w - b) % 2 ^ t.w, 0) ∧ el .mul = (a * b % 2 ^ t.w, 0) ∧
    el .fma = ((c + a * b) % 2 ^ t.w, 0) ∧ el .and = (a &&& b, 0) ∧ el .or = (a ||| b, 0) ∧ el .xor = (a ^^^ b, 0) ∧
    el .min = (if value a < value b then a else b, 0) ∧ el .max = (if value a < value b then b else a, 0) ∧
    el .shl = (if b < t.w then a * 2 ^ b % 2 ^ t.w else 0, 0) ∧
    (t.cls = .nint → el .shr = (if b < t.w then a / 2 ^ b else 0, 0)) ∧
    (t.cls = .sint → el .shr = ((BitVec.ofNat t.w a).sshiftRight b |>.toNat, 0)) ∧
    (t.cls = .sint → el .abs = (if value a < 0 then 2 ^ t.w - a else a, 0)) ∧ (t.cls = .nint → el .abs = (a, 0)) ∧
    el .neg = ((2 ^ t.w - a) % 2 ^ t.w, 0) ∧ el .mov = (a, 0) ∧ el .sel = (if m then a else b, 0)) ∧
 (∀ (s : State) (sub : Bool) (d a b : Reg) (k : BitVec 3) (w x : BitVec 1), let h := s.hart
    let t := h.ty a
    let g := h.grp a
    h.Plain → t.isInt = true → sameCfg (h.v a.toNat).cfg (h.v b.toNat).cfg = true → h.opOk a h.vl = true →
    h.opOk b h.vl = true → h.resOk d t g h.vl = true → h.usable a.toNat g → h.usable b.toNat (h.grp b) → h.usable d.toNat g →
    let ea := h.elem a.toNat g t.w
    let eb := h.elem b.toNat (h.grp b) (h.ty b).w
    let c (e : Nat) : Nat := if (h.mask 0).getLsbD e then 1 else 0
    let i := if sub then Instr.vsbc d a b k w x else Instr.vadc d a b k w x
    (h.vl = 0 → exec i s = .next (s.atPc (h.pc + 4))) ∧
    (0 < h.vl → ∃ h', exec i s = .next (s.setHart h') ∧
      h' = { h with vregs := h'.vregs, pc := h.pc + 4, masks := h'.masks } ∧
      GroupWritten h h' d.toNat g t.w (resultCfg (mkCfg t g)) (h.isActive k)
        (fun e => if sub then (ea e + 2 ^ (t.w + 1) - eb e - c e) % 2 ^ t.w else ea e + eb e + c e) ∧
      (∀ e < 8192, (h'.mask 0).getLsbD e = if e < h.vl
        then h.isActive k e && (if sub then decide (ea e < eb e + c e) else decide (2 ^ t.w ≤ ea e + eb e + c e))
        else (h.mask 0).getLsbD e) ∧
      ∀ j < 8, j ≠ 0 → h'.mask j = h.mask j))

/-- The compares write every bit below VL of the mask register, masked-off ones with 0, by R138's relation on the elements or
on an element and the scalar; the bits from VL upward, the other masks and all else keep their values, and a NaN's flag is
added to FLAGS (R122, R137, R138). The scalar forms have a trap bit for va alone (log entry 23).

R138's relations on integers, fixed-point elements, angles and tokens are those of their values (of a token its low 24 bits), and
on floating-point elements that are no NaN those of theirs, −0 being equal to +0 and the infinities beyond every finite value; a
NaN makes `vcne` true and the others false, `vclt` and `vcge` invalid, and `vceq` and `vcne` invalid only for a signalling one.

The mask operations: each bit of md below VL as R139 says, from the masks as they stood; bits from VL upward, the other
masks and all else keep their values. `mpop` counts the set bits below VL, `mfirst` gives the least or all ones. -/
def Obligations.ComparesAndMasks : Prop :=
 (∀ (s : State) (rel : Rel) (i : Instr) (d : BitVec 3) (a r : Reg) (b : Second) (k : BitVec 3) (w x : BitVec 1),
    let v : Second := .vec r (bit1 x)
    let c : Second := .scal r
    (rel, b, i) ∈ [(Rel.eq, v, Instr.vceq d a r k w x), (.ne, v, .vcne d a r k w x), (.lt, v, .vclt d a r k w x),
      (.ge, v, .vcge d a r k w x), (.eq, c, .vceqs d a r k w x), (.ne, c, .vcnes d a r k w x), (.lt, c, .vclts d a r k w x),
      (.ge, c, .vcges d a r k w x)] →
    let h := s.hart
    let t := h.ty a
    h.Plain → h.opOk a h.vl = true → rel.accepts t.cls = true → h.usable a.toNat (h.grp a) →
    (∀ y z, b = .vec y z → h.opOk y h.vl = true ∧ sameCfg (h.v a.toNat).cfg (h.v y.toNat).cfg = true ∧
      h.usable y.toNat (h.grp y)) →
    let f := fun e => rel.compare t (h.elem a.toNat (h.grp a) t.w e) (h.operand2 .add t.w b e)
    ∃ h', exec i s = .next (s.setHart h') ∧ h' = { h with pc := h.pc + 4, masks := h'.masks, flags := h'.flags } ∧
      h'.flags = h.flags ||| BitVec.ofNat 64 (orAll ((h.activeList k).map (fun e => (f e).2))) ∧
      (∀ e < 8192, (h'.mask d.toNat).getLsbD e = if e < h.vl then h.isActive k e && (f e).1 else (h.mask d.toNat).getLsbD e) ∧
      ∀ j < 8, j ≠ d.toNat → h'.mask j = h.mask j) ∧
 (∀ (t : Ty) (x y : Nat),
    let ordered (u v : Int) : Prop := Rel.eq.compare t x y = (decide (u = v), 0) ∧ Rel.ne.compare t x y = (decide (u ≠ v), 0) ∧
      Rel.lt.compare t x y = (decide (u < v), 0) ∧ Rel.ge.compare t x y = (decide (v ≤ u), 0)
    (t.cls ≠ .flt → ordered (t.int x) (t.int y)) ∧ (t.cls = .tok → t.int x = (x % 2 ^ 24 : Nat)) ∧
    (t.cls = .flt → ∀ n m e n' m' e',
      (t.value x = .fin n m e → t.value y = .fin n' m' e' → ∀ p : Int, p ≤ e → p ≤ e' →
        ordered ((if n then -1 else 1) * m * 2 ^ (e - p).toNat) ((if n' then -1 else 1) * m' * 2 ^ (e' - p).toNat)) ∧
      (t.value x = .inf n → t.value y = .fin n' m' e' → ordered (if n then -1 else 1) 0) ∧
      (t.value x = .fin n m e → t.value y = .inf n' → ordered 0 (if n' then -1 else 1)) ∧
      (t.value x = .inf n → t.value y = .inf n' → ordered (if n then -1 else 1) (if n' then -1 else 1))) ∧
    (t.cls = .flt → ((t.value x).isNan || (t.value y).isNan) = true →
      let quiet := if (t.value x).isSnan || (t.value y).isSnan then fINVALID else 0
      Rel.eq.compare t x y = (false, quiet) ∧ Rel.ne.compare t x y = (true, quiet) ∧
      Rel.lt.compare t x y = (false, fINVALID) ∧ Rel.ge.compare t x y = (false, fINVALID))) ∧
 (∀ (s : State) (d a b : BitVec 3) (sd : Reg), s.hart.Plain → let h := s.hart
    let bit (m : BitVec 3) (e : Nat) : Bool := (h.mask m.toNat).getLsbD e
    (∀ i f, (i, f) ∈ [(Instr.mand d a b, fun e => bit a e && bit b e), (.mor d a b, fun e => bit a e || bit b e),
        (.mxor d a b, fun e => bit a e != bit b e), (.mnot d a, fun e => !bit a e),
        (.mshup d a, fun e => if e = 0 then false else bit a (e - 1)), (.mset d, fun _ => true), (.mclr d, fun _ => false)] →
      ∃ h', exec i s = .next (s.setHart h') ∧ h' = { h with pc := h.pc + 4, masks := h'.masks } ∧
        (∀ e < 8192, (h'.mask d.toNat).getLsbD e = if e < h.vl then f e else bit d e) ∧
        ∀ j < 8, j ≠ d.toNat → h'.mask j = h.mask j) ∧
    exec (.mpop sd a) s = .next (s.wrote sd (BitVec.ofNat 64 ((List.range h.vl).filter (bit a)).length)) ∧
    (∃ v, exec (.mfirst sd a) s = .next (s.wrote sd v) ∧ ((∀ e < h.vl, bit a e = false) → v = BitVec.allOnes 64) ∧
      (∀ e < h.vl, bit a e = true → (∀ j < e, bit a j = false) → v = BitVec.ofNat 64 e)))

/-- The permutes of va into vd, under va's configuration: slides by the scalar, gather by an index vector, compression of the
active elements to the front with their count in s[b], expansion from the front to the active elements. Elements not written,
the other registers and all else keep their values (R141).

`vbcast` puts the low bits of a scalar, and `vidx` the element's own index, into each active element of vd, whose
configuration stands; all else keeps its value (R141). -/
def Obligations.PermutesAndFills : Prop :=
 (∀ (s : State) (d a b : Reg) (k : BitVec 3) (w x : BitVec 1), let h := s.hart
    let t := h.ty a
    let g := h.grp a
    let ea := h.elem a.toNat g t.w
    let o := (h.rd b).toNat
    let idx := h.elem b.toNat (h.grp b) (h.ty b).w
    let n := (h.activeList k).length
    h.Plain → t.cls ≠ .untagged → h.opOk a h.vl = true → h.resOk d t g h.vl = true → h.usable a.toNat g → h.usable d.toNat g →
    let written (i : Instr) (h0 : Hart) (act : Nat → Bool) (val : Nat → Nat) : Prop :=
      (h.vl = 0 → exec i s = .next (s.setHart { h0 with pc := h.pc + 4 })) ∧
      (0 < h.vl → ∃ h', exec i s = .next (s.setHart h') ∧ h' = { h0 with vregs := h'.vregs, pc := h.pc + 4 } ∧
        GroupWritten h h' d.toNat g t.w (resultCfg (mkCfg t g)) act (fun e => t.stored (val e)))
    written (.vslideup d a b k w) h (fun e => h.isActive k e && decide (o ≤ e)) (fun e => ea (e - o)) ∧
    written (.vslidedn d a b k w) h (h.isActive k) (fun e => if e + o < h.vl then ea (e + o) else 0) ∧
    (h.opOk b h.vl = true → isIndexTy (h.ty b) = true → h.usable b.toNat (h.grp b) →
      written (.vgath d a b k w x) h (h.isActive k) (fun e => if idx e < h.vl then ea (idx e) else 0)) ∧
    written (.vcomp d a b k w) (h.wr b (BitVec.ofNat 64 n)) (fun e => decide (e < n)) (fun e => ea ((h.activeList k).getD e 0)) ∧
    written (.vexpd d a k w) h (h.isActive k) (fun e => ea ((List.range e).filter (h.isActive k)).length)) ∧
 (∀ (s : State) (d b : Reg) (k : BitVec 3), let h := s.hart
    let t := h.ty d
    h.Plain → t.cls ≠ .untagged → h.opOk d h.vl = true → h.usable d.toNat (h.grp d) →
    ∀ i val, ((i, val) = (Instr.vbcast d b k, fun _ => (h.rd b).toNat) ∨ t.isInt = true ∧ (i, val) = (.vidx d k, fun e => e)) →
      ∃ h', exec i s = .next (s.setHart h') ∧ h' = { h with vregs := h'.vregs, pc := h.pc + 4 } ∧
        GroupWritten h h' d.toNat (h.grp d) t.w id (h.isActive k) (fun e => t.stored (val e)))

/-- The reductions of va put the tree of R117 over the active elements, the identity standing in for the others, into element
0 of vd under a result group of 1, and add its flags; the rest of vd and all else keep their values; at VL = 0 only the PC
moves (R117, R142, R143). `vrsum` widens by W2.

On integer elements the reduction tree gives the sum of the active elements modulo 2^w, and a greatest or least one of
them by the type's order (R143): the order of the tree does not show. A NaN that is the one element below VL gives the default
NaN, invalid where it is signalling (R95).

`vsmaxe` writes one entry of the scale register for each block of 16 elements below VL, from the block's active elements
as R101 says; its other entries, the other scale registers and all else keep their values (R101, R144). -/
def Obligations.ReductionsAndScales : Prop :=
 (∀ (s : State) (op : ROp) (i : Instr) (d a : Reg) (k : BitVec 3) (w : BitVec 1) (rt : Ty),
    (op, i) ∈ [(ROp.sum, Instr.vrsum d a k w), (.max, .vrmax d a k w), (.min, .vrmin d a k w)] →
    let h := s.hart
    let ca := (h.v a.toNat).cfg
    let t := h.ty a
    h.Plain → h.opOk a h.vl = true → op.accepts t.cls = true → h.usable a.toNat (h.grp a) → h.usable d.toNat 1 →
    (if op = .sum ∧ cfgW2 ca ≠ 0 then widenTy t (w2Bits (cfgW2 ca)) false = some rt else rt = t) →
    let r := op.reduce t rt (if h.rmode = 4 then 0 else h.rmode.toNat) h.vl (h.sel k) (h.elem a.toNat (h.grp a) t.w)
    (h.vl = 0 → exec i s = .next (s.atPc (h.pc + 4))) ∧
    (0 < h.vl → ∃ h', exec i s = .next (s.setHart h') ∧ h' = { h with vregs := h'.vregs, pc := h.pc + 4, flags := h'.flags } ∧
      h'.flags = h.flags ||| BitVec.ofNat 64 r.2 ∧
      GroupWritten h h' d.toNat 1 rt.w (resultCfg (mkCfg rt 1)) (fun e => e == 0) (fun _ => r.1))) ∧
 (∀ (t : Ty) (mode vl : Nat) (sel : Nat → Bool) (r : Nat → Nat), t.isInt = true → 0 < vl → (∀ e < vl, r e < 2 ^ t.w) →
    let es := (List.range vl).filter sel
    ROp.sum.reduce t t mode vl sel r = ((es.map r).sum % 2 ^ t.w, 0) ∧
    (∀ e ∈ es, t.int (r e) ≤ t.int (ROp.max.reduce t t mode vl sel r).1 ∧
      t.int (ROp.min.reduce t t mode vl sel r).1 ≤ t.int (r e)) ∧
    (es ≠ [] → (∃ e ∈ es, r e = (ROp.max.reduce t t mode vl sel r).1) ∧ (∃ e ∈ es, r e = (ROp.min.reduce t t mode vl sel r).1))) ∧
 (∀ (op : ROp) (t : Ty) (mode : Nat) (sel : Nat → Bool) (r : Nat → Nat), t.cls = .flt → sel 0 = true → (t.value (r 0)).isNan = true →
    op.reduce t t mode 1 sel r = ((fmtOf t.tag).nan, if (t.value (r 0)).isSnan then fINVALID else 0)) ∧
 (∀ (s : State) (d a : Reg) (k : BitVec 3) (w : BitVec 1), let h := s.hart
    let t := h.ty a
    h.Plain → d.toNat < 8 → t.cls = .flt → h.opOk a h.vl = true → h.usable a.toNat (h.grp a) →
    let block (b : Nat) := blockScale ((List.range 16).map (fun i => if h.isActive k (16 * b + i)
      then some (t.value (h.elem a.toNat (h.grp a) t.w (16 * b + i))) else none))
    let blocks := (h.vl + 15) / 16
    ∃ h', exec (.vsmaxe d a k w) s = .next (s.setHart h') ∧
      h' = { h with scales := h'.scales, pc := h.pc + 4, flags := h'.flags } ∧
      h'.flags = h.flags ||| BitVec.ofNat 64 (orAll ((List.range blocks).map (fun b => (block b).2))) ∧
      (∀ b < 512, h'.scaleAt d.toNat b = if b < blocks then (block b).1 % 2 ^ 16 else h.scaleAt d.toNat b) ∧
      ∀ j < 8, j ≠ d.toNat → h'.scale j = h.scale j)

/-- `vcvt`, `vquant` and `vdeq` put the conversion of each active element of va into vd, whose configuration stands, and add
its flags; `vcvt` that is no copy, and `vdeq`, move RIDX on by VL under RSR; all else keeps its value. With a code-table type
no swap of the core's table may be pending (R97, R146, R147, R148, R252). That a `vcvt` is no copy exactly when tag or fraction
count differ is log entry 77; a signalling NaN in a block without a scale is log entry 100.

`vunpk` takes interleaved elements apart: element e of vd and of vd + G receive elements 2e and 2e + 1 of va, for each
active e. `vpack` is the other way round: elements 2e and 2e + 1 of vd receive element e of va and of va + G. Both give vd the
configuration of va; all else keeps its value (R149). -/
def Obligations.ConversionsAndPairs : Prop :=
 (∀ (s : State) (i : Instr) (d a b : Reg) (k : BitVec 3) (w : BitVec 1) (f : Nat → Nat → Nat × Nat) (draws : Bool),
    let h := s.hart
    let t := h.ty a
    let rt := h.ty d
    let bank := (s.codeTab h.core).bank
    let ready (ct : Bool) := b.toNat < 8 ∧ (ct = true → b = 0 ∧ (s.codeTab h.core).swapPending = false)
    h.Plain → h.opOk a h.vl = true → h.opOk d h.vl = true → h.usable a.toNat (h.grp a) → h.usable d.toNat (h.grp d) →
    ((i = .vcvt d a k w ∧ cvtOk (cvtClass t) (cvtClass rt) = true ∧ draws = decide (t ≠ rt) ∧
        f = fun e x => convert t rt h.rmode.toNat (if t = rt then 0 else h.drawFor e) x) ∨
      (i = .vquant d a b k w ∧ t.cls = .flt ∧ rt.tag = 26 ∧ ready true ∧ draws = false ∧ f = fun _ x => ctQuant bank (t.value x)) ∨
      (i = .vquant d a b k w ∧ t.cls = .flt ∧ rt.tag ≠ 26 ∧ psBits rt ≠ 0 ∧ ready false ∧ draws = false ∧
        f = fun e x => psQuant (psBits rt) (h.scaleAt b.toNat (e / 16)) e (t.value x)) ∨
      (i = .vdeq d a b k w ∧ rt.cls = .flt ∧ t.tag = 26 ∧ ready true ∧ draws = true ∧
        f = fun e x => rt.fit h.rmode.toNat (h.drawFor e) (bank.getD x (.fin false 0 0))) ∨
      (i = .vdeq d a b k w ∧ rt.cls = .flt ∧ t.tag ≠ 26 ∧ psBits t ≠ 0 ∧ ready false ∧ draws = true ∧
        f = fun e x => rt.fit h.rmode.toNat (h.drawFor e) (psValue (psBits t) (h.scaleAt b.toNat (e / 16)) e x))) →
    let v := fun e => f e (h.elem a.toNat (h.grp a) t.w e)
    ∃ h', exec i s = .next (s.setHart h') ∧
      h' = { h with vregs := h'.vregs, pc := h.pc + 4, flags := h'.flags, ridx := h'.ridx } ∧
      h'.flags = h.flags ||| BitVec.ofNat 64 (orAll ((h.activeList k).map (fun e => (v e).2))) ∧
      h'.ridx = (if draws && h.rmode == 4 then h.ridx + BitVec.ofNat 32 h.vl else h.ridx) ∧
      GroupWritten h h' d.toNat (h.grp d) rt.w id (h.isActive k) (fun e => rt.stored (v e).1)) ∧
 (∀ (s : State) (d a : Reg) (k : BitVec 3) (w : BitVec 1), let h := s.hart
    let ca := (h.v a.toNat).cfg
    let t := h.ty a
    let g := h.grp a
    let ea := h.elem a.toNat g t.w
    let ea2 := h.elem (a.toNat + g) g t.w
    h.Plain → 0 < h.vl → t.cls ≠ .untagged →
    (d.toNat % (2 * g) = 0 → h.opOk a (2 * h.vl) = true → h.usable a.toNat g → h.usable d.toNat (2 * g) →
      ∃ h1 h', exec (.vunpk d a k w) s = .next (s.setHart { h' with pc := h.pc + 4 }) ∧
        h1 = { h with vregs := h1.vregs } ∧ h' = { h with vregs := h'.vregs } ∧
        GroupWritten h h1 d.toNat g t.w (resultCfg (mkCfg t g)) (h.isActive k) (fun e => t.stored (ea (2 * e))) ∧
        GroupWritten h1 h' (d.toNat + g) g t.w (resultCfg (mkCfg t g)) (h.isActive k) (fun e => t.stored (ea (2 * e + 1)))) ∧
    (a.toNat % (2 * g) = 0 → sameCfg ca (h.v (a.toNat + g)).cfg = true → h.fits a.toNat g t.w (2 * h.vl) = true →
      h.resOk d t g (2 * h.vl) = true → h.usable a.toNat (2 * g) → h.usable d.toNat g →
      ∃ h', exec (.vpack d a k w) s = .next (s.setHart h') ∧ h' = { h with vregs := h'.vregs, pc := h.pc + 4 } ∧
        GroupWritten h h' d.toNat g t.w (resultCfg (mkCfg t g)) (fun e => h.isActive k (e / 2))
          (fun e => t.stored (if e % 2 = 0 then ea (e / 2) else ea2 (e / 2)))))

/-- The rotations: each active element of the pair (and of vz, for the vector-to-axis forms) receives R112's result by the
mode, the count and the gain compensation; CVGM holds the active elements' failures and 0 elsewhere; FLAGS gains the flags,
with CVG when an element failed; configuration words stand, and a count above 16 marks the destinations empty until they land
(R49, R150 to R158).

One element: a NaN or infinity gives the default NaN or zero and INVALID (R114); any other enters (R106, R107), takes the
circular pre-step (R109) and n iterations of R110 in 48 bits by the shifts of the gait (R108), is multiplied by the gain's
inverse where asked (R112) and leaves rounded (R113, said of fixed-point pairs and of angles); it fails where R115 says. The inverse gains are 2^32 / K(n) rounded to
nearest, and the linear angle constants are powers of two (R111, R112). A fixed-point pair enters at bit 12; a floating one has
its larger operand's leading one at bit 35, and its smaller one is cut toward minus infinity. What an angle's entry discards
sets no flag by log entry 78. -/
def Obligations.Rotations : Prop :=
 (∀ (s : State) (m : RotMode) (vta gain : Bool) (i : Instr) (p : BitVec 4) (z : Reg) (nf : BitVec 6) (k : BitVec 3)
    (w x : BitVec 1),
    (m, vta, gain, i) ∈ [(RotMode.circular, false, false, Instr.rotc p z nf k w x), (.circular, false, true, .rotcG p z nf k w x),
      (.linear, false, false, .rotl p z nf k w x), (.linear, false, true, .rotlG p z nf k w x),
      (.hyperbolic, false, false, .roth p z nf k w x), (.hyperbolic, false, true, .rothG p z nf k w x),
      (.circular, true, false, .vtac p z nf k w x), (.circular, true, true, .vtacG p z nf k w x),
      (.linear, true, false, .vtal p z nf k w x), (.linear, true, true, .vtalG p z nf k w x),
      (.hyperbolic, true, false, .vtah p z nf k w x), (.hyperbolic, true, true, .vtahG p z nf k w x)] →
    let h := s.hart
    let px := 2 * p.toNat
    let c := (h.v px).cfg
    let t := cfgTy c
    let g := cfgGrp c
    let py := px + g
    let pz := z.toNat
    let zt := h.ty z
    let gz := h.grp z
    let n0 := if nf = 0 then h.rotn.toNat else nf.toNat
    let n := if m = .hyperbolic then n0 else min n0 44
    h.Plain → 0 < h.vl → h.vl ≤ 8 * h.w → px % (2 * g) = 0 → h.fits px g t.w h.vl = true → pairTag t = true →
    sameCfg c (h.v py).cfg = true → (∀ r ∈ members px (2 * g), cfgTag (h.v r).cfg ≠ 0) → h.opOk z h.vl = true →
    angleTag m zt = true → h.usable px (2 * g) → h.usable pz gz →
    (vta = true → pz + gz ≤ px ∨ px + 2 * g ≤ pz) →
    let out := fun e => rotElem m vta gain n t zt (h.elem px g t.w e) (h.elem py g t.w e) (h.elem pz gz zt.w e)
    let dests := members px (2 * g) ++ if vta then members pz gz else []
    ∃ h', exec i s = .next (s.setHart h') ∧
      h' = { h with vregs := h'.vregs, pc := h.pc + 4, flags := h'.flags, cvgm := h'.cvgm, pend := h'.pend } ∧
      (∀ e, t.w * (e + 1) ≤ 256 * h.w * g →
        h'.elem px g t.w e = (if h.isActive k e then (out e).x % 2 ^ t.w else h.elem px g t.w e) ∧
        h'.elem py g t.w e = (if h.isActive k e then (out e).y % 2 ^ t.w else h.elem py g t.w e)) ∧
      (vta = true → ∀ e, zt.w * (e + 1) ≤ 256 * h.w * gz →
        h'.elem pz gz zt.w e = if h.isActive k e then (out e).z % 2 ^ zt.w else h.elem pz gz zt.w e) ∧
      (∀ e < 8192, h'.cvgm.getLsbD e = (h.isActive k e && (out e).fail)) ∧
      h'.flags = h.flags ||| BitVec.ofNat 64 (orAll ((h.activeList k).map (fun e => (out e).flags)) |||
        (if (h.activeList k).any (fun e => (out e).fail) then fCVG else 0)) ∧
      (∀ r < 32, r ∉ dests → h'.v r = h.v r) ∧
      (∀ r ∈ dests, (h'.v r).cfg = if 16 < n then (h.v r).cfg &&& 0xFFF7FFFF else (h.v r).cfg) ∧
      (if 16 < n then ∃ due, h'.pend = h.pend ++ [{ regs := dests, due := due }] else h'.pend = h.pend)) ∧
 (∀ (m : RotMode) (vta : Bool) (k n : Nat) (st : RotState),
    let i := rotShift m k
    let d : Int := if (if vta then st.y < 0 else 0 ≤ st.z) then 1 else -1
    let c : Int := match m with
      | .circular => 1
      | .linear => 0
      | .hyperbolic => -1
    let in48 (v : Int) : Int := (BitVec.ofInt 48 v).toInt
    rotIterate m vta k st = { x := in48 (st.x - c * d * (st.y >>> i)), y := in48 (st.y + d * (st.x >>> i))
                              z := in48 (st.z - d * rotAlpha m i) } ∧
    rotRun m vta 0 1 st = st ∧ rotRun m vta (n + 1) 1 st = rotIterate m vta (n + 1) (rotRun m vta n 1 st) ∧
    rotPre true st = (if st.x < 0 ∨ st.x = 0 ∧ st.y < 0
      then { x := in48 (-st.x), y := in48 (-st.y), z := in48 (st.z + 2 ^ 43) } else st) ∧
    (-(2 ^ 43) ≤ st.z → st.z < 2 ^ 43 → let q := (st.z + 2 ^ 41) >>> 42
      (rotPre false st).z = st.z - q * 2 ^ 42 ∧ -2 ≤ q ∧ q ≤ 2 ∧
      ((rotPre false st).x, (rotPre false st).y) = (if q = 1 then (in48 (-st.y), st.x) else if q = -1 then (st.y, in48 (-st.x))
        else if q = 0 then (st.x, st.y) else (in48 (-st.x), in48 (-st.y))))) ∧
 ((∀ k, 1 ≤ k → rotShift .circular k = k - 1 ∧ rotShift .linear k = k - 1) ∧
  (List.range 47).map (fun j => rotShift .hyperbolic (j + 1)) = [1, 2, 3, 4, 4] ++ (List.range 9).map (fun j => j + 5) ++ [13]
    ++ (List.range 27).map (fun j => j + 14) ++ [40] ++ (List.range 4).map (fun j => j + 41) ∧
  rotAlpha .circular 0 = 2 ^ 41 ∧ (∀ i ≤ 43, rotAlpha .linear i = 2 ^ (44 - i)) ∧ (∀ n, rotGain .linear n = 2 ^ 32) ∧
  (∀ n, rotTheta (n + 1) = rotTheta n + rotAlpha .hyperbolic (rotShift .hyperbolic (n + 1))) ∧
  let nearest (c : Nat) (num den : Nat) : Prop := (2 * c - 1) ^ 2 * num ≤ 2 ^ 66 * den ∧ 2 ^ 66 * den ≤ (2 * c + 1) ^ 2 * num
  (∀ n, 1 ≤ n → n ≤ 44 → nearest (rotGain .circular n) ((List.range n).foldl (fun p i => p * (4 ^ i + 1)) 1)
    ((List.range n).foldl (fun p i => p * 4 ^ i) 1)) ∧
  (∀ n, 1 ≤ n → n ≤ 47 → nearest (rotGain .hyperbolic n)
    ((List.range n).foldl (fun p j => p * (4 ^ rotShift .hyperbolic (j + 1) - 1)) 1)
    ((List.range n).foldl (fun p j => p * 4 ^ rotShift .hyperbolic (j + 1)) 1))) ∧
 (∀ (m : RotMode) (vta gain : Bool) (n X Y Z : Nat) (c cz : BitVec 32),
    let t := cfgTy c
    let zt := cfgTy cz
    let out := rotElem m vta gain n t zt X Y Z
    let special := (t.value X).special || (t.value Y).special || (zt.value Z).special
    let near (j : Nat) (v r : Int) : Prop := RoundedTo v (2 ^ j) r
    let entry := enterPair t X Y
    let x := entry.1
    let y := entry.2.1
    let eL := entry.2.2.1
    (special = true → out = { x := nanOrZero t, y := nanOrZero t, z := nanOrZero zt, flags := fINVALID, fail := false }) ∧
    (special = false → let s0 : RotState := { x := x, y := y, z := (enterAngle m zt Z).1 }
      let s1 := if m = .circular then rotPre vta s0 else s0
      let s2 := rotRun m vta n 1 s1
      (∃ cx cy, out.x = (exitPair t eL cx).1 ∧ out.y = (exitPair t eL cy).1 ∧ out.z = (exitAngle m zt s2.z).1 ∧
        (gain = false → cx = s2.x ∧ cy = s2.y) ∧
        (gain = true → near 32 (s2.x * rotGain m n) cx ∧ near 32 (s2.y * rotGain m n) cy)) ∧
      (out.fail = true ↔ match m, vta with
        | .circular, _ => False
        | .linear, false => 2 ^ 45 ≤ s1.z.natAbs
        | .linear, true => 2 * s1.x.natAbs ≤ s1.y.natAbs
        | .hyperbolic, false => rotTheta n < s1.z.natAbs
        | .hyperbolic, true => s1.x ≤ s1.y.natAbs ∨ s1.x * (tanhTheta.getD n 0 : Nat) < s1.y.natAbs * 2 ^ 256)) ∧
    (t.cls = .fx → entry = (t.int X * 2 ^ 12, t.int Y * 2 ^ 12, 0, 0) ∧ ∀ v, ∃ r, near 12 v r ∧
      t.int (exitPair t 0 v).1 = max (-(2 ^ (t.w - 1))) (min (2 ^ (t.w - 1) - 1) r)) ∧
    (t.cls = .flt → t.tag ≠ 16 → pairTag t = true → X < 2 ^ t.w → Y < 2 ^ t.w → ∀ nx mx ex ny my ey,
      t.value X = .fin nx mx ex → t.value Y = .fin ny my ey →
      entry.2.2.2 = 0 ∧ (mx = 0 → my = 0 → x = 0 ∧ y = 0) ∧
      (mx ≠ 0 ∨ my ≠ 0 → 2 ^ 35 ≤ max x.natAbs y.natAbs ∧ max x.natAbs y.natAbs < 2 ^ 36 ∧
        ∀ j : Int, j ≤ ex → j ≤ ey → j ≤ eL - 35 → let u : Int := 2 ^ (eL - 35 - j).toNat
          let vx : Int := (if nx then -1 else 1) * mx * 2 ^ (ex - j).toNat
          let vy : Int := (if ny then -1 else 1) * my * 2 ^ (ey - j).toNat
          x * u ≤ vx ∧ vx < (x + 1) * u ∧ y * u ≤ vy ∧ vy < (y + 1) * u)) ∧
    (zt.tag = 12 → enterAngle .circular zt Z = ((BitVec.ofNat 44 (Z * 2 ^ 12)).toInt, 0) ∧
      ∀ v, ∃ r, near 12 v r ∧ (exitAngle .circular zt v).1 = (BitVec.ofInt 32 r).toNat) ∧
    (zt.tag = 11 → enterAngle .circular zt Z = ((BitVec.ofNat 44 (Z * 2 ^ 28)).toInt, 0) ∧
      ∀ v, ∃ r, near 28 v r ∧ (exitAngle .circular zt v).1 = (BitVec.ofInt 16 r).toNat) ∧
    (zt.cls = .fx → m ≠ .circular → zt.frac ≤ 44 → let v := zt.int Z * 2 ^ (44 - zt.frac)
      enterAngle m zt Z = (max (-(2 ^ 47)) (min (2 ^ 47 - 1) v), if v < -(2 ^ 47) ∨ 2 ^ 47 ≤ v then fSAT else 0)))

/-! ## Vector memory -/

/-- A vector load of one group: where every active element can be read (R344), vd receives each at the address of its form
(R162, R167), keeps every other element, is a long-latency producer's destination (empty until it lands, R49), and nothing
else changes; at VL = 0 only the PC moves. An element of a whole number of bytes is what S1 reads there, a smaller one the
bits at its offset (R166), with no bit altered (R164; of a token's top byte, of which R92 speaks, log entry 98).

A `.rep` load may take an element from the replica that an earlier one of its launch left, and leaves one of each element of
whole bytes that it has from memory (R169, R202, R211); which of the two it does is the state's choice (log entry 20). A load whose
elements all lie in memory may also be noted and read them when it performs (R196, log entry 85).

Where an active element cannot be read, the active elements below it are loaded and no other; the exception records the
element's index and its address (R25, R163, R262, R344), and in each counter the least active element of its lane group from there
upward, all ones where it has none, which is the model's reading of R262 (log entry 35). The registers are then full.

`vldff` loads the active elements below the first that meets a page, protection or misaligned-access fault, which is not
element 0, and gives its index in s[b]; where none faults, all of them, and VL (R168). `vldseg` loads F + 1 fields of each
active element into as many groups, each with vd's configuration word (R167). -/
def Obligations.VectorLoads : Prop :=
 (∀ (s : State) (d a b : Reg) (k : BitVec 3) (x r : BitVec 1) (i : Instr) (place : Nat → Place), let h := s.hart
    let t := h.ty d
    let g := h.grp d
    let idx := h.elem b.toNat (h.grp b) (h.ty b).w
    h.Plain → t.cls ≠ .untagged → h.opOk d h.vl = true → h.usable d.toNat g →
    ((i = .vld d a k r ∧ place = fun e => placeAt (h.rd a) (e * t.w)) ∨
      (i = .vldb d a b k r ∧ place = fun e => placeAt (h.rd a) ((h.rd b).toNat + e * t.w)) ∨
      (8 ≤ t.w ∧ i = .vlds d a b k r ∧ place = fun e => ⟨h.rd a + BitVec.ofInt 64 (e * (h.rd b).toInt), 0⟩) ∨
      (8 ≤ t.w ∧ h.opOk b h.vl = true ∧ isIndexTy (h.ty b) = true ∧ h.usable b.toNat (h.grp b) ∧
        i = .vldx d a b k x r ∧ place = fun e => ⟨h.rd a + BitVec.ofNat 64 (idx e), 0⟩)) →
    (h.vl = 0 → exec i s = .next (s.atPc (h.pc + 4))) ∧
    (0 < h.vl → ∀ val : Nat → Nat, (∀ e, h.isActive k e = true → s.readPlace (bit1 r) t.w (place e) = .ok (val e)) →
      bit1 r = true ∨ s.delaying = [] ∨ t.w < 8 ∨ h.activeList k = [] ∨
        (∃ e q, h.isActive k e = true ∧ s.reach .read t.w (place e) = .ok [q] ∧ s.delays 1 q = false) →
      ∃ u h', exec i s = .next u ∧ u = { s with hart := h', replicas := u.replicas } ∧
        h' = { h with vregs := h'.vregs, pend := h.pend ++ [⟨members d.toNat g, s.loadLat⟩], pc := h.pc + 4 } ∧
        GroupWritten h h' d.toNat g t.w (fun c => c &&& 0xFFF7FFFF) (h.isActive k) val ∧
        (bit1 r = false → u.replicas = s.replicas) ∧
        (bit1 r = true → 8 ≤ t.w → ∀ e q, h.isActive k e = true → s.reach .read t.w (place e) = .ok [q] →
          u.replica q.pa (t.w / 8) = if memRead s.mem q.pa (t.w / 8) = val e then some (val e) else s.replica q.pa (t.w / 8))) ∧
    (∀ q f val, h.isActive k q = true → s.readPlace (bit1 r) t.w (place q) = .error f →
      (∀ e < q, h.isActive k e = true → s.readPlace (bit1 r) t.w (place e) = .ok (val e)) →
      ∃ h' reps, exec i s = .next ({ s with hart := h', replicas := reps }.faults (h.elemTrap t.w (h.activeList k) q f)) ∧
        h' = { h with vregs := h'.vregs } ∧ (bit1 r = false → reps = s.replicas) ∧
        GroupWritten h h' d.toNat g t.w id (fun e => decide (e < q) && h.isActive k e) val) ∧
    (0 < h.vl → ∀ pa : Nat → Nat, bit1 r = false → 8 ≤ t.w → h.activeList k ≠ [] →
      (∀ e, h.isActive k e = true → ∃ q, s.reach .read t.w (place e) = .ok [q] ∧ q.pa = pa e ∧ s.delays 1 q = true) →
      ∃ h', exec i s = .next (s.setHart h') ∧
        h' = { h with vregs := h'.vregs, pend := h.pend ++ [⟨members d.toNat g, s.loadLat⟩], pc := h.pc + 4
                      late := h.late ++ [{ stream := 1, dest := .vector d.toNat g t.w, size := t.w / 8
                                           elems := (h.activeList k).map (fun e => (e, pa e)) }] } ∧
        GroupWritten h h' d.toNat g t.w (fun c => c &&& 0xFFF7FFFF) (fun _ => false) (fun _ => 0)) ∧
    (∀ w p q, 8 ≤ w → p.bit = 0 → s.access h .read (w / 8) p.va = .ok q →
      s.readPlace false w p = .ok (s.load h 1 false q.pa (w / 8)) ∧
      s.readPlace true w p = .ok (if s.fromReplica = true then (s.replica q.pa (w / 8)).getD (s.load h 1 false q.pa (w / 8))
        else s.load h 1 false q.pa (w / 8))) ∧
    (∀ rep w p q, w < 8 → p.bit + w ≤ 8 → s.access h .read 1 p.va = .ok q →
      s.readPlace rep w p = .ok ((s.sees 1 q.pa).toNat / 2 ^ p.bit % 2 ^ w)) ∧
    (∀ rep w p q q', w < 8 → 8 < p.bit + w → p.bit < 8 → s.access h .read 1 p.va = .ok q →
      s.access h .read 1 (p.va + 1) = .ok q' →
      s.readPlace rep w p = .ok (((s.sees 1 q.pa).toNat + 256 * (s.sees 1 q'.pa).toNat) / 2 ^ p.bit % 2 ^ w))) ∧
 (∀ (s : State) (d a b : Reg) (k f : BitVec 3) (r : BitVec 1), let h := s.hart
    let t := h.ty d
    let g := h.grp d
    let n := f.toNat + 1
    h.Plain → t.cls ≠ .untagged → h.opOk d h.vl = true →
    (h.usable d.toNat g → let place (e : Nat) := placeAt (h.rd a) (e * t.w)
      (h.vl = 0 → exec (.vldff d a b k r) s = .next (s.wrote b 0)) ∧
      (0 < h.vl → ∀ (q : Nat) (val : Nat → Nat), (q = h.vl ∨ 0 < q ∧ h.isActive k q = true ∧
          ∃ f, s.readPlace (bit1 r) t.w (place q) = .error f ∧ f.cause ∈ [cPage, cProt, cAlign]) →
        (∀ e < q, h.isActive k e = true → s.readPlace (bit1 r) t.w (place e) = .ok (val e)) →
        ∃ u h', exec (.vldff d a b k r) s = .next u ∧ u = { s with hart := h', replicas := u.replicas } ∧
          (bit1 r = false → u.replicas = s.replicas) ∧
          h' = { h.wr b (BitVec.ofNat 64 q) with
            vregs := h'.vregs, pend := h.pend ++ [⟨members d.toNat g, s.loadLat⟩], pc := h.pc + 4 } ∧
          GroupWritten h h' d.toNat g t.w (fun c => c &&& 0xFFF7FFFF) (fun e => decide (e < q) && h.isActive k e) val) ∧
      (∀ q f val, h.isActive k q = true → s.readPlace (bit1 r) t.w (place q) = .error f →
        q = 0 ∨ f.cause ∉ [cPage, cProt, cAlign] →
        (∀ e < q, h.isActive k e = true → s.readPlace (bit1 r) t.w (place e) = .ok (val e)) →
        ∃ h' reps, exec (.vldff d a b k r) s =
            .next ({ s with hart := h', replicas := reps }.faults (h.elemTrap t.w (h.activeList k) q f)) ∧
          h' = { h with vregs := h'.vregs } ∧ (bit1 r = false → reps = s.replicas) ∧
          GroupWritten h h' d.toNat g t.w id (fun e => decide (e < q) && h.isActive k e) val)) ∧
    (8 ≤ t.w → d.toNat + n * g ≤ 32 → h.usable d.toNat (n * g) →
      (h.vl = 0 → exec (.vldseg d a k f) s = .next (s.atPc (h.pc + 4))) ∧
      (0 < h.vl → ∀ val : Nat → Nat → Nat,
        (∀ e, h.isActive k e = true → ∀ j < n, s.readPlace false t.w (placeAt (h.rd a) ((e * n + j) * t.w)) = .ok (val e j)) →
        ∃ h', exec (.vldseg d a k f) s = .next (s.setHart h') ∧
          h' = { h with vregs := h'.vregs, pend := h.pend ++ [⟨members d.toNat (n * g), s.loadLat⟩], pc := h.pc + 4 } ∧
          (∀ j < n, ∀ e, t.w * (e + 1) ≤ 256 * h.w * g → h'.elem (d.toNat + j * g) g t.w e =
            if h.isActive k e then val e j % 2 ^ t.w else h.elem (d.toNat + j * g) g t.w e) ∧
          (∀ q ∈ members d.toNat (n * g), (h'.v q).cfg = (h.v d.toNat).cfg &&& 0xFFF7FFFF) ∧
          ∀ q < 32, q ∉ members d.toNat (n * g) → h'.v q = h.v q) ∧
      (∀ q i x, ∀ val : Nat → Nat → Nat, let field (e j : Nat) := s.readPlace false t.w (placeAt (h.rd a) ((e * n + j) * t.w))
        h.isActive k q = true → i < n → field q i = .error x → (∀ j < i, ∃ v, field q j = .ok v) →
        (∀ e < q, h.isActive k e = true → ∀ j < n, field e j = .ok (val e j)) →
        ∃ h', exec (.vldseg d a k f) s = .next ((s.setHart h').faults (h.elemTrap t.w (h.activeList k) q x)) ∧
          h' = { h with vregs := h'.vregs } ∧
          (∀ j < n, ∀ e, t.w * (e + 1) ≤ 256 * h.w * g → h'.elem (d.toNat + j * g) g t.w e =
            if decide (e < q) && h.isActive k e then val e j % 2 ^ t.w else h.elem (d.toNat + j * g) g t.w e) ∧
          (∀ q ∈ members d.toNat (n * g), (h'.v q).cfg = (h.v d.toNat).cfg) ∧
          ∀ q < 32, q ∉ members d.toNat (n * g) → h'.v q = h.v q))) ∧
 (∀ (h : Hart) (w q g : Nat) (act : List Nat), g < 8 → let c := (h.counters w act q).getD g 0
    let from_ := act.filter (fun e => decide (q ≤ e) && decide (h.groupOf w e = g))
    (from_ = [] → c = 0xFFFF) ∧ (∀ e l, from_ = e :: l → c = BitVec.ofNat 16 e))

/-- The vector stores put each active element of vd (of F + 1 groups, for `vstseg`) at the address of its form, as S1 sees
memory, and leave every other bit of memory as it was: element after element, the later one standing where two meet. `at_ m`
are the places found for element m, field by field. No register but the PC changes (R162, R164, R167, R170 to R173). That a field
of `vstseg` whose own elements are wider than vd's stores their low bits is log entry 92.

Where a place of an active element cannot be written, the elements below it are stored and nothing else, and the exception
records its index, its address and the counters, the PC standing (R25, R163, R171, R262, R344). -/
def Obligations.VectorStores : Prop :=
  ∀ (s : State) (d a b : Reg) (k f : BitVec 3) (w x : BitVec 1) (i : Instr) (n : Nat) (place : Nat → Place)
    (at_ : Nat → List Phys), s.MemInv → let h := s.hart
    let t := h.ty d
    let g := h.grp d
    let idx := h.elem b.toNat (h.grp b) (h.ty b).w
    let source (m : Nat) : Reg := BitVec.ofNat 5 (d.toNat + m % n * g)
    h.Plain → h.opOk d h.vl = true → d.toNat + n * g ≤ 32 → h.usable d.toNat (n * g) →
    (∀ m < n, let r := source m
      (h.ty r).cls ≠ .untagged ∧ h.opOk r h.vl = true ∧ h.usable r.toNat (h.grp r)) →
    ((n = 1 ∧ i = .vst d a k w ∧ place = fun e => placeAt (h.rd a) (e * t.w)) ∨
      (n = 1 ∧ i = .vstb d a b k w ∧ place = fun e => placeAt (h.rd a) ((h.rd b).toNat + e * t.w)) ∨
      (n = 1 ∧ 8 ≤ t.w ∧ i = .vsts d a b k w ∧ place = fun e => ⟨h.rd a + BitVec.ofInt 64 (e * (h.rd b).toInt), 0⟩) ∨
      (n = 1 ∧ 8 ≤ t.w ∧ h.opOk b h.vl = true ∧ isIndexTy (h.ty b) = true ∧ h.usable b.toNat (h.grp b) ∧
        i = .vstx d a b k w x ∧ place = fun e => ⟨h.rd a + BitVec.ofNat 64 (idx e), 0⟩) ∨
      (n = f.toNat + 1 ∧ 8 ≤ t.w ∧ i = .vstseg d a k w f ∧ place = fun m => placeAt (h.rd a) (m * t.w))) →
    let act (q m : Nat) : Bool := decide (m / n < q) && h.isActive k (m / n)
    let bit (m j : Nat) := spot (at_ m) (place m) j
    let value (m : Nat) : Nat := let r := source m
      (h.ty r).stored (h.elem r.toNat (h.grp r) (h.ty r).w (m / n))
    let reached (q : Nat) : Prop := ∀ m, act q m = true → s.reach .write t.w (place m) = .ok (at_ m) ∧
      ((at_ m).map (fun p => p.pa)).Nodup ∧ ∀ j < t.w, (bit m j).1 < barBase
    let stored (q : Nat) (u : State) : Prop :=
      (∀ m j, act q m = true → j < t.w → (∀ m', m < m' → act q m' = true → ∀ j' < t.w, bit m' j' ≠ bit m j) →
        u.seesBit 1 (bit m j) = (value m).testBit j) ∧
      (∀ y < barBase, ∀ j < 8, (∀ m j', act q m = true → j' < t.w → bit m j' ≠ (y, j)) →
        u.seesBit 1 (y, j) = s.seesBit 1 (y, j))
    (reached h.vl → ∃ u, exec i s = .next u ∧ s.AfterStore u id ∧ stored h.vl u) ∧
    (∀ q j flt, h.isActive k q = true → j < n → reached q → (∀ j' < j, ∃ l, s.reach .write t.w (place (q * n + j')) = .ok l) →
      s.reach .write t.w (place (q * n + j)) = .error flt →
      ∃ u, exec i s = .next (u.faults (h.elemTrap t.w (h.activeList k) q flt)) ∧ s.AtStore u id ∧ stored q u)

/-- Vector atomics: element by element in ascending order, each active element of vd receives what memory held at s[a] + its
index, and memory takes the operation's result on that and the element; `mem e` is memory before element e. What is not
addressed keeps its value, vd is empty until it lands, and FLAGS gains the operations' flags. On integer types the result is
the sum modulo 2^w, the lesser or the greater by the type's order, or the element itself (R183, R184, R185).

Where an active element fails a check, the elements below it have performed and no other; the exception records its index,
its address, the counters, and the map of the elements performed, so that none performs twice (R25, R163, R185, R262, R263).
In a deterministic region an atomic on a floating-point type is illegal (R28, R94, R183). -/
def Obligations.VectorAtomics : Prop :=
  ∀ (s : State) (op : VAmo) (i : Instr) (d a b : Reg) (k sc : BitVec 3) (x : BitVec 1), s.MemInv → let h := s.hart
    let t := h.ty d
    let g := h.grp d
    let n := t.w / 8
    let addr (e : Nat) : Word := h.rd a + BitVec.ofNat 64 (h.elem b.toNat (h.grp b) (h.ty b).w e)
    let opnd := h.elem d.toNat g t.w
    (op, i) ∈ [(VAmo.add, Instr.vamoAdd d a b k x sc), (.min, .vamoMin d a b k x sc), (.max, .vamoMax d a b k x sc),
      (.swap, .vamoSwap d a b k x sc)] →
    (h.info.det = true → isFloatTag t.tag = true → exec i s = s.illegal) ∧
    (h.Plain → op.accepts t = true → h.opOk d h.vl = true → h.opOk b h.vl = true → isIndexTy (h.ty b) = true →
    (h.info.det = true → isFloatTag t.tag = false) → h.usable d.toNat g → h.usable b.toNat (h.grp b) →
    (h.vl = 0 → exec i s = .next (s.atPc (h.pc + 4))) ∧
    (0 < h.vl → ∀ pa : Nat → Nat,
      (∀ e, h.isActive k e = true → (∃ attr, s.amoReach op t (addr e) = .ok ⟨pa e, attr⟩) ∧ pa e + n ≤ barBase) →
      ∃ (u : State) (h' : Hart) (mem : Nat → List Host.Cell),
        let old (e : Nat) := memRead (mem e) (pa e) n
        let new (e : Nat) := op.apply t h.rmode.toNat (old e) (opnd e)
        exec i s = .next u ∧ s.AfterStore u (fun _ => h') ∧
        h' = { h with vregs := h'.vregs, pend := h.pend ++ [⟨members d.toNat g, s.loadLat⟩], flags := h'.flags } ∧
        mem 0 = (if h.activeList k = [] then s else s.drain (fun j => j == 1)).mem ∧
        (∀ e < h.vl, mem (e + 1) = if h.isActive k e then memStore (mem e) (pa e) (natLe n (new e).1) else mem e) ∧
        u.mem = mem h.vl ∧
        h'.flags = h.flags ||| BitVec.ofNat 64 (orAll ((h.activeList k).map (fun e => (new e).2))) ∧
        GroupWritten h h' d.toNat g t.w (fun c => c &&& 0xFFF7FFFF) (h.isActive k) old) ∧
    (∀ (q : Nat) (f : Flt) (pa : Nat → Nat), h.isActive k q = true → s.amoReach op t (addr q) = .error f →
      (f.cause = cMachine → ∀ x ∈ h.wbuf, x.stream ≠ 1) →
      (∀ e < q, h.isActive k e = true → (∃ attr, s.amoReach op t (addr e) = .ok ⟨pa e, attr⟩) ∧ pa e + n ≤ barBase) →
      ∃ (u : State) (h' : Hart) (mem : Nat → List Host.Cell) (done : BitVec 8192),
        let old (e : Nat) := memRead (mem e) (pa e) n
        let new (e : Nat) := op.apply t h.rmode.toNat (old e) (opnd e)
        let below := (h.activeList k).filter (fun e => decide (e < q))
        exec i s = .next (u.faults { h.elemTrap t.w (h.activeList k) q f with performed := done }) ∧
        s.AtStore u (fun _ => h') ∧ h' = { h with vregs := h'.vregs, flags := h'.flags } ∧
        (∀ e < 8192, done.getLsbD e = decide (e ∈ below)) ∧
        mem 0 = (if below = [] then s else s.drain (fun j => j == 1)).mem ∧
        (∀ e < q, mem (e + 1) = if h.isActive k e then memStore (mem e) (pa e) (natLe n (new e).1) else mem e) ∧
        u.mem = mem q ∧ h'.flags = h.flags ||| BitVec.ofNat 64 (orAll (below.map (fun e => (new e).2))) ∧
        GroupWritten h h' d.toNat g t.w id (fun e => decide (e < q) && h.isActive k e) old) ∧
    (t.isInt = true → ∀ m y z, y < 2 ^ t.w → z < 2 ^ t.w →
      VAmo.add.apply t m y z = ((y + z) % 2 ^ t.w, 0) ∧ VAmo.swap.apply t m y z = (z, 0) ∧
      VAmo.min.apply t m y z = (if t.int y < t.int z then y else z, 0) ∧
      VAmo.max.apply t m y z = (if t.int y < t.int z then z else y, 0)))

/-- `accw` opens a closed window w over CNT elements at s[a] by the descriptor s[b]: every partial at the identity, 0 for
integers, −0 for floating types and +0 under RDN. `vacc` adds each active element of va to the partial of its lane and of the
index in vb, in ascending order; an index that is no element contributes nothing and is invalid; FLAGS gains the flags of each
addition. The other windows and all else keep their values (R186, R187, R188).

`accm` and `accx` fold the window into memory, element by element in ascending order, each word receiving its old value
plus the partials of every lane, and FLAGS gains the flags of these sums; the partials return to the identity and, for `accx`,
the window is closed. What is not folded keeps its value (R189). They do so whatever VL is, VL = 0 included, by log entry 76
(beside R56).

Where an element's word fails a check, the elements below it are folded and their partials at the identity, the others keep
theirs, the window stays open, and the exception records the element as FIDX (R25, R163, R189, R262). That every counter records it
too is the model's choice (log entry 107). -/
def Obligations.AccumulationWindows : Prop :=
 (∀ (s : State) (d a b : Reg) (k : BitVec 3) (w x : BitVec 1), let h := s.hart
    let n := d.toNat
    let win := h.window n
    let t := h.ty a
    (∀ ty : Ty, let c := (h.rd b).toNat % 2 ^ 32
      let ident : Nat := if ty.tag < 15 ∨ h.rmode = 3 then 0 else 2 ^ (ty.w - 1)
      n < 4 → win.opened = false → ty.tag ∈ [3, 4, 7, 8, 15, 16] → (h.rd b).toNat = c + ty.tag * 2 ^ 32 → 1 ≤ c → c ≤ 1024 →
      (h.rd a).toNat % (ty.w / 8) = 0 → let opn : Window :=
        { opened := true, base := h.rd a, desc := h.rd b, parts := List.replicate (8 * h.w * c) (BitVec.ofNat 64 ident) }
      exec (.accw d a b) s = .next (s.setHart ((h.setWindow n opn).advance 4))) ∧
    (h.Plain → n < 4 → win.opened = true → win.parts.length = 8 * h.w * win.cnt → t = win.ty → isIndexTy (h.ty b) = true →
      h.opOk a h.vl = true → h.opOk b h.vl = true → h.usable a.toNat (h.grp a) → h.usable b.toNat (h.grp b) →
      let val := h.elem a.toNat (h.grp a) t.w
      let idx := h.elem b.toNat (h.grp b) (h.ty b).w
      ∃ h' fl, exec (.vacc d a b k w x) s = .next (s.setHart h') ∧
        h' = { h with windows := h'.windows, flags := h.flags ||| BitVec.ofNat 64 fl, pc := h.pc + 4 } ∧
        (∀ m < 4, m ≠ n → h'.window m = h.window m) ∧ h'.window n = { win with parts := (h'.window n).parts } ∧
        (h'.window n).parts.length = win.parts.length ∧
        (∀ l < 8 * h.w, ∀ j < win.cnt, (h'.window n).parts.getD (l * win.cnt + j) 0 =
          ((h.activeList k).filter (fun e => decide (e % (8 * h.w) = l) && decide (idx e = j))).foldl
            (fun p e => (accumulate t h.rmode.toNat p (val e)).1) (win.parts.getD (l * win.cnt + j) 0)) ∧
        (let before (e : Nat) : BitVec 64 := ((h.activeList k).filter (fun x => decide (x < e) &&
            decide (x % (8 * h.w) = e % (8 * h.w)) && decide (idx x = idx e))).foldl
          (fun p x => (accumulate t h.rmode.toNat p (val x)).1) (win.parts.getD (e % (8 * h.w) * win.cnt + idx e) 0)
        fl = orAll ((h.activeList k).map (fun e =>
          if idx e < win.cnt then (accumulate t h.rmode.toNat (before e) (val e)).2 else fINVALID))) ∧
        (t.isInt = true → fl = if (h.activeList k).any (fun e => decide (win.cnt ≤ idx e)) then fINVALID else 0))) ∧
 (∀ (s : State) (d : Reg) (close : Bool), s.MemInv → let h := s.hart
    let n := d.toNat
    let win := h.window n
    let t := win.ty
    let lanes := 8 * h.w
    let ident : Nat := if t.tag < 15 ∨ h.rmode = 3 then 0 else 2 ^ (t.w - 1)
    h.Plain → n < 4 → win.opened = true → t.tag ∈ [3, 4, 7, 8, 15, 16] → 0 < win.cnt →
    win.parts.length = lanes * win.cnt → ∀ pa : Nat → Nat,
    let reached (q : Nat) : Prop := ∀ j < q, (∃ attr, s.accessRmw h (t.w / 8) (win.base + BitVec.ofNat 64 (j * (t.w / 8))) =
      .ok ⟨pa j, attr⟩) ∧ pa j + t.w / 8 ≤ barBase
    let word (mem : Nat → List Host.Cell) (j : Nat) :=
      foldWord t h.rmode.toNat win.cnt j (memRead (mem j) (pa j) (t.w / 8)) win.parts lanes
    (∀ q < win.cnt, ∀ f, reached q → s.accessRmw h (t.w / 8) (win.base + BitVec.ofNat 64 (q * (t.w / 8))) = .error f →
      (f.cause = cMachine → ∀ x ∈ h.wbuf, x.stream ≠ 1) →
      ∃ (u : State) (h' : Hart) (mem : Nat → List Host.Cell), exec (if close then .accx d else .accm d) s = .next (u.faults
          { h.elemTrap t.w [] q f with ctr := List.replicate 8 (BitVec.ofNat 16 q) }) ∧
        s.AtStore u (fun _ => h') ∧ h' = { h with windows := h'.windows, flags := h'.flags } ∧
        mem 0 = (if q = 0 then s else s.drain (fun k => k == 1)).mem ∧ u.mem = mem q ∧
        (∀ j < q, mem (j + 1) = memStore (mem j) (pa j) (natLe (t.w / 8) (word mem j).1)) ∧
        (∀ m < 4, m ≠ n → h'.window m = h.window m) ∧ h'.window n = { win with parts := (h'.window n).parts } ∧
        (∀ l < lanes, ∀ j < win.cnt, (h'.window n).parts.getD (l * win.cnt + j) 0 =
          if j < q then BitVec.ofNat 64 ident else win.parts.getD (l * win.cnt + j) 0) ∧
        h'.flags = h.flags ||| BitVec.ofNat 64 (orAll ((List.range q).map (fun j => (word mem j).2)))) ∧
    (reached win.cnt →
    ∃ (u : State) (h' : Hart) (mem : Nat → List Host.Cell), exec (if close then .accx d else .accm d) s = .next u ∧
      s.AfterStore u (fun _ => h') ∧ h' = { h with windows := h'.windows, flags := h'.flags } ∧
      mem 0 = (s.drain (fun k => k == 1)).mem ∧ u.mem = mem win.cnt ∧
      (∀ j < win.cnt, mem (j + 1) = memStore (mem j) (pa j) (natLe (t.w / 8) (word mem j).1)) ∧
      (∀ m < 4, m ≠ n → h'.window m = h.window m) ∧
      h'.window n = { win with opened := !close
                               parts := if close then [] else List.replicate (lanes * win.cnt) (BitVec.ofNat 64 ident) } ∧
      h'.flags = h.flags ||| BitVec.ofNat 64 (orAll ((List.range win.cnt).map (fun j => (word mem j).2))) ∧
      (t.isInt = true → h'.flags = h.flags ∧ ∀ m j y, y < 2 ^ t.w → foldWord t m win.cnt j y win.parts lanes =
        ((y + ((List.range lanes).map (fun l => (win.parts.getD (l * win.cnt + j) 0).toNat % 2 ^ t.w)).sum) % 2 ^ t.w, 0))))

/-- `vxlat`: each active position whose block is mapped gives the physical address of its token slot; vd keeps the others,
and below VL m0 marks exactly the active positions whose block is unmapped. `vxlat.ff` stops at the first such position q:
nothing from q upward is written, and m0 marks q and every element above it. vd is empty until it lands; nothing else changes
(R191, R192). -/
def Obligations.PositionTranslation : Prop :=
  ∀ (s : State) (d a b : Reg) (k : BitVec 3) (w : BitVec 1) (entry : Nat → Entry), let h := s.hart
    let t := h.ty d
    let g := h.grp d
    let pos := h.elem a.toNat (h.grp a) (h.ty a).w
    let read (e : Nat) : Prop := s.readEntry 1 (h.rd b + BitVec.ofNat 64 (16 * (pos e / 16))) = .ok (entry e)
    let after (i : Instr) (act marked : Nat → Bool) : Prop := ∃ h', exec i s = .next (s.setHart h') ∧
      h' = { h with vregs := h'.vregs, masks := h'.masks, pend := h.pend ++ [⟨members d.toNat g, s.loadLat⟩], pc := h.pc + 4 } ∧
      GroupWritten h h' d.toNat g t.w (fun c => c &&& 0xFFF7FFFF) act
        (fun e => (entry e).frame * 2 ^ 18 + pos e % 16 * 2 ^ 14) ∧
      (∀ e < 8192, (h'.mask 0).getLsbD e = if e < h.vl then marked e else (h.mask 0).getLsbD e) ∧
      ∀ j < 8, j ≠ 0 → h'.mask j = h.mask j
    h.Plain → t.tag = 8 → ((h.ty a).tag = 7 ∨ (h.ty a).tag = 8) → h.opOk d h.vl = true → h.opOk a h.vl = true →
    h.usable d.toNat g → h.usable a.toNat (h.grp a) →
    (h.vl = 0 → ∀ i ∈ [Instr.vxlat d a b k w, .vxlatFf d a b k w], exec i s = .next (s.atPc (h.pc + 4))) ∧
    (0 < h.vl → (∀ e, h.isActive k e = true → read e) →
      after (.vxlat d a b k w) (fun e => h.isActive k e && (entry e).mapped) (fun e => h.isActive k e && !(entry e).mapped)) ∧
    (0 < h.vl → ∀ q, (q = h.vl ∨ h.isActive k q = true ∧ read q ∧ (entry q).mapped = false) →
      (∀ e < q, h.isActive k e = true → read e ∧ (entry e).mapped = true) →
      after (.vxlatFf d a b k w) (fun e => decide (e < q) && h.isActive k e) (fun e => decide (q ≤ e)))

/-- `sspec` and `bind` load a generator with the record of 64 bytes at s[a], nothing of it consumed; `unbind`, and a `bind` of
a register already bound, end the stream first: its writes have performed, and the register is full of zeros. `sdrain`
has every write of the stream perform. Fields outside their ranges, a generator in use (`sspec`) and a record with a reserved
or out-of-range value are illegal, an element below 8 bits is a type mismatch (R174 to R177, R180).

A register bound to a read stream of memory supplies to an instruction the elements of its pattern from its position on,
one for each index below VL and zero past the end, and the position moves on by VL; while fewer have been read ahead the
instruction waits with cause 3, or with its trap bit set raises an empty-source fault (R174, R178, R179). Said of `vmov`. That
an element has the value memory holds when the instruction takes it, though R178 lets the generator read ahead, is the model's
choice (log entry 25). -/
def Obligations.StreamBindings : Prop :=
 (∀ (s : State) (n a : Reg) (r : Nat), let h := s.hart
    let gen (r : Nat) (bound : Bool) : Gen :=
      { loaded := true, bound := bound, record := BitVec.ofNat 512 r, pos := 0, ahead := 0 }
    let i := n.toNat - 24
    let ended (h : Hart) : Hart := if h.isBound n.toNat then
      ((h.setGen i { h.gen i with loaded := false, bound := false, ahead := 0 }).setV n.toNat
        { cfg := (h.v n.toNat).cfg ||| 0x00080000, data := 0 }) else h
    let released (t : State) : Prop := if h.isBound n.toNat
      then t.mem = (s.drain (fun k => k == i + 2)).mem ∧ t.hart.wbuf = h.wbuf.filter (fun w => w.stream != i + 2)
      else t.mem = s.mem ∧ t.hart.wbuf = h.wbuf
    (∀ va m x, s.readRecord va m = .ok x → va.toNat % (8 * m) = 0 ∧ ∀ j < m, ∃ p,
      s.access h .read 8 (va + BitVec.ofNat 64 (8 * j)) = .ok p ∧ dw x j = s.load h 0 false p.pa 8) ∧
    (n.toNat < 2 ∨ 9 < n.toNat ∨ (h.gen (n.toNat - 2)).bound = true → exec (.sspec n a) s = s.illegal) ∧
    (2 ≤ n.toNat → n.toNat ≤ 9 → (h.gen (n.toNat - 2)).bound = false → s.readRecord (h.rd a) 8 = .ok r →
      exec (.sspec n a) s = if streamRecOk r then .next (s.setHart ((h.setGen (n.toNat - 2) (gen r false)).advance 4))
        else s.illegal) ∧
    (9 < n.toNat → exec (.sdrain n) s = s.illegal) ∧
    (n.toNat ≤ 9 → ∃ t : State, exec (.sdrain n) s = .next t ∧ s.AfterStore t id ∧
      t.hart.wbuf = h.wbuf.filter (fun w => w.stream != n.toNat) ∧ t.mem = (s.drain (fun k => k == n.toNat)).mem) ∧
    (n.toNat < 24 → exec (.bind n a) s = s.illegal ∧ exec (.unbind n) s = s.illegal) ∧
    (h.lane = none → 24 ≤ n.toNat →
      ((h.ty n).w < 8 → exec (.bind n a) s = s.fault cType 0) ∧
      (8 ≤ (h.ty n).w → (h.isBound n.toNat = true ∨ cfgFull (h.v n.toNat).cfg = true) → s.readRecord (h.rd a) 8 = .ok r →
        (streamRecOk r = false → exec (.bind n a) s = s.illegal) ∧
        (streamRecOk r = true → ∃ t : State, exec (.bind n a) s = .next t ∧
          s.AfterStore t (fun h => (ended h).setGen i (gen r true)) ∧ released t)) ∧
      ∃ t : State, exec (.unbind n) s = .next t ∧ s.AfterStore t ended ∧ released t)) ∧
 (∀ (s : State) (d a : Reg) (k : BitVec 3) (w : BitVec 1), let h := s.hart
    let t := h.ty a
    let g := h.grp a
    let i := a.toNat - 24
    let gen := h.gen i
    let p := gen.pat
    h.Plain → 0 < h.vl → t.cls ≠ .untagged → 24 ≤ a.toNat → gen.bound = true → gen.isWrite = false → p.mode = 0 →
    p.space = 0 → h.opOk a h.vl = true → h.resOk d t g h.vl = true → h.usable d.toNat g →
    let supplied := min h.vl (p.total - gen.pos)
    (gen.ahead < supplied → w = 1 → exec (.vmov d a k w) s = s.fault cEmpty 0) ∧
    (gen.ahead < supplied → w = 0 → ∃ watch, exec (.vmov d a k w) s = .next (s.setHart { h with
      st := .waiting .stream, watch := watch }) ∧ watch.gen = i ∧ watch.need = h.vl) ∧
    (supplied ≤ gen.ahead → ∀ val : Nat → Nat,
      (∀ e < supplied, ∃ q, s.access h .read (t.w / 8) (BitVec.ofInt 64 (p.base +
        strideSum (fun _ => true) (nestIndex p.counts (gen.pos + e)) p.strides)) = .ok q ∧
        val e = s.load h (i + 2) false q.pa (t.w / 8)) →
      ∃ h', exec (.vmov d a k w) s = .next (s.setHart h') ∧ h' = { h with vregs := h'.vregs, gens := h'.gens, pc := h.pc + 4 } ∧
        GroupWritten h h' d.toNat g t.w (resultCfg (h.v a.toNat).cfg) (h.isActive k)
          (fun e => t.stored (if e < supplied then val e else 0)) ∧
        h'.gen i = { gen with pos := gen.pos + h.vl, ahead := gen.ahead - h.vl } ∧ ∀ j < 8, j ≠ i → h'.gen j = h.gen j))

/-- `wait` reads the word at s[a]: while it equals s[b] and no write has reached it since the hart began to wait, the hart waits
with cause 2; else s[d] receives the word, zero-extended. It is illegal in a transaction. `vfull` and `vempty` give 1 or 0 by
whether every member of the group is full, and wait for landing in a deterministic region (R181, R182, R323); that on an operand
which fails R119's checks they are illegal is the model's reading (log entry 68). -/
def Obligations.WaitingAndTesting : Prop :=
  ∀ (s : State) (d a b : Reg) (z : BitVec 2) (sc : BitVec 3), let h := s.hart
    let n := 2 ^ z.toNat
    (h.inTx = true → exec (.wait d a b z sc) s = s.illegal) ∧
    (h.inTx = false → ∀ q, s.access h .read n (h.rd a) = .ok q → let v := s.load h 0 false q.pa n
      let woken := h.watch.hit && h.watch.addr == q.pa && h.watch.len == n
      (v ≠ (h.rd b).toNat % 2 ^ (8 * n) ∨ woken = true → exec (.wait d a b z sc) s =
        .next (s.setHart { h.wr d (BitVec.ofNat 64 v) with pc := h.pc + 4, watch := Watch.none })) ∧
      (h.lane = none → v = (h.rd b).toNat % 2 ^ (8 * n) → woken = false → ∃ watch, exec (.wait d a b z sc) s =
        .next (s.setHart { h with st := .waiting .address, watch := watch, taken := [], walked := [], limit := none }) ∧
        watch.addr = q.pa ∧ watch.len = n ∧ watch.hit = false)) ∧
    (h.opOk a h.vl = false → exec (.vfull d a) s = s.illegal ∧ exec (.vempty d a) s = s.illegal) ∧
    (h.opOk a h.vl = true → let full := (members a.toNat (h.grp a)).all (fun r => cfgFull (h.v r).cfg)
      (h.info.det = false → exec (.vfull d a) s = .next (s.wrote d (if full then 1 else 0)) ∧
        exec (.vempty d a) s = .next (s.wrote d (if full then 0 else 1))) ∧
      (h.info.det = true → exec (.vfull d a) s = .next (s.setHart ((h.landAll.wr d 1).advance 4)) ∧
        exec (.vempty d a) s = .next (s.setHart ((h.landAll.wr d 0).advance 4))))

/-- `vfetch` opens a section: one lane for each active element, in ascending order, running from s[a]; the lowest has s[b] in its
queue, or the tail has it where there is no lane; the values in force are kept. In a lane's turn `lfetch` ends the block, an
active lane going on at va[e] and another stopping, and `lstop` stops it; outside a lane both are illegal (the model's reading,
log entry 22). A block address that is not aligned is a misaligned access (R232, R234, R236 to R238).

`vjoin` gives its turn away while a lane has not stopped. Then the lanes' held stores perform in S1, lane by lane in ascending
order and each in program order, after the earlier writes of S1; every register is full, the section is closed, and s[d] receives
the value at the tail of the queue, or 0. Without a section it is illegal (R209, R236, R239). -/
def Obligations.LanesOfBlocks : Prop :=
 (∀ (s : State) (a b : Reg) (k : BitVec 3) (w : BitVec 1), let h := s.hart
    let fresh (e : Nat) (pc : Word) (inbox : List Word) : Lane :=
      { idx := e, pc := pc, st := .running, words := 0, inbox := inbox, held := [], rounds := 0, cause := 0, detail := 0
        fel := false, faddr := 0 }
    let stop (e : Nat) : Hart := { h with sect := h.sect.map (fun q => { q with
      lanes := q.lanes.map (fun l => if l.idx = e then { l with st := .stopped, words := 0 } else l) }) }
    let goOn (e : Nat) : Hart := { h with sect := h.sect.map (fun q => { q with
      lanes := q.lanes.map (fun l => if l.idx = e then { l with words := 0 } else l) }) }
    (h.sect.isSome ∨ h.lane.isSome → exec (.vfetch a b k) s = s.illegal) ∧
    (h.sect = none → h.lane = none → (h.rd a).toNat % 4 ≠ 0 → exec (.vfetch a b k) s = s.faultAt ⟨cAlign, 0, h.rd a⟩) ∧
    (h.sect = none → h.lane = none → (h.rd a).toNat % 4 = 0 → ∃ q : Section,
      exec (.vfetch a b k) s = .next (s.setHart { h with sect := some q, pc := h.pc + 4 }) ∧ q.sregs = h.sregs ∧
      q.vl = h.vl ∧ q.rmode = h.rmode ∧ q.rotn = h.rotn ∧ q.seed = h.seed ∧
      (h.activeList k = [] → q.lanes = [] ∧ q.tail = some (h.rd b)) ∧
      (∀ e es, h.activeList k = e :: es → q.tail = none ∧
        q.lanes = fresh e (h.rd a) [h.rd b] :: es.map (fun x => fresh x (h.rd a) []))) ∧
    (h.lane = none → exec (.lfetch a k w) s = s.illegal ∧ exec .lstop s = s.illegal) ∧
    (∀ e, h.lane = some e → exec .lstop s = .next (s.setHart { stop e with pc := h.pc + 4 }) ∧
      (h.limit = none → h.walked = [] → h.counted = [] → (h.ty a).tag = 8 → h.opOk a (e + 1) = true →
        (a = 31 ∨ h.usable a.toNat (h.grp a)) → let there := BitVec.ofNat 64 (h.elems a e)
        (h.sel k e = false → ∃ l, exec (.lfetch a k w) s = .next (s.setHart { stop e with pc := h.pc + 4, taken := l })) ∧
        (h.sel k e = true → there.toNat % 4 = 0 → ∃ l,
          exec (.lfetch a k w) s = .next (s.setHart { goOn e with pc := there, taken := l }))))) ∧
 (∀ (s : State) (d : Reg), s.MemInv → let h := s.hart
    (h.sect = none → exec (.vjoin d) s = s.illegal) ∧
    (∀ q, h.sect = some q → h.lane = none →
      ((∃ l ∈ q.lanes, l.st ≠ .stopped) → exec (.vjoin d) s = .next s) ∧
      ((∀ l ∈ q.lanes, l.st = .stopped) → ∀ pa : LaneStore → Nat,
        (∀ l ∈ q.lanes, ∀ w ∈ l.held, (∃ attr, s.access h .write w.size w.va = .ok ⟨pa w, attr⟩) ∧
          pa w + w.size ≤ barBase) →
        ∃ u, exec (.vjoin d) s = .next u ∧
          s.AfterStore u (fun h => { h.landAll with sect := none }.wr d (q.tail.getD 0)) ∧
          u.hart.wbuf = h.wbuf.filter (fun w => w.stream != 1) ∧
          u.mem = (q.lanes.flatMap (fun l => l.held)).foldl
            (fun m w => memStore m (pa w) (natLe w.size w.value.toNat)) (s.drain (fun k => k == 1)).mem)))

/-! ## Sampling and matrices -/

/-- `tmask` writes each bit of md below VL with whether token s[b] + e is allowed by the context at s[a], masked-off elements with
0; a malformed context gives zeros and INVALID; the other bits, the other masks and all else keep their values. A token is allowed
by its bit in the mask of the state or in that of the conditioned row's entry, and never from NTOK upward. Both grammar
instructions are illegal in a transaction (R285, R287, R323).

`tadv`: an advance that is refused leaves all but s[d] and the PC, s[d] receiving its code, 1 to 5; an accepted one gives 0
and writes the pushed symbol, the context's state and depth and its count of advances, after the earlier writes of S1. `srand`
writes the sampling target of R293 (R286, R288, R293).

A context is malformed by its state, depth or top symbol, or by a mask or row that its state's entry or the conditioned row
names beyond the image's; else its masks are that of the state and, where the row has an entry for the top symbol, that one (R285,
R287). An advance comes to code 5 for a malformed context, 4 for no token, 1 for one not allowed, 5 for a class, state or symbol
beyond the image's, 2 for a pop of nothing, 3 for a push beyond 1,024, checked in this order; else it pops, then pushes (R288). -/
def Obligations.GrammarEngine : Prop :=
 (∀ (s : State) (d : BitVec 3) (sd a b : Reg) (k : BitVec 3), let h := s.hart
    let masked (f : Nat → Bool) (flags : Word) (h' : Hart) : Prop :=
      exec (.tmask d a b k) s = .next (s.setHart h') ∧ h' = { h with masks := h'.masks, flags := flags, pc := h.pc + 4 } ∧
      (∀ e < 8192, (h'.mask d.toNat).getLsbD e = if e < h.vl then f e else (h.mask d.toNat).getLsbD e) ∧
      ∀ j < 8, j ≠ d.toNat → h'.mask j = h.mask j
    (h.inTx = true → exec (.tmask d a b k) s = s.illegal ∧ exec (.tadv sd a b) s = s.illegal) ∧
    (h.inTx = false → h.vl = 0 → exec (.tmask d a b k) s = .next (s.atPc (h.pc + 4))) ∧
    (h.inTx = false → 0 < h.vl → ∀ c, s.readContext (h.rd a) = .ok c →
      (s.contextMasks c = .ok none → ∃ h', masked (fun _ => false) (h.flags ||| BitVec.ofNat 64 fINVALID) h') ∧
      (∀ (m : Nat × Option Nat) (ok : Nat → Bool), s.contextMasks c = .ok (some m) →
        (∀ e < h.vl, h.sel k e = true → s.allowed c.gram m ((h.rd b).toNat + e) = .ok (ok e)) →
        ∃ h', masked (fun e => h.sel k e && ok e) h.flags h')) ∧
    (∀ g m t, (g.ntok ≤ t → s.allowed g m t = .ok false) ∧ (t < g.ntok → ∀ x y, s.maskBit g m.1 t = .ok x →
      (m.2 = none → s.allowed g m t = .ok x) ∧ (∀ n, m.2 = some n → s.maskBit g n t = .ok y → s.allowed g m t = .ok (x || y))))) ∧
 (∀ (s : State) (d a b : Reg), s.MemInv → let h := s.hart
    let token := (h.rd b).toNat % 2 ^ 24
    (h.inTx = false → ∀ c, s.readContext (h.rd a) = .ok c →
      (∀ code x, s.advanceContext c token = .ok (code, x) → code ≤ 5 ∧ (x.isSome ↔ code = 0)) ∧
      (∀ code, s.advanceContext c token = .ok (code, none) →
        exec (.tadv d a b) s = .next (s.wrote d (BitVec.ofNat 64 code))) ∧
      (∀ code next depth push p q, s.advanceContext c token = .ok (code, some (next, depth, push)) →
        s.access h .write 8 (h.rd a + 8) = .ok p → s.access h .write 8 (h.rd a + 24) = .ok q → p.pa + 8 ≤ barBase →
        q.pa + 8 ≤ barBase → ∀ symbol : List (Nat × List Byte),
        (push = none ∧ symbol = [] ∨ ∃ x y r, push = some (x, y) ∧ s.access h .write 1 (BitVec.ofNat 64 x) = .ok r ∧
          r.pa < barBase ∧ symbol = [(r.pa, [BitVec.ofNat 8 y])]) →
        ∃ u, exec (.tadv d a b) s = .next u ∧ s.AfterStore u (fun h => h.wr d 0) ∧
          u.mem = (symbol ++ [(p.pa, natLe 8 (c.d1 / 2 ^ 43 * 2 ^ 43 + depth * 2 ^ 32 + next)),
            (q.pa, natLe 8 ((c.nadv + 1) % 2 ^ 64))]).foldl (fun m w => memStore m w.1 w.2)
            (s.drain (fun k => k == 1)).mem)) ∧
    (∀ c, let g := c.gram
      let gives (code : Nat) (x : Option (Nat × Nat × Option (Nat × Nat))) : Prop := s.advanceContext c token = .ok (code, x)
      (g.nst ≤ c.state ∨ 1024 < c.depth → s.contextMasks c = .ok none) ∧
      (c.state < g.nst → c.depth ≤ 1024 → ∀ top q,
        (c.depth = 0 ∧ top = 63 ∨ 0 < c.depth ∧ s.engineRead 1 (c.stk + c.depth - 1) = .ok top) →
        s.engineRead 8 (g.stt + 8 * c.state) = .ok q → let base := q % 2 ^ 32; let row := q / 2 ^ 32 % 2 ^ 32
        let bad : Prop := 63 < top ∨ top < 63 ∧ g.nsym ≤ top ∨ g.nmsk ≤ base ∨ row ≠ 0xFFFFFFFF ∧ g.nrow ≤ row
        (bad → s.contextMasks c = .ok none) ∧
        (¬bad → (row = 0xFFFFFFFF → s.contextMasks c = .ok (some (base, none))) ∧
          (row ≠ 0xFFFFFFFF → ∀ e, s.engineRead 4 (g.cnd + 256 * row + 4 * top) = .ok e → s.contextMasks c = .ok
            (if e = 0xFFFFFFFF then some (base, none) else if g.nmsk ≤ e then none else some (base, some e))))) ∧
      (s.contextMasks c = .ok none → gives 5 none) ∧
      (∀ m, s.contextMasks c = .ok (some m) → (token = 0xFFFFFF ∨ g.ntok ≤ token → gives 4 none) ∧
        (token ≠ 0xFFFFFF → token < g.ntok → (s.allowed g m token = .ok false → gives 1 none) ∧
          (s.allowed g m token = .ok true → ∀ cl x, s.engineRead 2 (g.cls + 2 * token) = .ok cl →
            s.engineRead 8 (g.trn + 8 * (c.state * g.ncls + cl)) = .ok x →
            let next := x % 2 ^ 32; let act := x / 2 ^ 32 % 4; let sym := x / 2 ^ 34 % 64
            let bad : Prop := g.ncls ≤ cl ∨ g.nst ≤ next ∨ (act = 1 ∨ act = 3) ∧ g.nsym ≤ sym
            (bad → gives 5 none) ∧
            (¬bad → (2 ≤ act → c.depth = 0 → gives 2 none) ∧ (act = 1 → c.depth = 1024 → gives 3 none) ∧
              (act = 0 → gives 0 (some (next, c.depth, none))) ∧
              (act = 1 → c.depth ≠ 1024 → gives 0 (some (next, c.depth + 1, some (c.stk + c.depth, sym)))) ∧
              (act = 2 → c.depth ≠ 0 → gives 0 (some (next, c.depth - 1, none))) ∧
              (act = 3 → c.depth ≠ 0 → gives 0 (some (next, c.depth, some (c.stk + c.depth - 1, sym))))))))) ∧
    (let q := (h.rd a).toNat
      let total := (h.rd b).toNat
      (total = 0 → exec (.srand d a b) s = .next (s.setHart { h.wr d (BitVec.allOnes 64) with
        flags := h.flags ||| BitVec.ofNat 64 fNOLEGAL, pc := h.pc + 4 })) ∧
      (total ≠ 0 → (h.rd a).getLsbD 30 = true → exec (.srand d a b) s = .next (s.wrote d 0)) ∧
      (total ≠ 0 → (h.rd a).getLsbD 30 = false → exec (.srand d a b) s =
        .next (s.wrote d (BitVec.ofNat 64 (scg h.seed.toNat (q % 2 ^ 30) (q / 2 ^ 32) * total / 2 ^ 64))))))

/-- `smax` puts the largest active element, the first of equals, into element 0 of vd and its index into s[b], passing NaN
elements over and flagging them; with none, −∞ and all ones. `spick` gives the first active element whose running sum exceeds
s[b]; with none, all ones and the reduced target (R290, R294).

`sexp` writes the weight of each active element, as natural numbers of 32 bits, adds their sum into s[b + 1] and their flags
to FLAGS; vd is empty until they land; nothing else changes. An odd b, b = 0 and a length above 8 × W are illegal (R291, R292).
That a maximum or a temperature out of its range raises INVALID only through an active element is log entry 60.

A weight: zero and INVALID for a maximum or a temperature that is no finite value from −0 up, or a NaN element; with a zero
temperature all ones at the maximum and zero elsewhere; else, of the exact d = (x − M) / T, all ones and SAT above zero, zero below
−23, and between them exp(d) by the hyperbolic rotation of R292, rounded to nearest. -/
def Obligations.Sampling : Prop :=
 (∀ (s : State) (d a b : Reg) (k : BitVec 3) (w : BitVec 1), let h := s.hart
    let t := h.ty a
    let raw := h.elem a.toNat (h.grp a) t.w
    let cand (e : Nat) : Bool := h.isActive k e && !(t.value (raw e)).isNan
    let sum (n : Nat) : Nat := (((List.range n).filter (h.isActive k)).map raw).sum
    h.Plain → h.opOk a h.vl = true → h.usable a.toNat (h.grp a) →
    (t.tag ∈ [13, 14, 15] → h.usable d.toNat 1 → 0 < h.vl → ∃ h' top i, exec (.smax d a b k w) s = .next (s.setHart h') ∧
      h' = { h.wr b i with vregs := h'.vregs, pc := h.pc + 4, flags := h.flags |||
        (if (h.activeList k).any (fun e => (t.value (raw e)).isNan) then BitVec.ofNat 64 fINVALID else 0) } ∧
      GroupWritten h h' d.toNat 1 t.w (resultCfg (mkCfg t 1)) (fun e => e == 0) (fun _ => top) ∧
      ((∀ e < h.vl, cand e = false) → i = BitVec.allOnes 64 ∧ t.value top = .inf true) ∧
      ((∃ e < h.vl, cand e = true) → ∃ m < h.vl, i = BitVec.ofNat 64 m ∧ cand m = true ∧ top = raw m ∧
        (∀ e < h.vl, cand e = true → (t.value (raw m)).cmp (t.value (raw e)) ≠ -1) ∧
        ∀ e < m, cand e = true → (t.value (raw e)).cmp (t.value (raw m)) = -1)) ∧
    (t.tag = 7 → let goal := (h.rd b).toNat
      (goal = 2 ^ 64 - 1 → exec (.spick d a b k w) s = .next (s.setHart { h.wr d 0xFFFFFF with
        flags := h.flags ||| BitVec.ofNat 64 fNOLEGAL, pc := h.pc + 4 })) ∧
      (goal ≠ 2 ^ 64 - 1 → ∀ e < h.vl, h.isActive k e = true → sum e ≤ goal → goal < sum e + raw e →
        exec (.spick d a b k w) s = .next (s.wrote d (BitVec.ofNat 64 e))) ∧
      (goal ≠ 2 ^ 64 - 1 → sum h.vl ≤ goal → exec (.spick d a b k w) s =
        .next (s.setHart (((h.wr b (BitVec.ofNat 64 (goal - sum h.vl))).wr d (BitVec.allOnes 64)).advance 4))))) ∧
 (∀ (s : State) (d a b : Reg) (k : BitVec 3) (w : BitVec 1), let h := s.hart
    let t := h.ty a
    let g := h.grp a * 32 / t.w
    let one (e : Nat) := sampleWeight (t.value (h.elem a.toNat (h.grp a) t.w e)) ((fmtOf 15).decode ((h.rd b).toNat % 2 ^ 32))
      ((fmtOf 15).decode ((h.rd b).toNat / 2 ^ 32))
    let act := h.activeList k
    (b.toNat % 2 = 1 ∨ b = 0 ∨ 8 * h.w < h.vl → exec (.sexp d a b k w) s = s.illegal) ∧
    (h.Plain → b.toNat % 2 = 0 → b ≠ 0 → h.vl ≤ 8 * h.w → t.tag ∈ [13, 14, 15] → g ≤ 8 → h.opOk a h.vl = true →
      h.resOk d ⟨7, 0⟩ g h.vl = true → h.usable a.toNat (h.grp a) → h.usable d.toNat g →
      (h.vl = 0 → exec (.sexp d a b k w) s = .next (s.atPc (h.pc + 4))) ∧
      (0 < h.vl → ∃ h', exec (.sexp d a b k w) s = .next (s.setHart h') ∧
        h' = { h.wr (b + 1) (h.rd (b + 1) + BitVec.ofNat 64 (act.map (fun e => (one e).1)).sum) with
          vregs := h'.vregs, pend := h.pend ++ [⟨members d.toNat g, s.loadLat⟩], pc := h.pc + 4
          flags := h.flags ||| BitVec.ofNat 64 (orAll (act.map (fun e => (one e).2))) } ∧
        GroupWritten h h' d.toNat g 32 (fun _ => mkCfg ⟨7, 0⟩ g &&& 0xFFF7FFFF) (h.isActive k) (fun e => (one e).1)))) ∧
 (∀ x m t : FVal,
    ((∀ n y e, m ≠ .fin n y e) ∨ (∀ n y e, t ≠ .fin n y e) ∨ (∃ y e, t = .fin true (y + 1) e) → sampleWeight x m t = (0, fINVALID)) ∧
    (∀ nm mm em nt mt et, m = .fin nm mm em → t = .fin nt mt et → (nt = true → mt = 0) →
      (x.isNan = true → sampleWeight x m t = (0, fINVALID)) ∧
      (∀ n, x = .inf n → sampleWeight x m t = if mt = 0 ∨ n = true then (0, 0) else (2 ^ 32 - 1, fSAT)) ∧
      (∀ nx mx ex, x = .fin nx mx ex → ∀ p : Int, p ≤ ex → p ≤ em → p ≤ et →
        let num : Int := (if nx then -1 else 1) * mx * 2 ^ (ex - p).toNat - (if nm then -1 else 1) * mm * 2 ^ (em - p).toNat
        let den := mt * 2 ^ (et - p).toNat
        (mt = 0 → sampleWeight x m t = (if num = 0 then 2 ^ 32 - 1 else 0, 0)) ∧
        (mt ≠ 0 → 0 < num → sampleWeight x m t = (2 ^ 32 - 1, fSAT)) ∧
        (mt ≠ 0 → num < -23 * den → sampleWeight x m t = (0, 0)) ∧
        (mt ≠ 0 → num ≤ 0 → -23 * den ≤ num → ∃ D cx cy q : Int, RoundedTo (num * 2 ^ 44) den D ∧
          let j := (D * 25380159564675 + 2 ^ 87) / 2 ^ 88
          let o := rotRun .hyperbolic false 24 1 { x := 2 ^ 42, y := 0, z := D - j * 12193974156573 }
          RoundedTo (o.x * rotGain .hyperbolic 24) (2 ^ 32) cx ∧ RoundedTo (o.y * rotGain .hyperbolic 24) (2 ^ 32) cy ∧
          j ≤ 0 ∧ RoundedTo (cx + cy) (2 ^ (10 - j).toNat) q ∧ sampleWeight x m t = ((min q (2 ^ 32 - 1)).toNat, 0)))))

/-- `mop` adds to each element [i][j] of the tile that the masks select, for rows below VL / depth, the exact sum of the depth's
products, rounded once to nearest even; other elements, other tiles and all else keep their values, and FLAGS gains the flags of
the elements selected and nothing else: those of each rounding, and INVALID for an invalid product or sum and for a signalling NaN
(R51, R222, R223). `mopx` does so for FP64 elements held in a pair of tiles, its operands rounded to 8 × SLC bits, INEXACT for a
selected element that has an operand so changed (R228).

`mop.s` takes its operands from two scratchpad views, or from tiles through the window, each element at the address its
record gives, its tile enabled; the generators move on by the elements they supply, one that serves both operands by A's and then
B's. The result is that of `mop`, and FLAGS gains the flags of the elements' conversions too; at VL = 0 only the streams move (R56,
R223 to R226). That an element has the value its view holds when the instruction executes is the model's choice (log entry 25).

Where elements cannot be read, the fault of the lowest index, in A where A and B share it, is taken with nothing done (R163; the
count from each operand's own start is the model's choice, log entry 94). -/
def Obligations.OuterProducts : Prop :=
 (∀ (s : State) (t : BitVec 3) (tp : BitVec 2) (a b : Reg) (r c : BitVec 3), let h := s.hart
    let ta := h.ty a
    let tb := h.ty b
    let ea := h.elem a.toNat (h.grp a) ta.w
    let eb := h.elem b.toNat (h.grp b) tb.w
    let chosen (i j : Nat) : Bool := h.sel r i && h.sel c j
    h.Plain → h.trows ≠ 0 → h.opOk a h.vl = true → h.usable a.toNat (h.grp a) → h.usable b.toNat (h.grp b) →
    (∀ n, mopDepth ta tb = some n → h.vl % n = 0 → h.vl / n ≤ h.trows → h.baseOk b.toNat (h.grp b) = true →
      h.fits b.toNat (h.grp b) tb.w (64 * n) = true → (h.tile t.toNat).enabled = true → h.trows ≤ 64 →
      let out (i j : Nat) := dotInto (fun m => h.mopValue ta 6 (i * n + m) (ea (i * n + m)))
        (fun m => h.mopValue tb 7 (j * n + m) (eb (j * n + m))) n 0 ((fmtOf 15).decode ((h.tile t.toNat).at i j))
      let fit (i j : Nat) := (fmtOf 15).fit RNE 0 (out i j).1
      ∃ h', exec (.mop t a b r c) s = .next (s.setHart h') ∧
        h' = { h with tiles := h'.tiles, flags := h'.flags, pc := h.pc + 4 } ∧ (∀ u < 8, u ≠ t.toNat → h'.tile u = h.tile u) ∧
        TileRows (h.tile t.toNat) (h'.tile t.toNat) (h.vl / n)
          (fun i j => if chosen i j then (fit i j).1 else (h.tile t.toNat).at i j) ∧
        h'.flags = h.flags ||| BitVec.ofNat 64 (orAll ((List.range (h.vl / n)).flatMap (fun i =>
          ((List.range 64).filter (chosen i)).map (fun j => (fit i j).2 |||
            if (out i j).2 || ((fmtOf 15).decode ((h.tile t.toNat).at i j)).isSnan then fINVALID else 0))))) ∧
    (let n := cfgSlc (h.v a.toNat).cfg
      let hi := h.tile (2 * tp.toNat)
      let lo := h.tile (2 * tp.toNat + 1)
      ta.tag = 16 → tb.tag = 16 → n = cfgSlc (h.v b.toNat).cfg → 3 ≤ n → h.vl ≤ h.trows → h.trows ≤ 64 →
      h.opOk b h.vl = true → h.fits b.toNat (h.grp b) 64 64 = true → hi.enabled = true → lo.enabled = true →
      let old (i j : Nat) := hi.at i j * 2 ^ 32 + lo.at i j
      let sa (i : Nat) := sigRound (8 * n) (ta.value (ea i))
      let sb (j : Nat) := sigRound (8 * n) (tb.value (eb j))
      let sum (i j : Nat) := dotInto (fun m => (sa (i + m)).1) (fun m => (sb (j + m)).1) 1 0 ((fmtOf 16).decode (old i j))
      let fit (i j : Nat) := (fmtOf 16).fit RNE 0 (sum i j).1
      let new (i j : Nat) : Nat := if chosen i j then (fit i j).1 else old i j
      ∃ h', exec (.mopx tp a b r c) s = .next (s.setHart h') ∧
        h' = { h with tiles := h'.tiles, flags := h'.flags, pc := h.pc + 4 } ∧
        (∀ u < 8, u ≠ 2 * tp.toNat → u ≠ 2 * tp.toNat + 1 → h'.tile u = h.tile u) ∧
        TileRows hi (h'.tile (2 * tp.toNat)) h.vl (fun i j => new i j / 2 ^ 32) ∧
        TileRows lo (h'.tile (2 * tp.toNat + 1)) h.vl (fun i j => new i j % 2 ^ 32) ∧
        h'.flags = h.flags ||| BitVec.ofNat 64 (orAll ((List.range h.vl).flatMap (fun i =>
          ((List.range 64).filter (chosen i)).map (fun j => (fit i j).2 |||
            (if (sum i j).2 || ((fmtOf 16).decode (old i j)).isSnan then fINVALID else 0) |||
            (if (sa i).2 || (sb j).2 then fINEXACT else 0))))))) ∧
 (∀ (s : State) (t : BitVec 3) (a b : Reg) (r c : BitVec 3) (n : Nat), let h := s.hart
    let ta := h.ty a
    let tb := h.ty b
    let ga := h.gen (a.toNat - 2)
    let gb := h.gen (b.toNat - 2)
    let fromB := if a = b then ga.pos + h.vl else gb.pos
    let need := if a = b then h.vl + 64 * n else h.vl
    let elemA (e : Nat) := s.viewElem a.toNat ta ga.pat (ga.pos + e)
    let elemB (e : Nat) := s.viewElem b.toNat tb gb.pat (fromB + e)
    let chosen (i j : Nat) : Bool := h.sel r i && h.sel c j
    let ready (p : StreamRec) (from_ m : Nat) : Prop := p.space = 1 → ∀ e < m, from_ + e < p.total →
      let x := (p.addr (from_ + e)).toNat - 0x400000
      0x400000 ≤ (p.addr (from_ + e)).toNat → x < 0x20000 → x % 0x4000 / 256 < h.trows → (h.tile (x / 0x4000)).enabled = true
    2 ≤ a.toNat → a.toNat ≤ 9 → 2 ≤ b.toNat → b.toNat ≤ 9 → ga.viewOk = true → gb.viewOk = true → mopDepth ta tb = some n →
    h.vl % n = 0 → h.vl / n ≤ h.trows → h.trows ≠ 0 → h.trows ≤ 64 → (h.tile t.toNat).enabled = true →
    ready ga.pat ga.pos h.vl → ready gb.pat fromB (64 * n) →
    min need (ga.pat.total - ga.pos) ≤ ga.ahead → (a ≠ b → min (64 * n) (gb.pat.total - gb.pos) ≤ gb.ahead) →
    (h.vl = 0 → exec (.mopS t a b r c) s = .next (s.setHart ((h.setGen (b.toNat - 2) { gb with
      pos := gb.pos + 64 * n, ahead := gb.ahead - 64 * n }).advance 4))) ∧
    (0 < h.vl → ∀ va vb : Nat → Nat × Nat, (∀ e < h.vl, elemA e = .ok (va e)) → (∀ e < 64 * n, elemB e = .ok (vb e)) →
      let out (i j : Nat) := dotInto (fun m => h.mopValue ta 6 (i * n + m) (va (i * n + m)).1)
        (fun m => h.mopValue tb 7 (j * n + m) (vb (j * n + m)).1) n 0 ((fmtOf 15).decode ((h.tile t.toNat).at i j))
      let fit (i j : Nat) := (fmtOf 15).fit RNE 0 (out i j).1
      ∃ h', exec (.mopS t a b r c) s = .next (s.setHart h') ∧
        h' = { h with tiles := h'.tiles, flags := h'.flags, gens := h'.gens, pc := h.pc + 4 } ∧
        (∀ u < 8, u ≠ t.toNat → h'.tile u = h.tile u) ∧
        TileRows (h.tile t.toNat) (h'.tile t.toNat) (h.vl / n)
          (fun i j => if chosen i j then (fit i j).1 else (h.tile t.toNat).at i j) ∧
        h'.flags = h.flags ||| BitVec.ofNat 64 (orAll ((List.range h.vl).map (fun e => (va e).2)) |||
          orAll ((List.range (64 * n)).map (fun e => (vb e).2)) ||| orAll ((List.range (h.vl / n)).flatMap (fun i =>
            ((List.range 64).filter (chosen i)).map (fun j => (fit i j).2 |||
              if (out i j).2 || ((fmtOf 15).decode ((h.tile t.toNat).at i j)).isSnan then fINVALID else 0)))) ∧
        (a ≠ b → h'.gen (a.toNat - 2) = { ga with pos := ga.pos + h.vl, ahead := ga.ahead - h.vl }) ∧
        h'.gen (b.toNat - 2) = { gb with
          pos := fromB + 64 * n, ahead := gb.ahead - (if a = b then h.vl + 64 * n else 64 * n) } ∧
        ∀ j < 8, j ≠ a.toNat - 2 → j ≠ b.toNat - 2 → h'.gen j = h.gen j) ∧
    (0 < h.vl → h.lane = none → h.walked = [] → ∀ q f,
      (∀ e < q, (e < h.vl → ∃ v, elemA e = .ok v) ∧ (e < 64 * n → ∃ v, elemB e = .ok v)) →
      (q < h.vl ∧ elemA q = .error f ∨ (q < h.vl → ∃ v, elemA q = .ok v) ∧ q < 64 * n ∧ elemB q = .error f) →
      exec (.mopS t a b r c) s = .next (s.faults { h.elemTrap 0 [] q f with ctr := ctrWhole })))

/-- `tattach` gives a hart without rows the largest aligned block of rows that is free of every other hart, within its part and
no larger than asked for (in a deterministic region exactly what it asks for), or none where none is free;
`tdetach` releases it and discards the tiles; `ten` enables a disabled tile with zeros, `tdis` disables one and discards it, and
`tzero` clears an enabled one. Nothing else changes. Without rows `ten` and `tzero` are illegal; `tzero` of a disabled tile is a
tile-state fault (R216, R219, R220, R221).

`tld` and `tst` move the elements [i][j] that the masks select, i below TROWS, between the tile and memory at
s[a] + i × s[b] + 4 j, in ascending order; everything else of the tile, of memory and of the hart keeps its value. A disabled
tile is a tile-state fault (R230).

That the largest block is granted where a table of R216 names a smaller one is log entry 39, and that `tld` and `tst` act whatever
VL is, log entry 76. -/
def Obligations.TilesAndTheirMemory : Prop :=
 (∀ (s : State) (q t : BitVec 3), let h := s.hart
    let tile := h.tile t.toNat
    let put (e : Bool) : Res := .next (s.setHart ((h.setTile t.toNat { enabled := e, data := 0 }).advance 4))
    let onward : Res := .next (s.atPc (h.pc + 4))
    (h.trows ≠ 0 ∨ q = 0 ∨ 3 < q.toNat → exec (.tattach q) s = s.illegal) ∧
    (h.trows = 0 → 1 ≤ q.toNat → q.toNat ≤ 3 →
      let p := s.lpart h.core
      let win : Nat × Nat := if partEn p = false then (0, 64) else if h.ctx = partHA p then (0, 32)
        else if h.ctx = partHB p then (32, 64) else (0, 0)
      let free (base n : Nat) : Prop := base % n = 0 ∧ win.1 ≤ base ∧ base + n ≤ win.2 ∧
        ∀ x ∈ s.harts, x.id ≠ h.id → x.onCore = true → x.core = h.core → x.trows ≠ 0 →
          x.rowBase + x.trows ≤ base ∨ base + n ≤ x.rowBase
      let allowed (n : Nat) : Prop := n ∈ [16, 32, 64] ∧ n ≤ 8 * 2 ^ q.toNat ∧ (h.info.det = true → n = 8 * 2 ^ q.toNat)
      ∃ rows base, exec (.tattach q) s = .next (s.setHart { h with trows := rows, rowBase := base, pc := h.pc + 4 }) ∧
        (rows = 0 ∨ allowed rows ∧ free base rows) ∧ ∀ n, allowed n → rows < n → ∀ lo, ¬free lo n) ∧
    exec .tdetach s = (if h.trows = 0 then onward else .next (s.setHart { h with
      trows := 0, rowBase := 0, tiles := Vector.replicate 8 { enabled := false, data := 0 }, pc := h.pc + 4 })) ∧
    exec (.ten t) s = (if h.trows = 0 then s.illegal else if tile.enabled then onward else put true) ∧
    exec (.tdis t) s = (if h.trows ≠ 0 ∧ tile.enabled = true then put false else onward) ∧
    exec (.tzero t) s = (if h.trows = 0 then s.illegal else if tile.enabled then put true
      else s.fault cTile (t.setWidth 8))) ∧
 (∀ (s : State) (t : BitVec 3) (a b : Reg) (r c : BitVec 3) (pa val : Nat → Nat → Nat), s.MemInv → let h := s.hart
    let tile := h.tile t.toNat
    let chosen (i j : Nat) : Bool := decide (i < h.trows) && decide (j < 64) && h.sel r i && h.sel c j
    let addr (i j : Nat) : Word := h.rd a + BitVec.ofInt 64 ((i : Nat) * (h.rd b).toInt) + BitVec.ofNat 64 (4 * j)
    (tile.enabled = false → exec (.tld t a b r c) s = s.fault cTile (t.setWidth 8) ∧
      exec (.tst t a b r c) s = s.fault cTile (t.setWidth 8)) ∧
    (tile.enabled = true → h.lane = none → h.trows ≤ 64 → (h.rd a).toNat % 4 = 0 → (h.rd b).toNat % 4 = 0 →
      ((∀ i j, chosen i j = true → ∃ q, s.access h .read 4 (addr i j) = .ok q ∧ val i j = s.load h 1 false q.pa 4) →
        ∃ h', exec (.tld t a b r c) s = .next (s.setHart h') ∧ h' = { h with tiles := h'.tiles, pc := h.pc + 4 } ∧
          TileRows tile (h'.tile t.toNat) 64 (fun i j => if chosen i j then val i j else tile.at i j) ∧
          ∀ u < 8, u ≠ t.toNat → h'.tile u = h.tile u) ∧
      ((∀ i j, chosen i j = true → (∃ attr, s.access h .write 4 (addr i j) = .ok ⟨pa i j, attr⟩) ∧ pa i j + 4 ≤ barBase) →
        ∃ u, exec (.tst t a b r c) s = .next u ∧ s.AfterStore u id ∧
          (∀ i j, chosen i j = true → (∀ i' j', chosen i' j' = true → 64 * i + j < 64 * i' + j' →
              pa i' j' + 4 ≤ pa i j ∨ pa i j + 4 ≤ pa i' j') →
            ∀ n < 4, (u.sees 1 (pa i j + n)).toNat = tile.at i j / 256 ^ n % 256) ∧
          ∀ y < barBase, (∀ i j, chosen i j = true → y < pa i j ∨ pa i j + 4 ≤ y) → u.sees 1 y = s.sees 1 y)))

/-- A slice is row r or column r of the tile, r = s[b] (for FP64, of the pair of tiles t and t + 1). `tmovv` puts its element e
into each active element of vd, converted to vd's type, vd being empty until it lands; `tmovt` puts each active element of va into
it, converted to FP32. All else keeps its value (R229). -/
def Obligations.TileSlices : Prop :=
  ∀ (s : State) (col : Bool) (t : BitVec 3) (v b : Reg) (k : BitVec 3), let h := s.hart
    let ty := h.ty v
    let g := h.grp v
    let r := (h.rd b).toNat
    let x (e : Nat) : Nat × Nat := if col then (e, r) else (r, e)
    let t0 := h.tile t.toNat
    let t1 := h.tile (t.toNat + 1)
    let ev := h.elem v.toNat g ty.w
    h.Plain → 13 ≤ ty.tag → ty.tag ≤ 16 → h.opOk v h.vl = true → h.usable v.toNat g → h.trows ≤ 64 →
    (if col then h.vl ≤ h.trows ∧ r < 64 else h.vl ≤ 64 ∧ r < h.trows) →
    t0.enabled = true → (ty.tag = 16 → t.toNat % 2 = 0 ∧ t1.enabled = true) →
    (h.vl = 0 → exec (if col then .tmovvC t v b k else .tmovv t v b k) s = .next (s.atPc (h.pc + 4))) ∧
    (0 < h.vl → let narrow := ty.tag = 13 ∨ ty.tag = 14
      let f (e : Nat) := sliceOut ty h.rmode.toNat (if narrow then h.drawFor e else 0) (t0.at (x e).1 (x e).2) (t1.at (x e).1 (x e).2)
      ∃ h', exec (if col then .tmovvC t v b k else .tmovv t v b k) s = .next (s.setHart h') ∧
        h' = { h with vregs := h'.vregs, pend := h.pend ++ [⟨members v.toNat g, s.loadLat⟩], pc := h.pc + 4
                      flags := h.flags ||| BitVec.ofNat 64 (orAll ((h.activeList k).map (fun e => (f e).2)))
                      ridx := if narrow ∧ h.rmode = 4 then h.ridx + BitVec.ofNat 32 h.vl else h.ridx } ∧
        GroupWritten h h' v.toNat g ty.w (fun c => c &&& 0xFFF7FFFF) (h.isActive k) (fun e => (f e).1)) ∧
    (let f (e : Nat) := sliceIn ty (ev e)
      let hit (i j : Nat) : Bool := h.isActive k (if col then i else j) && decide ((if col then j else i) = r)
      ∃ h', exec (if col then .tmovtC t v b k else .tmovt t v b k) s = .next (s.setHart h') ∧
        h' = { h with tiles := h'.tiles, pc := h.pc + 4
                      flags := h.flags ||| BitVec.ofNat 64 (orAll ((h.activeList k).map (fun e => (f e).2.2))) } ∧
        TileRows t0 (h'.tile t.toNat) 64 (fun i j => if hit i j then (f (if col then i else j)).1 else t0.at i j) ∧
        (ty.tag = 16 → TileRows t1 (h'.tile (t.toNat + 1)) 64
          (fun i j => if hit i j then (f (if col then i else j)).2.1 else t1.at i j)) ∧
        ∀ u < 8, u ≠ t.toNat → ¬(ty.tag = 16 ∧ u = t.toNat + 1) → h'.tile u = h.tile u)

/-! ## Flow, engine jobs, key-value blocks -/

/-- `lpart` writes LPART of the core and marks every hart it names, and those the old value named, to take a new grant at its next
head. Reserved bits and, in a deterministic region, EN with a named hart of RWID above 4 are illegal, and so are HA = HB and
contexts that are not two of one launch where the value changes (R20, R21, R241). That a value equal to the old one changes nothing,
whatever its contexts, is the model's reading (log entry 43).

`cmpt` packs the active elements of va into the first elements of vd, and their places into those of vb; `scat` puts element i
of va, for each i below the number of active elements, at the place element i of vb names, below VL; the last of equal places
stands. An index vector that is not N16, N32 or N64 is a type mismatch. All else keeps its value (R242 to R244). -/
def Obligations.PartitionAndCompaction : Prop :=
 (∀ (s : State) (a : Reg), let h := s.hart
    let v := h.rd a
    let old := s.lpart h.core
    let named (x : Hart) : Prop := x.onCore = true ∧ x.core = h.core ∧ (x.ctx = partHA v ∨ x.ctx = partHB v ∨
      partEn old = true ∧ (x.ctx = partHA old ∨ x.ctx = partHB old))
    let bad : Prop := v &&& 0xFFFFFFFFFFFFF03E ≠ 0 ∨ (partEn v = true ∧ h.info.det = true ∧
      ∃ c ∈ [partHA v, partHB v], ∃ x, s.hartAt h.core c = some x ∧ 4 < x.info.rwid)
    (bad → exec (.lpart a) s = s.illegal) ∧
    (¬bad → v = old → exec (.lpart a) s = .next (s.atPc (h.pc + 4))) ∧
    (¬bad → v ≠ old → (partHA v = partHB v ∨ s.partHarts h.core (partHA v) (partHB v) (partEn v && h.info.det) = false →
        exec (.lpart a) s = s.illegal) ∧
      (partHA v ≠ partHB v → s.partHarts h.core (partHA v) (partHB v) (partEn v && h.info.det) = true →
        ∃ t : State, exec (.lpart a) s = .next t ∧ t = { s with hart := t.hart, parked := t.parked, lparts := t.lparts } ∧
          (∀ c, t.lpart c = if c = h.core then v else s.lpart c) ∧
          (∀ f : Hart → Hart, (∀ x, (named x → f x = { x with partDue := true }) ∧ (¬named x → f x = x)) →
            t.hart = (f h).advance 4 ∧ t.parked = s.parked.map f)))) ∧
 (∀ (s : State) (d a b : Reg) (k : BitVec 3), let h := s.hart
    let t := h.ty a
    let g := h.grp a
    let tb := h.ty b
    let act := h.activeList k
    let ea := h.elem a.toNat g t.w
    let idx := h.elem b.toNat (h.grp b) tb.w
    h.Plain → h.opOk a h.vl = true → h.opOk b h.vl = true → h.resOk d t g h.vl = true → h.usable a.toNat g →
    h.usable b.toNat (h.grp b) → h.usable d.toNat g →
    (tb.tag ∉ [6, 7, 8] → ∀ i ∈ [Instr.cmpt d a b k, .scat d a b k], exec i s = s.fault cType 0) ∧
    (t.cls ≠ .untagged → tb.tag ∈ [6, 7, 8] → h.vl = 0 →
      ∀ i ∈ [Instr.cmpt d a b k, .scat d a b k], exec i s = .next (s.atPc (h.pc + 4))) ∧
    (t.cls ≠ .untagged → tb.tag ∈ [6, 7, 8] → 0 < h.vl →
      (∃ h1 h', exec (.cmpt d a b k) s = .next (s.setHart { h' with pc := h.pc + 4 }) ∧
        h1 = { h with vregs := h1.vregs } ∧ h' = { h with vregs := h'.vregs } ∧
        GroupWritten h h1 d.toNat g t.w (resultCfg (mkCfg t g)) (fun e => decide (e < act.length))
          (fun e => t.stored (ea (act.getD e 0))) ∧
        GroupWritten h1 h' b.toNat (h.grp b) tb.w id (fun e => decide (e < act.length)) (fun e => act.getD e 0)) ∧
      ∃ h', exec (.scat d a b k) s = .next (s.setHart h') ∧ h' = { h with vregs := h'.vregs, pc := h.pc + 4 } ∧
        let from_ (e : Nat) : List Nat := (List.range act.length).filter (fun i => idx i == e)
        GroupWritten h h' d.toNat g t.w (resultCfg (mkCfg t g)) (fun e => decide (e < h.vl) && !(from_ e).isEmpty)
          (fun e => t.stored (ea ((from_ e).getLast?.getD 0)))))

/-- `eloop` opens a replay of the body its record names, at the first index of every dimension, and stays at its own address; the
nest then goes through its indices with dimension 0 innermost. `ecpy` and `efoot` append their job card to the core's jobs once the
S0 and S1 writes before them have performed; with 64 jobs outstanding they stall. A record, body or card with a value outside
its range is illegal, and so is each of the three in a transaction (R206, R245, R246, R249, R323). -/
def Obligations.LoopsAndJobs : Prop :=
  ∀ (s : State) (a : Reg), let h := s.hart
    (h.inTx = true → ∀ i ∈ [Instr.eloop a, .ecpy a, .efoot a], exec i s = s.illegal) ∧
    (h.inTx = false → ∀ r, s.readRecord (h.rd a) 8 = .ok r →
      (parseLoop r = none → exec (.eloop a) s = s.illegal) ∧
      (∀ at_ tail len cnt ws, parseLoop r = some (at_, tail, len, cnt) → s.fetchBody h at_ len = .ok ws →
        (ws.all replayable = false → exec (.eloop a) s = s.illegal) ∧
        (ws.all replayable = true → exec (.eloop a) s = .next (s.setHart { h with replay := some {
          word := h.ir, body := ws.map (BitVec.ofNat 32), tailAt := tail, counts := cnt, bodyIndex := 0,
          index := if tail = 0 then (List.replicate cnt.length 0).set 0 (cnt.getD 0 1 - 1)
            else List.replicate cnt.length 0 } })) ∧
        tail ≤ len ∧ 1 ≤ len ∧ len ≤ 16 ∧ 1 ≤ cnt.length ∧ cnt.length ≤ 6 ∧ ∀ c ∈ cnt, c ≠ 0)) ∧
    (∀ c cs i is, nextIndex (c :: cs) (i :: is) = if i + 1 < c then some ((i + 1) :: is)
      else (nextIndex cs is).map (fun t => 0 :: t)) ∧
    (h.inTx = false → ∀ kind i, (kind, i) ∈ [(0, Instr.ecpy a), (1, .efoot a)] →
      let mine := s.jobs.filter (fun j => j.core == h.core && !j.done)
      (64 ≤ mine.length → exec i s = .next s) ∧
      (mine.length < 64 → ∀ c, s.readCard (h.rd a) = .ok c → (cardOk kind c = false → exec i s = s.illegal) ∧
        (cardOk kind c = true → ∃ t : State, exec i s = .next t ∧ s.AfterStore t id ∧ t.nextJob = s.nextJob + 1 ∧
          t.jobs = s.jobs ++ [{ id := s.nextJob, core := h.core, who := h.id, asid := h.info.asid, fdom := h.info.fdom
                                card := BitVec.ofNat 4096 c, payloadDone := false, failed := false, done := false }] ∧
          t.hart.wbuf = h.wbuf.filter (fun w => decide (1 < w.stream)) ∧ t.mem = (s.drain (fun k => decide (k ≤ 1))).mem)))

/-- `kfork` and `kdrop` go through the first s[b] entries of their tables in ascending order, and `kspl` through those of its
record. Forking a mapped entry raises its frame's count by one and writes the entry, marked shared, into both tables; an unmapped
one is copied. Dropping a mapped entry lowers the count by one and clears the entry; a frame whose count comes to 0 is invalid,
counts as freed, and goes to the free ring of its owner, or to domain 0 as an event where there is no ring or it is full. Splicing
raises the count of the source's frame and writes the target, shared, spliced and not pending, with the record's offset and version
and no mark; a source that is unmapped, uncounted, at its top or another's, and a target that is mapped, are protection faults. Each
changes the count of no other frame and no byte beyond the entries and the ring (R274 to R277, R297, R298, R301, R336). Freeing a
frame ends the old entry in force for it, and no load is under way any more (R212, R213).

That a ring of 2^k entries is full at 2^k is the model's reading (log entry 29), and so is that with s[b] = 0 no table is looked
at, whatever its address (log entry 45). -/
def Obligations.BlockTables : Prop :=
  ∀ (s : State) (d a b : Reg), let h := s.hart
    let n := (h.rd b).toNat
    (h.inTx = true → ∀ i ∈ [Instr.kfork d a b, .kdrop d a b, .kspl d a b], exec i s = s.illegal) ∧
    (h.inTx = false → h.restart = none → ∀ σ : Nat → State, σ 0 = s →
      ((∀ j < n, State.forkEntry (h.rd a) (h.rd d) (σ j) j = .ok (σ (j + 1))) →
        exec (.kfork d a b) s = .next ((σ n).setHart ((σ n).hart.advance 4))) ∧
      (∀ φ : Nat → Nat, φ 0 = 0 → (∀ j < n, (σ j).dropEntries (h.rd a) 1 j (φ j) = (σ (j + 1), φ (j + 1), none)) →
        exec (.kdrop d a b) s = .next ((σ n).setHart (((σ n).hart.wr d (BitVec.ofNat 64 (φ n))).advance 4))) ∧
      (∀ r p, s.readRecord (h.rd b) 4 = .ok r → parseSplice r = some p → s.provBad h.info.asid p.pidx = false →
        s.provState h.info.asid p.pidx = 1 →
        (∀ j < p.nblk, State.spliceEntry (h.rd a) p (σ j) j = .ok (σ (j + 1))) →
        exec (.kspl d a b) s = .next ((σ p.nblk).setHart (((σ p.nblk).hart.wr d (BitVec.ofNat 64 p.nblk)).advance 4)))) ∧
    (∀ (table to_ : Word) (j n : Nat) (e : Entry) (p q : Phys), let va := table + BitVec.ofNat 64 (16 * j)
      s.tableEntry va = .ok e → p.pa + 16 ≤ barBase → q.pa + 16 ≤ barBase →
      let others (t : State) := ∀ f, f ≠ e.frame → t.leaf f = s.leaf f
      let shared : Entry := { e with d0 := e.d0 ||| 2 ^ 41 }
      let base := (s.drain (fun k => k == 0)).mem
      (e.mapped = false → s.entryPlace (to_ + BitVec.ofNat 64 (16 * j)) = .ok q → ∃ t,
        State.forkEntry table to_ s j = .ok t ∧ t.kv = s.kv ∧ t.mem = memStore base q.pa e.bytes) ∧
      (∀ c, e.mapped = true → e.pending = false → s.tableEntry (to_ + BitVec.ofNat 64 (16 * j)) = .ok c → c.mapped = false →
        s.countable e.frame true = true → s.entryPlace va = .ok p → s.entryPlace (to_ + BitVec.ofNat 64 (16 * j)) = .ok q →
        ∃ t, State.forkEntry table to_ s j = .ok t ∧ others t ∧ t.count e.frame = s.count e.frame + 1 ∧
          t.mem = memStore (memStore base p.pa shared.bytes) q.pa shared.bytes) ∧
      (e.mapped = false → s.dropEntries table 1 j n = (s, n, none)) ∧
      (e.mapped = true → s.countable e.frame false = true → s.entryPlace va = .ok p → ∃ t m,
        s.dropEntries table 1 j n = (t, m, none) ∧ others t ∧ t.count e.frame = s.count e.frame - 1 ∧
        (s.count e.frame = 1 → m = n + 1 ∧ validOf (t.leaf e.frame) = false ∧ ∃ u : State, t = u.freeFrame e.frame ∧
          u.asids = s.asids ∧ ownerOf (u.leaf e.frame) = ownerOf (s.leaf e.frame) ∧
          u.mem = memStore base p.pa (List.replicate 16 0)) ∧
        (s.count e.frame ≠ 1 → m = n ∧ t.mem = memStore base p.pa (List.replicate 16 0)))) ∧
    (∀ f : Nat, (s.freeFrame f).kvOld = s.kvOld.filter (fun p => p.1 != f) ∧
      ((s.harts.map (fun x => x.id)).Nodup → ∀ x ∈ (s.freeFrame f).harts, x.late = [])) ∧
    (∀ f : Nat, (∀ x ∈ s.harts, x.late = []) → let owner := ownerOf (s.leaf f)
      ((∀ x ∈ s.asids, x.asid = owner → x.ring = 0) → (s.freeFrame f).mem = s.mem ∧ ∃ e,
        (s.freeFrame f).events = s.events ++ [e] ∧ e.fdom = 0 ∧ e.frame = BitVec.ofNat 34 f) ∧
      (∀ x, s.asids.find? (fun x => decide (x.asid = owner) && x.ring != 0) = some x →
        x.ring.toNat + 64 + 8 * 2 ^ x.log2 ≤ hbmBytes →
        let tail := memRead s.mem x.ring.toNat 8
        let held := (BitVec.ofNat 64 tail - BitVec.ofNat 64 (memRead s.mem (x.ring.toNat + 8) 8)).toNat
        (held < 2 ^ x.log2 → (s.freeFrame f).mem =
          memStore (memStore s.mem (x.ring.toNat + 64 + 8 * (tail % 2 ^ x.log2)) (natLe 8 f)) x.ring.toNat (natLe 8 ((tail + 1) % 2 ^ 64)))
        ∧ (2 ^ x.log2 ≤ held → (s.freeFrame f).mem = s.mem ∧ ∃ e, (s.freeFrame f).events = s.events ++ [e] ∧ e.fdom = 0 ∧
          e.frame = BitVec.ofNat 34 f))) ∧
    (∀ (table : Word) (p : Splice) (j : Nat) (e c : Entry) (q : Phys), p.poff < 2 ^ 32 → p.pidx < 2 ^ 16 →
      let from_ := BitVec.ofNat 64 p.srct + BitVec.ofNat 64 (16 * j)
      let to_ := table + BitVec.ofNat 64 (16 * (p.dblk + j))
      s.tableEntry from_ = .ok e → s.tableEntry to_ = .ok c →
      (e.mapped = false → State.spliceEntry table p s j = .error ⟨cProt, 0, from_⟩) ∧
      (e.mapped = true → c.mapped = true → State.spliceEntry table p s j = .error ⟨cProt, 0, to_⟩) ∧
      (e.mapped = true → c.mapped = false → s.countable e.frame true = false →
        State.spliceEntry table p s j = .error ⟨cProt, 0, from_⟩) ∧
      (e.mapped = true → c.mapped = false → s.countable e.frame true = true → s.entryPlace to_ = .ok q → q.pa + 16 ≤ barBase →
        ∃ (t : State) (x : Entry), State.spliceEntry table p s j = .ok t ∧ (∀ f, f ≠ e.frame → t.leaf f = s.leaf f) ∧
          t.count e.frame = s.count e.frame + 1 ∧ t.mem = memStore (s.drain (fun k => k == 0)).mem q.pa x.bytes ∧
          x.frame = e.frame ∧ x.mapped = true ∧ x.shared = true ∧ x.spliced = true ∧ x.pending = false ∧ x.poff = p.poff ∧
          x.pidx = p.pidx ∧ x.mark = 0 ∧ x.rthru = 0))

/-- `kchk` and `kchk.f` are releases: with every held write performed they bring RTHRU of a pending entry up to the layer given,
`kchk.f` ending the pending state and its marks, and s[d] receives RTHRU. `kprov` gives the state of a version's provenance and,
from the state each form names, the next one (R278 to R282).

`krep` writes an entry's marks, pending while there are any, and s[d] receives them. It marks a token where one of its fresh elements
X and the cached Y deviate: a NaN among them or for the threshold, an infinity against anything else, or |X − Y|, computed exactly,
above the threshold in REPTH (R278, R279). -/
def Obligations.BlockRepairAndProvenance : Prop :=
  ∀ (s : State) (d a b : Reg), s.MemInv → let h := s.hart
    h.inTx = false →
    (let s1 := s.drainAll
      let va := h.rd a + BitVec.ofNat 64 (16 * ((h.rd b).toNat % 2 ^ 32))
      let l := (h.rd b).toNat / 2 ^ 32 % 2 ^ 16
      ∀ final e q, s1.accessRmw s1.hart 16 va = .ok q → q.pa + 16 ≤ barBase → s1.readEntry 0 va = .ok e → e.mapped = true →
        let e' : Entry := if e.pending then Entry.make e.frame e.pidx true e.shared e.spliced (!final) e.poff (max e.rthru l)
          (if final then 0 else e.mark) else e
        ∃ t : State, exec (if final then .kchkF d a b else .kchk d a b) s = .next t ∧
          s.AfterStore t (fun h => h.wr d (BitVec.ofNat 64 e'.rthru)) ∧ t.hart.wbuf = [] ∧
          (∀ x, x < q.pa ∨ q.pa + 16 ≤ x → memGet t.mem x = memGet s1.mem x) ∧
          memRead t.mem q.pa 8 = e'.d0 % 2 ^ 64 ∧ memRead t.mem (q.pa + 8) 8 = e'.d1 % 2 ^ 64) ∧
    (∀ r p e q m, s.readRecord (h.rd b) 4 = .ok r → parseRepair r = some p →
      let va := h.rd a + BitVec.ofNat 64 (16 * p.blk)
      s.readEntry 0 va = .ok e → e.mapped = true → e.spliced = true → e.pending = false → validOf (s.leaf e.frame) = true →
      s.entryPlace va = .ok q → q.pa + 16 ≤ barBase →
      s.repairMask p ((fmtOf 15).decode (h.repth.toNat % 2 ^ 32)) e.frame (List.range p.ntok) = .ok m →
      ∃ t : State, exec (.krep d a b) s = .next t ∧ s.AfterStore t (fun h => h.wr d (BitVec.ofNat 64 m)) ∧
        t.mem = memStore (s.drain (fun k => k == 0)).mem q.pa (Entry.make e.frame e.pidx true e.shared true (decide (m ≠ 0)) e.poff
          (if m = 0 then e.rthru else 0) m).bytes) ∧
    (∀ (p : Repair) (thr : FVal) (frame : Nat) (x y : Nat → Nat → FVal), p.ntok ≤ 16 →
      (∀ t < p.ntok, ∀ i < p.nel, s.repairPair p frame t i = .ok (x t i, y t i)) →
      ∃ m, s.repairMask p thr frame (List.range p.ntok) = .ok m ∧
        ∀ t, m.testBit t = true ↔ t < p.ntok ∧ ∃ i < p.nel, deviates thr (x t i) (y t i) = true) ∧
    (∀ (p : Repair) (frame t i : Nat) (q : Phys), let n := tagWidth p.tag / 8
      let pa := frame * 2 ^ 18 + t * 2 ^ 14 + p.slot + i * n
      pa % n = 0 → (∀ j < n, s.poison.contains (pa + j) = false) →
      s.access h .read n (BitVec.ofNat 64 (p.fresh + t * p.tstr + i * n)) = .ok q →
      s.repairPair p frame t i = .ok ((fmtOf p.tag).decode (s.load h 1 false q.pa n), (fmtOf p.tag).decode (s.load h 1 false pa n))) ∧
    (∀ (thr x y : FVal), (thr.isNan = true ∨ x.isNan = true ∨ y.isNan = true → deviates thr x y = true) ∧
      (thr.isNan = false → ∀ (n n' : Bool) (m : Nat) (e : Int),
        (x = .inf n → y = .inf n' → n ≠ n' → deviates thr x y = true) ∧
        (x = .inf n → y = .fin n' m e → deviates thr x y = true) ∧ (x = .fin n' m e → y = .inf n → deviates thr x y = true) ∧
        (x = .inf n → y = .inf n → (deviates thr x y = true ↔
          thr = .inf true ∨ ∃ mt et, thr = .fin true mt et ∧ mt ≠ 0)))) ∧
    (∀ (n n' : Bool) (m m' : Nat) (e e' : Int), let x : FVal := .fin n m e
      let y : FVal := .fin n' m' e'
      deviates (.inf true) x y = true ∧ deviates (.inf false) x y = false ∧
      ∀ nt mt et, ∀ low : Int, low ≤ e → low ≤ e' → low ≤ et → let exact (n : Bool) (m : Nat) (e : Int) : Int :=
          (if n then -1 else 1) * (m * 2 ^ (e - low).toNat : Nat)
        (deviates (.fin nt mt et) x y = true ↔ exact nt mt et < ((exact n m e - exact n' m' e').natAbs : Int))) ∧
    (let v := (h.rd a).toNat
      let base := s.provBase h.info.asid
      let pa := base + 16 * v
      v < 2 ^ 16 → base ≠ 0 → pa + 16 ≤ hbmBytes → (∀ i < 16, s.poison.contains (pa + i) = false) →
      let d1 := memRead s.mem (pa + 8) 8
      let moved (st : Nat) : Prop := d1 % 4 = st
      (d1 % 4 = 3 → ∀ i ∈ [Instr.kprovRd d a, .kprovLive d a b, .kprovFree d a], exec i s = s.faultPlain ⟨cProt, 0, 0⟩) ∧
      (d1 % 4 ≠ 3 →
        exec (.kprovRd d a) s = .next (s.wrote d (BitVec.ofNat 64 (d1 % 4))) ∧
        (∃ t : State, exec (.kprovLive d a b) s = .next t ∧ s.AfterStore t (fun h => h.wr d (BitVec.ofNat 64 (d1 % 4))) ∧ t.mem =
          if moved 0 then memStore (memStore s.mem pa (natLe 8 (h.rd b).toNat)) (pa + 8) (natLe 8 (d1 + 1)) else s.mem) ∧
        (∃ t : State, exec (.kprovFree d a) s = .next t ∧ s.AfterStore t (fun h => h.wr d (BitVec.ofNat 64 (d1 % 4))) ∧ t.mem =
          if moved 2 then memStore s.mem (pa + 8) (natLe 8 (d1 - 2)) else s.mem) ∧
        (h.wbuf = [] → ∃ t : State, exec (.kprovRet d a) s = .next t ∧
          s.AfterStore t (fun h => h.wr d (BitVec.ofNat 64 (d1 % 4))) ∧ t.mem =
          if moved 1 then memStore s.mem (pa + 8) (natLe 8 (d1 + 1)) else s.mem)))

/-- `odecl` adds the granule of an address it may reach to the declaration buffer, at most 16 of them, and with `odecl.w` declares it
for writing. `obeg` submits the buffer and waits with cause 4; once the transaction is open, the same `obeg` completes and s[d] receives its place. `ocom` has every
held write perform, releases every granule of the hart and clears the buffer. In any other transaction state they are illegal
(R311 to R316).

A submitted transaction enters the batch of its die's gate, in a deterministic launch only when its key is due, behind those of an
earlier cycle and, in its own cycle, those of a lower core or of a lower context of its core; at the end of a beat the batches of dies
0 to 3, at most 256 of each, form the merged order; every declaration of the oldest merged order is appended in that order to the home
queues of its granules, where reads with no write before them and a write with nothing before it are granted; and with every granule
granted the transaction opens, its result the beat and its place (R312, R315, R317 to R319). A key is due once every transaction of
the launch with an earlier one has been placed, k before the index, retired harts skipped (R325). The end of a beat finds the earlier
orders appended and what stands granted open, as R320 bounds both. That a declaration withdrawn from its gate still takes one of the
batch's 256 places is the model's choice (log entry 88), and so is that an `obeg` is told from a second one by its address (log entry
105). -/
def Obligations.OrderFirstTransactions : Prop :=
 (∀ (s : State) (d a : Reg) (write : Bool), let h := s.hart
    let decl := if write then Instr.odeclW a else .odeclR a
    let acc : Acc := if write then .write else .read
    (h.tx.st = .submitted ∨ h.tx.st = .opened → exec decl s = s.illegal) ∧
    (h.tx.st = .idle ∨ h.tx.st = .declaring → ∀ p, s.translate h.info.asid acc (h.rd a) = .ok p →
      (p.attr ≠ .hbm → exec decl s = s.faultAt ⟨cProt, 0, h.rd a⟩) ∧
      (p.attr = .hbm → let g := p.pa / 1024 * 1024
        let known := h.tx.buf.any (fun x => x.1 == g)
        (known = false → 16 ≤ h.tx.buf.length → exec decl s = s.illegal) ∧
        (known = true ∨ h.tx.buf.length < 16 → exec decl s = .next (s.setHart { h with pc := h.pc + 4, tx := { h.tx with
          st := .declaring
          buf := if known then h.tx.buf.map (fun x => if x.1 = g then (g, x.2 || write) else x)
            else h.tx.buf ++ [(g, write)] } })))) ∧
    (h.lane = none → h.tx.st = .declaring → exec (.obeg d) s = .next (s.setHart { h with
      tx := { h.tx with st := .submitted, begun := h.tx.begun + 1, site := h.pc }, st := .waiting .grant, watch := Watch.none
      taken := [], walked := [], limit := none })) ∧
    (h.lane = none → h.tx.st = .submitted → h.pc = h.tx.site → exec (.obeg d) s = .next (s.setHart { h with
      st := .waiting .grant, watch := Watch.none, taken := [], walked := [], limit := none })) ∧
    (∀ v, h.tx.st = .opened → h.tx.result = some v → h.pc = h.tx.site → exec (.obeg d) s =
      .next (s.setHart { h.wr d v with tx := { h.tx with result := none }, pc := h.pc + 4 })) ∧
    (h.tx.st = .idle ∨ h.tx.st = .opened ∧ h.tx.result = none ∨ h.tx.st ≠ .declaring ∧ h.pc ≠ h.tx.site →
      exec (.obeg d) s = s.illegal) ∧
    (h.tx.st ≠ .opened → exec .ocom s = s.illegal) ∧
    (h.tx.st = .opened → ∃ t : State, exec .ocom s = .next t ∧ t.mem = s.drainAll.mem ∧ t.hart.wbuf = [] ∧
      s.AfterStore t (fun h => { h with tx := { h.tx with st := .idle, buf := [], placed := none, result := none
                                                          ghost := t.hart.tx.ghost } }) ∧
      ((∀ b ∈ s.gates.toList, ∀ e ∈ b, e.who ≠ h.id) → t.hart.tx.ghost = none) ∧
      ∀ q ∈ t.granules, ∀ e ∈ q.2, e.who ≠ h.id)) ∧
 (∀ s : State, let h := s.hart
    let die := h.core / 32 % 4
    let batch (d : Nat) : List GateEntry := s.gates.toList.getD d []
    (∀ a b : GateEntry, a.before b = true ↔ a.cycle < b.cycle ∨ a.cycle = b.cycle ∧ (a.core < b.core ∨
      a.core = b.core ∧ a.ctx < b.ctx)) ∧
    (∀ x : Hart, x.placedCount = match x.tx.ghost with
      | some n => n
      | none => x.tx.begun - (if x.tx.st = .submitted ∧ x.tx.placed = none then 1 else 0)) ∧
    (let k := h.tx.begun - 1;
      s.keyDue h = true ↔ ∀ x ∈ s.harts, x.id ≠ h.id → x.id.seq = h.id.seq → x.st ≠ .retired →
        ∀ j, (j < k ∨ j = k ∧ x.id.hidx.toNat < h.id.hidx.toNat) → j < x.placedCount) ∧
    (h.tx.st = .submitted → h.tx.placed = none → (∀ b ∈ s.gates.toList, ∀ e ∈ b, e.who ≠ h.id) →
      (h.info.det = true → s.keyDue h = true) →
      ∃ (t : State) (ahead behind : List GateEntry), exec .gateArrival s = .next t ∧ t = { s with gates := t.gates } ∧
        let e : GateEntry := { who := h.id, cycle := s.cycle, core := h.core, ctx := h.ctx }
        batch die = ahead ++ behind ∧ (∀ x ∈ ahead, e.before x = false) ∧ (∀ x, behind.head? = some x → e.before x = true) ∧
        ∀ d < 4, t.gates.toList.getD d [] = if d = die then ahead ++ e :: behind else batch d) ∧
    (h.tx.st ≠ .submitted ∨ h.tx.placed ≠ none ∨ (∃ b ∈ s.gates.toList, ∃ e ∈ b, e.who = h.id) ∨
      h.info.det = true ∧ s.keyDue h = false → exec .gateArrival s = .next s) ∧
    (∀ id, s.withdrawn id = true ↔ ∀ x ∈ s.harts, x.id = id → x.tx.st ≠ .submitted ∨ x.tx.ghost ≠ none) ∧
    (s.stage = 0 ∨ s.ns < s.beatFrom + s.beat.toNat → exec .beatEnd s = .next s) ∧
    (s.stage ≠ 0 → s.beatFrom + s.beat.toNat ≤ s.ns → let u := s.keepPromise
      let sent := (List.range 4).flatMap (fun d => if s.joined.getLsbD d then ((batch d).take 256).map (fun e => e.who) else [])
      let order := sent.filter (fun id => !u.withdrawn id)
      ∃ t : State, exec .beatEnd s = .next t ∧ t.beatNo = s.beatNo + 1 ∧ t.beat = s.nextBeat ∧ t.mem = s.mem ∧
        t.beatFrom = s.beatFrom + s.beat.toNat ∧ t.granules = u.granules ∧
        t.merged = (if order = [] then [] else [⟨s.beatNo, order⟩]) ∧
        (∀ d < 4, t.gates.toList.getD d [] = (batch d).drop (if s.joined.getLsbD d then 256 else 0)) ∧
        (∀ p < order.length, order.idxOf h.id = p →
          t.hart = { u.hart with tx := { u.hart.tx with placed := some (s.beatNo, p), ghost := none } }) ∧
        (h.id ∉ order → t.hart = { u.hart with tx := { u.hart.tx with ghost := if h.id ∈ sent then none else u.hart.tx.ghost } })) ∧
    (s.merged = [] → s.keepPromise = s.mapHarts s.grantTx) ∧
    (∀ t, s.merged ≠ [] → exec .batchAppend s = .next t → s.keepPromise = t.keepPromise) ∧
    (∀ m ms, s.merged = m :: ms → ∃ t : State, exec .batchAppend s = .next t ∧ t = { s with merged := ms, granules := t.granules } ∧
      ∀ g, let new : List QueueEntry := m.order.flatMap (fun who => ((s.bufOf who).filter (fun x => x.1 == g)).map (fun x =>
          { who := who, write := x.2, granted := false }))
        lookupD t.granules g [] = if new = [] then lookupD s.granules g [] else grantQueue false false (lookupD s.granules g [] ++ new)) ∧
    (∀ (q : List QueueEntry) (i : Nat) (e : QueueEntry), (grantQueue false false q)[i]? = some e →
      ∃ e0 : QueueEntry, q[i]? = some e0 ∧ e.who = e0.who ∧
      e.write = e0.write ∧ (e.granted = true ↔ e0.granted = true ∨
        if e0.write then i = 0 else ∀ j < i, ∀ x, q[j]? = some x → x.write = false)) ∧
    exec .orderFirstGrant s = .next (s.upd s.grantTx) ∧
    (∀ x : Hart, let all : Prop := ∀ g ∈ x.tx.buf, ∃ e ∈ lookupD s.granules g.1 [], e.who = x.id ∧ e.granted = true;
      (∀ b p, x.tx.placed = some (b, p) → x.tx.st = .submitted → all → s.grantTx x = { x with tx :=
        { x.tx with st := .opened, result := some (BitVec.ofNat 64 (b % 2 ^ 48 * 2 ^ 16 + p)) } }) ∧
      (x.tx.placed = none ∨ x.tx.st ≠ .submitted ∨ ¬ all → s.grantTx x = x)))

/-! ## The device's own steps -/

/-- A waiting hart whose wake condition holds resumes, and a saved one that may run again becomes ready. A reclaim saves a hart waiting
with causes 2 to 5 with cause 0x22; a hard pre-emption saves a hart that holds a context with cause 0x21, or is kept while it may not
be taken; one that meets a fault in the cycle of its save sets PEND there. Soft requests whose reasons are gone lapse, and the oldest
that has stood 100 µs becomes a hard pre-emption, with DETAIL 2 where a remap raised it (R12, R13, R254, R256, R265, R266, R342). That
a hart with a vector instruction to finish, resident or waiting for a stream or a frontier, has both put off is the model's choice
(log entry 50).

A watchdog interval that has run out saves the hart with cause 0x0D, a submitted or open transaction ended and one being declared
left as it is, after a journal entry of kind 3; while the emulation handler runs it begins one further interval, and when that too has
run out the save has DETAIL 1 and a context that can only be cancelled (R270, R312, R322, R333). That a hart waiting with cause 1 is
saved by it at once, its producer landing first, is the model's reading (log entry 59). -/
def Obligations.WakingAndWatchdog : Prop :=
 (∀ (s : State) (detail : BitVec 8), s.MemInv → let h := s.hart
    let quiet : State := s.setHart { h with soft := [] }
    let preempted (x : BitVec 8) : Res := .next (quiet.notePcWord.taken (betweenTrap h 0x21 (h.hardReq.getD x)))
    let kept (x : BitVec 8) : Res := .next (s.setHart { h with hardReq := some (h.hardReq.getD x), soft := [] })
    let midway : Prop := h.restart.isSome = true ∧ (h.st = .resident ∨ h.st = .waiting .stream ∨ h.st = .waiting .frontier)
    let put : Prop := h.st = .waiting .fullEmpty ∨ h.handler.isSome = true ∨ h.tx.st = .opened ∨ midway
    let due (r : SoftReq) : Prop := r.since + 100000 ≤ s.ns
    let live := h.soft.filter (fun r => s.softApplies h r.why)
    (∀ c, h.st = .waiting c → exec .hartWake s = if h.wakes c then
      .next (s.setHart { h with st := if h.handler.isSome then .waiting .emulation else .resident }) else .next s) ∧
    (∀ r, h.st = .saved → h.save = some r → h.cancelling = false → let free := r.released = true ∨ 0x20 ≤ r.cause.toNat ∧ r.lost = false
      (free → (∀ c, causeOfCode r.wcause = some c → h.wakes c = true) →
        exec .hartWake s = .next (s.setHart { h with st := .ready, since := s.cycle })) ∧
      (¬free → exec .hartWake s = .next s)) ∧
    (∀ c ∈ [WaitCause.address, .stream, .grant, .frontier], h.st = .waiting c → ¬put →
      exec .hartReclaim s = .next (s.notePcWord.taken (betweenTrap h 0x22 0))) ∧
    (∀ c, h.st = .waiting c → put ∨ c = .fullEmpty ∨ c = .emulation → exec .hartReclaim s = .next s) ∧
    (h.onCore = true → put → exec (.hardPreemption detail) s = kept detail) ∧
    (h.onCore = true → ¬put → exec (.hardPreemption detail) s = preempted detail) ∧
    (h.onCore = false → let meets (r : SaveRec) : Prop := h.save = some r ∧ h.st = .saved ∧ r.cycle = s.cycle ∧
        r.cause.toNat ≤ 0x0C ∧ r.pend = false
      ((∀ r, ¬meets r) → exec (.hardPreemption detail) s = .next s) ∧
      (∀ r, meets r → let noted : Hart := { h with save := some { r with pend := true }, soft := [] }
        (r.reserve = true → exec (.hardPreemption detail) s = .next (s.setHart noted)) ∧
        ∀ q, r.reserve = false → s.translate h.info.asid .write (h.trapbase + if r.inHandler then 0x7C18 else 0x18) = .ok q →
          q.pa + 8 ≤ barBase → ∃ t : State, exec (.hardPreemption detail) s = .next t ∧ t.others = s.others ∧
            t.hart = { noted with watch := t.hart.watch } ∧
            t.mem = memStore s.mem q.pa (natLe 8 ((headerWords h r).getD 3 0 + 2 ^ 19)))) ∧
    ((∀ r ∈ live, ¬due r) → exec .softRequestEscalation s = .next (s.setHart { h with soft := live })) ∧
    (∀ before r after, live = before ++ r :: after → (∀ x ∈ before, ¬due x) → due r → h.onCore = true →
      (put → exec .softRequestEscalation s = kept r.why.detail) ∧ (¬put → exec .softRequestEscalation s = preempted r.why.detail)) ∧
    (∀ why : SoftWhy, ((∃ k u, why = .spare k u) → why.detail = 2) ∧ ((∀ k u, why ≠ .spare k u) → why.detail = 1))) ∧
 (∀ s : State, let h := s.hart
    let span := 1000 * (if h.info.pers then h.info.wdog.toNat else h.info.tbud.toNat)
    let from_ := if h.info.pers then h.wdogFrom else h.info.acceptedNs
    let saved (t : State) (detail : BitVec 8) (bad : Bool) : Prop := t.hart.id = h.id ∧ t.hart.st = .saved ∧
      (h.tx.st = .submitted ∨ h.tx.st = .opened → t.hart.tx.st = .idle ∧ t.hart.tx.buf = [] ∧
        ∀ q ∈ t.granules, ∀ e ∈ q.2, e.who ≠ h.id) ∧
      (h.tx.st = .idle ∨ h.tx.st = .declaring → t.hart.tx = h.tx) ∧
      t.hart.wbuf = [] ∧ t.hart.late = [] ∧ t.hart.pend = [] ∧ (h.late = [] → t.hart.sregs = h.sregs) ∧
      (∃ r, t.hart.save = some r ∧ r.cause = 0x0D ∧ r.detail = detail ∧ r.pc = h.pc ∧ r.rpc = h.pc ∧ r.contextError = bad) ∧
      (h.trapbase = 0 → h.wbuf = [] → ∃ e, t.journal.getLast? = some e ∧ e.kind = 3 ∧ e.detail = h.id.rcb.setWidth 64)
    h.lane = none → h.badRegs = false → h.onCore = true → span ≠ 0 →
    let slipped : Prop := h.restart.isSome = true ∧ (h.st = .resident ∨ h.st = .waiting .stream ∨ h.st = .waiting .frontier)
    (s.ns < from_ + span ∨ slipped → exec .watchdogExpiry s = .next s) ∧
    (from_ + span ≤ s.ns → ¬slipped → h.handler = none → ∃ t : State, exec .watchdogExpiry s = .next t ∧ saved t 0 false) ∧
    (∀ k, from_ + span ≤ s.ns → ¬slipped → h.handler = some k → k.overrunAt = none → exec .watchdogExpiry s =
      .next (s.setHart { h with handler := some { k with overrunAt := some s.ns } })) ∧
    (∀ k n, h.handler = some k → k.overrunAt = some n → n + span ≤ s.ns →
      ∃ t : State, exec .handlerOverrun s = .next t ∧ saved t 0x81 true))

/-- The oldest producer's registers become full, the loads under way that it waits for having performed, each after the held
stores of its stream; held strips of a core complete; a read stream that is bound, or loaded for `mop.s`, has more elements to
supply, up to its end; the oldest held write of a stream performs, or, with none, its oldest load under way, whose destination
takes what the stream sees there then, registers bound meanwhile apart. Nothing else changes (R26, R49, R178, R179, R193, R195, R196, R224). That strips take effect
when they issue, and that loads are delayed at all, is the model's choice (log entries 11 and 85). -/
def Obligations.LandingAndPerforming : Prop :=
  ∀ (s : State) (core : BitVec 7) (g : BitVec 3) (n : BitVec 16) (k : BitVec 4), let h := s.hart
    let gen := h.gen g.toNat
    (∀ p ps, h.pend = p :: ps → let u := if h.awaits p then s.settleLoads else s
      let m := u.hart
      ∃ h', exec .producerLands s = .next (u.setHart h') ∧ (h.awaits p = true → h'.late = []) ∧
      h' = { m with vregs := h'.vregs, pend := ps } ∧ ∀ r < 32, h'.v r = if r ∈ p.regs.map (· % 32)
        then { m.v r with cfg := (m.v r).cfg ||| 0x00080000 } else m.v r) ∧
    (h.pend = [] → exec .producerLands s = .next s) ∧
    (let f (x : Hart) : Hart := if x.core = core.toNat then { x with heldStrips := [] } else x;
      exec (.compactionComplete core) s = .next { s with hart := f h, parked := s.parked.map f }) ∧
    (gen.bound = true ∨ gen.loaded = true → gen.isWrite = false → exec (.streamReadAhead g n) s = .next (s.setHart
      (h.setGen g.toNat { gen with ahead := min (gen.ahead + n.toNat) (gen.pat.total - gen.pos) }))) ∧
    (gen.bound = false → gen.loaded = false → exec (.streamReadAhead g n) s = .next s) ∧
    (gen.isWrite = true → exec (.streamReadAhead g n) s = .next s) ∧
    ((∀ w ∈ h.wbuf, w.stream ≠ k.toNat) → (∀ l ∈ h.late, l.stream ≠ k.toNat) → exec (.accessPerforms k) s = .next s) ∧
    (∀ before l after, (∀ w ∈ h.wbuf, w.stream ≠ k.toNat) → h.late = before ++ l :: after → l.stream = k.toNat →
      (∀ x ∈ before, x.stream ≠ k.toNat) → let val (a : Nat) := s.load h k.toNat false a l.size
      (∀ r signed e a, l.dest = .scalar r signed → l.elems = [(e, a)] → l.size ∈ [1, 2, 4, 8] →
        exec (.accessPerforms k) s = .next (s.setHart ({ h with late := before ++ after }.wr r
          (if signed then BitVec.ofInt 64 (BitVec.ofNat (8 * l.size) (val a)).toInt else BitVec.ofNat 64 (val a))))) ∧
      (∀ r m w, l.dest = .vector r m w → grantWidth h.w = true → 0 < w → r + m ≤ 32 → (l.elems.map (fun p => p.1)).Nodup →
        (∀ p ∈ l.elems, w * (p.1 + 1) ≤ 256 * h.w * m) → ∃ h', exec (.accessPerforms k) s = .next (s.setHart h') ∧
          h' = { h with vregs := h'.vregs, late := before ++ after } ∧ (∀ i < 32, h.isBound i = true → h'.v i = h.v i) ∧
          ((∀ i ∈ members r m, h.isBound i = false) → GroupWritten h h' r m w id (fun e => decide (e ∈ l.elems.map (fun p => p.1))) (fun e => val (lookupD l.elems e 0))))) ∧
    (∀ before w after, h.wbuf = before ++ w :: after → w.stream = k.toNat → (∀ x ∈ before, x.stream ≠ k.toNat) →
      w.pad = true ∨ w.addr < barBase → ∃ t : State, exec (.accessPerforms k) s = .next t ∧
        t = { s with hart := t.hart, parked := t.parked, mem := t.mem, pads := t.pads, poison := t.poison
                     padPoison := t.padPoison } ∧
        (∀ x, w.pad = false → (x ∈ t.poison ↔ x ∈ s.poison ∧ (x < w.addr ∨ w.addr + w.data.length ≤ x))) ∧
        (∀ x, w.pad = true → (x ∈ t.padPoison ↔ x ∈ s.padPoison ∧ (x < w.addr ∨ w.addr + w.data.length ≤ x))) ∧
        t.hart = { h with wbuf := before ++ after, watch := t.hart.watch } ∧ t.others = s.others ∧
        t.mem = (if w.pad then s.mem else memStore s.mem w.addr w.data) ∧
        t.pads = if w.pad then memStore s.pads w.addr w.data else s.pads)

/-- Placement: of the harts that could be placed on the core the best, which has the highest effective PRIO and of those entered its
state earliest (R14; of two that entered in one cycle log entry 73 takes one), becomes resident in a context no hart holds, with the
lane groups and rows of its slot, its pc at the resume PC when it was saved, its policy read again, its credits 0 and its watchdog
interval begun; TZI is cleared in the save area of a hart that its domain released, and no other memory changes (R7, R12, R14 to R17,
R22, R216, R260, R267, R270). Which of several free slots it gets is the model's choice (log entry 73). A hart whose save area holds
an uncorrectable error stays saved, a machine-check with DETAIL 1 posted (R256). Where no hart can be placed, each ready one that
finds every context it may have held raises a soft request on the resident hart of the lowest priority below its own, on the lowest
core and context (R14).

An energy tick charges each bound hart its share, once for each µs, and raises a soft request on a hart over a budget that it read and
posts each budget newly reached to its fault domain, also one that holds back only harts without a context (R7, R11, R269). That the
event names the RCB is log entry 31, and that the sums hold retired harts too, log entry 72.

An issue cycle whose turn is a candidate's with credit lets it issue and charges it the occupancy. Else, where a bound hart has weight,
the turn passes to the next such hart, which is refilled, and issues if it is a candidate; if no candidate has weight, the one of weight 0
in the lowest context issues uncharged; where no bound hart has weight, the candidate in the lowest context does, and turn and credits
stay. The hart that issues comes to the focus (R22, R23, R24). That an issue cycle is a step apart is the model's choice (log entry
55). -/
def Obligations.PlacementEnergyIssue : Prop :=
  ∀ (s : State) (core : BitVec 7) (group : BitVec 3), let c := core.toNat
    let g := group.toNat
    let chosenOne := s.best (s.harts.filter (fun h => s.placeable h c))
    (∀ l : List Hart, (l ≠ [] → ∃ x, s.best l = some x) ∧ ∀ x, s.best l = some x → x ∈ l ∧
      ∀ y ∈ l, s.prioOf y ≤ s.prioOf x ∧ (s.prioOf y = s.prioOf x → x.since ≤ y.since)) ∧
    (∀ x, s.areaLost x = true ↔ ∃ r, x.save = some r ∧ r.reserve = false ∧ r.released = false ∧
      ∃ p ∈ saveWords (saveKindOf r.cause) x r, ∃ q, s.translate x.info.asid .read (x.trapbase + BitVec.ofNat 64 p.1) = .ok q ∧
        ∃ i < 8, q.pa + i ∈ s.poison) ∧
    (∀ x, chosenOne = some x → s.areaLost x = true → ∃ (t : State) (e : FdEvent), exec (.hartPlacement core) s = .next t ∧
      t.harts = s.harts.map (fun z => if z.id = x.id then
        { z with st := .saved, save := z.save.map (fun r => { r with lost := true }) } else z) ∧ t.mem = s.mem ∧
      t.events = s.events ++ [e] ∧ e.fdom = x.info.fdom ∧ e.cause = 0x09 ∧ e.detail = 1 ∧ e.rcb = x.id.rcb.setWidth 64) ∧
    (chosenOne = none → (s.harts.map (fun h => h.id)).Nodup → (∀ h ∈ s.harts, h.ctx < 8) → ∀ x ∈ s.harts, x.st = .ready →
      s.mayUse x c = true → s.energyHeld x = false → s.noContext x = true →
      let below (v : Hart) : Prop := v ∈ s.harts ∧ v.st = .resident ∧ s.mayUse x v.core = true ∧ v.info.prio.toNat < s.prioOf x
      ∀ v, below v → (∀ z, below z → z.id = v.id ∨ v.info.prio.toNat < z.info.prio.toNat ∨ v.info.prio = z.info.prio ∧
          (v.core < z.core ∨ v.core = z.core ∧ v.ctx < z.ctx)) →
        ∃ t : State, exec (.hartPlacement core) s = .next t ∧ ∃ y ∈ t.harts, y.id = v.id ∧ y.st = .resident ∧
          ∃ r ∈ y.soft, r.why = .ready x.id) ∧
    (∀ x ctx lg w row, chosenOne = some x → s.areaLost x = false → s.slotFor x c = some (ctx, lg, w, row) →
      let bare (l : List Hart) := l.map (fun z => { z with watch := Watch.none })
      ctx < 8 ∧ s.hartAt c ctx = none ∧ grantWidth w = true ∧ lg + w ≤ 8 ∧ lg % w = 0 ∧
      ∃ (t : State) (y : Hart), exec (.hartPlacement core) s = .next t ∧
        bare t.harts = bare (s.harts.map (fun z => if z.id = x.id then y else z)) ∧
        y.id = x.id ∧ y.st = (if x.handler.isSome then .waiting .emulation else .resident) ∧ y.core = c ∧ y.ctx = ctx ∧
        y.lgb = lg ∧ y.w = w ∧ y.rowBase = row ∧ y.sregs = x.sregs ∧ y.masks = x.masks ∧ y.tiles = x.tiles ∧ y.flags = x.flags ∧
        y.save = none ∧ y.wdogFrom = s.ns ∧ (∀ k < 8, (y.gen k).pos = (x.gen k).pos) ∧
        (∀ r, x.save = some r → y.pc = r.rpc ∧ ∀ k < 8, (y.gen k).ahead = 0) ∧ (x.save = none → y.pc = x.pc) ∧
        (∀ i < w, (t.arb c (lg + i)).credit.getD ctx 0 = 0) ∧
        ((∀ r, x.save = some r → r.released = false ∨ r.reserve = true ∨ r.inHandler = true) →
          t.mem = s.mem ∧ y.info = s.refresh x.id.rcb.toNat x.info) ∧
        (s.MemInv → ∀ r p, x.save = some r → r.released = true → r.reserve = false → r.inHandler = false →
          s.translate x.info.asid .read (x.trapbase + 96) = .ok p → s.translate x.info.asid .write (x.trapbase + 96) = .ok p →
          (∀ i < 8, p.pa + i ∉ s.poison) → p.pa + 8 ≤ barBase → let v := memRead s.mem p.pa 8
          memRead t.mem p.pa 8 = v - v / 2 ^ 8 % 2 ^ 8 * 2 ^ 8 ∧
            ∀ a, (a < p.pa ∨ p.pa + 8 ≤ a) → memGet t.mem a = memGet s.mem a)) ∧
    (s.ns / 1000 ≤ s.lastTick → exec .energyTick s = .next s) ∧
    (s.lastTick < s.ns / 1000 → let m : State := { s with
        hart := if s.hart.onCore then s.hart.spend (s.staticShare s.hart) else s.hart
        parked := s.parked.map (fun h => if h.onCore then h.spend (s.staticShare h) else h), lastTick := s.lastTick + 1 }
      let spent (h : Hart) : List Nat := if h.onCore then m.spentOver h else if h.st = .retired then [] else m.heldOver h
      ∃ t : State, exec .energyTick s = .next t ∧ t.lastTick = s.lastTick + 1 ∧ t.mem = s.mem ∧
        t.harts.map (fun h => (h.id, h.ecnt)) = m.harts.map (fun h => (h.id, h.ecnt)) ∧
        ((∀ h ∈ m.harts, spent h = []) → t.harts = m.harts ∧ t.events = s.events) ∧
        (∀ h ∈ m.harts, h.onCore = true → spent h ≠ [] → ∃ x ∈ t.harts, x.id = h.id ∧
          ∃ q ∈ x.soft, (∃ r ∈ spent h, q.why = .budget r) ∧ (q ∈ h.soft ∨ q.since = s.ns)) ∧
        (∀ h ∈ m.harts, ∀ r ∈ spent h, r < 2 ^ 56 → BitVec.ofNat 56 r ∈ t.exhausted ∧ (BitVec.ofNat 56 r ∉ s.exhausted →
          ∃ e ∈ t.events, e.cause = 0xF0 ∧ e.rcb.toNat = r ∧ e.fdom.toNat = m.effFdom (m.path r) % 2 ^ 16))) ∧
    (∀ x, s.chosenHart c g = some x → exec (.whippletreeIssueCycle core group) s = .next (s.focus x.id)) ∧
    (s.chosenHart c g = none → let a := s.arb c g
      let holder : Prop := 0 < a.credit.getD a.turn 0 ∧ ∃ x, s.arbHart c g a.turn = some x ∧ s.candidateOn g x = true
      let weighted : Prop := ∃ h ∈ s.arbHarts c g, h.info.wght ≠ 0
      let after (turn : Nat) (credit : List Int) (x : Option Hart) : Prop := ∃ t : State,
        exec (.whippletreeIssueCycle core group) s = .next t ∧ t.mem = s.mem ∧
        t.arb c g = { turn := turn, credit := credit, chosen := x.map (fun h => h.ctx) } ∧ t.hart.id = (x.getD s.hart).id ∧
        ((s.harts.map (fun h => h.id)).Nodup → ∀ h, h ∈ t.harts ↔ h ∈ s.harts)
      let charged (l : List Int) (x : Hart) (v : Int) : List Int :=
        l.set x.ctx (v - ((s.headOn g x).map (fun w => x.occupancy w)).getD 0)
      let lowest (p : Hart → Prop) (x : Hart) : Prop := x.ctx < 8 ∧ s.arbHart c g x.ctx = some x ∧ s.candidateOn g x = true ∧ p x ∧
        ∀ k < x.ctx, ∀ y, s.arbHart c g k = some y → s.candidateOn g y = true → ¬ p y
      let noCandidate (p : Hart → Prop) : Prop := ∀ k < 8, ∀ y, s.arbHart c g k = some y → s.candidateOn g y = true → ¬ p y
      (∀ x, s.arbHart c g a.turn = some x → s.candidateOn g x = true → 0 < a.credit.getD a.turn 0 →
        after a.turn (charged a.credit x (a.credit.getD a.turn 0)) (some x)) ∧
      (¬ holder → weighted → ∀ n y, s.nextTurn c g a.turn = some n → s.arbHart c g n = some y →
        let cr : List Int := if (∃ x, s.arbHart c g a.turn = some x ∧ s.candidateOn g x = true) then a.credit
          else a.credit.set a.turn (min (a.credit.getD a.turn 0) 0)
        let wght : Int := y.info.wght.toNat
        let refill : Int := min (cr.getD n 0 + 4 * wght) (4 * wght)
        (s.candidateOn g y = true → n < a.credit.length → let v := if refill ≤ 0 then 1 else refill
          after n (charged (cr.set n v) y v) (some y)) ∧
        (s.candidateOn g y = false → ¬ noCandidate (fun h => h.info.wght ≠ 0) → after n (cr.set n refill) none) ∧
        (s.candidateOn g y = false → noCandidate (fun h => h.info.wght ≠ 0) →
          (∀ z, lowest (fun h => h.info.wght = 0) z → after n (cr.set n refill) (some z)) ∧
          (noCandidate (fun h => h.info.wght = 0) → after n (cr.set n refill) none))) ∧
      (¬ holder → ¬ weighted → (∀ z, lowest (fun _ => True) z → after a.turn a.credit (some z)) ∧
        (noCandidate (fun _ => True) → after a.turn a.credit none)))

/-- A copy job whose earlier conflicts are done copies its elements one after another in nest order, each read and written inside its
declared regions with its bytes unchanged, then writes its completion word, or marks the code tables it wrote for a swap. An element
that is misaligned or outside the regions, or that fails a check, ends the job: the elements before it stand, the fault goes to the
issuer's domain, and the completion word is all ones. A footprint job does nothing else than complete. A swap makes the shadow bank
live and advances CTGEN, and a job all of whose tables have swapped then completes (R205, R207, R208, R248, R250 to R252). That
regions of two jobs are compared by their addresses alone is the model's choice (log entry 96), and that an instruction which a fault
stopped part-way holds the swap until it completes is its reading of R252 (log entry 106). -/
def Obligations.EngineJobs : Prop :=
  ∀ (s : State) (id : BitVec 64) (j : Job) (core : BitVec 7), s.MemInv → let d := dw j.card.toNat
    let dims := List.range (d 21 % 16 + 1)
    let cnt := dims.map (fun k => d (23 + 2 * k) % 2 ^ 32)
    let total := cnt.foldl (· * ·) 1
    let src (k : Nat) : Int := toSigned 32 (d (22 + 2 * k) / 2 ^ 32)
    let dst (k : Nat) : Int := toSigned 32 (d (22 + 2 * k) % 2 ^ 32)
    let offset (f : Nat → Int) (i : Nat) : Int := strideSum (fun _ => true) (nestIndex cnt i) (dims.map f)
    let n := 2 ^ (d 21 / 256 % 4)
    let read (t : State) (i : Nat) := t.jobRead j (resolveSpace j.core (d 19)) (d 19 % 2 ^ 56 + offset src i) n
    let write (t : State) (i : Nat) (bs : List Byte) :=
      t.jobWrite j (resolveSpace j.core (d 20)) (d 20 % 2 ^ 56 + offset dst i) bs
    let copied (σ : Nat → State) (m : Nat) : Prop := σ 0 = s ∧ ∀ i < m, ∃ bs, read (σ i) i = .ok bs ∧ write (σ i) i bs = .ok (σ (i + 1))
    let ca := d 1 % 2 ^ 56
    let word (v : Nat) (m : List Host.Cell) (t : State) : Prop := (ca = 0 → t.mem = m) ∧
      ∀ p, s.engineAccess j.asid .write 8 (BitVec.ofNat 64 ca) = .ok p → ca ≠ 0 → p.pa + 8 ≤ barBase →
        t.mem = memStore m p.pa (natLe 8 v)
    let region (x : Job) (k : Nat) : Region := let d := dw x.card.toNat
      { space := resolveSpace x.core (d (3 + 2 * k)), base := d (3 + 2 * k) % 2 ^ 56, len := d (4 + 2 * k) % 2 ^ 48 }
    let reads (x : Job) := (List.range (dw x.card.toNat 0 / 2 ^ 56 % 8)).map (region x)
    let writes (x : Job) := (List.range (dw x.card.toNat 0 / 2 ^ 52 % 8)).map (fun k => region x (4 + k))
    let share (x y : Region) : Prop := x.space = y.space ∧ x.len ≠ 0 ∧ y.len ≠ 0 ∧
      (x.space.1 = 3 ∨ x.base < y.base + y.len ∧ y.base < x.base + x.len)
    (s.jobReady j = true ↔ ∀ x ∈ s.jobs, x.core = j.core → x.id < j.id → x.done = false →
      (∀ a ∈ writes x, ∀ b ∈ reads j ++ writes j, ¬share a b) ∧ ∀ a ∈ reads x, ∀ b ∈ writes j, ¬share a b) ∧
    (s.jobs.find? (fun x => x.id == id.toNat && !x.done && !x.payloadDone && x.kind == 0) = some j → s.jobReady j = true →
      ∀ σ : Nat → State,
      (copied σ total → ∃ t : State, exec (.copyJob id) s = .next t ∧ t.pads = (σ total).pads ∧ t.jobs = s.jobs.map (fun x =>
          if x.id = j.id then { x with payloadDone := true, done := if j.tables.isEmpty then true else x.done } else x) ∧
        (j.tables = [] → word (d 2) (σ total).mem t) ∧ (j.tables ≠ [] → t.mem = (σ total).mem) ∧
        ∀ c ∈ j.tables, (t.codeTab c).swapPending = true) ∧
      (∀ m f, m < total → copied σ m → (read (σ m) m = .error f ∨ ∃ bs, read (σ m) m = .ok bs ∧ write (σ m) m bs = .error f) →
        ∃ (t : State) (e : FdEvent) (more : List FdEvent), exec (.copyJob id) s = .next t ∧ t.pads = (σ m).pads ∧
          t.codeTabs = (σ m).codeTabs ∧ word (2 ^ 64 - 1) (σ m).mem t ∧
          t.jobs = s.jobs.map (fun x => if x.id = j.id then { x with failed := true, done := true } else x) ∧
          t.events = s.events ++ e :: more ∧ e.fdom = j.fdom ∧ e.cause = f.cause ∧ e.detail = f.detail ∧
          e.rcb = j.who.rcb.setWidth 64 ∧ e.hidx = j.who.hidx)) ∧
    (∀ (sp : Nat × Nat) (addr : Int) (n : Nat) (bs : List Byte), bs.length = n → let va := BitVec.ofInt 64 addr
      let a := va.toNat
      let inside (l : List Region) : Prop := ∃ r ∈ l, r.space = sp ∧ r.base ≤ a ∧ a + n ≤ r.base + r.len
      let pad := sp.2 * padBytes + a
      (a % n ≠ 0 → s.jobRead j sp addr n = .error ⟨cAlign, 0, va⟩ ∧ s.jobWrite j sp addr bs = .error ⟨cAlign, 0, va⟩) ∧
      (a % n = 0 → (¬inside (reads j) → s.jobRead j sp addr n = .error ⟨cProt, 0, va⟩) ∧
        (¬inside (writes j) → s.jobWrite j sp addr bs = .error ⟨cProt, 0, va⟩) ∧
        (inside (reads j) → (sp.1 = 0 → ∀ p, s.engineAccess j.asid .read n va = .ok p →
            s.jobRead j sp addr n = .ok (memBytes s.mem p.pa n)) ∧
          (sp.1 = 1 → a + n ≤ padBytes → (∀ i < n, pad + i ∉ s.padPoison) → s.jobRead j sp addr n = .ok (memBytes s.pads pad n))) ∧
        (inside (writes j) → (sp.1 = 0 → ∀ p, s.engineAccess j.asid .write n va = .ok p → p.pa + n ≤ barBase → ∃ t : State,
            s.jobWrite j sp addr bs = .ok t ∧ t.mem = memStore s.mem p.pa bs ∧ t.pads = s.pads ∧ t.codeTabs = s.codeTabs) ∧
          (sp.1 = 1 → a + n ≤ padBytes → ∃ t : State, s.jobWrite j sp addr bs = .ok t ∧ t.mem = s.mem ∧
            t.pads = memStore s.pads pad bs ∧ t.codeTabs = s.codeTabs) ∧
          (sp.1 = 3 → a + n ≤ 64 → ∃ t : State, s.jobWrite j sp addr bs = .ok t ∧ t.mem = s.mem ∧ t.pads = s.pads ∧
            (∀ c, c ≠ sp.2 → t.codeTab c = s.codeTab c) ∧ (t.codeTab sp.2).live = (s.codeTab sp.2).live ∧
            ∀ o < 64, bankByte (t.codeTab sp.2).shadow o = if a ≤ o ∧ o < a + n then bs.getD (o - a) 0
              else bankByte (s.codeTab sp.2).shadow o)))) ∧
    (s.jobs.find? (fun x => x.id == id.toNat && !x.done && x.kind == 1) = some j →
      (s.jobReady j = false → exec (.footprintComplete id) s = .next s) ∧
      (s.jobReady j = true → ∃ t : State, exec (.footprintComplete id) s = .next t ∧ word (d 2) s.mem t ∧ t.contexts = s.contexts ∧
        t.jobs = s.jobs.map (fun x => if x.id = j.id then { x with done := true } else x))) ∧
    (let tab := s.codeTab core.toNat
      let isOver (x : Job) : Prop := x.payloadDone = true ∧ x.done = false ∧
        ∀ c ∈ x.tables, c = core.toNat ∨ (s.codeTab c).swapPending = false
      (tab.swapPending = false → exec (.codeTableSwap core) s = .next s) ∧
      (tab.swapPending = true → (∃ h ∈ s.harts, h.core = core.toNat ∧ s.midCode h = true) → exec (.codeTableSwap core) s = .next s) ∧
      (∀ h : Hart, let under (h : Hart) (ctr : List (BitVec 16)) (skip : List Nat) : Prop :=
          ((ctr ≠ ctrWhole ∧ ∃ c ∈ ctr, c ≠ 0xFFFF) ∨ ∃ n ∈ skip, n ≠ 0) ∧ s.captures 64 h (skip.foldl max 0) = true;
        (s.midCode h = true ↔ h.st ≠ .retired ∧ ((∃ r, h.restart = some r ∧ under h r.ctr r.skip) ∨
          ∃ r, h.save = some r ∧ r.vec = true ∧ r.rpc = r.pc ∧ under { h with pc := r.pc } r.ctr r.skip))) ∧
      (tab.swapPending = true → (∀ h ∈ s.harts, h.core = core.toNat → s.midCode h = false) →
        ∃ t : State, exec (.codeTableSwap core) s = .next t ∧ t.codeTab core.toNat = { live := tab.shadow, shadow := tab.shadow, gen := tab.gen + 1, swapPending := false } ∧
        t.contexts = s.contexts ∧ (∀ c, c ≠ core.toNat → t.codeTab c = s.codeTab c) ∧
        ((∀ x ∈ s.jobs, ¬isOver x) → t.mem = s.mem ∧ t.jobs = s.jobs) ∧
        (j ∈ s.jobs → (s.jobs.map (fun x => x.id)).Nodup → isOver j → (∀ x ∈ s.jobs, isOver x → x = j) → word (d 2) s.mem t ∧
          t.jobs = s.jobs.map (fun x => if x.id = j.id then { x with done := true } else x))))

/-- A page that is not pinned is evicted with its translations, every accepted access having performed. An unconsumed error of memory
or of a scratchpad is reported to domain 0 and gone (log entry 65). A remap takes a spare of the unit's group, numbered as log entry 58 says, which the unit then
stands on; it journals that with kind 2 and raises soft requests on the harts concerned; with none left, and for a lost port, domain 0
is told; a number that names no unit in service, and a spare that is taken or not there, change nothing. The event codes are free
values (log entry 8) (R1, R2, R213, R214, R333, R342, R343).

The oldest event of a domain is written whole to the next entry of its ring, then TAIL; while the ring is full (the model's reading
of its counts, log entry 29) or the domain has none, it waits (R334). -/
def Obligations.ErrorsAndEvents : Prop :=
 (∀ (s : State) (asid spare : BitVec 16) (va : BitVec 56) (pa : BitVec 52) (kind : SpareKind) (unit : BitVec 32) (port : BitVec 4),
    let told (t : State) (code : Nat) : Prop := ∃ e, t.events = s.events ++ [e] ∧ e.fdom = 0 ∧ e.cause = Config.eventCause code ∧
      e.rcb = 0 ∧ e.time = BitVec.ofNat 64 s.ns
    let in_ (x : Page) : Prop := x.asid = asid ∧ x.vbase.toNat ≤ va.toNat ∧ va.toNat < x.vbase.toNat + pageBytes x.size
    (∀ p, s.pages.find? (fun x => pageCovers x asid va.toNat) = some p →
      (p.pinned = true → exec (.eviction asid va) s = .next s) ∧
      (p.pinned = false → ∃ t : State, exec (.eviction asid va) s = .next t ∧ (∀ x, x ∈ t.pages ↔ x ∈ s.pages ∧ ¬in_ x) ∧
        (∀ x, x ∈ t.tlb ↔ x ∈ s.tlb ∧ ¬in_ x) ∧
        ((s.harts.map (fun h => h.id)).Nodup → ∀ h ∈ t.harts, h.wbuf = [] ∧ h.late = []))) ∧
    (pa.toNat ∈ s.poison → ∃ t : State, exec (.unconsumedError (.mem pa)) s = .next t ∧
      t = { s with poison := t.poison, events := t.events } ∧ (∀ x, x ∈ t.poison ↔ x ∈ s.poison ∧ x ≠ pa.toNat) ∧ told t 1) ∧
    (pa.toNat ∈ s.padPoison → ∃ t : State, exec (.unconsumedError (.pad pa)) s = .next t ∧
      t = { s with padPoison := t.padPoison, events := t.events } ∧ (∀ x, x ∈ t.padPoison ↔ x ∈ s.padPoison ∧ x ≠ pa.toNat) ∧
      told t 1) ∧
    (pa.toNat ∉ s.poison → exec (.unconsumedError (.mem pa)) s = .next s) ∧
    (pa.toNat ∉ s.padPoison → exec (.unconsumedError (.pad pa)) s = .next s) ∧
    (let group := (spareGroup kind unit.toNat).1
      let size := (spareGroup kind unit.toNat).2
      let used := s.remaps.filter (fun x => decide (x.kind = kind) && x.group == group)
      let i : Instr := .spareRemap kind unit spare
      (unitInService kind unit.toNat = false → exec i s = .next s) ∧
      (unitInService kind unit.toNat = true →
        (size ≤ used.length → ∃ t : State, exec i s = .next t ∧ t = { s with events := t.events } ∧ told t 2) ∧
        (used.length < size → size ≤ spare.toNat ∨ (∃ x ∈ used, x.spare = spare.toNat) → exec i s = .next s) ∧
        (used.length < size → spare.toNat < size → (∀ x ∈ used, x.spare ≠ spare.toNat) →
          ∃ (t : State) (e : JEntry), exec i s = .next t ∧
            t.remaps = { kind := kind, unit := unit.toNat, group := group, spare := spare.toNat } :: s.remaps ∧
            t.journal.getLast? = some e ∧ e.kind = 2 ∧ t.mem = s.mem ∧ let why := SoftWhy.spare kind unit.toNat
            t.harts = s.harts.map (fun h =>
              if spareAffects kind unit.toNat h ∧ h.onCore ∧ (∀ r ∈ h.soft, r.why ≠ why) then
                { h with soft := h.soft ++ [{ since := s.ns, why := why }] } else h)))) ∧
    (port.toNat < 12 → port ∉ s.portsLost → ∃ t : State, exec (.peerPortLost port) s = .next t ∧
      t = { s with portsLost := port :: s.portsLost, events := t.events } ∧ told t 3)) ∧
 (∀ (s : State) (fdom : BitVec 16), (∀ r ∈ s.rings, r.fdom ≠ fdom) ∨ (∀ e ∈ s.events, e.fdom ≠ fdom) →
    exec (.eventRingPost fdom) s = .next s) ∧
 (∀ (s : State) (fdom : BitVec 16) (r : FdRing) (before after : List FdEvent) (e : FdEvent), s.MemInv →
    s.rings.find? (fun x => decide (x.fdom = fdom)) = some r → s.events = before ++ e :: after → e.fdom = fdom →
    (∀ x ∈ before, x.fdom ≠ fdom) → r.base.toNat + 64 + 64 * 2 ^ r.log2 ≤ hbmBytes →
    let tail := memRead s.mem r.base.toNat 8
    let head := memRead s.mem (r.base.toNat + 8) 8
    let held := (tail + 2 ^ 64 - head) % 2 ^ 64
    let slot := r.base.toNat + 64 + 64 * (tail % 2 ^ r.log2)
    (2 ^ r.log2 ≤ held → exec (.eventRingPost fdom) s = .next s) ∧
    (held < 2 ^ r.log2 → ∃ t : State, exec (.eventRingPost fdom) s = .next t ∧ t.events = before ++ after ∧ t.contexts = s.contexts ∧
      memRead t.mem slot 8 = e.cause.toNat + e.detail.toNat * 2 ^ 8 ∧ memRead t.mem (slot + 8) 8 = e.rcb.toNat ∧
      memRead t.mem (slot + 16) 8 = e.hidx.toNat ∧ memRead t.mem (slot + 24) 8 = e.trapbase.toNat ∧
      memRead t.mem (slot + 32) 8 = e.time.toNat ∧ memRead t.mem (slot + 40) 8 = e.frame.toNat ∧
      memRead t.mem r.base.toNat 8 = (tail + 1) % 2 ^ 64 ∧
      ∀ x, (x < r.base.toNat ∨ r.base.toNat + 8 ≤ x) → (x < slot ∨ slot + 64 ≤ x) → memGet t.mem x = memGet s.mem x))

/-- The staged start: good firmware is verified, then S1, whose start begins the beats, then S2, in which dies join, then its end;
each change of stage or dies has a journal entry of kind 5. The power state goes to the deepest one allowed (R317, R338, R339). That
the verification's result is given and noted in a step of its own, and that the start ends in one, is the model's choice (log entry
15). -/
def Obligations.StartAndPower : Prop :=
  ∀ (s : State) (die : BitVec 2), let noted (t : State) : Prop := ∃ e, t.journal.getLast? = some e ∧ e.kind = 5 ∧ e.seq = s.jhead
    (s.stage = 0 → s.firmwareGood = false → exec .startStage s = .next s) ∧
    (s.stage = 0 → s.firmwareGood = true → s.verified = false → exec .startStage s = .next { s with verified := true }) ∧
    (s.stage = 0 → s.firmwareGood = true → s.verified = true → ∃ t : State, exec .startStage s = .next t ∧
      t = { s with stage := 1, beatFrom := s.ns, beatNo := 0, journal := t.journal, jhead := s.jhead + 1 } ∧ noted t) ∧
    (s.stage = 1 → ∃ t : State, exec .startStage s = .next t ∧
      t = { s with stage := 2, journal := t.journal, jhead := s.jhead + 1 } ∧ noted t) ∧
    (2 ≤ s.stage → exec .startStage s = .next { s with startDone := true }) ∧
    (s.stage = 2 → s.startDone = false → s.joined.getLsbD die.toNat = false → ∃ t : State, exec (.dieJoin die) s = .next t ∧
      t = { s with joined := t.joined, journal := t.journal, jhead := s.jhead + 1 } ∧ noted t ∧
      ∀ d < 4, t.joined.getLsbD d = (s.joined.getLsbD d || d == die.toNat)) ∧
    (∃ t : State, exec .powerStateChange s = .next t ∧ t.pstate.toNat = s.deepest ∧
      t.queues = s.queues ∧ t.contexts = s.contexts ∧ t.mem = s.mem) ∧
    (∀ p ≤ 4, (p = s.deepest ↔ (p = 0 ∨ (∀ q ∈ s.queues, q.enabled = true → exitLatency p ≤ q.ltol.toNat) ∧
        (3 ≤ p → s.launches = [])) ∧
      ∀ p' ≤ 4, p < p' → ¬((∀ q ∈ s.queues, q.enabled = true → exitLatency p' ≤ q.ltol.toNat) ∧ (3 ≤ p' → s.launches = []))))

/-- A write of AQCTL keeps the bits that name something and, when it enables queue 0 anew, makes it at AQBASE; AQBASE is written only
while queue 0 is disabled; a doorbell sets the tail of an enabled queue without an error, and one that runs past its size puts the
queue into its error state, journalled as R328 says for a ring that cannot be read (log entry 41); other offsets ignore the write
(R326, R327, R328; a size outside 4 to 16 enables nothing, log entry 18, and AQBASE takes a value that is no multiple of 4 KiB too, log
entry 111).

A packet at the head of an enabled queue, in a stage that accepts its command, is copied whole, journalled with kind 0 and
accepted, and the head moves past it; a command the stage does not accept stays, and so does every packet of a queue that an accepted
QDESTROY names; a packet that cannot be read puts the queue into its error state (R327, R328, R330, R332, R339). Where memory's bytes
end is log entry 71.

A packet whose OPC is not listed, and, where the firmware has failed verification, one of queue 0 that is no QDESTROY, is accepted and
completes at once with outcome 1, without effect (R330, R339). -/
def Obligations.RegistersAndPackets : Prop :=
 (∀ (s : State) (q : BitVec 8) (tail : BitVec 32) (off : BitVec 16) (v : BitVec 64), let k := v.toNat % 2 ^ 5
    let off0 : Prop := ∀ x, s.queue? 0 = some x → x.enabled = false
    (∃ t : State, exec (.aqctl v) s = .next t ∧ t.aqctl = v &&& 0xFFFFFFFF0000011F ∧ t.aqbase = s.aqbase ∧ t.mem = s.mem ∧
      t.contexts = s.contexts ∧
      (off0 → v.getLsbD 8 = true → 4 ≤ k → k ≤ 16 → ∃ x, t.queue? 0 = some x ∧ x.base = s.aqbase ∧ x.log2 = k ∧ x.tail = 0 ∧
        x.head = 0 ∧ x.enabled = true ∧ x.ltol = v.extractLsb' 32 32) ∧
      (∀ x, s.queue? 0 = some x → x.enabled = true → v.getLsbD 8 = true → 4 ≤ k → k ≤ 16 →
        t.queue? 0 = some { x with log2 := k, ltol := v.extractLsb' 32 32 }) ∧
      (v.getLsbD 8 = false ∨ k < 4 ∨ 16 < k → ∀ x, t.queue? 0 = some x → x.enabled = false)) ∧
    (∀ x, s.queue? q.toNat = some x → x.enabled = true → x.err = false → ∃ t : State, exec (.tailq q tail) s = .next t ∧
      t.queue? q.toNat = some { x with tail := tail, err := decide (2 ^ x.log2 < (tail - x.head).toNat) } ∧ t.mem = s.mem ∧
      t.contexts = s.contexts ∧ ((tail - x.head).toNat ≤ 2 ^ x.log2 → t.journal = s.journal ∧ t.events = s.events) ∧
      (2 ^ x.log2 < (tail - x.head).toNat → ∃ e, t.journal.getLast? = some e ∧ e.kind = 6 ∧ e.outcome = 7)) ∧
    ((s.queue? q.toNat = none ∨ ∃ x, s.queue? q.toNat = some x ∧ (x.enabled = false ∨ x.err = true)) →
      exec (.tailq q tail) s = .next s) ∧
    (off = 8 → off0 → exec (.registerWrite off v) s = .next { s with aqbase := v }) ∧
    (off = 8 → ¬off0 → exec (.registerWrite off v) s = .next s) ∧
    (off = 16 → exec (.registerWrite off v) s = exec (.aqctl v) s) ∧
    (off.toNat = 4096 + 16 * q.toNat → exec (.registerWrite off v) s = exec (.tailq q (v.setWidth 32)) s) ∧
    (off ≠ 8 → off ≠ 16 → (∀ q : Nat, q < 256 → off.toNat ≠ 4096 + 16 * q) → exec (.registerWrite off v) s = .next s)) ∧
 (∀ (s : State) (q : BitVec 8) (x : Queue), s.queue? q.toNat = some x → x.enabled = true → x.err = false → x.stopped = false →
    x.head ≠ x.tail → let a := x.base.toNat + 64 * (x.head.toNat % 2 ^ x.log2)
    let op := memRead s.mem a 1
    (s.destroyed q.toNat = true → exec (.packetFetch q) s = .next s) ∧
    (s.destroyed q.toNat = true ↔ ∃ c ∈ s.cmds, c.opc = 2 ∧ c.queue = 0 ∧ c.clean [0x1FF] = true ∧ c.d 1 % 256 = q.toNat) ∧
    (s.destroyed q.toNat = false → hbmBytes < a + 64 ∨ (∃ i < 64, a + i ∈ s.poison) → ∃ (t : State) (e : JEntry),
      exec (.packetFetch q) s = .next t ∧ t.queue? q.toNat = some { x with err := true } ∧ t.cmds = s.cmds ∧
      t.journal.getLast? = some e ∧ e.kind = 6 ∧ e.outcome = 7) ∧
    (s.destroyed q.toNat = false → s.MemInv → a + 64 ≤ hbmBytes → (∀ i < 64, s.poison.contains (a + i) = false) →
      let turned : Prop := s.stage = 0 ∧ s.firmwareGood = false ∧ q = 0
      (1 ≤ op → op ≤ 15 → stageAccepts s.stage op = false → ¬turned → exec (.packetFetch q) s = .next s) ∧
      (1 ≤ op → op ≤ 15 → stageAccepts s.stage op = true → ¬turned ∨ op = 2 → ∃ (t : State) (c : Cmd) (e : JEntry), exec (.packetFetch q) s = .next t ∧
        t.cmds = s.cmds ++ [c] ∧ c.seq = s.jhead ∧ c.queue = q.toNat ∧ c.began = false ∧
        (∀ i < 8, (c.pkt.toList.getD i 0).toNat = memRead s.mem (a + 8 * i) 8) ∧
        t.queue? q.toNat = some { x with head := x.head + 1 } ∧ t.journal.getLast? = some e ∧ e.kind = 0 ∧ e.seq = s.jhead ∧
        e.opc = BitVec.ofNat 8 op ∧ t.jhead = s.jhead + 1 ∧ t.mem = s.mem ∧ t.contexts = s.contexts) ∧
      (op = 0 ∨ 15 < op ∨ turned ∧ op ≠ 2 → ∃ (t : State) (e : JEntry), exec (.packetFetch q) s = .next t ∧
        t.cmds = s.cmds.filter (fun c => decide (c.seq ≠ s.jhead)) ∧ t.queue? q.toNat = some { x with head := x.head + 1 } ∧
        t.jhead = s.jhead + 2 ∧ t.journal.getLast? = some e ∧ e.kind = 1 ∧ e.outcome = 1 ∧ e.detail = s.jhead ∧
        t.contexts = s.contexts ∧ let done := memRead s.mem (a + 56) 8 % 2 ^ 56
        ∀ y, (y < done ∨ done + 8 ≤ y) → memGet t.mem y = memGet s.mem y)))

/-- The host's and peers' writes and a peer's atomics change the bytes they name and no other; their reads change nothing; a lost port
serves nothing, and an atomic that is not naturally aligned, or of a type its operation does not take, is no request. The host's change
of a page puts it in force in place of those it overlaps, or for later translations only where the old one is still cached (R210, R212,
R327, R343; the page tables' form is log entry 6, where memory's bytes end is log entry 71, and that a peer's floating-point addition
rounds to nearest is log entry 89). That a lost port serves nothing more (log entry 28), and that such an atomic is no request (log entry
112), are the model's choices.

The window of BAR2 shows the journal's last entries and the seed log's, each whole at its place of its ring (R89, R326, R332). -/
def Obligations.OutsideAccesses : Prop :=
 (∀ (s : State) (port : BitVec 4) (pa : BitVec 52) (n : BitVec 16) (bs : List Byte) (o : BitVec 3) (wide : Bool) (v x : BitVec 64)
    (vo : BitVec 2) (tag : BitVec 5) (p : Page) (old : Bool), s.MemInv →
    let served : Prop := port.toNat < 12 ∧ port ∉ s.portsLost
    let wrote (t : State) (bs : List Byte) : Prop := t.mem = memStore s.mem pa.toNat bs ∧ t.contexts = s.contexts ∧
      t.pages = s.pages ∧ t.kv = s.kv
    let k := if wide then 8 else 4
    let ty : Ty := ⟨tag.toNat, 0⟩
    let op : VAmo := [VAmo.add, .min, .max].getD vo.toNat .swap
    (pa.toNat + n.toNat ≤ hbmBytes → exec (.hostMemoryAccess (.read pa n)) s = .next s ∧
      exec (.peerPortRequest port (.read pa n)) s = .next s) ∧
    (∀ f, exec (.hostMemoryAccess (.readWindow f n)) s = .next s) ∧
    (pa.toNat + bs.length ≤ hbmBytes → (∃ t : State, exec (.hostMemoryAccess (.write pa bs)) s = .next t ∧ wrote t bs) ∧
      (served → ∃ t : State, exec (.peerPortRequest port (.write pa bs)) s = .next t ∧ wrote t bs)) ∧
    (¬served → ∀ op, exec (.peerPortRequest port op) s = .next s) ∧
    (served → pa.toNat % k = 0 → pa.toNat + k ≤ hbmBytes → ∃ t : State, exec (.peerPortRequest port (.amo o wide pa v x)) s = .next t ∧
      wrote t (natLe k (peerAmo o k (memRead s.mem pa.toNat k) (v.toNat % 2 ^ (8 * k)) (x.toNat % 2 ^ (8 * k))))) ∧
    (pa.toNat % k ≠ 0 → exec (.peerPortRequest port (.amo o wide pa v x)) s = .next s) ∧
    (served → op.accepts ty = true → pa.toNat % (ty.w / 8) = 0 → pa.toNat + ty.w / 8 ≤ hbmBytes →
      ∃ t : State, exec (.peerPortRequest port (.vamo vo tag pa v)) s = .next t ∧ wrote t (natLe (ty.w / 8)
        (op.apply ty RNE (memRead s.mem pa.toNat (ty.w / 8)) (v.toNat % 2 ^ ty.w)).1)) ∧
    (op.accepts ty = false ∨ pa.toNat % (ty.w / 8) ≠ 0 → exec (.peerPortRequest port (.vamo vo tag pa v)) s = .next s) ∧
    (pageAligned p = false → exec (.hostMemoryAccess (.setPage p old)) s = .next s) ∧
    (pageAligned p = true → exec (.hostMemoryAccess (.setPage p old)) s = .next { s with
      pages := p :: s.pages.filter (fun y => !pagesMeet p y),
      tlb := if old then s.pages.filter (pagesMeet p) ++ s.tlb else s.tlb.filter (fun y => !pagesMeet p y) }) ∧
    (∀ asid va, exec (.hostMemoryAccess (.dropPage asid va old)) s = .next { s with
      pages := s.pages.filter (fun y => !pageCovers y asid va.toNat),
      tlb := if old then s.pages.filter (fun y => pageCovers y asid va.toNat) ++ s.tlb
        else s.tlb.filter (fun y => !pageCovers y asid va.toNat) })) ∧
 (∀ s : State, (∀ o, (s.windowByte o).toNat = s.windowWord (o / 8) / 2 ^ (8 * (o % 8)) % 2 ^ 8) ∧
    (∀ before e after, s.journal = before ++ e :: after → s.journal.length ≤ 1048576 → s.journal.length ≤ s.jhead.toNat →
      let at_ (i : Nat) := s.windowWord (8 * ((s.jhead.toNat - after.length - 1) % 1048576) + i)
      at_ 0 = e.seq.toNat ∧ at_ 1 = e.time.toNat ∧ at_ 3 = e.detail.toNat ∧
      at_ 2 = e.queue.toNat + e.opc.toNat * 2 ^ 8 + e.kind.toNat * 2 ^ 16 + e.outcome.toNat * 2 ^ 32 ∧
      ∀ i < 4, at_ (4 + i) = e.chain.toNat / 2 ^ (64 * i) % 2 ^ 64) ∧
    (∀ before e after, s.seedLog = before ++ e :: after → s.seedLog.length ≤ 4096 → s.seedLog.length ≤ s.seedCount.toNat →
      let at_ (i : Nat) := s.windowWord (0x800000 + 4 * ((s.seedCount.toNat - after.length - 1) % 4096) + i)
      at_ 0 = e.seedv.toNat ∧ at_ 1 = e.rcb.toNat ∧ at_ 3 = e.time.toNat ∧
      at_ 2 = e.hidx.toNat + e.loc.toNat * 2 ^ 32 + e.ctx.toNat * 2 ^ 40))

/-- The frame of every command: nothing happens while no accepted command of its OPC is in hand or while one of its queue accepted
earlier has not begun (for BAR, completed); one whose reserved bits are not zero completes with outcome 1 (R329, R330, R331). That the
bits of its operands that the command does not name are reserved is the model's reading (log entry 44). -/
def Obligations.CommandFrame : Prop :=
  ∀ (s : State) (op : Nat) (i : Instr) (ms : List Nat), s.MemInv → let w := 2 ^ 64 - 1
    (op, i, ms) ∈ [(1, Instr.qcreate, [w, 0xFFFFFFFF00001FFF]), (2, .qdestroy, [0x1FF]), (3, .load, [w, w, w]), (4, .unload, [w]),
      (5, .launch, [w, w]), (6, .release, [w, 0xFFFFFFFF]), (7, .cancel, [w, 0x1FFFFFFFF]), (8, .preempt, [w, 1]),
      (9, .tlbinv, [0xFFFF, w, w]), (10, .kvmap, [w, 0xFFFF]), (11, .asidcfg, [0xFFFF, w, w, 0x1F]),
      (12, .fdring, [0xFFFF, w, 0x1F]), (13, .setbeat, [w]), (14, .setltol, [0xFF, 0xFFFFFFFF]), (15, .kvevict, [w, 0xFFFF])] →
    (s.handCmd op = none → exec i s = .next s) ∧
    (∀ c, s.handCmd op = some c → c ∈ s.cmds ∧ c.opc = op ∧ s.inHand = some c.seq ∧
      (c.began = false → (if c.bar then ∃ x ∈ s.cmds, x.queue = c.queue ∧ x.seq.toNat < c.seq.toNat
        else ∃ x ∈ s.cmds, x.queue = c.queue ∧ x.seq.toNat < c.seq.toNat ∧ x.began = false) → exec i s = .next s) ∧
      ((c.began = true ∨ s.mayBegin c = true) → ((∃ n < 6, c.d (n + 1) &&& (2 ^ 64 - 1 - ms.getD n 0) ≠ 0) ∨
          c.d 0 / 2 ^ 9 % 2 ^ 23 ≠ 0 ∨ c.d 7 / 2 ^ 56 % 2 ^ 8 ≠ 0) →
        ∃ t : State, exec i s = .next t ∧ QuietlyCompletes s t c 1))

/-- QCREATE makes a queue, QDESTROY stops one and takes it away once no launch of it is left, SETLTOL sets its latency tolerance, for
queue 0 in AQCTL too; a bad value has outcome 1 (R330, R338). Outcome 5 for a queue that is there already, and for one that is not
there, is the model's choice (log entry 52). -/
def Obligations.QueueCommands : Prop :=
  ∀ (s : State) (c : Cmd), s.MemInv → let q := c.d 2 % 256
    let k := c.d 2 / 256 % 32
    let d := c.d 1 % 256
    (s.handed 1 [2 ^ 64 - 1, 0xFFFFFFFF00001FFF] c →
      (c.queue ≠ 0 ∨ q = 0 ∨ k < 4 ∨ 16 < k ∨ c.d 1 % 4096 ≠ 0 → ∃ t : State, exec .qcreate s = .next t ∧ QuietlyCompletes s t c 1) ∧
      (c.queue = 0 → q ≠ 0 → 4 ≤ k → k ≤ 16 → c.d 1 % 4096 = 0 →
        ((s.queue? q).isSome = true → ∃ t : State, exec .qcreate s = .next t ∧ QuietlyCompletes s t c 5) ∧
        (s.queue? q = none → ∃ (t : State) (x : Queue), exec .qcreate s = .next t ∧ QuietlyCompletes s t c 0 ∧ t.queues = s.queues ++ [x] ∧
          x.id = q ∧ x.base.toNat = c.d 1 ∧ x.log2 = k ∧ x.tail = 0 ∧ x.head = 0 ∧ x.enabled = true ∧ x.err = false ∧
          x.ltol.toNat = c.d 2 / 2 ^ 32))) ∧
    (s.handed 2 [0x1FF] c →
      (c.queue ≠ 0 → ∃ t : State, exec .qdestroy s = .next t ∧ QuietlyCompletes s t c 1) ∧
      (c.queue = 0 → s.queue? d = none → ∃ t : State, exec .qdestroy s = .next t ∧ QuietlyCompletes s t c 5) ∧
      (c.queue = 0 → (s.queue? d).isSome = true → (∀ l ∈ s.launches, l.queue ≠ d) → (∀ x ∈ s.cmds, x.queue = d → x.opc ≠ 5) →
        ∃ t : State, exec .qdestroy s = .next t ∧ QuietlyCompletes s t c 0 ∧ t.queues = s.queues.filter (fun x => x.id != d)) ∧
      (c.queue = 0 → (s.queue? d).isSome = true → c.d 1 / 256 = 0 → (∃ l ∈ s.launches, l.queue = d) →
        ∃ t : State, exec .qdestroy s = .next t ∧ t.contexts = s.contexts ∧ t.journal = s.journal ∧
          ∀ x ∈ t.queues, x.id = d → x.stopped = true)) ∧
    (s.handed 14 [0xFF, 0xFFFFFFFF] c →
      (d ≠ 0 → s.queue? d = none → ∃ t : State, exec .setltol s = .next t ∧ QuietlyCompletes s t c 5) ∧
      (d = 0 ∨ (s.queue? d).isSome = true → ∃ t : State, exec .setltol s = .next t ∧ QuietlyCompletes s t c 0 ∧
        t.queues = s.queues.map (fun x => if x.id = d then { x with ltol := BitVec.ofNat 32 (c.d 2) } else x) ∧
        (d = 0 → t.aqctl.extractLsb' 32 32 = BitVec.ofNat 32 (c.d 2) ∧ t.aqctl.extractLsb' 0 32 = s.aqctl.extractLsb' 0 32) ∧
        (d ≠ 0 → t.aqctl = s.aqctl)))

/-- TLBINV ends the old translations of a range of an address space, of KV frames too, and a hart of it that watches a word watches
where that lies now; KVMAP and KVEVICT put a frame's leaf entry in and out of force, every accepted access having performed, the entry
that KVMAP replaces staying usable until an invalidation; ASIDCFG, FDRING and SETBEAT set an address space's tables, a domain's ring and
the next BEAT, the last completing at the boundary where that comes into force; the outcomes are R330's (R212, R299, R317, R330, R331,
R334 to R337). How many frames memory holds is log entry 71, and that SETBEAT completes at once before beats run, log entry 62. -/
def Obligations.MemoryCommands : Prop :=
  ∀ (s : State) (c : Cmd), s.MemInv → let w := 2 ^ 64 - 1
    let f := c.d 1
    let e := s.leaf f
    let asid := BitVec.ofNat 16 (c.d 2)
    let a1 := BitVec.ofNat 16 (c.d 1)
    let others (t : State) : Prop := ∀ g, g ≠ f → t.leaf g = s.leaf g
    let only (i : Instr) (o : Nat) : Prop := ∃ t : State, exec i s = .next t ∧ QuietlyCompletes s t c o
    let apart : Prop := (s.harts.map (fun h => h.id)).Nodup
    let meets (lo n : Nat) : Prop := c.d 3 = 0 ∨ c.d 2 < lo + n ∧ lo < c.d 2 + c.d 3
    (s.handed 9 [0xFFFF, w, w] c → ∃ t : State, exec .tlbinv s = .next t ∧ Completes t c 0 ∧ t.pages = s.pages ∧ t.kv = s.kv ∧
      (∀ p, p ∈ t.tlb ↔ p ∈ s.tlb ∧ ¬(p.asid = a1 ∧ meets p.vbase.toNat (pageBytes p.size))) ∧
      (∀ x, x ∈ t.kvOld ↔ x ∈ s.kvOld ∧ ¬((ownerOf x.2 = a1 ∨ ownerOf (s.leaf x.1) = a1) ∧
        meets (kvWindow + x.1 * 2 ^ 18) (2 ^ 18))) ∧
      (apart → ∀ h ∈ t.harts, h.info.asid = a1 → h.wbuf = [] ∧ h.late = [] ∧
        (h.watch.len ≠ 0 → meets h.watch.va.toNat h.watch.len → h.watch.hit = true ∨
        ∃ p, t.translate a1 .read h.watch.va = .ok p ∧ p.pa = h.watch.addr))) ∧
    (s.handed 10 [w, 0xFFFF] c →
      (kvFrames ≤ f ∨ validOf e = true ∨ refcOf e ≠ 0 ∧ ownerOf e ≠ asid → only .kvmap 5) ∧
      (f < kvFrames → validOf e = false → (refcOf e = 0 ∨ ownerOf e = asid) → ∃ t : State, exec .kvmap s = .next t ∧
        Completes t c 0 ∧ others t ∧ validOf (t.leaf f) = true ∧ (t.leaf f).getLsbD 1 = true ∧
        ownerOf (t.leaf f) = asid ∧ t.count f = max 1 (refcOf e) ∧ t.pages = s.pages ∧ t.tlb = s.tlb ∧
        (∀ x, x.1 = f → (x ∈ t.kvOld ↔ x = (f, e))) ∧ (∀ x, x.1 ≠ f → (x ∈ t.kvOld ↔ x ∈ s.kvOld)) ∧
        (apart → ∀ h ∈ t.harts, h.wbuf = [] ∧ h.late = []))) ∧
    (s.handed 15 [w, 0xFFFF] c →
      (2 ^ 34 ≤ f ∨ validOf e = false ∨ ownerOf e ≠ asid → only .kvevict 5) ∧
      (f < 2 ^ 34 → validOf e = true → ownerOf e = asid → ∃ t : State, exec .kvevict s = .next t ∧ Completes t c 0 ∧ others t ∧
        t.leaf f = e &&& 0xFFFFFFFFFFFFFFFC ∧ (∀ x, x ∈ t.kvOld ↔ x ∈ s.kvOld ∧ x.1 ≠ f) ∧ t.pages = s.pages ∧ t.tlb = s.tlb ∧
        (apart → ∀ h ∈ t.harts, h.wbuf = [] ∧ h.late = []))) ∧
    (s.handed 11 [0xFFFF, w, w, 0x1F] c → let k := c.d 4
      (c.d 2 % 2 ^ 20 ≠ 0 ∨ c.d 3 % 64 ≠ 0 ∨ k < 4 ∨ 20 < k → only .asidcfg 1) ∧
      (c.d 2 % 2 ^ 20 = 0 → c.d 3 % 64 = 0 → 4 ≤ k → k ≤ 20 → ((∃ l ∈ s.launches, l.info.asid = a1) → only .asidcfg 5) ∧
        ((∀ l ∈ s.launches, l.info.asid ≠ a1) → ∃ t : State, exec .asidcfg s = .next t ∧ QuietlyCompletes s t c 0 ∧
          t.asids.find? (fun x => decide (x.asid = a1)) =
            some { asid := a1, prov := BitVec.ofNat 64 (c.d 2), ring := BitVec.ofNat 64 (c.d 3), log2 := k } ∧
          t.provBase a1 = c.d 2 % 2 ^ 64 ∧ ∀ b, b ≠ a1 → t.provBase b = s.provBase b ∧
            t.asids.find? (fun x => decide (x.asid = b)) = s.asids.find? (fun x => decide (x.asid = b))))) ∧
    (s.handed 12 [0xFFFF, w, 0x1F] c → let k := c.d 3
      (c.d 2 % 64 ≠ 0 ∨ k < 4 ∨ 16 < k → only .fdring 1) ∧
      (c.d 2 % 64 = 0 → 4 ≤ k → k ≤ 16 → ∃ t : State, exec .fdring s = .next t ∧ QuietlyCompletes s t c 0 ∧
        t.rings.find? (fun r => decide (r.fdom = a1)) = some { fdom := a1, base := BitVec.ofNat 64 (c.d 2), log2 := k } ∧
        ∀ b, b ≠ a1 → t.rings.find? (fun r => decide (r.fdom = b)) = s.rings.find? (fun r => decide (r.fdom = b)))) ∧
    (s.handed 13 [w] c →
      (c.d 1 < 256 ∨ 4096 < c.d 1 ∨ c.d 1 % 256 ≠ 0 → only .setbeat 1) ∧
      (256 ≤ c.d 1 → c.d 1 ≤ 4096 → c.d 1 % 256 = 0 → let v := BitVec.ofNat 13 (c.d 1)
        (c.began = false → s.stage = 0 ∨ s.beat = v → ∃ t : State, exec .setbeat s = .next t ∧ QuietlyCompletes s t c 0 ∧
          t.nextBeat = v ∧ t.beat = v) ∧
        (c.began = false → s.stage ≠ 0 → s.beat ≠ v → ∃ t : State, exec .setbeat s = .next t ∧ t.nextBeat = v ∧ t.beat = s.beat ∧
          t.journal = s.journal ∧ t.mem = s.mem ∧ t.contexts = s.contexts ∧ ∃ x ∈ t.cmds, x.seq = c.seq ∧ x.began = true) ∧
        (c.began = true → s.beat ≠ s.nextBeat → exec .setbeat s = .next s) ∧
        (c.began = true → s.beat = s.nextBeat → only .setbeat 0)))

/-- LOAD of an image whose digest is that of a loaded object gives one more reference to it; another image is verified and translated
(by the functions of log entry 8), and becomes an object with one reference, its code in the code window; an image that fails has
outcome 3. UNLOAD drops one of the queue's references, and the object with the last one. An accepted LAUNCH creates its harts, each
with the start values of R9; one that R8 rejects has outcome 2 (R8, R9, R330, R340, R341).

That an object's code stands above that of every object there is (log entry 52), where it is stored and that code which finds no room
there has outcome 3 (log entry 71), and outcome 1 for an image that does not lie in memory (log entry 90) are the model's choices. -/
def Obligations.ObjectCommands : Prop :=
  ∀ (s : State) (c : Cmd), s.MemInv → let w := 2 ^ 64 - 1
    let image := memBytes s.mem (c.d 1) (c.d 2)
    let same (o : Obj) : Bool := decide (o.digest = Config.sm3 image)
    let answered (t : State) (o : Obj) : Prop := c.d 3 + 16 ≤ hbmBytes →
      c.d 7 % 2 ^ 56 + 8 ≤ c.d 3 ∨ c.d 3 + 16 ≤ c.d 7 % 2 ^ 56 →
      memRead t.mem (c.d 3) 8 = o.handle.toNat ∧ memRead t.mem (c.d 3 + 8) 8 = o.entry.toNat
    (s.handed 3 [w, w, w] c →
      (hbmBytes < c.d 1 + c.d 2 → ∃ t : State, exec .load s = .next t ∧ QuietlyCompletes s t c 1) ∧
      (c.d 1 + c.d 2 ≤ hbmBytes → (∀ o, s.objs.find? same = some o → ∃ t : State, exec .load s = .next t ∧ Completes t c 0 ∧
          t.contexts = s.contexts ∧ answered t o ∧
          t.objs = s.objs.map (fun x => if x.handle = o.handle then { x with refs := c.queue :: x.refs } else x)) ∧
        (s.objs.find? same = none → (Config.orieder image = none → ∃ t : State, exec .load s = .next t ∧ QuietlyCompletes s t c 3) ∧
          ∀ native, Config.orieder image = some native → let at_ := objectStore + (s.nextEntry - codeWindow)
            (hbmBytes < at_ + native.length → ∃ t : State, exec .load s = .next t ∧ QuietlyCompletes s t c 3) ∧
            (at_ + native.length ≤ hbmBytes → ∃ (t : State) (o : Obj), exec .load s = .next t ∧ Completes t c 0 ∧
              t.contexts = s.contexts ∧ answered t o ∧ t.objs = s.objs ++ [o] ∧
              o.digest = Config.sm3 image ∧ o.refs = [c.queue] ∧ o.len = native.length ∧ codeWindow ≤ o.entry.toNat ∧
              o.entry.toNat + o.len ≤ kvWindow ∧ (∀ x ∈ s.objs, x.entry.toNat + x.len ≤ o.entry.toNat) ∧
              (c.d 3 + 16 ≤ objectStore → c.d 7 % 2 ^ 56 + 8 ≤ objectStore →
                ∀ i < native.length, memGet t.mem (at_ + i) = native.getD i 0))))) ∧
    (s.handed 4 [w] c → (∀ x ∈ s.cmds, x.queue = c.queue → x.seq.toNat < c.seq.toNat → x.opc ≠ 5) →
      ((∀ o ∈ s.objs, o.handle.toNat = c.d 1 → c.queue ∉ o.refs) → ∃ t : State, exec .unload s = .next t ∧ QuietlyCompletes s t c 5) ∧
      ((∃ o ∈ s.objs, o.handle.toNat = c.d 1 ∧ c.queue ∈ o.refs) → ∃ t : State, exec .unload s = .next t ∧ QuietlyCompletes s t c 0 ∧
        t.objs = (s.objs.map (fun x => if x.handle.toNat = c.d 1 then { x with refs := x.refs.erase c.queue } else x)).filter
          (fun x => !x.refs.isEmpty))) ∧
    (s.handed 5 [w, w] c → c.began = false → let rcb := c.d 1
      let code := s.rcbD rcb 9 % 2 ^ 56
      let mask := s.rcbD rcb 15 + s.rcbD rcb 16 * 2 ^ 64
      let n := s.rcbD rcb 8 % 2 ^ 32
      (2 ^ 56 ≤ rcb ∨ s.launchOk rcb = false → ∃ t : State, exec .launch s = .next t ∧ QuietlyCompletes s t c 2) ∧
      (rcb < 2 ^ 56 → s.launchOk rcb = true → ∀ o, s.objs.find? (fun o => o.handle.toNat == c.d 2) = some o →
        o.entry.toNat ≤ code → code < o.entry.toNat + o.len → code + s.rcbD rcb 10 % 2 ^ 32 ≤ o.entry.toNat + o.len →
        (∃ d < 4, s.joined.getLsbD d = true ∧ (mask = 0 ∨ mask / 2 ^ (32 * d) % 2 ^ 32 ≠ 0)) →
        ∃ (t : State) (l : Launch), exec .launch s = .next t ∧ t.launches = s.launches ++ [l] ∧ l.seq = c.seq ∧ l.queue = c.queue ∧ l.left = n ∧
          l.cancelled = false ∧ t.parked.length = s.parked.length + n ∧ ∀ i < n, ∃ h ∈ t.parked, h.id.rcb.toNat = rcb ∧
            h.id.hidx = BitVec.ofNat 32 i ∧ h.id.seq = c.seq ∧ h.st = .created ∧ h.pc.toNat = code ∧
            (h.rd 2).toNat = (s.rcbD rcb 12 % 2 ^ 56 + (i + 1) * (s.rcbD rcb 13 % 2 ^ 32)) % 2 ^ 64 ∧ h.rd 3 = BitVec.ofNat 64 i ∧
            (h.rd 4).toNat = n ∧ (h.rd 5).toNat = s.rcbD rcb 11 % 2 ^ 56 ∧ h.vl = 0 ∧ h.save = none ∧
            (∀ r : Reg, r ∉ [2, 3, 4, 5] → h.rd r = 0) ∧ (∀ k < 8, h.mask k = 0) ∧
            (∀ r < 32, cfgTag (h.v r).cfg = 0 ∧ cfgFull (h.v r).cfg = true) ∧ (∀ k ∈ h.tiles.toList, k.enabled = false)))

/-- RELEASE of a saved hart lets it run again once nothing else keeps it, with what its domain has left in its area; CANCEL retires
a hart that holds no context; PREEMPT raises soft requests on a launch's harts, or with HARD saves them with cause 0x21 and DETAIL 3,
waiting while that is put off; a RELEASE whose hart has nothing saved has outcome 5, and one that a value of the area refuses has
outcome 6; of two releases or cancels of one hart the one accepted first takes effect first (R12, R255, R261, R265, R266, R330, R331,
R334). A launch whose last hart is cancelled writes all ones to DONEA (R10, R255).

That PREEMPT and CANCEL too have outcome 5 where no hart answers to the name, that the later of two waits until the earlier has begun,
and that a CANCEL leaves a hart alone whose release has taken effect, one of every hart too and then with outcome 5, is the model's
reading (log entry 51). -/
def Obligations.HartCommands : Prop :=
  ∀ (s : State) (c : Cmd), s.MemInv → let w := 2 ^ 64 - 1
    let only (i : Instr) (o : Nat) : Prop := ∃ t : State, exec i s = .next t ∧ QuietlyCompletes s t c o
    let runsAgain (h : Hart) (r : SaveRec) : Prop := ∃ (t : State) (y : Hart), exec .release s = .next t ∧ Completes t c 0 ∧ y ∈ t.harts ∧
      y.id = h.id ∧ y.save = some { r with released := true } ∧ y.sregs = h.sregs ∧
      y.st = if h.mayReady { r with released := true } then .ready else .saved
    (s.handed 6 [w, 0xFFFFFFFF] c → s.overtakes c = false →
      ((∀ h ∈ s.harts, h.id.rcb.toNat = c.d 1 → h.id.hidx.toNat = c.d 2 → h.st ≠ .saved) → only .release 5) ∧
      (∀ h r, (s.named (c.d 1) (some (c.d 2))).find? (fun h => decide (h.st = .saved) && !h.cancelling) = some h →
        h.save = some r → (r.contextError = true → only .release 6) ∧
        (r.contextError = false → (r.reserve = true → runsAgain h r) ∧
          (r.reserve = false → (s.readBack h r = .ok none → only .release 6) ∧
            ∀ h' r', s.readBack h r = .ok (some (h', r')) → runsAgain h' r')))) ∧
    (s.overtakes c = true ↔ ∃ x ∈ s.cmds, (x.opc = 6 ∨ x.opc = 7) ∧ x.began = false ∧ x.seq.toNat < c.seq.toNat ∧ x.d 1 = c.d 1 ∧
      (c.index = none ∨ x.index = none ∨ c.index = x.index)) ∧
    (s.overtakes c = true → (s.handed 6 [w, 0xFFFFFFFF] c → exec .release s = .next s) ∧
      (s.handed 7 [w, 0x1FFFFFFFF] c → c.began = false → exec .cancel s = .next s)) ∧
    (s.handed 7 [w, 0x1FFFFFFFF] c → c.began = false → s.overtakes c = false →
      let mine (h : Hart) : Prop := h.id.rcb.toNat = c.d 1 ∧ (c.d 2 / 2 ^ 32 = 1 ∨ h.id.hidx.toNat = c.d 2 % 2 ^ 32)
      let all := s.named (c.d 1) c.index
      let left (h : Hart) : Prop := h.releasePending = true
      ((∀ h ∈ s.harts, mine h → h.st = .retired) → only .cancel 5) ∧
      (∀ h, h ∈ all ↔ h ∈ s.harts ∧ mine h ∧ h.st ≠ .retired ∧
        ∀ x ∈ s.harts, mine x → x.st ≠ .retired → h.id.seq.toNat ≤ x.id.seq.toNat) ∧
      ((∀ h ∈ all, left h) → only .cancel 5) ∧
      ((s.harts.map (fun x => x.id)).Nodup → (∀ x ∈ s.harts, x.cancelling = false) → (∃ h ∈ all, ¬left h) →
        (∀ h ∈ all, ¬left h → h.onCore = false) → ∃ t : State, exec .cancel s = .next t ∧
          ((∃ h ∈ all, left h) → Completes t c 5) ∧ ((∀ h ∈ all, ¬left h) → Completes t c 0) ∧
          (∀ h ∈ all, ¬left h → ∃ y ∈ t.harts, y.id = h.id ∧ y.st = .retired) ∧
          (∀ h ∈ all, left h → ∃ y ∈ t.harts, y.id = h.id ∧ y.st = h.st ∧ y.save = h.save ∧ y.cancelling = false) ∧
          ∀ h l p, all = [h] → s.launches.find? (fun l => decide (l.seq = h.id.seq)) = some l → l.left = 1 → l.donea ≠ 0 →
            s.translate l.info.asid .write (l.donea.setWidth 64) = .ok p → p.pa + 8 ≤ barBase →
            (∀ x ∈ s.cmds, p.pa + 8 ≤ x.d 7 % 2 ^ 56 ∨ x.d 7 % 2 ^ 56 + 8 ≤ p.pa) → memRead t.mem p.pa 8 = 2 ^ 64 - 1)) ∧
    (s.handed 8 [w, 1] c → let l := s.named (c.d 1) none
      (c.began = false → l = [] → only .preempt 5) ∧
      (c.began = false → l ≠ [] → c.d 2 = 0 → ∃ t : State, exec .preempt s = .next t ∧ Completes t c 0 ∧
        ∀ x ∈ l, x.onCore = true → ∃ y ∈ t.harts, y.id = x.id ∧ (∀ r ∈ x.soft, r ∈ y.soft) ∧ ∃ r ∈ y.soft, r.why = .host) ∧
      (∀ x, c.began = false → l = [x] → c.d 2 = 1 → (s.harts.map (fun x => x.id)).Nodup → x.onCore = true → x.lane = none →
        x.badRegs = false →
        (x.deferred = false → ∃ (t : State) (y : Hart) (r : SaveRec), exec .preempt s = .next t ∧ Completes t c 0 ∧ y ∈ t.harts ∧
          y.id = x.id ∧ y.st = .saved ∧ y.save = some r ∧ r.cause = 0x21 ∧ r.detail = x.hardReq.getD 3) ∧
        (x.deferred = true → ∃ (t : State) (y : Hart), exec .preempt s = .next t ∧ t.journal = s.journal ∧
          (∃ k ∈ t.cmds, k.seq = c.seq ∧ k.began = true) ∧ y ∈ t.harts ∧ y = { x with hardReq := some (x.hardReq.getD 3), soft := [] })) ∧
      (c.began = true → ((∃ x ∈ l, x.onCore = true ∧ x.hardReq.isSome = true) → exec .preempt s = .next s) ∧
        ((∀ x ∈ l, x.onCore = true → x.hardReq = none) → only .preempt 0)))
end

