-- ==== Sys2Proof/Laws/Memory.lean ====
section
/-! SUPPORT. Laws of memory in its canonical form: what a store changes, and that every memory operation keeps the
form. -/

namespace Sys2Proof.Machine

/-! ## One byte -/

theorem memGet_memSet_same (m : List Host.Cell) (lo a : Nat) (v : Byte) (h : memWfFrom lo m = true) :
    memGet (memSet m a v) a = v := by
  induction m generalizing lo with
  | nil => by_cases hv : v = 0#8 <;> simp [memSet, memGet, hv]
  | cons c t ih =>
    obtain ⟨x, b⟩ := c
    simp only [memWfFrom, Bool.and_eq_true, decide_eq_true_eq] at h
    simp only [memSet]
    by_cases h1 : a < x
    · by_cases hv : v = 0#8 <;> simp [h1, hv, memGet] <;> omega
    · by_cases h2 : a = x
      · subst h2
        by_cases hv : v = 0#8
        · subst hv
          simp only [Nat.lt_irrefl, if_true, if_false]
          cases t with
          | nil => rfl
          | cons d t =>
            obtain ⟨y, e⟩ := d
            simp only [memWfFrom, Bool.and_eq_true, decide_eq_true_eq] at h
            have : y ≠ a := by omega
            have : a < y := by omega
            simp [memGet, *]
        · simp [hv, memGet]
      · have hx : x ≠ a := fun e => h2 e.symm
        simp only [h1, h2, if_false, memGet, hx]
        exact ih (x + 1) h.2

theorem memGet_lt (m : List Host.Cell) (lo a : Nat) (h : memWfFrom lo m = true) (ha : a < lo) : memGet m a = 0 := by
  cases m with
  | nil => rfl
  | cons c t =>
    obtain ⟨x, b⟩ := c
    simp only [memWfFrom, Bool.and_eq_true, decide_eq_true_eq] at h
    have h1 : x ≠ a := by omega
    have h2 : a < x := by omega
    simp [memGet, h1, h2]

theorem memGet_memSet_other (m : List Host.Cell) (lo a x : Nat) (v : Byte) (h : memWfFrom lo m = true) (hx : x ≠ a) :
    memGet (memSet m a v) x = memGet m x := by
  induction m generalizing lo with
  | nil =>
    by_cases hv : v = 0#8
    · simp [memSet, hv]
    · have : a ≠ x := fun e => hx e.symm
      simp [memSet, hv, memGet, this]
  | cons c t ih =>
    obtain ⟨y, b⟩ := c
    simp only [memWfFrom, Bool.and_eq_true, decide_eq_true_eq] at h
    have hax : a ≠ x := fun e => hx e.symm
    simp only [memSet]
    by_cases h1 : a < y
    · by_cases hv : v = 0#8
      · simp [h1, hv]
      · simp only [h1, hv, BitVec.ofNat_eq_ofNat, if_true, if_false, memGet, hax]
        by_cases h3 : x = y
        · subst h3
          have : ¬ x < a := by omega
          simp [this]
        · by_cases h4 : x < y
          · have : y ≠ x := by omega
            simp [h4, this]
          · by_cases h5 : x < a
            · omega
            · simp [h5]
    · by_cases h2 : a = y
      · subst h2
        by_cases hv : v = 0#8
        · simp only [Nat.lt_irrefl, if_true, if_false, hv, BitVec.ofNat_eq_ofNat, memGet, hax]
          by_cases h3 : x < a
          · simp only [h3, if_true]
            exact memGet_lt t (a + 1) x h.2 (by omega)
          · simp [h3]
        · simp [hv, memGet, hax]
      · simp only [h1, h2, if_false, memGet]
        by_cases h3 : y = x
        · simp [h3]
        · by_cases h4 : x < y
          · simp [h3, h4]
          · simp only [h3, h4, if_false]
            exact ih (y + 1) h.2

theorem memWfFrom_mono (m : List Host.Cell) (lo lo' : Nat) (h : memWfFrom lo m = true) (hl : lo' ≤ lo) :
    memWfFrom lo' m = true := by
  cases m with
  | nil => rfl
  | cons c t =>
    obtain ⟨x, b⟩ := c
    simp only [memWfFrom, Bool.and_eq_true, decide_eq_true_eq] at h ⊢
    exact ⟨⟨by omega, h.1.2⟩, h.2⟩

theorem memWfFrom_memSet (m : List Host.Cell) (lo a : Nat) (v : Byte) (h : memWfFrom lo m = true) (ha : lo ≤ a) :
    memWfFrom lo (memSet m a v) = true := by
  induction m generalizing lo with
  | nil => by_cases hv : v = 0#8 <;> simp [memSet, memWfFrom, hv, ha]
  | cons c t ih =>
    obtain ⟨y, b⟩ := c
    have h' := h
    simp only [memWfFrom, Bool.and_eq_true, decide_eq_true_eq] at h
    simp only [memSet]
    by_cases h1 : a < y
    · by_cases hv : v = 0#8
      · simpa [h1, hv] using h'
      · have h5 : a + 1 ≤ y := h1
        simp [h1, hv, memWfFrom, ha, h5, h.2]
        exact h.1.2
    · by_cases h2 : a = y
      · subst h2
        by_cases hv : v = 0#8
        · simp only [Nat.lt_irrefl, if_true, if_false, hv, BitVec.ofNat_eq_ofNat]
          exact memWfFrom_mono t (a + 1) lo h.2 (by omega)
        · simp [hv, memWfFrom, ha, h.2]
      · simp only [h1, h2, if_false, memWfFrom, Bool.and_eq_true, decide_eq_true_eq]
        exact ⟨h.1, ih (y + 1) h.2 (by omega)⟩

/-- Writing a byte keeps the canonical form. -/
theorem memSet_wf (m : List Host.Cell) (a : Nat) (v : Byte) (h : Memory.wf m = true) : Memory.wf (memSet m a v) = true :=
  memWfFrom_memSet m 0 a v h (Nat.zero_le a)

/-! ## Runs of bytes -/

/-- Storing bytes keeps the canonical form. -/
theorem memStore_wf (bs : List Byte) (m : List Host.Cell) (a : Nat) (h : Memory.wf m = true) :
    Memory.wf (memStore m a bs) = true := by
  induction bs generalizing m a with
  | nil => exact h
  | cons b bs ih => exact ih _ _ (memSet_wf m a b h)

/-- A byte outside the bytes stored reads as before. -/
theorem memGet_memStore_other (bs : List Byte) (m : List Host.Cell) (a x : Nat) (h : Memory.wf m = true)
    (hx : x < a ∨ a + bs.length ≤ x) : memGet (memStore m a bs) x = memGet m x := by
  induction bs generalizing m a with
  | nil => rfl
  | cons b bs ih =>
    simp only [List.length_cons] at hx
    rw [memStore, ih _ _ (memSet_wf m a b h) (by omega)]
    exact memGet_memSet_other m 0 a x b h (by omega)

/-- A byte stored reads as what was stored. -/
theorem memGet_memStore_same (bs : List Byte) (m : List Host.Cell) (a i : Nat) (h : Memory.wf m = true)
    (hi : i < bs.length) : memGet (memStore m a bs) (a + i) = bs[i] := by
  induction bs generalizing m a i with
  | nil => simp at hi
  | cons b bs ih =>
    cases i with
    | zero =>
      rw [memStore]
      show memGet (memStore (memSet m a b) (a + 1) bs) a = b
      rw [memGet_memStore_other bs _ (a + 1) a (memSet_wf m a b h) (by omega)]
      exact memGet_memSet_same m 0 a b h
    | succ i =>
      have : a + (i + 1) = (a + 1) + i := by omega
      rw [memStore, this]
      exact ih _ _ _ (memSet_wf m a b h) (by simpa using hi)

/-- A read depends on its own bytes only. -/
theorem memRead_congr (m m' : List Host.Cell) (a n : Nat) (h : ∀ x, a ≤ x → x < a + n → memGet m x = memGet m' x) :
    memRead m a n = memRead m' a n := by
  induction n generalizing a with
  | zero => rfl
  | succ n ih =>
    rw [memRead, memRead, h a (Nat.le_refl a) (by omega), ih (a + 1) (fun x h1 h2 => h x (by omega) (by omega))]

/-! ## Writes performing in the machine -/

/-- A write that performs leaves every byte outside it as it was. -/
theorem commitMem_other (s : State) (a : Nat) (bs : List Byte) (x : Nat) (h : Memory.wf s.mem = true) (ha : a < barBase)
    (hx : x < a ∨ a + bs.length ≤ x) : memGet (s.commitMem a bs).mem x = memGet s.mem x := by
  have : ¬ barBase ≤ a := by omega
  simp only [State.commitMem, this, if_false]
  exact memGet_memStore_other bs s.mem a x h hx

end Sys2Proof.Machine
end

