-- ==== Sys2Proof/Laws/State.lean ====
section
/-! SUPPORT. What each update of the state and of a hart's context leaves in every field: one lemma per field and update,
so that no later proof unfolds a record update. -/

namespace Sys2Proof.Machine


/-! ## `State.setHart` -/

@[simp] theorem State.setHart_hart (s : State) (h : Hart) : (s.setHart h).hart = h := rfl
@[simp] theorem State.setHart_parked (s : State) (h : Hart) : (s.setHart h).parked = s.parked := rfl
@[simp] theorem State.setHart_mem (s : State) (h : Hart) : (s.setHart h).mem = s.mem := rfl
@[simp] theorem State.setHart_pads (s : State) (h : Hart) : (s.setHart h).pads = s.pads := rfl
@[simp] theorem State.setHart_poison (s : State) (h : Hart) : (s.setHart h).poison = s.poison := rfl
@[simp] theorem State.setHart_pages (s : State) (h : Hart) : (s.setHart h).pages = s.pages := rfl
@[simp] theorem State.setHart_tlb (s : State) (h : Hart) : (s.setHart h).tlb = s.tlb := rfl
@[simp] theorem State.setHart_kv (s : State) (h : Hart) : (s.setHart h).kv = s.kv := rfl
@[simp] theorem State.setHart_codeTabs (s : State) (h : Hart) : (s.setHart h).codeTabs = s.codeTabs := rfl
@[simp] theorem State.setHart_lparts (s : State) (h : Hart) : (s.setHart h).lparts = s.lparts := rfl
@[simp] theorem State.setHart_arbs (s : State) (h : Hart) : (s.setHart h).arbs = s.arbs := rfl
@[simp] theorem State.setHart_cycle (s : State) (h : Hart) : (s.setHart h).cycle = s.cycle := rfl
@[simp] theorem State.setHart_lastTick (s : State) (h : Hart) : (s.setHart h).lastTick = s.lastTick := rfl
@[simp] theorem State.setHart_beat (s : State) (h : Hart) : (s.setHart h).beat = s.beat := rfl
@[simp] theorem State.setHart_nextBeat (s : State) (h : Hart) : (s.setHart h).nextBeat = s.nextBeat := rfl
@[simp] theorem State.setHart_beatNo (s : State) (h : Hart) : (s.setHart h).beatNo = s.beatNo := rfl
@[simp] theorem State.setHart_beatFrom (s : State) (h : Hart) : (s.setHart h).beatFrom = s.beatFrom := rfl
@[simp] theorem State.setHart_gates (s : State) (h : Hart) : (s.setHart h).gates = s.gates := rfl
@[simp] theorem State.setHart_merged (s : State) (h : Hart) : (s.setHart h).merged = s.merged := rfl
@[simp] theorem State.setHart_granules (s : State) (h : Hart) : (s.setHart h).granules = s.granules := rfl
@[simp] theorem State.setHart_jobs (s : State) (h : Hart) : (s.setHart h).jobs = s.jobs := rfl
@[simp] theorem State.setHart_nextJob (s : State) (h : Hart) : (s.setHart h).nextJob = s.nextJob := rfl
@[simp] theorem State.setHart_seedLog (s : State) (h : Hart) : (s.setHart h).seedLog = s.seedLog := rfl
@[simp] theorem State.setHart_seedCount (s : State) (h : Hart) : (s.setHart h).seedCount = s.seedCount := rfl
@[simp] theorem State.setHart_stage (s : State) (h : Hart) : (s.setHart h).stage = s.stage := rfl
@[simp] theorem State.setHart_joined (s : State) (h : Hart) : (s.setHart h).joined = s.joined := rfl
@[simp] theorem State.setHart_verified (s : State) (h : Hart) : (s.setHart h).verified = s.verified := rfl
@[simp] theorem State.setHart_firmwareGood (s : State) (h : Hart) : (s.setHart h).firmwareGood = s.firmwareGood := rfl
@[simp] theorem State.setHart_startDone (s : State) (h : Hart) : (s.setHart h).startDone = s.startDone := rfl
@[simp] theorem State.setHart_aqbase (s : State) (h : Hart) : (s.setHart h).aqbase = s.aqbase := rfl
@[simp] theorem State.setHart_aqctl (s : State) (h : Hart) : (s.setHart h).aqctl = s.aqctl := rfl
@[simp] theorem State.setHart_pstate (s : State) (h : Hart) : (s.setHart h).pstate = s.pstate := rfl
@[simp] theorem State.setHart_queues (s : State) (h : Hart) : (s.setHart h).queues = s.queues := rfl
@[simp] theorem State.setHart_cmds (s : State) (h : Hart) : (s.setHart h).cmds = s.cmds := rfl
@[simp] theorem State.setHart_inHand (s : State) (h : Hart) : (s.setHart h).inHand = s.inHand := rfl
@[simp] theorem State.setHart_journal (s : State) (h : Hart) : (s.setHart h).journal = s.journal := rfl
@[simp] theorem State.setHart_jhead (s : State) (h : Hart) : (s.setHart h).jhead = s.jhead := rfl
@[simp] theorem State.setHart_launches (s : State) (h : Hart) : (s.setHart h).launches = s.launches := rfl
@[simp] theorem State.setHart_objs (s : State) (h : Hart) : (s.setHart h).objs = s.objs := rfl
@[simp] theorem State.setHart_asids (s : State) (h : Hart) : (s.setHart h).asids = s.asids := rfl
@[simp] theorem State.setHart_rings (s : State) (h : Hart) : (s.setHart h).rings = s.rings := rfl
@[simp] theorem State.setHart_events (s : State) (h : Hart) : (s.setHart h).events = s.events := rfl
@[simp] theorem State.setHart_ewt (s : State) (h : Hart) : (s.setHart h).ewt = s.ewt := rfl
@[simp] theorem State.setHart_remaps (s : State) (h : Hart) : (s.setHart h).remaps = s.remaps := rfl
@[simp] theorem State.setHart_padPoison (s : State) (h : Hart) : (s.setHart h).padPoison = s.padPoison := rfl
@[simp] theorem State.setHart_kvOld (s : State) (h : Hart) : (s.setHart h).kvOld = s.kvOld := rfl
@[simp] theorem State.setHart_replicas (s : State) (h : Hart) : (s.setHart h).replicas = s.replicas := rfl
@[simp] theorem State.setHart_delaying (s : State) (h : Hart) : (s.setHart h).delaying = s.delaying := rfl
@[simp] theorem State.setHart_fromReplica (s : State) (h : Hart) : (s.setHart h).fromReplica = s.fromReplica := rfl
@[simp] theorem State.setHart_portsLost (s : State) (h : Hart) : (s.setHart h).portsLost = s.portsLost := rfl
@[simp] theorem State.setHart_exhausted (s : State) (h : Hart) : (s.setHart h).exhausted = s.exhausted := rfl
@[simp] theorem State.setHart_holding (s : State) (h : Hart) : (s.setHart h).holding = s.holding := rfl
@[simp] theorem State.setHart_loadLat (s : State) (h : Hart) : (s.setHart h).loadLat = s.loadLat := rfl
@[simp] theorem State.setHart_holdBack (s : State) (h : Hart) : (s.setHart h).holdBack = s.holdBack := rfl
@[simp] theorem State.setHart_draws (s : State) (h : Hart) : (s.setHart h).draws = s.draws := rfl
@[simp] theorem State.setHart_agenda (s : State) (h : Hart) : (s.setHart h).agenda = s.agenda := rfl

/-! ## `State.upd` -/

@[simp] theorem State.upd_hart (s : State) (f : Hart → Hart) : (s.upd f).hart = f s.hart := rfl
@[simp] theorem State.upd_parked (s : State) (f : Hart → Hart) : (s.upd f).parked = s.parked := rfl
@[simp] theorem State.upd_mem (s : State) (f : Hart → Hart) : (s.upd f).mem = s.mem := rfl
@[simp] theorem State.upd_pads (s : State) (f : Hart → Hart) : (s.upd f).pads = s.pads := rfl
@[simp] theorem State.upd_poison (s : State) (f : Hart → Hart) : (s.upd f).poison = s.poison := rfl
@[simp] theorem State.upd_pages (s : State) (f : Hart → Hart) : (s.upd f).pages = s.pages := rfl
@[simp] theorem State.upd_tlb (s : State) (f : Hart → Hart) : (s.upd f).tlb = s.tlb := rfl
@[simp] theorem State.upd_kv (s : State) (f : Hart → Hart) : (s.upd f).kv = s.kv := rfl
@[simp] theorem State.upd_codeTabs (s : State) (f : Hart → Hart) : (s.upd f).codeTabs = s.codeTabs := rfl
@[simp] theorem State.upd_lparts (s : State) (f : Hart → Hart) : (s.upd f).lparts = s.lparts := rfl
@[simp] theorem State.upd_arbs (s : State) (f : Hart → Hart) : (s.upd f).arbs = s.arbs := rfl
@[simp] theorem State.upd_cycle (s : State) (f : Hart → Hart) : (s.upd f).cycle = s.cycle := rfl
@[simp] theorem State.upd_lastTick (s : State) (f : Hart → Hart) : (s.upd f).lastTick = s.lastTick := rfl
@[simp] theorem State.upd_beat (s : State) (f : Hart → Hart) : (s.upd f).beat = s.beat := rfl
@[simp] theorem State.upd_nextBeat (s : State) (f : Hart → Hart) : (s.upd f).nextBeat = s.nextBeat := rfl
@[simp] theorem State.upd_beatNo (s : State) (f : Hart → Hart) : (s.upd f).beatNo = s.beatNo := rfl
@[simp] theorem State.upd_beatFrom (s : State) (f : Hart → Hart) : (s.upd f).beatFrom = s.beatFrom := rfl
@[simp] theorem State.upd_gates (s : State) (f : Hart → Hart) : (s.upd f).gates = s.gates := rfl
@[simp] theorem State.upd_merged (s : State) (f : Hart → Hart) : (s.upd f).merged = s.merged := rfl
@[simp] theorem State.upd_granules (s : State) (f : Hart → Hart) : (s.upd f).granules = s.granules := rfl
@[simp] theorem State.upd_jobs (s : State) (f : Hart → Hart) : (s.upd f).jobs = s.jobs := rfl
@[simp] theorem State.upd_nextJob (s : State) (f : Hart → Hart) : (s.upd f).nextJob = s.nextJob := rfl
@[simp] theorem State.upd_seedLog (s : State) (f : Hart → Hart) : (s.upd f).seedLog = s.seedLog := rfl
@[simp] theorem State.upd_seedCount (s : State) (f : Hart → Hart) : (s.upd f).seedCount = s.seedCount := rfl
@[simp] theorem State.upd_stage (s : State) (f : Hart → Hart) : (s.upd f).stage = s.stage := rfl
@[simp] theorem State.upd_joined (s : State) (f : Hart → Hart) : (s.upd f).joined = s.joined := rfl
@[simp] theorem State.upd_verified (s : State) (f : Hart → Hart) : (s.upd f).verified = s.verified := rfl
@[simp] theorem State.upd_firmwareGood (s : State) (f : Hart → Hart) : (s.upd f).firmwareGood = s.firmwareGood := rfl
@[simp] theorem State.upd_startDone (s : State) (f : Hart → Hart) : (s.upd f).startDone = s.startDone := rfl
@[simp] theorem State.upd_aqbase (s : State) (f : Hart → Hart) : (s.upd f).aqbase = s.aqbase := rfl
@[simp] theorem State.upd_aqctl (s : State) (f : Hart → Hart) : (s.upd f).aqctl = s.aqctl := rfl
@[simp] theorem State.upd_pstate (s : State) (f : Hart → Hart) : (s.upd f).pstate = s.pstate := rfl
@[simp] theorem State.upd_queues (s : State) (f : Hart → Hart) : (s.upd f).queues = s.queues := rfl
@[simp] theorem State.upd_cmds (s : State) (f : Hart → Hart) : (s.upd f).cmds = s.cmds := rfl
@[simp] theorem State.upd_inHand (s : State) (f : Hart → Hart) : (s.upd f).inHand = s.inHand := rfl
@[simp] theorem State.upd_journal (s : State) (f : Hart → Hart) : (s.upd f).journal = s.journal := rfl
@[simp] theorem State.upd_jhead (s : State) (f : Hart → Hart) : (s.upd f).jhead = s.jhead := rfl
@[simp] theorem State.upd_launches (s : State) (f : Hart → Hart) : (s.upd f).launches = s.launches := rfl
@[simp] theorem State.upd_objs (s : State) (f : Hart → Hart) : (s.upd f).objs = s.objs := rfl
@[simp] theorem State.upd_asids (s : State) (f : Hart → Hart) : (s.upd f).asids = s.asids := rfl
@[simp] theorem State.upd_rings (s : State) (f : Hart → Hart) : (s.upd f).rings = s.rings := rfl
@[simp] theorem State.upd_events (s : State) (f : Hart → Hart) : (s.upd f).events = s.events := rfl
@[simp] theorem State.upd_ewt (s : State) (f : Hart → Hart) : (s.upd f).ewt = s.ewt := rfl
@[simp] theorem State.upd_remaps (s : State) (f : Hart → Hart) : (s.upd f).remaps = s.remaps := rfl
@[simp] theorem State.upd_padPoison (s : State) (f : Hart → Hart) : (s.upd f).padPoison = s.padPoison := rfl
@[simp] theorem State.upd_kvOld (s : State) (f : Hart → Hart) : (s.upd f).kvOld = s.kvOld := rfl
@[simp] theorem State.upd_replicas (s : State) (f : Hart → Hart) : (s.upd f).replicas = s.replicas := rfl
@[simp] theorem State.upd_delaying (s : State) (f : Hart → Hart) : (s.upd f).delaying = s.delaying := rfl
@[simp] theorem State.upd_fromReplica (s : State) (f : Hart → Hart) : (s.upd f).fromReplica = s.fromReplica := rfl
@[simp] theorem State.upd_portsLost (s : State) (f : Hart → Hart) : (s.upd f).portsLost = s.portsLost := rfl
@[simp] theorem State.upd_exhausted (s : State) (f : Hart → Hart) : (s.upd f).exhausted = s.exhausted := rfl
@[simp] theorem State.upd_holding (s : State) (f : Hart → Hart) : (s.upd f).holding = s.holding := rfl
@[simp] theorem State.upd_loadLat (s : State) (f : Hart → Hart) : (s.upd f).loadLat = s.loadLat := rfl
@[simp] theorem State.upd_holdBack (s : State) (f : Hart → Hart) : (s.upd f).holdBack = s.holdBack := rfl
@[simp] theorem State.upd_draws (s : State) (f : Hart → Hart) : (s.upd f).draws = s.draws := rfl
@[simp] theorem State.upd_agenda (s : State) (f : Hart → Hart) : (s.upd f).agenda = s.agenda := rfl

/-! ## `State.setLeaf` -/

@[simp] theorem State.setLeaf_hart (s : State) (i : Nat) (e : BitVec 64) : (s.setLeaf i e).hart = s.hart := rfl
@[simp] theorem State.setLeaf_parked (s : State) (i : Nat) (e : BitVec 64) : (s.setLeaf i e).parked = s.parked := rfl
@[simp] theorem State.setLeaf_mem (s : State) (i : Nat) (e : BitVec 64) : (s.setLeaf i e).mem = s.mem := rfl
@[simp] theorem State.setLeaf_pads (s : State) (i : Nat) (e : BitVec 64) : (s.setLeaf i e).pads = s.pads := rfl
@[simp] theorem State.setLeaf_poison (s : State) (i : Nat) (e : BitVec 64) : (s.setLeaf i e).poison = s.poison := rfl
@[simp] theorem State.setLeaf_pages (s : State) (i : Nat) (e : BitVec 64) : (s.setLeaf i e).pages = s.pages := rfl
@[simp] theorem State.setLeaf_tlb (s : State) (i : Nat) (e : BitVec 64) : (s.setLeaf i e).tlb = s.tlb := rfl
@[simp] theorem State.setLeaf_kv (s : State) (i : Nat) (e : BitVec 64) : (s.setLeaf i e).kv = assign s.kv i e := rfl
@[simp] theorem State.setLeaf_codeTabs (s : State) (i : Nat) (e : BitVec 64) : (s.setLeaf i e).codeTabs = s.codeTabs := rfl
@[simp] theorem State.setLeaf_lparts (s : State) (i : Nat) (e : BitVec 64) : (s.setLeaf i e).lparts = s.lparts := rfl
@[simp] theorem State.setLeaf_arbs (s : State) (i : Nat) (e : BitVec 64) : (s.setLeaf i e).arbs = s.arbs := rfl
@[simp] theorem State.setLeaf_cycle (s : State) (i : Nat) (e : BitVec 64) : (s.setLeaf i e).cycle = s.cycle := rfl
@[simp] theorem State.setLeaf_lastTick (s : State) (i : Nat) (e : BitVec 64) : (s.setLeaf i e).lastTick = s.lastTick := rfl
@[simp] theorem State.setLeaf_beat (s : State) (i : Nat) (e : BitVec 64) : (s.setLeaf i e).beat = s.beat := rfl
@[simp] theorem State.setLeaf_nextBeat (s : State) (i : Nat) (e : BitVec 64) : (s.setLeaf i e).nextBeat = s.nextBeat := rfl
@[simp] theorem State.setLeaf_beatNo (s : State) (i : Nat) (e : BitVec 64) : (s.setLeaf i e).beatNo = s.beatNo := rfl
@[simp] theorem State.setLeaf_beatFrom (s : State) (i : Nat) (e : BitVec 64) : (s.setLeaf i e).beatFrom = s.beatFrom := rfl
@[simp] theorem State.setLeaf_gates (s : State) (i : Nat) (e : BitVec 64) : (s.setLeaf i e).gates = s.gates := rfl
@[simp] theorem State.setLeaf_merged (s : State) (i : Nat) (e : BitVec 64) : (s.setLeaf i e).merged = s.merged := rfl
@[simp] theorem State.setLeaf_granules (s : State) (i : Nat) (e : BitVec 64) : (s.setLeaf i e).granules = s.granules := rfl
@[simp] theorem State.setLeaf_jobs (s : State) (i : Nat) (e : BitVec 64) : (s.setLeaf i e).jobs = s.jobs := rfl
@[simp] theorem State.setLeaf_nextJob (s : State) (i : Nat) (e : BitVec 64) : (s.setLeaf i e).nextJob = s.nextJob := rfl
@[simp] theorem State.setLeaf_seedLog (s : State) (i : Nat) (e : BitVec 64) : (s.setLeaf i e).seedLog = s.seedLog := rfl
@[simp] theorem State.setLeaf_seedCount (s : State) (i : Nat) (e : BitVec 64) : (s.setLeaf i e).seedCount = s.seedCount := rfl
@[simp] theorem State.setLeaf_stage (s : State) (i : Nat) (e : BitVec 64) : (s.setLeaf i e).stage = s.stage := rfl
@[simp] theorem State.setLeaf_joined (s : State) (i : Nat) (e : BitVec 64) : (s.setLeaf i e).joined = s.joined := rfl
@[simp] theorem State.setLeaf_verified (s : State) (i : Nat) (e : BitVec 64) : (s.setLeaf i e).verified = s.verified := rfl
@[simp] theorem State.setLeaf_firmwareGood (s : State) (i : Nat) (e : BitVec 64) : (s.setLeaf i e).firmwareGood = s.firmwareGood := rfl
@[simp] theorem State.setLeaf_startDone (s : State) (i : Nat) (e : BitVec 64) : (s.setLeaf i e).startDone = s.startDone := rfl
@[simp] theorem State.setLeaf_aqbase (s : State) (i : Nat) (e : BitVec 64) : (s.setLeaf i e).aqbase = s.aqbase := rfl
@[simp] theorem State.setLeaf_aqctl (s : State) (i : Nat) (e : BitVec 64) : (s.setLeaf i e).aqctl = s.aqctl := rfl
@[simp] theorem State.setLeaf_pstate (s : State) (i : Nat) (e : BitVec 64) : (s.setLeaf i e).pstate = s.pstate := rfl
@[simp] theorem State.setLeaf_queues (s : State) (i : Nat) (e : BitVec 64) : (s.setLeaf i e).queues = s.queues := rfl
@[simp] theorem State.setLeaf_cmds (s : State) (i : Nat) (e : BitVec 64) : (s.setLeaf i e).cmds = s.cmds := rfl
@[simp] theorem State.setLeaf_inHand (s : State) (i : Nat) (e : BitVec 64) : (s.setLeaf i e).inHand = s.inHand := rfl
@[simp] theorem State.setLeaf_journal (s : State) (i : Nat) (e : BitVec 64) : (s.setLeaf i e).journal = s.journal := rfl
@[simp] theorem State.setLeaf_jhead (s : State) (i : Nat) (e : BitVec 64) : (s.setLeaf i e).jhead = s.jhead := rfl
@[simp] theorem State.setLeaf_launches (s : State) (i : Nat) (e : BitVec 64) : (s.setLeaf i e).launches = s.launches := rfl
@[simp] theorem State.setLeaf_objs (s : State) (i : Nat) (e : BitVec 64) : (s.setLeaf i e).objs = s.objs := rfl
@[simp] theorem State.setLeaf_asids (s : State) (i : Nat) (e : BitVec 64) : (s.setLeaf i e).asids = s.asids := rfl
@[simp] theorem State.setLeaf_rings (s : State) (i : Nat) (e : BitVec 64) : (s.setLeaf i e).rings = s.rings := rfl
@[simp] theorem State.setLeaf_events (s : State) (i : Nat) (e : BitVec 64) : (s.setLeaf i e).events = s.events := rfl
@[simp] theorem State.setLeaf_ewt (s : State) (i : Nat) (e : BitVec 64) : (s.setLeaf i e).ewt = s.ewt := rfl
@[simp] theorem State.setLeaf_remaps (s : State) (i : Nat) (e : BitVec 64) : (s.setLeaf i e).remaps = s.remaps := rfl
@[simp] theorem State.setLeaf_padPoison (s : State) (i : Nat) (e : BitVec 64) : (s.setLeaf i e).padPoison = s.padPoison := rfl
@[simp] theorem State.setLeaf_kvOld (s : State) (i : Nat) (e : BitVec 64) : (s.setLeaf i e).kvOld = s.kvOld := rfl
@[simp] theorem State.setLeaf_replicas (s : State) (i : Nat) (e : BitVec 64) : (s.setLeaf i e).replicas = s.replicas := rfl
@[simp] theorem State.setLeaf_delaying (s : State) (i : Nat) (e : BitVec 64) : (s.setLeaf i e).delaying = s.delaying := rfl
@[simp] theorem State.setLeaf_fromReplica (s : State) (i : Nat) (e : BitVec 64) : (s.setLeaf i e).fromReplica = s.fromReplica := rfl
@[simp] theorem State.setLeaf_portsLost (s : State) (i : Nat) (e : BitVec 64) : (s.setLeaf i e).portsLost = s.portsLost := rfl
@[simp] theorem State.setLeaf_exhausted (s : State) (i : Nat) (e : BitVec 64) : (s.setLeaf i e).exhausted = s.exhausted := rfl
@[simp] theorem State.setLeaf_holding (s : State) (i : Nat) (e : BitVec 64) : (s.setLeaf i e).holding = s.holding := rfl
@[simp] theorem State.setLeaf_loadLat (s : State) (i : Nat) (e : BitVec 64) : (s.setLeaf i e).loadLat = s.loadLat := rfl
@[simp] theorem State.setLeaf_holdBack (s : State) (i : Nat) (e : BitVec 64) : (s.setLeaf i e).holdBack = s.holdBack := rfl
@[simp] theorem State.setLeaf_draws (s : State) (i : Nat) (e : BitVec 64) : (s.setLeaf i e).draws = s.draws := rfl
@[simp] theorem State.setLeaf_agenda (s : State) (i : Nat) (e : BitVec 64) : (s.setLeaf i e).agenda = s.agenda := rfl

/-! ## `State.setArb` -/

@[simp] theorem State.setArb_hart (s : State) (c g : Nat) (a : Arbiter) : (s.setArb c g a).hart = s.hart := rfl
@[simp] theorem State.setArb_parked (s : State) (c g : Nat) (a : Arbiter) : (s.setArb c g a).parked = s.parked := rfl
@[simp] theorem State.setArb_mem (s : State) (c g : Nat) (a : Arbiter) : (s.setArb c g a).mem = s.mem := rfl
@[simp] theorem State.setArb_pads (s : State) (c g : Nat) (a : Arbiter) : (s.setArb c g a).pads = s.pads := rfl
@[simp] theorem State.setArb_poison (s : State) (c g : Nat) (a : Arbiter) : (s.setArb c g a).poison = s.poison := rfl
@[simp] theorem State.setArb_pages (s : State) (c g : Nat) (a : Arbiter) : (s.setArb c g a).pages = s.pages := rfl
@[simp] theorem State.setArb_tlb (s : State) (c g : Nat) (a : Arbiter) : (s.setArb c g a).tlb = s.tlb := rfl
@[simp] theorem State.setArb_kv (s : State) (c g : Nat) (a : Arbiter) : (s.setArb c g a).kv = s.kv := rfl
@[simp] theorem State.setArb_codeTabs (s : State) (c g : Nat) (a : Arbiter) : (s.setArb c g a).codeTabs = s.codeTabs := rfl
@[simp] theorem State.setArb_lparts (s : State) (c g : Nat) (a : Arbiter) : (s.setArb c g a).lparts = s.lparts := rfl
@[simp] theorem State.setArb_arbs (s : State) (c g : Nat) (a : Arbiter) : (s.setArb c g a).arbs = assign s.arbs (c * 8 + g) a := rfl
@[simp] theorem State.setArb_cycle (s : State) (c g : Nat) (a : Arbiter) : (s.setArb c g a).cycle = s.cycle := rfl
@[simp] theorem State.setArb_lastTick (s : State) (c g : Nat) (a : Arbiter) : (s.setArb c g a).lastTick = s.lastTick := rfl
@[simp] theorem State.setArb_beat (s : State) (c g : Nat) (a : Arbiter) : (s.setArb c g a).beat = s.beat := rfl
@[simp] theorem State.setArb_nextBeat (s : State) (c g : Nat) (a : Arbiter) : (s.setArb c g a).nextBeat = s.nextBeat := rfl
@[simp] theorem State.setArb_beatNo (s : State) (c g : Nat) (a : Arbiter) : (s.setArb c g a).beatNo = s.beatNo := rfl
@[simp] theorem State.setArb_beatFrom (s : State) (c g : Nat) (a : Arbiter) : (s.setArb c g a).beatFrom = s.beatFrom := rfl
@[simp] theorem State.setArb_gates (s : State) (c g : Nat) (a : Arbiter) : (s.setArb c g a).gates = s.gates := rfl
@[simp] theorem State.setArb_merged (s : State) (c g : Nat) (a : Arbiter) : (s.setArb c g a).merged = s.merged := rfl
@[simp] theorem State.setArb_granules (s : State) (c g : Nat) (a : Arbiter) : (s.setArb c g a).granules = s.granules := rfl
@[simp] theorem State.setArb_jobs (s : State) (c g : Nat) (a : Arbiter) : (s.setArb c g a).jobs = s.jobs := rfl
@[simp] theorem State.setArb_nextJob (s : State) (c g : Nat) (a : Arbiter) : (s.setArb c g a).nextJob = s.nextJob := rfl
@[simp] theorem State.setArb_seedLog (s : State) (c g : Nat) (a : Arbiter) : (s.setArb c g a).seedLog = s.seedLog := rfl
@[simp] theorem State.setArb_seedCount (s : State) (c g : Nat) (a : Arbiter) : (s.setArb c g a).seedCount = s.seedCount := rfl
@[simp] theorem State.setArb_stage (s : State) (c g : Nat) (a : Arbiter) : (s.setArb c g a).stage = s.stage := rfl
@[simp] theorem State.setArb_joined (s : State) (c g : Nat) (a : Arbiter) : (s.setArb c g a).joined = s.joined := rfl
@[simp] theorem State.setArb_verified (s : State) (c g : Nat) (a : Arbiter) : (s.setArb c g a).verified = s.verified := rfl
@[simp] theorem State.setArb_firmwareGood (s : State) (c g : Nat) (a : Arbiter) : (s.setArb c g a).firmwareGood = s.firmwareGood := rfl
@[simp] theorem State.setArb_startDone (s : State) (c g : Nat) (a : Arbiter) : (s.setArb c g a).startDone = s.startDone := rfl
@[simp] theorem State.setArb_aqbase (s : State) (c g : Nat) (a : Arbiter) : (s.setArb c g a).aqbase = s.aqbase := rfl
@[simp] theorem State.setArb_aqctl (s : State) (c g : Nat) (a : Arbiter) : (s.setArb c g a).aqctl = s.aqctl := rfl
@[simp] theorem State.setArb_pstate (s : State) (c g : Nat) (a : Arbiter) : (s.setArb c g a).pstate = s.pstate := rfl
@[simp] theorem State.setArb_queues (s : State) (c g : Nat) (a : Arbiter) : (s.setArb c g a).queues = s.queues := rfl
@[simp] theorem State.setArb_cmds (s : State) (c g : Nat) (a : Arbiter) : (s.setArb c g a).cmds = s.cmds := rfl
@[simp] theorem State.setArb_inHand (s : State) (c g : Nat) (a : Arbiter) : (s.setArb c g a).inHand = s.inHand := rfl
@[simp] theorem State.setArb_journal (s : State) (c g : Nat) (a : Arbiter) : (s.setArb c g a).journal = s.journal := rfl
@[simp] theorem State.setArb_jhead (s : State) (c g : Nat) (a : Arbiter) : (s.setArb c g a).jhead = s.jhead := rfl
@[simp] theorem State.setArb_launches (s : State) (c g : Nat) (a : Arbiter) : (s.setArb c g a).launches = s.launches := rfl
@[simp] theorem State.setArb_objs (s : State) (c g : Nat) (a : Arbiter) : (s.setArb c g a).objs = s.objs := rfl
@[simp] theorem State.setArb_asids (s : State) (c g : Nat) (a : Arbiter) : (s.setArb c g a).asids = s.asids := rfl
@[simp] theorem State.setArb_rings (s : State) (c g : Nat) (a : Arbiter) : (s.setArb c g a).rings = s.rings := rfl
@[simp] theorem State.setArb_events (s : State) (c g : Nat) (a : Arbiter) : (s.setArb c g a).events = s.events := rfl
@[simp] theorem State.setArb_ewt (s : State) (c g : Nat) (a : Arbiter) : (s.setArb c g a).ewt = s.ewt := rfl
@[simp] theorem State.setArb_remaps (s : State) (c g : Nat) (a : Arbiter) : (s.setArb c g a).remaps = s.remaps := rfl
@[simp] theorem State.setArb_padPoison (s : State) (c g : Nat) (a : Arbiter) : (s.setArb c g a).padPoison = s.padPoison := rfl
@[simp] theorem State.setArb_kvOld (s : State) (c g : Nat) (a : Arbiter) : (s.setArb c g a).kvOld = s.kvOld := rfl
@[simp] theorem State.setArb_replicas (s : State) (c g : Nat) (a : Arbiter) : (s.setArb c g a).replicas = s.replicas := rfl
@[simp] theorem State.setArb_delaying (s : State) (c g : Nat) (a : Arbiter) : (s.setArb c g a).delaying = s.delaying := rfl
@[simp] theorem State.setArb_fromReplica (s : State) (c g : Nat) (a : Arbiter) : (s.setArb c g a).fromReplica = s.fromReplica := rfl
@[simp] theorem State.setArb_portsLost (s : State) (c g : Nat) (a : Arbiter) : (s.setArb c g a).portsLost = s.portsLost := rfl
@[simp] theorem State.setArb_exhausted (s : State) (c g : Nat) (a : Arbiter) : (s.setArb c g a).exhausted = s.exhausted := rfl
@[simp] theorem State.setArb_holding (s : State) (c g : Nat) (a : Arbiter) : (s.setArb c g a).holding = s.holding := rfl
@[simp] theorem State.setArb_loadLat (s : State) (c g : Nat) (a : Arbiter) : (s.setArb c g a).loadLat = s.loadLat := rfl
@[simp] theorem State.setArb_holdBack (s : State) (c g : Nat) (a : Arbiter) : (s.setArb c g a).holdBack = s.holdBack := rfl
@[simp] theorem State.setArb_draws (s : State) (c g : Nat) (a : Arbiter) : (s.setArb c g a).draws = s.draws := rfl
@[simp] theorem State.setArb_agenda (s : State) (c g : Nat) (a : Arbiter) : (s.setArb c g a).agenda = s.agenda := rfl

/-! ## `State.mapHarts` -/

@[simp] theorem State.mapHarts_hart (s : State) (f : Hart → Hart) : (s.mapHarts f).hart = f s.hart := rfl
@[simp] theorem State.mapHarts_parked (s : State) (f : Hart → Hart) : (s.mapHarts f).parked = s.parked.map f := rfl
@[simp] theorem State.mapHarts_mem (s : State) (f : Hart → Hart) : (s.mapHarts f).mem = s.mem := rfl
@[simp] theorem State.mapHarts_pads (s : State) (f : Hart → Hart) : (s.mapHarts f).pads = s.pads := rfl
@[simp] theorem State.mapHarts_poison (s : State) (f : Hart → Hart) : (s.mapHarts f).poison = s.poison := rfl
@[simp] theorem State.mapHarts_pages (s : State) (f : Hart → Hart) : (s.mapHarts f).pages = s.pages := rfl
@[simp] theorem State.mapHarts_tlb (s : State) (f : Hart → Hart) : (s.mapHarts f).tlb = s.tlb := rfl
@[simp] theorem State.mapHarts_kv (s : State) (f : Hart → Hart) : (s.mapHarts f).kv = s.kv := rfl
@[simp] theorem State.mapHarts_codeTabs (s : State) (f : Hart → Hart) : (s.mapHarts f).codeTabs = s.codeTabs := rfl
@[simp] theorem State.mapHarts_lparts (s : State) (f : Hart → Hart) : (s.mapHarts f).lparts = s.lparts := rfl
@[simp] theorem State.mapHarts_arbs (s : State) (f : Hart → Hart) : (s.mapHarts f).arbs = s.arbs := rfl
@[simp] theorem State.mapHarts_cycle (s : State) (f : Hart → Hart) : (s.mapHarts f).cycle = s.cycle := rfl
@[simp] theorem State.mapHarts_lastTick (s : State) (f : Hart → Hart) : (s.mapHarts f).lastTick = s.lastTick := rfl
@[simp] theorem State.mapHarts_beat (s : State) (f : Hart → Hart) : (s.mapHarts f).beat = s.beat := rfl
@[simp] theorem State.mapHarts_nextBeat (s : State) (f : Hart → Hart) : (s.mapHarts f).nextBeat = s.nextBeat := rfl
@[simp] theorem State.mapHarts_beatNo (s : State) (f : Hart → Hart) : (s.mapHarts f).beatNo = s.beatNo := rfl
@[simp] theorem State.mapHarts_beatFrom (s : State) (f : Hart → Hart) : (s.mapHarts f).beatFrom = s.beatFrom := rfl
@[simp] theorem State.mapHarts_gates (s : State) (f : Hart → Hart) : (s.mapHarts f).gates = s.gates := rfl
@[simp] theorem State.mapHarts_merged (s : State) (f : Hart → Hart) : (s.mapHarts f).merged = s.merged := rfl
@[simp] theorem State.mapHarts_granules (s : State) (f : Hart → Hart) : (s.mapHarts f).granules = s.granules := rfl
@[simp] theorem State.mapHarts_jobs (s : State) (f : Hart → Hart) : (s.mapHarts f).jobs = s.jobs := rfl
@[simp] theorem State.mapHarts_nextJob (s : State) (f : Hart → Hart) : (s.mapHarts f).nextJob = s.nextJob := rfl
@[simp] theorem State.mapHarts_seedLog (s : State) (f : Hart → Hart) : (s.mapHarts f).seedLog = s.seedLog := rfl
@[simp] theorem State.mapHarts_seedCount (s : State) (f : Hart → Hart) : (s.mapHarts f).seedCount = s.seedCount := rfl
@[simp] theorem State.mapHarts_stage (s : State) (f : Hart → Hart) : (s.mapHarts f).stage = s.stage := rfl
@[simp] theorem State.mapHarts_joined (s : State) (f : Hart → Hart) : (s.mapHarts f).joined = s.joined := rfl
@[simp] theorem State.mapHarts_verified (s : State) (f : Hart → Hart) : (s.mapHarts f).verified = s.verified := rfl
@[simp] theorem State.mapHarts_firmwareGood (s : State) (f : Hart → Hart) : (s.mapHarts f).firmwareGood = s.firmwareGood := rfl
@[simp] theorem State.mapHarts_startDone (s : State) (f : Hart → Hart) : (s.mapHarts f).startDone = s.startDone := rfl
@[simp] theorem State.mapHarts_aqbase (s : State) (f : Hart → Hart) : (s.mapHarts f).aqbase = s.aqbase := rfl
@[simp] theorem State.mapHarts_aqctl (s : State) (f : Hart → Hart) : (s.mapHarts f).aqctl = s.aqctl := rfl
@[simp] theorem State.mapHarts_pstate (s : State) (f : Hart → Hart) : (s.mapHarts f).pstate = s.pstate := rfl
@[simp] theorem State.mapHarts_queues (s : State) (f : Hart → Hart) : (s.mapHarts f).queues = s.queues := rfl
@[simp] theorem State.mapHarts_cmds (s : State) (f : Hart → Hart) : (s.mapHarts f).cmds = s.cmds := rfl
@[simp] theorem State.mapHarts_inHand (s : State) (f : Hart → Hart) : (s.mapHarts f).inHand = s.inHand := rfl
@[simp] theorem State.mapHarts_journal (s : State) (f : Hart → Hart) : (s.mapHarts f).journal = s.journal := rfl
@[simp] theorem State.mapHarts_jhead (s : State) (f : Hart → Hart) : (s.mapHarts f).jhead = s.jhead := rfl
@[simp] theorem State.mapHarts_launches (s : State) (f : Hart → Hart) : (s.mapHarts f).launches = s.launches := rfl
@[simp] theorem State.mapHarts_objs (s : State) (f : Hart → Hart) : (s.mapHarts f).objs = s.objs := rfl
@[simp] theorem State.mapHarts_asids (s : State) (f : Hart → Hart) : (s.mapHarts f).asids = s.asids := rfl
@[simp] theorem State.mapHarts_rings (s : State) (f : Hart → Hart) : (s.mapHarts f).rings = s.rings := rfl
@[simp] theorem State.mapHarts_events (s : State) (f : Hart → Hart) : (s.mapHarts f).events = s.events := rfl
@[simp] theorem State.mapHarts_ewt (s : State) (f : Hart → Hart) : (s.mapHarts f).ewt = s.ewt := rfl
@[simp] theorem State.mapHarts_remaps (s : State) (f : Hart → Hart) : (s.mapHarts f).remaps = s.remaps := rfl
@[simp] theorem State.mapHarts_padPoison (s : State) (f : Hart → Hart) : (s.mapHarts f).padPoison = s.padPoison := rfl
@[simp] theorem State.mapHarts_kvOld (s : State) (f : Hart → Hart) : (s.mapHarts f).kvOld = s.kvOld := rfl
@[simp] theorem State.mapHarts_replicas (s : State) (f : Hart → Hart) : (s.mapHarts f).replicas = s.replicas := rfl
@[simp] theorem State.mapHarts_delaying (s : State) (f : Hart → Hart) : (s.mapHarts f).delaying = s.delaying := rfl
@[simp] theorem State.mapHarts_fromReplica (s : State) (f : Hart → Hart) : (s.mapHarts f).fromReplica = s.fromReplica := rfl
@[simp] theorem State.mapHarts_portsLost (s : State) (f : Hart → Hart) : (s.mapHarts f).portsLost = s.portsLost := rfl
@[simp] theorem State.mapHarts_exhausted (s : State) (f : Hart → Hart) : (s.mapHarts f).exhausted = s.exhausted := rfl
@[simp] theorem State.mapHarts_holding (s : State) (f : Hart → Hart) : (s.mapHarts f).holding = s.holding := rfl
@[simp] theorem State.mapHarts_loadLat (s : State) (f : Hart → Hart) : (s.mapHarts f).loadLat = s.loadLat := rfl
@[simp] theorem State.mapHarts_holdBack (s : State) (f : Hart → Hart) : (s.mapHarts f).holdBack = s.holdBack := rfl
@[simp] theorem State.mapHarts_draws (s : State) (f : Hart → Hart) : (s.mapHarts f).draws = s.draws := rfl
@[simp] theorem State.mapHarts_agenda (s : State) (f : Hart → Hart) : (s.mapHarts f).agenda = s.agenda := rfl

/-! ## `State.commitPad` -/

@[simp] theorem State.commitPad_hart (s : State) (a : Nat) (bs : List Byte) : (s.commitPad a bs).hart = s.hart := rfl
@[simp] theorem State.commitPad_parked (s : State) (a : Nat) (bs : List Byte) : (s.commitPad a bs).parked = s.parked := rfl
@[simp] theorem State.commitPad_mem (s : State) (a : Nat) (bs : List Byte) : (s.commitPad a bs).mem = s.mem := rfl
@[simp] theorem State.commitPad_pads (s : State) (a : Nat) (bs : List Byte) : (s.commitPad a bs).pads = memStore s.pads a bs := rfl
@[simp] theorem State.commitPad_poison (s : State) (a : Nat) (bs : List Byte) : (s.commitPad a bs).poison = s.poison := rfl
@[simp] theorem State.commitPad_pages (s : State) (a : Nat) (bs : List Byte) : (s.commitPad a bs).pages = s.pages := rfl
@[simp] theorem State.commitPad_tlb (s : State) (a : Nat) (bs : List Byte) : (s.commitPad a bs).tlb = s.tlb := rfl
@[simp] theorem State.commitPad_kv (s : State) (a : Nat) (bs : List Byte) : (s.commitPad a bs).kv = s.kv := rfl
@[simp] theorem State.commitPad_codeTabs (s : State) (a : Nat) (bs : List Byte) : (s.commitPad a bs).codeTabs = s.codeTabs := rfl
@[simp] theorem State.commitPad_lparts (s : State) (a : Nat) (bs : List Byte) : (s.commitPad a bs).lparts = s.lparts := rfl
@[simp] theorem State.commitPad_arbs (s : State) (a : Nat) (bs : List Byte) : (s.commitPad a bs).arbs = s.arbs := rfl
@[simp] theorem State.commitPad_cycle (s : State) (a : Nat) (bs : List Byte) : (s.commitPad a bs).cycle = s.cycle := rfl
@[simp] theorem State.commitPad_lastTick (s : State) (a : Nat) (bs : List Byte) : (s.commitPad a bs).lastTick = s.lastTick := rfl
@[simp] theorem State.commitPad_beat (s : State) (a : Nat) (bs : List Byte) : (s.commitPad a bs).beat = s.beat := rfl
@[simp] theorem State.commitPad_nextBeat (s : State) (a : Nat) (bs : List Byte) : (s.commitPad a bs).nextBeat = s.nextBeat := rfl
@[simp] theorem State.commitPad_beatNo (s : State) (a : Nat) (bs : List Byte) : (s.commitPad a bs).beatNo = s.beatNo := rfl
@[simp] theorem State.commitPad_beatFrom (s : State) (a : Nat) (bs : List Byte) : (s.commitPad a bs).beatFrom = s.beatFrom := rfl
@[simp] theorem State.commitPad_gates (s : State) (a : Nat) (bs : List Byte) : (s.commitPad a bs).gates = s.gates := rfl
@[simp] theorem State.commitPad_merged (s : State) (a : Nat) (bs : List Byte) : (s.commitPad a bs).merged = s.merged := rfl
@[simp] theorem State.commitPad_granules (s : State) (a : Nat) (bs : List Byte) : (s.commitPad a bs).granules = s.granules := rfl
@[simp] theorem State.commitPad_jobs (s : State) (a : Nat) (bs : List Byte) : (s.commitPad a bs).jobs = s.jobs := rfl
@[simp] theorem State.commitPad_nextJob (s : State) (a : Nat) (bs : List Byte) : (s.commitPad a bs).nextJob = s.nextJob := rfl
@[simp] theorem State.commitPad_seedLog (s : State) (a : Nat) (bs : List Byte) : (s.commitPad a bs).seedLog = s.seedLog := rfl
@[simp] theorem State.commitPad_seedCount (s : State) (a : Nat) (bs : List Byte) : (s.commitPad a bs).seedCount = s.seedCount := rfl
@[simp] theorem State.commitPad_stage (s : State) (a : Nat) (bs : List Byte) : (s.commitPad a bs).stage = s.stage := rfl
@[simp] theorem State.commitPad_joined (s : State) (a : Nat) (bs : List Byte) : (s.commitPad a bs).joined = s.joined := rfl
@[simp] theorem State.commitPad_verified (s : State) (a : Nat) (bs : List Byte) : (s.commitPad a bs).verified = s.verified := rfl
@[simp] theorem State.commitPad_firmwareGood (s : State) (a : Nat) (bs : List Byte) : (s.commitPad a bs).firmwareGood = s.firmwareGood := rfl
@[simp] theorem State.commitPad_startDone (s : State) (a : Nat) (bs : List Byte) : (s.commitPad a bs).startDone = s.startDone := rfl
@[simp] theorem State.commitPad_aqbase (s : State) (a : Nat) (bs : List Byte) : (s.commitPad a bs).aqbase = s.aqbase := rfl
@[simp] theorem State.commitPad_aqctl (s : State) (a : Nat) (bs : List Byte) : (s.commitPad a bs).aqctl = s.aqctl := rfl
@[simp] theorem State.commitPad_pstate (s : State) (a : Nat) (bs : List Byte) : (s.commitPad a bs).pstate = s.pstate := rfl
@[simp] theorem State.commitPad_queues (s : State) (a : Nat) (bs : List Byte) : (s.commitPad a bs).queues = s.queues := rfl
@[simp] theorem State.commitPad_cmds (s : State) (a : Nat) (bs : List Byte) : (s.commitPad a bs).cmds = s.cmds := rfl
@[simp] theorem State.commitPad_inHand (s : State) (a : Nat) (bs : List Byte) : (s.commitPad a bs).inHand = s.inHand := rfl
@[simp] theorem State.commitPad_journal (s : State) (a : Nat) (bs : List Byte) : (s.commitPad a bs).journal = s.journal := rfl
@[simp] theorem State.commitPad_jhead (s : State) (a : Nat) (bs : List Byte) : (s.commitPad a bs).jhead = s.jhead := rfl
@[simp] theorem State.commitPad_launches (s : State) (a : Nat) (bs : List Byte) : (s.commitPad a bs).launches = s.launches := rfl
@[simp] theorem State.commitPad_objs (s : State) (a : Nat) (bs : List Byte) : (s.commitPad a bs).objs = s.objs := rfl
@[simp] theorem State.commitPad_asids (s : State) (a : Nat) (bs : List Byte) : (s.commitPad a bs).asids = s.asids := rfl
@[simp] theorem State.commitPad_rings (s : State) (a : Nat) (bs : List Byte) : (s.commitPad a bs).rings = s.rings := rfl
@[simp] theorem State.commitPad_events (s : State) (a : Nat) (bs : List Byte) : (s.commitPad a bs).events = s.events := rfl
@[simp] theorem State.commitPad_ewt (s : State) (a : Nat) (bs : List Byte) : (s.commitPad a bs).ewt = s.ewt := rfl
@[simp] theorem State.commitPad_remaps (s : State) (a : Nat) (bs : List Byte) : (s.commitPad a bs).remaps = s.remaps := rfl
@[simp] theorem State.commitPad_padPoison (s : State) (a : Nat) (bs : List Byte) : (s.commitPad a bs).padPoison =
    s.padPoison.filter (fun p => !(decide (a ≤ p) && decide (p < a + bs.length))) := rfl
@[simp] theorem State.commitPad_kvOld (s : State) (a : Nat) (bs : List Byte) : (s.commitPad a bs).kvOld = s.kvOld := rfl
@[simp] theorem State.commitPad_replicas (s : State) (a : Nat) (bs : List Byte) : (s.commitPad a bs).replicas = s.replicas := rfl
@[simp] theorem State.commitPad_delaying (s : State) (a : Nat) (bs : List Byte) : (s.commitPad a bs).delaying = s.delaying := rfl
@[simp] theorem State.commitPad_fromReplica (s : State) (a : Nat) (bs : List Byte) : (s.commitPad a bs).fromReplica = s.fromReplica := rfl
@[simp] theorem State.commitPad_portsLost (s : State) (a : Nat) (bs : List Byte) : (s.commitPad a bs).portsLost = s.portsLost := rfl
@[simp] theorem State.commitPad_exhausted (s : State) (a : Nat) (bs : List Byte) : (s.commitPad a bs).exhausted = s.exhausted := rfl
@[simp] theorem State.commitPad_holding (s : State) (a : Nat) (bs : List Byte) : (s.commitPad a bs).holding = s.holding := rfl
@[simp] theorem State.commitPad_loadLat (s : State) (a : Nat) (bs : List Byte) : (s.commitPad a bs).loadLat = s.loadLat := rfl
@[simp] theorem State.commitPad_holdBack (s : State) (a : Nat) (bs : List Byte) : (s.commitPad a bs).holdBack = s.holdBack := rfl
@[simp] theorem State.commitPad_draws (s : State) (a : Nat) (bs : List Byte) : (s.commitPad a bs).draws = s.draws := rfl
@[simp] theorem State.commitPad_agenda (s : State) (a : Nat) (bs : List Byte) : (s.commitPad a bs).agenda = s.agenda := rfl

/-! ## `State.post` -/

@[simp] theorem State.post_hart (s : State) (e : FdEvent) : (s.post e).hart = s.hart := rfl
@[simp] theorem State.post_parked (s : State) (e : FdEvent) : (s.post e).parked = s.parked := rfl
@[simp] theorem State.post_mem (s : State) (e : FdEvent) : (s.post e).mem = s.mem := rfl
@[simp] theorem State.post_pads (s : State) (e : FdEvent) : (s.post e).pads = s.pads := rfl
@[simp] theorem State.post_poison (s : State) (e : FdEvent) : (s.post e).poison = s.poison := rfl
@[simp] theorem State.post_pages (s : State) (e : FdEvent) : (s.post e).pages = s.pages := rfl
@[simp] theorem State.post_tlb (s : State) (e : FdEvent) : (s.post e).tlb = s.tlb := rfl
@[simp] theorem State.post_kv (s : State) (e : FdEvent) : (s.post e).kv = s.kv := rfl
@[simp] theorem State.post_codeTabs (s : State) (e : FdEvent) : (s.post e).codeTabs = s.codeTabs := rfl
@[simp] theorem State.post_lparts (s : State) (e : FdEvent) : (s.post e).lparts = s.lparts := rfl
@[simp] theorem State.post_arbs (s : State) (e : FdEvent) : (s.post e).arbs = s.arbs := rfl
@[simp] theorem State.post_cycle (s : State) (e : FdEvent) : (s.post e).cycle = s.cycle := rfl
@[simp] theorem State.post_lastTick (s : State) (e : FdEvent) : (s.post e).lastTick = s.lastTick := rfl
@[simp] theorem State.post_beat (s : State) (e : FdEvent) : (s.post e).beat = s.beat := rfl
@[simp] theorem State.post_nextBeat (s : State) (e : FdEvent) : (s.post e).nextBeat = s.nextBeat := rfl
@[simp] theorem State.post_beatNo (s : State) (e : FdEvent) : (s.post e).beatNo = s.beatNo := rfl
@[simp] theorem State.post_beatFrom (s : State) (e : FdEvent) : (s.post e).beatFrom = s.beatFrom := rfl
@[simp] theorem State.post_gates (s : State) (e : FdEvent) : (s.post e).gates = s.gates := rfl
@[simp] theorem State.post_merged (s : State) (e : FdEvent) : (s.post e).merged = s.merged := rfl
@[simp] theorem State.post_granules (s : State) (e : FdEvent) : (s.post e).granules = s.granules := rfl
@[simp] theorem State.post_jobs (s : State) (e : FdEvent) : (s.post e).jobs = s.jobs := rfl
@[simp] theorem State.post_nextJob (s : State) (e : FdEvent) : (s.post e).nextJob = s.nextJob := rfl
@[simp] theorem State.post_seedLog (s : State) (e : FdEvent) : (s.post e).seedLog = s.seedLog := rfl
@[simp] theorem State.post_seedCount (s : State) (e : FdEvent) : (s.post e).seedCount = s.seedCount := rfl
@[simp] theorem State.post_stage (s : State) (e : FdEvent) : (s.post e).stage = s.stage := rfl
@[simp] theorem State.post_joined (s : State) (e : FdEvent) : (s.post e).joined = s.joined := rfl
@[simp] theorem State.post_verified (s : State) (e : FdEvent) : (s.post e).verified = s.verified := rfl
@[simp] theorem State.post_firmwareGood (s : State) (e : FdEvent) : (s.post e).firmwareGood = s.firmwareGood := rfl
@[simp] theorem State.post_startDone (s : State) (e : FdEvent) : (s.post e).startDone = s.startDone := rfl
@[simp] theorem State.post_aqbase (s : State) (e : FdEvent) : (s.post e).aqbase = s.aqbase := rfl
@[simp] theorem State.post_aqctl (s : State) (e : FdEvent) : (s.post e).aqctl = s.aqctl := rfl
@[simp] theorem State.post_pstate (s : State) (e : FdEvent) : (s.post e).pstate = s.pstate := rfl
@[simp] theorem State.post_queues (s : State) (e : FdEvent) : (s.post e).queues = s.queues := rfl
@[simp] theorem State.post_cmds (s : State) (e : FdEvent) : (s.post e).cmds = s.cmds := rfl
@[simp] theorem State.post_inHand (s : State) (e : FdEvent) : (s.post e).inHand = s.inHand := rfl
@[simp] theorem State.post_journal (s : State) (e : FdEvent) : (s.post e).journal = s.journal := rfl
@[simp] theorem State.post_jhead (s : State) (e : FdEvent) : (s.post e).jhead = s.jhead := rfl
@[simp] theorem State.post_launches (s : State) (e : FdEvent) : (s.post e).launches = s.launches := rfl
@[simp] theorem State.post_objs (s : State) (e : FdEvent) : (s.post e).objs = s.objs := rfl
@[simp] theorem State.post_asids (s : State) (e : FdEvent) : (s.post e).asids = s.asids := rfl
@[simp] theorem State.post_rings (s : State) (e : FdEvent) : (s.post e).rings = s.rings := rfl
@[simp] theorem State.post_events (s : State) (e : FdEvent) : (s.post e).events = s.events ++ [e] := rfl
@[simp] theorem State.post_ewt (s : State) (e : FdEvent) : (s.post e).ewt = s.ewt := rfl
@[simp] theorem State.post_remaps (s : State) (e : FdEvent) : (s.post e).remaps = s.remaps := rfl
@[simp] theorem State.post_padPoison (s : State) (e : FdEvent) : (s.post e).padPoison = s.padPoison := rfl
@[simp] theorem State.post_kvOld (s : State) (e : FdEvent) : (s.post e).kvOld = s.kvOld := rfl
@[simp] theorem State.post_replicas (s : State) (e : FdEvent) : (s.post e).replicas = s.replicas := rfl
@[simp] theorem State.post_delaying (s : State) (e : FdEvent) : (s.post e).delaying = s.delaying := rfl
@[simp] theorem State.post_fromReplica (s : State) (e : FdEvent) : (s.post e).fromReplica = s.fromReplica := rfl
@[simp] theorem State.post_portsLost (s : State) (e : FdEvent) : (s.post e).portsLost = s.portsLost := rfl
@[simp] theorem State.post_exhausted (s : State) (e : FdEvent) : (s.post e).exhausted = s.exhausted := rfl
@[simp] theorem State.post_holding (s : State) (e : FdEvent) : (s.post e).holding = s.holding := rfl
@[simp] theorem State.post_loadLat (s : State) (e : FdEvent) : (s.post e).loadLat = s.loadLat := rfl
@[simp] theorem State.post_holdBack (s : State) (e : FdEvent) : (s.post e).holdBack = s.holdBack := rfl
@[simp] theorem State.post_draws (s : State) (e : FdEvent) : (s.post e).draws = s.draws := rfl
@[simp] theorem State.post_agenda (s : State) (e : FdEvent) : (s.post e).agenda = s.agenda := rfl

/-! ## `Hart.advance` -/

@[simp] theorem Hart.advance_id (h : Hart) (n : Nat) : (h.advance n).id = h.id := rfl
@[simp] theorem Hart.advance_info (h : Hart) (n : Nat) : (h.advance n).info = h.info := rfl
@[simp] theorem Hart.advance_st (h : Hart) (n : Nat) : (h.advance n).st = h.st := rfl
@[simp] theorem Hart.advance_core (h : Hart) (n : Nat) : (h.advance n).core = h.core := rfl
@[simp] theorem Hart.advance_ctx (h : Hart) (n : Nat) : (h.advance n).ctx = h.ctx := rfl
@[simp] theorem Hart.advance_w (h : Hart) (n : Nat) : (h.advance n).w = h.w := rfl
@[simp] theorem Hart.advance_lgb (h : Hart) (n : Nat) : (h.advance n).lgb = h.lgb := rfl
@[simp] theorem Hart.advance_rowBase (h : Hart) (n : Nat) : (h.advance n).rowBase = h.rowBase := rfl
@[simp] theorem Hart.advance_since (h : Hart) (n : Nat) : (h.advance n).since = h.since := rfl
@[simp] theorem Hart.advance_sregs (h : Hart) (n : Nat) : (h.advance n).sregs = h.sregs := rfl
@[simp] theorem Hart.advance_pc (h : Hart) (n : Nat) : (h.advance n).pc = h.pc + BitVec.ofNat 64 n := rfl
@[simp] theorem Hart.advance_vregs (h : Hart) (n : Nat) : (h.advance n).vregs = h.vregs := rfl
@[simp] theorem Hart.advance_masks (h : Hart) (n : Nat) : (h.advance n).masks = h.masks := rfl
@[simp] theorem Hart.advance_cvgm (h : Hart) (n : Nat) : (h.advance n).cvgm = h.cvgm := rfl
@[simp] theorem Hart.advance_scales (h : Hart) (n : Nat) : (h.advance n).scales = h.scales := rfl
@[simp] theorem Hart.advance_tiles (h : Hart) (n : Nat) : (h.advance n).tiles = h.tiles := rfl
@[simp] theorem Hart.advance_trows (h : Hart) (n : Nat) : (h.advance n).trows = h.trows := rfl
@[simp] theorem Hart.advance_vl (h : Hart) (n : Nat) : (h.advance n).vl = h.vl := rfl
@[simp] theorem Hart.advance_headEw (h : Hart) (n : Nat) : (h.advance n).headEw = h.headEw := rfl
@[simp] theorem Hart.advance_headGrp (h : Hart) (n : Nat) : (h.advance n).headGrp = h.headGrp := rfl
@[simp] theorem Hart.advance_flags (h : Hart) (n : Nat) : (h.advance n).flags = h.flags := rfl
@[simp] theorem Hart.advance_rmode (h : Hart) (n : Nat) : (h.advance n).rmode = h.rmode := rfl
@[simp] theorem Hart.advance_rotn (h : Hart) (n : Nat) : (h.advance n).rotn = h.rotn := rfl
@[simp] theorem Hart.advance_seed (h : Hart) (n : Nat) : (h.advance n).seed = h.seed := rfl
@[simp] theorem Hart.advance_dens (h : Hart) (n : Nat) : (h.advance n).dens = h.dens := rfl
@[simp] theorem Hart.advance_trapbase (h : Hart) (n : Nat) : (h.advance n).trapbase = h.trapbase := rfl
@[simp] theorem Hart.advance_repth (h : Hart) (n : Nat) : (h.advance n).repth = h.repth := rfl
@[simp] theorem Hart.advance_ridx (h : Hart) (n : Nat) : (h.advance n).ridx = h.ridx := rfl
@[simp] theorem Hart.advance_ecnt (h : Hart) (n : Nat) : (h.advance n).ecnt = h.ecnt := rfl
@[simp] theorem Hart.advance_gens (h : Hart) (n : Nat) : (h.advance n).gens = h.gens := rfl
@[simp] theorem Hart.advance_windows (h : Hart) (n : Nat) : (h.advance n).windows = h.windows := rfl
@[simp] theorem Hart.advance_pend (h : Hart) (n : Nat) : (h.advance n).pend = h.pend := rfl
@[simp] theorem Hart.advance_heldStrips (h : Hart) (n : Nat) : (h.advance n).heldStrips = h.heldStrips := rfl
@[simp] theorem Hart.advance_wbuf (h : Hart) (n : Nat) : (h.advance n).wbuf = h.wbuf := rfl
@[simp] theorem Hart.advance_sect (h : Hart) (n : Nat) : (h.advance n).sect = h.sect := rfl
@[simp] theorem Hart.advance_replay (h : Hart) (n : Nat) : (h.advance n).replay = h.replay := rfl
@[simp] theorem Hart.advance_tx (h : Hart) (n : Nat) : (h.advance n).tx = h.tx := rfl
@[simp] theorem Hart.advance_handler (h : Hart) (n : Nat) : (h.advance n).handler = h.handler := rfl
@[simp] theorem Hart.advance_save (h : Hart) (n : Nat) : (h.advance n).save = h.save := rfl
@[simp] theorem Hart.advance_restart (h : Hart) (n : Nat) : (h.advance n).restart = h.restart := rfl
@[simp] theorem Hart.advance_soft (h : Hart) (n : Nat) : (h.advance n).soft = h.soft := rfl
@[simp] theorem Hart.advance_lateWord (h : Hart) (n : Nat) : (h.advance n).lateWord = h.lateWord := rfl
@[simp] theorem Hart.advance_late (h : Hart) (n : Nat) : (h.advance n).late = h.late := rfl
@[simp] theorem Hart.advance_counted (h : Hart) (n : Nat) : (h.advance n).counted = h.counted := rfl
@[simp] theorem Hart.advance_badRegs (h : Hart) (n : Nat) : (h.advance n).badRegs = h.badRegs := rfl
@[simp] theorem Hart.advance_cancelling (h : Hart) (n : Nat) : (h.advance n).cancelling = h.cancelling := rfl
@[simp] theorem Hart.advance_hardReq (h : Hart) (n : Nat) : (h.advance n).hardReq = h.hardReq := rfl
@[simp] theorem Hart.advance_partDue (h : Hart) (n : Nat) : (h.advance n).partDue = h.partDue := rfl
@[simp] theorem Hart.advance_wdogFrom (h : Hart) (n : Nat) : (h.advance n).wdogFrom = h.wdogFrom := rfl
@[simp] theorem Hart.advance_watch (h : Hart) (n : Nat) : (h.advance n).watch = h.watch := rfl
@[simp] theorem Hart.advance_ir (h : Hart) (n : Nat) : (h.advance n).ir = h.ir := rfl
@[simp] theorem Hart.advance_irPayload (h : Hart) (n : Nat) : (h.advance n).irPayload = h.irPayload := rfl
@[simp] theorem Hart.advance_lane (h : Hart) (n : Nat) : (h.advance n).lane = h.lane := rfl
@[simp] theorem Hart.advance_limit (h : Hart) (n : Nat) : (h.advance n).limit = h.limit := rfl
@[simp] theorem Hart.advance_taken (h : Hart) (n : Nat) : (h.advance n).taken = h.taken := rfl
@[simp] theorem Hart.advance_walked (h : Hart) (n : Nat) : (h.advance n).walked = h.walked := rfl

/-! ## `Hart.raise` -/

@[simp] theorem Hart.raise_id (h : Hart) (n : Nat) : (h.raise n).id = h.id := rfl
@[simp] theorem Hart.raise_info (h : Hart) (n : Nat) : (h.raise n).info = h.info := rfl
@[simp] theorem Hart.raise_st (h : Hart) (n : Nat) : (h.raise n).st = h.st := rfl
@[simp] theorem Hart.raise_core (h : Hart) (n : Nat) : (h.raise n).core = h.core := rfl
@[simp] theorem Hart.raise_ctx (h : Hart) (n : Nat) : (h.raise n).ctx = h.ctx := rfl
@[simp] theorem Hart.raise_w (h : Hart) (n : Nat) : (h.raise n).w = h.w := rfl
@[simp] theorem Hart.raise_lgb (h : Hart) (n : Nat) : (h.raise n).lgb = h.lgb := rfl
@[simp] theorem Hart.raise_rowBase (h : Hart) (n : Nat) : (h.raise n).rowBase = h.rowBase := rfl
@[simp] theorem Hart.raise_since (h : Hart) (n : Nat) : (h.raise n).since = h.since := rfl
@[simp] theorem Hart.raise_sregs (h : Hart) (n : Nat) : (h.raise n).sregs = h.sregs := rfl
@[simp] theorem Hart.raise_pc (h : Hart) (n : Nat) : (h.raise n).pc = h.pc := rfl
@[simp] theorem Hart.raise_vregs (h : Hart) (n : Nat) : (h.raise n).vregs = h.vregs := rfl
@[simp] theorem Hart.raise_masks (h : Hart) (n : Nat) : (h.raise n).masks = h.masks := rfl
@[simp] theorem Hart.raise_cvgm (h : Hart) (n : Nat) : (h.raise n).cvgm = h.cvgm := rfl
@[simp] theorem Hart.raise_scales (h : Hart) (n : Nat) : (h.raise n).scales = h.scales := rfl
@[simp] theorem Hart.raise_tiles (h : Hart) (n : Nat) : (h.raise n).tiles = h.tiles := rfl
@[simp] theorem Hart.raise_trows (h : Hart) (n : Nat) : (h.raise n).trows = h.trows := rfl
@[simp] theorem Hart.raise_vl (h : Hart) (n : Nat) : (h.raise n).vl = h.vl := rfl
@[simp] theorem Hart.raise_headEw (h : Hart) (n : Nat) : (h.raise n).headEw = h.headEw := rfl
@[simp] theorem Hart.raise_headGrp (h : Hart) (n : Nat) : (h.raise n).headGrp = h.headGrp := rfl
@[simp] theorem Hart.raise_flags (h : Hart) (n : Nat) : (h.raise n).flags = h.flags ||| BitVec.ofNat 64 n := rfl
@[simp] theorem Hart.raise_rmode (h : Hart) (n : Nat) : (h.raise n).rmode = h.rmode := rfl
@[simp] theorem Hart.raise_rotn (h : Hart) (n : Nat) : (h.raise n).rotn = h.rotn := rfl
@[simp] theorem Hart.raise_seed (h : Hart) (n : Nat) : (h.raise n).seed = h.seed := rfl
@[simp] theorem Hart.raise_dens (h : Hart) (n : Nat) : (h.raise n).dens = h.dens := rfl
@[simp] theorem Hart.raise_trapbase (h : Hart) (n : Nat) : (h.raise n).trapbase = h.trapbase := rfl
@[simp] theorem Hart.raise_repth (h : Hart) (n : Nat) : (h.raise n).repth = h.repth := rfl
@[simp] theorem Hart.raise_ridx (h : Hart) (n : Nat) : (h.raise n).ridx = h.ridx := rfl
@[simp] theorem Hart.raise_ecnt (h : Hart) (n : Nat) : (h.raise n).ecnt = h.ecnt := rfl
@[simp] theorem Hart.raise_gens (h : Hart) (n : Nat) : (h.raise n).gens = h.gens := rfl
@[simp] theorem Hart.raise_windows (h : Hart) (n : Nat) : (h.raise n).windows = h.windows := rfl
@[simp] theorem Hart.raise_pend (h : Hart) (n : Nat) : (h.raise n).pend = h.pend := rfl
@[simp] theorem Hart.raise_heldStrips (h : Hart) (n : Nat) : (h.raise n).heldStrips = h.heldStrips := rfl
@[simp] theorem Hart.raise_wbuf (h : Hart) (n : Nat) : (h.raise n).wbuf = h.wbuf := rfl
@[simp] theorem Hart.raise_sect (h : Hart) (n : Nat) : (h.raise n).sect = h.sect := rfl
@[simp] theorem Hart.raise_replay (h : Hart) (n : Nat) : (h.raise n).replay = h.replay := rfl
@[simp] theorem Hart.raise_tx (h : Hart) (n : Nat) : (h.raise n).tx = h.tx := rfl
@[simp] theorem Hart.raise_handler (h : Hart) (n : Nat) : (h.raise n).handler = h.handler := rfl
@[simp] theorem Hart.raise_save (h : Hart) (n : Nat) : (h.raise n).save = h.save := rfl
@[simp] theorem Hart.raise_restart (h : Hart) (n : Nat) : (h.raise n).restart = h.restart := rfl
@[simp] theorem Hart.raise_soft (h : Hart) (n : Nat) : (h.raise n).soft = h.soft := rfl
@[simp] theorem Hart.raise_lateWord (h : Hart) (n : Nat) : (h.raise n).lateWord = h.lateWord := rfl
@[simp] theorem Hart.raise_late (h : Hart) (n : Nat) : (h.raise n).late = h.late := rfl
@[simp] theorem Hart.raise_counted (h : Hart) (n : Nat) : (h.raise n).counted = h.counted := rfl
@[simp] theorem Hart.raise_badRegs (h : Hart) (n : Nat) : (h.raise n).badRegs = h.badRegs := rfl
@[simp] theorem Hart.raise_cancelling (h : Hart) (n : Nat) : (h.raise n).cancelling = h.cancelling := rfl
@[simp] theorem Hart.raise_hardReq (h : Hart) (n : Nat) : (h.raise n).hardReq = h.hardReq := rfl
@[simp] theorem Hart.raise_partDue (h : Hart) (n : Nat) : (h.raise n).partDue = h.partDue := rfl
@[simp] theorem Hart.raise_wdogFrom (h : Hart) (n : Nat) : (h.raise n).wdogFrom = h.wdogFrom := rfl
@[simp] theorem Hart.raise_watch (h : Hart) (n : Nat) : (h.raise n).watch = h.watch := rfl
@[simp] theorem Hart.raise_ir (h : Hart) (n : Nat) : (h.raise n).ir = h.ir := rfl
@[simp] theorem Hart.raise_irPayload (h : Hart) (n : Nat) : (h.raise n).irPayload = h.irPayload := rfl
@[simp] theorem Hart.raise_lane (h : Hart) (n : Nat) : (h.raise n).lane = h.lane := rfl
@[simp] theorem Hart.raise_limit (h : Hart) (n : Nat) : (h.raise n).limit = h.limit := rfl
@[simp] theorem Hart.raise_taken (h : Hart) (n : Nat) : (h.raise n).taken = h.taken := rfl
@[simp] theorem Hart.raise_walked (h : Hart) (n : Nat) : (h.raise n).walked = h.walked := rfl

/-! ## `Hart.withWord` -/

@[simp] theorem Hart.withWord_id (h : Hart) (w p : BitVec 32) : (h.withWord w p).id = h.id := rfl
@[simp] theorem Hart.withWord_info (h : Hart) (w p : BitVec 32) : (h.withWord w p).info = h.info := rfl
@[simp] theorem Hart.withWord_st (h : Hart) (w p : BitVec 32) : (h.withWord w p).st = h.st := rfl
@[simp] theorem Hart.withWord_core (h : Hart) (w p : BitVec 32) : (h.withWord w p).core = h.core := rfl
@[simp] theorem Hart.withWord_ctx (h : Hart) (w p : BitVec 32) : (h.withWord w p).ctx = h.ctx := rfl
@[simp] theorem Hart.withWord_w (h : Hart) (w p : BitVec 32) : (h.withWord w p).w = h.w := rfl
@[simp] theorem Hart.withWord_lgb (h : Hart) (w p : BitVec 32) : (h.withWord w p).lgb = h.lgb := rfl
@[simp] theorem Hart.withWord_rowBase (h : Hart) (w p : BitVec 32) : (h.withWord w p).rowBase = h.rowBase := rfl
@[simp] theorem Hart.withWord_since (h : Hart) (w p : BitVec 32) : (h.withWord w p).since = h.since := rfl
@[simp] theorem Hart.withWord_sregs (h : Hart) (w p : BitVec 32) : (h.withWord w p).sregs = h.sregs := rfl
@[simp] theorem Hart.withWord_pc (h : Hart) (w p : BitVec 32) : (h.withWord w p).pc = h.pc := rfl
@[simp] theorem Hart.withWord_vregs (h : Hart) (w p : BitVec 32) : (h.withWord w p).vregs = h.vregs := rfl
@[simp] theorem Hart.withWord_masks (h : Hart) (w p : BitVec 32) : (h.withWord w p).masks = h.masks := rfl
@[simp] theorem Hart.withWord_cvgm (h : Hart) (w p : BitVec 32) : (h.withWord w p).cvgm = h.cvgm := rfl
@[simp] theorem Hart.withWord_scales (h : Hart) (w p : BitVec 32) : (h.withWord w p).scales = h.scales := rfl
@[simp] theorem Hart.withWord_tiles (h : Hart) (w p : BitVec 32) : (h.withWord w p).tiles = h.tiles := rfl
@[simp] theorem Hart.withWord_trows (h : Hart) (w p : BitVec 32) : (h.withWord w p).trows = h.trows := rfl
@[simp] theorem Hart.withWord_vl (h : Hart) (w p : BitVec 32) : (h.withWord w p).vl = h.vl := rfl
@[simp] theorem Hart.withWord_headEw (h : Hart) (w p : BitVec 32) : (h.withWord w p).headEw = h.headEw := rfl
@[simp] theorem Hart.withWord_headGrp (h : Hart) (w p : BitVec 32) : (h.withWord w p).headGrp = h.headGrp := rfl
@[simp] theorem Hart.withWord_flags (h : Hart) (w p : BitVec 32) : (h.withWord w p).flags = h.flags := rfl
@[simp] theorem Hart.withWord_rmode (h : Hart) (w p : BitVec 32) : (h.withWord w p).rmode = h.rmode := rfl
@[simp] theorem Hart.withWord_rotn (h : Hart) (w p : BitVec 32) : (h.withWord w p).rotn = h.rotn := rfl
@[simp] theorem Hart.withWord_seed (h : Hart) (w p : BitVec 32) : (h.withWord w p).seed = h.seed := rfl
@[simp] theorem Hart.withWord_dens (h : Hart) (w p : BitVec 32) : (h.withWord w p).dens = h.dens := rfl
@[simp] theorem Hart.withWord_trapbase (h : Hart) (w p : BitVec 32) : (h.withWord w p).trapbase = h.trapbase := rfl
@[simp] theorem Hart.withWord_repth (h : Hart) (w p : BitVec 32) : (h.withWord w p).repth = h.repth := rfl
@[simp] theorem Hart.withWord_ridx (h : Hart) (w p : BitVec 32) : (h.withWord w p).ridx = h.ridx := rfl
@[simp] theorem Hart.withWord_ecnt (h : Hart) (w p : BitVec 32) : (h.withWord w p).ecnt = h.ecnt := rfl
@[simp] theorem Hart.withWord_gens (h : Hart) (w p : BitVec 32) : (h.withWord w p).gens = h.gens := rfl
@[simp] theorem Hart.withWord_windows (h : Hart) (w p : BitVec 32) : (h.withWord w p).windows = h.windows := rfl
@[simp] theorem Hart.withWord_pend (h : Hart) (w p : BitVec 32) : (h.withWord w p).pend = h.pend := rfl
@[simp] theorem Hart.withWord_heldStrips (h : Hart) (w p : BitVec 32) : (h.withWord w p).heldStrips = h.heldStrips := rfl
@[simp] theorem Hart.withWord_wbuf (h : Hart) (w p : BitVec 32) : (h.withWord w p).wbuf = h.wbuf := rfl
@[simp] theorem Hart.withWord_sect (h : Hart) (w p : BitVec 32) : (h.withWord w p).sect = h.sect := rfl
@[simp] theorem Hart.withWord_replay (h : Hart) (w p : BitVec 32) : (h.withWord w p).replay = h.replay := rfl
@[simp] theorem Hart.withWord_tx (h : Hart) (w p : BitVec 32) : (h.withWord w p).tx = h.tx := rfl
@[simp] theorem Hart.withWord_handler (h : Hart) (w p : BitVec 32) : (h.withWord w p).handler = h.handler := rfl
@[simp] theorem Hart.withWord_save (h : Hart) (w p : BitVec 32) : (h.withWord w p).save = h.save := rfl
@[simp] theorem Hart.withWord_restart (h : Hart) (w p : BitVec 32) : (h.withWord w p).restart = h.restart := rfl
@[simp] theorem Hart.withWord_soft (h : Hart) (w p : BitVec 32) : (h.withWord w p).soft = h.soft := rfl
@[simp] theorem Hart.withWord_lateWord (h : Hart) (w p : BitVec 32) : (h.withWord w p).lateWord = h.lateWord := rfl
@[simp] theorem Hart.withWord_late (h : Hart) (w p : BitVec 32) : (h.withWord w p).late = h.late := rfl
@[simp] theorem Hart.withWord_counted (h : Hart) (w p : BitVec 32) : (h.withWord w p).counted = h.counted := rfl
@[simp] theorem Hart.withWord_badRegs (h : Hart) (w p : BitVec 32) : (h.withWord w p).badRegs = h.badRegs := rfl
@[simp] theorem Hart.withWord_cancelling (h : Hart) (w p : BitVec 32) : (h.withWord w p).cancelling = h.cancelling := rfl
@[simp] theorem Hart.withWord_hardReq (h : Hart) (w p : BitVec 32) : (h.withWord w p).hardReq = h.hardReq := rfl
@[simp] theorem Hart.withWord_partDue (h : Hart) (w p : BitVec 32) : (h.withWord w p).partDue = h.partDue := rfl
@[simp] theorem Hart.withWord_wdogFrom (h : Hart) (w p : BitVec 32) : (h.withWord w p).wdogFrom = h.wdogFrom := rfl
@[simp] theorem Hart.withWord_watch (h : Hart) (w p : BitVec 32) : (h.withWord w p).watch = h.watch := rfl
@[simp] theorem Hart.withWord_ir (h : Hart) (w p : BitVec 32) : (h.withWord w p).ir = w := rfl
@[simp] theorem Hart.withWord_irPayload (h : Hart) (w p : BitVec 32) : (h.withWord w p).irPayload = p := rfl
@[simp] theorem Hart.withWord_lane (h : Hart) (w p : BitVec 32) : (h.withWord w p).lane = h.lane := rfl
@[simp] theorem Hart.withWord_limit (h : Hart) (w p : BitVec 32) : (h.withWord w p).limit = h.limit := rfl
@[simp] theorem Hart.withWord_taken (h : Hart) (w p : BitVec 32) : (h.withWord w p).taken = h.taken := rfl
@[simp] theorem Hart.withWord_walked (h : Hart) (w p : BitVec 32) : (h.withWord w p).walked = h.walked := rfl

/-! ## `Hart.setV` -/

@[simp] theorem Hart.setV_id (h : Hart) (i : Nat) (x : VReg) : (h.setV i x).id = h.id := rfl
@[simp] theorem Hart.setV_info (h : Hart) (i : Nat) (x : VReg) : (h.setV i x).info = h.info := rfl
@[simp] theorem Hart.setV_st (h : Hart) (i : Nat) (x : VReg) : (h.setV i x).st = h.st := rfl
@[simp] theorem Hart.setV_core (h : Hart) (i : Nat) (x : VReg) : (h.setV i x).core = h.core := rfl
@[simp] theorem Hart.setV_ctx (h : Hart) (i : Nat) (x : VReg) : (h.setV i x).ctx = h.ctx := rfl
@[simp] theorem Hart.setV_w (h : Hart) (i : Nat) (x : VReg) : (h.setV i x).w = h.w := rfl
@[simp] theorem Hart.setV_lgb (h : Hart) (i : Nat) (x : VReg) : (h.setV i x).lgb = h.lgb := rfl
@[simp] theorem Hart.setV_rowBase (h : Hart) (i : Nat) (x : VReg) : (h.setV i x).rowBase = h.rowBase := rfl
@[simp] theorem Hart.setV_since (h : Hart) (i : Nat) (x : VReg) : (h.setV i x).since = h.since := rfl
@[simp] theorem Hart.setV_sregs (h : Hart) (i : Nat) (x : VReg) : (h.setV i x).sregs = h.sregs := rfl
@[simp] theorem Hart.setV_pc (h : Hart) (i : Nat) (x : VReg) : (h.setV i x).pc = h.pc := rfl
@[simp] theorem Hart.setV_masks (h : Hart) (i : Nat) (x : VReg) : (h.setV i x).masks = h.masks := rfl
@[simp] theorem Hart.setV_cvgm (h : Hart) (i : Nat) (x : VReg) : (h.setV i x).cvgm = h.cvgm := rfl
@[simp] theorem Hart.setV_scales (h : Hart) (i : Nat) (x : VReg) : (h.setV i x).scales = h.scales := rfl
@[simp] theorem Hart.setV_tiles (h : Hart) (i : Nat) (x : VReg) : (h.setV i x).tiles = h.tiles := rfl
@[simp] theorem Hart.setV_trows (h : Hart) (i : Nat) (x : VReg) : (h.setV i x).trows = h.trows := rfl
@[simp] theorem Hart.setV_vl (h : Hart) (i : Nat) (x : VReg) : (h.setV i x).vl = h.vl := rfl
@[simp] theorem Hart.setV_headEw (h : Hart) (i : Nat) (x : VReg) : (h.setV i x).headEw = h.headEw := rfl
@[simp] theorem Hart.setV_headGrp (h : Hart) (i : Nat) (x : VReg) : (h.setV i x).headGrp = h.headGrp := rfl
@[simp] theorem Hart.setV_flags (h : Hart) (i : Nat) (x : VReg) : (h.setV i x).flags = h.flags := rfl
@[simp] theorem Hart.setV_rmode (h : Hart) (i : Nat) (x : VReg) : (h.setV i x).rmode = h.rmode := rfl
@[simp] theorem Hart.setV_rotn (h : Hart) (i : Nat) (x : VReg) : (h.setV i x).rotn = h.rotn := rfl
@[simp] theorem Hart.setV_seed (h : Hart) (i : Nat) (x : VReg) : (h.setV i x).seed = h.seed := rfl
@[simp] theorem Hart.setV_dens (h : Hart) (i : Nat) (x : VReg) : (h.setV i x).dens = h.dens := rfl
@[simp] theorem Hart.setV_trapbase (h : Hart) (i : Nat) (x : VReg) : (h.setV i x).trapbase = h.trapbase := rfl
@[simp] theorem Hart.setV_repth (h : Hart) (i : Nat) (x : VReg) : (h.setV i x).repth = h.repth := rfl
@[simp] theorem Hart.setV_ridx (h : Hart) (i : Nat) (x : VReg) : (h.setV i x).ridx = h.ridx := rfl
@[simp] theorem Hart.setV_ecnt (h : Hart) (i : Nat) (x : VReg) : (h.setV i x).ecnt = h.ecnt := rfl
@[simp] theorem Hart.setV_gens (h : Hart) (i : Nat) (x : VReg) : (h.setV i x).gens = h.gens := rfl
@[simp] theorem Hart.setV_windows (h : Hart) (i : Nat) (x : VReg) : (h.setV i x).windows = h.windows := rfl
@[simp] theorem Hart.setV_pend (h : Hart) (i : Nat) (x : VReg) : (h.setV i x).pend = h.pend := rfl
@[simp] theorem Hart.setV_heldStrips (h : Hart) (i : Nat) (x : VReg) : (h.setV i x).heldStrips = h.heldStrips := rfl
@[simp] theorem Hart.setV_wbuf (h : Hart) (i : Nat) (x : VReg) : (h.setV i x).wbuf = h.wbuf := rfl
@[simp] theorem Hart.setV_sect (h : Hart) (i : Nat) (x : VReg) : (h.setV i x).sect = h.sect := rfl
@[simp] theorem Hart.setV_replay (h : Hart) (i : Nat) (x : VReg) : (h.setV i x).replay = h.replay := rfl
@[simp] theorem Hart.setV_tx (h : Hart) (i : Nat) (x : VReg) : (h.setV i x).tx = h.tx := rfl
@[simp] theorem Hart.setV_handler (h : Hart) (i : Nat) (x : VReg) : (h.setV i x).handler = h.handler := rfl
@[simp] theorem Hart.setV_save (h : Hart) (i : Nat) (x : VReg) : (h.setV i x).save = h.save := rfl
@[simp] theorem Hart.setV_restart (h : Hart) (i : Nat) (x : VReg) : (h.setV i x).restart = h.restart := rfl
@[simp] theorem Hart.setV_soft (h : Hart) (i : Nat) (x : VReg) : (h.setV i x).soft = h.soft := rfl
@[simp] theorem Hart.setV_lateWord (h : Hart) (i : Nat) (x : VReg) : (h.setV i x).lateWord = h.lateWord := rfl
@[simp] theorem Hart.setV_late (h : Hart) (i : Nat) (x : VReg) : (h.setV i x).late = h.late := rfl
@[simp] theorem Hart.setV_counted (h : Hart) (i : Nat) (x : VReg) : (h.setV i x).counted = h.counted := rfl
@[simp] theorem Hart.setV_badRegs (h : Hart) (i : Nat) (x : VReg) : (h.setV i x).badRegs = h.badRegs := rfl
@[simp] theorem Hart.setV_cancelling (h : Hart) (i : Nat) (x : VReg) : (h.setV i x).cancelling = h.cancelling := rfl
@[simp] theorem Hart.setV_hardReq (h : Hart) (i : Nat) (x : VReg) : (h.setV i x).hardReq = h.hardReq := rfl
@[simp] theorem Hart.setV_partDue (h : Hart) (i : Nat) (x : VReg) : (h.setV i x).partDue = h.partDue := rfl
@[simp] theorem Hart.setV_wdogFrom (h : Hart) (i : Nat) (x : VReg) : (h.setV i x).wdogFrom = h.wdogFrom := rfl
@[simp] theorem Hart.setV_watch (h : Hart) (i : Nat) (x : VReg) : (h.setV i x).watch = h.watch := rfl
@[simp] theorem Hart.setV_ir (h : Hart) (i : Nat) (x : VReg) : (h.setV i x).ir = h.ir := rfl
@[simp] theorem Hart.setV_irPayload (h : Hart) (i : Nat) (x : VReg) : (h.setV i x).irPayload = h.irPayload := rfl
@[simp] theorem Hart.setV_lane (h : Hart) (i : Nat) (x : VReg) : (h.setV i x).lane = h.lane := rfl
@[simp] theorem Hart.setV_limit (h : Hart) (i : Nat) (x : VReg) : (h.setV i x).limit = h.limit := rfl
@[simp] theorem Hart.setV_taken (h : Hart) (i : Nat) (x : VReg) : (h.setV i x).taken = h.taken := rfl
@[simp] theorem Hart.setV_walked (h : Hart) (i : Nat) (x : VReg) : (h.setV i x).walked = h.walked := rfl

/-! ## `Hart.setGen` -/

@[simp] theorem Hart.setGen_id (h : Hart) (i : Nat) (x : Gen) : (h.setGen i x).id = h.id := rfl
@[simp] theorem Hart.setGen_info (h : Hart) (i : Nat) (x : Gen) : (h.setGen i x).info = h.info := rfl
@[simp] theorem Hart.setGen_st (h : Hart) (i : Nat) (x : Gen) : (h.setGen i x).st = h.st := rfl
@[simp] theorem Hart.setGen_core (h : Hart) (i : Nat) (x : Gen) : (h.setGen i x).core = h.core := rfl
@[simp] theorem Hart.setGen_ctx (h : Hart) (i : Nat) (x : Gen) : (h.setGen i x).ctx = h.ctx := rfl
@[simp] theorem Hart.setGen_w (h : Hart) (i : Nat) (x : Gen) : (h.setGen i x).w = h.w := rfl
@[simp] theorem Hart.setGen_lgb (h : Hart) (i : Nat) (x : Gen) : (h.setGen i x).lgb = h.lgb := rfl
@[simp] theorem Hart.setGen_rowBase (h : Hart) (i : Nat) (x : Gen) : (h.setGen i x).rowBase = h.rowBase := rfl
@[simp] theorem Hart.setGen_since (h : Hart) (i : Nat) (x : Gen) : (h.setGen i x).since = h.since := rfl
@[simp] theorem Hart.setGen_sregs (h : Hart) (i : Nat) (x : Gen) : (h.setGen i x).sregs = h.sregs := rfl
@[simp] theorem Hart.setGen_pc (h : Hart) (i : Nat) (x : Gen) : (h.setGen i x).pc = h.pc := rfl
@[simp] theorem Hart.setGen_vregs (h : Hart) (i : Nat) (x : Gen) : (h.setGen i x).vregs = h.vregs := rfl
@[simp] theorem Hart.setGen_masks (h : Hart) (i : Nat) (x : Gen) : (h.setGen i x).masks = h.masks := rfl
@[simp] theorem Hart.setGen_cvgm (h : Hart) (i : Nat) (x : Gen) : (h.setGen i x).cvgm = h.cvgm := rfl
@[simp] theorem Hart.setGen_scales (h : Hart) (i : Nat) (x : Gen) : (h.setGen i x).scales = h.scales := rfl
@[simp] theorem Hart.setGen_tiles (h : Hart) (i : Nat) (x : Gen) : (h.setGen i x).tiles = h.tiles := rfl
@[simp] theorem Hart.setGen_trows (h : Hart) (i : Nat) (x : Gen) : (h.setGen i x).trows = h.trows := rfl
@[simp] theorem Hart.setGen_vl (h : Hart) (i : Nat) (x : Gen) : (h.setGen i x).vl = h.vl := rfl
@[simp] theorem Hart.setGen_headEw (h : Hart) (i : Nat) (x : Gen) : (h.setGen i x).headEw = h.headEw := rfl
@[simp] theorem Hart.setGen_headGrp (h : Hart) (i : Nat) (x : Gen) : (h.setGen i x).headGrp = h.headGrp := rfl
@[simp] theorem Hart.setGen_flags (h : Hart) (i : Nat) (x : Gen) : (h.setGen i x).flags = h.flags := rfl
@[simp] theorem Hart.setGen_rmode (h : Hart) (i : Nat) (x : Gen) : (h.setGen i x).rmode = h.rmode := rfl
@[simp] theorem Hart.setGen_rotn (h : Hart) (i : Nat) (x : Gen) : (h.setGen i x).rotn = h.rotn := rfl
@[simp] theorem Hart.setGen_seed (h : Hart) (i : Nat) (x : Gen) : (h.setGen i x).seed = h.seed := rfl
@[simp] theorem Hart.setGen_dens (h : Hart) (i : Nat) (x : Gen) : (h.setGen i x).dens = h.dens := rfl
@[simp] theorem Hart.setGen_trapbase (h : Hart) (i : Nat) (x : Gen) : (h.setGen i x).trapbase = h.trapbase := rfl
@[simp] theorem Hart.setGen_repth (h : Hart) (i : Nat) (x : Gen) : (h.setGen i x).repth = h.repth := rfl
@[simp] theorem Hart.setGen_ridx (h : Hart) (i : Nat) (x : Gen) : (h.setGen i x).ridx = h.ridx := rfl
@[simp] theorem Hart.setGen_ecnt (h : Hart) (i : Nat) (x : Gen) : (h.setGen i x).ecnt = h.ecnt := rfl
@[simp] theorem Hart.setGen_windows (h : Hart) (i : Nat) (x : Gen) : (h.setGen i x).windows = h.windows := rfl
@[simp] theorem Hart.setGen_pend (h : Hart) (i : Nat) (x : Gen) : (h.setGen i x).pend = h.pend := rfl
@[simp] theorem Hart.setGen_heldStrips (h : Hart) (i : Nat) (x : Gen) : (h.setGen i x).heldStrips = h.heldStrips := rfl
@[simp] theorem Hart.setGen_wbuf (h : Hart) (i : Nat) (x : Gen) : (h.setGen i x).wbuf = h.wbuf := rfl
@[simp] theorem Hart.setGen_sect (h : Hart) (i : Nat) (x : Gen) : (h.setGen i x).sect = h.sect := rfl
@[simp] theorem Hart.setGen_replay (h : Hart) (i : Nat) (x : Gen) : (h.setGen i x).replay = h.replay := rfl
@[simp] theorem Hart.setGen_tx (h : Hart) (i : Nat) (x : Gen) : (h.setGen i x).tx = h.tx := rfl
@[simp] theorem Hart.setGen_handler (h : Hart) (i : Nat) (x : Gen) : (h.setGen i x).handler = h.handler := rfl
@[simp] theorem Hart.setGen_save (h : Hart) (i : Nat) (x : Gen) : (h.setGen i x).save = h.save := rfl
@[simp] theorem Hart.setGen_restart (h : Hart) (i : Nat) (x : Gen) : (h.setGen i x).restart = h.restart := rfl
@[simp] theorem Hart.setGen_soft (h : Hart) (i : Nat) (x : Gen) : (h.setGen i x).soft = h.soft := rfl
@[simp] theorem Hart.setGen_lateWord (h : Hart) (i : Nat) (x : Gen) : (h.setGen i x).lateWord = h.lateWord := rfl
@[simp] theorem Hart.setGen_late (h : Hart) (i : Nat) (x : Gen) : (h.setGen i x).late = h.late := rfl
@[simp] theorem Hart.setGen_counted (h : Hart) (i : Nat) (x : Gen) : (h.setGen i x).counted = h.counted := rfl
@[simp] theorem Hart.setGen_badRegs (h : Hart) (i : Nat) (x : Gen) : (h.setGen i x).badRegs = h.badRegs := rfl
@[simp] theorem Hart.setGen_cancelling (h : Hart) (i : Nat) (x : Gen) : (h.setGen i x).cancelling = h.cancelling := rfl
@[simp] theorem Hart.setGen_hardReq (h : Hart) (i : Nat) (x : Gen) : (h.setGen i x).hardReq = h.hardReq := rfl
@[simp] theorem Hart.setGen_partDue (h : Hart) (i : Nat) (x : Gen) : (h.setGen i x).partDue = h.partDue := rfl
@[simp] theorem Hart.setGen_wdogFrom (h : Hart) (i : Nat) (x : Gen) : (h.setGen i x).wdogFrom = h.wdogFrom := rfl
@[simp] theorem Hart.setGen_watch (h : Hart) (i : Nat) (x : Gen) : (h.setGen i x).watch = h.watch := rfl
@[simp] theorem Hart.setGen_ir (h : Hart) (i : Nat) (x : Gen) : (h.setGen i x).ir = h.ir := rfl
@[simp] theorem Hart.setGen_irPayload (h : Hart) (i : Nat) (x : Gen) : (h.setGen i x).irPayload = h.irPayload := rfl
@[simp] theorem Hart.setGen_lane (h : Hart) (i : Nat) (x : Gen) : (h.setGen i x).lane = h.lane := rfl
@[simp] theorem Hart.setGen_limit (h : Hart) (i : Nat) (x : Gen) : (h.setGen i x).limit = h.limit := rfl
@[simp] theorem Hart.setGen_taken (h : Hart) (i : Nat) (x : Gen) : (h.setGen i x).taken = h.taken := rfl
@[simp] theorem Hart.setGen_walked (h : Hart) (i : Nat) (x : Gen) : (h.setGen i x).walked = h.walked := rfl

/-! ## `Hart.setMask` -/

@[simp] theorem Hart.setMask_id (h : Hart) (i : Nat) (x : BitVec 8192) : (h.setMask i x).id = h.id := rfl
@[simp] theorem Hart.setMask_info (h : Hart) (i : Nat) (x : BitVec 8192) : (h.setMask i x).info = h.info := rfl
@[simp] theorem Hart.setMask_st (h : Hart) (i : Nat) (x : BitVec 8192) : (h.setMask i x).st = h.st := rfl
@[simp] theorem Hart.setMask_core (h : Hart) (i : Nat) (x : BitVec 8192) : (h.setMask i x).core = h.core := rfl
@[simp] theorem Hart.setMask_ctx (h : Hart) (i : Nat) (x : BitVec 8192) : (h.setMask i x).ctx = h.ctx := rfl
@[simp] theorem Hart.setMask_w (h : Hart) (i : Nat) (x : BitVec 8192) : (h.setMask i x).w = h.w := rfl
@[simp] theorem Hart.setMask_lgb (h : Hart) (i : Nat) (x : BitVec 8192) : (h.setMask i x).lgb = h.lgb := rfl
@[simp] theorem Hart.setMask_rowBase (h : Hart) (i : Nat) (x : BitVec 8192) : (h.setMask i x).rowBase = h.rowBase := rfl
@[simp] theorem Hart.setMask_since (h : Hart) (i : Nat) (x : BitVec 8192) : (h.setMask i x).since = h.since := rfl
@[simp] theorem Hart.setMask_sregs (h : Hart) (i : Nat) (x : BitVec 8192) : (h.setMask i x).sregs = h.sregs := rfl
@[simp] theorem Hart.setMask_pc (h : Hart) (i : Nat) (x : BitVec 8192) : (h.setMask i x).pc = h.pc := rfl
@[simp] theorem Hart.setMask_vregs (h : Hart) (i : Nat) (x : BitVec 8192) : (h.setMask i x).vregs = h.vregs := rfl
@[simp] theorem Hart.setMask_cvgm (h : Hart) (i : Nat) (x : BitVec 8192) : (h.setMask i x).cvgm = h.cvgm := rfl
@[simp] theorem Hart.setMask_scales (h : Hart) (i : Nat) (x : BitVec 8192) : (h.setMask i x).scales = h.scales := rfl
@[simp] theorem Hart.setMask_tiles (h : Hart) (i : Nat) (x : BitVec 8192) : (h.setMask i x).tiles = h.tiles := rfl
@[simp] theorem Hart.setMask_trows (h : Hart) (i : Nat) (x : BitVec 8192) : (h.setMask i x).trows = h.trows := rfl
@[simp] theorem Hart.setMask_vl (h : Hart) (i : Nat) (x : BitVec 8192) : (h.setMask i x).vl = h.vl := rfl
@[simp] theorem Hart.setMask_headEw (h : Hart) (i : Nat) (x : BitVec 8192) : (h.setMask i x).headEw = h.headEw := rfl
@[simp] theorem Hart.setMask_headGrp (h : Hart) (i : Nat) (x : BitVec 8192) : (h.setMask i x).headGrp = h.headGrp := rfl
@[simp] theorem Hart.setMask_flags (h : Hart) (i : Nat) (x : BitVec 8192) : (h.setMask i x).flags = h.flags := rfl
@[simp] theorem Hart.setMask_rmode (h : Hart) (i : Nat) (x : BitVec 8192) : (h.setMask i x).rmode = h.rmode := rfl
@[simp] theorem Hart.setMask_rotn (h : Hart) (i : Nat) (x : BitVec 8192) : (h.setMask i x).rotn = h.rotn := rfl
@[simp] theorem Hart.setMask_seed (h : Hart) (i : Nat) (x : BitVec 8192) : (h.setMask i x).seed = h.seed := rfl
@[simp] theorem Hart.setMask_dens (h : Hart) (i : Nat) (x : BitVec 8192) : (h.setMask i x).dens = h.dens := rfl
@[simp] theorem Hart.setMask_trapbase (h : Hart) (i : Nat) (x : BitVec 8192) : (h.setMask i x).trapbase = h.trapbase := rfl
@[simp] theorem Hart.setMask_repth (h : Hart) (i : Nat) (x : BitVec 8192) : (h.setMask i x).repth = h.repth := rfl
@[simp] theorem Hart.setMask_ridx (h : Hart) (i : Nat) (x : BitVec 8192) : (h.setMask i x).ridx = h.ridx := rfl
@[simp] theorem Hart.setMask_ecnt (h : Hart) (i : Nat) (x : BitVec 8192) : (h.setMask i x).ecnt = h.ecnt := rfl
@[simp] theorem Hart.setMask_gens (h : Hart) (i : Nat) (x : BitVec 8192) : (h.setMask i x).gens = h.gens := rfl
@[simp] theorem Hart.setMask_windows (h : Hart) (i : Nat) (x : BitVec 8192) : (h.setMask i x).windows = h.windows := rfl
@[simp] theorem Hart.setMask_pend (h : Hart) (i : Nat) (x : BitVec 8192) : (h.setMask i x).pend = h.pend := rfl
@[simp] theorem Hart.setMask_heldStrips (h : Hart) (i : Nat) (x : BitVec 8192) : (h.setMask i x).heldStrips = h.heldStrips := rfl
@[simp] theorem Hart.setMask_wbuf (h : Hart) (i : Nat) (x : BitVec 8192) : (h.setMask i x).wbuf = h.wbuf := rfl
@[simp] theorem Hart.setMask_sect (h : Hart) (i : Nat) (x : BitVec 8192) : (h.setMask i x).sect = h.sect := rfl
@[simp] theorem Hart.setMask_replay (h : Hart) (i : Nat) (x : BitVec 8192) : (h.setMask i x).replay = h.replay := rfl
@[simp] theorem Hart.setMask_tx (h : Hart) (i : Nat) (x : BitVec 8192) : (h.setMask i x).tx = h.tx := rfl
@[simp] theorem Hart.setMask_handler (h : Hart) (i : Nat) (x : BitVec 8192) : (h.setMask i x).handler = h.handler := rfl
@[simp] theorem Hart.setMask_save (h : Hart) (i : Nat) (x : BitVec 8192) : (h.setMask i x).save = h.save := rfl
@[simp] theorem Hart.setMask_restart (h : Hart) (i : Nat) (x : BitVec 8192) : (h.setMask i x).restart = h.restart := rfl
@[simp] theorem Hart.setMask_soft (h : Hart) (i : Nat) (x : BitVec 8192) : (h.setMask i x).soft = h.soft := rfl
@[simp] theorem Hart.setMask_lateWord (h : Hart) (i : Nat) (x : BitVec 8192) : (h.setMask i x).lateWord = h.lateWord := rfl
@[simp] theorem Hart.setMask_late (h : Hart) (i : Nat) (x : BitVec 8192) : (h.setMask i x).late = h.late := rfl
@[simp] theorem Hart.setMask_counted (h : Hart) (i : Nat) (x : BitVec 8192) : (h.setMask i x).counted = h.counted := rfl
@[simp] theorem Hart.setMask_badRegs (h : Hart) (i : Nat) (x : BitVec 8192) : (h.setMask i x).badRegs = h.badRegs := rfl
@[simp] theorem Hart.setMask_cancelling (h : Hart) (i : Nat) (x : BitVec 8192) : (h.setMask i x).cancelling = h.cancelling := rfl
@[simp] theorem Hart.setMask_hardReq (h : Hart) (i : Nat) (x : BitVec 8192) : (h.setMask i x).hardReq = h.hardReq := rfl
@[simp] theorem Hart.setMask_partDue (h : Hart) (i : Nat) (x : BitVec 8192) : (h.setMask i x).partDue = h.partDue := rfl
@[simp] theorem Hart.setMask_wdogFrom (h : Hart) (i : Nat) (x : BitVec 8192) : (h.setMask i x).wdogFrom = h.wdogFrom := rfl
@[simp] theorem Hart.setMask_watch (h : Hart) (i : Nat) (x : BitVec 8192) : (h.setMask i x).watch = h.watch := rfl
@[simp] theorem Hart.setMask_ir (h : Hart) (i : Nat) (x : BitVec 8192) : (h.setMask i x).ir = h.ir := rfl
@[simp] theorem Hart.setMask_irPayload (h : Hart) (i : Nat) (x : BitVec 8192) : (h.setMask i x).irPayload = h.irPayload := rfl
@[simp] theorem Hart.setMask_lane (h : Hart) (i : Nat) (x : BitVec 8192) : (h.setMask i x).lane = h.lane := rfl
@[simp] theorem Hart.setMask_limit (h : Hart) (i : Nat) (x : BitVec 8192) : (h.setMask i x).limit = h.limit := rfl
@[simp] theorem Hart.setMask_taken (h : Hart) (i : Nat) (x : BitVec 8192) : (h.setMask i x).taken = h.taken := rfl
@[simp] theorem Hart.setMask_walked (h : Hart) (i : Nat) (x : BitVec 8192) : (h.setMask i x).walked = h.walked := rfl

/-! ## `Hart.setTile` -/

@[simp] theorem Hart.setTile_id (h : Hart) (i : Nat) (x : Tile) : (h.setTile i x).id = h.id := rfl
@[simp] theorem Hart.setTile_info (h : Hart) (i : Nat) (x : Tile) : (h.setTile i x).info = h.info := rfl
@[simp] theorem Hart.setTile_st (h : Hart) (i : Nat) (x : Tile) : (h.setTile i x).st = h.st := rfl
@[simp] theorem Hart.setTile_core (h : Hart) (i : Nat) (x : Tile) : (h.setTile i x).core = h.core := rfl
@[simp] theorem Hart.setTile_ctx (h : Hart) (i : Nat) (x : Tile) : (h.setTile i x).ctx = h.ctx := rfl
@[simp] theorem Hart.setTile_w (h : Hart) (i : Nat) (x : Tile) : (h.setTile i x).w = h.w := rfl
@[simp] theorem Hart.setTile_lgb (h : Hart) (i : Nat) (x : Tile) : (h.setTile i x).lgb = h.lgb := rfl
@[simp] theorem Hart.setTile_rowBase (h : Hart) (i : Nat) (x : Tile) : (h.setTile i x).rowBase = h.rowBase := rfl
@[simp] theorem Hart.setTile_since (h : Hart) (i : Nat) (x : Tile) : (h.setTile i x).since = h.since := rfl
@[simp] theorem Hart.setTile_sregs (h : Hart) (i : Nat) (x : Tile) : (h.setTile i x).sregs = h.sregs := rfl
@[simp] theorem Hart.setTile_pc (h : Hart) (i : Nat) (x : Tile) : (h.setTile i x).pc = h.pc := rfl
@[simp] theorem Hart.setTile_vregs (h : Hart) (i : Nat) (x : Tile) : (h.setTile i x).vregs = h.vregs := rfl
@[simp] theorem Hart.setTile_masks (h : Hart) (i : Nat) (x : Tile) : (h.setTile i x).masks = h.masks := rfl
@[simp] theorem Hart.setTile_cvgm (h : Hart) (i : Nat) (x : Tile) : (h.setTile i x).cvgm = h.cvgm := rfl
@[simp] theorem Hart.setTile_scales (h : Hart) (i : Nat) (x : Tile) : (h.setTile i x).scales = h.scales := rfl
@[simp] theorem Hart.setTile_trows (h : Hart) (i : Nat) (x : Tile) : (h.setTile i x).trows = h.trows := rfl
@[simp] theorem Hart.setTile_vl (h : Hart) (i : Nat) (x : Tile) : (h.setTile i x).vl = h.vl := rfl
@[simp] theorem Hart.setTile_headEw (h : Hart) (i : Nat) (x : Tile) : (h.setTile i x).headEw = h.headEw := rfl
@[simp] theorem Hart.setTile_headGrp (h : Hart) (i : Nat) (x : Tile) : (h.setTile i x).headGrp = h.headGrp := rfl
@[simp] theorem Hart.setTile_flags (h : Hart) (i : Nat) (x : Tile) : (h.setTile i x).flags = h.flags := rfl
@[simp] theorem Hart.setTile_rmode (h : Hart) (i : Nat) (x : Tile) : (h.setTile i x).rmode = h.rmode := rfl
@[simp] theorem Hart.setTile_rotn (h : Hart) (i : Nat) (x : Tile) : (h.setTile i x).rotn = h.rotn := rfl
@[simp] theorem Hart.setTile_seed (h : Hart) (i : Nat) (x : Tile) : (h.setTile i x).seed = h.seed := rfl
@[simp] theorem Hart.setTile_dens (h : Hart) (i : Nat) (x : Tile) : (h.setTile i x).dens = h.dens := rfl
@[simp] theorem Hart.setTile_trapbase (h : Hart) (i : Nat) (x : Tile) : (h.setTile i x).trapbase = h.trapbase := rfl
@[simp] theorem Hart.setTile_repth (h : Hart) (i : Nat) (x : Tile) : (h.setTile i x).repth = h.repth := rfl
@[simp] theorem Hart.setTile_ridx (h : Hart) (i : Nat) (x : Tile) : (h.setTile i x).ridx = h.ridx := rfl
@[simp] theorem Hart.setTile_ecnt (h : Hart) (i : Nat) (x : Tile) : (h.setTile i x).ecnt = h.ecnt := rfl
@[simp] theorem Hart.setTile_gens (h : Hart) (i : Nat) (x : Tile) : (h.setTile i x).gens = h.gens := rfl
@[simp] theorem Hart.setTile_windows (h : Hart) (i : Nat) (x : Tile) : (h.setTile i x).windows = h.windows := rfl
@[simp] theorem Hart.setTile_pend (h : Hart) (i : Nat) (x : Tile) : (h.setTile i x).pend = h.pend := rfl
@[simp] theorem Hart.setTile_heldStrips (h : Hart) (i : Nat) (x : Tile) : (h.setTile i x).heldStrips = h.heldStrips := rfl
@[simp] theorem Hart.setTile_wbuf (h : Hart) (i : Nat) (x : Tile) : (h.setTile i x).wbuf = h.wbuf := rfl
@[simp] theorem Hart.setTile_sect (h : Hart) (i : Nat) (x : Tile) : (h.setTile i x).sect = h.sect := rfl
@[simp] theorem Hart.setTile_replay (h : Hart) (i : Nat) (x : Tile) : (h.setTile i x).replay = h.replay := rfl
@[simp] theorem Hart.setTile_tx (h : Hart) (i : Nat) (x : Tile) : (h.setTile i x).tx = h.tx := rfl
@[simp] theorem Hart.setTile_handler (h : Hart) (i : Nat) (x : Tile) : (h.setTile i x).handler = h.handler := rfl
@[simp] theorem Hart.setTile_save (h : Hart) (i : Nat) (x : Tile) : (h.setTile i x).save = h.save := rfl
@[simp] theorem Hart.setTile_restart (h : Hart) (i : Nat) (x : Tile) : (h.setTile i x).restart = h.restart := rfl
@[simp] theorem Hart.setTile_soft (h : Hart) (i : Nat) (x : Tile) : (h.setTile i x).soft = h.soft := rfl
@[simp] theorem Hart.setTile_lateWord (h : Hart) (i : Nat) (x : Tile) : (h.setTile i x).lateWord = h.lateWord := rfl
@[simp] theorem Hart.setTile_late (h : Hart) (i : Nat) (x : Tile) : (h.setTile i x).late = h.late := rfl
@[simp] theorem Hart.setTile_counted (h : Hart) (i : Nat) (x : Tile) : (h.setTile i x).counted = h.counted := rfl
@[simp] theorem Hart.setTile_badRegs (h : Hart) (i : Nat) (x : Tile) : (h.setTile i x).badRegs = h.badRegs := rfl
@[simp] theorem Hart.setTile_cancelling (h : Hart) (i : Nat) (x : Tile) : (h.setTile i x).cancelling = h.cancelling := rfl
@[simp] theorem Hart.setTile_hardReq (h : Hart) (i : Nat) (x : Tile) : (h.setTile i x).hardReq = h.hardReq := rfl
@[simp] theorem Hart.setTile_partDue (h : Hart) (i : Nat) (x : Tile) : (h.setTile i x).partDue = h.partDue := rfl
@[simp] theorem Hart.setTile_wdogFrom (h : Hart) (i : Nat) (x : Tile) : (h.setTile i x).wdogFrom = h.wdogFrom := rfl
@[simp] theorem Hart.setTile_watch (h : Hart) (i : Nat) (x : Tile) : (h.setTile i x).watch = h.watch := rfl
@[simp] theorem Hart.setTile_ir (h : Hart) (i : Nat) (x : Tile) : (h.setTile i x).ir = h.ir := rfl
@[simp] theorem Hart.setTile_irPayload (h : Hart) (i : Nat) (x : Tile) : (h.setTile i x).irPayload = h.irPayload := rfl
@[simp] theorem Hart.setTile_lane (h : Hart) (i : Nat) (x : Tile) : (h.setTile i x).lane = h.lane := rfl
@[simp] theorem Hart.setTile_limit (h : Hart) (i : Nat) (x : Tile) : (h.setTile i x).limit = h.limit := rfl
@[simp] theorem Hart.setTile_taken (h : Hart) (i : Nat) (x : Tile) : (h.setTile i x).taken = h.taken := rfl
@[simp] theorem Hart.setTile_walked (h : Hart) (i : Nat) (x : Tile) : (h.setTile i x).walked = h.walked := rfl

/-! ## `Hart.setWindow` -/

@[simp] theorem Hart.setWindow_id (h : Hart) (i : Nat) (x : Window) : (h.setWindow i x).id = h.id := rfl
@[simp] theorem Hart.setWindow_info (h : Hart) (i : Nat) (x : Window) : (h.setWindow i x).info = h.info := rfl
@[simp] theorem Hart.setWindow_st (h : Hart) (i : Nat) (x : Window) : (h.setWindow i x).st = h.st := rfl
@[simp] theorem Hart.setWindow_core (h : Hart) (i : Nat) (x : Window) : (h.setWindow i x).core = h.core := rfl
@[simp] theorem Hart.setWindow_ctx (h : Hart) (i : Nat) (x : Window) : (h.setWindow i x).ctx = h.ctx := rfl
@[simp] theorem Hart.setWindow_w (h : Hart) (i : Nat) (x : Window) : (h.setWindow i x).w = h.w := rfl
@[simp] theorem Hart.setWindow_lgb (h : Hart) (i : Nat) (x : Window) : (h.setWindow i x).lgb = h.lgb := rfl
@[simp] theorem Hart.setWindow_rowBase (h : Hart) (i : Nat) (x : Window) : (h.setWindow i x).rowBase = h.rowBase := rfl
@[simp] theorem Hart.setWindow_since (h : Hart) (i : Nat) (x : Window) : (h.setWindow i x).since = h.since := rfl
@[simp] theorem Hart.setWindow_sregs (h : Hart) (i : Nat) (x : Window) : (h.setWindow i x).sregs = h.sregs := rfl
@[simp] theorem Hart.setWindow_pc (h : Hart) (i : Nat) (x : Window) : (h.setWindow i x).pc = h.pc := rfl
@[simp] theorem Hart.setWindow_vregs (h : Hart) (i : Nat) (x : Window) : (h.setWindow i x).vregs = h.vregs := rfl
@[simp] theorem Hart.setWindow_masks (h : Hart) (i : Nat) (x : Window) : (h.setWindow i x).masks = h.masks := rfl
@[simp] theorem Hart.setWindow_cvgm (h : Hart) (i : Nat) (x : Window) : (h.setWindow i x).cvgm = h.cvgm := rfl
@[simp] theorem Hart.setWindow_scales (h : Hart) (i : Nat) (x : Window) : (h.setWindow i x).scales = h.scales := rfl
@[simp] theorem Hart.setWindow_tiles (h : Hart) (i : Nat) (x : Window) : (h.setWindow i x).tiles = h.tiles := rfl
@[simp] theorem Hart.setWindow_trows (h : Hart) (i : Nat) (x : Window) : (h.setWindow i x).trows = h.trows := rfl
@[simp] theorem Hart.setWindow_vl (h : Hart) (i : Nat) (x : Window) : (h.setWindow i x).vl = h.vl := rfl
@[simp] theorem Hart.setWindow_headEw (h : Hart) (i : Nat) (x : Window) : (h.setWindow i x).headEw = h.headEw := rfl
@[simp] theorem Hart.setWindow_headGrp (h : Hart) (i : Nat) (x : Window) : (h.setWindow i x).headGrp = h.headGrp := rfl
@[simp] theorem Hart.setWindow_flags (h : Hart) (i : Nat) (x : Window) : (h.setWindow i x).flags = h.flags := rfl
@[simp] theorem Hart.setWindow_rmode (h : Hart) (i : Nat) (x : Window) : (h.setWindow i x).rmode = h.rmode := rfl
@[simp] theorem Hart.setWindow_rotn (h : Hart) (i : Nat) (x : Window) : (h.setWindow i x).rotn = h.rotn := rfl
@[simp] theorem Hart.setWindow_seed (h : Hart) (i : Nat) (x : Window) : (h.setWindow i x).seed = h.seed := rfl
@[simp] theorem Hart.setWindow_dens (h : Hart) (i : Nat) (x : Window) : (h.setWindow i x).dens = h.dens := rfl
@[simp] theorem Hart.setWindow_trapbase (h : Hart) (i : Nat) (x : Window) : (h.setWindow i x).trapbase = h.trapbase := rfl
@[simp] theorem Hart.setWindow_repth (h : Hart) (i : Nat) (x : Window) : (h.setWindow i x).repth = h.repth := rfl
@[simp] theorem Hart.setWindow_ridx (h : Hart) (i : Nat) (x : Window) : (h.setWindow i x).ridx = h.ridx := rfl
@[simp] theorem Hart.setWindow_ecnt (h : Hart) (i : Nat) (x : Window) : (h.setWindow i x).ecnt = h.ecnt := rfl
@[simp] theorem Hart.setWindow_gens (h : Hart) (i : Nat) (x : Window) : (h.setWindow i x).gens = h.gens := rfl
@[simp] theorem Hart.setWindow_pend (h : Hart) (i : Nat) (x : Window) : (h.setWindow i x).pend = h.pend := rfl
@[simp] theorem Hart.setWindow_heldStrips (h : Hart) (i : Nat) (x : Window) : (h.setWindow i x).heldStrips = h.heldStrips := rfl
@[simp] theorem Hart.setWindow_wbuf (h : Hart) (i : Nat) (x : Window) : (h.setWindow i x).wbuf = h.wbuf := rfl
@[simp] theorem Hart.setWindow_sect (h : Hart) (i : Nat) (x : Window) : (h.setWindow i x).sect = h.sect := rfl
@[simp] theorem Hart.setWindow_replay (h : Hart) (i : Nat) (x : Window) : (h.setWindow i x).replay = h.replay := rfl
@[simp] theorem Hart.setWindow_tx (h : Hart) (i : Nat) (x : Window) : (h.setWindow i x).tx = h.tx := rfl
@[simp] theorem Hart.setWindow_handler (h : Hart) (i : Nat) (x : Window) : (h.setWindow i x).handler = h.handler := rfl
@[simp] theorem Hart.setWindow_save (h : Hart) (i : Nat) (x : Window) : (h.setWindow i x).save = h.save := rfl
@[simp] theorem Hart.setWindow_restart (h : Hart) (i : Nat) (x : Window) : (h.setWindow i x).restart = h.restart := rfl
@[simp] theorem Hart.setWindow_soft (h : Hart) (i : Nat) (x : Window) : (h.setWindow i x).soft = h.soft := rfl
@[simp] theorem Hart.setWindow_lateWord (h : Hart) (i : Nat) (x : Window) : (h.setWindow i x).lateWord = h.lateWord := rfl
@[simp] theorem Hart.setWindow_late (h : Hart) (i : Nat) (x : Window) : (h.setWindow i x).late = h.late := rfl
@[simp] theorem Hart.setWindow_counted (h : Hart) (i : Nat) (x : Window) : (h.setWindow i x).counted = h.counted := rfl
@[simp] theorem Hart.setWindow_badRegs (h : Hart) (i : Nat) (x : Window) : (h.setWindow i x).badRegs = h.badRegs := rfl
@[simp] theorem Hart.setWindow_cancelling (h : Hart) (i : Nat) (x : Window) : (h.setWindow i x).cancelling = h.cancelling := rfl
@[simp] theorem Hart.setWindow_hardReq (h : Hart) (i : Nat) (x : Window) : (h.setWindow i x).hardReq = h.hardReq := rfl
@[simp] theorem Hart.setWindow_partDue (h : Hart) (i : Nat) (x : Window) : (h.setWindow i x).partDue = h.partDue := rfl
@[simp] theorem Hart.setWindow_wdogFrom (h : Hart) (i : Nat) (x : Window) : (h.setWindow i x).wdogFrom = h.wdogFrom := rfl
@[simp] theorem Hart.setWindow_watch (h : Hart) (i : Nat) (x : Window) : (h.setWindow i x).watch = h.watch := rfl
@[simp] theorem Hart.setWindow_ir (h : Hart) (i : Nat) (x : Window) : (h.setWindow i x).ir = h.ir := rfl
@[simp] theorem Hart.setWindow_irPayload (h : Hart) (i : Nat) (x : Window) : (h.setWindow i x).irPayload = h.irPayload := rfl
@[simp] theorem Hart.setWindow_lane (h : Hart) (i : Nat) (x : Window) : (h.setWindow i x).lane = h.lane := rfl
@[simp] theorem Hart.setWindow_limit (h : Hart) (i : Nat) (x : Window) : (h.setWindow i x).limit = h.limit := rfl
@[simp] theorem Hart.setWindow_taken (h : Hart) (i : Nat) (x : Window) : (h.setWindow i x).taken = h.taken := rfl
@[simp] theorem Hart.setWindow_walked (h : Hart) (i : Nat) (x : Window) : (h.setWindow i x).walked = h.walked := rfl

/-! ## `Hart.wr` -/

@[simp] theorem Hart.wr_id (h : Hart) (r : Reg) (x : Word) : (h.wr r x).id = h.id := by
  unfold Hart.wr; split <;> rfl
@[simp] theorem Hart.wr_info (h : Hart) (r : Reg) (x : Word) : (h.wr r x).info = h.info := by
  unfold Hart.wr; split <;> rfl
@[simp] theorem Hart.wr_st (h : Hart) (r : Reg) (x : Word) : (h.wr r x).st = h.st := by
  unfold Hart.wr; split <;> rfl
@[simp] theorem Hart.wr_core (h : Hart) (r : Reg) (x : Word) : (h.wr r x).core = h.core := by
  unfold Hart.wr; split <;> rfl
@[simp] theorem Hart.wr_ctx (h : Hart) (r : Reg) (x : Word) : (h.wr r x).ctx = h.ctx := by
  unfold Hart.wr; split <;> rfl
@[simp] theorem Hart.wr_w (h : Hart) (r : Reg) (x : Word) : (h.wr r x).w = h.w := by
  unfold Hart.wr; split <;> rfl
@[simp] theorem Hart.wr_lgb (h : Hart) (r : Reg) (x : Word) : (h.wr r x).lgb = h.lgb := by
  unfold Hart.wr; split <;> rfl
@[simp] theorem Hart.wr_rowBase (h : Hart) (r : Reg) (x : Word) : (h.wr r x).rowBase = h.rowBase := by
  unfold Hart.wr; split <;> rfl
@[simp] theorem Hart.wr_since (h : Hart) (r : Reg) (x : Word) : (h.wr r x).since = h.since := by
  unfold Hart.wr; split <;> rfl
@[simp] theorem Hart.wr_pc (h : Hart) (r : Reg) (x : Word) : (h.wr r x).pc = h.pc := by
  unfold Hart.wr; split <;> rfl
@[simp] theorem Hart.wr_vregs (h : Hart) (r : Reg) (x : Word) : (h.wr r x).vregs = h.vregs := by
  unfold Hart.wr; split <;> rfl
@[simp] theorem Hart.wr_masks (h : Hart) (r : Reg) (x : Word) : (h.wr r x).masks = h.masks := by
  unfold Hart.wr; split <;> rfl
@[simp] theorem Hart.wr_cvgm (h : Hart) (r : Reg) (x : Word) : (h.wr r x).cvgm = h.cvgm := by
  unfold Hart.wr; split <;> rfl
@[simp] theorem Hart.wr_scales (h : Hart) (r : Reg) (x : Word) : (h.wr r x).scales = h.scales := by
  unfold Hart.wr; split <;> rfl
@[simp] theorem Hart.wr_tiles (h : Hart) (r : Reg) (x : Word) : (h.wr r x).tiles = h.tiles := by
  unfold Hart.wr; split <;> rfl
@[simp] theorem Hart.wr_trows (h : Hart) (r : Reg) (x : Word) : (h.wr r x).trows = h.trows := by
  unfold Hart.wr; split <;> rfl
@[simp] theorem Hart.wr_vl (h : Hart) (r : Reg) (x : Word) : (h.wr r x).vl = h.vl := by
  unfold Hart.wr; split <;> rfl
@[simp] theorem Hart.wr_headEw (h : Hart) (r : Reg) (x : Word) : (h.wr r x).headEw = h.headEw := by
  unfold Hart.wr; split <;> rfl
@[simp] theorem Hart.wr_headGrp (h : Hart) (r : Reg) (x : Word) : (h.wr r x).headGrp = h.headGrp := by
  unfold Hart.wr; split <;> rfl
@[simp] theorem Hart.wr_flags (h : Hart) (r : Reg) (x : Word) : (h.wr r x).flags = h.flags := by
  unfold Hart.wr; split <;> rfl
@[simp] theorem Hart.wr_rmode (h : Hart) (r : Reg) (x : Word) : (h.wr r x).rmode = h.rmode := by
  unfold Hart.wr; split <;> rfl
@[simp] theorem Hart.wr_rotn (h : Hart) (r : Reg) (x : Word) : (h.wr r x).rotn = h.rotn := by
  unfold Hart.wr; split <;> rfl
@[simp] theorem Hart.wr_seed (h : Hart) (r : Reg) (x : Word) : (h.wr r x).seed = h.seed := by
  unfold Hart.wr; split <;> rfl
@[simp] theorem Hart.wr_dens (h : Hart) (r : Reg) (x : Word) : (h.wr r x).dens = h.dens := by
  unfold Hart.wr; split <;> rfl
@[simp] theorem Hart.wr_trapbase (h : Hart) (r : Reg) (x : Word) : (h.wr r x).trapbase = h.trapbase := by
  unfold Hart.wr; split <;> rfl
@[simp] theorem Hart.wr_repth (h : Hart) (r : Reg) (x : Word) : (h.wr r x).repth = h.repth := by
  unfold Hart.wr; split <;> rfl
@[simp] theorem Hart.wr_ridx (h : Hart) (r : Reg) (x : Word) : (h.wr r x).ridx = h.ridx := by
  unfold Hart.wr; split <;> rfl
@[simp] theorem Hart.wr_ecnt (h : Hart) (r : Reg) (x : Word) : (h.wr r x).ecnt = h.ecnt := by
  unfold Hart.wr; split <;> rfl
@[simp] theorem Hart.wr_gens (h : Hart) (r : Reg) (x : Word) : (h.wr r x).gens = h.gens := by
  unfold Hart.wr; split <;> rfl
@[simp] theorem Hart.wr_windows (h : Hart) (r : Reg) (x : Word) : (h.wr r x).windows = h.windows := by
  unfold Hart.wr; split <;> rfl
@[simp] theorem Hart.wr_pend (h : Hart) (r : Reg) (x : Word) : (h.wr r x).pend = h.pend := by
  unfold Hart.wr; split <;> rfl
@[simp] theorem Hart.wr_heldStrips (h : Hart) (r : Reg) (x : Word) : (h.wr r x).heldStrips = h.heldStrips := by
  unfold Hart.wr; split <;> rfl
@[simp] theorem Hart.wr_wbuf (h : Hart) (r : Reg) (x : Word) : (h.wr r x).wbuf = h.wbuf := by
  unfold Hart.wr; split <;> rfl
@[simp] theorem Hart.wr_sect (h : Hart) (r : Reg) (x : Word) : (h.wr r x).sect = h.sect := by
  unfold Hart.wr; split <;> rfl
@[simp] theorem Hart.wr_replay (h : Hart) (r : Reg) (x : Word) : (h.wr r x).replay = h.replay := by
  unfold Hart.wr; split <;> rfl
@[simp] theorem Hart.wr_tx (h : Hart) (r : Reg) (x : Word) : (h.wr r x).tx = h.tx := by
  unfold Hart.wr; split <;> rfl
@[simp] theorem Hart.wr_handler (h : Hart) (r : Reg) (x : Word) : (h.wr r x).handler = h.handler := by
  unfold Hart.wr; split <;> rfl
@[simp] theorem Hart.wr_save (h : Hart) (r : Reg) (x : Word) : (h.wr r x).save = h.save := by
  unfold Hart.wr; split <;> rfl
@[simp] theorem Hart.wr_restart (h : Hart) (r : Reg) (x : Word) : (h.wr r x).restart = h.restart := by
  unfold Hart.wr; split <;> rfl
@[simp] theorem Hart.wr_soft (h : Hart) (r : Reg) (x : Word) : (h.wr r x).soft = h.soft := by
  unfold Hart.wr; split <;> rfl
@[simp] theorem Hart.wr_lateWord (h : Hart) (r : Reg) (x : Word) : (h.wr r x).lateWord = h.lateWord := by
  unfold Hart.wr; split <;> rfl
@[simp] theorem Hart.wr_late (h : Hart) (r : Reg) (x : Word) : (h.wr r x).late = h.late := by
  unfold Hart.wr; split <;> rfl
@[simp] theorem Hart.wr_counted (h : Hart) (r : Reg) (x : Word) : (h.wr r x).counted = h.counted := by
  unfold Hart.wr; split <;> rfl
@[simp] theorem Hart.wr_badRegs (h : Hart) (r : Reg) (x : Word) : (h.wr r x).badRegs = h.badRegs := by
  unfold Hart.wr; split <;> rfl
@[simp] theorem Hart.wr_cancelling (h : Hart) (r : Reg) (x : Word) : (h.wr r x).cancelling = h.cancelling := by
  unfold Hart.wr; split <;> rfl
@[simp] theorem Hart.wr_hardReq (h : Hart) (r : Reg) (x : Word) : (h.wr r x).hardReq = h.hardReq := by
  unfold Hart.wr; split <;> rfl
@[simp] theorem Hart.wr_partDue (h : Hart) (r : Reg) (x : Word) : (h.wr r x).partDue = h.partDue := by
  unfold Hart.wr; split <;> rfl
@[simp] theorem Hart.wr_wdogFrom (h : Hart) (r : Reg) (x : Word) : (h.wr r x).wdogFrom = h.wdogFrom := by
  unfold Hart.wr; split <;> rfl
@[simp] theorem Hart.wr_watch (h : Hart) (r : Reg) (x : Word) : (h.wr r x).watch = h.watch := by
  unfold Hart.wr; split <;> rfl
@[simp] theorem Hart.wr_ir (h : Hart) (r : Reg) (x : Word) : (h.wr r x).ir = h.ir := by
  unfold Hart.wr; split <;> rfl
@[simp] theorem Hart.wr_irPayload (h : Hart) (r : Reg) (x : Word) : (h.wr r x).irPayload = h.irPayload := by
  unfold Hart.wr; split <;> rfl
@[simp] theorem Hart.wr_lane (h : Hart) (r : Reg) (x : Word) : (h.wr r x).lane = h.lane := by
  unfold Hart.wr; split <;> rfl
@[simp] theorem Hart.wr_limit (h : Hart) (r : Reg) (x : Word) : (h.wr r x).limit = h.limit := by
  unfold Hart.wr; split <;> rfl
@[simp] theorem Hart.wr_taken (h : Hart) (r : Reg) (x : Word) : (h.wr r x).taken = h.taken := by
  unfold Hart.wr; split <;> rfl
@[simp] theorem Hart.wr_walked (h : Hart) (r : Reg) (x : Word) : (h.wr r x).walked = h.walked := by
  unfold Hart.wr; split <;> rfl

/-! ## What is read back -/

@[simp] theorem Hart.rd_zero (h : Hart) : h.rd 0 = 0 := rfl

theorem Hart.rd_wr (h : Hart) (d r : Reg) (x : Word) :
    (h.wr d x).rd r = if r = 0 then 0 else if r = d then x else h.rd r := by
  by_cases hr : r = 0
  · simp [Hart.rd, hr]
  · by_cases hd : d = 0
    · have : r ≠ d := fun e => hr (e.trans hd)
      subst hd; rw [if_neg hr, if_neg this]; rfl
    · simp only [Hart.rd, Hart.wr, hr, hd, if_false]
      by_cases e : r = d
      · subst e; simp
      · have : d.toNat ≠ r.toNat := fun q => e (BitVec.eq_of_toNat_eq q.symm)
        rw [if_neg e]; exact Vector.getElem_set_ne _ _ this

theorem Hart.wr_eq (h : Hart) (d : Reg) (x : Word) : h.wr d x = { h with sregs := (h.wr d x).sregs } := by
  unfold Hart.wr; split <;> rfl

@[simp] theorem Hart.wr_zero (h : Hart) (x : Word) : h.wr 0 x = h := rfl

@[simp] theorem Hart.mask_setMask_same (h : Hart) (i : Nat) (m : BitVec 8192) : (h.setMask i m).mask i = m := by
  simp [Hart.mask, Hart.setMask]

theorem Hart.mask_setMask_other (h : Hart) (i j : Nat) (m : BitVec 8192) (hij : i % 8 ≠ j % 8) :
    (h.setMask i m).mask j = h.mask j := by
  simp only [Hart.mask, Hart.setMask]; exact Vector.getElem_set_ne _ _ hij

@[simp] theorem Hart.tile_setTile_same (h : Hart) (i : Nat) (t : Tile) : (h.setTile i t).tile i = t := by
  simp [Hart.tile, Hart.setTile]

theorem Hart.tile_setTile_other (h : Hart) (i j : Nat) (t : Tile) (hij : i % 8 ≠ j % 8) :
    (h.setTile i t).tile j = h.tile j := by
  simp only [Hart.tile, Hart.setTile]; exact Vector.getElem_set_ne _ _ hij

@[simp] theorem Hart.gen_setGen_same (h : Hart) (i : Nat) (g : Gen) : (h.setGen i g).gen i = g := by
  simp [Hart.gen, Hart.setGen]

theorem Hart.gen_setGen_other (h : Hart) (i j : Nat) (g : Gen) (hij : i % 8 ≠ j % 8) :
    (h.setGen i g).gen j = h.gen j := by
  simp only [Hart.gen, Hart.setGen]; exact Vector.getElem_set_ne _ _ hij

@[simp] theorem Hart.window_setWindow_same (h : Hart) (i : Nat) (x : Window) : (h.setWindow i x).window i = x := by
  simp [Hart.window, Hart.setWindow]

theorem Hart.window_setWindow_other (h : Hart) (i j : Nat) (x : Window) (hij : i % 4 ≠ j % 4) :
    (h.setWindow i x).window j = h.window j := by
  simp only [Hart.window, Hart.setWindow]; exact Vector.getElem_set_ne _ _ hij

/-- Full and empty bits are in the configuration words: nothing but the vector registers changes with them (R49). -/
theorem Hart.setFulls_eq (h : Hart) (full : Bool) (rs : List Nat) :
    h.setFulls full rs = { h with vregs := (h.setFulls full rs).vregs } := by
  induction rs generalizing h with
  | nil => rfl
  | cons r rs ih =>
    show (h.setFull full r).setFulls full rs = _
    rw [ih]; rfl

/-- Landing changes the vector registers, and nothing is pending after it (R49). -/
theorem Hart.landAll_eq (h : Hart) :
    h.landAll = { h with vregs := h.landAll.vregs, pend := [], heldStrips := [] } := by
  rw [Hart.landAll, Hart.setFulls_eq]

end Sys2Proof.Machine
end

