-- ==== Sys2Proof/Laws/Ops.lean ====
section
/-! SUPPORT. What the shared operations can do, said once each: performing writes, holding them back and draining them
(R193 to R196), loading, the checks of an access (R344), the host registers (R326), and how an instruction ends. -/

namespace Sys2Proof.Machine

/-! ## The host registers -/

/-- Everything but the device's queues, registers, journal and events is as it was. -/
def State.RegistersOnly (s t : State) : Prop :=
  t.hart = s.hart ∧ t.parked = s.parked ∧ t.mem = s.mem ∧ t.pads = s.pads ∧ t.poison = s.poison ∧ t.holding = s.holding ∧
    t.pages = s.pages ∧ t.tlb = s.tlb ∧ t.kv = s.kv ∧ t.arbs = s.arbs ∧ t.agenda = s.agenda ∧ t.cycle = s.cycle

theorem State.RegistersOnly.rfl_ (s : State) : s.RegistersOnly s :=
  ⟨rfl, rfl, rfl, rfl, rfl, rfl, rfl, rfl, rfl, rfl, rfl, rfl⟩

theorem State.RegistersOnly.trans_ {s t u : State} (h : s.RegistersOnly t) (k : t.RegistersOnly u) : s.RegistersOnly u := by
  obtain ⟨a1, a2, a3, a4, a5, a6, a7, a8, a9, a10, a11, a12⟩ := h
  obtain ⟨b1, b2, b3, b4, b5, b6, b7, b8, b9, b10, b11, b12⟩ := k
  exact ⟨b1.trans a1, b2.trans a2, b3.trans a3, b4.trans a4, b5.trans a5, b6.trans a6, b7.trans a7, b8.trans a8,
    b9.trans a9, b10.trans a10, b11.trans a11, b12.trans a12⟩

theorem State.note_registersOnly (s : State) (q o k x : Nat) (d : BitVec 64) : s.RegistersOnly (s.note q o k x d) := by
  unfold State.note
  generalize (s.journal ++ [_] : List JEntry) = j
  exact ⟨rfl, rfl, rfl, rfl, rfl, rfl, rfl, rfl, rfl, rfl, rfl, rfl⟩

theorem State.setQueue_registersOnly (s : State) (q : Nat) (f : Queue → Queue) : s.RegistersOnly (s.setQueue q f) :=
  ⟨rfl, rfl, rfl, rfl, rfl, rfl, rfl, rfl, rfl, rfl, rfl, rfl⟩

theorem State.post_registersOnly (s : State) (e : FdEvent) : s.RegistersOnly (s.post e) :=
  ⟨rfl, rfl, rfl, rfl, rfl, rfl, rfl, rfl, rfl, rfl, rfl, rfl⟩

theorem State.queueError_registersOnly (s : State) (q : Nat) : s.RegistersOnly (s.queueError q) := by
  unfold State.queueError
  exact (State.setQueue_registersOnly s q _).trans_
    ((State.note_registersOnly _ _ _ _ _ _).trans_ (State.post_registersOnly _ _))

theorem State.setPower_registersOnly (s : State) (p : Nat) : s.RegistersOnly (s.setPower p) := by
  have h : s.RegistersOnly { s with pstate := BitVec.ofNat 3 p } :=
    ⟨rfl, rfl, rfl, rfl, rfl, rfl, rfl, rfl, rfl, rfl, rfl, rfl⟩
  unfold State.setPower
  dsimp only
  split
  · exact h
  · exact h.trans_ (State.note_registersOnly _ _ _ _ _ _)

theorem State.powerUp_registersOnly (s : State) : s.RegistersOnly s.powerUp := by
  unfold State.powerUp
  split
  · exact State.setPower_registersOnly s _
  · exact State.RegistersOnly.rfl_ s

theorem State.writeAqctl_registersOnly (s : State) (v : BitVec 64) : s.RegistersOnly (s.writeAqctl v) := by
  unfold State.writeAqctl
  refine State.RegistersOnly.trans_ ?_ (State.powerUp_registersOnly _)
  dsimp only
  split
  · split
    · exact ⟨rfl, rfl, rfl, rfl, rfl, rfl, rfl, rfl, rfl, rfl, rfl, rfl⟩
    · split <;> exact ⟨rfl, rfl, rfl, rfl, rfl, rfl, rfl, rfl, rfl, rfl, rfl, rfl⟩
  · split <;> exact ⟨rfl, rfl, rfl, rfl, rfl, rfl, rfl, rfl, rfl, rfl, rfl, rfl⟩

theorem State.writeTail_registersOnly (s : State) (q : Nat) (v : BitVec 32) : s.RegistersOnly (s.writeTail q v) := by
  unfold State.writeTail
  split
  · exact State.RegistersOnly.rfl_ s
  · split
    · exact State.RegistersOnly.rfl_ s
    · dsimp only
      split
      · exact (State.setQueue_registersOnly s q _).trans_ (State.queueError_registersOnly _ q)
      · exact State.setQueue_registersOnly s q _

/-- A write of a host register changes no hart and no byte of memory (R326). -/
theorem State.writeReg_registersOnly (s : State) (n : Nat) (v : BitVec 64) : s.RegistersOnly (s.writeReg n v) := by
  unfold State.writeReg
  split
  · split
    · split
      · exact State.RegistersOnly.rfl_ s
      · exact ⟨rfl, rfl, rfl, rfl, rfl, rfl, rfl, rfl, rfl, rfl, rfl, rfl⟩
    · exact ⟨rfl, rfl, rfl, rfl, rfl, rfl, rfl, rfl, rfl, rfl, rfl, rfl⟩
  · split
    · exact State.writeAqctl_registersOnly s v
    · split
      · exact State.writeTail_registersOnly s _ _
      · exact State.RegistersOnly.rfl_ s

theorem State.barWrite_registersOnly (s : State) (o : Nat) (bs : List Byte) : s.RegistersOnly (s.barWrite o bs) :=
  State.writeReg_registersOnly s _ _

/-! ## Performing a write -/

theorem noteWrite_eq (a n : Nat) (h : Hart) : noteWrite a n h = { h with watch := (noteWrite a n h).watch } := by
  unfold noteWrite; split <;> rfl

/-- A write that performs leaves every context as it was, but for what it watches (R13). -/
theorem State.commit_hart (s : State) (pad : Bool) (a : Nat) (bs : List Byte) :
    (s.commit pad a bs).hart = { s.hart with watch := (s.commit pad a bs).hart.watch } := by
  cases pad with
  | true => rfl
  | false =>
    show (s.commitMem a bs).hart = { s.hart with watch := (s.commitMem a bs).hart.watch }
    unfold State.commitMem
    split
    · rw [(State.barWrite_registersOnly s _ _).1]
    · exact noteWrite_eq a bs.length s.hart

theorem State.commit_others (s : State) (pad : Bool) (a : Nat) (bs : List Byte) :
    (s.commit pad a bs).others = s.others := by
  cases pad with
  | true => rfl
  | false =>
    show (s.commitMem a bs).others = s.others
    unfold State.commitMem State.others
    split
    · rw [(State.barWrite_registersOnly s _ _).2.1]
    · simp only [State.mapHarts_parked, List.map_map]
      refine List.map_congr_left (fun h _ => ?_)
      show ({ noteWrite a bs.length h with watch := Watch.none } : Hart) = _
      rw [noteWrite_eq]

theorem State.commit_holding (s : State) (pad : Bool) (a : Nat) (bs : List Byte) :
    (s.commit pad a bs).holding = s.holding := by
  cases pad with
  | true => rfl
  | false =>
    show (s.commitMem a bs).holding = s.holding
    unfold State.commitMem
    split
    · exact (State.barWrite_registersOnly s _ _).2.2.2.2.2.1
    · rfl

/-- A write that performs keeps memory and the scratchpads in canonical form. -/
theorem State.commit_memInv (s : State) (pad : Bool) (a : Nat) (bs : List Byte) (h : s.MemInv) :
    (s.commit pad a bs).MemInv := by
  cases pad with
  | true => exact ⟨h.1, memStore_wf bs s.pads a h.2⟩
  | false =>
    show (s.commitMem a bs).MemInv
    unfold State.commitMem
    split
    · have k := State.barWrite_registersOnly s (a - barBase) bs
      exact ⟨by rw [k.2.2.1]; exact h.1, by rw [k.2.2.2.1]; exact h.2⟩
    · exact ⟨memStore_wf bs s.mem a h.1, h.2⟩

theorem State.putDevice_memInv (s : State) (a : Nat) (bs : List Byte) (h : s.MemInv) : (s.putDevice a bs).MemInv := by
  unfold State.putDevice
  split
  · exact h
  · exact State.commit_memInv s false a bs h

/-! ## Draining and storing -/

theorem State.drainList_hart (ws : List HeldWrite) (s : State) (sel : Nat → Bool) :
    (s.drainList sel ws).hart = { s.hart with watch := (s.drainList sel ws).hart.watch } := by
  induction ws generalizing s with
  | nil => rfl
  | cons w ws ih =>
    unfold State.drainList
    rw [ih]
    split
    · rw [State.commit_hart]
    · rfl

theorem State.drainList_others (ws : List HeldWrite) (s : State) (sel : Nat → Bool) :
    (s.drainList sel ws).others = s.others := by
  induction ws generalizing s with
  | nil => rfl
  | cons w ws ih =>
    unfold State.drainList
    rw [ih]
    split
    · exact State.commit_others s _ _ _
    · rfl

theorem State.drainList_memInv (ws : List HeldWrite) (s : State) (sel : Nat → Bool) (h : s.MemInv) :
    (s.drainList sel ws).MemInv := by
  induction ws generalizing s with
  | nil => exact h
  | cons w ws ih =>
    unfold State.drainList
    refine ih _ ?_
    split
    · exact State.commit_memInv s _ _ _ h
    · exact h

/-- Draining: the held writes of the selected streams are gone, and nothing else of the context changes but what it
watches (R195). -/
theorem State.drain_hart (s : State) (sel : Nat → Bool) :
    (s.drain sel).hart =
      { s.hart with wbuf := s.hart.wbuf.filter (fun w => !sel w.stream), watch := (s.drain sel).hart.watch } := by
  unfold State.drain
  dsimp only
  rw [State.drainList_hart]
  rfl

theorem State.drain_others (s : State) (sel : Nat → Bool) : (s.drain sel).others = s.others := by
  unfold State.drain
  dsimp only
  rw [State.drainList_others]
  rfl

theorem State.drain_memInv (s : State) (sel : Nat → Bool) (h : s.MemInv) : (s.drain sel).MemInv :=
  State.drainList_memInv _ _ _ h

/-- With nothing held, draining changes nothing. -/
theorem State.drain_of_empty (s : State) (sel : Nat → Bool) (h : s.hart.wbuf = []) : s.drain sel = s := by
  unfold State.drain
  rw [h]
  show { s with hart := { s.hart with wbuf := s.hart.wbuf.filter _ } } = s
  rw [h]
  show { s with hart := { s.hart with wbuf := [] } } = s
  rw [← h]

/-- A store: held back behind the stream's earlier writes, or performed after them; no register changes (R195, R196). -/
theorem State.store_hart (s : State) (k : Nat) (now pad : Bool) (a : Nat) (bs : List Byte) :
    (s.store k now pad a bs).hart =
      { s.hart with wbuf := (s.store k now pad a bs).hart.wbuf, watch := (s.store k now pad a bs).hart.watch } := by
  unfold State.store
  split
  · rfl
  · rw [State.commit_hart, State.drain_hart]

theorem State.store_others (s : State) (k : Nat) (now pad : Bool) (a : Nat) (bs : List Byte) :
    (s.store k now pad a bs).others = s.others := by
  unfold State.store
  split
  · rfl
  · rw [State.commit_others, State.drain_others]

theorem State.store_memInv (s : State) (k : Nat) (now pad : Bool) (a : Nat) (bs : List Byte) (h : s.MemInv) :
    (s.store k now pad a bs).MemInv := by
  unfold State.store
  split
  · exact h
  · exact State.commit_memInv _ _ _ _ (State.drain_memInv s _ h)

/-- A store with nothing held back and no stream holding puts its bytes into memory. -/
theorem State.store_now (s : State) (k : Nat) (now : Bool) (a : Nat) (bs : List Byte) (h : s.hart.wbuf = [])
    (hk : s.holding.contains k = false) : s.store k now false a bs = s.commitMem a bs := by
  unfold State.store
  rw [if_neg (by rw [hk]; exact fun h => Bool.false_ne_true h.1), State.drain_of_empty s _ h]
  rfl

/-! ## Loading -/

/-- With no write of the stream held, a byte of memory is what a load sees (R194). -/
theorem State.see_memory (s : State) (h : Hart) (k a : Nat) (hw : ∀ w ∈ h.wbuf, w.stream ≠ k) (ha : a < barBase) :
    s.see h k false a = memGet s.mem a := by
  have e : h.wbuf.filter (fun w => w.stream == k) = [] := by
    rw [List.filter_eq_nil_iff]
    intro w m
    simpa using hw w m
  have : ¬ barBase ≤ a := by omega
  simp [State.see, e, this]

theorem State.load_memory (s : State) (h : Hart) (k a n : Nat) (hw : ∀ w ∈ h.wbuf, w.stream ≠ k) (ha : a + n ≤ barBase) :
    s.load h k false a n = memRead s.mem a n := by
  induction n generalizing a with
  | zero => rfl
  | succ n ih =>
    rw [State.load, memRead, State.see_memory s h k a hw (by omega), ih (a + 1) (by omega)]

theorem State.load_lt (s : State) (h : Hart) (k : Nat) (pad : Bool) (a n : Nat) : s.load h k pad a n < 256 ^ n := by
  induction n generalizing a with
  | zero => simp [State.load]
  | succ n ih =>
    have h1 := ih (a + 1)
    have h2 := (s.see h k pad a).isLt
    rw [State.load, Nat.pow_succ]
    omega

/-! ## The checks of an access -/

/-- An access that passes: its address is inside the virtual space and aligned, it translates to the place answered, its
granule is declared, a write meets no shared frame, no port it needs is lost, and a read meets no poison (R344). -/
theorem State.access_ok (s : State) (h : Hart) (acc : Acc) (n : Nat) (va : BitVec 64) (p : Phys)
    (k : s.access h acc n va = .ok p) :
    va.toNat < windowEnd ∧ va.toNat % n = 0 ∧ s.translate h.info.asid acc va = .ok p ∧
      h.declared acc va.toNat p.pa = true ∧ ¬(acc = .write ∧ p.attr = .hbm ∧ 1 < s.count (p.pa / 2 ^ 18)) ∧
      s.portLost p = false ∧ (acc ≠ .write → ∀ i < n, s.poison.contains (p.pa + i) = false) := by
  unfold State.access State.locate at k
  by_cases h1 : windowEnd ≤ va.toNat
  · rw [if_pos h1] at k; cases k
  rw [if_neg h1] at k
  by_cases h2 : va.toNat % n ≠ 0
  · rw [if_pos h2] at k; cases k
  rw [if_neg h2] at k
  cases h3 : s.translate h.info.asid acc va with
  | error f => rw [h3] at k; cases k
  | ok q =>
    rw [h3] at k
    simp only at k
    unfold State.admitted at k
    split at k
    · cases k
    · rename_i h4
      split at k
      · cases k
      · rename_i h5
        split at k
        · cases k
        · rename_i h6
          cases k
          rw [not_or] at h6
          refine ⟨by omega, by simpa using h2, rfl, by simpa using h4, h5, by simpa using h6.1, fun hw i hi => ?_⟩
          refine Bool.eq_false_iff.2 (fun hc => h6.2 ⟨hw, ?_⟩)
          rw [List.any_eq_true]
          exact ⟨i, List.mem_range.2 hi, hc⟩

/-- An access beyond the virtual space is a page fault, whatever its alignment (R59). -/
theorem State.access_beyond (s : State) (h : Hart) (acc : Acc) (n : Nat) (va : BitVec 64) (k : windowEnd ≤ va.toNat) :
    s.access h acc n va = .error ⟨cPage, acc.detail, va⟩ := by
  unfold State.access State.locate; rw [if_pos k]

/-- A misaligned access inside the virtual space is a misaligned-access fault (R59). -/
theorem State.access_misaligned (s : State) (h : Hart) (acc : Acc) (n : Nat) (va : BitVec 64) (k : va.toNat < windowEnd)
    (m : va.toNat % n ≠ 0) : s.access h acc n va = .error ⟨cAlign, 0, va⟩ := by
  unfold State.access State.locate
  rw [if_neg (by omega), if_pos m]

/-! ## How an instruction ends -/

theorem State.done_eq (s : State) (h : Hart) : s.done h = .next (s.setHart (h.advance 4)) := rfl

theorem State.fault_next (s : State) (c d : BitVec 8) : s.fault c d = .next (s.taken (Trap.atWord s.hart c d)) := rfl

theorem State.illegal_next (s : State) : s.illegal = .next (s.taken (Trap.atWord s.hart cIllegal 0)) := rfl

theorem State.faultAt_next (s : State) (f : Flt) : ∃ t, s.faultAt f = .next t := by
  unfold State.faultAt; split <;> exact ⟨_, rfl⟩

theorem State.wait_next (s : State) (c : WaitCause) (w : Watch) : ∃ t, s.wait c w = .next t := by
  unfold State.wait; split <;> exact ⟨_, rfl⟩

/-- A wait in a hart's own turn changes the hart's state and what it watches, and nothing of the machine (R13). -/
theorem State.wait_own (s : State) (c : WaitCause) (w : Watch) (h : s.hart.lane = none) :
    s.wait c w = .next (s.upd (fun h => { h with st := .waiting c, watch := w, taken := [], walked := [], limit := none })) := by
  unfold State.wait; rw [h]

/-! ## Taking an exception -/

theorem State.putWords_hart (ws : List (Nat × Nat)) (s t : State) (h : Hart) (k : s.putWords h ws = some t) :
    t.hart = { s.hart with watch := t.hart.watch } := by
  induction ws generalizing s with
  | nil => cases k; rfl
  | cons w ws ih =>
    obtain ⟨o, v⟩ := w
    unfold State.putWords at k
    split at k
    · cases k
    · rw [ih _ k]
      have := State.commit_hart s false
      rw [show ∀ a bs, s.commitMem a bs = s.commit false a bs from fun _ _ => rfl, this]

theorem State.putWords_memInv (ws : List (Nat × Nat)) (s t : State) (h : Hart) (k : s.putWords h ws = some t)
    (i : s.MemInv) : t.MemInv := by
  induction ws generalizing s with
  | nil => cases k; exact i
  | cons w ws ih =>
    obtain ⟨o, v⟩ := w
    unfold State.putWords at k
    split at k
    · cases k
    · exact ih _ k (State.commit_memInv s false _ _ i)

/-- Writing the save area keeps the context but for the record, and what it watches (R259). -/
theorem State.writeArea_hart (s : State) (k : SaveKind) (r : SaveRec) :
    ∃ b w, (s.writeArea k r).hart = { s.hart with save := some { r with reserve := b }, watch := w } := by
  unfold State.writeArea
  dsimp only
  split
  · exact ⟨true, _, rfl⟩
  · split
    · rename_i s' e
      refine ⟨false, s'.hart.watch, ?_⟩
      show ({ s'.hart with save := some { r with reserve := false } } : Hart) = _
      rw [State.putWords_hart _ _ _ _ e]
    · exact ⟨true, _, rfl⟩

theorem State.writeArea_memInv (s : State) (k : SaveKind) (r : SaveRec) (h : s.MemInv) : (s.writeArea k r).MemInv := by
  unfold State.writeArea
  dsimp only
  split
  · exact h
  · split
    · rename_i s' e
      have g := State.putWords_memInv _ _ _ _ e h
      exact g
    · exact h

theorem State.writeFrame_memInv (s : State) (r : SaveRec) (h : s.MemInv) : (s.writeFrame r).MemInv := by
  unfold State.writeFrame
  dsimp only
  split
  · exact h
  · split
    · rename_i s' e
      have g := State.putWords_memInv _ _ _ _ e h
      exact g
    · exact h

/-- Setting credits changes the arbiters and nothing else (R25). -/
theorem State.creditAll_eq (s : State) (h : Hart) (f : Int → Int) :
    s.creditAll h f = { s with arbs := (s.creditAll h f).arbs } := by
  unfold State.creditAll
  generalize List.range h.w = l
  induction l generalizing s with
  | nil => rfl
  | cons g l ih => rw [List.foldl_cons, ih]; rfl

/-- A transaction's end leaves memory alone (R312). -/
theorem State.endTx_memInv (s : State) (h : s.MemInv) : s.endTx.MemInv := h

/-- Loads that perform change registers only (R193). -/
theorem State.landLates_memInv (ls : List LateLoad) (s : State) (h : s.MemInv) : (s.landLates ls).MemInv := by
  induction ls generalizing s with
  | nil => exact h
  | cons l ls ih =>
    refine ih _ ?_
    unfold State.landLate
    have d := State.drain_memInv _ (fun k => k == l.stream) h
    dsimp only
    split <;> exact d

theorem State.settleLoads_memInv (s : State) (h : s.MemInv) : s.settleLoads.MemInv := by
  unfold State.settleLoads
  exact State.landLates_memInv _ _ h

/-- A context without loads under way. -/
theorem Hart.late_none (h : Hart) (e : h.late = []) : ({ h with late := [] } : Hart) = h := by
  cases h
  simp only at e
  rw [e]

/-- Without loads under way none performs. -/
theorem State.settleLoads_none (s : State) (e : s.hart.late = []) : s.settleLoads = s := by
  unfold State.settleLoads
  rw [e]
  exact congrArg s.setHart (Hart.late_none s.hart e)

theorem State.note_memInv (s : State) (q o k n : Nat) (d : BitVec 64) (h : s.MemInv) : (s.note q o k n d).MemInv := by
  unfold State.note
  exact ⟨h.1, h.2⟩

theorem State.wdogRelease_memInv (s : State) (h : s.MemInv) : s.wdogRelease.MemInv := by
  unfold State.wdogRelease
  have d : (s.note 0 0 3 0 (s.hart.id.rcb.setWidth 64)).drainAll.MemInv := State.drain_memInv _ _ (State.note_memInv s _ _ _ _ _ h)
  dsimp only
  split
  · exact State.endTx_memInv _ d
  · exact d

/-- A save keeps memory and the scratchpads in canonical form. -/
theorem State.saved_memInv (s : State) (t : Trap) (h : s.MemInv) : (s.saved t).MemInv := by
  have key : ∀ u : State, u.MemInv → (u.creditAll u.hart (fun _ => 0)).MemInv := fun u k => by
    rw [State.creditAll_eq]; exact k
  unfold State.saved
  dsimp only
  have d : (State.drainAll (s.settleLoads.upd (fun h => h.landAll))).MemInv :=
    State.drain_memInv _ _ (State.settleLoads_memInv s h)
  generalize State.drainAll (s.settleLoads.upd (fun h => h.landAll)) = u at d
  have a : (if u.hart.handler.isSome = true then u.writeFrame (s.hart.record s.cycle t)
      else u.writeArea (saveKindOf t.cause) (s.hart.record s.cycle t)).MemInv := by
    split
    · exact State.writeFrame_memInv _ _ d
    · exact State.writeArea_memInv _ _ _ d
  generalize (if u.hart.handler.isSome = true then u.writeFrame (s.hart.record s.cycle t)
      else u.writeArea (saveKindOf t.cause) (s.hart.record s.cycle t)) = v at a
  split
  · exact key _ a
  · exact key _ a

/-- Posting an event keeps memory and the scratchpads in canonical form. -/
theorem State.postHart_memInv (s : State) (x : Hart) (c d : BitVec 8) (h : s.MemInv) : (s.postHart x c d).MemInv := h

theorem State.savedWithWdog_memInv (s : State) (t : Trap) (h : s.MemInv) : (s.savedWithWdog t).MemInv := by
  have k : ((s.upd Hart.meeting).wdogRelease.saved t).MemInv :=
    State.saved_memInv _ _ (State.wdogRelease_memInv (s.upd Hart.meeting) h)
  unfold State.savedWithWdog
  dsimp only
  apply State.postHart_memInv
  split
  · exact k
  · exact k

/-- Taking an exception keeps memory and the scratchpads in canonical form. -/
theorem State.taken_memInv (s : State) (t : Trap) (h : s.MemInv) : (s.taken t).MemInv := by
  unfold State.taken
  split
  · exact h
  dsimp only
  generalize (if s.hart.badRegs = true then { t with cause := cMachine, detail := 1 } else t) = u
  split
  · exact State.savedWithWdog_memInv s u h
  · split
    · split
      · exact State.postHart_memInv _ _ _ _ (State.saved_memInv (s.upd Hart.meeting) u h)
      · exact State.saved_memInv (s.upd Hart.meeting) u h
    · exact State.saved_memInv s u h

/-- The offsets of a number's doublewords. -/
theorem dwords_lt (n o v : Nat) (p : Nat × Nat) (h : p ∈ dwords o n v) : p.1 < o + 8 * n := by
  induction n generalizing o v with
  | zero => cases h
  | succ n ih =>
    rcases List.mem_cons.1 h with h | h
    · subst h; show o < o + 8 * (n + 1); omega
    · have := ih _ _ h; omega

/-- With a save area whose every doubleword translates, the record is kept in memory (R259). -/
theorem State.writeArea_save (s t : State) (k : SaveKind) (r : SaveRec) (h : s.hart.trapbase ≠ 0)
    (ht : s.putWords s.hart (saveWords k s.hart r) = some t) :
    (s.writeArea k r).hart.save = some { r with reserve := false } := by
  unfold State.writeArea
  dsimp only
  rw [if_neg h, ht]
  rfl

/-- A save outside the emulation handler for a cause above 0x11: the record is that of writing the area. -/
theorem State.taken_save (s u : State) (t : Trap) (x : SaveRec) (hl : s.hart.lane = none) (hb : s.hart.badRegs = false)
    (hu : State.drainAll (s.settleLoads.upd fun h => h.landAll) = u) (hh : u.hart.handler = none)
    (hc : ¬ t.cause.toNat ≤ 0x11) (w : (u.writeArea (saveKindOf t.cause) (s.hart.record s.cycle t)).hart.save = some x) :
    (s.taken t).hart.save = some x := by
  have e : s.meetsWdog t.cause = false := by
    unfold State.meetsWdog
    rw [decide_eq_false (by omega)]; rfl
  have f : s.taken t = s.saved t := by
    unfold State.taken
    rw [hl]
    simp only [hb, e, Bool.false_and, Bool.false_eq_true, if_false]
  rw [f]
  unfold State.saved
  dsimp only
  rw [hu, hh, if_neg hc, State.creditAll_eq]
  simp only [Option.isSome_none, Bool.false_eq_true, if_false, State.upd_hart]
  exact w

end Sys2Proof.Machine
end

