-- ==== Sys2Proof/Laws/PerInstr.lean ====
section
/-! SUPPORT. Statements made of every instruction as syntax, one lemma per constructor: decoding what `encode`
    gives for
a well-formed instruction gives the instruction back. -/

namespace Sys2Proof.Laws

set_option linter.unusedSimpArgs false
set_option linter.unusedVariables false

/-- The family Encoding: the words of a well-formed instruction decode to it. `illegalInstruction` stands for the
    words
that are no instruction, and is left out. -/
def Encoding.Statement (i : Instr) : Prop :=
  i.wf = true → (∀ w, i ≠ .illegalInstruction w) → ∀ ws, encode i = some ws → decodeWords ws = some i

/-! ## Reading a word put together from pieces -/

/-- The lowest piece of what stands from bit `lo` upward, and what stands above it. -/
theorem piece {v lo n x r : Nat} (h : v / 2 ^ lo = x + 2 ^ n * r) (hx : x < 2 ^ n) :
    bits v lo n = x ∧ v / 2 ^ (lo + n) = r := by
  constructor
  · rw [bits, h, Nat.add_mul_mod_self_left, Nat.mod_eq_of_lt hx]
  · rw [Nat.pow_add, ← Nat.div_div_eq_div_mul, h, Nat.add_mul_div_left _ _ (Nat.two_pow_pos n), Nat.div_eq_of_lt hx,
      Nat.zero_add]

/-- A field read where it was placed. -/
theorem fld_of_bits {n : Nat} {x : BitVec n} {w lo : Nat} (h : bits w lo n = x.toNat) : fld w lo n = x := by
  apply BitVec.eq_of_toNat_eq
  simpa [fld, bits] using h

/-- Bits within a piece. -/
theorem bits_within {v lo n c : Nat} (h : bits v lo n = c) (i j : Nat) (hij : i + j ≤ n) :
    bits v (lo + i) j = bits c i j := by
  subst h
  unfold bits
  apply Nat.eq_of_testBit_eq
  intro b
  simp only [Nat.testBit_mod_two_pow, Nat.testBit_div_two_pow]
  by_cases hb : b < j
  · simp only [hb, decide_true, Bool.true_and, show b + i < n by omega, show b + (lo + i) = b + i + lo by omega]
  · simp only [hb, decide_false, Bool.false_and]

/-! ## Decoding through the major -/

/-- Decoding through the major of a word. -/
theorem decodeWord_of {w p m : Nat} {i : Instr} (hm : w / 2 ^ 26 = m) (hr : m < 0x28 ∨ 0x3E < m)
    (hd : decodeDefined w p = some i) (hw : i.wf = true) : decodeWord w p = i := by
  unfold decodeWord
  rw [if_neg (by omega), hd]
  simp only [hw, if_true]

/-- The statement for an instruction of one word. -/
theorem encoding_of {i : Instr} {v m : Nat} (he : encode i = some [v]) (hm : v / 2 ^ 26 = m) (hr : m < 0x28 ∨ 0x3E
    < m)
    (hd : decodeDefined v 0 = some i) : Encoding.Statement i := by
  intro hw _ ws h
  cases he.symm.trans h
  exact congrArg some (decodeWord_of hm hr hd hw)

set_option Elab.async false in
theorem major_00 {w p : Nat} (h : w / 2 ^ 26 = 0) : decodeDefined w p = decode00 w := by
  simp only [decodeDefined, h]

theorem major_01 {w p : Nat} (h : w / 2 ^ 26 = 1) : decodeDefined w p = decode01 w := by
  simp only [decodeDefined, h]

theorem major_02 {w p : Nat} (h : w / 2 ^ 26 = 2) : decodeDefined w p = decode02 w := by
  simp only [decodeDefined, h]

theorem major_03 {w p : Nat} (h : w / 2 ^ 26 = 3) : decodeDefined w p = decode03 w := by
  simp only [decodeDefined, h]

theorem major_04 {w p : Nat} (h : w / 2 ^ 26 = 4) : decodeDefined w p = decode04 w := by
  simp only [decodeDefined, h]

theorem major_05 {w p : Nat} (h : w / 2 ^ 26 = 5) : decodeDefined w p = decode05 w := by
  simp only [decodeDefined, h]

theorem major_06 {w p : Nat} (h : w / 2 ^ 26 = 6) : decodeDefined w p = decode06 w := by
  simp only [decodeDefined, h]

theorem major_07 {w p : Nat} (h : w / 2 ^ 26 = 7) : decodeDefined w p = decode07 w := by
  simp only [decodeDefined, h]

theorem major_08 {w p : Nat} (h : w / 2 ^ 26 = 8) : decodeDefined w p = decode08 w := by
  simp only [decodeDefined, h]

theorem major_09 {w p : Nat} (h : w / 2 ^ 26 = 9) : decodeDefined w p = decode09 w := by
  simp only [decodeDefined, h]

theorem major_0A {w p : Nat} (h : w / 2 ^ 26 = 10) : decodeDefined w p = decode0A w := by
  simp only [decodeDefined, h]

theorem major_0B {w p : Nat} (h : w / 2 ^ 26 = 11) : decodeDefined w p = decode0B w := by
  simp only [decodeDefined, h]

theorem major_0C {w p : Nat} (h : w / 2 ^ 26 = 12) : decodeDefined w p = decode0C w := by
  simp only [decodeDefined, h]

theorem major_0D {w p : Nat} (h : w / 2 ^ 26 = 13) : decodeDefined w p = decode0D w := by
  simp only [decodeDefined, h]

theorem major_0E {w p : Nat} (h : w / 2 ^ 26 = 14) : decodeDefined w p = decode0E w := by
  simp only [decodeDefined, h]

theorem major_0F {w p : Nat} (h : w / 2 ^ 26 = 15) : decodeDefined w p = decode0F w := by
  simp only [decodeDefined, h]

theorem major_10 {w p : Nat} (h : w / 2 ^ 26 = 16) : decodeDefined w p = decode10 w := by
  simp only [decodeDefined, h]

theorem major_11 {w p : Nat} (h : w / 2 ^ 26 = 17) : decodeDefined w p = decode11 w := by
  simp only [decodeDefined, h]

theorem major_12 {w p : Nat} (h : w / 2 ^ 26 = 18) : decodeDefined w p = decode12 w := by
  simp only [decodeDefined, h]

theorem major_13 {w p : Nat} (h : w / 2 ^ 26 = 19) : decodeDefined w p = decode13 w := by
  simp only [decodeDefined, h]

theorem major_14 {w p : Nat} (h : w / 2 ^ 26 = 20) : decodeDefined w p = decode14 w := by
  simp only [decodeDefined, h]

theorem major_15 {w p : Nat} (h : w / 2 ^ 26 = 21) : decodeDefined w p = decode15 w := by
  simp only [decodeDefined, h]

theorem major_16 {w p : Nat} (h : w / 2 ^ 26 = 22) : decodeDefined w p = decode16 w := by
  simp only [decodeDefined, h]

theorem major_17 {w p : Nat} (h : w / 2 ^ 26 = 23) : decodeDefined w p = decode17 w := by
  simp only [decodeDefined, h]

theorem major_18 {w p : Nat} (h : w / 2 ^ 26 = 24) : decodeDefined w p = decode18 w := by
  simp only [decodeDefined, h]

theorem major_19 {w p : Nat} (h : w / 2 ^ 26 = 25) : decodeDefined w p = decode19 w := by
  simp only [decodeDefined, h]

theorem major_1A {w p : Nat} (h : w / 2 ^ 26 = 26) : decodeDefined w p = decode1A w := by
  simp only [decodeDefined, h]

theorem major_1B {w p : Nat} (h : w / 2 ^ 26 = 27) : decodeDefined w p = decode1B w := by
  simp only [decodeDefined, h]

theorem major_1C {w p : Nat} (h : w / 2 ^ 26 = 28) : decodeDefined w p = decode1C w := by
  simp only [decodeDefined, h]

theorem major_1D {w p : Nat} (h : w / 2 ^ 26 = 29) : decodeDefined w p = decode1D w := by
  simp only [decodeDefined, h]

theorem major_1E {w p : Nat} (h : w / 2 ^ 26 = 30) : decodeDefined w p = decode1E w := by
  simp only [decodeDefined, h]

theorem major_1F {w p : Nat} (h : w / 2 ^ 26 = 31) : decodeDefined w p = decode1F w := by
  simp only [decodeDefined, h]

theorem major_20 {w p : Nat} (h : w / 2 ^ 26 = 32) : decodeDefined w p = decode20 w := by
  simp only [decodeDefined, h]

theorem major_21 {w p : Nat} (h : w / 2 ^ 26 = 33) : decodeDefined w p = decode21 w := by
  simp only [decodeDefined, h]

theorem major_22 {w p : Nat} (h : w / 2 ^ 26 = 34) : decodeDefined w p = decode22 w := by
  simp only [decodeDefined, h]

theorem major_23 {w p : Nat} (h : w / 2 ^ 26 = 35) : decodeDefined w p = decode23 w := by
  simp only [decodeDefined, h]

theorem major_24 {w p : Nat} (h : w / 2 ^ 26 = 36) : decodeDefined w p = decode24 w := by
  simp only [decodeDefined, h]

theorem major_25 {w p : Nat} (h : w / 2 ^ 26 = 37) : decodeDefined w p = decode25 w := by
  simp only [decodeDefined, h]

theorem major_26 {w p : Nat} (h : w / 2 ^ 26 = 38) : decodeDefined w p = decode26 w := by
  simp only [decodeDefined, h]

theorem major_27 {w p : Nat} (h : w / 2 ^ 26 = 39) : decodeDefined w p = decode27 w := by
  simp only [decodeDefined, h]

theorem major_3F {w p : Nat} (h : w / 2 ^ 26 = 63) : decodeDefined w p = decode3F w p := by
  simp only [decodeDefined, h]

/-! ## The layouts of words: in a name, the pieces from bit 0 upward, `c` for constant bits and `f` for a field, each
with its width -/

theorem layout_c5_f6_c15 {i : Instr} (C m c0 c11 : Nat) (x5 : BitVec 6)
    (he : encode i = some [C + place x5 5])
    (hC : C = m * 2 ^ 26 + c0 * 2 ^ 0 + c11 * 2 ^ 11) (l0 : c0 < 2 ^ 5) (l11 : c11 < 2 ^ 15) (hr : m < 0x28 ∨ 0x3E
        < m)
    (h : ∀ v, v / 2 ^ 26 = m → fld v 5 6 = x5 → bits v 0 5 = c0 → bits v 11 15 = c11 →
      decodeDefined v 0 = some i) : Encoding.Statement i := by
  generalize hv : C + place x5 5 = v at he
  have q : v / 2 ^ 0 = c0 + 2 ^ 5 * (x5.toNat + 2 ^ 6 * (c11 + 2 ^ 15 * m)) := by
    simp only [place] at hv
    omega
  obtain ⟨e0, q⟩ := piece q l0
  obtain ⟨e5, q⟩ := piece q x5.isLt
  obtain ⟨e11, q⟩ := piece q l11
  exact encoding_of he q hr (h v q (fld_of_bits e5) e0 e11)

theorem layout_c5_f3_c3_f10_c5 {i : Instr} (C m c0 c8 c21 : Nat) (x11 : BitVec 10) (x5 : BitVec 3)
    (he : encode i = some [C + place x11 11 + place x5 5])
    (hC : C = m * 2 ^ 26 + c0 * 2 ^ 0 + c8 * 2 ^ 8 + c21 * 2 ^ 21) (l0 : c0 < 2 ^ 5) (l8 : c8 < 2 ^ 3) (l21 : c21 <
        2 ^ 5) (hr : m < 0x28 ∨ 0x3E < m)
    (h : ∀ v, v / 2 ^ 26 = m → fld v 11 10 = x11 → fld v 5 3 = x5 → bits v 0 5 = c0 → bits v 8 3 = c8 → bits v 21 5
        = c21 →
      decodeDefined v 0 = some i) : Encoding.Statement i := by
  generalize hv : C + place x11 11 + place x5 5 = v at he
  have q : v / 2 ^ 0 = c0 + 2 ^ 5 * (x5.toNat + 2 ^ 3 * (c8 + 2 ^ 3 * (x11.toNat + 2 ^ 10 * (c21 + 2 ^ 5 * m)))) := by
    simp only [place] at hv
    omega
  obtain ⟨e0, q⟩ := piece q l0
  obtain ⟨e5, q⟩ := piece q x5.isLt
  obtain ⟨e8, q⟩ := piece q l8
  obtain ⟨e11, q⟩ := piece q x11.isLt
  obtain ⟨e21, q⟩ := piece q l21
  exact encoding_of he q hr (h v q (fld_of_bits e11) (fld_of_bits e5) e0 e8 e21)

theorem layout_c11_f10_c5 {i : Instr} (C m c0 c21 : Nat) (x11 : BitVec 10)
    (he : encode i = some [C + place x11 11])
    (hC : C = m * 2 ^ 26 + c0 * 2 ^ 0 + c21 * 2 ^ 21) (l0 : c0 < 2 ^ 11) (l21 : c21 < 2 ^ 5) (hr : m < 0x28 ∨ 0x3E
        < m)
    (h : ∀ v, v / 2 ^ 26 = m → fld v 11 10 = x11 → bits v 0 11 = c0 → bits v 21 5 = c21 →
      decodeDefined v 0 = some i) : Encoding.Statement i := by
  generalize hv : C + place x11 11 = v at he
  have q : v / 2 ^ 0 = c0 + 2 ^ 11 * (x11.toNat + 2 ^ 10 * (c21 + 2 ^ 5 * m)) := by
    simp only [place] at hv
    omega
  obtain ⟨e0, q⟩ := piece q l0
  obtain ⟨e11, q⟩ := piece q x11.isLt
  obtain ⟨e21, q⟩ := piece q l21
  exact encoding_of he q hr (h v q (fld_of_bits e11) e0 e21)

theorem layout_c11_f5_c5_f5 {i : Instr} (C m c0 c16 : Nat) (x21 : BitVec 5) (x11 : BitVec 5)
    (he : encode i = some [C + place x21 21 + place x11 11])
    (hC : C = m * 2 ^ 26 + c0 * 2 ^ 0 + c16 * 2 ^ 16) (l0 : c0 < 2 ^ 11) (l16 : c16 < 2 ^ 5) (hr : m < 0x28 ∨ 0x3E
        < m)
    (h : ∀ v, v / 2 ^ 26 = m → fld v 21 5 = x21 → fld v 11 5 = x11 → bits v 0 11 = c0 → bits v 16 5 = c16 →
      decodeDefined v 0 = some i) : Encoding.Statement i := by
  generalize hv : C + place x21 21 + place x11 11 = v at he
  have q : v / 2 ^ 0 = c0 + 2 ^ 11 * (x11.toNat + 2 ^ 5 * (c16 + 2 ^ 5 * (x21.toNat + 2 ^ 5 * m))) := by
    simp only [place] at hv
    omega
  obtain ⟨e0, q⟩ := piece q l0
  obtain ⟨e11, q⟩ := piece q x11.isLt
  obtain ⟨e16, q⟩ := piece q l16
  obtain ⟨e21, q⟩ := piece q x21.isLt
  exact encoding_of he q hr (h v q (fld_of_bits e21) (fld_of_bits e11) e0 e16)

theorem layout_c11_f5_f5_c5 {i : Instr} (C m c0 c21 : Nat) (x16 : BitVec 5) (x11 : BitVec 5)
    (he : encode i = some [C + place x16 16 + place x11 11])
    (hC : C = m * 2 ^ 26 + c0 * 2 ^ 0 + c21 * 2 ^ 21) (l0 : c0 < 2 ^ 11) (l21 : c21 < 2 ^ 5) (hr : m < 0x28 ∨ 0x3E
        < m)
    (h : ∀ v, v / 2 ^ 26 = m → fld v 16 5 = x16 → fld v 11 5 = x11 → bits v 0 11 = c0 → bits v 21 5 = c21 →
      decodeDefined v 0 = some i) : Encoding.Statement i := by
  generalize hv : C + place x16 16 + place x11 11 = v at he
  have q : v / 2 ^ 0 = c0 + 2 ^ 11 * (x11.toNat + 2 ^ 5 * (x16.toNat + 2 ^ 5 * (c21 + 2 ^ 5 * m))) := by
    simp only [place] at hv
    omega
  obtain ⟨e0, q⟩ := piece q l0
  obtain ⟨e11, q⟩ := piece q x11.isLt
  obtain ⟨e16, q⟩ := piece q x16.isLt
  obtain ⟨e21, q⟩ := piece q l21
  exact encoding_of he q hr (h v q (fld_of_bits e16) (fld_of_bits e11) e0 e21)

theorem layout_c21_f5 {i : Instr} (C m c0 : Nat) (x21 : BitVec 5)
    (he : encode i = some [C + place x21 21])
    (hC : C = m * 2 ^ 26 + c0 * 2 ^ 0) (l0 : c0 < 2 ^ 21) (hr : m < 0x28 ∨ 0x3E < m)
    (h : ∀ v, v / 2 ^ 26 = m → fld v 21 5 = x21 → bits v 0 21 = c0 →
      decodeDefined v 0 = some i) : Encoding.Statement i := by
  generalize hv : C + place x21 21 = v at he
  have q : v / 2 ^ 0 = c0 + 2 ^ 21 * (x21.toNat + 2 ^ 5 * m) := by
    simp only [place] at hv
    omega
  obtain ⟨e0, q⟩ := piece q l0
  obtain ⟨e21, q⟩ := piece q x21.isLt
  exact encoding_of he q hr (h v q (fld_of_bits e21) e0)

theorem layout_c11_f5_f5_f5 {i : Instr} (C m c0 : Nat) (x21 : BitVec 5) (x16 : BitVec 5) (x11 : BitVec 5)
    (he : encode i = some [C + place x21 21 + place x16 16 + place x11 11])
    (hC : C = m * 2 ^ 26 + c0 * 2 ^ 0) (l0 : c0 < 2 ^ 11) (hr : m < 0x28 ∨ 0x3E < m)
    (h : ∀ v, v / 2 ^ 26 = m → fld v 21 5 = x21 → fld v 16 5 = x16 → fld v 11 5 = x11 → bits v 0 11 = c0 →
      decodeDefined v 0 = some i) : Encoding.Statement i := by
  generalize hv : C + place x21 21 + place x16 16 + place x11 11 = v at he
  have q : v / 2 ^ 0 = c0 + 2 ^ 11 * (x11.toNat + 2 ^ 5 * (x16.toNat + 2 ^ 5 * (x21.toNat + 2 ^ 5 * m))) := by
    simp only [place] at hv
    omega
  obtain ⟨e0, q⟩ := piece q l0
  obtain ⟨e11, q⟩ := piece q x11.isLt
  obtain ⟨e16, q⟩ := piece q x16.isLt
  obtain ⟨e21, q⟩ := piece q x21.isLt
  exact encoding_of he q hr (h v q (fld_of_bits e21) (fld_of_bits e16) (fld_of_bits e11) e0)

theorem layout_c16_f5_f5 {i : Instr} (C m c0 : Nat) (x21 : BitVec 5) (x16 : BitVec 5)
    (he : encode i = some [C + place x21 21 + place x16 16])
    (hC : C = m * 2 ^ 26 + c0 * 2 ^ 0) (l0 : c0 < 2 ^ 16) (hr : m < 0x28 ∨ 0x3E < m)
    (h : ∀ v, v / 2 ^ 26 = m → fld v 21 5 = x21 → fld v 16 5 = x16 → bits v 0 16 = c0 →
      decodeDefined v 0 = some i) : Encoding.Statement i := by
  generalize hv : C + place x21 21 + place x16 16 = v at he
  have q : v / 2 ^ 0 = c0 + 2 ^ 16 * (x16.toNat + 2 ^ 5 * (x21.toNat + 2 ^ 5 * m)) := by
    simp only [place] at hv
    omega
  obtain ⟨e0, q⟩ := piece q l0
  obtain ⟨e16, q⟩ := piece q x16.isLt
  obtain ⟨e21, q⟩ := piece q x21.isLt
  exact encoding_of he q hr (h v q (fld_of_bits e21) (fld_of_bits e16) e0)

theorem layout_f16_f5_f5 {i : Instr} (C m : Nat) (x21 : BitVec 5) (x16 : BitVec 5) (x0 : BitVec 16)
    (he : encode i = some [C + place x21 21 + place x16 16 + place x0 0])
    (hC : C = m * 2 ^ 26) (hr : m < 0x28 ∨ 0x3E < m)
    (h : ∀ v, v / 2 ^ 26 = m → fld v 21 5 = x21 → fld v 16 5 = x16 → fld v 0 16 = x0 →
      decodeDefined v 0 = some i) : Encoding.Statement i := by
  generalize hv : C + place x21 21 + place x16 16 + place x0 0 = v at he
  have q : v / 2 ^ 0 = x0.toNat + 2 ^ 16 * (x16.toNat + 2 ^ 5 * (x21.toNat + 2 ^ 5 * m)) := by
    simp only [place] at hv
    omega
  obtain ⟨e0, q⟩ := piece q x0.isLt
  obtain ⟨e16, q⟩ := piece q x16.isLt
  obtain ⟨e21, q⟩ := piece q x21.isLt
  exact encoding_of he q hr (h v q (fld_of_bits e21) (fld_of_bits e16) (fld_of_bits e0))

theorem layout_f6_c10_f5_f5 {i : Instr} (C m c6 : Nat) (x21 : BitVec 5) (x16 : BitVec 5) (x0 : BitVec 6)
    (he : encode i = some [C + place x21 21 + place x16 16 + place x0 0])
    (hC : C = m * 2 ^ 26 + c6 * 2 ^ 6) (l6 : c6 < 2 ^ 10) (hr : m < 0x28 ∨ 0x3E < m)
    (h : ∀ v, v / 2 ^ 26 = m → fld v 21 5 = x21 → fld v 16 5 = x16 → fld v 0 6 = x0 → bits v 6 10 = c6 →
      decodeDefined v 0 = some i) : Encoding.Statement i := by
  generalize hv : C + place x21 21 + place x16 16 + place x0 0 = v at he
  have q : v / 2 ^ 0 = x0.toNat + 2 ^ 6 * (c6 + 2 ^ 10 * (x16.toNat + 2 ^ 5 * (x21.toNat + 2 ^ 5 * m))) := by
    simp only [place] at hv
    omega
  obtain ⟨e0, q⟩ := piece q x0.isLt
  obtain ⟨e6, q⟩ := piece q l6
  obtain ⟨e16, q⟩ := piece q x16.isLt
  obtain ⟨e21, q⟩ := piece q x21.isLt
  exact encoding_of he q hr (h v q (fld_of_bits e21) (fld_of_bits e16) (fld_of_bits e0) e6)

theorem layout_f16_c5_f5 {i : Instr} (C m c16 : Nat) (x21 : BitVec 5) (x0 : BitVec 16)
    (he : encode i = some [C + place x21 21 + place x0 0])
    (hC : C = m * 2 ^ 26 + c16 * 2 ^ 16) (l16 : c16 < 2 ^ 5) (hr : m < 0x28 ∨ 0x3E < m)
    (h : ∀ v, v / 2 ^ 26 = m → fld v 21 5 = x21 → fld v 0 16 = x0 → bits v 16 5 = c16 →
      decodeDefined v 0 = some i) : Encoding.Statement i := by
  generalize hv : C + place x21 21 + place x0 0 = v at he
  have q : v / 2 ^ 0 = x0.toNat + 2 ^ 16 * (c16 + 2 ^ 5 * (x21.toNat + 2 ^ 5 * m)) := by
    simp only [place] at hv
    omega
  obtain ⟨e0, q⟩ := piece q x0.isLt
  obtain ⟨e16, q⟩ := piece q l16
  obtain ⟨e21, q⟩ := piece q x21.isLt
  exact encoding_of he q hr (h v q (fld_of_bits e21) (fld_of_bits e0) e16)

theorem layout_f13_c3_f5_f5 {i : Instr} (C m c13 : Nat) (x21 : BitVec 5) (x16 : BitVec 5) (x0 : BitVec 13)
    (he : encode i = some [C + place x21 21 + place x16 16 + place x0 0])
    (hC : C = m * 2 ^ 26 + c13 * 2 ^ 13) (l13 : c13 < 2 ^ 3) (hr : m < 0x28 ∨ 0x3E < m)
    (h : ∀ v, v / 2 ^ 26 = m → fld v 21 5 = x21 → fld v 16 5 = x16 → fld v 0 13 = x0 → bits v 13 3 = c13 →
      decodeDefined v 0 = some i) : Encoding.Statement i := by
  generalize hv : C + place x21 21 + place x16 16 + place x0 0 = v at he
  have q : v / 2 ^ 0 = x0.toNat + 2 ^ 13 * (c13 + 2 ^ 3 * (x16.toNat + 2 ^ 5 * (x21.toNat + 2 ^ 5 * m))) := by
    simp only [place] at hv
    omega
  obtain ⟨e0, q⟩ := piece q x0.isLt
  obtain ⟨e13, q⟩ := piece q l13
  obtain ⟨e16, q⟩ := piece q x16.isLt
  obtain ⟨e21, q⟩ := piece q x21.isLt
  exact encoding_of he q hr (h v q (fld_of_bits e21) (fld_of_bits e16) (fld_of_bits e0) e13)

theorem layout_c2_f2_f3_c4_f5_f5_f5 {i : Instr} (C m c0 c7 : Nat) (x21 : BitVec 5) (x16 : BitVec 5) (x11 : BitVec
    5) (x4 : BitVec 3) (x2 : BitVec 2)
    (he : encode i = some [C + place x21 21 + place x16 16 + place x11 11 + place x4 4 + place x2 2])
    (hC : C = m * 2 ^ 26 + c0 * 2 ^ 0 + c7 * 2 ^ 7) (l0 : c0 < 2 ^ 2) (l7 : c7 < 2 ^ 4) (hr : m < 0x28 ∨ 0x3E < m)
    (h : ∀ v, v / 2 ^ 26 = m → fld v 21 5 = x21 → fld v 16 5 = x16 → fld v 11 5 = x11 → fld v 4 3 = x4 → fld v 2 2
        = x2 → bits v 0 2 = c0 → bits v 7 4 = c7 →
      decodeDefined v 0 = some i) : Encoding.Statement i := by
  generalize hv : C + place x21 21 + place x16 16 + place x11 11 + place x4 4 + place x2 2 = v at he
  have q : v / 2 ^ 0 = c0 + 2 ^ 2 * (x2.toNat + 2 ^ 2 * (x4.toNat + 2 ^ 3 * (c7 + 2 ^ 4 * (x11.toNat + 2 ^ 5 *
      (x16.toNat + 2 ^ 5 * (x21.toNat + 2 ^ 5 * m)))))) := by
    simp only [place] at hv
    omega
  obtain ⟨e0, q⟩ := piece q l0
  obtain ⟨e2, q⟩ := piece q x2.isLt
  obtain ⟨e4, q⟩ := piece q x4.isLt
  obtain ⟨e7, q⟩ := piece q l7
  obtain ⟨e11, q⟩ := piece q x11.isLt
  obtain ⟨e16, q⟩ := piece q x16.isLt
  obtain ⟨e21, q⟩ := piece q x21.isLt
  exact encoding_of he q hr (h v q (fld_of_bits e21) (fld_of_bits e16) (fld_of_bits e11) (fld_of_bits e4)
      (fld_of_bits e2) e0 e7)

theorem layout_c2_f2_f3_c9_f5_f5 {i : Instr} (C m c0 c7 : Nat) (x21 : BitVec 5) (x16 : BitVec 5) (x4 : BitVec 3)
    (x2 : BitVec 2)
    (he : encode i = some [C + place x21 21 + place x16 16 + place x4 4 + place x2 2])
    (hC : C = m * 2 ^ 26 + c0 * 2 ^ 0 + c7 * 2 ^ 7) (l0 : c0 < 2 ^ 2) (l7 : c7 < 2 ^ 9) (hr : m < 0x28 ∨ 0x3E < m)
    (h : ∀ v, v / 2 ^ 26 = m → fld v 21 5 = x21 → fld v 16 5 = x16 → fld v 4 3 = x4 → fld v 2 2 = x2 → bits v 0 2 =
        c0 → bits v 7 9 = c7 →
      decodeDefined v 0 = some i) : Encoding.Statement i := by
  generalize hv : C + place x21 21 + place x16 16 + place x4 4 + place x2 2 = v at he
  have q : v / 2 ^ 0 = c0 + 2 ^ 2 * (x2.toNat + 2 ^ 2 * (x4.toNat + 2 ^ 3 * (c7 + 2 ^ 9 * (x16.toNat + 2 ^ 5 *
      (x21.toNat + 2 ^ 5 * m))))) := by
    simp only [place] at hv
    omega
  obtain ⟨e0, q⟩ := piece q l0
  obtain ⟨e2, q⟩ := piece q x2.isLt
  obtain ⟨e4, q⟩ := piece q x4.isLt
  obtain ⟨e7, q⟩ := piece q l7
  obtain ⟨e16, q⟩ := piece q x16.isLt
  obtain ⟨e21, q⟩ := piece q x21.isLt
  exact encoding_of he q hr (h v q (fld_of_bits e21) (fld_of_bits e16) (fld_of_bits e4) (fld_of_bits e2) e0 e7)

theorem layout_c2_f2_f3_c4_f5_f5_c5 {i : Instr} (C m c0 c7 c21 : Nat) (x16 : BitVec 5) (x11 : BitVec 5) (x4 :
    BitVec 3) (x2 : BitVec 2)
    (he : encode i = some [C + place x16 16 + place x11 11 + place x4 4 + place x2 2])
    (hC : C = m * 2 ^ 26 + c0 * 2 ^ 0 + c7 * 2 ^ 7 + c21 * 2 ^ 21) (l0 : c0 < 2 ^ 2) (l7 : c7 < 2 ^ 4) (l21 : c21 <
        2 ^ 5) (hr : m < 0x28 ∨ 0x3E < m)
    (h : ∀ v, v / 2 ^ 26 = m → fld v 16 5 = x16 → fld v 11 5 = x11 → fld v 4 3 = x4 → fld v 2 2 = x2 → bits v 0 2 =
        c0 → bits v 7 4 = c7 → bits v 21 5 = c21 →
      decodeDefined v 0 = some i) : Encoding.Statement i := by
  generalize hv : C + place x16 16 + place x11 11 + place x4 4 + place x2 2 = v at he
  have q : v / 2 ^ 0 = c0 + 2 ^ 2 * (x2.toNat + 2 ^ 2 * (x4.toNat + 2 ^ 3 * (c7 + 2 ^ 4 * (x11.toNat + 2 ^ 5 *
      (x16.toNat + 2 ^ 5 * (c21 + 2 ^ 5 * m)))))) := by
    simp only [place] at hv
    omega
  obtain ⟨e0, q⟩ := piece q l0
  obtain ⟨e2, q⟩ := piece q x2.isLt
  obtain ⟨e4, q⟩ := piece q x4.isLt
  obtain ⟨e7, q⟩ := piece q l7
  obtain ⟨e11, q⟩ := piece q x11.isLt
  obtain ⟨e16, q⟩ := piece q x16.isLt
  obtain ⟨e21, q⟩ := piece q l21
  exact encoding_of he q hr (h v q (fld_of_bits e16) (fld_of_bits e11) (fld_of_bits e4) (fld_of_bits e2) e0 e7 e21)

theorem layout_f26 {i : Instr} (C m : Nat) (x0 : BitVec 26)
    (he : encode i = some [C + place x0 0])
    (hC : C = m * 2 ^ 26) (hr : m < 0x28 ∨ 0x3E < m)
    (h : ∀ v, v / 2 ^ 26 = m → fld v 0 26 = x0 →
      decodeDefined v 0 = some i) : Encoding.Statement i := by
  generalize hv : C + place x0 0 = v at he
  have q : v / 2 ^ 0 = x0.toNat + 2 ^ 26 * m := by
    simp only [place] at hv
    omega
  obtain ⟨e0, q⟩ := piece q x0.isLt
  exact encoding_of he q hr (h v q (fld_of_bits e0))

theorem layout_f13_f3_f5_f5 {i : Instr} (C m : Nat) (x21 : BitVec 5) (x16 : BitVec 5) (x13 : BitVec 3) (x0 : BitVec
    13)
    (he : encode i = some [C + place x21 21 + place x16 16 + place x13 13 + place x0 0])
    (hC : C = m * 2 ^ 26) (hr : m < 0x28 ∨ 0x3E < m)
    (h : ∀ v, v / 2 ^ 26 = m → fld v 21 5 = x21 → fld v 16 5 = x16 → fld v 13 3 = x13 → fld v 0 13 = x0 →
      decodeDefined v 0 = some i) : Encoding.Statement i := by
  generalize hv : C + place x21 21 + place x16 16 + place x13 13 + place x0 0 = v at he
  have q : v / 2 ^ 0 = x0.toNat + 2 ^ 13 * (x13.toNat + 2 ^ 3 * (x16.toNat + 2 ^ 5 * (x21.toNat + 2 ^ 5 * m))) := by
    simp only [place] at hv
    omega
  obtain ⟨e0, q⟩ := piece q x0.isLt
  obtain ⟨e13, q⟩ := piece q x13.isLt
  obtain ⟨e16, q⟩ := piece q x16.isLt
  obtain ⟨e21, q⟩ := piece q x21.isLt
  exact encoding_of he q hr (h v q (fld_of_bits e21) (fld_of_bits e16) (fld_of_bits e13) (fld_of_bits e0))

theorem layout_c1_f2_f6_c7_f5_f5 {i : Instr} (C m c0 c9 : Nat) (x21 : BitVec 5) (x16 : BitVec 5) (x3 : BitVec 6)
    (x1 : BitVec 2)
    (he : encode i = some [C + place x21 21 + place x16 16 + place x3 3 + place x1 1])
    (hC : C = m * 2 ^ 26 + c0 * 2 ^ 0 + c9 * 2 ^ 9) (l0 : c0 < 2 ^ 1) (l9 : c9 < 2 ^ 7) (hr : m < 0x28 ∨ 0x3E < m)
    (h : ∀ v, v / 2 ^ 26 = m → fld v 21 5 = x21 → fld v 16 5 = x16 → fld v 3 6 = x3 → fld v 1 2 = x1 → bits v 0 1 =
        c0 → bits v 9 7 = c9 →
      decodeDefined v 0 = some i) : Encoding.Statement i := by
  generalize hv : C + place x21 21 + place x16 16 + place x3 3 + place x1 1 = v at he
  have q : v / 2 ^ 0 = c0 + 2 ^ 1 * (x1.toNat + 2 ^ 2 * (x3.toNat + 2 ^ 6 * (c9 + 2 ^ 7 * (x16.toNat + 2 ^ 5 *
      (x21.toNat + 2 ^ 5 * m))))) := by
    simp only [place] at hv
    omega
  obtain ⟨e0, q⟩ := piece q l0
  obtain ⟨e1, q⟩ := piece q x1.isLt
  obtain ⟨e3, q⟩ := piece q x3.isLt
  obtain ⟨e9, q⟩ := piece q l9
  obtain ⟨e16, q⟩ := piece q x16.isLt
  obtain ⟨e21, q⟩ := piece q x21.isLt
  exact encoding_of he q hr (h v q (fld_of_bits e21) (fld_of_bits e16) (fld_of_bits e3) (fld_of_bits e1) e0 e9)

theorem layout_c3_f3_f3_c12_f5 {i : Instr} (C m c0 c9 : Nat) (x21 : BitVec 5) (x6 : BitVec 3) (x3 : BitVec 3)
    (he : encode i = some [C + place x21 21 + place x6 6 + place x3 3])
    (hC : C = m * 2 ^ 26 + c0 * 2 ^ 0 + c9 * 2 ^ 9) (l0 : c0 < 2 ^ 3) (l9 : c9 < 2 ^ 12) (hr : m < 0x28 ∨ 0x3E < m)
    (h : ∀ v, v / 2 ^ 26 = m → fld v 21 5 = x21 → fld v 6 3 = x6 → fld v 3 3 = x3 → bits v 0 3 = c0 → bits v 9 12 =
        c9 →
      decodeDefined v 0 = some i) : Encoding.Statement i := by
  generalize hv : C + place x21 21 + place x6 6 + place x3 3 = v at he
  have q : v / 2 ^ 0 = c0 + 2 ^ 3 * (x3.toNat + 2 ^ 3 * (x6.toNat + 2 ^ 3 * (c9 + 2 ^ 12 * (x21.toNat + 2 ^ 5 *
      m)))) := by
    simp only [place] at hv
    omega
  obtain ⟨e0, q⟩ := piece q l0
  obtain ⟨e3, q⟩ := piece q x3.isLt
  obtain ⟨e6, q⟩ := piece q x6.isLt
  obtain ⟨e9, q⟩ := piece q l9
  obtain ⟨e21, q⟩ := piece q x21.isLt
  exact encoding_of he q hr (h v q (fld_of_bits e21) (fld_of_bits e6) (fld_of_bits e3) e0 e9)

theorem layout_c4_f2_f3_c7_f5_f5 {i : Instr} (C m c0 c9 : Nat) (x21 : BitVec 5) (x16 : BitVec 5) (x6 : BitVec 3)
    (x4 : BitVec 2)
    (he : encode i = some [C + place x21 21 + place x16 16 + place x6 6 + place x4 4])
    (hC : C = m * 2 ^ 26 + c0 * 2 ^ 0 + c9 * 2 ^ 9) (l0 : c0 < 2 ^ 4) (l9 : c9 < 2 ^ 7) (hr : m < 0x28 ∨ 0x3E < m)
    (h : ∀ v, v / 2 ^ 26 = m → fld v 21 5 = x21 → fld v 16 5 = x16 → fld v 6 3 = x6 → fld v 4 2 = x4 → bits v 0 4 =
        c0 → bits v 9 7 = c9 →
      decodeDefined v 0 = some i) : Encoding.Statement i := by
  generalize hv : C + place x21 21 + place x16 16 + place x6 6 + place x4 4 = v at he
  have q : v / 2 ^ 0 = c0 + 2 ^ 4 * (x4.toNat + 2 ^ 2 * (x6.toNat + 2 ^ 3 * (c9 + 2 ^ 7 * (x16.toNat + 2 ^ 5 *
      (x21.toNat + 2 ^ 5 * m))))) := by
    simp only [place] at hv
    omega
  obtain ⟨e0, q⟩ := piece q l0
  obtain ⟨e4, q⟩ := piece q x4.isLt
  obtain ⟨e6, q⟩ := piece q x6.isLt
  obtain ⟨e9, q⟩ := piece q l9
  obtain ⟨e16, q⟩ := piece q x16.isLt
  obtain ⟨e21, q⟩ := piece q x21.isLt
  exact encoding_of he q hr (h v q (fld_of_bits e21) (fld_of_bits e16) (fld_of_bits e6) (fld_of_bits e4) e0 e9)

theorem layout_c6_f1_f1_f3_f5_f5_f5 {i : Instr} (C m c0 : Nat) (x21 : BitVec 5) (x16 : BitVec 5) (x11 : BitVec 5)
    (x8 : BitVec 3) (x7 : BitVec 1) (x6 : BitVec 1)
    (he : encode i = some [C + place x21 21 + place x16 16 + place x11 11 + place x8 8 + place x7 7 + place x6 6])
    (hC : C = m * 2 ^ 26 + c0 * 2 ^ 0) (l0 : c0 < 2 ^ 6) (hr : m < 0x28 ∨ 0x3E < m)
    (h : ∀ v, v / 2 ^ 26 = m → fld v 21 5 = x21 → fld v 16 5 = x16 → fld v 11 5 = x11 → fld v 8 3 = x8 → fld v 7 1
        = x7 → fld v 6 1 = x6 → bits v 0 6 = c0 →
      decodeDefined v 0 = some i) : Encoding.Statement i := by
  generalize hv : C + place x21 21 + place x16 16 + place x11 11 + place x8 8 + place x7 7 + place x6 6 = v at he
  have q : v / 2 ^ 0 = c0 + 2 ^ 6 * (x6.toNat + 2 ^ 1 * (x7.toNat + 2 ^ 1 * (x8.toNat + 2 ^ 3 * (x11.toNat + 2 ^ 5
      * (x16.toNat + 2 ^ 5 * (x21.toNat + 2 ^ 5 * m)))))) := by
    simp only [place] at hv
    omega
  obtain ⟨e0, q⟩ := piece q l0
  obtain ⟨e6, q⟩ := piece q x6.isLt
  obtain ⟨e7, q⟩ := piece q x7.isLt
  obtain ⟨e8, q⟩ := piece q x8.isLt
  obtain ⟨e11, q⟩ := piece q x11.isLt
  obtain ⟨e16, q⟩ := piece q x16.isLt
  obtain ⟨e21, q⟩ := piece q x21.isLt
  exact encoding_of he q hr (h v q (fld_of_bits e21) (fld_of_bits e16) (fld_of_bits e11) (fld_of_bits e8)
      (fld_of_bits e7) (fld_of_bits e6) e0)

theorem layout_c7_f1_f3_c5_f5_f5 {i : Instr} (C m c0 c11 : Nat) (x21 : BitVec 5) (x16 : BitVec 5) (x8 : BitVec 3)
    (x7 : BitVec 1)
    (he : encode i = some [C + place x21 21 + place x16 16 + place x8 8 + place x7 7])
    (hC : C = m * 2 ^ 26 + c0 * 2 ^ 0 + c11 * 2 ^ 11) (l0 : c0 < 2 ^ 7) (l11 : c11 < 2 ^ 5) (hr : m < 0x28 ∨ 0x3E < m)
    (h : ∀ v, v / 2 ^ 26 = m → fld v 21 5 = x21 → fld v 16 5 = x16 → fld v 8 3 = x8 → fld v 7 1 = x7 → bits v 0 7 =
        c0 → bits v 11 5 = c11 →
      decodeDefined v 0 = some i) : Encoding.Statement i := by
  generalize hv : C + place x21 21 + place x16 16 + place x8 8 + place x7 7 = v at he
  have q : v / 2 ^ 0 = c0 + 2 ^ 7 * (x7.toNat + 2 ^ 1 * (x8.toNat + 2 ^ 3 * (c11 + 2 ^ 5 * (x16.toNat + 2 ^ 5 *
      (x21.toNat + 2 ^ 5 * m))))) := by
    simp only [place] at hv
    omega
  obtain ⟨e0, q⟩ := piece q l0
  obtain ⟨e7, q⟩ := piece q x7.isLt
  obtain ⟨e8, q⟩ := piece q x8.isLt
  obtain ⟨e11, q⟩ := piece q l11
  obtain ⟨e16, q⟩ := piece q x16.isLt
  obtain ⟨e21, q⟩ := piece q x21.isLt
  exact encoding_of he q hr (h v q (fld_of_bits e21) (fld_of_bits e16) (fld_of_bits e8) (fld_of_bits e7) e0 e11)

theorem layout_c7_f1_f3_f5_f5_f5 {i : Instr} (C m c0 : Nat) (x21 : BitVec 5) (x16 : BitVec 5) (x11 : BitVec 5) (x8
    : BitVec 3) (x7 : BitVec 1)
    (he : encode i = some [C + place x21 21 + place x16 16 + place x11 11 + place x8 8 + place x7 7])
    (hC : C = m * 2 ^ 26 + c0 * 2 ^ 0) (l0 : c0 < 2 ^ 7) (hr : m < 0x28 ∨ 0x3E < m)
    (h : ∀ v, v / 2 ^ 26 = m → fld v 21 5 = x21 → fld v 16 5 = x16 → fld v 11 5 = x11 → fld v 8 3 = x8 → fld v 7 1
        = x7 → bits v 0 7 = c0 →
      decodeDefined v 0 = some i) : Encoding.Statement i := by
  generalize hv : C + place x21 21 + place x16 16 + place x11 11 + place x8 8 + place x7 7 = v at he
  have q : v / 2 ^ 0 = c0 + 2 ^ 7 * (x7.toNat + 2 ^ 1 * (x8.toNat + 2 ^ 3 * (x11.toNat + 2 ^ 5 * (x16.toNat + 2 ^ 5
      * (x21.toNat + 2 ^ 5 * m))))) := by
    simp only [place] at hv
    omega
  obtain ⟨e0, q⟩ := piece q l0
  obtain ⟨e7, q⟩ := piece q x7.isLt
  obtain ⟨e8, q⟩ := piece q x8.isLt
  obtain ⟨e11, q⟩ := piece q x11.isLt
  obtain ⟨e16, q⟩ := piece q x16.isLt
  obtain ⟨e21, q⟩ := piece q x21.isLt
  exact encoding_of he q hr (h v q (fld_of_bits e21) (fld_of_bits e16) (fld_of_bits e11) (fld_of_bits e8)
      (fld_of_bits e7) e0)

theorem layout_c6_f1_f1_f3_f5_f5_f3_c2 {i : Instr} (C m c0 c24 : Nat) (x21 : BitVec 3) (x16 : BitVec 5) (x11 :
    BitVec 5) (x8 : BitVec 3) (x7 : BitVec 1) (x6 : BitVec 1)
    (he : encode i = some [C + place x21 21 + place x16 16 + place x11 11 + place x8 8 + place x7 7 + place x6 6])
    (hC : C = m * 2 ^ 26 + c0 * 2 ^ 0 + c24 * 2 ^ 24) (l0 : c0 < 2 ^ 6) (l24 : c24 < 2 ^ 2) (hr : m < 0x28 ∨ 0x3E < m)
    (h : ∀ v, v / 2 ^ 26 = m → fld v 21 3 = x21 → fld v 16 5 = x16 → fld v 11 5 = x11 → fld v 8 3 = x8 → fld v 7 1
        = x7 → fld v 6 1 = x6 → bits v 0 6 = c0 → bits v 24 2 = c24 →
      decodeDefined v 0 = some i) : Encoding.Statement i := by
  generalize hv : C + place x21 21 + place x16 16 + place x11 11 + place x8 8 + place x7 7 + place x6 6 = v at he
  have q : v / 2 ^ 0 = c0 + 2 ^ 6 * (x6.toNat + 2 ^ 1 * (x7.toNat + 2 ^ 1 * (x8.toNat + 2 ^ 3 * (x11.toNat + 2 ^ 5
      * (x16.toNat + 2 ^ 5 * (x21.toNat + 2 ^ 3 * (c24 + 2 ^ 2 * m))))))) := by
    simp only [place] at hv
    omega
  obtain ⟨e0, q⟩ := piece q l0
  obtain ⟨e6, q⟩ := piece q x6.isLt
  obtain ⟨e7, q⟩ := piece q x7.isLt
  obtain ⟨e8, q⟩ := piece q x8.isLt
  obtain ⟨e11, q⟩ := piece q x11.isLt
  obtain ⟨e16, q⟩ := piece q x16.isLt
  obtain ⟨e21, q⟩ := piece q x21.isLt
  obtain ⟨e24, q⟩ := piece q l24
  exact encoding_of he q hr (h v q (fld_of_bits e21) (fld_of_bits e16) (fld_of_bits e11) (fld_of_bits e8)
      (fld_of_bits e7) (fld_of_bits e6) e0 e24)

theorem layout_c11_f3_c2_f3_c2_f3_c2 {i : Instr} (C m c0 c14 c19 c24 : Nat) (x21 : BitVec 3) (x16 : BitVec 3) (x11
    : BitVec 3)
    (he : encode i = some [C + place x21 21 + place x16 16 + place x11 11])
    (hC : C = m * 2 ^ 26 + c0 * 2 ^ 0 + c14 * 2 ^ 14 + c19 * 2 ^ 19 + c24 * 2 ^ 24) (l0 : c0 < 2 ^ 11) (l14 : c14 <
        2 ^ 2) (l19 : c19 < 2 ^ 2) (l24 : c24 < 2 ^ 2) (hr : m < 0x28 ∨ 0x3E < m)
    (h : ∀ v, v / 2 ^ 26 = m → fld v 21 3 = x21 → fld v 16 3 = x16 → fld v 11 3 = x11 → bits v 0 11 = c0 → bits v
        14 2 = c14 → bits v 19 2 = c19 → bits v 24 2 = c24 →
      decodeDefined v 0 = some i) : Encoding.Statement i := by
  generalize hv : C + place x21 21 + place x16 16 + place x11 11 = v at he
  have q : v / 2 ^ 0 = c0 + 2 ^ 11 * (x11.toNat + 2 ^ 3 * (c14 + 2 ^ 2 * (x16.toNat + 2 ^ 3 * (c19 + 2 ^ 2 *
      (x21.toNat + 2 ^ 3 * (c24 + 2 ^ 2 * m)))))) := by
    simp only [place] at hv
    omega
  obtain ⟨e0, q⟩ := piece q l0
  obtain ⟨e11, q⟩ := piece q x11.isLt
  obtain ⟨e14, q⟩ := piece q l14
  obtain ⟨e16, q⟩ := piece q x16.isLt
  obtain ⟨e19, q⟩ := piece q l19
  obtain ⟨e21, q⟩ := piece q x21.isLt
  obtain ⟨e24, q⟩ := piece q l24
  exact encoding_of he q hr (h v q (fld_of_bits e21) (fld_of_bits e16) (fld_of_bits e11) e0 e14 e19 e24)

theorem layout_c16_f3_c2_f3_c2 {i : Instr} (C m c0 c19 c24 : Nat) (x21 : BitVec 3) (x16 : BitVec 3)
    (he : encode i = some [C + place x21 21 + place x16 16])
    (hC : C = m * 2 ^ 26 + c0 * 2 ^ 0 + c19 * 2 ^ 19 + c24 * 2 ^ 24) (l0 : c0 < 2 ^ 16) (l19 : c19 < 2 ^ 2) (l24 :
        c24 < 2 ^ 2) (hr : m < 0x28 ∨ 0x3E < m)
    (h : ∀ v, v / 2 ^ 26 = m → fld v 21 3 = x21 → fld v 16 3 = x16 → bits v 0 16 = c0 → bits v 19 2 = c19 → bits v
        24 2 = c24 →
      decodeDefined v 0 = some i) : Encoding.Statement i := by
  generalize hv : C + place x21 21 + place x16 16 = v at he
  have q : v / 2 ^ 0 = c0 + 2 ^ 16 * (x16.toNat + 2 ^ 3 * (c19 + 2 ^ 2 * (x21.toNat + 2 ^ 3 * (c24 + 2 ^ 2 * m))))
      := by
    simp only [place] at hv
    omega
  obtain ⟨e0, q⟩ := piece q l0
  obtain ⟨e16, q⟩ := piece q x16.isLt
  obtain ⟨e19, q⟩ := piece q l19
  obtain ⟨e21, q⟩ := piece q x21.isLt
  obtain ⟨e24, q⟩ := piece q l24
  exact encoding_of he q hr (h v q (fld_of_bits e21) (fld_of_bits e16) e0 e19 e24)

theorem layout_c16_f3_c2_f5 {i : Instr} (C m c0 c19 : Nat) (x21 : BitVec 5) (x16 : BitVec 3)
    (he : encode i = some [C + place x21 21 + place x16 16])
    (hC : C = m * 2 ^ 26 + c0 * 2 ^ 0 + c19 * 2 ^ 19) (l0 : c0 < 2 ^ 16) (l19 : c19 < 2 ^ 2) (hr : m < 0x28 ∨ 0x3E
        < m)
    (h : ∀ v, v / 2 ^ 26 = m → fld v 21 5 = x21 → fld v 16 3 = x16 → bits v 0 16 = c0 → bits v 19 2 = c19 →
      decodeDefined v 0 = some i) : Encoding.Statement i := by
  generalize hv : C + place x21 21 + place x16 16 = v at he
  have q : v / 2 ^ 0 = c0 + 2 ^ 16 * (x16.toNat + 2 ^ 3 * (c19 + 2 ^ 2 * (x21.toNat + 2 ^ 5 * m))) := by
    simp only [place] at hv
    omega
  obtain ⟨e0, q⟩ := piece q l0
  obtain ⟨e16, q⟩ := piece q x16.isLt
  obtain ⟨e19, q⟩ := piece q l19
  obtain ⟨e21, q⟩ := piece q x21.isLt
  exact encoding_of he q hr (h v q (fld_of_bits e21) (fld_of_bits e16) e0 e19)

theorem layout_c21_f3_c2 {i : Instr} (C m c0 c24 : Nat) (x21 : BitVec 3)
    (he : encode i = some [C + place x21 21])
    (hC : C = m * 2 ^ 26 + c0 * 2 ^ 0 + c24 * 2 ^ 24) (l0 : c0 < 2 ^ 21) (l24 : c24 < 2 ^ 2) (hr : m < 0x28 ∨ 0x3E
        < m)
    (h : ∀ v, v / 2 ^ 26 = m → fld v 21 3 = x21 → bits v 0 21 = c0 → bits v 24 2 = c24 →
      decodeDefined v 0 = some i) : Encoding.Statement i := by
  generalize hv : C + place x21 21 = v at he
  have q : v / 2 ^ 0 = c0 + 2 ^ 21 * (x21.toNat + 2 ^ 3 * (c24 + 2 ^ 2 * m)) := by
    simp only [place] at hv
    omega
  obtain ⟨e0, q⟩ := piece q l0
  obtain ⟨e21, q⟩ := piece q x21.isLt
  obtain ⟨e24, q⟩ := piece q l24
  exact encoding_of he q hr (h v q (fld_of_bits e21) e0 e24)

theorem layout_c8_f3_f5_c5_f5 {i : Instr} (C m c0 c16 : Nat) (x21 : BitVec 5) (x11 : BitVec 5) (x8 : BitVec 3)
    (he : encode i = some [C + place x21 21 + place x11 11 + place x8 8])
    (hC : C = m * 2 ^ 26 + c0 * 2 ^ 0 + c16 * 2 ^ 16) (l0 : c0 < 2 ^ 8) (l16 : c16 < 2 ^ 5) (hr : m < 0x28 ∨ 0x3E < m)
    (h : ∀ v, v / 2 ^ 26 = m → fld v 21 5 = x21 → fld v 11 5 = x11 → fld v 8 3 = x8 → bits v 0 8 = c0 → bits v 16 5
        = c16 →
      decodeDefined v 0 = some i) : Encoding.Statement i := by
  generalize hv : C + place x21 21 + place x11 11 + place x8 8 = v at he
  have q : v / 2 ^ 0 = c0 + 2 ^ 8 * (x8.toNat + 2 ^ 3 * (x11.toNat + 2 ^ 5 * (c16 + 2 ^ 5 * (x21.toNat + 2 ^ 5 *
      m)))) := by
    simp only [place] at hv
    omega
  obtain ⟨e0, q⟩ := piece q l0
  obtain ⟨e8, q⟩ := piece q x8.isLt
  obtain ⟨e11, q⟩ := piece q x11.isLt
  obtain ⟨e16, q⟩ := piece q l16
  obtain ⟨e21, q⟩ := piece q x21.isLt
  exact encoding_of he q hr (h v q (fld_of_bits e21) (fld_of_bits e11) (fld_of_bits e8) e0 e16)

theorem layout_c8_f3_c10_f5 {i : Instr} (C m c0 c11 : Nat) (x21 : BitVec 5) (x8 : BitVec 3)
    (he : encode i = some [C + place x21 21 + place x8 8])
    (hC : C = m * 2 ^ 26 + c0 * 2 ^ 0 + c11 * 2 ^ 11) (l0 : c0 < 2 ^ 8) (l11 : c11 < 2 ^ 10) (hr : m < 0x28 ∨ 0x3E
        < m)
    (h : ∀ v, v / 2 ^ 26 = m → fld v 21 5 = x21 → fld v 8 3 = x8 → bits v 0 8 = c0 → bits v 11 10 = c11 →
      decodeDefined v 0 = some i) : Encoding.Statement i := by
  generalize hv : C + place x21 21 + place x8 8 = v at he
  have q : v / 2 ^ 0 = c0 + 2 ^ 8 * (x8.toNat + 2 ^ 3 * (c11 + 2 ^ 10 * (x21.toNat + 2 ^ 5 * m))) := by
    simp only [place] at hv
    omega
  obtain ⟨e0, q⟩ := piece q l0
  obtain ⟨e8, q⟩ := piece q x8.isLt
  obtain ⟨e11, q⟩ := piece q l11
  obtain ⟨e21, q⟩ := piece q x21.isLt
  exact encoding_of he q hr (h v q (fld_of_bits e21) (fld_of_bits e8) e0 e11)

theorem layout_c1_f1_f1_f3_c4_f6_f5_c1_f4 {i : Instr} (C m c0 c6 c21 : Nat) (x22 : BitVec 4) (x16 : BitVec 5) (x10
    : BitVec 6) (x3 : BitVec 3) (x2 : BitVec 1) (x1 : BitVec 1)
    (he : encode i = some [C + place x22 22 + place x16 16 + place x10 10 + place x3 3 + place x2 2 + place x1 1])
    (hC : C = m * 2 ^ 26 + c0 * 2 ^ 0 + c6 * 2 ^ 6 + c21 * 2 ^ 21) (l0 : c0 < 2 ^ 1) (l6 : c6 < 2 ^ 4) (l21 : c21 <
        2 ^ 1) (hr : m < 0x28 ∨ 0x3E < m)
    (h : ∀ v, v / 2 ^ 26 = m → fld v 22 4 = x22 → fld v 16 5 = x16 → fld v 10 6 = x10 → fld v 3 3 = x3 → fld v 2 1
        = x2 → fld v 1 1 = x1 → bits v 0 1 = c0 → bits v 6 4 = c6 → bits v 21 1 = c21 →
      decodeDefined v 0 = some i) : Encoding.Statement i := by
  generalize hv : C + place x22 22 + place x16 16 + place x10 10 + place x3 3 + place x2 2 + place x1 1 = v at he
  have q : v / 2 ^ 0 = c0 + 2 ^ 1 * (x1.toNat + 2 ^ 1 * (x2.toNat + 2 ^ 1 * (x3.toNat + 2 ^ 3 * (c6 + 2 ^ 4 *
      (x10.toNat + 2 ^ 6 * (x16.toNat + 2 ^ 5 * (c21 + 2 ^ 1 * (x22.toNat + 2 ^ 4 * m)))))))) := by
    simp only [place] at hv
    omega
  obtain ⟨e0, q⟩ := piece q l0
  obtain ⟨e1, q⟩ := piece q x1.isLt
  obtain ⟨e2, q⟩ := piece q x2.isLt
  obtain ⟨e3, q⟩ := piece q x3.isLt
  obtain ⟨e6, q⟩ := piece q l6
  obtain ⟨e10, q⟩ := piece q x10.isLt
  obtain ⟨e16, q⟩ := piece q x16.isLt
  obtain ⟨e21, q⟩ := piece q l21
  obtain ⟨e22, q⟩ := piece q x22.isLt
  exact encoding_of he q hr (h v q (fld_of_bits e22) (fld_of_bits e16) (fld_of_bits e10) (fld_of_bits e3)
      (fld_of_bits e2) (fld_of_bits e1) e0 e6 e21)

theorem layout_f1_c7_f3_c5_f5_f5 {i : Instr} (C m c1 c11 : Nat) (x21 : BitVec 5) (x16 : BitVec 5) (x8 : BitVec 3)
    (x0 : BitVec 1)
    (he : encode i = some [C + place x21 21 + place x16 16 + place x8 8 + place x0 0])
    (hC : C = m * 2 ^ 26 + c1 * 2 ^ 1 + c11 * 2 ^ 11) (l1 : c1 < 2 ^ 7) (l11 : c11 < 2 ^ 5) (hr : m < 0x28 ∨ 0x3E < m)
    (h : ∀ v, v / 2 ^ 26 = m → fld v 21 5 = x21 → fld v 16 5 = x16 → fld v 8 3 = x8 → fld v 0 1 = x0 → bits v 1 7 =
        c1 → bits v 11 5 = c11 →
      decodeDefined v 0 = some i) : Encoding.Statement i := by
  generalize hv : C + place x21 21 + place x16 16 + place x8 8 + place x0 0 = v at he
  have q : v / 2 ^ 0 = x0.toNat + 2 ^ 1 * (c1 + 2 ^ 7 * (x8.toNat + 2 ^ 3 * (c11 + 2 ^ 5 * (x16.toNat + 2 ^ 5 *
      (x21.toNat + 2 ^ 5 * m))))) := by
    simp only [place] at hv
    omega
  obtain ⟨e0, q⟩ := piece q x0.isLt
  obtain ⟨e1, q⟩ := piece q l1
  obtain ⟨e8, q⟩ := piece q x8.isLt
  obtain ⟨e11, q⟩ := piece q l11
  obtain ⟨e16, q⟩ := piece q x16.isLt
  obtain ⟨e21, q⟩ := piece q x21.isLt
  exact encoding_of he q hr (h v q (fld_of_bits e21) (fld_of_bits e16) (fld_of_bits e8) (fld_of_bits e0) e1 e11)

theorem layout_f1_c7_f3_f5_f5_f5 {i : Instr} (C m c1 : Nat) (x21 : BitVec 5) (x16 : BitVec 5) (x11 : BitVec 5) (x8
    : BitVec 3) (x0 : BitVec 1)
    (he : encode i = some [C + place x21 21 + place x16 16 + place x11 11 + place x8 8 + place x0 0])
    (hC : C = m * 2 ^ 26 + c1 * 2 ^ 1) (l1 : c1 < 2 ^ 7) (hr : m < 0x28 ∨ 0x3E < m)
    (h : ∀ v, v / 2 ^ 26 = m → fld v 21 5 = x21 → fld v 16 5 = x16 → fld v 11 5 = x11 → fld v 8 3 = x8 → fld v 0 1
        = x0 → bits v 1 7 = c1 →
      decodeDefined v 0 = some i) : Encoding.Statement i := by
  generalize hv : C + place x21 21 + place x16 16 + place x11 11 + place x8 8 + place x0 0 = v at he
  have q : v / 2 ^ 0 = x0.toNat + 2 ^ 1 * (c1 + 2 ^ 7 * (x8.toNat + 2 ^ 3 * (x11.toNat + 2 ^ 5 * (x16.toNat + 2 ^ 5
      * (x21.toNat + 2 ^ 5 * m))))) := by
    simp only [place] at hv
    omega
  obtain ⟨e0, q⟩ := piece q x0.isLt
  obtain ⟨e1, q⟩ := piece q l1
  obtain ⟨e8, q⟩ := piece q x8.isLt
  obtain ⟨e11, q⟩ := piece q x11.isLt
  obtain ⟨e16, q⟩ := piece q x16.isLt
  obtain ⟨e21, q⟩ := piece q x21.isLt
  exact encoding_of he q hr (h v q (fld_of_bits e21) (fld_of_bits e16) (fld_of_bits e11) (fld_of_bits e8)
      (fld_of_bits e0) e1)

theorem layout_f1_c5_f1_c1_f3_f5_f5_f5 {i : Instr} (C m c1 c7 : Nat) (x21 : BitVec 5) (x16 : BitVec 5) (x11 :
    BitVec 5) (x8 : BitVec 3) (x6 : BitVec 1) (x0 : BitVec 1)
    (he : encode i = some [C + place x21 21 + place x16 16 + place x11 11 + place x8 8 + place x6 6 + place x0 0])
    (hC : C = m * 2 ^ 26 + c1 * 2 ^ 1 + c7 * 2 ^ 7) (l1 : c1 < 2 ^ 5) (l7 : c7 < 2 ^ 1) (hr : m < 0x28 ∨ 0x3E < m)
    (h : ∀ v, v / 2 ^ 26 = m → fld v 21 5 = x21 → fld v 16 5 = x16 → fld v 11 5 = x11 → fld v 8 3 = x8 → fld v 6 1
        = x6 → fld v 0 1 = x0 → bits v 1 5 = c1 → bits v 7 1 = c7 →
      decodeDefined v 0 = some i) : Encoding.Statement i := by
  generalize hv : C + place x21 21 + place x16 16 + place x11 11 + place x8 8 + place x6 6 + place x0 0 = v at he
  have q : v / 2 ^ 0 = x0.toNat + 2 ^ 1 * (c1 + 2 ^ 5 * (x6.toNat + 2 ^ 1 * (c7 + 2 ^ 1 * (x8.toNat + 2 ^ 3 *
      (x11.toNat + 2 ^ 5 * (x16.toNat + 2 ^ 5 * (x21.toNat + 2 ^ 5 * m))))))) := by
    simp only [place] at hv
    omega
  obtain ⟨e0, q⟩ := piece q x0.isLt
  obtain ⟨e1, q⟩ := piece q l1
  obtain ⟨e6, q⟩ := piece q x6.isLt
  obtain ⟨e7, q⟩ := piece q l7
  obtain ⟨e8, q⟩ := piece q x8.isLt
  obtain ⟨e11, q⟩ := piece q x11.isLt
  obtain ⟨e16, q⟩ := piece q x16.isLt
  obtain ⟨e21, q⟩ := piece q x21.isLt
  exact encoding_of he q hr (h v q (fld_of_bits e21) (fld_of_bits e16) (fld_of_bits e11) (fld_of_bits e8)
      (fld_of_bits e6) (fld_of_bits e0) e1 e7)

theorem layout_f3_c5_f3_c5_f5_f5 {i : Instr} (C m c3 c11 : Nat) (x21 : BitVec 5) (x16 : BitVec 5) (x8 : BitVec 3)
    (x0 : BitVec 3)
    (he : encode i = some [C + place x21 21 + place x16 16 + place x8 8 + place x0 0])
    (hC : C = m * 2 ^ 26 + c3 * 2 ^ 3 + c11 * 2 ^ 11) (l3 : c3 < 2 ^ 5) (l11 : c11 < 2 ^ 5) (hr : m < 0x28 ∨ 0x3E < m)
    (h : ∀ v, v / 2 ^ 26 = m → fld v 21 5 = x21 → fld v 16 5 = x16 → fld v 8 3 = x8 → fld v 0 3 = x0 → bits v 3 5 =
        c3 → bits v 11 5 = c11 →
      decodeDefined v 0 = some i) : Encoding.Statement i := by
  generalize hv : C + place x21 21 + place x16 16 + place x8 8 + place x0 0 = v at he
  have q : v / 2 ^ 0 = x0.toNat + 2 ^ 3 * (c3 + 2 ^ 5 * (x8.toNat + 2 ^ 3 * (c11 + 2 ^ 5 * (x16.toNat + 2 ^ 5 *
      (x21.toNat + 2 ^ 5 * m))))) := by
    simp only [place] at hv
    omega
  obtain ⟨e0, q⟩ := piece q x0.isLt
  obtain ⟨e3, q⟩ := piece q l3
  obtain ⟨e8, q⟩ := piece q x8.isLt
  obtain ⟨e11, q⟩ := piece q l11
  obtain ⟨e16, q⟩ := piece q x16.isLt
  obtain ⟨e21, q⟩ := piece q x21.isLt
  exact encoding_of he q hr (h v q (fld_of_bits e21) (fld_of_bits e16) (fld_of_bits e8) (fld_of_bits e0) e3 e11)

theorem layout_f3_c4_f1_f3_c5_f5_f5 {i : Instr} (C m c3 c11 : Nat) (x21 : BitVec 5) (x16 : BitVec 5) (x8 : BitVec
    3) (x7 : BitVec 1) (x0 : BitVec 3)
    (he : encode i = some [C + place x21 21 + place x16 16 + place x8 8 + place x7 7 + place x0 0])
    (hC : C = m * 2 ^ 26 + c3 * 2 ^ 3 + c11 * 2 ^ 11) (l3 : c3 < 2 ^ 4) (l11 : c11 < 2 ^ 5) (hr : m < 0x28 ∨ 0x3E < m)
    (h : ∀ v, v / 2 ^ 26 = m → fld v 21 5 = x21 → fld v 16 5 = x16 → fld v 8 3 = x8 → fld v 7 1 = x7 → fld v 0 3 =
        x0 → bits v 3 4 = c3 → bits v 11 5 = c11 →
      decodeDefined v 0 = some i) : Encoding.Statement i := by
  generalize hv : C + place x21 21 + place x16 16 + place x8 8 + place x7 7 + place x0 0 = v at he
  have q : v / 2 ^ 0 = x0.toNat + 2 ^ 3 * (c3 + 2 ^ 4 * (x7.toNat + 2 ^ 1 * (x8.toNat + 2 ^ 3 * (c11 + 2 ^ 5 *
      (x16.toNat + 2 ^ 5 * (x21.toNat + 2 ^ 5 * m)))))) := by
    simp only [place] at hv
    omega
  obtain ⟨e0, q⟩ := piece q x0.isLt
  obtain ⟨e3, q⟩ := piece q l3
  obtain ⟨e7, q⟩ := piece q x7.isLt
  obtain ⟨e8, q⟩ := piece q x8.isLt
  obtain ⟨e11, q⟩ := piece q l11
  obtain ⟨e16, q⟩ := piece q x16.isLt
  obtain ⟨e21, q⟩ := piece q x21.isLt
  exact encoding_of he q hr (h v q (fld_of_bits e21) (fld_of_bits e16) (fld_of_bits e8) (fld_of_bits e7)
      (fld_of_bits e0) e3 e11)

theorem layout_f3_c3_f1_c1_f3_f5_f5_f5 {i : Instr} (C m c3 c7 : Nat) (x21 : BitVec 5) (x16 : BitVec 5) (x11 :
    BitVec 5) (x8 : BitVec 3) (x6 : BitVec 1) (x0 : BitVec 3)
    (he : encode i = some [C + place x21 21 + place x16 16 + place x11 11 + place x8 8 + place x6 6 + place x0 0])
    (hC : C = m * 2 ^ 26 + c3 * 2 ^ 3 + c7 * 2 ^ 7) (l3 : c3 < 2 ^ 3) (l7 : c7 < 2 ^ 1) (hr : m < 0x28 ∨ 0x3E < m)
    (h : ∀ v, v / 2 ^ 26 = m → fld v 21 5 = x21 → fld v 16 5 = x16 → fld v 11 5 = x11 → fld v 8 3 = x8 → fld v 6 1
        = x6 → fld v 0 3 = x0 → bits v 3 3 = c3 → bits v 7 1 = c7 →
      decodeDefined v 0 = some i) : Encoding.Statement i := by
  generalize hv : C + place x21 21 + place x16 16 + place x11 11 + place x8 8 + place x6 6 + place x0 0 = v at he
  have q : v / 2 ^ 0 = x0.toNat + 2 ^ 3 * (c3 + 2 ^ 3 * (x6.toNat + 2 ^ 1 * (c7 + 2 ^ 1 * (x8.toNat + 2 ^ 3 *
      (x11.toNat + 2 ^ 5 * (x16.toNat + 2 ^ 5 * (x21.toNat + 2 ^ 5 * m))))))) := by
    simp only [place] at hv
    omega
  obtain ⟨e0, q⟩ := piece q x0.isLt
  obtain ⟨e3, q⟩ := piece q l3
  obtain ⟨e6, q⟩ := piece q x6.isLt
  obtain ⟨e7, q⟩ := piece q l7
  obtain ⟨e8, q⟩ := piece q x8.isLt
  obtain ⟨e11, q⟩ := piece q x11.isLt
  obtain ⟨e16, q⟩ := piece q x16.isLt
  obtain ⟨e21, q⟩ := piece q x21.isLt
  exact encoding_of he q hr (h v q (fld_of_bits e21) (fld_of_bits e16) (fld_of_bits e11) (fld_of_bits e8)
      (fld_of_bits e6) (fld_of_bits e0) e3 e7)

theorem layout_c8_f3_f5_f5_c5 {i : Instr} (C m c0 c21 : Nat) (x16 : BitVec 5) (x11 : BitVec 5) (x8 : BitVec 3)
    (he : encode i = some [C + place x16 16 + place x11 11 + place x8 8])
    (hC : C = m * 2 ^ 26 + c0 * 2 ^ 0 + c21 * 2 ^ 21) (l0 : c0 < 2 ^ 8) (l21 : c21 < 2 ^ 5) (hr : m < 0x28 ∨ 0x3E < m)
    (h : ∀ v, v / 2 ^ 26 = m → fld v 16 5 = x16 → fld v 11 5 = x11 → fld v 8 3 = x8 → bits v 0 8 = c0 → bits v 21 5
        = c21 →
      decodeDefined v 0 = some i) : Encoding.Statement i := by
  generalize hv : C + place x16 16 + place x11 11 + place x8 8 = v at he
  have q : v / 2 ^ 0 = c0 + 2 ^ 8 * (x8.toNat + 2 ^ 3 * (x11.toNat + 2 ^ 5 * (x16.toNat + 2 ^ 5 * (c21 + 2 ^ 5 *
      m)))) := by
    simp only [place] at hv
    omega
  obtain ⟨e0, q⟩ := piece q l0
  obtain ⟨e8, q⟩ := piece q x8.isLt
  obtain ⟨e11, q⟩ := piece q x11.isLt
  obtain ⟨e16, q⟩ := piece q x16.isLt
  obtain ⟨e21, q⟩ := piece q l21
  exact encoding_of he q hr (h v q (fld_of_bits e16) (fld_of_bits e11) (fld_of_bits e8) e0 e21)

theorem layout_c7_f1_f3_c5_f5_c5 {i : Instr} (C m c0 c11 c21 : Nat) (x16 : BitVec 5) (x8 : BitVec 3) (x7 : BitVec 1)
    (he : encode i = some [C + place x16 16 + place x8 8 + place x7 7])
    (hC : C = m * 2 ^ 26 + c0 * 2 ^ 0 + c11 * 2 ^ 11 + c21 * 2 ^ 21) (l0 : c0 < 2 ^ 7) (l11 : c11 < 2 ^ 5) (l21 :
        c21 < 2 ^ 5) (hr : m < 0x28 ∨ 0x3E < m)
    (h : ∀ v, v / 2 ^ 26 = m → fld v 16 5 = x16 → fld v 8 3 = x8 → fld v 7 1 = x7 → bits v 0 7 = c0 → bits v 11 5 =
        c11 → bits v 21 5 = c21 →
      decodeDefined v 0 = some i) : Encoding.Statement i := by
  generalize hv : C + place x16 16 + place x8 8 + place x7 7 = v at he
  have q : v / 2 ^ 0 = c0 + 2 ^ 7 * (x7.toNat + 2 ^ 1 * (x8.toNat + 2 ^ 3 * (c11 + 2 ^ 5 * (x16.toNat + 2 ^ 5 *
      (c21 + 2 ^ 5 * m))))) := by
    simp only [place] at hv
    omega
  obtain ⟨e0, q⟩ := piece q l0
  obtain ⟨e7, q⟩ := piece q x7.isLt
  obtain ⟨e8, q⟩ := piece q x8.isLt
  obtain ⟨e11, q⟩ := piece q l11
  obtain ⟨e16, q⟩ := piece q x16.isLt
  obtain ⟨e21, q⟩ := piece q l21
  exact encoding_of he q hr (h v q (fld_of_bits e16) (fld_of_bits e8) (fld_of_bits e7) e0 e11 e21)

theorem layout_c8_f3_f5_f5_f3_c2 {i : Instr} (C m c0 c24 : Nat) (x21 : BitVec 3) (x16 : BitVec 5) (x11 : BitVec 5)
    (x8 : BitVec 3)
    (he : encode i = some [C + place x21 21 + place x16 16 + place x11 11 + place x8 8])
    (hC : C = m * 2 ^ 26 + c0 * 2 ^ 0 + c24 * 2 ^ 24) (l0 : c0 < 2 ^ 8) (l24 : c24 < 2 ^ 2) (hr : m < 0x28 ∨ 0x3E < m)
    (h : ∀ v, v / 2 ^ 26 = m → fld v 21 3 = x21 → fld v 16 5 = x16 → fld v 11 5 = x11 → fld v 8 3 = x8 → bits v 0 8
        = c0 → bits v 24 2 = c24 →
      decodeDefined v 0 = some i) : Encoding.Statement i := by
  generalize hv : C + place x21 21 + place x16 16 + place x11 11 + place x8 8 = v at he
  have q : v / 2 ^ 0 = c0 + 2 ^ 8 * (x8.toNat + 2 ^ 3 * (x11.toNat + 2 ^ 5 * (x16.toNat + 2 ^ 5 * (x21.toNat + 2 ^
      3 * (c24 + 2 ^ 2 * m))))) := by
    simp only [place] at hv
    omega
  obtain ⟨e0, q⟩ := piece q l0
  obtain ⟨e8, q⟩ := piece q x8.isLt
  obtain ⟨e11, q⟩ := piece q x11.isLt
  obtain ⟨e16, q⟩ := piece q x16.isLt
  obtain ⟨e21, q⟩ := piece q x21.isLt
  obtain ⟨e24, q⟩ := piece q l24
  exact encoding_of he q hr (h v q (fld_of_bits e21) (fld_of_bits e16) (fld_of_bits e11) (fld_of_bits e8) e0 e24)

theorem layout_c5_f3_f3_f5_f5_f3_c2 {i : Instr} (C m c0 c24 : Nat) (x21 : BitVec 3) (x16 : BitVec 5) (x11 : BitVec
    5) (x8 : BitVec 3) (x5 : BitVec 3)
    (he : encode i = some [C + place x21 21 + place x16 16 + place x11 11 + place x8 8 + place x5 5])
    (hC : C = m * 2 ^ 26 + c0 * 2 ^ 0 + c24 * 2 ^ 24) (l0 : c0 < 2 ^ 5) (l24 : c24 < 2 ^ 2) (hr : m < 0x28 ∨ 0x3E < m)
    (h : ∀ v, v / 2 ^ 26 = m → fld v 21 3 = x21 → fld v 16 5 = x16 → fld v 11 5 = x11 → fld v 8 3 = x8 → fld v 5 3
        = x5 → bits v 0 5 = c0 → bits v 24 2 = c24 →
      decodeDefined v 0 = some i) : Encoding.Statement i := by
  generalize hv : C + place x21 21 + place x16 16 + place x11 11 + place x8 8 + place x5 5 = v at he
  have q : v / 2 ^ 0 = c0 + 2 ^ 5 * (x5.toNat + 2 ^ 3 * (x8.toNat + 2 ^ 3 * (x11.toNat + 2 ^ 5 * (x16.toNat + 2 ^ 5
      * (x21.toNat + 2 ^ 3 * (c24 + 2 ^ 2 * m)))))) := by
    simp only [place] at hv
    omega
  obtain ⟨e0, q⟩ := piece q l0
  obtain ⟨e5, q⟩ := piece q x5.isLt
  obtain ⟨e8, q⟩ := piece q x8.isLt
  obtain ⟨e11, q⟩ := piece q x11.isLt
  obtain ⟨e16, q⟩ := piece q x16.isLt
  obtain ⟨e21, q⟩ := piece q x21.isLt
  obtain ⟨e24, q⟩ := piece q l24
  exact encoding_of he q hr (h v q (fld_of_bits e21) (fld_of_bits e16) (fld_of_bits e11) (fld_of_bits e8)
      (fld_of_bits e5) e0 e24)

theorem layout_c5_f3_f3_f5_f5_c1_f2_c2 {i : Instr} (C m c0 c21 c24 : Nat) (x22 : BitVec 2) (x16 : BitVec 5) (x11 :
    BitVec 5) (x8 : BitVec 3) (x5 : BitVec 3)
    (he : encode i = some [C + place x22 22 + place x16 16 + place x11 11 + place x8 8 + place x5 5])
    (hC : C = m * 2 ^ 26 + c0 * 2 ^ 0 + c21 * 2 ^ 21 + c24 * 2 ^ 24) (l0 : c0 < 2 ^ 5) (l21 : c21 < 2 ^ 1) (l24 :
        c24 < 2 ^ 2) (hr : m < 0x28 ∨ 0x3E < m)
    (h : ∀ v, v / 2 ^ 26 = m → fld v 22 2 = x22 → fld v 16 5 = x16 → fld v 11 5 = x11 → fld v 8 3 = x8 → fld v 5 3
        = x5 → bits v 0 5 = c0 → bits v 21 1 = c21 → bits v 24 2 = c24 →
      decodeDefined v 0 = some i) : Encoding.Statement i := by
  generalize hv : C + place x22 22 + place x16 16 + place x11 11 + place x8 8 + place x5 5 = v at he
  have q : v / 2 ^ 0 = c0 + 2 ^ 5 * (x5.toNat + 2 ^ 3 * (x8.toNat + 2 ^ 3 * (x11.toNat + 2 ^ 5 * (x16.toNat + 2 ^ 5
      * (c21 + 2 ^ 1 * (x22.toNat + 2 ^ 2 * (c24 + 2 ^ 2 * m))))))) := by
    simp only [place] at hv
    omega
  obtain ⟨e0, q⟩ := piece q l0
  obtain ⟨e5, q⟩ := piece q x5.isLt
  obtain ⟨e8, q⟩ := piece q x8.isLt
  obtain ⟨e11, q⟩ := piece q x11.isLt
  obtain ⟨e16, q⟩ := piece q x16.isLt
  obtain ⟨e21, q⟩ := piece q l21
  obtain ⟨e22, q⟩ := piece q x22.isLt
  obtain ⟨e24, q⟩ := piece q l24
  exact encoding_of he q hr (h v q (fld_of_bits e22) (fld_of_bits e16) (fld_of_bits e11) (fld_of_bits e8)
      (fld_of_bits e5) e0 e21 e24)

theorem layout_c8_f3_c15 {i : Instr} (C m c0 c11 : Nat) (x8 : BitVec 3)
    (he : encode i = some [C + place x8 8])
    (hC : C = m * 2 ^ 26 + c0 * 2 ^ 0 + c11 * 2 ^ 11) (l0 : c0 < 2 ^ 8) (l11 : c11 < 2 ^ 15) (hr : m < 0x28 ∨ 0x3E
        < m)
    (h : ∀ v, v / 2 ^ 26 = m → fld v 8 3 = x8 → bits v 0 8 = c0 → bits v 11 15 = c11 →
      decodeDefined v 0 = some i) : Encoding.Statement i := by
  generalize hv : C + place x8 8 = v at he
  have q : v / 2 ^ 0 = c0 + 2 ^ 8 * (x8.toNat + 2 ^ 3 * (c11 + 2 ^ 15 * m)) := by
    simp only [place] at hv
    omega
  obtain ⟨e0, q⟩ := piece q l0
  obtain ⟨e8, q⟩ := piece q x8.isLt
  obtain ⟨e11, q⟩ := piece q l11
  exact encoding_of he q hr (h v q (fld_of_bits e8) e0 e11)

theorem layout_c16_f5_c5 {i : Instr} (C m c0 c21 : Nat) (x16 : BitVec 5)
    (he : encode i = some [C + place x16 16])
    (hC : C = m * 2 ^ 26 + c0 * 2 ^ 0 + c21 * 2 ^ 21) (l0 : c0 < 2 ^ 16) (l21 : c21 < 2 ^ 5) (hr : m < 0x28 ∨ 0x3E
        < m)
    (h : ∀ v, v / 2 ^ 26 = m → fld v 16 5 = x16 → bits v 0 16 = c0 → bits v 21 5 = c21 →
      decodeDefined v 0 = some i) : Encoding.Statement i := by
  generalize hv : C + place x16 16 = v at he
  have q : v / 2 ^ 0 = c0 + 2 ^ 16 * (x16.toNat + 2 ^ 5 * (c21 + 2 ^ 5 * m)) := by
    simp only [place] at hv
    omega
  obtain ⟨e0, q⟩ := piece q l0
  obtain ⟨e16, q⟩ := piece q x16.isLt
  obtain ⟨e21, q⟩ := piece q l21
  exact encoding_of he q hr (h v q (fld_of_bits e16) e0 e21)

theorem layout_c8_f3_f5_f5_f5 {i : Instr} (C m c0 : Nat) (x21 : BitVec 5) (x16 : BitVec 5) (x11 : BitVec 5) (x8 :
    BitVec 3)
    (he : encode i = some [C + place x21 21 + place x16 16 + place x11 11 + place x8 8])
    (hC : C = m * 2 ^ 26 + c0 * 2 ^ 0) (l0 : c0 < 2 ^ 8) (hr : m < 0x28 ∨ 0x3E < m)
    (h : ∀ v, v / 2 ^ 26 = m → fld v 21 5 = x21 → fld v 16 5 = x16 → fld v 11 5 = x11 → fld v 8 3 = x8 → bits v 0 8
        = c0 →
      decodeDefined v 0 = some i) : Encoding.Statement i := by
  generalize hv : C + place x21 21 + place x16 16 + place x11 11 + place x8 8 = v at he
  have q : v / 2 ^ 0 = c0 + 2 ^ 8 * (x8.toNat + 2 ^ 3 * (x11.toNat + 2 ^ 5 * (x16.toNat + 2 ^ 5 * (x21.toNat + 2 ^
      5 * m)))) := by
    simp only [place] at hv
    omega
  obtain ⟨e0, q⟩ := piece q l0
  obtain ⟨e8, q⟩ := piece q x8.isLt
  obtain ⟨e11, q⟩ := piece q x11.isLt
  obtain ⟨e16, q⟩ := piece q x16.isLt
  obtain ⟨e21, q⟩ := piece q x21.isLt
  exact encoding_of he q hr (h v q (fld_of_bits e21) (fld_of_bits e16) (fld_of_bits e11) (fld_of_bits e8) e0)

theorem layout_c5_f3_f2_c1_f5_f5_f5 {i : Instr} (C m c0 c10 : Nat) (x21 : BitVec 5) (x16 : BitVec 5) (x11 : BitVec
    5) (x8 : BitVec 2) (x5 : BitVec 3)
    (he : encode i = some [C + place x21 21 + place x16 16 + place x11 11 + place x8 8 + place x5 5])
    (hC : C = m * 2 ^ 26 + c0 * 2 ^ 0 + c10 * 2 ^ 10) (l0 : c0 < 2 ^ 5) (l10 : c10 < 2 ^ 1) (hr : m < 0x28 ∨ 0x3E < m)
    (h : ∀ v, v / 2 ^ 26 = m → fld v 21 5 = x21 → fld v 16 5 = x16 → fld v 11 5 = x11 → fld v 8 2 = x8 → fld v 5 3
        = x5 → bits v 0 5 = c0 → bits v 10 1 = c10 →
      decodeDefined v 0 = some i) : Encoding.Statement i := by
  generalize hv : C + place x21 21 + place x16 16 + place x11 11 + place x8 8 + place x5 5 = v at he
  have q : v / 2 ^ 0 = c0 + 2 ^ 5 * (x5.toNat + 2 ^ 3 * (x8.toNat + 2 ^ 2 * (c10 + 2 ^ 1 * (x11.toNat + 2 ^ 5 *
      (x16.toNat + 2 ^ 5 * (x21.toNat + 2 ^ 5 * m)))))) := by
    simp only [place] at hv
    omega
  obtain ⟨e0, q⟩ := piece q l0
  obtain ⟨e5, q⟩ := piece q x5.isLt
  obtain ⟨e8, q⟩ := piece q x8.isLt
  obtain ⟨e10, q⟩ := piece q l10
  obtain ⟨e11, q⟩ := piece q x11.isLt
  obtain ⟨e16, q⟩ := piece q x16.isLt
  obtain ⟨e21, q⟩ := piece q x21.isLt
  exact encoding_of he q hr (h v q (fld_of_bits e21) (fld_of_bits e16) (fld_of_bits e11) (fld_of_bits e8)
      (fld_of_bits e5) e0 e10)

theorem layout_c26 {i : Instr} (C m c0 : Nat)
    (he : encode i = some [C])
    (hC : C = m * 2 ^ 26 + c0 * 2 ^ 0) (l0 : c0 < 2 ^ 26) (hr : m < 0x28 ∨ 0x3E < m)
    (h : ∀ v, v / 2 ^ 26 = m → bits v 0 26 = c0 →
      decodeDefined v 0 = some i) : Encoding.Statement i := by
  generalize hv : C = v at he
  have q : v / 2 ^ 0 = c0 + 2 ^ 26 * m := by
    omega
  obtain ⟨e0, q⟩ := piece q l0
  exact encoding_of he q hr (h v q e0)

/-! ## The instructions -/

theorem Encoding.trap (c : BitVec 6) :
    Encoding.Statement (.trap c) := by
  refine layout_c5_f6_c15 0x0 0 0 0 c rfl (by decide) (by decide) (by decide) (by decide) ?_
  intro v hM fc e0 e11
  rw [major_00 hM]
  simp (decide := true) only [decode00, fc, e11, e0, reduceIte,
    Nat.reduceEqDiff, and_self, and_true, true_and, and_false, false_and]

theorem Encoding.fence (m : BitVec 10) (s : BitVec 3) :
    Encoding.Statement (.fence m s) := by
  refine layout_c5_f3_c3_f10_c5 0x3 0 3 0 0 m s rfl (by decide) (by decide) (by decide) (by decide) (by decide) ?_
  intro v hM fm fs e0 e8 e21
  have n0 : bits v 0 26 ≠ 1 := fun h =>
    absurd ((bits_within h 0 5 (by decide)).symm.trans e0) (by decide)
  have n1 : bits v 0 26 ≠ 2 := fun h =>
    absurd ((bits_within h 0 5 (by decide)).symm.trans e0) (by decide)
  rw [major_00 hM]
  simp (decide := true) only [decode00, fm, fs, e0, e21, e8, n0, n1, reduceIte,
    Nat.reduceEqDiff, and_self, and_true, true_and, and_false, false_and]

theorem Encoding.sbar (m : BitVec 10) :
    Encoding.Statement (.sbar m) := by
  refine layout_c11_f10_c5 0x4 0 4 0 m rfl (by decide) (by decide) (by decide) (by decide) ?_
  intro v hM fm e0 e21
  have t0_5 : bits v 0 5 = 4 := bits_within e0 0 5 (by decide)
  have n0 : bits v 0 26 ≠ 1 := fun h =>
    absurd ((bits_within h 0 11 (by decide)).symm.trans e0) (by decide)
  have n1 : bits v 0 26 ≠ 2 := fun h =>
    absurd ((bits_within h 0 11 (by decide)).symm.trans e0) (by decide)
  rw [major_00 hM]
  simp (decide := true) only [decode00, fm, t0_5, e0, e21, n0, n1, reduceIte,
    Nat.reduceEqDiff, and_self, and_true, true_and, and_false, false_and]

theorem Encoding.gets (d : BitVec 5) (n : BitVec 5) :
    Encoding.Statement (.gets d n) := by
  refine layout_c11_f5_c5_f5 0x5 0 5 0 d n rfl (by decide) (by decide) (by decide) (by decide) ?_
  intro v hM fd fn e0 e16
  have t0_5 : bits v 0 5 = 5 := bits_within e0 0 5 (by decide)
  have n0 : bits v 0 26 ≠ 1 := fun h =>
    absurd ((bits_within h 0 11 (by decide)).symm.trans e0) (by decide)
  have n1 : bits v 0 26 ≠ 2 := fun h =>
    absurd ((bits_within h 0 11 (by decide)).symm.trans e0) (by decide)
  rw [major_00 hM]
  simp (decide := true) only [decode00, fd, fn, t0_5, e0, e16, n0, n1, reduceIte,
    Nat.reduceEqDiff, and_self, and_true, true_and, and_false, false_and]

theorem Encoding.puts (a : BitVec 5) (n : BitVec 5) :
    Encoding.Statement (.puts a n) := by
  refine layout_c11_f5_f5_c5 0x6 0 6 0 a n rfl (by decide) (by decide) (by decide) (by decide) ?_
  intro v hM fa fn e0 e21
  have t0_5 : bits v 0 5 = 6 := bits_within e0 0 5 (by decide)
  have n0 : bits v 0 26 ≠ 1 := fun h =>
    absurd ((bits_within h 0 11 (by decide)).symm.trans e0) (by decide)
  have n1 : bits v 0 26 ≠ 2 := fun h =>
    absurd ((bits_within h 0 11 (by decide)).symm.trans e0) (by decide)
  rw [major_00 hM]
  simp (decide := true) only [decode00, fa, fn, t0_5, e0, e21, n0, n1, reduceIte,
    Nat.reduceEqDiff, and_self, and_true, true_and, and_false, false_and]

theorem Encoding.seed (d : BitVec 5) :
    Encoding.Statement (.seed d) := by
  refine layout_c21_f5 0xb 0 11 d rfl (by decide) (by decide) (by decide) ?_
  intro v hM fd e0
  have t0_5 : bits v 0 5 = 11 := bits_within e0 0 5 (by decide)
  have t0_11 : bits v 0 11 = 11 := bits_within e0 0 11 (by decide)
  have n0 : bits v 0 26 ≠ 1 := fun h =>
    absurd ((bits_within h 0 21 (by decide)).symm.trans e0) (by decide)
  have n1 : bits v 0 26 ≠ 2 := fun h =>
    absurd ((bits_within h 0 21 (by decide)).symm.trans e0) (by decide)
  have n2 : bits v 0 26 ≠ 7 := fun h =>
    absurd ((bits_within h 0 21 (by decide)).symm.trans e0) (by decide)
  have n3 : bits v 0 26 ≠ 8 := fun h =>
    absurd ((bits_within h 0 21 (by decide)).symm.trans e0) (by decide)
  have n4 : bits v 0 26 ≠ 9 := fun h =>
    absurd ((bits_within h 0 21 (by decide)).symm.trans e0) (by decide)
  have n5 : bits v 0 26 ≠ 10 := fun h =>
    absurd ((bits_within h 0 21 (by decide)).symm.trans e0) (by decide)
  rw [major_00 hM]
  simp (decide := true) only [decode00, fd, t0_5, e0, t0_11, n0, n1, n2, n3, n4, n5, reduceIte,
    Nat.reduceEqDiff, and_self, and_true, true_and, and_false, false_and]

theorem Encoding.undefinedOpcode (w : BitVec 32) :
    Encoding.Statement (.undefinedOpcode w) := by
  intro hw _ ws he
  simp only [Instr.wf, decide_eq_true_eq] at hw
  cases he
  simp only [decodeWords, decodeWord, hw, and_self, if_true]
  rw [fld_of_bits (x := w) (w := w.toNat) (lo := 0) (by have := w.isLt; unfold bits; omega)]

theorem Encoding.add (d : BitVec 5) (a : BitVec 5) (b : BitVec 5) :
    Encoding.Statement (.add d a b) := by
  refine layout_c11_f5_f5_f5 0x4000000 1 0 d a b rfl (by decide) (by decide) (by decide) ?_
  intro v hM fd fa fb e0
  rw [major_01 hM]
  simp (decide := true) only [decode01, fd, fa, fb, e0, reduceIte,
    Nat.reduceEqDiff, and_self, and_true, true_and, and_false, false_and]

theorem Encoding.sub (d : BitVec 5) (a : BitVec 5) (b : BitVec 5) :
    Encoding.Statement (.sub d a b) := by
  refine layout_c11_f5_f5_f5 0x4000001 1 1 d a b rfl (by decide) (by decide) (by decide) ?_
  intro v hM fd fa fb e0
  rw [major_01 hM]
  simp (decide := true) only [decode01, fd, fa, fb, e0, reduceIte,
    Nat.reduceEqDiff, and_self, and_true, true_and, and_false, false_and]

theorem Encoding.mul (d : BitVec 5) (a : BitVec 5) (b : BitVec 5) :
    Encoding.Statement (.mul d a b) := by
  refine layout_c11_f5_f5_f5 0x4000002 1 2 d a b rfl (by decide) (by decide) (by decide) ?_
  intro v hM fd fa fb e0
  rw [major_01 hM]
  simp (decide := true) only [decode01, fd, fa, fb, e0, reduceIte,
    Nat.reduceEqDiff, and_self, and_true, true_and, and_false, false_and]

theorem Encoding.mulh (d : BitVec 5) (a : BitVec 5) (b : BitVec 5) :
    Encoding.Statement (.mulh d a b) := by
  refine layout_c11_f5_f5_f5 0x4000003 1 3 d a b rfl (by decide) (by decide) (by decide) ?_
  intro v hM fd fa fb e0
  rw [major_01 hM]
  simp (decide := true) only [decode01, fd, fa, fb, e0, reduceIte,
    Nat.reduceEqDiff, and_self, and_true, true_and, and_false, false_and]

theorem Encoding.div (d : BitVec 5) (a : BitVec 5) (b : BitVec 5) :
    Encoding.Statement (.div d a b) := by
  refine layout_c11_f5_f5_f5 0x4000004 1 4 d a b rfl (by decide) (by decide) (by decide) ?_
  intro v hM fd fa fb e0
  rw [major_01 hM]
  simp (decide := true) only [decode01, fd, fa, fb, e0, reduceIte,
    Nat.reduceEqDiff, and_self, and_true, true_and, and_false, false_and]

theorem Encoding.divn (d : BitVec 5) (a : BitVec 5) (b : BitVec 5) :
    Encoding.Statement (.divn d a b) := by
  refine layout_c11_f5_f5_f5 0x4000005 1 5 d a b rfl (by decide) (by decide) (by decide) ?_
  intro v hM fd fa fb e0
  rw [major_01 hM]
  simp (decide := true) only [decode01, fd, fa, fb, e0, reduceIte,
    Nat.reduceEqDiff, and_self, and_true, true_and, and_false, false_and]

theorem Encoding.rem (d : BitVec 5) (a : BitVec 5) (b : BitVec 5) :
    Encoding.Statement (.rem d a b) := by
  refine layout_c11_f5_f5_f5 0x4000006 1 6 d a b rfl (by decide) (by decide) (by decide) ?_
  intro v hM fd fa fb e0
  rw [major_01 hM]
  simp (decide := true) only [decode01, fd, fa, fb, e0, reduceIte,
    Nat.reduceEqDiff, and_self, and_true, true_and, and_false, false_and]

theorem Encoding.remn (d : BitVec 5) (a : BitVec 5) (b : BitVec 5) :
    Encoding.Statement (.remn d a b) := by
  refine layout_c11_f5_f5_f5 0x4000007 1 7 d a b rfl (by decide) (by decide) (by decide) ?_
  intro v hM fd fa fb e0
  rw [major_01 hM]
  simp (decide := true) only [decode01, fd, fa, fb, e0, reduceIte,
    Nat.reduceEqDiff, and_self, and_true, true_and, and_false, false_and]

theorem Encoding.and (d : BitVec 5) (a : BitVec 5) (b : BitVec 5) :
    Encoding.Statement (.and d a b) := by
  refine layout_c11_f5_f5_f5 0x4000008 1 8 d a b rfl (by decide) (by decide) (by decide) ?_
  intro v hM fd fa fb e0
  rw [major_01 hM]
  simp (decide := true) only [decode01, fd, fa, fb, e0, reduceIte,
    Nat.reduceEqDiff, and_self, and_true, true_and, and_false, false_and]

theorem Encoding.or (d : BitVec 5) (a : BitVec 5) (b : BitVec 5) :
    Encoding.Statement (.or d a b) := by
  refine layout_c11_f5_f5_f5 0x4000009 1 9 d a b rfl (by decide) (by decide) (by decide) ?_
  intro v hM fd fa fb e0
  rw [major_01 hM]
  simp (decide := true) only [decode01, fd, fa, fb, e0, reduceIte,
    Nat.reduceEqDiff, and_self, and_true, true_and, and_false, false_and]

theorem Encoding.xor (d : BitVec 5) (a : BitVec 5) (b : BitVec 5) :
    Encoding.Statement (.xor d a b) := by
  refine layout_c11_f5_f5_f5 0x400000a 1 10 d a b rfl (by decide) (by decide) (by decide) ?_
  intro v hM fd fa fb e0
  rw [major_01 hM]
  simp (decide := true) only [decode01, fd, fa, fb, e0, reduceIte,
    Nat.reduceEqDiff, and_self, and_true, true_and, and_false, false_and]

theorem Encoding.andn (d : BitVec 5) (a : BitVec 5) (b : BitVec 5) :
    Encoding.Statement (.andn d a b) := by
  refine layout_c11_f5_f5_f5 0x400000b 1 11 d a b rfl (by decide) (by decide) (by decide) ?_
  intro v hM fd fa fb e0
  rw [major_01 hM]
  simp (decide := true) only [decode01, fd, fa, fb, e0, reduceIte,
    Nat.reduceEqDiff, and_self, and_true, true_and, and_false, false_and]

theorem Encoding.sll (d : BitVec 5) (a : BitVec 5) (b : BitVec 5) :
    Encoding.Statement (.sll d a b) := by
  refine layout_c11_f5_f5_f5 0x400000c 1 12 d a b rfl (by decide) (by decide) (by decide) ?_
  intro v hM fd fa fb e0
  rw [major_01 hM]
  simp (decide := true) only [decode01, fd, fa, fb, e0, reduceIte,
    Nat.reduceEqDiff, and_self, and_true, true_and, and_false, false_and]

theorem Encoding.srl (d : BitVec 5) (a : BitVec 5) (b : BitVec 5) :
    Encoding.Statement (.srl d a b) := by
  refine layout_c11_f5_f5_f5 0x400000d 1 13 d a b rfl (by decide) (by decide) (by decide) ?_
  intro v hM fd fa fb e0
  rw [major_01 hM]
  simp (decide := true) only [decode01, fd, fa, fb, e0, reduceIte,
    Nat.reduceEqDiff, and_self, and_true, true_and, and_false, false_and]

theorem Encoding.sra (d : BitVec 5) (a : BitVec 5) (b : BitVec 5) :
    Encoding.Statement (.sra d a b) := by
  refine layout_c11_f5_f5_f5 0x400000e 1 14 d a b rfl (by decide) (by decide) (by decide) ?_
  intro v hM fd fa fb e0
  rw [major_01 hM]
  simp (decide := true) only [decode01, fd, fa, fb, e0, reduceIte,
    Nat.reduceEqDiff, and_self, and_true, true_and, and_false, false_and]

theorem Encoding.slt (d : BitVec 5) (a : BitVec 5) (b : BitVec 5) :
    Encoding.Statement (.slt d a b) := by
  refine layout_c11_f5_f5_f5 0x400000f 1 15 d a b rfl (by decide) (by decide) (by decide) ?_
  intro v hM fd fa fb e0
  rw [major_01 hM]
  simp (decide := true) only [decode01, fd, fa, fb, e0, reduceIte,
    Nat.reduceEqDiff, and_self, and_true, true_and, and_false, false_and]

theorem Encoding.sltn (d : BitVec 5) (a : BitVec 5) (b : BitVec 5) :
    Encoding.Statement (.sltn d a b) := by
  refine layout_c11_f5_f5_f5 0x4000010 1 16 d a b rfl (by decide) (by decide) (by decide) ?_
  intro v hM fd fa fb e0
  rw [major_01 hM]
  simp (decide := true) only [decode01, fd, fa, fb, e0, reduceIte,
    Nat.reduceEqDiff, and_self, and_true, true_and, and_false, false_and]

theorem Encoding.min (d : BitVec 5) (a : BitVec 5) (b : BitVec 5) :
    Encoding.Statement (.min d a b) := by
  refine layout_c11_f5_f5_f5 0x4000011 1 17 d a b rfl (by decide) (by decide) (by decide) ?_
  intro v hM fd fa fb e0
  rw [major_01 hM]
  simp (decide := true) only [decode01, fd, fa, fb, e0, reduceIte,
    Nat.reduceEqDiff, and_self, and_true, true_and, and_false, false_and]

theorem Encoding.max (d : BitVec 5) (a : BitVec 5) (b : BitVec 5) :
    Encoding.Statement (.max d a b) := by
  refine layout_c11_f5_f5_f5 0x4000012 1 18 d a b rfl (by decide) (by decide) (by decide) ?_
  intro v hM fd fa fb e0
  rw [major_01 hM]
  simp (decide := true) only [decode01, fd, fa, fb, e0, reduceIte,
    Nat.reduceEqDiff, and_self, and_true, true_and, and_false, false_and]

theorem Encoding.minn (d : BitVec 5) (a : BitVec 5) (b : BitVec 5) :
    Encoding.Statement (.minn d a b) := by
  refine layout_c11_f5_f5_f5 0x4000013 1 19 d a b rfl (by decide) (by decide) (by decide) ?_
  intro v hM fd fa fb e0
  rw [major_01 hM]
  simp (decide := true) only [decode01, fd, fa, fb, e0, reduceIte,
    Nat.reduceEqDiff, and_self, and_true, true_and, and_false, false_and]

theorem Encoding.maxn (d : BitVec 5) (a : BitVec 5) (b : BitVec 5) :
    Encoding.Statement (.maxn d a b) := by
  refine layout_c11_f5_f5_f5 0x4000014 1 20 d a b rfl (by decide) (by decide) (by decide) ?_
  intro v hM fd fa fb e0
  rw [major_01 hM]
  simp (decide := true) only [decode01, fd, fa, fb, e0, reduceIte,
    Nat.reduceEqDiff, and_self, and_true, true_and, and_false, false_and]

theorem Encoding.clz (d : BitVec 5) (a : BitVec 5) :
    Encoding.Statement (.clz d a) := by
  refine layout_c16_f5_f5 0x4000015 1 21 d a rfl (by decide) (by decide) (by decide) ?_
  intro v hM fd fa e0
  have t0_11 : bits v 0 11 = 21 := bits_within e0 0 11 (by decide)
  rw [major_01 hM]
  simp (decide := true) only [decode01, fd, fa, t0_11, e0, reduceIte,
    Nat.reduceEqDiff, and_self, and_true, true_and, and_false, false_and]

theorem Encoding.ctz (d : BitVec 5) (a : BitVec 5) :
    Encoding.Statement (.ctz d a) := by
  refine layout_c16_f5_f5 0x4000016 1 22 d a rfl (by decide) (by decide) (by decide) ?_
  intro v hM fd fa e0
  have t0_11 : bits v 0 11 = 22 := bits_within e0 0 11 (by decide)
  rw [major_01 hM]
  simp (decide := true) only [decode01, fd, fa, t0_11, e0, reduceIte,
    Nat.reduceEqDiff, and_self, and_true, true_and, and_false, false_and]

theorem Encoding.popc (d : BitVec 5) (a : BitVec 5) :
    Encoding.Statement (.popc d a) := by
  refine layout_c16_f5_f5 0x4000017 1 23 d a rfl (by decide) (by decide) (by decide) ?_
  intro v hM fd fa e0
  have t0_11 : bits v 0 11 = 23 := bits_within e0 0 11 (by decide)
  rw [major_01 hM]
  simp (decide := true) only [decode01, fd, fa, t0_11, e0, reduceIte,
    Nat.reduceEqDiff, and_self, and_true, true_and, and_false, false_and]

theorem Encoding.addi (d : BitVec 5) (a : BitVec 5) (i : BitVec 16) :
    Encoding.Statement (.addi d a i) := by
  refine layout_f16_f5_f5 0x8000000 2 d a i rfl (by decide) (by decide) ?_
  intro v hM fd fa fi
  rw [major_02 hM]
  simp (decide := true) only [decode02, fd, fa, fi, reduceIte,
    Nat.reduceEqDiff, and_self, and_true, true_and, and_false, false_and]

theorem Encoding.andi (d : BitVec 5) (a : BitVec 5) (i : BitVec 16) :
    Encoding.Statement (.andi d a i) := by
  refine layout_f16_f5_f5 0xc000000 3 d a i rfl (by decide) (by decide) ?_
  intro v hM fd fa fi
  rw [major_03 hM]
  simp (decide := true) only [decode03, fd, fa, fi, reduceIte,
    Nat.reduceEqDiff, and_self, and_true, true_and, and_false, false_and]

theorem Encoding.ori (d : BitVec 5) (a : BitVec 5) (i : BitVec 16) :
    Encoding.Statement (.ori d a i) := by
  refine layout_f16_f5_f5 0x10000000 4 d a i rfl (by decide) (by decide) ?_
  intro v hM fd fa fi
  rw [major_04 hM]
  simp (decide := true) only [decode04, fd, fa, fi, reduceIte,
    Nat.reduceEqDiff, and_self, and_true, true_and, and_false, false_and]

theorem Encoding.xori (d : BitVec 5) (a : BitVec 5) (i : BitVec 16) :
    Encoding.Statement (.xori d a i) := by
  refine layout_f16_f5_f5 0x14000000 5 d a i rfl (by decide) (by decide) ?_
  intro v hM fd fa fi
  rw [major_05 hM]
  simp (decide := true) only [decode05, fd, fa, fi, reduceIte,
    Nat.reduceEqDiff, and_self, and_true, true_and, and_false, false_and]

theorem Encoding.slli (d : BitVec 5) (a : BitVec 5) (h : BitVec 6) :
    Encoding.Statement (.slli d a h) := by
  refine layout_f6_c10_f5_f5 0x18000000 6 0 d a h rfl (by decide) (by decide) (by decide) ?_
  intro v hM fd fa fh e6
  rw [major_06 hM]
  simp (decide := true) only [decode06, fd, fa, fh, e6, reduceIte,
    Nat.reduceEqDiff, and_self, and_true, true_and, and_false, false_and]

theorem Encoding.srli (d : BitVec 5) (a : BitVec 5) (h : BitVec 6) :
    Encoding.Statement (.srli d a h) := by
  refine layout_f6_c10_f5_f5 0x18004000 6 256 d a h rfl (by decide) (by decide) (by decide) ?_
  intro v hM fd fa fh e6
  rw [major_06 hM]
  simp (decide := true) only [decode06, fd, fa, fh, e6, reduceIte,
    Nat.reduceEqDiff, and_self, and_true, true_and, and_false, false_and]

theorem Encoding.srai (d : BitVec 5) (a : BitVec 5) (h : BitVec 6) :
    Encoding.Statement (.srai d a h) := by
  refine layout_f6_c10_f5_f5 0x18008000 6 512 d a h rfl (by decide) (by decide) (by decide) ?_
  intro v hM fd fa fh e6
  rw [major_06 hM]
  simp (decide := true) only [decode06, fd, fa, fh, e6, reduceIte,
    Nat.reduceEqDiff, and_self, and_true, true_and, and_false, false_and]

theorem Encoding.lui (d : BitVec 5) (i : BitVec 16) :
    Encoding.Statement (.lui d i) := by
  refine layout_f16_c5_f5 0x1c000000 7 0 d i rfl (by decide) (by decide) (by decide) ?_
  intro v hM fd fi e16
  rw [major_07 hM]
  simp (decide := true) only [decode07, fd, fi, e16, reduceIte,
    Nat.reduceEqDiff, and_self, and_true, true_and, and_false, false_and]

theorem Encoding.limm (d : BitVec 5) (p : BitVec 32) :
    Encoding.Statement (.limm d p) := by
  intro hw _ ws he
  cases he
  have := d.isLt
  have := p.isLt
  show some (decodeWord (0xfc000000 + d.toNat * 2 ^ 15) p.toNat) = _
  generalize hW : 0xfc000000 + d.toNat * 2 ^ 15 = v
  have hM : v / 2 ^ 26 = 63 := by omega
  refine congrArg some (decodeWord_of hM (by decide) ?_ hw)
  have e0 : bits v 20 6 = 0 := by simp only [bits]; omega
  have e1 : bits v 0 15 = 0 := by simp only [bits]; omega
  have fd : fld v 15 5 = d := fld_of_bits (by unfold bits; omega)
  have fp : fld p.toNat 0 32 = p := fld_of_bits (by unfold bits; omega)
  rw [major_3F hM]
  simp (decide := true) only [decode3F, e0, e1, fd, fp, reduceIte,
    Nat.reduceEqDiff, and_self, and_true, true_and, and_false, false_and]

theorem Encoding.limmh (d : BitVec 5) (p : BitVec 32) :
    Encoding.Statement (.limmh d p) := by
  intro hw _ ws he
  cases he
  have := d.isLt
  have := p.isLt
  show some (decodeWord (0xfc100000 + d.toNat * 2 ^ 15) p.toNat) = _
  generalize hW : 0xfc100000 + d.toNat * 2 ^ 15 = v
  have hM : v / 2 ^ 26 = 63 := by omega
  refine congrArg some (decodeWord_of hM (by decide) ?_ hw)
  have e0 : bits v 20 6 = 1 := by simp only [bits]; omega
  have e1 : bits v 0 15 = 0 := by simp only [bits]; omega
  have fd : fld v 15 5 = d := fld_of_bits (by unfold bits; omega)
  have fp : fld p.toNat 0 32 = p := fld_of_bits (by unfold bits; omega)
  rw [major_3F hM]
  simp (decide := true) only [decode3F, e0, e1, fd, fp, reduceIte,
    Nat.reduceEqDiff, and_self, and_true, true_and, and_false, false_and]

theorem Encoding.ldb (d : BitVec 5) (a : BitVec 5) (o : BitVec 13) :
    Encoding.Statement (.ldb d a o) := by
  refine layout_f13_c3_f5_f5 0x20000000 8 0 d a o rfl (by decide) (by decide) (by decide) ?_
  intro v hM fd fa fo e13
  rw [major_08 hM]
  simp (decide := true) only [decode08, fd, fa, fo, e13, reduceIte,
    Nat.reduceEqDiff, and_self, and_true, true_and, and_false, false_and]

theorem Encoding.ldh (d : BitVec 5) (a : BitVec 5) (o : BitVec 13) :
    Encoding.Statement (.ldh d a o) := by
  refine layout_f13_c3_f5_f5 0x20004000 8 2 d a o rfl (by decide) (by decide) (by decide) ?_
  intro v hM fd fa fo e13
  rw [major_08 hM]
  simp (decide := true) only [decode08, fd, fa, fo, e13, reduceIte,
    Nat.reduceEqDiff, and_self, and_true, true_and, and_false, false_and]

theorem Encoding.ldw (d : BitVec 5) (a : BitVec 5) (o : BitVec 13) :
    Encoding.Statement (.ldw d a o) := by
  refine layout_f13_c3_f5_f5 0x20008000 8 4 d a o rfl (by decide) (by decide) (by decide) ?_
  intro v hM fd fa fo e13
  rw [major_08 hM]
  simp (decide := true) only [decode08, fd, fa, fo, e13, reduceIte,
    Nat.reduceEqDiff, and_self, and_true, true_and, and_false, false_and]

theorem Encoding.ldd (d : BitVec 5) (a : BitVec 5) (o : BitVec 13) :
    Encoding.Statement (.ldd d a o) := by
  refine layout_f13_c3_f5_f5 0x2000c000 8 6 d a o rfl (by decide) (by decide) (by decide) ?_
  intro v hM fd fa fo e13
  rw [major_08 hM]
  simp (decide := true) only [decode08, fd, fa, fo, e13, reduceIte,
    Nat.reduceEqDiff, and_self, and_true, true_and, and_false, false_and]

theorem Encoding.ldbS (d : BitVec 5) (a : BitVec 5) (o : BitVec 13) :
    Encoding.Statement (.ldbS d a o) := by
  refine layout_f13_c3_f5_f5 0x20002000 8 1 d a o rfl (by decide) (by decide) (by decide) ?_
  intro v hM fd fa fo e13
  rw [major_08 hM]
  simp (decide := true) only [decode08, fd, fa, fo, e13, reduceIte,
    Nat.reduceEqDiff, and_self, and_true, true_and, and_false, false_and]

theorem Encoding.ldhS (d : BitVec 5) (a : BitVec 5) (o : BitVec 13) :
    Encoding.Statement (.ldhS d a o) := by
  refine layout_f13_c3_f5_f5 0x20006000 8 3 d a o rfl (by decide) (by decide) (by decide) ?_
  intro v hM fd fa fo e13
  rw [major_08 hM]
  simp (decide := true) only [decode08, fd, fa, fo, e13, reduceIte,
    Nat.reduceEqDiff, and_self, and_true, true_and, and_false, false_and]

theorem Encoding.ldwS (d : BitVec 5) (a : BitVec 5) (o : BitVec 13) :
    Encoding.Statement (.ldwS d a o) := by
  refine layout_f13_c3_f5_f5 0x2000a000 8 5 d a o rfl (by decide) (by decide) (by decide) ?_
  intro v hM fd fa fo e13
  rw [major_08 hM]
  simp (decide := true) only [decode08, fd, fa, fo, e13, reduceIte,
    Nat.reduceEqDiff, and_self, and_true, true_and, and_false, false_and]

theorem Encoding.stb (d : BitVec 5) (a : BitVec 5) (o : BitVec 13) :
    Encoding.Statement (.stb d a o) := by
  refine layout_f13_c3_f5_f5 0x24000000 9 0 d a o rfl (by decide) (by decide) (by decide) ?_
  intro v hM fd fa fo e13
  rw [major_09 hM]
  simp (decide := true) only [decode09, fd, fa, fo, e13, reduceIte,
    Nat.reduceEqDiff, and_self, and_true, true_and, and_false, false_and]

theorem Encoding.sth (d : BitVec 5) (a : BitVec 5) (o : BitVec 13) :
    Encoding.Statement (.sth d a o) := by
  refine layout_f13_c3_f5_f5 0x24004000 9 2 d a o rfl (by decide) (by decide) (by decide) ?_
  intro v hM fd fa fo e13
  rw [major_09 hM]
  simp (decide := true) only [decode09, fd, fa, fo, e13, reduceIte,
    Nat.reduceEqDiff, and_self, and_true, true_and, and_false, false_and]

theorem Encoding.stw (d : BitVec 5) (a : BitVec 5) (o : BitVec 13) :
    Encoding.Statement (.stw d a o) := by
  refine layout_f13_c3_f5_f5 0x24008000 9 4 d a o rfl (by decide) (by decide) (by decide) ?_
  intro v hM fd fa fo e13
  rw [major_09 hM]
  simp (decide := true) only [decode09, fd, fa, fo, e13, reduceIte,
    Nat.reduceEqDiff, and_self, and_true, true_and, and_false, false_and]

theorem Encoding.std (d : BitVec 5) (a : BitVec 5) (o : BitVec 13) :
    Encoding.Statement (.std d a o) := by
  refine layout_f13_c3_f5_f5 0x2400c000 9 6 d a o rfl (by decide) (by decide) (by decide) ?_
  intro v hM fd fa fo e13
  rw [major_09 hM]
  simp (decide := true) only [decode09, fd, fa, fo, e13, reduceIte,
    Nat.reduceEqDiff, and_self, and_true, true_and, and_false, false_and]

theorem Encoding.amoAdd (d : BitVec 5) (a : BitVec 5) (b : BitVec 5) (s : BitVec 3) (z : BitVec 2) :
    Encoding.Statement (.amoAdd d a b s z) := by
  refine layout_c2_f2_f3_c4_f5_f5_f5 0x28000000 10 0 0 d a b s z rfl (by decide) (by decide) (by decide) (by
      decide) ?_
  intro v hM fd fa fb fs fz e0 e7
  rw [major_0A hM]
  simp (decide := true) only [decode0A, fd, fa, fb, fs, fz, e7, e0, reduceIte,
    Nat.reduceEqDiff, and_self, and_true, true_and, and_false, false_and]

theorem Encoding.amoSwap (d : BitVec 5) (a : BitVec 5) (b : BitVec 5) (s : BitVec 3) (z : BitVec 2) :
    Encoding.Statement (.amoSwap d a b s z) := by
  refine layout_c2_f2_f3_c4_f5_f5_f5 0x28000080 10 0 1 d a b s z rfl (by decide) (by decide) (by decide) (by
      decide) ?_
  intro v hM fd fa fb fs fz e0 e7
  rw [major_0A hM]
  simp (decide := true) only [decode0A, fd, fa, fb, fs, fz, e7, e0, reduceIte,
    Nat.reduceEqDiff, and_self, and_true, true_and, and_false, false_and]

theorem Encoding.amoCas (d : BitVec 5) (a : BitVec 5) (b : BitVec 5) (s : BitVec 3) (z : BitVec 2) :
    Encoding.Statement (.amoCas d a b s z) := by
  refine layout_c2_f2_f3_c4_f5_f5_f5 0x28000100 10 0 2 d a b s z rfl (by decide) (by decide) (by decide) (by
      decide) ?_
  intro v hM fd fa fb fs fz e0 e7
  rw [major_0A hM]
  simp (decide := true) only [decode0A, fd, fa, fb, fs, fz, e7, e0, reduceIte,
    Nat.reduceEqDiff, and_self, and_true, true_and, and_false, false_and]

theorem Encoding.amoMin (d : BitVec 5) (a : BitVec 5) (b : BitVec 5) (s : BitVec 3) (z : BitVec 2) :
    Encoding.Statement (.amoMin d a b s z) := by
  refine layout_c2_f2_f3_c4_f5_f5_f5 0x28000180 10 0 3 d a b s z rfl (by decide) (by decide) (by decide) (by
      decide) ?_
  intro v hM fd fa fb fs fz e0 e7
  rw [major_0A hM]
  simp (decide := true) only [decode0A, fd, fa, fb, fs, fz, e7, e0, reduceIte,
    Nat.reduceEqDiff, and_self, and_true, true_and, and_false, false_and]

theorem Encoding.amoMax (d : BitVec 5) (a : BitVec 5) (b : BitVec 5) (s : BitVec 3) (z : BitVec 2) :
    Encoding.Statement (.amoMax d a b s z) := by
  refine layout_c2_f2_f3_c4_f5_f5_f5 0x28000200 10 0 4 d a b s z rfl (by decide) (by decide) (by decide) (by
      decide) ?_
  intro v hM fd fa fb fs fz e0 e7
  rw [major_0A hM]
  simp (decide := true) only [decode0A, fd, fa, fb, fs, fz, e7, e0, reduceIte,
    Nat.reduceEqDiff, and_self, and_true, true_and, and_false, false_and]

theorem Encoding.amoAnd (d : BitVec 5) (a : BitVec 5) (b : BitVec 5) (s : BitVec 3) (z : BitVec 2) :
    Encoding.Statement (.amoAnd d a b s z) := by
  refine layout_c2_f2_f3_c4_f5_f5_f5 0x28000280 10 0 5 d a b s z rfl (by decide) (by decide) (by decide) (by
      decide) ?_
  intro v hM fd fa fb fs fz e0 e7
  rw [major_0A hM]
  simp (decide := true) only [decode0A, fd, fa, fb, fs, fz, e7, e0, reduceIte,
    Nat.reduceEqDiff, and_self, and_true, true_and, and_false, false_and]

theorem Encoding.amoOr (d : BitVec 5) (a : BitVec 5) (b : BitVec 5) (s : BitVec 3) (z : BitVec 2) :
    Encoding.Statement (.amoOr d a b s z) := by
  refine layout_c2_f2_f3_c4_f5_f5_f5 0x28000300 10 0 6 d a b s z rfl (by decide) (by decide) (by decide) (by
      decide) ?_
  intro v hM fd fa fb fs fz e0 e7
  rw [major_0A hM]
  simp (decide := true) only [decode0A, fd, fa, fb, fs, fz, e7, e0, reduceIte,
    Nat.reduceEqDiff, and_self, and_true, true_and, and_false, false_and]

theorem Encoding.amoXor (d : BitVec 5) (a : BitVec 5) (b : BitVec 5) (s : BitVec 3) (z : BitVec 2) :
    Encoding.Statement (.amoXor d a b s z) := by
  refine layout_c2_f2_f3_c4_f5_f5_f5 0x28000380 10 0 7 d a b s z rfl (by decide) (by decide) (by decide) (by
      decide) ?_
  intro v hM fd fa fb fs fz e0 e7
  rw [major_0A hM]
  simp (decide := true) only [decode0A, fd, fa, fb, fs, fz, e7, e0, reduceIte,
    Nat.reduceEqDiff, and_self, and_true, true_and, and_false, false_and]

theorem Encoding.ldAcq (d : BitVec 5) (a : BitVec 5) (s : BitVec 3) (z : BitVec 2) :
    Encoding.Statement (.ldAcq d a s z) := by
  refine layout_c2_f2_f3_c9_f5_f5 0x28000400 10 0 8 d a s z rfl (by decide) (by decide) (by decide) (by decide) ?_
  intro v hM fd fa fs fz e0 e7
  have t7_4 : bits v 7 4 = 8 := bits_within e7 0 4 (by decide)
  rw [major_0A hM]
  simp (decide := true) only [decode0A, fd, fa, fs, fz, t7_4, e7, e0, reduceIte,
    Nat.reduceEqDiff, and_self, and_true, true_and, and_false, false_and]

theorem Encoding.stRel (a : BitVec 5) (b : BitVec 5) (s : BitVec 3) (z : BitVec 2) :
    Encoding.Statement (.stRel a b s z) := by
  refine layout_c2_f2_f3_c4_f5_f5_c5 0x28000480 10 0 9 0 a b s z rfl (by decide) (by decide) (by decide) (by
      decide) (by decide) ?_
  intro v hM fa fb fs fz e0 e7 e21
  have n0 : bits v 7 9 ≠ 8 := fun h =>
    absurd ((bits_within h 0 4 (by decide)).symm.trans e7) (by decide)
  rw [major_0A hM]
  simp (decide := true) only [decode0A, fa, fb, fs, fz, e7, e21, e0, n0, reduceIte,
    Nat.reduceEqDiff, and_self, and_true, true_and, and_false, false_and]

theorem Encoding.beq (a : BitVec 5) (b : BitVec 5) (o : BitVec 13) :
    Encoding.Statement (.beq a b o) := by
  refine layout_f13_c3_f5_f5 0x2c000000 11 0 a b o rfl (by decide) (by decide) (by decide) ?_
  intro v hM fa fb fo e13
  rw [major_0B hM]
  simp (decide := true) only [decode0B, fa, fb, fo, e13, reduceIte,
    Nat.reduceEqDiff, and_self, and_true, true_and, and_false, false_and]

theorem Encoding.bne (a : BitVec 5) (b : BitVec 5) (o : BitVec 13) :
    Encoding.Statement (.bne a b o) := by
  refine layout_f13_c3_f5_f5 0x2c002000 11 1 a b o rfl (by decide) (by decide) (by decide) ?_
  intro v hM fa fb fo e13
  rw [major_0B hM]
  simp (decide := true) only [decode0B, fa, fb, fo, e13, reduceIte,
    Nat.reduceEqDiff, and_self, and_true, true_and, and_false, false_and]

theorem Encoding.blt (a : BitVec 5) (b : BitVec 5) (o : BitVec 13) :
    Encoding.Statement (.blt a b o) := by
  refine layout_f13_c3_f5_f5 0x2c004000 11 2 a b o rfl (by decide) (by decide) (by decide) ?_
  intro v hM fa fb fo e13
  rw [major_0B hM]
  simp (decide := true) only [decode0B, fa, fb, fo, e13, reduceIte,
    Nat.reduceEqDiff, and_self, and_true, true_and, and_false, false_and]

theorem Encoding.bge (a : BitVec 5) (b : BitVec 5) (o : BitVec 13) :
    Encoding.Statement (.bge a b o) := by
  refine layout_f13_c3_f5_f5 0x2c006000 11 3 a b o rfl (by decide) (by decide) (by decide) ?_
  intro v hM fa fb fo e13
  rw [major_0B hM]
  simp (decide := true) only [decode0B, fa, fb, fo, e13, reduceIte,
    Nat.reduceEqDiff, and_self, and_true, true_and, and_false, false_and]

theorem Encoding.bltn (a : BitVec 5) (b : BitVec 5) (o : BitVec 13) :
    Encoding.Statement (.bltn a b o) := by
  refine layout_f13_c3_f5_f5 0x2c008000 11 4 a b o rfl (by decide) (by decide) (by decide) ?_
  intro v hM fa fb fo e13
  rw [major_0B hM]
  simp (decide := true) only [decode0B, fa, fb, fo, e13, reduceIte,
    Nat.reduceEqDiff, and_self, and_true, true_and, and_false, false_and]

theorem Encoding.bgen (a : BitVec 5) (b : BitVec 5) (o : BitVec 13) :
    Encoding.Statement (.bgen a b o) := by
  refine layout_f13_c3_f5_f5 0x2c00a000 11 5 a b o rfl (by decide) (by decide) (by decide) ?_
  intro v hM fa fb fo e13
  rw [major_0B hM]
  simp (decide := true) only [decode0B, fa, fb, fo, e13, reduceIte,
    Nat.reduceEqDiff, and_self, and_true, true_and, and_false, false_and]

theorem Encoding.jal (o : BitVec 26) :
    Encoding.Statement (.jal o) := by
  refine layout_f26 0x30000000 12 o rfl (by decide) (by decide) ?_
  intro v hM fo
  rw [major_0C hM]
  simp (decide := true) only [decode0C, fo, reduceIte,
    Nat.reduceEqDiff, and_self, and_true, true_and, and_false, false_and]

theorem Encoding.jalr (d : BitVec 5) (a : BitVec 5) (i : BitVec 16) :
    Encoding.Statement (.jalr d a i) := by
  refine layout_f16_f5_f5 0x34000000 13 d a i rfl (by decide) (by decide) ?_
  intro v hM fd fa fi
  rw [major_0D hM]
  simp (decide := true) only [decode0D, fd, fa, fi, reduceIte,
    Nat.reduceEqDiff, and_self, and_true, true_and, and_false, false_and]

theorem Encoding.slti (d : BitVec 5) (a : BitVec 5) (i : BitVec 16) :
    Encoding.Statement (.slti d a i) := by
  refine layout_f16_f5_f5 0x38000000 14 d a i rfl (by decide) (by decide) ?_
  intro v hM fd fa fi
  rw [major_0E hM]
  simp (decide := true) only [decode0E, fd, fa, fi, reduceIte,
    Nat.reduceEqDiff, and_self, and_true, true_and, and_false, false_and]

theorem Encoding.vsetlb (a : BitVec 5) (b : BitVec 5) (e : BitVec 3) (o : BitVec 13) :
    Encoding.Statement (.vsetlb a b e o) := by
  refine layout_f13_f3_f5_f5 0x3c000000 15 a b e o rfl (by decide) (by decide) ?_
  intro v hM fa fb fe fo
  rw [major_0F hM]
  simp (decide := true) only [decode0F, fa, fb, fe, fo, reduceIte,
    Nat.reduceEqDiff, and_self, and_true, true_and, and_false, false_and]

theorem Encoding.vcfg (d : BitVec 5) (t : BitVec 5) (f : BitVec 6) (g : BitVec 2) :
    Encoding.Statement (.vcfg d t f g) := by
  refine layout_c1_f2_f6_c7_f5_f5 0x40000000 16 0 0 d t f g rfl (by decide) (by decide) (by decide) (by decide) ?_
  intro v hM fd ft ff fg e0 e9
  rw [major_10 hM]
  simp (decide := true) only [decode10, fd, ft, ff, fg, e9, e0, reduceIte,
    Nat.reduceEqDiff, and_self, and_true, true_and, and_false, false_and]

theorem Encoding.vcfgw (d : BitVec 5) (w : BitVec 3) (s : BitVec 3) :
    Encoding.Statement (.vcfgw d w s) := by
  refine layout_c3_f3_f3_c12_f5 0x40000200 16 0 1 d w s rfl (by decide) (by decide) (by decide) (by decide) ?_
  intro v hM fd fw fs e0 e9
  have t9_7 : bits v 9 7 = 1 := bits_within e9 0 7 (by decide)
  rw [major_10 hM]
  simp (decide := true) only [decode10, fd, fw, fs, t9_7, e9, e0, reduceIte,
    Nat.reduceEqDiff, and_self, and_true, true_and, and_false, false_and]

theorem Encoding.vsetl (d : BitVec 5) (a : BitVec 5) (e : BitVec 3) (g : BitVec 2) :
    Encoding.Statement (.vsetl d a e g) := by
  refine layout_c4_f2_f3_c7_f5_f5 0x40000400 16 0 2 d a e g rfl (by decide) (by decide) (by decide) (by decide) ?_
  intro v hM fd fa fe fg e0 e9
  have n0 : bits v 9 12 ≠ 1 := fun h =>
    absurd ((bits_within h 0 7 (by decide)).symm.trans e9) (by decide)
  rw [major_10 hM]
  simp (decide := true) only [decode10, fd, fa, fe, fg, e9, e0, n0, reduceIte,
    Nat.reduceEqDiff, and_self, and_true, true_and, and_false, false_and]

theorem Encoding.vtag (d : BitVec 5) (a : BitVec 5) :
    Encoding.Statement (.vtag d a) := by
  refine layout_c16_f5_f5 0x40000600 16 1536 d a rfl (by decide) (by decide) (by decide) ?_
  intro v hM fd fa e0
  have t9_7 : bits v 9 7 = 3 := bits_within e0 9 7 (by decide)
  have n0 : bits v 9 12 ≠ 1 := fun h =>
    absurd ((bits_within h 0 7 (by decide)).symm.trans t9_7) (by decide)
  rw [major_10 hM]
  simp (decide := true) only [decode10, fd, fa, t9_7, e0, n0, reduceIte,
    Nat.reduceEqDiff, and_self, and_true, true_and, and_false, false_and]

theorem Encoding.vadd (d : BitVec 5) (a : BitVec 5) (b : BitVec 5) (k : BitVec 3) (w : BitVec 1) (x : BitVec 1) :
    Encoding.Statement (.vadd d a b k w x) := by
  refine layout_c6_f1_f1_f3_f5_f5_f5 0x44000000 17 0 d a b k w x rfl (by decide) (by decide) (by decide) ?_
  intro v hM fd fa fb fk fw fx e0
  rw [major_11 hM]
  simp (decide := true) only [decode11, fd, fa, fb, fk, fw, fx, e0, reduceIte,
    Nat.reduceEqDiff, and_self, and_true, true_and, and_false, false_and]

theorem Encoding.vsub (d : BitVec 5) (a : BitVec 5) (b : BitVec 5) (k : BitVec 3) (w : BitVec 1) (x : BitVec 1) :
    Encoding.Statement (.vsub d a b k w x) := by
  refine layout_c6_f1_f1_f3_f5_f5_f5 0x44000001 17 1 d a b k w x rfl (by decide) (by decide) (by decide) ?_
  intro v hM fd fa fb fk fw fx e0
  rw [major_11 hM]
  simp (decide := true) only [decode11, fd, fa, fb, fk, fw, fx, e0, reduceIte,
    Nat.reduceEqDiff, and_self, and_true, true_and, and_false, false_and]

theorem Encoding.vmul (d : BitVec 5) (a : BitVec 5) (b : BitVec 5) (k : BitVec 3) (w : BitVec 1) (x : BitVec 1) :
    Encoding.Statement (.vmul d a b k w x) := by
  refine layout_c6_f1_f1_f3_f5_f5_f5 0x44000002 17 2 d a b k w x rfl (by decide) (by decide) (by decide) ?_
  intro v hM fd fa fb fk fw fx e0
  rw [major_11 hM]
  simp (decide := true) only [decode11, fd, fa, fb, fk, fw, fx, e0, reduceIte,
    Nat.reduceEqDiff, and_self, and_true, true_and, and_false, false_and]

theorem Encoding.vfma (d : BitVec 5) (a : BitVec 5) (b : BitVec 5) (k : BitVec 3) (w : BitVec 1) (x : BitVec 1) :
    Encoding.Statement (.vfma d a b k w x) := by
  refine layout_c6_f1_f1_f3_f5_f5_f5 0x44000003 17 3 d a b k w x rfl (by decide) (by decide) (by decide) ?_
  intro v hM fd fa fb fk fw fx e0
  rw [major_11 hM]
  simp (decide := true) only [decode11, fd, fa, fb, fk, fw, fx, e0, reduceIte,
    Nat.reduceEqDiff, and_self, and_true, true_and, and_false, false_and]

theorem Encoding.vmin (d : BitVec 5) (a : BitVec 5) (b : BitVec 5) (k : BitVec 3) (w : BitVec 1) (x : BitVec 1) :
    Encoding.Statement (.vmin d a b k w x) := by
  refine layout_c6_f1_f1_f3_f5_f5_f5 0x44000004 17 4 d a b k w x rfl (by decide) (by decide) (by decide) ?_
  intro v hM fd fa fb fk fw fx e0
  rw [major_11 hM]
  simp (decide := true) only [decode11, fd, fa, fb, fk, fw, fx, e0, reduceIte,
    Nat.reduceEqDiff, and_self, and_true, true_and, and_false, false_and]

theorem Encoding.vmax (d : BitVec 5) (a : BitVec 5) (b : BitVec 5) (k : BitVec 3) (w : BitVec 1) (x : BitVec 1) :
    Encoding.Statement (.vmax d a b k w x) := by
  refine layout_c6_f1_f1_f3_f5_f5_f5 0x44000005 17 5 d a b k w x rfl (by decide) (by decide) (by decide) ?_
  intro v hM fd fa fb fk fw fx e0
  rw [major_11 hM]
  simp (decide := true) only [decode11, fd, fa, fb, fk, fw, fx, e0, reduceIte,
    Nat.reduceEqDiff, and_self, and_true, true_and, and_false, false_and]

theorem Encoding.vabs (d : BitVec 5) (a : BitVec 5) (k : BitVec 3) (w : BitVec 1) :
    Encoding.Statement (.vabs d a k w) := by
  refine layout_c7_f1_f3_c5_f5_f5 0x44000006 17 6 0 d a k w rfl (by decide) (by decide) (by decide) (by decide) ?_
  intro v hM fd fa fk fw e0 e11
  have t0_6 : bits v 0 6 = 6 := bits_within e0 0 6 (by decide)
  rw [major_11 hM]
  simp (decide := true) only [decode11, fd, fa, fk, fw, t0_6, e11, e0, reduceIte,
    Nat.reduceEqDiff, and_self, and_true, true_and, and_false, false_and]

theorem Encoding.vneg (d : BitVec 5) (a : BitVec 5) (k : BitVec 3) (w : BitVec 1) :
    Encoding.Statement (.vneg d a k w) := by
  refine layout_c7_f1_f3_c5_f5_f5 0x44000007 17 7 0 d a k w rfl (by decide) (by decide) (by decide) (by decide) ?_
  intro v hM fd fa fk fw e0 e11
  have t0_6 : bits v 0 6 = 7 := bits_within e0 0 6 (by decide)
  rw [major_11 hM]
  simp (decide := true) only [decode11, fd, fa, fk, fw, t0_6, e0, e11, reduceIte,
    Nat.reduceEqDiff, and_self, and_true, true_and, and_false, false_and]

theorem Encoding.vand (d : BitVec 5) (a : BitVec 5) (b : BitVec 5) (k : BitVec 3) (w : BitVec 1) (x : BitVec 1) :
    Encoding.Statement (.vand d a b k w x) := by
  refine layout_c6_f1_f1_f3_f5_f5_f5 0x44000008 17 8 d a b k w x rfl (by decide) (by decide) (by decide) ?_
  intro v hM fd fa fb fk fw fx e0
  have n0 : bits v 0 7 ≠ 6 := fun h =>
    absurd ((bits_within h 0 6 (by decide)).symm.trans e0) (by decide)
  have n1 : bits v 0 7 ≠ 7 := fun h =>
    absurd ((bits_within h 0 6 (by decide)).symm.trans e0) (by decide)
  rw [major_11 hM]
  simp (decide := true) only [decode11, fd, fa, fb, fk, fw, fx, e0, n0, n1, reduceIte,
    Nat.reduceEqDiff, and_self, and_true, true_and, and_false, false_and]

theorem Encoding.vor (d : BitVec 5) (a : BitVec 5) (b : BitVec 5) (k : BitVec 3) (w : BitVec 1) (x : BitVec 1) :
    Encoding.Statement (.vor d a b k w x) := by
  refine layout_c6_f1_f1_f3_f5_f5_f5 0x44000009 17 9 d a b k w x rfl (by decide) (by decide) (by decide) ?_
  intro v hM fd fa fb fk fw fx e0
  have n0 : bits v 0 7 ≠ 6 := fun h =>
    absurd ((bits_within h 0 6 (by decide)).symm.trans e0) (by decide)
  have n1 : bits v 0 7 ≠ 7 := fun h =>
    absurd ((bits_within h 0 6 (by decide)).symm.trans e0) (by decide)
  rw [major_11 hM]
  simp (decide := true) only [decode11, fd, fa, fb, fk, fw, fx, e0, n0, n1, reduceIte,
    Nat.reduceEqDiff, and_self, and_true, true_and, and_false, false_and]

theorem Encoding.vxor (d : BitVec 5) (a : BitVec 5) (b : BitVec 5) (k : BitVec 3) (w : BitVec 1) (x : BitVec 1) :
    Encoding.Statement (.vxor d a b k w x) := by
  refine layout_c6_f1_f1_f3_f5_f5_f5 0x4400000a 17 10 d a b k w x rfl (by decide) (by decide) (by decide) ?_
  intro v hM fd fa fb fk fw fx e0
  have n0 : bits v 0 7 ≠ 6 := fun h =>
    absurd ((bits_within h 0 6 (by decide)).symm.trans e0) (by decide)
  have n1 : bits v 0 7 ≠ 7 := fun h =>
    absurd ((bits_within h 0 6 (by decide)).symm.trans e0) (by decide)
  rw [major_11 hM]
  simp (decide := true) only [decode11, fd, fa, fb, fk, fw, fx, e0, n0, n1, reduceIte,
    Nat.reduceEqDiff, and_self, and_true, true_and, and_false, false_and]

theorem Encoding.vshl (d : BitVec 5) (a : BitVec 5) (b : BitVec 5) (k : BitVec 3) (w : BitVec 1) (x : BitVec 1) :
    Encoding.Statement (.vshl d a b k w x) := by
  refine layout_c6_f1_f1_f3_f5_f5_f5 0x4400000b 17 11 d a b k w x rfl (by decide) (by decide) (by decide) ?_
  intro v hM fd fa fb fk fw fx e0
  have n0 : bits v 0 7 ≠ 6 := fun h =>
    absurd ((bits_within h 0 6 (by decide)).symm.trans e0) (by decide)
  have n1 : bits v 0 7 ≠ 7 := fun h =>
    absurd ((bits_within h 0 6 (by decide)).symm.trans e0) (by decide)
  rw [major_11 hM]
  simp (decide := true) only [decode11, fd, fa, fb, fk, fw, fx, e0, n0, n1, reduceIte,
    Nat.reduceEqDiff, and_self, and_true, true_and, and_false, false_and]

theorem Encoding.vshr (d : BitVec 5) (a : BitVec 5) (b : BitVec 5) (k : BitVec 3) (w : BitVec 1) (x : BitVec 1) :
    Encoding.Statement (.vshr d a b k w x) := by
  refine layout_c6_f1_f1_f3_f5_f5_f5 0x4400000c 17 12 d a b k w x rfl (by decide) (by decide) (by decide) ?_
  intro v hM fd fa fb fk fw fx e0
  have n0 : bits v 0 7 ≠ 6 := fun h =>
    absurd ((bits_within h 0 6 (by decide)).symm.trans e0) (by decide)
  have n1 : bits v 0 7 ≠ 7 := fun h =>
    absurd ((bits_within h 0 6 (by decide)).symm.trans e0) (by decide)
  rw [major_11 hM]
  simp (decide := true) only [decode11, fd, fa, fb, fk, fw, fx, e0, n0, n1, reduceIte,
    Nat.reduceEqDiff, and_self, and_true, true_and, and_false, false_and]

theorem Encoding.vadc (d : BitVec 5) (a : BitVec 5) (b : BitVec 5) (k : BitVec 3) (w : BitVec 1) (x : BitVec 1) :
    Encoding.Statement (.vadc d a b k w x) := by
  refine layout_c6_f1_f1_f3_f5_f5_f5 0x4400000d 17 13 d a b k w x rfl (by decide) (by decide) (by decide) ?_
  intro v hM fd fa fb fk fw fx e0
  have n0 : bits v 0 7 ≠ 6 := fun h =>
    absurd ((bits_within h 0 6 (by decide)).symm.trans e0) (by decide)
  have n1 : bits v 0 7 ≠ 7 := fun h =>
    absurd ((bits_within h 0 6 (by decide)).symm.trans e0) (by decide)
  rw [major_11 hM]
  simp (decide := true) only [decode11, fd, fa, fb, fk, fw, fx, e0, n0, n1, reduceIte,
    Nat.reduceEqDiff, and_self, and_true, true_and, and_false, false_and]

theorem Encoding.vsbc (d : BitVec 5) (a : BitVec 5) (b : BitVec 5) (k : BitVec 3) (w : BitVec 1) (x : BitVec 1) :
    Encoding.Statement (.vsbc d a b k w x) := by
  refine layout_c6_f1_f1_f3_f5_f5_f5 0x4400000e 17 14 d a b k w x rfl (by decide) (by decide) (by decide) ?_
  intro v hM fd fa fb fk fw fx e0
  have n0 : bits v 0 7 ≠ 6 := fun h =>
    absurd ((bits_within h 0 6 (by decide)).symm.trans e0) (by decide)
  have n1 : bits v 0 7 ≠ 7 := fun h =>
    absurd ((bits_within h 0 6 (by decide)).symm.trans e0) (by decide)
  rw [major_11 hM]
  simp (decide := true) only [decode11, fd, fa, fb, fk, fw, fx, e0, n0, n1, reduceIte,
    Nat.reduceEqDiff, and_self, and_true, true_and, and_false, false_and]

theorem Encoding.vmov (d : BitVec 5) (a : BitVec 5) (k : BitVec 3) (w : BitVec 1) :
    Encoding.Statement (.vmov d a k w) := by
  refine layout_c7_f1_f3_c5_f5_f5 0x4400000f 17 15 0 d a k w rfl (by decide) (by decide) (by decide) (by decide) ?_
  intro v hM fd fa fk fw e0 e11
  have t0_6 : bits v 0 6 = 15 := bits_within e0 0 6 (by decide)
  rw [major_11 hM]
  simp (decide := true) only [decode11, fd, fa, fk, fw, t0_6, e0, e11, reduceIte,
    Nat.reduceEqDiff, and_self, and_true, true_and, and_false, false_and]

theorem Encoding.vsel (d : BitVec 5) (a : BitVec 5) (b : BitVec 5) (k : BitVec 3) (w : BitVec 1) (x : BitVec 1) :
    Encoding.Statement (.vsel d a b k w x) := by
  refine layout_c6_f1_f1_f3_f5_f5_f5 0x44000010 17 16 d a b k w x rfl (by decide) (by decide) (by decide) ?_
  intro v hM fd fa fb fk fw fx e0
  have n0 : bits v 0 7 ≠ 6 := fun h =>
    absurd ((bits_within h 0 6 (by decide)).symm.trans e0) (by decide)
  have n1 : bits v 0 7 ≠ 7 := fun h =>
    absurd ((bits_within h 0 6 (by decide)).symm.trans e0) (by decide)
  have n2 : bits v 0 7 ≠ 15 := fun h =>
    absurd ((bits_within h 0 6 (by decide)).symm.trans e0) (by decide)
  rw [major_11 hM]
  simp (decide := true) only [decode11, fd, fa, fb, fk, fw, fx, e0, n0, n1, n2, reduceIte,
    Nat.reduceEqDiff, and_self, and_true, true_and, and_false, false_and]

theorem Encoding.vadds (d : BitVec 5) (a : BitVec 5) (b : BitVec 5) (k : BitVec 3) (w : BitVec 1) :
    Encoding.Statement (.vadds d a b k w) := by
  refine layout_c7_f1_f3_f5_f5_f5 0x48000000 18 0 d a b k w rfl (by decide) (by decide) (by decide) ?_
  intro v hM fd fa fb fk fw e0
  rw [major_12 hM]
  simp (decide := true) only [decode12, fd, fa, fb, fk, fw, e0, reduceIte,
    Nat.reduceEqDiff, and_self, and_true, true_and, and_false, false_and]

theorem Encoding.vsubs (d : BitVec 5) (a : BitVec 5) (b : BitVec 5) (k : BitVec 3) (w : BitVec 1) :
    Encoding.Statement (.vsubs d a b k w) := by
  refine layout_c7_f1_f3_f5_f5_f5 0x48000001 18 1 d a b k w rfl (by decide) (by decide) (by decide) ?_
  intro v hM fd fa fb fk fw e0
  rw [major_12 hM]
  simp (decide := true) only [decode12, fd, fa, fb, fk, fw, e0, reduceIte,
    Nat.reduceEqDiff, and_self, and_true, true_and, and_false, false_and]

theorem Encoding.vmuls (d : BitVec 5) (a : BitVec 5) (b : BitVec 5) (k : BitVec 3) (w : BitVec 1) :
    Encoding.Statement (.vmuls d a b k w) := by
  refine layout_c7_f1_f3_f5_f5_f5 0x48000002 18 2 d a b k w rfl (by decide) (by decide) (by decide) ?_
  intro v hM fd fa fb fk fw e0
  rw [major_12 hM]
  simp (decide := true) only [decode12, fd, fa, fb, fk, fw, e0, reduceIte,
    Nat.reduceEqDiff, and_self, and_true, true_and, and_false, false_and]

theorem Encoding.vfmas (d : BitVec 5) (a : BitVec 5) (b : BitVec 5) (k : BitVec 3) (w : BitVec 1) :
    Encoding.Statement (.vfmas d a b k w) := by
  refine layout_c7_f1_f3_f5_f5_f5 0x48000003 18 3 d a b k w rfl (by decide) (by decide) (by decide) ?_
  intro v hM fd fa fb fk fw e0
  rw [major_12 hM]
  simp (decide := true) only [decode12, fd, fa, fb, fk, fw, e0, reduceIte,
    Nat.reduceEqDiff, and_self, and_true, true_and, and_false, false_and]

theorem Encoding.vmins (d : BitVec 5) (a : BitVec 5) (b : BitVec 5) (k : BitVec 3) (w : BitVec 1) :
    Encoding.Statement (.vmins d a b k w) := by
  refine layout_c7_f1_f3_f5_f5_f5 0x48000004 18 4 d a b k w rfl (by decide) (by decide) (by decide) ?_
  intro v hM fd fa fb fk fw e0
  rw [major_12 hM]
  simp (decide := true) only [decode12, fd, fa, fb, fk, fw, e0, reduceIte,
    Nat.reduceEqDiff, and_self, and_true, true_and, and_false, false_and]

theorem Encoding.vmaxs (d : BitVec 5) (a : BitVec 5) (b : BitVec 5) (k : BitVec 3) (w : BitVec 1) :
    Encoding.Statement (.vmaxs d a b k w) := by
  refine layout_c7_f1_f3_f5_f5_f5 0x48000005 18 5 d a b k w rfl (by decide) (by decide) (by decide) ?_
  intro v hM fd fa fb fk fw e0
  rw [major_12 hM]
  simp (decide := true) only [decode12, fd, fa, fb, fk, fw, e0, reduceIte,
    Nat.reduceEqDiff, and_self, and_true, true_and, and_false, false_and]

theorem Encoding.vands (d : BitVec 5) (a : BitVec 5) (b : BitVec 5) (k : BitVec 3) (w : BitVec 1) :
    Encoding.Statement (.vands d a b k w) := by
  refine layout_c7_f1_f3_f5_f5_f5 0x48000008 18 8 d a b k w rfl (by decide) (by decide) (by decide) ?_
  intro v hM fd fa fb fk fw e0
  rw [major_12 hM]
  simp (decide := true) only [decode12, fd, fa, fb, fk, fw, e0, reduceIte,
    Nat.reduceEqDiff, and_self, and_true, true_and, and_false, false_and]

theorem Encoding.vors (d : BitVec 5) (a : BitVec 5) (b : BitVec 5) (k : BitVec 3) (w : BitVec 1) :
    Encoding.Statement (.vors d a b k w) := by
  refine layout_c7_f1_f3_f5_f5_f5 0x48000009 18 9 d a b k w rfl (by decide) (by decide) (by decide) ?_
  intro v hM fd fa fb fk fw e0
  rw [major_12 hM]
  simp (decide := true) only [decode12, fd, fa, fb, fk, fw, e0, reduceIte,
    Nat.reduceEqDiff, and_self, and_true, true_and, and_false, false_and]

theorem Encoding.vxors (d : BitVec 5) (a : BitVec 5) (b : BitVec 5) (k : BitVec 3) (w : BitVec 1) :
    Encoding.Statement (.vxors d a b k w) := by
  refine layout_c7_f1_f3_f5_f5_f5 0x4800000a 18 10 d a b k w rfl (by decide) (by decide) (by decide) ?_
  intro v hM fd fa fb fk fw e0
  rw [major_12 hM]
  simp (decide := true) only [decode12, fd, fa, fb, fk, fw, e0, reduceIte,
    Nat.reduceEqDiff, and_self, and_true, true_and, and_false, false_and]

theorem Encoding.vshls (d : BitVec 5) (a : BitVec 5) (b : BitVec 5) (k : BitVec 3) (w : BitVec 1) :
    Encoding.Statement (.vshls d a b k w) := by
  refine layout_c7_f1_f3_f5_f5_f5 0x4800000b 18 11 d a b k w rfl (by decide) (by decide) (by decide) ?_
  intro v hM fd fa fb fk fw e0
  rw [major_12 hM]
  simp (decide := true) only [decode12, fd, fa, fb, fk, fw, e0, reduceIte,
    Nat.reduceEqDiff, and_self, and_true, true_and, and_false, false_and]

theorem Encoding.vshrs (d : BitVec 5) (a : BitVec 5) (b : BitVec 5) (k : BitVec 3) (w : BitVec 1) :
    Encoding.Statement (.vshrs d a b k w) := by
  refine layout_c7_f1_f3_f5_f5_f5 0x4800000c 18 12 d a b k w rfl (by decide) (by decide) (by decide) ?_
  intro v hM fd fa fb fk fw e0
  rw [major_12 hM]
  simp (decide := true) only [decode12, fd, fa, fb, fk, fw, e0, reduceIte,
    Nat.reduceEqDiff, and_self, and_true, true_and, and_false, false_and]

theorem Encoding.vsels (d : BitVec 5) (a : BitVec 5) (b : BitVec 5) (k : BitVec 3) (w : BitVec 1) :
    Encoding.Statement (.vsels d a b k w) := by
  refine layout_c7_f1_f3_f5_f5_f5 0x48000010 18 16 d a b k w rfl (by decide) (by decide) (by decide) ?_
  intro v hM fd fa fb fk fw e0
  rw [major_12 hM]
  simp (decide := true) only [decode12, fd, fa, fb, fk, fw, e0, reduceIte,
    Nat.reduceEqDiff, and_self, and_true, true_and, and_false, false_and]

theorem Encoding.vceq (d : BitVec 3) (a : BitVec 5) (b : BitVec 5) (k : BitVec 3) (w : BitVec 1) (x : BitVec 1) :
    Encoding.Statement (.vceq d a b k w x) := by
  refine layout_c6_f1_f1_f3_f5_f5_f3_c2 0x4c000000 19 0 0 d a b k w x rfl (by decide) (by decide) (by decide) (by
      decide) ?_
  intro v hM fd fa fb fk fw fx e0 e24
  rw [major_13 hM]
  simp (decide := true) only [decode13, fd, fa, fb, fk, fw, fx, e24, e0, reduceIte,
    Nat.reduceEqDiff, and_self, and_true, true_and, and_false, false_and]

theorem Encoding.vcne (d : BitVec 3) (a : BitVec 5) (b : BitVec 5) (k : BitVec 3) (w : BitVec 1) (x : BitVec 1) :
    Encoding.Statement (.vcne d a b k w x) := by
  refine layout_c6_f1_f1_f3_f5_f5_f3_c2 0x4c000001 19 1 0 d a b k w x rfl (by decide) (by decide) (by decide) (by
      decide) ?_
  intro v hM fd fa fb fk fw fx e0 e24
  rw [major_13 hM]
  simp (decide := true) only [decode13, fd, fa, fb, fk, fw, fx, e0, e24, reduceIte,
    Nat.reduceEqDiff, and_self, and_true, true_and, and_false, false_and]

theorem Encoding.vclt (d : BitVec 3) (a : BitVec 5) (b : BitVec 5) (k : BitVec 3) (w : BitVec 1) (x : BitVec 1) :
    Encoding.Statement (.vclt d a b k w x) := by
  refine layout_c6_f1_f1_f3_f5_f5_f3_c2 0x4c000002 19 2 0 d a b k w x rfl (by decide) (by decide) (by decide) (by
      decide) ?_
  intro v hM fd fa fb fk fw fx e0 e24
  rw [major_13 hM]
  simp (decide := true) only [decode13, fd, fa, fb, fk, fw, fx, e0, e24, reduceIte,
    Nat.reduceEqDiff, and_self, and_true, true_and, and_false, false_and]

theorem Encoding.vcge (d : BitVec 3) (a : BitVec 5) (b : BitVec 5) (k : BitVec 3) (w : BitVec 1) (x : BitVec 1) :
    Encoding.Statement (.vcge d a b k w x) := by
  refine layout_c6_f1_f1_f3_f5_f5_f3_c2 0x4c000003 19 3 0 d a b k w x rfl (by decide) (by decide) (by decide) (by
      decide) ?_
  intro v hM fd fa fb fk fw fx e0 e24
  rw [major_13 hM]
  simp (decide := true) only [decode13, fd, fa, fb, fk, fw, fx, e0, e24, reduceIte,
    Nat.reduceEqDiff, and_self, and_true, true_and, and_false, false_and]

theorem Encoding.vceqs (d : BitVec 3) (a : BitVec 5) (b : BitVec 5) (k : BitVec 3) (w : BitVec 1) (x : BitVec 1) :
    Encoding.Statement (.vceqs d a b k w x) := by
  refine layout_c6_f1_f1_f3_f5_f5_f3_c2 0x4c000004 19 4 0 d a b k w x rfl (by decide) (by decide) (by decide) (by
      decide) ?_
  intro v hM fd fa fb fk fw fx e0 e24
  rw [major_13 hM]
  simp (decide := true) only [decode13, fd, fa, fb, fk, fw, fx, e0, e24, reduceIte,
    Nat.reduceEqDiff, and_self, and_true, true_and, and_false, false_and]

theorem Encoding.vcnes (d : BitVec 3) (a : BitVec 5) (b : BitVec 5) (k : BitVec 3) (w : BitVec 1) (x : BitVec 1) :
    Encoding.Statement (.vcnes d a b k w x) := by
  refine layout_c6_f1_f1_f3_f5_f5_f3_c2 0x4c000005 19 5 0 d a b k w x rfl (by decide) (by decide) (by decide) (by
      decide) ?_
  intro v hM fd fa fb fk fw fx e0 e24
  rw [major_13 hM]
  simp (decide := true) only [decode13, fd, fa, fb, fk, fw, fx, e0, e24, reduceIte,
    Nat.reduceEqDiff, and_self, and_true, true_and, and_false, false_and]

theorem Encoding.vclts (d : BitVec 3) (a : BitVec 5) (b : BitVec 5) (k : BitVec 3) (w : BitVec 1) (x : BitVec 1) :
    Encoding.Statement (.vclts d a b k w x) := by
  refine layout_c6_f1_f1_f3_f5_f5_f3_c2 0x4c000006 19 6 0 d a b k w x rfl (by decide) (by decide) (by decide) (by
      decide) ?_
  intro v hM fd fa fb fk fw fx e0 e24
  rw [major_13 hM]
  simp (decide := true) only [decode13, fd, fa, fb, fk, fw, fx, e0, e24, reduceIte,
    Nat.reduceEqDiff, and_self, and_true, true_and, and_false, false_and]

theorem Encoding.vcges (d : BitVec 3) (a : BitVec 5) (b : BitVec 5) (k : BitVec 3) (w : BitVec 1) (x : BitVec 1) :
    Encoding.Statement (.vcges d a b k w x) := by
  refine layout_c6_f1_f1_f3_f5_f5_f3_c2 0x4c000007 19 7 0 d a b k w x rfl (by decide) (by decide) (by decide) (by
      decide) ?_
  intro v hM fd fa fb fk fw fx e0 e24
  rw [major_13 hM]
  simp (decide := true) only [decode13, fd, fa, fb, fk, fw, fx, e0, e24, reduceIte,
    Nat.reduceEqDiff, and_self, and_true, true_and, and_false, false_and]

theorem Encoding.mand (d : BitVec 3) (a : BitVec 3) (b : BitVec 3) :
    Encoding.Statement (.mand d a b) := by
  refine layout_c11_f3_c2_f3_c2_f3_c2 0x50000000 20 0 0 0 0 d a b rfl (by decide) (by decide) (by decide) (by
      decide) (by decide) (by decide) ?_
  intro v hM fd fa fb e0 e14 e19 e24
  rw [major_14 hM]
  simp (decide := true) only [decode14, fd, fa, fb, e24, e19, e14, e0, reduceIte,
    Nat.reduceEqDiff, and_self, and_true, true_and, and_false, false_and]

theorem Encoding.mor (d : BitVec 3) (a : BitVec 3) (b : BitVec 3) :
    Encoding.Statement (.mor d a b) := by
  refine layout_c11_f3_c2_f3_c2_f3_c2 0x50000001 20 1 0 0 0 d a b rfl (by decide) (by decide) (by decide) (by
      decide) (by decide) (by decide) ?_
  intro v hM fd fa fb e0 e14 e19 e24
  rw [major_14 hM]
  simp (decide := true) only [decode14, fd, fa, fb, e0, e24, e19, e14, reduceIte,
    Nat.reduceEqDiff, and_self, and_true, true_and, and_false, false_and]

theorem Encoding.mxor (d : BitVec 3) (a : BitVec 3) (b : BitVec 3) :
    Encoding.Statement (.mxor d a b) := by
  refine layout_c11_f3_c2_f3_c2_f3_c2 0x50000002 20 2 0 0 0 d a b rfl (by decide) (by decide) (by decide) (by
      decide) (by decide) (by decide) ?_
  intro v hM fd fa fb e0 e14 e19 e24
  rw [major_14 hM]
  simp (decide := true) only [decode14, fd, fa, fb, e0, e24, e19, e14, reduceIte,
    Nat.reduceEqDiff, and_self, and_true, true_and, and_false, false_and]

theorem Encoding.mnot (d : BitVec 3) (a : BitVec 3) :
    Encoding.Statement (.mnot d a) := by
  refine layout_c16_f3_c2_f3_c2 0x50000003 20 3 0 0 d a rfl (by decide) (by decide) (by decide) (by decide) (by
      decide) ?_
  intro v hM fd fa e0 e19 e24
  have t0_11 : bits v 0 11 = 3 := bits_within e0 0 11 (by decide)
  rw [major_14 hM]
  simp (decide := true) only [decode14, fd, fa, t0_11, e24, e19, e0, reduceIte,
    Nat.reduceEqDiff, and_self, and_true, true_and, and_false, false_and]

theorem Encoding.mpop (d : BitVec 5) (a : BitVec 3) :
    Encoding.Statement (.mpop d a) := by
  refine layout_c16_f3_c2_f5 0x50000004 20 4 0 d a rfl (by decide) (by decide) (by decide) (by decide) ?_
  intro v hM fd fa e0 e19
  have t0_11 : bits v 0 11 = 4 := bits_within e0 0 11 (by decide)
  rw [major_14 hM]
  simp (decide := true) only [decode14, fd, fa, t0_11, e0, e19, reduceIte,
    Nat.reduceEqDiff, and_self, and_true, true_and, and_false, false_and]

theorem Encoding.mfirst (d : BitVec 5) (a : BitVec 3) :
    Encoding.Statement (.mfirst d a) := by
  refine layout_c16_f3_c2_f5 0x50000005 20 5 0 d a rfl (by decide) (by decide) (by decide) (by decide) ?_
  intro v hM fd fa e0 e19
  have t0_11 : bits v 0 11 = 5 := bits_within e0 0 11 (by decide)
  rw [major_14 hM]
  simp (decide := true) only [decode14, fd, fa, t0_11, e0, e19, reduceIte,
    Nat.reduceEqDiff, and_self, and_true, true_and, and_false, false_and]

theorem Encoding.mshup (d : BitVec 3) (a : BitVec 3) :
    Encoding.Statement (.mshup d a) := by
  refine layout_c16_f3_c2_f3_c2 0x50000006 20 6 0 0 d a rfl (by decide) (by decide) (by decide) (by decide) (by
      decide) ?_
  intro v hM fd fa e0 e19 e24
  have t0_11 : bits v 0 11 = 6 := bits_within e0 0 11 (by decide)
  rw [major_14 hM]
  simp (decide := true) only [decode14, fd, fa, t0_11, e0, e24, e19, reduceIte,
    Nat.reduceEqDiff, and_self, and_true, true_and, and_false, false_and]

theorem Encoding.mset (d : BitVec 3) :
    Encoding.Statement (.mset d) := by
  refine layout_c21_f3_c2 0x50000007 20 7 0 d rfl (by decide) (by decide) (by decide) (by decide) ?_
  intro v hM fd e0 e24
  have t0_11 : bits v 0 11 = 7 := bits_within e0 0 11 (by decide)
  have t0_16 : bits v 0 16 = 7 := bits_within e0 0 16 (by decide)
  rw [major_14 hM]
  simp (decide := true) only [decode14, fd, t0_11, t0_16, e24, e0, reduceIte,
    Nat.reduceEqDiff, and_self, and_true, true_and, and_false, false_and]

theorem Encoding.mclr (d : BitVec 3) :
    Encoding.Statement (.mclr d) := by
  refine layout_c21_f3_c2 0x50000008 20 8 0 d rfl (by decide) (by decide) (by decide) (by decide) ?_
  intro v hM fd e0 e24
  have t0_11 : bits v 0 11 = 8 := bits_within e0 0 11 (by decide)
  have t0_16 : bits v 0 16 = 8 := bits_within e0 0 16 (by decide)
  rw [major_14 hM]
  simp (decide := true) only [decode14, fd, t0_11, t0_16, e0, e24, reduceIte,
    Nat.reduceEqDiff, and_self, and_true, true_and, and_false, false_and]

theorem Encoding.vslideup (d : BitVec 5) (a : BitVec 5) (b : BitVec 5) (k : BitVec 3) (w : BitVec 1) :
    Encoding.Statement (.vslideup d a b k w) := by
  refine layout_c7_f1_f3_f5_f5_f5 0x54000000 21 0 d a b k w rfl (by decide) (by decide) (by decide) ?_
  intro v hM fd fa fb fk fw e0
  rw [major_15 hM]
  simp (decide := true) only [decode15, fd, fa, fb, fk, fw, e0, reduceIte,
    Nat.reduceEqDiff, and_self, and_true, true_and, and_false, false_and]

theorem Encoding.vslidedn (d : BitVec 5) (a : BitVec 5) (b : BitVec 5) (k : BitVec 3) (w : BitVec 1) :
    Encoding.Statement (.vslidedn d a b k w) := by
  refine layout_c7_f1_f3_f5_f5_f5 0x54000001 21 1 d a b k w rfl (by decide) (by decide) (by decide) ?_
  intro v hM fd fa fb fk fw e0
  rw [major_15 hM]
  simp (decide := true) only [decode15, fd, fa, fb, fk, fw, e0, reduceIte,
    Nat.reduceEqDiff, and_self, and_true, true_and, and_false, false_and]

theorem Encoding.vgath (d : BitVec 5) (a : BitVec 5) (b : BitVec 5) (k : BitVec 3) (w : BitVec 1) (x : BitVec 1) :
    Encoding.Statement (.vgath d a b k w x) := by
  refine layout_c6_f1_f1_f3_f5_f5_f5 0x54000002 21 2 d a b k w x rfl (by decide) (by decide) (by decide) ?_
  intro v hM fd fa fb fk fw fx e0
  have n0 : bits v 0 7 ≠ 0 := fun h =>
    absurd ((bits_within h 0 6 (by decide)).symm.trans e0) (by decide)
  have n1 : bits v 0 7 ≠ 1 := fun h =>
    absurd ((bits_within h 0 6 (by decide)).symm.trans e0) (by decide)
  rw [major_15 hM]
  simp (decide := true) only [decode15, fd, fa, fb, fk, fw, fx, e0, n0, n1, reduceIte,
    Nat.reduceEqDiff, and_self, and_true, true_and, and_false, false_and]

theorem Encoding.vcomp (d : BitVec 5) (a : BitVec 5) (b : BitVec 5) (k : BitVec 3) (w : BitVec 1) :
    Encoding.Statement (.vcomp d a b k w) := by
  refine layout_c7_f1_f3_f5_f5_f5 0x54000003 21 3 d a b k w rfl (by decide) (by decide) (by decide) ?_
  intro v hM fd fa fb fk fw e0
  have t0_6 : bits v 0 6 = 3 := bits_within e0 0 6 (by decide)
  rw [major_15 hM]
  simp (decide := true) only [decode15, fd, fa, fb, fk, fw, e0, t0_6, reduceIte,
    Nat.reduceEqDiff, and_self, and_true, true_and, and_false, false_and]

theorem Encoding.vexpd (d : BitVec 5) (a : BitVec 5) (k : BitVec 3) (w : BitVec 1) :
    Encoding.Statement (.vexpd d a k w) := by
  refine layout_c7_f1_f3_c5_f5_f5 0x54000004 21 4 0 d a k w rfl (by decide) (by decide) (by decide) (by decide) ?_
  intro v hM fd fa fk fw e0 e11
  have t0_6 : bits v 0 6 = 4 := bits_within e0 0 6 (by decide)
  rw [major_15 hM]
  simp (decide := true) only [decode15, fd, fa, fk, fw, e0, t0_6, e11, reduceIte,
    Nat.reduceEqDiff, and_self, and_true, true_and, and_false, false_and]

theorem Encoding.vbcast (d : BitVec 5) (b : BitVec 5) (k : BitVec 3) :
    Encoding.Statement (.vbcast d b k) := by
  refine layout_c8_f3_f5_c5_f5 0x54000005 21 5 0 d b k rfl (by decide) (by decide) (by decide) (by decide) ?_
  intro v hM fd fb fk e0 e16
  have t0_7 : bits v 0 7 = 5 := bits_within e0 0 7 (by decide)
  have t0_6 : bits v 0 6 = 5 := bits_within e0 0 6 (by decide)
  rw [major_15 hM]
  simp (decide := true) only [decode15, fd, fb, fk, t0_7, t0_6, e16, e0, reduceIte,
    Nat.reduceEqDiff, and_self, and_true, true_and, and_false, false_and]

theorem Encoding.vidx (d : BitVec 5) (k : BitVec 3) :
    Encoding.Statement (.vidx d k) := by
  refine layout_c8_f3_c10_f5 0x54000006 21 6 0 d k rfl (by decide) (by decide) (by decide) (by decide) ?_
  intro v hM fd fk e0 e11
  have t0_7 : bits v 0 7 = 6 := bits_within e0 0 7 (by decide)
  have t0_6 : bits v 0 6 = 6 := bits_within e0 0 6 (by decide)
  rw [major_15 hM]
  simp (decide := true) only [decode15, fd, fk, t0_7, t0_6, e0, e11, reduceIte,
    Nat.reduceEqDiff, and_self, and_true, true_and, and_false, false_and]

theorem Encoding.vrsum (d : BitVec 5) (a : BitVec 5) (k : BitVec 3) (w : BitVec 1) :
    Encoding.Statement (.vrsum d a k w) := by
  refine layout_c7_f1_f3_c5_f5_f5 0x58000000 22 0 0 d a k w rfl (by decide) (by decide) (by decide) (by decide) ?_
  intro v hM fd fa fk fw e0 e11
  rw [major_16 hM]
  simp (decide := true) only [decode16, fd, fa, fk, fw, e11, e0, reduceIte,
    Nat.reduceEqDiff, and_self, and_true, true_and, and_false, false_and]

theorem Encoding.vrmax (d : BitVec 5) (a : BitVec 5) (k : BitVec 3) (w : BitVec 1) :
    Encoding.Statement (.vrmax d a k w) := by
  refine layout_c7_f1_f3_c5_f5_f5 0x58000001 22 1 0 d a k w rfl (by decide) (by decide) (by decide) (by decide) ?_
  intro v hM fd fa fk fw e0 e11
  rw [major_16 hM]
  simp (decide := true) only [decode16, fd, fa, fk, fw, e0, e11, reduceIte,
    Nat.reduceEqDiff, and_self, and_true, true_and, and_false, false_and]

theorem Encoding.vrmin (d : BitVec 5) (a : BitVec 5) (k : BitVec 3) (w : BitVec 1) :
    Encoding.Statement (.vrmin d a k w) := by
  refine layout_c7_f1_f3_c5_f5_f5 0x58000002 22 2 0 d a k w rfl (by decide) (by decide) (by decide) (by decide) ?_
  intro v hM fd fa fk fw e0 e11
  rw [major_16 hM]
  simp (decide := true) only [decode16, fd, fa, fk, fw, e0, e11, reduceIte,
    Nat.reduceEqDiff, and_self, and_true, true_and, and_false, false_and]

theorem Encoding.vsmaxe (d : BitVec 5) (a : BitVec 5) (k : BitVec 3) (w : BitVec 1) :
    Encoding.Statement (.vsmaxe d a k w) := by
  refine layout_c7_f1_f3_c5_f5_f5 0x58000003 22 3 0 d a k w rfl (by decide) (by decide) (by decide) (by decide) ?_
  intro v hM fd fa fk fw e0 e11
  rw [major_16 hM]
  simp (decide := true) only [decode16, fd, fa, fk, fw, e0, e11, reduceIte,
    Nat.reduceEqDiff, and_self, and_true, true_and, and_false, false_and]

theorem Encoding.vcvt (d : BitVec 5) (a : BitVec 5) (k : BitVec 3) (w : BitVec 1) :
    Encoding.Statement (.vcvt d a k w) := by
  refine layout_c7_f1_f3_c5_f5_f5 0x5c000000 23 0 0 d a k w rfl (by decide) (by decide) (by decide) (by decide) ?_
  intro v hM fd fa fk fw e0 e11
  rw [major_17 hM]
  simp (decide := true) only [decode17, fd, fa, fk, fw, e11, e0, reduceIte,
    Nat.reduceEqDiff, and_self, and_true, true_and, and_false, false_and]

theorem Encoding.vquant (d : BitVec 5) (a : BitVec 5) (b : BitVec 5) (k : BitVec 3) (w : BitVec 1) :
    Encoding.Statement (.vquant d a b k w) := by
  refine layout_c7_f1_f3_f5_f5_f5 0x5c000001 23 1 d a b k w rfl (by decide) (by decide) (by decide) ?_
  intro v hM fd fa fb fk fw e0
  rw [major_17 hM]
  simp (decide := true) only [decode17, fd, fa, fb, fk, fw, e0, reduceIte,
    Nat.reduceEqDiff, and_self, and_true, true_and, and_false, false_and]

theorem Encoding.vdeq (d : BitVec 5) (a : BitVec 5) (b : BitVec 5) (k : BitVec 3) (w : BitVec 1) :
    Encoding.Statement (.vdeq d a b k w) := by
  refine layout_c7_f1_f3_f5_f5_f5 0x5c000002 23 2 d a b k w rfl (by decide) (by decide) (by decide) ?_
  intro v hM fd fa fb fk fw e0
  rw [major_17 hM]
  simp (decide := true) only [decode17, fd, fa, fb, fk, fw, e0, reduceIte,
    Nat.reduceEqDiff, and_self, and_true, true_and, and_false, false_and]

theorem Encoding.vpack (d : BitVec 5) (a : BitVec 5) (k : BitVec 3) (w : BitVec 1) :
    Encoding.Statement (.vpack d a k w) := by
  refine layout_c7_f1_f3_c5_f5_f5 0x5c000003 23 3 0 d a k w rfl (by decide) (by decide) (by decide) (by decide) ?_
  intro v hM fd fa fk fw e0 e11
  rw [major_17 hM]
  simp (decide := true) only [decode17, fd, fa, fk, fw, e0, e11, reduceIte,
    Nat.reduceEqDiff, and_self, and_true, true_and, and_false, false_and]

theorem Encoding.vunpk (d : BitVec 5) (a : BitVec 5) (k : BitVec 3) (w : BitVec 1) :
    Encoding.Statement (.vunpk d a k w) := by
  refine layout_c7_f1_f3_c5_f5_f5 0x5c000004 23 4 0 d a k w rfl (by decide) (by decide) (by decide) (by decide) ?_
  intro v hM fd fa fk fw e0 e11
  rw [major_17 hM]
  simp (decide := true) only [decode17, fd, fa, fk, fw, e0, e11, reduceIte,
    Nat.reduceEqDiff, and_self, and_true, true_and, and_false, false_and]

theorem Encoding.rotc (p : BitVec 4) (z : BitVec 5) (n : BitVec 6) (k : BitVec 3) (w : BitVec 1) (x : BitVec 1) :
    Encoding.Statement (.rotc p z n k w x) := by
  refine layout_c1_f1_f1_f3_c4_f6_f5_c1_f4 0x60000000 24 0 0 0 p z n k w x rfl (by decide) (by decide) (by decide)
      (by decide) (by decide) ?_
  intro v hM fp fz fn fk fw fx e0 e6 e21
  rw [major_18 hM]
  simp (decide := true) only [decode18, fp, fz, fn, fk, fw, fx, e21, e6, e0, reduceIte,
    Nat.reduceEqDiff, and_self, and_true, true_and, and_false, false_and]

theorem Encoding.rotcG (p : BitVec 4) (z : BitVec 5) (n : BitVec 6) (k : BitVec 3) (w : BitVec 1) (x : BitVec 1) :
    Encoding.Statement (.rotcG p z n k w x) := by
  refine layout_c1_f1_f1_f3_c4_f6_f5_c1_f4 0x60000040 24 0 1 0 p z n k w x rfl (by decide) (by decide) (by decide)
      (by decide) (by decide) ?_
  intro v hM fp fz fn fk fw fx e0 e6 e21
  rw [major_18 hM]
  simp (decide := true) only [decode18, fp, fz, fn, fk, fw, fx, e6, e21, e0, reduceIte,
    Nat.reduceEqDiff, and_self, and_true, true_and, and_false, false_and]

theorem Encoding.rotl (p : BitVec 4) (z : BitVec 5) (n : BitVec 6) (k : BitVec 3) (w : BitVec 1) (x : BitVec 1) :
    Encoding.Statement (.rotl p z n k w x) := by
  refine layout_c1_f1_f1_f3_c4_f6_f5_c1_f4 0x60000100 24 0 4 0 p z n k w x rfl (by decide) (by decide) (by decide)
      (by decide) (by decide) ?_
  intro v hM fp fz fn fk fw fx e0 e6 e21
  rw [major_18 hM]
  simp (decide := true) only [decode18, fp, fz, fn, fk, fw, fx, e6, e21, e0, reduceIte,
    Nat.reduceEqDiff, and_self, and_true, true_and, and_false, false_and]

theorem Encoding.rotlG (p : BitVec 4) (z : BitVec 5) (n : BitVec 6) (k : BitVec 3) (w : BitVec 1) (x : BitVec 1) :
    Encoding.Statement (.rotlG p z n k w x) := by
  refine layout_c1_f1_f1_f3_c4_f6_f5_c1_f4 0x60000140 24 0 5 0 p z n k w x rfl (by decide) (by decide) (by decide)
      (by decide) (by decide) ?_
  intro v hM fp fz fn fk fw fx e0 e6 e21
  rw [major_18 hM]
  simp (decide := true) only [decode18, fp, fz, fn, fk, fw, fx, e6, e21, e0, reduceIte,
    Nat.reduceEqDiff, and_self, and_true, true_and, and_false, false_and]

theorem Encoding.roth (p : BitVec 4) (z : BitVec 5) (n : BitVec 6) (k : BitVec 3) (w : BitVec 1) (x : BitVec 1) :
    Encoding.Statement (.roth p z n k w x) := by
  refine layout_c1_f1_f1_f3_c4_f6_f5_c1_f4 0x60000200 24 0 8 0 p z n k w x rfl (by decide) (by decide) (by decide)
      (by decide) (by decide) ?_
  intro v hM fp fz fn fk fw fx e0 e6 e21
  rw [major_18 hM]
  simp (decide := true) only [decode18, fp, fz, fn, fk, fw, fx, e6, e21, e0, reduceIte,
    Nat.reduceEqDiff, and_self, and_true, true_and, and_false, false_and]

theorem Encoding.rothG (p : BitVec 4) (z : BitVec 5) (n : BitVec 6) (k : BitVec 3) (w : BitVec 1) (x : BitVec 1) :
    Encoding.Statement (.rothG p z n k w x) := by
  refine layout_c1_f1_f1_f3_c4_f6_f5_c1_f4 0x60000240 24 0 9 0 p z n k w x rfl (by decide) (by decide) (by decide)
      (by decide) (by decide) ?_
  intro v hM fp fz fn fk fw fx e0 e6 e21
  rw [major_18 hM]
  simp (decide := true) only [decode18, fp, fz, fn, fk, fw, fx, e6, e21, e0, reduceIte,
    Nat.reduceEqDiff, and_self, and_true, true_and, and_false, false_and]

theorem Encoding.vtac (p : BitVec 4) (z : BitVec 5) (n : BitVec 6) (k : BitVec 3) (w : BitVec 1) (x : BitVec 1) :
    Encoding.Statement (.vtac p z n k w x) := by
  refine layout_c1_f1_f1_f3_c4_f6_f5_c1_f4 0x60000080 24 0 2 0 p z n k w x rfl (by decide) (by decide) (by decide)
      (by decide) (by decide) ?_
  intro v hM fp fz fn fk fw fx e0 e6 e21
  rw [major_18 hM]
  simp (decide := true) only [decode18, fp, fz, fn, fk, fw, fx, e6, e21, e0, reduceIte,
    Nat.reduceEqDiff, and_self, and_true, true_and, and_false, false_and]

theorem Encoding.vtacG (p : BitVec 4) (z : BitVec 5) (n : BitVec 6) (k : BitVec 3) (w : BitVec 1) (x : BitVec 1) :
    Encoding.Statement (.vtacG p z n k w x) := by
  refine layout_c1_f1_f1_f3_c4_f6_f5_c1_f4 0x600000c0 24 0 3 0 p z n k w x rfl (by decide) (by decide) (by decide)
      (by decide) (by decide) ?_
  intro v hM fp fz fn fk fw fx e0 e6 e21
  rw [major_18 hM]
  simp (decide := true) only [decode18, fp, fz, fn, fk, fw, fx, e6, e21, e0, reduceIte,
    Nat.reduceEqDiff, and_self, and_true, true_and, and_false, false_and]

theorem Encoding.vtal (p : BitVec 4) (z : BitVec 5) (n : BitVec 6) (k : BitVec 3) (w : BitVec 1) (x : BitVec 1) :
    Encoding.Statement (.vtal p z n k w x) := by
  refine layout_c1_f1_f1_f3_c4_f6_f5_c1_f4 0x60000180 24 0 6 0 p z n k w x rfl (by decide) (by decide) (by decide)
      (by decide) (by decide) ?_
  intro v hM fp fz fn fk fw fx e0 e6 e21
  rw [major_18 hM]
  simp (decide := true) only [decode18, fp, fz, fn, fk, fw, fx, e6, e21, e0, reduceIte,
    Nat.reduceEqDiff, and_self, and_true, true_and, and_false, false_and]

theorem Encoding.vtalG (p : BitVec 4) (z : BitVec 5) (n : BitVec 6) (k : BitVec 3) (w : BitVec 1) (x : BitVec 1) :
    Encoding.Statement (.vtalG p z n k w x) := by
  refine layout_c1_f1_f1_f3_c4_f6_f5_c1_f4 0x600001c0 24 0 7 0 p z n k w x rfl (by decide) (by decide) (by decide)
      (by decide) (by decide) ?_
  intro v hM fp fz fn fk fw fx e0 e6 e21
  rw [major_18 hM]
  simp (decide := true) only [decode18, fp, fz, fn, fk, fw, fx, e6, e21, e0, reduceIte,
    Nat.reduceEqDiff, and_self, and_true, true_and, and_false, false_and]

theorem Encoding.vtah (p : BitVec 4) (z : BitVec 5) (n : BitVec 6) (k : BitVec 3) (w : BitVec 1) (x : BitVec 1) :
    Encoding.Statement (.vtah p z n k w x) := by
  refine layout_c1_f1_f1_f3_c4_f6_f5_c1_f4 0x60000280 24 0 10 0 p z n k w x rfl (by decide) (by decide) (by decide)
      (by decide) (by decide) ?_
  intro v hM fp fz fn fk fw fx e0 e6 e21
  rw [major_18 hM]
  simp (decide := true) only [decode18, fp, fz, fn, fk, fw, fx, e6, e21, e0, reduceIte,
    Nat.reduceEqDiff, and_self, and_true, true_and, and_false, false_and]

theorem Encoding.vtahG (p : BitVec 4) (z : BitVec 5) (n : BitVec 6) (k : BitVec 3) (w : BitVec 1) (x : BitVec 1) :
    Encoding.Statement (.vtahG p z n k w x) := by
  refine layout_c1_f1_f1_f3_c4_f6_f5_c1_f4 0x600002c0 24 0 11 0 p z n k w x rfl (by decide) (by decide) (by decide)
      (by decide) (by decide) ?_
  intro v hM fp fz fn fk fw fx e0 e6 e21
  rw [major_18 hM]
  simp (decide := true) only [decode18, fp, fz, fn, fk, fw, fx, e6, e21, e0, reduceIte,
    Nat.reduceEqDiff, and_self, and_true, true_and, and_false, false_and]

theorem Encoding.vld (d : BitVec 5) (a : BitVec 5) (k : BitVec 3) (r : BitVec 1) :
    Encoding.Statement (.vld d a k r) := by
  refine layout_f1_c7_f3_c5_f5_f5 0x64000000 25 0 0 d a k r rfl (by decide) (by decide) (by decide) (by decide) ?_
  intro v hM fd fa fk fr e1 e11
  rw [major_19 hM]
  simp (decide := true) only [decode19, fd, fa, fk, fr, e11, e1, reduceIte,
    Nat.reduceEqDiff, and_self, and_true, true_and, and_false, false_and]

theorem Encoding.vlds (d : BitVec 5) (a : BitVec 5) (b : BitVec 5) (k : BitVec 3) (r : BitVec 1) :
    Encoding.Statement (.vlds d a b k r) := by
  refine layout_f1_c7_f3_f5_f5_f5 0x64000008 25 4 d a b k r rfl (by decide) (by decide) (by decide) ?_
  intro v hM fd fa fb fk fr e1
  rw [major_19 hM]
  simp (decide := true) only [decode19, fd, fa, fb, fk, fr, e1, reduceIte,
    Nat.reduceEqDiff, and_self, and_true, true_and, and_false, false_and]

theorem Encoding.vldx (d : BitVec 5) (a : BitVec 5) (b : BitVec 5) (k : BitVec 3) (x : BitVec 1) (r : BitVec 1) :
    Encoding.Statement (.vldx d a b k x r) := by
  refine layout_f1_c5_f1_c1_f3_f5_f5_f5 0x64000010 25 8 0 d a b k x r rfl (by decide) (by decide) (by decide) (by
      decide) ?_
  intro v hM fd fa fb fk fx fr e1 e7
  have n0 : bits v 1 7 ≠ 0 := fun h =>
    absurd ((bits_within h 0 5 (by decide)).symm.trans e1) (by decide)
  have n1 : bits v 1 7 ≠ 4 := fun h =>
    absurd ((bits_within h 0 5 (by decide)).symm.trans e1) (by decide)
  rw [major_19 hM]
  simp (decide := true) only [decode19, fd, fa, fb, fk, fx, fr, e1, e7, n0, n1, reduceIte,
    Nat.reduceEqDiff, and_self, and_true, true_and, and_false, false_and]

theorem Encoding.vldb (d : BitVec 5) (a : BitVec 5) (b : BitVec 5) (k : BitVec 3) (r : BitVec 1) :
    Encoding.Statement (.vldb d a b k r) := by
  refine layout_f1_c7_f3_f5_f5_f5 0x64000018 25 12 d a b k r rfl (by decide) (by decide) (by decide) ?_
  intro v hM fd fa fb fk fr e1
  have t1_5 : bits v 1 5 = 12 := bits_within e1 0 5 (by decide)
  rw [major_19 hM]
  simp (decide := true) only [decode19, fd, fa, fb, fk, fr, e1, t1_5, reduceIte,
    Nat.reduceEqDiff, and_self, and_true, true_and, and_false, false_and]

theorem Encoding.vldff (d : BitVec 5) (a : BitVec 5) (b : BitVec 5) (k : BitVec 3) (r : BitVec 1) :
    Encoding.Statement (.vldff d a b k r) := by
  refine layout_f1_c7_f3_f5_f5_f5 0x64000020 25 16 d a b k r rfl (by decide) (by decide) (by decide) ?_
  intro v hM fd fa fb fk fr e1
  have t1_5 : bits v 1 5 = 16 := bits_within e1 0 5 (by decide)
  rw [major_19 hM]
  simp (decide := true) only [decode19, fd, fa, fb, fk, fr, e1, t1_5, reduceIte,
    Nat.reduceEqDiff, and_self, and_true, true_and, and_false, false_and]

theorem Encoding.vldseg (d : BitVec 5) (a : BitVec 5) (k : BitVec 3) (f : BitVec 3) :
    Encoding.Statement (.vldseg d a k f) := by
  refine layout_f3_c5_f3_c5_f5_f5 0x64000028 25 5 0 d a k f rfl (by decide) (by decide) (by decide) (by decide) ?_
  intro v hM fd fa fk ff e3 e11
  have t3_3 : bits v 3 3 = 5 := bits_within e3 0 3 (by decide)
  have n0 : bits v 1 7 ≠ 0 := fun h =>
    absurd ((bits_within h 2 5 (by decide)).symm.trans e3) (by decide)
  have n1 : bits v 1 7 ≠ 4 := fun h =>
    absurd ((bits_within h 2 5 (by decide)).symm.trans e3) (by decide)
  have n2 : bits v 1 5 ≠ 8 := fun h =>
    absurd ((bits_within h 2 3 (by decide)).symm.trans t3_3) (by decide)
  have n3 : bits v 1 7 ≠ 12 := fun h =>
    absurd ((bits_within h 2 5 (by decide)).symm.trans e3) (by decide)
  have n4 : bits v 1 7 ≠ 16 := fun h =>
    absurd ((bits_within h 2 5 (by decide)).symm.trans e3) (by decide)
  rw [major_19 hM]
  simp (decide := true) only [decode19, fd, fa, fk, ff, e3, t3_3, e11, n0, n1, n2, n3, n4, reduceIte,
    Nat.reduceEqDiff, and_self, and_true, true_and, and_false, false_and]

theorem Encoding.vst (d : BitVec 5) (a : BitVec 5) (k : BitVec 3) (w : BitVec 1) :
    Encoding.Statement (.vst d a k w) := by
  refine layout_c7_f1_f3_c5_f5_f5 0x68000000 26 0 0 d a k w rfl (by decide) (by decide) (by decide) (by decide) ?_
  intro v hM fd fa fk fw e0 e11
  rw [major_1A hM]
  simp (decide := true) only [decode1A, fd, fa, fk, fw, e11, e0, reduceIte,
    Nat.reduceEqDiff, and_self, and_true, true_and, and_false, false_and]

theorem Encoding.vsts (d : BitVec 5) (a : BitVec 5) (b : BitVec 5) (k : BitVec 3) (w : BitVec 1) :
    Encoding.Statement (.vsts d a b k w) := by
  refine layout_c7_f1_f3_f5_f5_f5 0x68000008 26 8 d a b k w rfl (by decide) (by decide) (by decide) ?_
  intro v hM fd fa fb fk fw e0
  rw [major_1A hM]
  simp (decide := true) only [decode1A, fd, fa, fb, fk, fw, e0, reduceIte,
    Nat.reduceEqDiff, and_self, and_true, true_and, and_false, false_and]

theorem Encoding.vstx (d : BitVec 5) (a : BitVec 5) (b : BitVec 5) (k : BitVec 3) (w : BitVec 1) (x : BitVec 1) :
    Encoding.Statement (.vstx d a b k w x) := by
  refine layout_c6_f1_f1_f3_f5_f5_f5 0x68000010 26 16 d a b k w x rfl (by decide) (by decide) (by decide) ?_
  intro v hM fd fa fb fk fw fx e0
  have n0 : bits v 0 7 ≠ 0 := fun h =>
    absurd ((bits_within h 0 6 (by decide)).symm.trans e0) (by decide)
  have n1 : bits v 0 7 ≠ 8 := fun h =>
    absurd ((bits_within h 0 6 (by decide)).symm.trans e0) (by decide)
  rw [major_1A hM]
  simp (decide := true) only [decode1A, fd, fa, fb, fk, fw, fx, e0, n0, n1, reduceIte,
    Nat.reduceEqDiff, and_self, and_true, true_and, and_false, false_and]

theorem Encoding.vstb (d : BitVec 5) (a : BitVec 5) (b : BitVec 5) (k : BitVec 3) (w : BitVec 1) :
    Encoding.Statement (.vstb d a b k w) := by
  refine layout_c7_f1_f3_f5_f5_f5 0x68000018 26 24 d a b k w rfl (by decide) (by decide) (by decide) ?_
  intro v hM fd fa fb fk fw e0
  have t0_6 : bits v 0 6 = 24 := bits_within e0 0 6 (by decide)
  rw [major_1A hM]
  simp (decide := true) only [decode1A, fd, fa, fb, fk, fw, e0, t0_6, reduceIte,
    Nat.reduceEqDiff, and_self, and_true, true_and, and_false, false_and]

theorem Encoding.vstseg (d : BitVec 5) (a : BitVec 5) (k : BitVec 3) (w : BitVec 1) (f : BitVec 3) :
    Encoding.Statement (.vstseg d a k w f) := by
  refine layout_f3_c4_f1_f3_c5_f5_f5 0x68000028 26 5 0 d a k w f rfl (by decide) (by decide) (by decide) (by
      decide) ?_
  intro v hM fd fa fk fw ff e3 e11
  have t3_3 : bits v 3 3 = 5 := bits_within e3 0 3 (by decide)
  have n0 : bits v 0 7 ≠ 0 := fun h =>
    absurd ((bits_within h 3 4 (by decide)).symm.trans e3) (by decide)
  have n1 : bits v 0 7 ≠ 8 := fun h =>
    absurd ((bits_within h 3 4 (by decide)).symm.trans e3) (by decide)
  have n2 : bits v 0 6 ≠ 16 := fun h =>
    absurd ((bits_within h 3 3 (by decide)).symm.trans t3_3) (by decide)
  have n3 : bits v 0 7 ≠ 24 := fun h =>
    absurd ((bits_within h 3 4 (by decide)).symm.trans e3) (by decide)
  rw [major_1A hM]
  simp (decide := true) only [decode1A, fd, fa, fk, fw, ff, e3, t3_3, e11, n0, n1, n2, n3, reduceIte,
    Nat.reduceEqDiff, and_self, and_true, true_and, and_false, false_and]

theorem Encoding.vamoAdd (d : BitVec 5) (a : BitVec 5) (b : BitVec 5) (k : BitVec 3) (x : BitVec 1) (s : BitVec 3) :
    Encoding.Statement (.vamoAdd d a b k x s) := by
  refine layout_f3_c3_f1_c1_f3_f5_f5_f5 0x6c000000 27 0 0 d a b k x s rfl (by decide) (by decide) (by decide) (by
      decide) ?_
  intro v hM fd fa fb fk fx fs e3 e7
  rw [major_1B hM]
  simp (decide := true) only [decode1B, fd, fa, fb, fk, fx, fs, e7, e3, reduceIte,
    Nat.reduceEqDiff, and_self, and_true, true_and, and_false, false_and]

theorem Encoding.vamoMin (d : BitVec 5) (a : BitVec 5) (b : BitVec 5) (k : BitVec 3) (x : BitVec 1) (s : BitVec 3) :
    Encoding.Statement (.vamoMin d a b k x s) := by
  refine layout_f3_c3_f1_c1_f3_f5_f5_f5 0x6c000008 27 1 0 d a b k x s rfl (by decide) (by decide) (by decide) (by
      decide) ?_
  intro v hM fd fa fb fk fx fs e3 e7
  rw [major_1B hM]
  simp (decide := true) only [decode1B, fd, fa, fb, fk, fx, fs, e3, e7, reduceIte,
    Nat.reduceEqDiff, and_self, and_true, true_and, and_false, false_and]

theorem Encoding.vamoMax (d : BitVec 5) (a : BitVec 5) (b : BitVec 5) (k : BitVec 3) (x : BitVec 1) (s : BitVec 3) :
    Encoding.Statement (.vamoMax d a b k x s) := by
  refine layout_f3_c3_f1_c1_f3_f5_f5_f5 0x6c000010 27 2 0 d a b k x s rfl (by decide) (by decide) (by decide) (by
      decide) ?_
  intro v hM fd fa fb fk fx fs e3 e7
  rw [major_1B hM]
  simp (decide := true) only [decode1B, fd, fa, fb, fk, fx, fs, e3, e7, reduceIte,
    Nat.reduceEqDiff, and_self, and_true, true_and, and_false, false_and]

theorem Encoding.vamoSwap (d : BitVec 5) (a : BitVec 5) (b : BitVec 5) (k : BitVec 3) (x : BitVec 1) (s : BitVec 3) :
    Encoding.Statement (.vamoSwap d a b k x s) := by
  refine layout_f3_c3_f1_c1_f3_f5_f5_f5 0x6c000018 27 3 0 d a b k x s rfl (by decide) (by decide) (by decide) (by
      decide) ?_
  intro v hM fd fa fb fk fx fs e3 e7
  rw [major_1B hM]
  simp (decide := true) only [decode1B, fd, fa, fb, fk, fx, fs, e3, e7, reduceIte,
    Nat.reduceEqDiff, and_self, and_true, true_and, and_false, false_and]

theorem Encoding.accw (d : BitVec 5) (a : BitVec 5) (b : BitVec 5) :
    Encoding.Statement (.accw d a b) := by
  refine layout_c11_f5_f5_f5 0x6c000020 27 32 d a b rfl (by decide) (by decide) (by decide) ?_
  intro v hM fd fa fb e0
  have t3_3 : bits v 3 3 = 4 := bits_within e0 3 3 (by decide)
  rw [major_1B hM]
  simp (decide := true) only [decode1B, fd, fa, fb, t3_3, e0, reduceIte,
    Nat.reduceEqDiff, and_self, and_true, true_and, and_false, false_and]

theorem Encoding.vacc (d : BitVec 5) (a : BitVec 5) (b : BitVec 5) (k : BitVec 3) (w : BitVec 1) (x : BitVec 1) :
    Encoding.Statement (.vacc d a b k w x) := by
  refine layout_c6_f1_f1_f3_f5_f5_f5 0x6c000021 27 33 d a b k w x rfl (by decide) (by decide) (by decide) ?_
  intro v hM fd fa fb fk fw fx e0
  have t3_3 : bits v 3 3 = 4 := bits_within e0 3 3 (by decide)
  have n0 : bits v 0 11 ≠ 32 := fun h =>
    absurd ((bits_within h 0 6 (by decide)).symm.trans e0) (by decide)
  rw [major_1B hM]
  simp (decide := true) only [decode1B, fd, fa, fb, fk, fw, fx, t3_3, e0, n0, reduceIte,
    Nat.reduceEqDiff, and_self, and_true, true_and, and_false, false_and]

theorem Encoding.accm (d : BitVec 5) :
    Encoding.Statement (.accm d) := by
  refine layout_c21_f5 0x6c000022 27 34 d rfl (by decide) (by decide) (by decide) ?_
  intro v hM fd e0
  have t3_3 : bits v 3 3 = 4 := bits_within e0 3 3 (by decide)
  have t0_11 : bits v 0 11 = 34 := bits_within e0 0 11 (by decide)
  have t0_6 : bits v 0 6 = 34 := bits_within e0 0 6 (by decide)
  rw [major_1B hM]
  simp (decide := true) only [decode1B, fd, t3_3, t0_11, t0_6, e0, reduceIte,
    Nat.reduceEqDiff, and_self, and_true, true_and, and_false, false_and]

theorem Encoding.accx (d : BitVec 5) :
    Encoding.Statement (.accx d) := by
  refine layout_c21_f5 0x6c000023 27 35 d rfl (by decide) (by decide) (by decide) ?_
  intro v hM fd e0
  have t3_3 : bits v 3 3 = 4 := bits_within e0 3 3 (by decide)
  have t0_11 : bits v 0 11 = 35 := bits_within e0 0 11 (by decide)
  have t0_6 : bits v 0 6 = 35 := bits_within e0 0 6 (by decide)
  rw [major_1B hM]
  simp (decide := true) only [decode1B, fd, t3_3, t0_11, t0_6, e0, reduceIte,
    Nat.reduceEqDiff, and_self, and_true, true_and, and_false, false_and]

theorem Encoding.vxlat (d : BitVec 5) (a : BitVec 5) (b : BitVec 5) (k : BitVec 3) (w : BitVec 1) :
    Encoding.Statement (.vxlat d a b k w) := by
  refine layout_c7_f1_f3_f5_f5_f5 0x70000000 28 0 d a b k w rfl (by decide) (by decide) (by decide) ?_
  intro v hM fd fa fb fk fw e0
  rw [major_1C hM]
  simp (decide := true) only [decode1C, fd, fa, fb, fk, fw, e0, reduceIte,
    Nat.reduceEqDiff, and_self, and_true, true_and, and_false, false_and]

theorem Encoding.vxlatFf (d : BitVec 5) (a : BitVec 5) (b : BitVec 5) (k : BitVec 3) (w : BitVec 1) :
    Encoding.Statement (.vxlatFf d a b k w) := by
  refine layout_c7_f1_f3_f5_f5_f5 0x70000001 28 1 d a b k w rfl (by decide) (by decide) (by decide) ?_
  intro v hM fd fa fb fk fw e0
  rw [major_1C hM]
  simp (decide := true) only [decode1C, fd, fa, fb, fk, fw, e0, reduceIte,
    Nat.reduceEqDiff, and_self, and_true, true_and, and_false, false_and]

theorem Encoding.bind (d : BitVec 5) (a : BitVec 5) :
    Encoding.Statement (.bind d a) := by
  refine layout_c16_f5_f5 0x74000000 29 0 d a rfl (by decide) (by decide) (by decide) ?_
  intro v hM fd fa e0
  rw [major_1D hM]
  simp (decide := true) only [decode1D, fd, fa, e0, reduceIte,
    Nat.reduceEqDiff, and_self, and_true, true_and, and_false, false_and]

theorem Encoding.unbind (d : BitVec 5) :
    Encoding.Statement (.unbind d) := by
  refine layout_c21_f5 0x74000001 29 1 d rfl (by decide) (by decide) (by decide) ?_
  intro v hM fd e0
  have t0_16 : bits v 0 16 = 1 := bits_within e0 0 16 (by decide)
  rw [major_1D hM]
  simp (decide := true) only [decode1D, fd, t0_16, e0, reduceIte,
    Nat.reduceEqDiff, and_self, and_true, true_and, and_false, false_and]

theorem Encoding.vfetch (a : BitVec 5) (b : BitVec 5) (k : BitVec 3) :
    Encoding.Statement (.vfetch a b k) := by
  refine layout_c8_f3_f5_f5_c5 0x78000000 30 0 0 a b k rfl (by decide) (by decide) (by decide) (by decide) ?_
  intro v hM fa fb fk e0 e21
  rw [major_1E hM]
  simp (decide := true) only [decode1E, fa, fb, fk, e21, e0, reduceIte,
    Nat.reduceEqDiff, and_self, and_true, true_and, and_false, false_and]

theorem Encoding.lfetch (a : BitVec 5) (k : BitVec 3) (w : BitVec 1) :
    Encoding.Statement (.lfetch a k w) := by
  refine layout_c7_f1_f3_c5_f5_c5 0x78000001 30 1 0 0 a k w rfl (by decide) (by decide) (by decide) (by decide) (by
      decide) ?_
  intro v hM fa fk fw e0 e11 e21
  have n0 : bits v 0 8 ≠ 0 := fun h =>
    absurd ((bits_within h 0 7 (by decide)).symm.trans e0) (by decide)
  rw [major_1E hM]
  simp (decide := true) only [decode1E, fa, fk, fw, e0, e21, e11, n0, reduceIte,
    Nat.reduceEqDiff, and_self, and_true, true_and, and_false, false_and]

theorem Encoding.vjoin (d : BitVec 5) :
    Encoding.Statement (.vjoin d) := by
  refine layout_c21_f5 0x78000003 30 3 d rfl (by decide) (by decide) (by decide) ?_
  intro v hM fd e0
  have t0_8 : bits v 0 8 = 3 := bits_within e0 0 8 (by decide)
  have t0_7 : bits v 0 7 = 3 := bits_within e0 0 7 (by decide)
  have n0 : bits v 0 26 ≠ 2 := fun h =>
    absurd ((bits_within h 0 21 (by decide)).symm.trans e0) (by decide)
  rw [major_1E hM]
  simp (decide := true) only [decode1E, fd, t0_8, t0_7, e0, n0, reduceIte,
    Nat.reduceEqDiff, and_self, and_true, true_and, and_false, false_and]

theorem Encoding.tmask (d : BitVec 3) (a : BitVec 5) (b : BitVec 5) (k : BitVec 3) :
    Encoding.Statement (.tmask d a b k) := by
  refine layout_c8_f3_f5_f5_f3_c2 0x7c000000 31 0 0 d a b k rfl (by decide) (by decide) (by decide) (by decide) ?_
  intro v hM fd fa fb fk e0 e24
  rw [major_1F hM]
  simp (decide := true) only [decode1F, fd, fa, fb, fk, e24, e0, reduceIte,
    Nat.reduceEqDiff, and_self, and_true, true_and, and_false, false_and]

theorem Encoding.tadv (d : BitVec 5) (a : BitVec 5) (b : BitVec 5) :
    Encoding.Statement (.tadv d a b) := by
  refine layout_c11_f5_f5_f5 0x7c000001 31 1 d a b rfl (by decide) (by decide) (by decide) ?_
  intro v hM fd fa fb e0
  have t0_8 : bits v 0 8 = 1 := bits_within e0 0 8 (by decide)
  rw [major_1F hM]
  simp (decide := true) only [decode1F, fd, fa, fb, t0_8, e0, reduceIte,
    Nat.reduceEqDiff, and_self, and_true, true_and, and_false, false_and]

theorem Encoding.smax (d : BitVec 5) (a : BitVec 5) (b : BitVec 5) (k : BitVec 3) (w : BitVec 1) :
    Encoding.Statement (.smax d a b k w) := by
  refine layout_c7_f1_f3_f5_f5_f5 0x7c000002 31 2 d a b k w rfl (by decide) (by decide) (by decide) ?_
  intro v hM fd fa fb fk fw e0
  have n0 : bits v 0 8 ≠ 0 := fun h =>
    absurd ((bits_within h 0 7 (by decide)).symm.trans e0) (by decide)
  have n1 : bits v 0 11 ≠ 1 := fun h =>
    absurd ((bits_within h 0 7 (by decide)).symm.trans e0) (by decide)
  rw [major_1F hM]
  simp (decide := true) only [decode1F, fd, fa, fb, fk, fw, e0, n0, n1, reduceIte,
    Nat.reduceEqDiff, and_self, and_true, true_and, and_false, false_and]

theorem Encoding.sexp (d : BitVec 5) (a : BitVec 5) (b : BitVec 5) (k : BitVec 3) (w : BitVec 1) :
    Encoding.Statement (.sexp d a b k w) := by
  refine layout_c7_f1_f3_f5_f5_f5 0x7c000003 31 3 d a b k w rfl (by decide) (by decide) (by decide) ?_
  intro v hM fd fa fb fk fw e0
  have n0 : bits v 0 8 ≠ 0 := fun h =>
    absurd ((bits_within h 0 7 (by decide)).symm.trans e0) (by decide)
  have n1 : bits v 0 11 ≠ 1 := fun h =>
    absurd ((bits_within h 0 7 (by decide)).symm.trans e0) (by decide)
  rw [major_1F hM]
  simp (decide := true) only [decode1F, fd, fa, fb, fk, fw, e0, n0, n1, reduceIte,
    Nat.reduceEqDiff, and_self, and_true, true_and, and_false, false_and]

theorem Encoding.spick (d : BitVec 5) (a : BitVec 5) (b : BitVec 5) (k : BitVec 3) (w : BitVec 1) :
    Encoding.Statement (.spick d a b k w) := by
  refine layout_c7_f1_f3_f5_f5_f5 0x7c000004 31 4 d a b k w rfl (by decide) (by decide) (by decide) ?_
  intro v hM fd fa fb fk fw e0
  have n0 : bits v 0 8 ≠ 0 := fun h =>
    absurd ((bits_within h 0 7 (by decide)).symm.trans e0) (by decide)
  have n1 : bits v 0 11 ≠ 1 := fun h =>
    absurd ((bits_within h 0 7 (by decide)).symm.trans e0) (by decide)
  rw [major_1F hM]
  simp (decide := true) only [decode1F, fd, fa, fb, fk, fw, e0, n0, n1, reduceIte,
    Nat.reduceEqDiff, and_self, and_true, true_and, and_false, false_and]

theorem Encoding.srand (d : BitVec 5) (a : BitVec 5) (b : BitVec 5) :
    Encoding.Statement (.srand d a b) := by
  refine layout_c11_f5_f5_f5 0x7c000005 31 5 d a b rfl (by decide) (by decide) (by decide) ?_
  intro v hM fd fa fb e0
  have t0_8 : bits v 0 8 = 5 := bits_within e0 0 8 (by decide)
  have t0_7 : bits v 0 7 = 5 := bits_within e0 0 7 (by decide)
  rw [major_1F hM]
  simp (decide := true) only [decode1F, fd, fa, fb, t0_8, e0, t0_7, reduceIte,
    Nat.reduceEqDiff, and_self, and_true, true_and, and_false, false_and]

theorem Encoding.mop (t : BitVec 3) (a : BitVec 5) (b : BitVec 5) (r : BitVec 3) (c : BitVec 3) :
    Encoding.Statement (.mop t a b r c) := by
  refine layout_c5_f3_f3_f5_f5_f3_c2 0x80000000 32 0 0 t a b r c rfl (by decide) (by decide) (by decide) (by
      decide) ?_
  intro v hM ft fa fb fr fc e0 e24
  rw [major_20 hM]
  simp (decide := true) only [decode20, ft, fa, fb, fr, fc, e24, e0, reduceIte,
    Nat.reduceEqDiff, and_self, and_true, true_and, and_false, false_and]

theorem Encoding.mopS (t : BitVec 3) (a : BitVec 5) (b : BitVec 5) (r : BitVec 3) (c : BitVec 3) :
    Encoding.Statement (.mopS t a b r c) := by
  refine layout_c5_f3_f3_f5_f5_f3_c2 0x80000001 32 1 0 t a b r c rfl (by decide) (by decide) (by decide) (by
      decide) ?_
  intro v hM ft fa fb fr fc e0 e24
  rw [major_20 hM]
  simp (decide := true) only [decode20, ft, fa, fb, fr, fc, e0, e24, reduceIte,
    Nat.reduceEqDiff, and_self, and_true, true_and, and_false, false_and]

theorem Encoding.mopx (t : BitVec 2) (a : BitVec 5) (b : BitVec 5) (r : BitVec 3) (c : BitVec 3) :
    Encoding.Statement (.mopx t a b r c) := by
  refine layout_c5_f3_f3_f5_f5_c1_f2_c2 0x80000002 32 2 0 0 t a b r c rfl (by decide) (by decide) (by decide) (by
      decide) (by decide) ?_
  intro v hM ft fa fb fr fc e0 e21 e24
  rw [major_20 hM]
  simp (decide := true) only [decode20, ft, fa, fb, fr, fc, e0, e24, e21, reduceIte,
    Nat.reduceEqDiff, and_self, and_true, true_and, and_false, false_and]

theorem Encoding.tattach (q : BitVec 3) :
    Encoding.Statement (.tattach q) := by
  refine layout_c8_f3_c15 0x84000000 33 0 0 q rfl (by decide) (by decide) (by decide) (by decide) ?_
  intro v hM fq e0 e11
  rw [major_21 hM]
  simp (decide := true) only [decode21, fq, e11, e0, reduceIte,
    Nat.reduceEqDiff, and_self, and_true, true_and, and_false, false_and]

theorem Encoding.ten (t : BitVec 3) :
    Encoding.Statement (.ten t) := by
  refine layout_c21_f3_c2 0x84000002 33 2 0 t rfl (by decide) (by decide) (by decide) (by decide) ?_
  intro v hM ft e0 e24
  have t0_8 : bits v 0 8 = 2 := bits_within e0 0 8 (by decide)
  have n0 : bits v 0 26 ≠ 1 := fun h =>
    absurd ((bits_within h 0 21 (by decide)).symm.trans e0) (by decide)
  rw [major_21 hM]
  simp (decide := true) only [decode21, ft, t0_8, e0, e24, n0, reduceIte,
    Nat.reduceEqDiff, and_self, and_true, true_and, and_false, false_and]

theorem Encoding.tdis (t : BitVec 3) :
    Encoding.Statement (.tdis t) := by
  refine layout_c21_f3_c2 0x84000003 33 3 0 t rfl (by decide) (by decide) (by decide) (by decide) ?_
  intro v hM ft e0 e24
  have t0_8 : bits v 0 8 = 3 := bits_within e0 0 8 (by decide)
  have n0 : bits v 0 26 ≠ 1 := fun h =>
    absurd ((bits_within h 0 21 (by decide)).symm.trans e0) (by decide)
  rw [major_21 hM]
  simp (decide := true) only [decode21, ft, t0_8, e0, e24, n0, reduceIte,
    Nat.reduceEqDiff, and_self, and_true, true_and, and_false, false_and]

theorem Encoding.tzero (t : BitVec 3) :
    Encoding.Statement (.tzero t) := by
  refine layout_c21_f3_c2 0x84000004 33 4 0 t rfl (by decide) (by decide) (by decide) (by decide) ?_
  intro v hM ft e0 e24
  have t0_8 : bits v 0 8 = 4 := bits_within e0 0 8 (by decide)
  have n0 : bits v 0 26 ≠ 1 := fun h =>
    absurd ((bits_within h 0 21 (by decide)).symm.trans e0) (by decide)
  rw [major_21 hM]
  simp (decide := true) only [decode21, ft, t0_8, e0, e24, n0, reduceIte,
    Nat.reduceEqDiff, and_self, and_true, true_and, and_false, false_and]

theorem Encoding.tmovv (t : BitVec 3) (d : BitVec 5) (b : BitVec 5) (k : BitVec 3) :
    Encoding.Statement (.tmovv t d b k) := by
  refine layout_c8_f3_f5_f5_f3_c2 0x84000005 33 5 0 t d b k rfl (by decide) (by decide) (by decide) (by decide) ?_
  intro v hM ft fd fb fk e0 e24
  have n0 : bits v 0 26 ≠ 1 := fun h =>
    absurd ((bits_within h 0 8 (by decide)).symm.trans e0) (by decide)
  have n1 : bits v 0 21 ≠ 2 := fun h =>
    absurd ((bits_within h 0 8 (by decide)).symm.trans e0) (by decide)
  have n2 : bits v 0 21 ≠ 3 := fun h =>
    absurd ((bits_within h 0 8 (by decide)).symm.trans e0) (by decide)
  have n3 : bits v 0 21 ≠ 4 := fun h =>
    absurd ((bits_within h 0 8 (by decide)).symm.trans e0) (by decide)
  rw [major_21 hM]
  simp (decide := true) only [decode21, ft, fd, fb, fk, e0, e24, n0, n1, n2, n3, reduceIte,
    Nat.reduceEqDiff, and_self, and_true, true_and, and_false, false_and]

theorem Encoding.tmovvC (t : BitVec 3) (d : BitVec 5) (b : BitVec 5) (k : BitVec 3) :
    Encoding.Statement (.tmovvC t d b k) := by
  refine layout_c8_f3_f5_f5_f3_c2 0x84000025 33 37 0 t d b k rfl (by decide) (by decide) (by decide) (by decide) ?_
  intro v hM ft fd fb fk e0 e24
  have n0 : bits v 0 26 ≠ 1 := fun h =>
    absurd ((bits_within h 0 8 (by decide)).symm.trans e0) (by decide)
  have n1 : bits v 0 21 ≠ 2 := fun h =>
    absurd ((bits_within h 0 8 (by decide)).symm.trans e0) (by decide)
  have n2 : bits v 0 21 ≠ 3 := fun h =>
    absurd ((bits_within h 0 8 (by decide)).symm.trans e0) (by decide)
  have n3 : bits v 0 21 ≠ 4 := fun h =>
    absurd ((bits_within h 0 8 (by decide)).symm.trans e0) (by decide)
  rw [major_21 hM]
  simp (decide := true) only [decode21, ft, fd, fb, fk, e0, e24, n0, n1, n2, n3, reduceIte,
    Nat.reduceEqDiff, and_self, and_true, true_and, and_false, false_and]

theorem Encoding.tmovt (t : BitVec 3) (a : BitVec 5) (b : BitVec 5) (k : BitVec 3) :
    Encoding.Statement (.tmovt t a b k) := by
  refine layout_c8_f3_f5_f5_f3_c2 0x84000006 33 6 0 t a b k rfl (by decide) (by decide) (by decide) (by decide) ?_
  intro v hM ft fa fb fk e0 e24
  have n0 : bits v 0 26 ≠ 1 := fun h =>
    absurd ((bits_within h 0 8 (by decide)).symm.trans e0) (by decide)
  have n1 : bits v 0 21 ≠ 2 := fun h =>
    absurd ((bits_within h 0 8 (by decide)).symm.trans e0) (by decide)
  have n2 : bits v 0 21 ≠ 3 := fun h =>
    absurd ((bits_within h 0 8 (by decide)).symm.trans e0) (by decide)
  have n3 : bits v 0 21 ≠ 4 := fun h =>
    absurd ((bits_within h 0 8 (by decide)).symm.trans e0) (by decide)
  rw [major_21 hM]
  simp (decide := true) only [decode21, ft, fa, fb, fk, e0, e24, n0, n1, n2, n3, reduceIte,
    Nat.reduceEqDiff, and_self, and_true, true_and, and_false, false_and]

theorem Encoding.tmovtC (t : BitVec 3) (a : BitVec 5) (b : BitVec 5) (k : BitVec 3) :
    Encoding.Statement (.tmovtC t a b k) := by
  refine layout_c8_f3_f5_f5_f3_c2 0x84000026 33 38 0 t a b k rfl (by decide) (by decide) (by decide) (by decide) ?_
  intro v hM ft fa fb fk e0 e24
  have n0 : bits v 0 26 ≠ 1 := fun h =>
    absurd ((bits_within h 0 8 (by decide)).symm.trans e0) (by decide)
  have n1 : bits v 0 21 ≠ 2 := fun h =>
    absurd ((bits_within h 0 8 (by decide)).symm.trans e0) (by decide)
  have n2 : bits v 0 21 ≠ 3 := fun h =>
    absurd ((bits_within h 0 8 (by decide)).symm.trans e0) (by decide)
  have n3 : bits v 0 21 ≠ 4 := fun h =>
    absurd ((bits_within h 0 8 (by decide)).symm.trans e0) (by decide)
  rw [major_21 hM]
  simp (decide := true) only [decode21, ft, fa, fb, fk, e0, e24, n0, n1, n2, n3, reduceIte,
    Nat.reduceEqDiff, and_self, and_true, true_and, and_false, false_and]

theorem Encoding.tld (t : BitVec 3) (a : BitVec 5) (b : BitVec 5) (r : BitVec 3) (c : BitVec 3) :
    Encoding.Statement (.tld t a b r c) := by
  refine layout_c5_f3_f3_f5_f5_f3_c2 0x84000007 33 7 0 t a b r c rfl (by decide) (by decide) (by decide) (by
      decide) ?_
  intro v hM ft fa fb fr fc e0 e24
  have n0 : bits v 0 8 ≠ 0 := fun h =>
    absurd ((bits_within h 0 5 (by decide)).symm.trans e0) (by decide)
  have n1 : bits v 0 26 ≠ 1 := fun h =>
    absurd ((bits_within h 0 5 (by decide)).symm.trans e0) (by decide)
  have n2 : bits v 0 21 ≠ 2 := fun h =>
    absurd ((bits_within h 0 5 (by decide)).symm.trans e0) (by decide)
  have n3 : bits v 0 21 ≠ 3 := fun h =>
    absurd ((bits_within h 0 5 (by decide)).symm.trans e0) (by decide)
  have n4 : bits v 0 21 ≠ 4 := fun h =>
    absurd ((bits_within h 0 5 (by decide)).symm.trans e0) (by decide)
  have n5 : bits v 0 8 ≠ 5 := fun h =>
    absurd ((bits_within h 0 5 (by decide)).symm.trans e0) (by decide)
  have n6 : bits v 0 8 ≠ 37 := fun h =>
    absurd ((bits_within h 0 5 (by decide)).symm.trans e0) (by decide)
  have n7 : bits v 0 8 ≠ 6 := fun h =>
    absurd ((bits_within h 0 5 (by decide)).symm.trans e0) (by decide)
  have n8 : bits v 0 8 ≠ 38 := fun h =>
    absurd ((bits_within h 0 5 (by decide)).symm.trans e0) (by decide)
  rw [major_21 hM]
  simp (decide := true) only [decode21, ft, fa, fb, fr, fc, e0, e24, n0, n1, n2, n3, n4, n5, n6, n7, n8, reduceIte,
    Nat.reduceEqDiff, and_self, and_true, true_and, and_false, false_and]

theorem Encoding.tst (t : BitVec 3) (a : BitVec 5) (b : BitVec 5) (r : BitVec 3) (c : BitVec 3) :
    Encoding.Statement (.tst t a b r c) := by
  refine layout_c5_f3_f3_f5_f5_f3_c2 0x84000008 33 8 0 t a b r c rfl (by decide) (by decide) (by decide) (by
      decide) ?_
  intro v hM ft fa fb fr fc e0 e24
  have n0 : bits v 0 8 ≠ 0 := fun h =>
    absurd ((bits_within h 0 5 (by decide)).symm.trans e0) (by decide)
  have n1 : bits v 0 26 ≠ 1 := fun h =>
    absurd ((bits_within h 0 5 (by decide)).symm.trans e0) (by decide)
  have n2 : bits v 0 21 ≠ 2 := fun h =>
    absurd ((bits_within h 0 5 (by decide)).symm.trans e0) (by decide)
  have n3 : bits v 0 21 ≠ 3 := fun h =>
    absurd ((bits_within h 0 5 (by decide)).symm.trans e0) (by decide)
  have n4 : bits v 0 21 ≠ 4 := fun h =>
    absurd ((bits_within h 0 5 (by decide)).symm.trans e0) (by decide)
  have n5 : bits v 0 8 ≠ 5 := fun h =>
    absurd ((bits_within h 0 5 (by decide)).symm.trans e0) (by decide)
  have n6 : bits v 0 8 ≠ 37 := fun h =>
    absurd ((bits_within h 0 5 (by decide)).symm.trans e0) (by decide)
  have n7 : bits v 0 8 ≠ 6 := fun h =>
    absurd ((bits_within h 0 5 (by decide)).symm.trans e0) (by decide)
  have n8 : bits v 0 8 ≠ 38 := fun h =>
    absurd ((bits_within h 0 5 (by decide)).symm.trans e0) (by decide)
  rw [major_21 hM]
  simp (decide := true) only [decode21, ft, fa, fb, fr, fc, e0, e24, n0, n1, n2, n3, n4, n5, n6, n7, n8, reduceIte,
    Nat.reduceEqDiff, and_self, and_true, true_and, and_false, false_and]

theorem Encoding.lpart (a : BitVec 5) :
    Encoding.Statement (.lpart a) := by
  refine layout_c16_f5_c5 0x88000000 34 0 0 a rfl (by decide) (by decide) (by decide) (by decide) ?_
  intro v hM fa e0 e21
  rw [major_22 hM]
  simp (decide := true) only [decode22, fa, e21, e0, reduceIte,
    Nat.reduceEqDiff, and_self, and_true, true_and, and_false, false_and]

theorem Encoding.cmpt (d : BitVec 5) (a : BitVec 5) (b : BitVec 5) (k : BitVec 3) :
    Encoding.Statement (.cmpt d a b k) := by
  refine layout_c8_f3_f5_f5_f5 0x88000001 34 1 d a b k rfl (by decide) (by decide) (by decide) ?_
  intro v hM fd fa fb fk e0
  have n0 : bits v 0 16 ≠ 0 := fun h =>
    absurd ((bits_within h 0 8 (by decide)).symm.trans e0) (by decide)
  rw [major_22 hM]
  simp (decide := true) only [decode22, fd, fa, fb, fk, e0, n0, reduceIte,
    Nat.reduceEqDiff, and_self, and_true, true_and, and_false, false_and]

theorem Encoding.scat (d : BitVec 5) (a : BitVec 5) (b : BitVec 5) (k : BitVec 3) :
    Encoding.Statement (.scat d a b k) := by
  refine layout_c8_f3_f5_f5_f5 0x88000002 34 2 d a b k rfl (by decide) (by decide) (by decide) ?_
  intro v hM fd fa fb fk e0
  have n0 : bits v 0 16 ≠ 0 := fun h =>
    absurd ((bits_within h 0 8 (by decide)).symm.trans e0) (by decide)
  rw [major_22 hM]
  simp (decide := true) only [decode22, fd, fa, fb, fk, e0, n0, reduceIte,
    Nat.reduceEqDiff, and_self, and_true, true_and, and_false, false_and]

theorem Encoding.ecpy (a : BitVec 5) :
    Encoding.Statement (.ecpy a) := by
  refine layout_c16_f5_c5 0x8c000000 35 0 0 a rfl (by decide) (by decide) (by decide) (by decide) ?_
  intro v hM fa e0 e21
  rw [major_23 hM]
  simp (decide := true) only [decode23, fa, e21, e0, reduceIte,
    Nat.reduceEqDiff, and_self, and_true, true_and, and_false, false_and]

theorem Encoding.eloop (a : BitVec 5) :
    Encoding.Statement (.eloop a) := by
  refine layout_c16_f5_c5 0x8c000001 35 1 0 a rfl (by decide) (by decide) (by decide) (by decide) ?_
  intro v hM fa e0 e21
  rw [major_23 hM]
  simp (decide := true) only [decode23, fa, e0, e21, reduceIte,
    Nat.reduceEqDiff, and_self, and_true, true_and, and_false, false_and]

theorem Encoding.efoot (a : BitVec 5) :
    Encoding.Statement (.efoot a) := by
  refine layout_c16_f5_c5 0x8c000002 35 2 0 a rfl (by decide) (by decide) (by decide) (by decide) ?_
  intro v hM fa e0 e21
  rw [major_23 hM]
  simp (decide := true) only [decode23, fa, e0, e21, reduceIte,
    Nat.reduceEqDiff, and_self, and_true, true_and, and_false, false_and]

theorem Encoding.kfork (d : BitVec 5) (a : BitVec 5) (b : BitVec 5) :
    Encoding.Statement (.kfork d a b) := by
  refine layout_c11_f5_f5_f5 0x90000000 36 0 d a b rfl (by decide) (by decide) (by decide) ?_
  intro v hM fd fa fb e0
  rw [major_24 hM]
  simp (decide := true) only [decode24, fd, fa, fb, e0, reduceIte,
    Nat.reduceEqDiff, and_self, and_true, true_and, and_false, false_and]

theorem Encoding.kdrop (d : BitVec 5) (a : BitVec 5) (b : BitVec 5) :
    Encoding.Statement (.kdrop d a b) := by
  refine layout_c11_f5_f5_f5 0x90000001 36 1 d a b rfl (by decide) (by decide) (by decide) ?_
  intro v hM fd fa fb e0
  rw [major_24 hM]
  simp (decide := true) only [decode24, fd, fa, fb, e0, reduceIte,
    Nat.reduceEqDiff, and_self, and_true, true_and, and_false, false_and]

theorem Encoding.kspl (d : BitVec 5) (a : BitVec 5) (b : BitVec 5) :
    Encoding.Statement (.kspl d a b) := by
  refine layout_c11_f5_f5_f5 0x90000002 36 2 d a b rfl (by decide) (by decide) (by decide) ?_
  intro v hM fd fa fb e0
  rw [major_24 hM]
  simp (decide := true) only [decode24, fd, fa, fb, e0, reduceIte,
    Nat.reduceEqDiff, and_self, and_true, true_and, and_false, false_and]

theorem Encoding.krep (d : BitVec 5) (a : BitVec 5) (b : BitVec 5) :
    Encoding.Statement (.krep d a b) := by
  refine layout_c11_f5_f5_f5 0x90000003 36 3 d a b rfl (by decide) (by decide) (by decide) ?_
  intro v hM fd fa fb e0
  rw [major_24 hM]
  simp (decide := true) only [decode24, fd, fa, fb, e0, reduceIte,
    Nat.reduceEqDiff, and_self, and_true, true_and, and_false, false_and]

theorem Encoding.kprovRd (d : BitVec 5) (a : BitVec 5) :
    Encoding.Statement (.kprovRd d a) := by
  refine layout_c16_f5_f5 0x90000004 36 4 d a rfl (by decide) (by decide) (by decide) ?_
  intro v hM fd fa e0
  have t0_11 : bits v 0 11 = 4 := bits_within e0 0 11 (by decide)
  rw [major_24 hM]
  simp (decide := true) only [decode24, fd, fa, t0_11, e0, reduceIte,
    Nat.reduceEqDiff, and_self, and_true, true_and, and_false, false_and]

theorem Encoding.kprovLive (d : BitVec 5) (a : BitVec 5) (b : BitVec 5) :
    Encoding.Statement (.kprovLive d a b) := by
  refine layout_c11_f5_f5_f5 0x90000024 36 36 d a b rfl (by decide) (by decide) (by decide) ?_
  intro v hM fd fa fb e0
  have n0 : bits v 0 16 ≠ 4 := fun h =>
    absurd ((bits_within h 0 11 (by decide)).symm.trans e0) (by decide)
  rw [major_24 hM]
  simp (decide := true) only [decode24, fd, fa, fb, e0, n0, reduceIte,
    Nat.reduceEqDiff, and_self, and_true, true_and, and_false, false_and]

theorem Encoding.kprovRet (d : BitVec 5) (a : BitVec 5) :
    Encoding.Statement (.kprovRet d a) := by
  refine layout_c16_f5_f5 0x90000044 36 68 d a rfl (by decide) (by decide) (by decide) ?_
  intro v hM fd fa e0
  have t0_11 : bits v 0 11 = 68 := bits_within e0 0 11 (by decide)
  rw [major_24 hM]
  simp (decide := true) only [decode24, fd, fa, t0_11, e0, reduceIte,
    Nat.reduceEqDiff, and_self, and_true, true_and, and_false, false_and]

theorem Encoding.kprovFree (d : BitVec 5) (a : BitVec 5) :
    Encoding.Statement (.kprovFree d a) := by
  refine layout_c16_f5_f5 0x90000064 36 100 d a rfl (by decide) (by decide) (by decide) ?_
  intro v hM fd fa e0
  have t0_11 : bits v 0 11 = 100 := bits_within e0 0 11 (by decide)
  rw [major_24 hM]
  simp (decide := true) only [decode24, fd, fa, t0_11, e0, reduceIte,
    Nat.reduceEqDiff, and_self, and_true, true_and, and_false, false_and]

theorem Encoding.kchk (d : BitVec 5) (a : BitVec 5) (b : BitVec 5) :
    Encoding.Statement (.kchk d a b) := by
  refine layout_c11_f5_f5_f5 0x90000005 36 5 d a b rfl (by decide) (by decide) (by decide) ?_
  intro v hM fd fa fb e0
  have n0 : bits v 0 16 ≠ 4 := fun h =>
    absurd ((bits_within h 0 11 (by decide)).symm.trans e0) (by decide)
  have n1 : bits v 0 16 ≠ 68 := fun h =>
    absurd ((bits_within h 0 11 (by decide)).symm.trans e0) (by decide)
  have n2 : bits v 0 16 ≠ 100 := fun h =>
    absurd ((bits_within h 0 11 (by decide)).symm.trans e0) (by decide)
  rw [major_24 hM]
  simp (decide := true) only [decode24, fd, fa, fb, e0, n0, n1, n2, reduceIte,
    Nat.reduceEqDiff, and_self, and_true, true_and, and_false, false_and]

theorem Encoding.kchkF (d : BitVec 5) (a : BitVec 5) (b : BitVec 5) :
    Encoding.Statement (.kchkF d a b) := by
  refine layout_c11_f5_f5_f5 0x90000025 36 37 d a b rfl (by decide) (by decide) (by decide) ?_
  intro v hM fd fa fb e0
  have n0 : bits v 0 16 ≠ 4 := fun h =>
    absurd ((bits_within h 0 11 (by decide)).symm.trans e0) (by decide)
  have n1 : bits v 0 16 ≠ 68 := fun h =>
    absurd ((bits_within h 0 11 (by decide)).symm.trans e0) (by decide)
  have n2 : bits v 0 16 ≠ 100 := fun h =>
    absurd ((bits_within h 0 11 (by decide)).symm.trans e0) (by decide)
  rw [major_24 hM]
  simp (decide := true) only [decode24, fd, fa, fb, e0, n0, n1, n2, reduceIte,
    Nat.reduceEqDiff, and_self, and_true, true_and, and_false, false_and]

theorem Encoding.odeclR (a : BitVec 5) :
    Encoding.Statement (.odeclR a) := by
  refine layout_c16_f5_c5 0x94000000 37 0 0 a rfl (by decide) (by decide) (by decide) (by decide) ?_
  intro v hM fa e0 e21
  rw [major_25 hM]
  simp (decide := true) only [decode25, fa, e21, e0, reduceIte,
    Nat.reduceEqDiff, and_self, and_true, true_and, and_false, false_and]

theorem Encoding.odeclW (a : BitVec 5) :
    Encoding.Statement (.odeclW a) := by
  refine layout_c16_f5_c5 0x94000020 37 32 0 a rfl (by decide) (by decide) (by decide) (by decide) ?_
  intro v hM fa e0 e21
  rw [major_25 hM]
  simp (decide := true) only [decode25, fa, e0, e21, reduceIte,
    Nat.reduceEqDiff, and_self, and_true, true_and, and_false, false_and]

theorem Encoding.obeg (d : BitVec 5) :
    Encoding.Statement (.obeg d) := by
  refine layout_c21_f5 0x94000001 37 1 d rfl (by decide) (by decide) (by decide) ?_
  intro v hM fd e0
  have t0_16 : bits v 0 16 = 1 := bits_within e0 0 16 (by decide)
  rw [major_25 hM]
  simp (decide := true) only [decode25, fd, t0_16, e0, reduceIte,
    Nat.reduceEqDiff, and_self, and_true, true_and, and_false, false_and]

theorem Encoding.sspec (n : BitVec 5) (a : BitVec 5) :
    Encoding.Statement (.sspec n a) := by
  refine layout_c16_f5_f5 0x98000000 38 0 n a rfl (by decide) (by decide) (by decide) ?_
  intro v hM fn fa e0
  rw [major_26 hM]
  simp (decide := true) only [decode26, fn, fa, e0, reduceIte,
    Nat.reduceEqDiff, and_self, and_true, true_and, and_false, false_and]

theorem Encoding.sdrain (n : BitVec 5) :
    Encoding.Statement (.sdrain n) := by
  refine layout_c21_f5 0x98000001 38 1 n rfl (by decide) (by decide) (by decide) ?_
  intro v hM fn e0
  have t0_16 : bits v 0 16 = 1 := bits_within e0 0 16 (by decide)
  rw [major_26 hM]
  simp (decide := true) only [decode26, fn, t0_16, e0, reduceIte,
    Nat.reduceEqDiff, and_self, and_true, true_and, and_false, false_and]

theorem Encoding.wait (d : BitVec 5) (a : BitVec 5) (b : BitVec 5) (z : BitVec 2) (s : BitVec 3) :
    Encoding.Statement (.wait d a b z s) := by
  refine layout_c5_f3_f2_c1_f5_f5_f5 0x9c000000 39 0 0 d a b z s rfl (by decide) (by decide) (by decide) (by
      decide) ?_
  intro v hM fd fa fb fz fs e0 e10
  rw [major_27 hM]
  simp (decide := true) only [decode27, fd, fa, fb, fz, fs, e10, e0, reduceIte,
    Nat.reduceEqDiff, and_self, and_true, true_and, and_false, false_and]

theorem Encoding.vfull (d : BitVec 5) (a : BitVec 5) :
    Encoding.Statement (.vfull d a) := by
  refine layout_c16_f5_f5 0x9c000001 39 1 d a rfl (by decide) (by decide) (by decide) ?_
  intro v hM fd fa e0
  have t0_5 : bits v 0 5 = 1 := bits_within e0 0 5 (by decide)
  rw [major_27 hM]
  simp (decide := true) only [decode27, fd, fa, t0_5, e0, reduceIte,
    Nat.reduceEqDiff, and_self, and_true, true_and, and_false, false_and]

theorem Encoding.vempty (d : BitVec 5) (a : BitVec 5) :
    Encoding.Statement (.vempty d a) := by
  refine layout_c16_f5_f5 0x9c000002 39 2 d a rfl (by decide) (by decide) (by decide) ?_
  intro v hM fd fa e0
  have t0_5 : bits v 0 5 = 2 := bits_within e0 0 5 (by decide)
  rw [major_27 hM]
  simp (decide := true) only [decode27, fd, fa, t0_5, e0, reduceIte,
    Nat.reduceEqDiff, and_self, and_true, true_and, and_false, false_and]

theorem Encoding.hartPlacement (core : BitVec 7) :
    Encoding.Statement (.hartPlacement core) := by
  intro _ _ ws he
  cases he

theorem Encoding.compactionComplete (core : BitVec 7) :
    Encoding.Statement (.compactionComplete core) := by
  intro _ _ ws he
  cases he

theorem Encoding.streamReadAhead (gen : BitVec 3) (count : BitVec 16) :
    Encoding.Statement (.streamReadAhead gen count) := by
  intro _ _ ws he
  cases he

theorem Encoding.hardPreemption (detail : BitVec 8) :
    Encoding.Statement (.hardPreemption detail) := by
  intro _ _ ws he
  cases he

theorem Encoding.copyJob (job : BitVec 64) :
    Encoding.Statement (.copyJob job) := by
  intro _ _ ws he
  cases he

theorem Encoding.footprintComplete (job : BitVec 64) :
    Encoding.Statement (.footprintComplete job) := by
  intro _ _ ws he
  cases he

theorem Encoding.codeTableSwap (core : BitVec 7) :
    Encoding.Statement (.codeTableSwap core) := by
  intro _ _ ws he
  cases he

theorem Encoding.eviction (asid : BitVec 16) (va : BitVec 56) :
    Encoding.Statement (.eviction asid va) := by
  intro _ _ ws he
  cases he

theorem Encoding.unconsumedError (byte : ErrorByte) :
    Encoding.Statement (.unconsumedError byte) := by
  intro _ _ ws he
  cases he

theorem Encoding.spareRemap (kind : SpareKind) (unit : BitVec 32) (spare : BitVec 16) :
    Encoding.Statement (.spareRemap kind unit spare) := by
  intro _ _ ws he
  cases he

theorem Encoding.peerPortLost (port : BitVec 4) :
    Encoding.Statement (.peerPortLost port) := by
  intro _ _ ws he
  cases he

theorem Encoding.eventRingPost (fdom : BitVec 16) :
    Encoding.Statement (.eventRingPost fdom) := by
  intro _ _ ws he
  cases he

theorem Encoding.dieJoin (die : BitVec 2) :
    Encoding.Statement (.dieJoin die) := by
  intro _ _ ws he
  cases he

theorem Encoding.aqctl (value : BitVec 64) :
    Encoding.Statement (.aqctl value) := by
  intro _ _ ws he
  cases he

theorem Encoding.tailq (queue : BitVec 8) (tail : BitVec 32) :
    Encoding.Statement (.tailq queue tail) := by
  intro _ _ ws he
  cases he

theorem Encoding.registerWrite (offset : BitVec 16) (value : BitVec 64) :
    Encoding.Statement (.registerWrite offset value) := by
  intro _ _ ws he
  cases he

theorem Encoding.packetFetch (queue : BitVec 8) :
    Encoding.Statement (.packetFetch queue) := by
  intro _ _ ws he
  cases he

theorem Encoding.whippletreeIssueCycle (core : BitVec 7) (group : BitVec 3) :
    Encoding.Statement (.whippletreeIssueCycle core group) := by
  intro _ _ ws he
  cases he

theorem Encoding.illegalInstruction (w : BitVec 32) :
    Encoding.Statement (.illegalInstruction w) := by
  intro _ hn
  exact absurd rfl (hn w)

theorem Encoding.accessPerforms (stream : BitVec 4) :
    Encoding.Statement (.accessPerforms stream) := by
  intro _ _ ws he
  cases he

theorem Encoding.peerPortRequest (port : BitVec 4) (op : PeerOp) :
    Encoding.Statement (.peerPortRequest port op) := by
  intro _ _ ws he
  cases he

theorem Encoding.hostMemoryAccess (op : HostOp) :
    Encoding.Statement (.hostMemoryAccess op) := by
  intro _ _ ws he
  cases he

theorem Encoding.eret :
    Encoding.Statement .eret := by
  refine layout_c26 0x1 0 1 rfl (by decide) (by decide) (by decide) ?_
  intro v hM e0
  have t0_5 : bits v 0 5 = 1 := bits_within e0 0 5 (by decide)
  rw [major_00 hM]
  simp (decide := true) only [decode00, t0_5, e0, reduceIte,
    Nat.reduceEqDiff, and_self, and_true, true_and, and_false, false_and]

theorem Encoding.ebreak :
    Encoding.Statement .ebreak := by
  refine layout_c26 0x2 0 2 rfl (by decide) (by decide) (by decide) ?_
  intro v hM e0
  have t0_5 : bits v 0 5 = 2 := bits_within e0 0 5 (by decide)
  rw [major_00 hM]
  simp (decide := true) only [decode00, t0_5, e0, reduceIte,
    Nat.reduceEqDiff, and_self, and_true, true_and, and_false, false_and]

theorem Encoding.prog :
    Encoding.Statement .prog := by
  refine layout_c26 0x7 0 7 rfl (by decide) (by decide) (by decide) ?_
  intro v hM e0
  have t0_5 : bits v 0 5 = 7 := bits_within e0 0 5 (by decide)
  have t0_11 : bits v 0 11 = 7 := bits_within e0 0 11 (by decide)
  rw [major_00 hM]
  simp (decide := true) only [decode00, t0_5, e0, t0_11, reduceIte,
    Nat.reduceEqDiff, and_self, and_true, true_and, and_false, false_and]

theorem Encoding.yield :
    Encoding.Statement .yield := by
  refine layout_c26 0x8 0 8 rfl (by decide) (by decide) (by decide) ?_
  intro v hM e0
  have t0_5 : bits v 0 5 = 8 := bits_within e0 0 5 (by decide)
  have t0_11 : bits v 0 11 = 8 := bits_within e0 0 11 (by decide)
  rw [major_00 hM]
  simp (decide := true) only [decode00, t0_5, e0, t0_11, reduceIte,
    Nat.reduceEqDiff, and_self, and_true, true_and, and_false, false_and]

theorem Encoding.halt :
    Encoding.Statement .halt := by
  refine layout_c26 0x9 0 9 rfl (by decide) (by decide) (by decide) ?_
  intro v hM e0
  have t0_5 : bits v 0 5 = 9 := bits_within e0 0 5 (by decide)
  have t0_11 : bits v 0 11 = 9 := bits_within e0 0 11 (by decide)
  rw [major_00 hM]
  simp (decide := true) only [decode00, t0_5, e0, t0_11, reduceIte,
    Nat.reduceEqDiff, and_self, and_true, true_and, and_false, false_and]

theorem Encoding.cvy :
    Encoding.Statement .cvy := by
  refine layout_c26 0xa 0 10 rfl (by decide) (by decide) (by decide) ?_
  intro v hM e0
  have t0_5 : bits v 0 5 = 10 := bits_within e0 0 5 (by decide)
  have t0_11 : bits v 0 11 = 10 := bits_within e0 0 11 (by decide)
  rw [major_00 hM]
  simp (decide := true) only [decode00, t0_5, e0, t0_11, reduceIte,
    Nat.reduceEqDiff, and_self, and_true, true_and, and_false, false_and]

theorem Encoding.endk :
    Encoding.Statement .endk := by
  refine layout_c26 0x3ffffff 0 67108863 rfl (by decide) (by decide) (by decide) ?_
  intro v hM e0
  have t11_15 : bits v 11 15 = 32767 := bits_within e0 11 15 (by decide)
  have t21_5 : bits v 21 5 = 31 := bits_within e0 21 5 (by decide)
  have t16_5 : bits v 16 5 = 31 := bits_within e0 16 5 (by decide)
  have t0_21 : bits v 0 21 = 2097151 := bits_within e0 0 21 (by decide)
  rw [major_00 hM]
  simp (decide := true) only [decode00, t11_15, e0, t21_5, t16_5, t0_21, reduceIte,
    Nat.reduceEqDiff, and_self, and_true, true_and, and_false, false_and]

theorem Encoding.lstop :
    Encoding.Statement .lstop := by
  refine layout_c26 0x78000002 30 2 rfl (by decide) (by decide) (by decide) ?_
  intro v hM e0
  have t0_8 : bits v 0 8 = 2 := bits_within e0 0 8 (by decide)
  have t0_7 : bits v 0 7 = 2 := bits_within e0 0 7 (by decide)
  rw [major_1E hM]
  simp (decide := true) only [decode1E, t0_8, t0_7, e0, reduceIte,
    Nat.reduceEqDiff, and_self, and_true, true_and, and_false, false_and]

theorem Encoding.tdetach :
    Encoding.Statement .tdetach := by
  refine layout_c26 0x84000001 33 1 rfl (by decide) (by decide) (by decide) ?_
  intro v hM e0
  have t0_8 : bits v 0 8 = 1 := bits_within e0 0 8 (by decide)
  rw [major_21 hM]
  simp (decide := true) only [decode21, t0_8, e0, reduceIte,
    Nat.reduceEqDiff, and_self, and_true, true_and, and_false, false_and]

theorem Encoding.ocom :
    Encoding.Statement .ocom := by
  refine layout_c26 0x94000002 37 2 rfl (by decide) (by decide) (by decide) ?_
  intro v hM e0
  have t0_16 : bits v 0 16 = 2 := bits_within e0 0 16 (by decide)
  have t0_21 : bits v 0 21 = 2 := bits_within e0 0 21 (by decide)
  rw [major_25 hM]
  simp (decide := true) only [decode25, t0_16, t0_21, e0, reduceIte,
    Nat.reduceEqDiff, and_self, and_true, true_and, and_false, false_and]

theorem Encoding.hartWake :
    Encoding.Statement .hartWake := by
  intro _ _ ws he
  cases he

theorem Encoding.hartReclaim :
    Encoding.Statement .hartReclaim := by
  intro _ _ ws he
  cases he

theorem Encoding.producerLands :
    Encoding.Statement .producerLands := by
  intro _ _ ws he
  cases he

theorem Encoding.softRequestEscalation :
    Encoding.Statement .softRequestEscalation := by
  intro _ _ ws he
  cases he

theorem Encoding.energyTick :
    Encoding.Statement .energyTick := by
  intro _ _ ws he
  cases he

theorem Encoding.watchdogExpiry :
    Encoding.Statement .watchdogExpiry := by
  intro _ _ ws he
  cases he

theorem Encoding.handlerOverrun :
    Encoding.Statement .handlerOverrun := by
  intro _ _ ws he
  cases he

theorem Encoding.gateArrival :
    Encoding.Statement .gateArrival := by
  intro _ _ ws he
  cases he

theorem Encoding.beatEnd :
    Encoding.Statement .beatEnd := by
  intro _ _ ws he
  cases he

theorem Encoding.batchAppend :
    Encoding.Statement .batchAppend := by
  intro _ _ ws he
  cases he

theorem Encoding.orderFirstGrant :
    Encoding.Statement .orderFirstGrant := by
  intro _ _ ws he
  cases he

theorem Encoding.startStage :
    Encoding.Statement .startStage := by
  intro _ _ ws he
  cases he

theorem Encoding.powerStateChange :
    Encoding.Statement .powerStateChange := by
  intro _ _ ws he
  cases he

theorem Encoding.qcreate :
    Encoding.Statement .qcreate := by
  intro _ _ ws he
  cases he

theorem Encoding.qdestroy :
    Encoding.Statement .qdestroy := by
  intro _ _ ws he
  cases he

theorem Encoding.load :
    Encoding.Statement .load := by
  intro _ _ ws he
  cases he

theorem Encoding.unload :
    Encoding.Statement .unload := by
  intro _ _ ws he
  cases he

theorem Encoding.launch :
    Encoding.Statement .launch := by
  intro _ _ ws he
  cases he

theorem Encoding.release :
    Encoding.Statement .release := by
  intro _ _ ws he
  cases he

theorem Encoding.cancel :
    Encoding.Statement .cancel := by
  intro _ _ ws he
  cases he

theorem Encoding.preempt :
    Encoding.Statement .preempt := by
  intro _ _ ws he
  cases he

theorem Encoding.tlbinv :
    Encoding.Statement .tlbinv := by
  intro _ _ ws he
  cases he

theorem Encoding.kvmap :
    Encoding.Statement .kvmap := by
  intro _ _ ws he
  cases he

theorem Encoding.asidcfg :
    Encoding.Statement .asidcfg := by
  intro _ _ ws he
  cases he

theorem Encoding.fdring :
    Encoding.Statement .fdring := by
  intro _ _ ws he
  cases he

theorem Encoding.setbeat :
    Encoding.Statement .setbeat := by
  intro _ _ ws he
  cases he

theorem Encoding.setltol :
    Encoding.Statement .setltol := by
  intro _ _ ws he
  cases he

theorem Encoding.kvevict :
    Encoding.Statement .kvevict := by
  intro _ _ ws he
  cases he

end Sys2Proof.Laws
end

