-- ==== Sys2Proof/Laws/Vector.lean ====
section
/-! SUPPORT. Laws of packed elements, of register groups and of the frame of a vector instruction: what reading and writing
elements gives (R47, R91), what a result configuration changes (R120), and what `State.vector` does when every operand is a
whole, full and unbound register (R49, R56, R178). -/

namespace Sys2Proof.Machine
theorem elemAt_testBit (raw w e i : Nat) : (elemAt raw w e).testBit i = (decide (i < w) && raw.testBit (w * e + i)) := by
  rw [elemAt, Nat.testBit_mod_two_pow, Nat.testBit_div_two_pow, Nat.add_comm]

theorem setElem_eq (raw w e v : Nat) :
    setElem raw w e v = 2 ^ (w * e) * (2 ^ w * (raw / 2 ^ (w * e) / 2 ^ w) + v % 2 ^ w) + raw % 2 ^ (w * e) := by
  have h1 := Nat.div_add_mod raw (2 ^ (w * e))
  have h2 := Nat.div_add_mod (raw / 2 ^ (w * e)) (2 ^ w)
  rw [setElem, elemAt]
  generalize raw % 2 ^ (w * e) = lo at *
  generalize raw / 2 ^ (w * e) = q at *
  generalize q % 2 ^ w = mid at *
  generalize q / 2 ^ w = hi at *
  generalize v % 2 ^ w = x at *
  generalize 2 ^ (w * e) = P at *
  generalize 2 ^ w = W at *
  subst h2 h1
  have : P * (W * hi + mid) + lo - mid * P = P * (W * hi) + lo := by
    rw [Nat.mul_add, Nat.mul_comm mid P]; omega
  rw [this]; ring

theorem setElem_testBit (raw w e v j : Nat) :
    (setElem raw w e v).testBit j =
      if j < w * e then raw.testBit j else if j < w * e + w then v.testBit (j - w * e) else raw.testBit j := by
  rw [setElem_eq, Nat.testBit_two_pow_mul_add _ (Nat.mod_lt _ (by positivity))]
  split
  · rename_i h; rw [Nat.testBit_mod_two_pow]; simp [h]
  · rename_i h
    rw [Nat.testBit_two_pow_mul_add _ (Nat.mod_lt _ (by positivity))]
    by_cases h2 : j < w * e + w
    · have : j - w * e < w := by omega
      simp [h2, this]
    · have h3 : ¬ j - w * e < w := by omega
      simp only [h2, h3, if_false, Nat.testBit_div_two_pow]
      congr 1; omega

theorem elemAt_setElem_same (raw w e v : Nat) : elemAt (setElem raw w e v) w e = v % 2 ^ w := by
  apply Nat.eq_of_testBit_eq; intro i
  rw [elemAt_testBit, setElem_testBit, Nat.testBit_mod_two_pow]
  by_cases h : i < w <;> simp [h]

theorem elemAt_setElem_other (raw w e f v : Nat) (h : e ≠ f) : elemAt (setElem raw w e v) w f = elemAt raw w f := by
  apply Nat.eq_of_testBit_eq; intro i
  rw [elemAt_testBit, elemAt_testBit, setElem_testBit]
  by_cases hi : i < w
  · simp only [hi, decide_true, Bool.true_and]
    rcases Nat.lt_or_gt_of_ne h with h | h
    · have : w * (e + 1) ≤ w * f := Nat.mul_le_mul_left w h
      rw [Nat.mul_add] at this
      have h1 : ¬ w * f + i < w * e := by omega
      have h2 : ¬ w * f + i < w * e + w := by omega
      simp [h1, h2]
    · have : w * (f + 1) ≤ w * e := Nat.mul_le_mul_left w h
      rw [Nat.mul_add] at this
      have h1 : w * f + i < w * e := by omega
      simp [h1]
  · simp [hi]

/-! registers -/
theorem setV_v_same (h : Hart) (r : Nat) (x : VReg) : (h.setV r x).v r = x := by
  simp [Hart.setV, Hart.v]

theorem setV_v_other (h : Hart) (r q : Nat) (x : VReg) (hr : r < 32) (hq : q < 32) (hne : r ≠ q) :
    (h.setV r x).v q = h.v q := by
  simp only [Hart.setV, Hart.v, Nat.mod_eq_of_lt hr, Nat.mod_eq_of_lt hq]
  exact Vector.getElem_set_ne _ _ hne

theorem grpBits_lt (h : Hart) (r g : Nat) : h.grpBits r g < 2 ^ (256 * h.w * g) := by
  induction g generalizing r with
  | zero => simp [Hart.grpBits]
  | succ g ih =>
    rw [Hart.grpBits, Nat.mul_add, Nat.mul_one, Nat.pow_add]
    have h1 := ih (r + 1)
    have h2 : (h.v r).data.toNat % 2 ^ (256 * h.w) < 2 ^ (256 * h.w) := Nat.mod_lt _ (by positivity)
    have h3 := Nat.mul_le_mul_left (2 ^ (256 * h.w)) (Nat.succ_le_of_lt h1)
    rw [Nat.succ_eq_add_one, Nat.mul_add, Nat.mul_one, Nat.mul_comm _ (2 ^ (256 * h.w * g))] at h3
    omega

/-- Only the data of vector registers change when bits are put back. -/
theorem putBits_eq (h : Hart) (r g raw : Nat) : h.putBits r g raw = { h with vregs := (h.putBits r g raw).vregs } := by
  induction g generalizing h r raw with
  | zero => rfl
  | succ g ih => rw [Hart.putBits, ih]; rfl

theorem putBits_w (h : Hart) (r g raw : Nat) : (h.putBits r g raw).w = h.w := by rw [putBits_eq]

theorem putBits_v_other (h : Hart) (r g raw q : Nat) (hr : r + g ≤ 32) (hq : q < 32) (hne : q < r ∨ r + g ≤ q) :
    (h.putBits r g raw).v q = h.v q := by
  induction g generalizing h r raw with
  | zero => rfl
  | succ g ih =>
    rw [Hart.putBits, ih _ _ _ (by omega) (by omega), setV_v_other _ _ _ _ (by omega) hq (by omega)]

theorem putBits_cfg (h : Hart) (r g raw q : Nat) (hr : r + g ≤ 32) (hq : q < 32) :
    ((h.putBits r g raw).v q).cfg = (h.v q).cfg := by
  induction g generalizing h r raw with
  | zero => rfl
  | succ g ih =>
    rw [Hart.putBits, ih _ _ _ (by omega)]
    by_cases e : r = q
    · subst e; rw [setV_v_same]
    · rw [setV_v_other _ _ _ _ (by omega) hq e]

theorem grpBits_congr (h h' : Hart) (r g : Nat) (hw : h'.w = h.w) (hv : ∀ q, r ≤ q → q < r + g → (h'.v q).data = (h.v q).data) :
    h'.grpBits r g = h.grpBits r g := by
  induction g generalizing r with
  | zero => rfl
  | succ g ih =>
    rw [Hart.grpBits, Hart.grpBits, hw, hv r (Nat.le_refl r) (by omega), ih (r + 1) (fun q h1 h2 => hv q (by omega) (by omega))]

theorem putBits_grpBits (h : Hart) (r g raw : Nat) (hr : r + g ≤ 32) (hw : h.w ≤ 8) :
    (h.putBits r g raw).grpBits r g = raw % 2 ^ (256 * h.w * g) := by
  induction g generalizing h r raw with
  | zero => simp [Hart.grpBits, Nat.mod_one]
  | succ g ih =>
    rw [Hart.putBits, Hart.grpBits, putBits_w, putBits_v_other _ _ _ _ _ (by omega) (by omega) (by omega), setV_v_same,
      ih _ _ _ (by omega) (by simpa [Hart.setV] using hw)]
    have hw' : (h.setV r { h.v r with data := BitVec.ofNat 2048 (raw % 2 ^ (256 * h.w)) }).w = h.w := rfl
    rw [hw']
    have h1 : (BitVec.ofNat 2048 (raw % 2 ^ (256 * h.w))).toNat = raw % 2 ^ (256 * h.w) := by
      rw [BitVec.toNat_ofNat]
      apply Nat.mod_eq_of_lt
      exact Nat.lt_of_lt_of_le (Nat.mod_lt _ (by positivity)) (Nat.pow_le_pow_right (by decide) (by omega))
    rw [h1, Nat.mod_mod, Nat.mul_add, Nat.mul_one, Nat.add_comm (256 * h.w * g), Nat.pow_add, Nat.mod_mul]

/-- Elements of a group after a list of elements is written: the last one listed for an index stands. -/
theorem elemAt_foldl (w : Nat) (l : List (Nat × Nat)) (raw e : Nat) :
    elemAt (l.foldl (fun raw p => setElem raw w p.1 p.2) raw) w e =
      match (l.reverse.find? (fun p => p.1 == e)) with
      | some p => p.2 % 2 ^ w
      | none => elemAt raw w e := by
  induction l generalizing raw with
  | nil => rfl
  | cons p l ih =>
    rw [List.foldl_cons, ih, List.reverse_cons, List.find?_append]
    cases hf : l.reverse.find? (fun p => p.1 == e) with
    | some q => simp
    | none =>
      by_cases hp : p.1 = e
      · subst hp; simp [elemAt_setElem_same]
      · simp [hp, elemAt_setElem_other _ _ _ _ _ hp]

theorem setElem_lt (raw w e v n : Nat) (hr : raw < 2 ^ n) (he : w * (e + 1) ≤ n) : setElem raw w e v < 2 ^ n := by
  apply Nat.lt_pow_two_of_testBit
  intro i hi
  rw [Nat.mul_add, Nat.mul_one] at he
  rw [setElem_testBit]
  have h1 : ¬ i < w * e := by omega
  have h2 : ¬ i < w * e + w := by omega
  simp only [h1, h2, if_false]
  exact Nat.testBit_lt_two_pow (Nat.lt_of_lt_of_le hr (Nat.pow_le_pow_right (by decide) hi))

theorem foldl_setElem_lt (w n : Nat) (l : List (Nat × Nat)) (raw : Nat) (hr : raw < 2 ^ n)
    (hl : ∀ p ∈ l, w * (p.1 + 1) ≤ n) : l.foldl (fun raw p => setElem raw w p.1 p.2) raw < 2 ^ n := by
  induction l generalizing raw with
  | nil => exact hr
  | cons p l ih =>
    exact ih _ (setElem_lt _ _ _ _ _ hr (hl p (by simp))) (fun q hq => hl q (by simp [hq]))

/-! the frame -/

theorem isXq_own (h : Hart) (r : Nat) (hl : h.lane = none) : h.isXq r = false := by simp [Hart.isXq, hl]

theorem empties_full (h : Hart) (l : List Nat) (hf : ∀ i ∈ l, cfgFull (h.v i).cfg = true) : h.empties l = [] := by
  simp only [Hart.empties, List.filter_eq_nil_iff]
  intro r hr; simp [hf r hr]

theorem isBound_base (h : Hart) (r g : Nat) (hg : 0 < g) (hu : h.usable r g) : h.isBound r = false :=
  (hu r (by simp only [members, List.mem_map, List.mem_range]; exact ⟨0, hg, by omega⟩)).1

/-- Nothing is put back where no register listed is bound (R178). -/
theorem keepBound_self (h t : Hart) (rs : List Nat) (hb : ∀ r ∈ rs, h.isBound r = false) : h.keepBound rs t = t := by
  have : rs.filter (fun r => h.isBound r) = [] := by
    simp only [List.filter_eq_nil_iff]
    intro r hr; simp [hb r hr]
  simp [Hart.keepBound, this]

theorem settle_nil (s : State) (k : Nat) (hw : s.hart.walked = []) : s.settle k = s := by
  simp only [State.settle, hw, List.foldl_nil, State.upd, List.isEmpty_nil, if_true]
  rw [← hw]

/-- No register that an instruction reads or writes is bound, so none is used against its binding (R178, R306). -/
theorem misuse_plain (h : Hart) (v : VSpec) (src : ∀ x ∈ v.srcs, 0 < x.grp ∧ h.usable x.reg x.grp)
    (dst : ∀ d ∈ v.dsts, 0 < d.grp ∧ h.usable d.reg d.grp) : h.misuse v = false := by
  have m : ∀ r g, 0 < g ∧ h.usable r g → ∀ q ∈ (if h.isXq r then [] else if h.isBound r then [r] else members r g), h.isBound q = false := by
    intro r g hu q hq
    rw [isBound_base h r g hu.1 hu.2] at hq
    split at hq
    · simp at hq
    · exact (hu.2 q hq).1
  simp only [Hart.misuse, Bool.or_eq_false_iff, List.any_eq_false, Bool.or_eq_true, List.any_eq_true, Bool.and_eq_true, not_or,
    not_exists, not_and]
  refine ⟨fun x hx => ⟨fun q hq => ?_, fun hr => ?_⟩, fun d hd => ⟨fun q hq => ?_, fun hr => ?_⟩⟩
  · simp [Hart.writeBound, m _ _ (src x hx) q hq]
  · simp [Hart.readBound, isBound_base _ _ _ (src x hx).1 (src x hx).2] at hr
  · simp [Hart.readBound, m _ _ (dst d hd) q hq]
  · simp [Hart.writeBound, isBound_base _ _ _ (dst d hd).1 (dst d hd).2] at hr

theorem vector_plain (s s2 : State) (v : VSpec) (body : State → Res)
    (ill : v.ill = false) (tile : v.tile = none) (mism : v.mism = false)
    (src : ∀ x ∈ v.srcs, 0 < x.grp ∧ s.hart.usable x.reg x.grp)
    (dst : ∀ d ∈ v.dsts, 0 < d.grp ∧ s.hart.usable d.reg d.grp)
    (hb : body s = .next s2) (pc : s2.hart.pc ≠ s.hart.pc) (u : s2.hart.walked = []) (t : s2.hart.taken = [])
    (l : s2.hart.limit = none) (c : s2.hart.counted = []) : s.vector v body = .next s2 := by
  have sb : ∀ x ∈ v.srcs, s.hart.isBound x.reg = false := fun x hx => isBound_base _ _ _ (src x hx).1 (src x hx).2
  have db : ∀ x ∈ v.dsts, s.hart.isBound x.reg = false := fun x hx => isBound_base _ _ _ (dst x hx).1 (dst x hx).2
  have m1 := misuse_plain s.hart v src dst
  have w2 : (v.srcs.map (fun x => x.reg)).any (fun r => s.hart.readBound r && walkMismatch s.hart r) = false := by
    simp only [List.any_map, List.any_eq_false]
    intro x hx; simp [Hart.readBound, sb x hx]
  have e1 : v.srcs.filter (fun x => !s.hart.readBound x.reg && !s.hart.isXq x.reg && !(s.hart.empties (members x.reg x.grp)).isEmpty) = [] := by
    simp only [List.filter_eq_nil_iff]
    intro x hx
    simp [empties_full _ _ (fun i hi => ((src x hx).2 i hi).2)]
  have e2 : v.dsts.flatMap (fun d => if s.hart.isXq d.reg || s.hart.isBound d.reg then [] else s.hart.empties (members d.reg d.grp)) = [] := by
    simp only [List.flatMap_eq_nil_iff]
    intro x hx
    simp [empties_full _ _ (fun i hi => ((dst x hx).2 i hi).2)]
  have r2 : v.srcs.filter (fun x => s.hart.readBound x.reg) = [] := by
    simp only [List.filter_eq_nil_iff]
    intro x hx; simp [Hart.readBound, sb x hx]
  have r3 : v.dsts.filter (fun d => s.hart.writeBound d.reg) = [] := by
    simp only [List.filter_eq_nil_iff]
    intro x hx; simp [Hart.writeBound, db x hx]
  have a1 : s2.upd (advanceStreams [] []) = s2 := by
    simp only [State.upd, advanceStreams, List.foldl_nil, t, List.filter_nil]
    rw [← l, ← t, ← c]
  unfold State.vector
  simp only [ill, m1, w2, e1, e2, mism, tile, r2, r3, boundNeeds, State.takings, State.unready, State.takeSources, hb, List.map_nil, List.eraseDups_nil,
    List.foldl_nil, List.any_nil, List.isEmpty_nil, Bool.or_self, Bool.false_eq_true, if_false, false_and, Bool.not_true, pc,
    settle_nil s2 65536 u, a1, Bool.or_false, Bool.false_or, firstFault, List.filter_nil,
    List.map_nil, List.foldl_nil, Bool.false_and]
  rw [if_neg]
  simp only [List.any_eq_true]
  rintro ⟨x, hx, hh⟩
  simp [Hart.writeBound, db x hx] at hh

/-! writing a group -/

theorem mem_members (r g i : Nat) : i ∈ members r g ↔ r ≤ i ∧ i < r + g := by
  simp only [members, List.mem_map, List.mem_range]
  constructor
  · rintro ⟨j, hj, rfl⟩; omega
  · rintro ⟨h1, h2⟩; exact ⟨i - r, by omega, by omega⟩

theorem setCfg_spec (h : Hart) (d g : Nat) (c : BitVec 32) (hx : h.isXq d = false) (hb : h.isBound d = false)
    (hm : ∀ i ∈ members d g, h.isBound i = false) (hd : d + g ≤ 32) :
    h.setCfg d g c = { h with vregs := (h.setCfg d g c).vregs } ∧
    ∀ q < 32, (h.setCfg d g c).v q =
      if q ∈ members d g then { h.v q with cfg := (c &&& 0xFFF7FFFF) ||| ((h.v q).cfg &&& 0x00080000) } else h.v q := by
  simp only [Hart.setCfg, hx, hb, Bool.or_self, Bool.false_eq_true, if_false, keepBound_self h _ _ hm]
  clear hx hb hm
  induction g with
  | zero => exact ⟨rfl, fun q _ => by simp [members]⟩
  | succ g ih =>
    obtain ⟨ih1, ih2⟩ := ih (by omega)
    rw [List.range_succ, List.foldl_append, List.foldl_cons, List.foldl_nil]
    generalize hh : List.foldl _ h (List.range g) = h1 at ih1 ih2 ⊢
    refine ⟨?_, ?_⟩
    · rw [ih1]; rfl
    · intro q hq
      by_cases e : q = d + g
      · subst e
        have n1 : d + g ∉ members d g := by rw [mem_members]; omega
        have n2 : d + g ∈ members d (g + 1) := by rw [mem_members]; omega
        simp only [setV_v_same, n2, if_true, ih2 _ hq, n1, if_false]
      · rw [setV_v_other _ _ _ _ (by omega) hq (fun e' => e e'.symm), ih2 q hq]
        have : q ∈ members d g ↔ q ∈ members d (g + 1) := by rw [mem_members, mem_members]; omega
        simp only [this]

theorem writeGroup_plain (h : Hart) (r g w : Nat) (l : List (Nat × Nat)) (hx : h.isXq r = false)
    (hm : ∀ i ∈ members r g, h.isBound i = false) :
    h.writeGroup r g w l = h.putBits r g (l.foldl (fun raw p => setElem raw w p.1 p.2) (h.grpBits r g)) := by
  simp [Hart.writeGroup, hx, keepBound_self h _ _ hm]

/-- Elements written to a group, whatever the list: `hact` says what the list gives element e. -/
theorem writeGroup_spec (h : Hart) (d g w : Nat) (l : List (Nat × Nat)) (act : Nat → Bool)
    (val : Nat → Nat) (hx : h.isXq d = false) (hm : ∀ i ∈ members d g, h.isBound i = false) (hd : d + g ≤ 32) (hw : h.w ≤ 8)
    (hl : ∀ p ∈ l, w * (p.1 + 1) ≤ 256 * h.w * g)
    (hact : ∀ e, l.reverse.find? (fun p => p.1 == e) = if act e then some (e, val e) else none) :
    h.writeGroup d g w l = { h with vregs := (h.writeGroup d g w l).vregs } ∧
      GroupWritten h (h.writeGroup d g w l) d g w id act val := by
  rw [writeGroup_plain _ _ _ _ _ hx hm]
  refine ⟨putBits_eq _ _ _ _, ?_, ?_, ?_⟩
  · intro e he
    have : l.foldl (fun raw p => setElem raw w p.1 p.2) (h.grpBits d g) < 2 ^ (256 * h.w * g) :=
      foldl_setElem_lt _ _ _ _ (grpBits_lt h d g) hl
    rw [Hart.elem, putBits_grpBits _ _ _ _ hd hw, Nat.mod_eq_of_lt this, elemAt_foldl, hact]
    cases act e <;> rfl
  · intro r hr
    have hr' := (mem_members d g r).1 hr
    rw [putBits_cfg _ _ _ _ _ hd (by omega)]; rfl
  · intro r hr hn
    have hr' : r < d ∨ d + g ≤ r := by rw [mem_members] at hn; omega
    rw [putBits_v_other _ _ _ _ _ hd hr hr']

/-- Contexts whose vector registers differ in configuration words only hold the same elements. -/
theorem elem_congr (h h' : Hart) (r g w e : Nat) (hw : h'.w = h.w)
    (hv : ∀ q, r ≤ q → q < r + g → (h'.v q).data = (h.v q).data) : h'.elem r g w e = h.elem r g w e := by
  rw [Hart.elem, Hart.elem, grpBits_congr h h' r g hw hv]

/-- A list of elements with its indices written to a group under a new configuration. -/
theorem group_written (h : Hart) (d g : Nat) (t : Ty) (c : BitVec 32) (l : List (Nat × Nat)) (act : Nat → Bool)
    (val : Nat → Nat) (hx : h.isXq d = false) (hb : h.isBound d = false) (hm : ∀ i ∈ members d g, h.isBound i = false)
    (hd : d + g ≤ 32) (hw : h.w ≤ 8) (hl : ∀ p ∈ l, t.w * (p.1 + 1) ≤ 256 * h.w * g)
    (hact : ∀ e, l.reverse.find? (fun p => p.1 == e) = if act e then some (e, val e) else none) (fl : Nat) :
    let h' := ((h.setCfg d g c).raise fl).writeGroup d g t.w l
    h' = { h with vregs := h'.vregs, flags := h.flags ||| BitVec.ofNat 64 fl } ∧
      GroupWritten h h' d g t.w (resultCfg c) act val := by
  obtain ⟨s1, s2⟩ := setCfg_spec h d g c hx hb hm hd
  generalize hk : (h.setCfg d g c).raise fl = k
  have k1 : k = { h with vregs := (h.setCfg d g c).vregs, flags := h.flags ||| BitVec.ofNat 64 fl } := by
    rw [← hk, s1]; rfl
  have kv : ∀ q, k.v q = (h.setCfg d g c).v q := by intro q; rw [k1]; rfl
  have kx : k.isXq d = false := by rw [k1]; exact hx
  have km : ∀ i ∈ members d g, k.isBound i = false := by rw [k1]; exact hm
  have kw : k.w = h.w := by rw [k1]
  have kd : ∀ q < 32, (k.v q).data = (h.v q).data := by
    intro q hq; rw [kv, s2 q hq]; split <;> rfl
  intro h'
  obtain ⟨w1, w2⟩ := writeGroup_spec k d g t.w l act val kx km hd (by omega) (by rw [kw]; exact hl) hact
  refine ⟨?_, ?_, ?_, ?_⟩
  · rw [show h' = k.writeGroup d g t.w l from rfl, w1, k1]
  · intro e he
    rw [w2.elems e (by rw [kw]; exact he), elem_congr h k d g t.w e kw (fun q _ h2 => kd q (by omega))]
  · intro r hr
    have hr' := (mem_members d g r).1 hr
    rw [w2.config r hr, kv, s2 r (by omega)]
    simp [hr, resultCfg]
  · intro r hr hn
    rw [w2.others r hr hn, kv, s2 r hr]
    simp [hn]

theorem find_act (l : List Nat) (hn : l.Nodup) (f : Nat → Nat) (e : Nat) :
    (l.map (fun e => (e, f e))).reverse.find? (fun p => p.1 == e) = if decide (e ∈ l) then some (e, f e) else none := by
  by_cases h : e ∈ l
  · simp only [h, decide_true, if_true]
    rw [← List.map_reverse, List.find?_map]
    have : l.reverse.find? ((fun p : Nat × Nat => p.1 == e) ∘ fun e => (e, f e)) = some e := by
      rw [List.find?_eq_some_iff_append]
      refine ⟨by simp, ?_⟩
      obtain ⟨as, bs, h1⟩ := List.append_of_mem (List.mem_reverse.2 h)
      refine ⟨as, bs, h1, ?_⟩
      intro x hx
      have h2 := List.nodup_reverse.2 hn
      rw [h1, List.nodup_append] at h2
      have := h2.2.2 x hx e (by simp)
      simpa using this
    rw [this]; rfl
  · simp only [h, decide_false, Bool.false_eq_true, if_false, List.find?_eq_none, List.mem_reverse, List.mem_map]
    rintro x ⟨y, hy, rfl⟩
    simp only [beq_iff_eq]
    rintro rfl; exact h hy

theorem range_plain (h : Hart) (hp : h.Plain) (w : Nat) : h.range w = List.range h.vl := by
  simp [Hart.range, Hart.left, hp.own, hp.unlimited, Hart.restarts, hp.whole]

theorem active_plain (h : Hart) (hp : h.Plain) (k : BitVec 3) (w : Nat) :
    h.active k w = (List.range h.vl).filter (fun e => h.sel k e) := by
  rw [Hart.active, range_plain h hp]

theorem reader_plain (h : Hart) (hp : h.Plain) (r g w : Nat) : h.reader r g w = h.elem r g w := by
  funext e; simp [Hart.reader, hp.untaken, Hart.elem]

theorem elems_plain (h : Hart) (hp : h.Plain) (r : Reg) : h.elems r = h.elem r.toNat (h.grp r) (h.ty r).w := by
  rw [Hart.elems, reader_plain h hp]

theorem grantWidth_le (w : Nat) (h : grantWidth w = true) : w ≤ 8 := by
  simp [grantWidth] at h; omega

theorem resOk_fits (h : Hart) (d : Reg) (t : Ty) (g n e : Nat) (ho : h.resOk d t g n = true) (hl : h.lane = none)
    (hw : t.w ≠ 0) (he : e < n) : t.w * (e + 1) ≤ 256 * h.w * g := by
  simp only [Hart.resOk, Hart.fits, isXq_own h _ hl, Bool.false_or, Bool.and_eq_true, Bool.or_eq_true, beq_iff_eq, hw, false_or,
    decide_eq_true_eq, capacity, if_false] at ho
  have h2 := ho.2
  have h3 : e + 1 ≤ n := he
  split at h2
  · rename_i h7
    rw [h7]
    have := Nat.div_mul_le_self (256 * h.w * g / 7) 16
    have := Nat.div_mul_le_self (256 * h.w * g) 7
    omega
  · have := Nat.div_mul_le_self (256 * h.w * g) t.w
    calc t.w * (e + 1) ≤ t.w * (256 * h.w * g / t.w) := Nat.mul_le_mul_left _ (by omega)
      _ ≤ _ := by rw [Nat.mul_comm]; exact this

theorem putResults_plain (s : State) (d : Reg) (g : Nat) (t : Ty) (c : BitVec 32) (l : List Nat) (f : Nat → Nat × Nat) (n : Nat)
    (hp : s.hart.Plain) (hv : 0 < s.hart.vl) (hg : 0 < g) (hu : s.hart.usable d.toNat g) (hw : t.w ≠ 0)
    (ho : s.hart.resOk d t g n = true) (hn : l.Nodup) (hl : ∀ e ∈ l, e < n) :
    ∃ h', s.putResults d g t (some c) (l.map (fun e => (e, f e))) = s.setHart h' ∧
      h' = { s.hart with vregs := h'.vregs, flags := s.hart.flags ||| BitVec.ofNat 64 (orAll (l.map (fun e => (f e).2))) } ∧
      GroupWritten s.hart h' d.toNat g t.w (resultCfg c) (fun e => decide (e ∈ l)) (fun e => t.stored (f e).1) := by
  have hb := isBound_base _ _ _ hg hu
  have hx := isXq_own s.hart d.toNat hp.own
  have hd : d.toNat + g ≤ 32 := by
    simp only [Hart.resOk, Hart.baseOk, Hart.regEnd, hp.own, hx, Bool.false_or, Bool.and_eq_true, decide_eq_true_eq,
      Option.isSome_none, Bool.false_eq_true, if_false] at ho
    exact ho.1.2
  have hm : ∀ i ∈ members d.toNat g, s.hart.isBound i = false := fun i hi => (hu i hi).1
  have key := group_written s.hart d.toNat g t c (l.map (fun e => (e, t.stored (f e).1))) (fun e => decide (e ∈ l))
    (fun e => t.stored (f e).1) hx hb hm hd
    (grantWidth_le _ hp.width)
    (by
      intro p hpp
      obtain ⟨e, he, rfl⟩ := List.mem_map.1 hpp
      exact resOk_fits s.hart d t g n e ho hp.own hw (hl e he))
    (fun e => find_act l hn (fun e => t.stored (f e).1) e) (orAll (l.map (fun e => (f e).2)))
  refine ⟨_, ?_, key.1, key.2⟩
  have hr : s.hart.reach ≠ 0 := by simp [Hart.reach, hp.own]; omega
  have hwb : ((s.hart.setCfg d.toNat g c).raise (orAll (l.map (fun e => (f e).2)))).writeBound d.toNat = false := by
    have := (setCfg_spec s.hart d.toNat g c hx hb hm hd).1
    have : ((s.hart.setCfg d.toNat g c).raise (orAll (l.map (fun e => (f e).2)))).isBound d.toNat = s.hart.isBound d.toNat := by
      rw [this]; rfl
    simp [Hart.writeBound, this, hb]
  simp only [State.putResults, hr, if_false, State.upd, List.map_map, Function.comp_def]
  simp only [State.putElems, State.putRaw, orAll, List.map_map, Function.comp_def] at hwb ⊢
  rw [if_neg (by rw [hwb]; simp)]
  rfl


theorem tagWidth_ne (tag : Nat) (h : tagClass tag ≠ .untagged) : tagWidth tag ≠ 0 := by
  by_cases h1 : tag ≤ 26
  · interval_cases tag <;> revert h <;> decide
  · exfalso; apply h
    unfold tagClass
    rw [if_neg (by omega), if_neg (by omega), if_neg (by omega), if_neg (by omega), if_neg (by omega), if_neg (by omega), if_neg (by omega)]

theorem wideTag_ne (c : TClass) (w : Nat) (h : wideTag c w ≠ 0) : tagWidth (wideTag c w) ≠ 0 := by
  unfold wideTag at h ⊢
  split <;> first | decide | (exfalso; simp at h)

theorem result_w (op : EOp) (c : BitVec 32) (h : op.accepts (cfgTy c).cls = true) : (op.result c).1.w ≠ 0 := by
  have h1 : (cfgTy c).cls ≠ .untagged := by
    intro h2; rw [h2] at h; cases op <;> simp [EOp.accepts] at h
  have h0 : (cfgTy c).w ≠ 0 := tagWidth_ne _ h1
  unfold EOp.result
  simp only
  split
  · split
    · rename_i r hr
      unfold widenTy at hr
      simp only at hr
      split at hr
      · rename_i hc
        injection hr with hr
        subst hr
        exact wideTag_ne _ _ hc.2
      · cases hr
    · exact h0
  · exact h0

theorem spendDraws_own (h : Hart) (hl : h.lane = none) :
    h.spendDraws = { h with ridx := if h.rmode.toNat == RSR then h.ridx + BitVec.ofNat 32 h.vl else h.ridx } := by
  unfold Hart.spendDraws Hart.rmodeN
  by_cases e : h.rmode.toNat = RSR
  · rw [if_pos e, hl]; simp [e]
  · rw [if_neg e]; simp [e]

theorem isActive_filter (h : Hart) (k : BitVec 3) :
    (List.range h.vl).filter (fun e => h.sel k e) = (List.range h.vl).filter (h.isActive k) := by
  apply List.filter_congr
  intro e he
  simp [Hart.isActive, List.mem_range.1 he]


theorem cfgGrp_pos (c : BitVec 32) : 0 < cfgGrp c := by simp [cfgGrp]

theorem result_grp (op : EOp) (c : BitVec 32) (h : (cfgTy c).w ≠ 0) : 0 < (op.result c).2.1 := by
  unfold EOp.result
  simp only
  split
  · split
    · rename_i r hr
      unfold widenTy at hr
      simp only at hr
      split at hr
      · rename_i hc
        have := cfgGrp_pos c
        apply Nat.div_pos
        · calc (cfgTy c).w ≤ 1 * w2Bits (cfgW2 c) := by omega
            _ ≤ _ := Nat.mul_le_mul_right _ this
        · omega
      · cases hr
    · exact cfgGrp_pos c
  · exact cfgGrp_pos c

theorem elementwise_plain (s : State) (op : EOp) (d a : Reg) (b : Second) (k : BitVec 3) (w : Bool)
    (hp : s.hart.Plain) (hv : 0 < s.hart.vl)
    (ill : (s.hart.eSpec op d a b k w).ill = false) (mism : (s.hart.eSpec op d a b k w).mism = false)
    (ua : s.hart.usable a.toNat (s.hart.grp a))
    (ub : ∀ r x, b = .vec r x → s.hart.usable r.toNat (s.hart.grp r)) :
    let h := s.hart
    let ca := (h.v a.toNat).cfg
    let t := cfgTy ca
    let rt := (op.result ca).1
    let rg := (op.result ca).2.1
    let draws := op.arith && (rt.cls == .fx || rt.cls == .flt)
    let act := fun e => if op = .sel then decide (e < h.vl) else h.isActive k e
    let f := fun e => op.element t (h.secondTy op t b) rt h.rmodeN (if draws then h.drawFor e else 0) (h.elem a.toNat (h.grp a) t.w e)
      (h.second op t.w b e) (if op = .fma then h.elem d.toNat rg rt.w e else 0) (h.sel k e)
    h.usable d.toNat rg → 
    ∃ h', s.elementwise op d a b k w = .next (s.setHart h') ∧
      h' = { h with vregs := h'.vregs, pc := h.pc + 4
                    flags := h.flags ||| BitVec.ofNat 64 (orAll (((List.range h.vl).filter act).map (fun e => (f e).2)))
                    ridx := if draws && h.rmode.toNat == RSR then h.ridx + BitVec.ofNat 32 h.vl else h.ridx } ∧
      GroupWritten h h' d.toNat rg rt.w (resultCfg (if op = .mov then ca else mkCfg rt rg)) act (fun e => rt.stored (f e).1) := by
  intro h ca t rt rg draws act f ud
  have hl : h.lane = none := hp.own
  have rch : h.reach = h.vl := by simp [Hart.reach, hl]
  have hbt : ∀ r x, b = .vec r x → True := fun _ _ _ => trivial
  -- the conditions that the specification of the frame gathers
  have ill' : (h.opOk a h.vl = true ∧ h.resOk d rt rg h.vl = true) := by
    have rch' : s.hart.reach = s.hart.vl := rch
    cases b <;> simp [Hart.eSpec, rch'] at ill
    · exact ⟨ill.1.1.1.1, ill.1.1.1.2⟩
    · exact ⟨ill.1.1.1, ill.1.1.2⟩
    · exact ⟨ill.1.1.1, ill.1.1.2⟩
  have mism' : op.accepts t.cls = true := by
    cases b <;> simp [Hart.eSpec] at mism
    · exact mism.1.1.1.1
    · exact mism.1.1
    · exact mism.1.1
  have tw : t.w ≠ 0 := by
    apply tagWidth_ne
    intro h2
    have h3 : t.cls = .untagged := h2
    rw [h3] at mism'
    cases op <;> simp [EOp.accepts] at mism'
  have hg : 0 < rg := result_grp op ca tw
  have hga : 0 < h.grp a := by simp [Hart.grp, cfgGrp]
  have es : (if op = .sel then h.range rt.w else h.active k rt.w) = (List.range h.vl).filter act := by
    split
    · rename_i e
      simp only [act, e, if_true, range_plain h hp]
      symm; apply List.filter_eq_self.2
      intro x hx; simpa using hx
    · rename_i e
      simp only [act, e, if_false, active_plain h hp, isActive_filter]
  obtain ⟨h1, r1, r2, r3⟩ := putResults_plain s d rg rt (if op = .mov then ca else mkCfg rt rg) ((List.range h.vl).filter act) f h.vl hp hv hg ud
    (result_w op ca mism') ill'.2 (List.nodup_range.filter _) (fun e he => List.mem_range.1 (List.mem_filter.1 he).1)
  let h2 : Hart := { (if draws then h1.spendDraws else h1) with pc := h1.pc + 4 }
  have hh2 : h2 = { h1 with pc := h.pc + 4, ridx := if draws && h.rmode.toNat == RSR then h.ridx + BitVec.ofNat 32 h.vl else h.ridx } := by
    have q1 : h1.lane = none := by rw [r2]; exact hl
    have q2 : h1.pc = h.pc := by rw [r2]
    have q3 : h1.ridx = h.ridx := by rw [r2]
    have q4 : h1.rmode = h.rmode := by rw [r2]
    have q5 : h1.vl = h.vl := by rw [r2]
    simp only [h2]
    cases hd : draws
    · simp only [Bool.false_and, Bool.false_eq_true, if_false, q2]
      rw [← q3]
    · simp only [Bool.true_and, if_true, spendDraws_own _ q1, q2, q3, q4, q5]
  refine ⟨h2, ?_, ?_, ?_⟩
  · unfold State.elementwise
    apply vector_plain
    · exact ill
    · cases b <;> rfl
    · exact mism
    · intro x hx
      cases b
      · simp [Hart.eSpec] at hx
        rcases hx with rfl | rfl | ⟨-, rfl⟩
        · exact ⟨hga, ua⟩
        · exact ⟨cfgGrp_pos _, ub _ _ rfl⟩
        · exact ⟨hg, ud⟩
      all_goals
        simp [Hart.eSpec] at hx
        rcases hx with rfl | ⟨-, rfl⟩
        · exact ⟨hga, ua⟩
        · exact ⟨hg, ud⟩
    · intro x hx
      cases b <;> (simp [Hart.eSpec] at hx; subst hx; exact ⟨hg, ud⟩)
    · have fe : (fun e => (e, op.element t (h.secondTy op t b) rt h.rmodeN (if draws then h.drawFor e else 0) (h.elems a e)
          (h.second op t.w b e) ((if op = .fma then h.reader d.toNat rg rt.w else fun _ => 0) e) (h.sel k e))) = fun e => (e, f e) := by
        funext e
        simp only [f, elems_plain h hp, reader_plain h hp]
        cases op <;> rfl
      have r1' := r1
      rw [← es, ← fe] at r1'
      simp only [h, t, ca, rt, rg] at r1'
      simp only
      rw [r1']
      have q1 : h1.lane = none := by rw [r2]; exact hl
      show State.done (s.setHart h1) (if draws = true then h1.spendDraws else h1) = _
      simp only [h2]
      cases draws
      · rfl
      · simp only [if_true, spendDraws_own _ q1]; rfl
    · show h2.pc ≠ h.pc
      rw [hh2]; simp
    · show h2.walked = []
      rw [hh2, r2]; exact hp.unwalked
    · show h2.taken = []
      rw [hh2, r2]; exact hp.untaken
    · show h2.limit = none
      rw [hh2, r2]; exact hp.unlimited
    · show h2.counted = []
      rw [hh2, r2]; exact hp.uncounted
  · rw [hh2, r2]
  · have : ∀ q, h2.v q = h1.v q := by intro q; rw [hh2]; rfl
    have e2 : ∀ r g w e, h2.elem r g w e = h1.elem r g w e := by
      intro r g w e; rw [Hart.elem, Hart.elem, grpBits_congr h1 h2 r g (by rw [hh2]) (fun q _ _ => by rw [this])]
    have ea : (fun e => decide (e ∈ (List.range h.vl).filter act)) = act := by
      funext e
      simp only [List.mem_filter, List.mem_range]
      have : act e = true → e < h.vl := by
        simp only [act]
        split <;> simp [Hart.isActive] <;> omega
      by_cases hc : act e = true
      · simp [hc, this hc]
      · simp [hc]
    rw [ea] at r3
    exact ⟨fun e he => by rw [e2]; exact r3.elems e he, fun r hr => by rw [this]; exact r3.config r hr,
      fun r hr hn => by rw [this]; exact r3.others r hr hn⟩

/-! masks -/

theorem setBit_getLsbD (m : BitVec 8192) (e : Nat) (b : Bool) (i : Nat) (hi : i < 8192) :
    (setBit m e b).getLsbD i = if i = e then b else m.getLsbD i := by
  unfold setBit
  cases b
  · simp only [Bool.false_eq_true, if_false, BitVec.getLsbD_and, BitVec.getLsbD_not, BitVec.getLsbD_shiftLeft, hi, decide_true,
      Bool.true_and, BitVec.getLsbD_one]
    by_cases h : i = e
    · subst h; simp
    · by_cases h2 : i < e
      · simp [h, h2]
      · have : i - e ≠ 0 := by omega
        simp [h, h2, this]
  · simp only [if_true, BitVec.getLsbD_or, BitVec.getLsbD_shiftLeft, hi, decide_true, Bool.true_and, BitVec.getLsbD_one]
    by_cases h : i = e
    · subst h; simp
    · by_cases h2 : i < e
      · simp [h, h2]
      · have : i - e ≠ 0 := by omega
        simp [h, h2, this]

/-- Bits of a mask after one bit for each index of a list is replaced. -/
theorem setBits_getLsbD (l : List Nat) (f : Nat → Bool) (m : BitVec 8192) (i : Nat) (hi : i < 8192) :
    (setBits m (l.map (fun e => (e, f e)))).getLsbD i = if i ∈ l then f i else m.getLsbD i := by
  unfold setBits
  induction l generalizing m with
  | nil => simp
  | cons e l ih =>
    rw [List.map_cons, List.foldl_cons, ih, setBit_getLsbD _ _ _ _ hi]
    by_cases h1 : i ∈ l
    · simp [h1]
    · by_cases h2 : i = e <;> simp [h1, h2]

theorem setMask_same (h : Hart) (i : Nat) (m : BitVec 8192) : (h.setMask i m).mask i = m := by
  simp [Hart.setMask, Hart.mask]

theorem setMask_other (h : Hart) (i j : Nat) (m : BitVec 8192) (hi : i < 8) (hj : j < 8) (hne : j ≠ i) :
    (h.setMask i m).mask j = h.mask j := by
  simp only [Hart.setMask, Hart.mask, Nat.mod_eq_of_lt hi, Nat.mod_eq_of_lt hj]
  exact Vector.getElem_set_ne _ _ (fun e => hne e.symm)



/-- The frame around a body that ends in a changed context with the PC past the word. -/
theorem vector_done (s : State) (v : VSpec) (body : State → Res) (h2 : Hart) (hp : s.hart.Plain)
    (ill : v.ill = false) (tile : v.tile = none) (mism : v.mism = false)
    (src : ∀ x ∈ v.srcs, 0 < x.grp ∧ s.hart.usable x.reg x.grp)
    (dst : ∀ d ∈ v.dsts, 0 < d.grp ∧ s.hart.usable d.reg d.grp)
    (hb : body s = .next (s.setHart h2)) (pc : h2.pc = s.hart.pc + 4) (u : h2.walked = s.hart.walked)
    (t : h2.taken = s.hart.taken) (l : h2.limit = s.hart.limit) (c : h2.counted = s.hart.counted) :
    s.vector v body = .next (s.setHart h2) := by
  refine vector_plain s _ v body ill tile mism src dst hb ?_ ?_ ?_ ?_ ?_
  · show h2.pc ≠ s.hart.pc
    rw [pc]; simp
  · exact u.trans hp.unwalked
  · exact t.trans hp.untaken
  · exact l.trans hp.unlimited
  · exact c.trans hp.uncounted

end Sys2Proof.Machine
end

