-- ==== Sys2Proof/Tests/Slice0.lean ====
section
/-! SUPPORT. Tests: ill-formed terms that the checks refuse, words written out from the spec's encodings, single steps with
results from the spec's tables and examples, and for each statement a state that meets its hypotheses. -/

open Sys2Proof Sys2Proof.Machine

namespace Sys2Proof.Tests

set_option maxRecDepth 20000
set_option exponentiation.threshold 9000

/-! ## Well-formedness: an ill-formed term for each check -/

theorem test_wf_refuses_scalar :
    [Instr.fence 0 0, .fence 1 6, .sbar 0, .gets 1 17, .gets 8 6, .puts 1 17, .puts 8 6, .undefinedOpcode 0x9C000000,
      .undefinedOpcode 0xFC000000, .amoAdd 1 2 3 6 2, .amoAdd 1 2 3 0 1, .amoSwap 1 2 3 6 2, .amoSwap 1 2 3 0 1,
      .amoCas 1 2 3 6 2, .amoCas 1 2 3 0 1, .amoMin 1 2 3 6 2, .amoMin 1 2 3 0 1, .amoMax 1 2 3 6 2, .amoMax 1 2 3 0 1,
      .amoAnd 1 2 3 6 2, .amoAnd 1 2 3 0 1, .amoOr 1 2 3 6 2, .amoOr 1 2 3 0 1, .amoXor 1 2 3 6 2, .amoXor 1 2 3 0 1,
      .ldAcq 1 2 6 0, .stRel 1 2 6 0].all (fun i => !i.wf) = true := by decide

theorem test_wf_refuses_vector :
    [Instr.vcfg 1 27 0 0, .vcfg 1 9 16 0, .vcfg 1 10 32 0, .vcfg 1 15 1 0, .vcfgw 1 6 0, .vcfgw 1 0 1, .vcfgw 1 0 2,
      .vceqs 1 2 3 0 0 1, .vcnes 1 2 3 0 0 1, .vclts 1 2 3 0 0 1, .vcges 1 2 3 0 0 1, .vsmaxe 8 1 0 0, .vquant 1 2 8 0 0,
      .vdeq 1 2 8 0 0, .rotc 4 4 45 0 0 0, .rotcG 4 4 45 0 0 0, .rotl 4 4 45 0 0 0, .rotlG 4 4 45 0 0 0, .roth 4 4 48 0 0 0,
      .rothG 4 4 48 0 0 0, .vtac 4 4 45 0 0 0, .vtacG 4 4 45 0 0 0, .vtal 4 4 45 0 0 0, .vtalG 4 4 45 0 0 0,
      .vtah 4 4 48 0 0 0, .vtahG 4 4 48 0 0 0].all (fun i => !i.wf) = true := by decide

theorem test_wf_refuses_memory_and_matrices :
    [Instr.vldseg 1 2 0 0, .vstseg 1 2 0 0 0, .vamoAdd 1 2 3 0 0 6, .vamoMin 1 2 3 0 0 6, .vamoMax 1 2 3 0 0 6,
      .vamoSwap 1 2 3 0 0 6, .accw 4 1 2, .vacc 4 1 2 0 0 0, .accm 4, .accx 4, .bind 23 1, .unbind 23, .sexp 1 2 0 0 0,
      .sexp 1 2 3 0 0, .mopS 0 1 2 0 0, .mopS 0 10 2 0 0, .mopS 0 2 1 0 0, .mopS 0 2 10 0 0, .tattach 0, .tattach 4,
      .sspec 1 1, .sspec 10 1, .sdrain 10, .wait 1 2 3 1 0, .wait 1 2 3 2 6].all (fun i => !i.wf) = true := by decide

theorem test_wf_admits_edges :
    [Instr.fence 1 5, .gets 1 16, .gets 7 6, .undefinedOpcode 0xA0000000, .undefinedOpcode 0xFBFFFFFF, .vcfg 1 26 0 0,
      .vcfg 1 9 15 0, .vcfg 1 10 31 0, .vcfgw 1 5 7, .rotc 4 4 44 0 0 0, .roth 4 4 47 0 0 0, .bind 24 1, .sexp 1 2 30 0 0,
      .mopS 0 9 2 0 0, .tattach 3, .sspec 9 1, .sdrain 9, .wait 1 2 3 2 5].all Instr.wf = true := by decide

/-! ## Decoding: words of the spec's examples, or written bit by bit from R32 and R36; the encoder gives each back -/

theorem test_words_system :
  [(0x000000A0, Instr.trap 5), (0x00000001, .eret), (0x00000002, .ebreak), (0x00001883, .fence 3 4),
   (0x00001804, .sbar 3), (0x00A00005, .gets 5 0), (0x00A05005, .gets 5 10), (0x00063806, .puts 6 7),
   (0x00000007, .prog), (0x00000008, .yield), (0x00000009, .halt), (0x0000000A, .cvy), (0x00E0000B, .seed 7),
   (0x03FFFFFF, .endk)].all (fun p => decide (decodeWord p.1 0 = p.2 ∧ encode p.2 = some [p.1])) = true := by decide

theorem test_words_registers :
  [(0x04A63800, Instr.add 5 6 7), (0x04A63801, .sub 5 6 7), (0x04A63802, .mul 5 6 7), (0x04A63803, .mulh 5 6 7),
   (0x04A63804, .div 5 6 7), (0x04A63805, .divn 5 6 7), (0x04A63806, .rem 5 6 7), (0x04A63807, .remn 5 6 7),
   (0x04A63808, .and 5 6 7), (0x04A63809, .or 5 6 7), (0x04A6380A, .xor 5 6 7), (0x04A6380B, .andn 5 6 7),
   (0x04A6380C, .sll 5 6 7), (0x04A6380D, .srl 5 6 7), (0x04A6380E, .sra 5 6 7), (0x04A6380F, .slt 5 6 7),
   (0x04A63810, .sltn 5 6 7), (0x04A63811, .min 5 6 7), (0x04A63812, .max 5 6 7), (0x04A63813, .minn 5 6 7),
   (0x04A63814, .maxn 5 6 7), (0x04A60015, .clz 5 6), (0x04A60016, .ctz 5 6), (0x04A60017, .popc 5 6)].all (fun p => decide (decodeWord p.1 0 = p.2 ∧ encode p.2 = some [p.1])) = true := by decide

theorem test_words_immediates :
  [(0x08A5FFFF, Instr.addi 5 5 0xFFFF), (0x0CA68001, .andi 5 6 0x8001), (0x10A68001, .ori 5 6 0x8001),
   (0x14A68001, .xori 5 6 0x8001), (0x38A6FFFD, .slti 5 6 0xFFFD), (0x18C50003, .slli 6 5 3),
   (0x18C5403F, .srli 6 5 63), (0x18C58003, .srai 6 5 3), (0x1CE01234, .lui 7 0x1234)].all (fun p => decide (decodeWord p.1 0 = p.2 ∧ encode p.2 = some [p.1])) = true := by decide

theorem test_words_scalar_memory :
  [(0x2102C002, Instr.ldd 8 2 2), (0x2123BFFF, .ldwS 9 3 0x1FFF), (0x2502C000, .std 8 2 0),
   (0x21020FFF, .ldb 8 2 4095), (0x21024001, .ldh 8 2 1), (0x21028001, .ldw 8 2 1), (0x21022001, .ldbS 8 2 1),
   (0x21026001, .ldhS 8 2 1), (0x25021000, .stb 8 2 0x1000), (0x25024001, .sth 8 2 1), (0x25028001, .stw 8 2 1),
   (0x28A7304C, .amoAdd 5 7 6 4 3), (0x280734DC, .stRel 7 6 5 3), (0x28A73088, .amoSwap 5 7 6 0 2),
   (0x28A7311C, .amoCas 5 7 6 1 3), (0x28A731A8, .amoMin 5 7 6 2 2), (0x28A7323C, .amoMax 5 7 6 3 3),
   (0x28A732C8, .amoAnd 5 7 6 4 2), (0x28A7335C, .amoOr 5 7 6 5 3), (0x28A73388, .amoXor 5 7 6 0 2),
   (0x28A70454, .ldAcq 5 7 5 1)].all (fun p => decide (decodeWord p.1 0 = p.2 ∧ encode p.2 = some [p.1])) = true := by decide

theorem test_words_branches :
  [(0x2CA64005, Instr.blt 5 6 5), (0x2D200003, .beq 9 0 3), (0x2C001FF9, .beq 0 0 0x1FF9),
   (0x2ED06023, .bge 22 16 0x23), (0x2D202003, .bne 9 0 3), (0x2CA68FFF, .bltn 5 6 4095),
   (0x2CA6B000, .bgen 5 6 0x1000), (0x33FFFFF0, .jal 0x3FFFFF0), (0x34010000, .jalr 0 1 0),
   (0x3CA6C00C, .vsetlb 5 6 6 12)].all (fun p => decide (decodeWord p.1 0 = p.2 ∧ encode p.2 = some [p.1])) = true := by decide

theorem test_words_configuration :
  [(0x410F0000, Instr.vcfg 8 15 0 0), (0x418A0082, .vcfg 12 10 16 1), (0x42800300, .vcfgw 20 4 0),
   (0x42080600, .vtag 16 8), (0x40A60590, .vsetl 5 6 6 1)].all (fun p => decide (decodeWord p.1 0 = p.2 ∧ encode p.2 = some [p.1])) = true := by decide

theorem test_words_elementwise :
  [(0x44221800, Instr.vadd 1 2 3 0 0 0), (0x44221801, .vsub 1 2 3 0 0 0), (0x44221802, .vmul 1 2 3 0 0 0),
   (0x44221803, .vfma 1 2 3 0 0 0), (0x44221804, .vmin 1 2 3 0 0 0), (0x44221805, .vmax 1 2 3 0 0 0),
   (0x44221808, .vand 1 2 3 0 0 0), (0x44221809, .vor 1 2 3 0 0 0), (0x4422180A, .vxor 1 2 3 0 0 0),
   (0x4422180B, .vshl 1 2 3 0 0 0), (0x4422180C, .vshr 1 2 3 0 0 0), (0x4422180D, .vadc 1 2 3 0 0 0),
   (0x4422180E, .vsbc 1 2 3 0 0 0), (0x44221B40, .vadd 1 2 3 3 0 1), (0x44220006, .vabs 1 2 0 0),
   (0x44220007, .vneg 1 2 0 0), (0x4422000F, .vmov 1 2 0 0), (0x44221910, .vsel 1 2 3 1 0 0)].all (fun p => decide (decodeWord p.1 0 = p.2 ∧ encode p.2 = some [p.1])) = true := by decide

theorem test_words_elementwise_scalar :
  [(0x48221800, Instr.vadds 1 2 3 0 0), (0x48221801, .vsubs 1 2 3 0 0), (0x48221802, .vmuls 1 2 3 0 0),
   (0x48221803, .vfmas 1 2 3 0 0), (0x48221804, .vmins 1 2 3 0 0), (0x48221805, .vmaxs 1 2 3 0 0),
   (0x48221808, .vands 1 2 3 0 0), (0x48221809, .vors 1 2 3 0 0), (0x4822180A, .vxors 1 2 3 0 0),
   (0x4822180B, .vshls 1 2 3 0 0), (0x4822180C, .vshrs 1 2 3 0 0), (0x48221910, .vsels 1 2 3 1 0)].all (fun p => decide (decodeWord p.1 0 = p.2 ∧ encode p.2 = some [p.1])) = true := by decide

theorem test_words_compares_and_masks :
  [(0x4C221800, Instr.vceq 1 2 3 0 0 0), (0x4C221801, .vcne 1 2 3 0 0 0), (0x4C221802, .vclt 1 2 3 0 0 0),
   (0x4C221803, .vcge 1 2 3 0 0 0), (0x4C221804, .vceqs 1 2 3 0 0 0), (0x4C221805, .vcnes 1 2 3 0 0 0),
   (0x4C221806, .vclts 1 2 3 0 0 0), (0x4C221807, .vcges 1 2 3 0 0 0), (0x4C344806, .vclts 1 20 9 0 0 0),
   (0x50221800, .mand 1 2 3), (0x50221801, .mor 1 2 3), (0x50221802, .mxor 1 2 3), (0x50220003, .mnot 1 2),
   (0x50220004, .mpop 1 2), (0x50220005, .mfirst 1 2), (0x50220006, .mshup 1 2), (0x50200007, .mset 1),
   (0x50200008, .mclr 1)].all (fun p => decide (decodeWord p.1 0 = p.2 ∧ encode p.2 = some [p.1])) = true := by decide

theorem test_words_permutes_and_reductions :
  [(0x54221800, Instr.vslideup 1 2 3 0 0), (0x54221801, .vslidedn 1 2 3 0 0), (0x54221802, .vgath 1 2 3 0 0 0),
   (0x54221903, .vcomp 1 2 3 1 0), (0x54220104, .vexpd 1 2 1 0), (0x54201805, .vbcast 1 3 0),
   (0x54200006, .vidx 1 0), (0x58220000, .vrsum 1 2 0 0), (0x58220001, .vrmax 1 2 0 0), (0x58220002, .vrmin 1 2 0 0),
   (0x58220003, .vsmaxe 1 2 0 0), (0x58640201, .vrmax 3 4 2 0), (0x5C220000, .vcvt 1 2 0 0),
   (0x5C221801, .vquant 1 2 3 0 0), (0x5C221802, .vdeq 1 2 3 0 0), (0x5D880003, .vpack 12 8 0 0),
   (0x5D0C0004, .vunpk 8 12 0 0)].all (fun p => decide (decodeWord p.1 0 = p.2 ∧ encode p.2 = some [p.1])) = true := by decide

theorem test_words_rotations :
  [(0x61048000, Instr.rotc 4 4 32 0 0 0), (0x61448050, .rotcG 5 4 32 2 0 0), (0x61044108, .rotl 4 4 16 1 0 0),
   (0x61044140, .rotlG 4 4 16 0 0 0), (0x61046200, .roth 4 4 24 0 0 0), (0x61046240, .rothG 4 4 24 0 0 0),
   (0x61048086, .vtac 4 4 32 0 1 1), (0x610480C0, .vtacG 4 4 32 0 0 0), (0x61044180, .vtal 4 4 16 0 0 0),
   (0x6104B1FA, .vtalG 4 4 44 7 0 1), (0x6104BE80, .vtah 4 4 47 0 0 0), (0x61D116C0, .vtahG 7 17 5 0 0 0),
   (0x6104B000, .rotc 4 4 44 0 0 0)].all (fun p => decide (decodeWord p.1 0 = p.2 ∧ encode p.2 = some [p.1])) = true := by decide

theorem test_words_vector_memory :
  [(0x64CD0000, Instr.vld 6 13 0 0), (0x64CD0001, .vld 6 13 0 1), (0x650EA008, .vlds 8 14 20 0 0),
   (0x650E1050, .vldx 8 14 2 0 1 0), (0x644D4818, .vldb 2 13 9 0 0), (0x650E4820, .vldff 8 14 9 0 0),
   (0x650E002A, .vldseg 8 14 0 2), (0x690E0080, .vst 8 14 0 1), (0x69B30600, .vst 13 19 6 0),
   (0x690EA008, .vsts 8 14 20 0 0), (0x690E1010, .vstx 8 14 2 0 0 0), (0x684D4818, .vstb 2 13 9 0 0),
   (0x690E0029, .vstseg 8 14 0 0 1), (0x6C871003, .vamoAdd 4 7 2 0 0 3), (0x6C871009, .vamoMin 4 7 2 0 0 1),
   (0x6C871114, .vamoMax 4 7 2 1 0 4), (0x6C87101D, .vamoSwap 4 7 2 0 0 5), (0x6C2D7020, .accw 1 13 14),
   (0x6C221961, .vacc 1 2 3 1 0 1), (0x6C200022, .accm 1), (0x6C200023, .accx 1), (0x7206A000, .vxlat 16 6 20 0 0),
   (0x7206A001, .vxlatFf 16 6 20 0 0)].all (fun p => decide (decodeWord p.1 0 = p.2 ∧ encode p.2 = some [p.1])) = true := by decide

theorem test_words_streams_and_blocks :
  [(0x986D0000, Instr.sspec 3 13), (0x98600001, .sdrain 3), (0x770D0000, .bind 24 13), (0x77000001, .unbind 24),
   (0x9D2D5380, .wait 9 13 10 3 4), (0x9D280001, .vfull 9 8), (0x9D280002, .vempty 9 8),
   (0x780D0100, .vfetch 13 0 1), (0x78050101, .lfetch 5 1 0), (0x78000002, .lstop), (0x79200003, .vjoin 9),
   (0x88090000, .lpart 9), (0x88221901, .cmpt 1 2 3 1), (0x88811902, .scat 4 1 3 1), (0x8C0D0001, .eloop 13),
   (0x8C0D0000, .ecpy 13), (0x8C0D0002, .efoot 13)].all (fun p => decide (decodeWord p.1 0 = p.2 ∧ encode p.2 = some [p.1])) = true := by decide

theorem test_words_sampling_and_matrices :
  [(0x7C544900, Instr.tmask 2 20 9 1), (0x7D345001, .tadv 9 20 10), (0x7C224902, .smax 1 2 9 1 0),
   (0x7C826103, .sexp 4 2 12 1 0), (0x7D247104, .spick 9 4 14 1 0), (0x7DCF6805, .srand 14 15 13),
   (0x80286000, .mop 1 8 12 0 0), (0x80086140, .mop 0 8 12 1 2), (0x80221801, .mopS 1 2 3 0 0),
   (0x80486002, .mopx 1 8 12 0 0), (0x84000300, .tattach 3), (0x84000001, .tdetach), (0x84600002, .ten 3),
   (0x84600003, .tdis 3), (0x84600004, .tzero 3), (0x84304805, .tmovv 1 16 9 0), (0x84304806, .tmovt 1 16 9 0),
   (0x84304825, .tmovvC 1 16 9 0), (0x84304826, .tmovtC 1 16 9 0), (0x842D7007, .tld 1 13 14 0 0),
   (0x842D7008, .tst 1 13 14 0 0), (0x8429A948, .tst 1 9 21 1 2)].all (fun p => decide (decodeWord p.1 0 = p.2 ∧ encode p.2 = some [p.1])) = true := by decide

theorem test_words_key_value_and_transactions :
  [(0x92954800, Instr.kfork 20 21 9), (0x91345001, .kdrop 9 20 10), (0x91346802, .kspl 9 20 13),
   (0x91346803, .krep 9 20 13), (0x912A5824, .kprovLive 9 10 11), (0x912A0004, .kprovRd 9 10),
   (0x912A0044, .kprovRet 9 10), (0x912A0064, .kprovFree 9 10), (0x91345005, .kchk 9 20 10),
   (0x91345025, .kchkF 9 20 10), (0x940D0000, .odeclR 13), (0x940D0020, .odeclW 13), (0x95200001, .obeg 9),
   (0x94000002, .ocom)].all (fun p => decide (decodeWord p.1 0 = p.2 ∧ encode p.2 = some [p.1])) = true := by decide

theorem test_words_long : decodeWord 0xFC060000 0x13 = .limm 12 0x13 ∧ encode (.limm 12 0x13) = some [0xFC060000, 0x13] ∧
    decodeWord 0xFC148000 0x01234567 = .limmh 9 0x01234567 ∧
    encode (.limmh 9 0x01234567) = some [0xFC148000, 0x01234567] := by decide

theorem test_words_undefined : decodeWord 0xA0000000 0 = .undefinedOpcode 0xA0000000 ∧
    encode (.undefinedOpcode 0xFBFFFFFF) = some [0xFBFFFFFF] := by decide

theorem test_words_refused :
    [0x61048300, 0x61048001, 0x6104B400, 0x2CA6C005, 0x2CA6E005, 0x28A73040, 0x60000001, 0x03FE001F, 0x0000000C, 0x2123E000,
      0x2502E000, 0x04A63818, 0x18C5C003, 0x18C50043, 0x1CE10000, 0x9C000000].all
      (fun w => decide (decodeWord w 0 = .illegalInstruction (BitVec.ofNat 32 w))) = true := by decide

/-! ## States for the tests -/

/-- What a step answers, seen through a function of the next state. -/
def seen {α : Type} (r : Res) (f : State → α) (d : α) : α :=
  match r with
  | .next t => f t
  | _ => d

/-- A resident hart of one lane group with the scalars given, over one page at address 0 with every permission. -/
def tState (l : List (Reg × Word)) : State :=
  { State.reset with
    hart := l.foldl (fun h p => h.wr p.1 p.2) { Hart.absent with st := .resident }
    pages := [fetchPage 0], agenda := [Turn.plain] }

/-- A word in memory where the hart fetches. -/
def tCode (w : Nat) : State := State.reset.withFetchWord 32 w

/-! ## Scalar instructions: the tables of R62, R63, R66, R67, R75 and the examples of their entries -/

theorem test_div_truncates : seen (exec (.div 1 2 3) (tState [(2, -7), (3, 2)])) (fun t => t.hart.rd 1) 0 = -3 := by decide
theorem test_div_by_zero :
    seen (exec (.div 1 2 3) (tState [(2, 5)])) (fun t => t.hart.rd 1) 0 = 0xFFFFFFFFFFFFFFFF := by decide
theorem test_rem_sign : seen (exec (.rem 1 2 3) (tState [(2, -7), (3, 2)])) (fun t => t.hart.rd 1) 0 = -1 := by decide
theorem test_divn : seen (exec (.divn 1 2 3) (tState [(2, 0xFFFFFFFFFFFFFFF9), (3, 2)])) (fun t => t.hart.rd 1) 0
    = 0x7FFFFFFFFFFFFFFC := by decide
theorem test_remn_by_zero : seen (exec (.remn 1 2 3) (tState [(2, 5)])) (fun t => t.hart.rd 1) 0 = 5 := by decide
theorem test_div_overflow : seen (exec (.div 1 2 3) (tState [(2, 0x8000000000000000), (3, -1)])) (fun t => t.hart.rd 1) 0
    = 0x8000000000000000 := by decide
theorem test_add_wraps_and_discards :
    seen (exec (.add 0 2 3) (tState [(2, -1), (3, 1)])) (fun t => (t.hart.rd 0, t.hart.pc)) (1, 0) = (0, 4) := by decide
theorem test_sub_source_is_destination :
    seen (exec (.sub 2 2 3) (tState [(2, 0), (3, 1)])) (fun t => t.hart.rd 2) 0 = -1 := by decide
theorem test_mulh : seen (exec (.mulh 1 2 3) (tState [(2, -1), (3, 1)])) (fun t => t.hart.rd 1) 0 = -1 := by decide
theorem test_sra : seen (exec (.sra 1 2 3) (tState [(2, 0x8000000000000000), (3, 0x43)])) (fun t => t.hart.rd 1) 0
    = 0xF000000000000000 := by decide
theorem test_slt_sltn : seen (exec (.slt 1 2 3) (tState [(2, -1)])) (fun t => t.hart.rd 1) 7 = 1 ∧
    seen (exec (.sltn 1 2 3) (tState [(2, -1)])) (fun t => t.hart.rd 1) 7 = 0 := by decide
theorem test_clz_ctz_zero : seen (exec (.clz 1 2) (tState [])) (fun t => t.hart.rd 1) 0 = 64 ∧
    seen (exec (.ctz 1 2) (tState [])) (fun t => t.hart.rd 1) 0 = 64 := by decide
theorem test_lui : seen (exec (.lui 7 0x1234) (tState [])) (fun t => t.hart.rd 7) 0 = 0x12340000 := by decide
theorem test_limm : seen (exec (.limm 9 0x80000000) (tState [])) (fun t => (t.hart.rd 9, t.hart.pc)) (0, 0)
    = (0xFFFFFFFF80000000, 8) := by decide
theorem test_limmh : seen (exec (.limmh 9 0x01234567) (tState [(9, 0xFFFFFFFF89ABCDEF)])) (fun t => t.hart.rd 9) 0
    = 0x0123456789ABCDEF := by decide
theorem test_andi_zero_extends :
    seen (exec (.andi 1 2 0xFFFF) (tState [(2, -1)])) (fun t => t.hart.rd 1) 0 = 0xFFFF := by decide
theorem test_jalr_uses_old_source :
    seen (exec (.jalr 1 1 4) (tState [(1, 0x100)])) (fun t => (t.hart.rd 1, t.hart.pc)) (0, 0) = (4, 0x104) := by decide
theorem test_jalr_misaligned : seen (exec (.jalr 1 2 2) (tState [(2, 0x100)])) (fun t => (t.hart.rd 1, t.hart.st)) (1, .created)
    = (0, .saved) := by decide
theorem test_bge_signed : seen (exec (.bge 1 2 5) (tState [(1, -1)])) (fun t => t.hart.pc) 0 = 4 ∧
    seen (exec (.bgen 1 2 5) (tState [(1, -1)])) (fun t => t.hart.pc) 0 = 20 := by decide
theorem test_ldw_sign : seen (exec (.ldwS 9 3 0x1FFF) { tState [(3, 8)] with mem := [(7, 0x80)] }) (fun t => t.hart.rd 9) 0
    = 0xFFFFFFFF80000000 := by decide
theorem test_sth_bytes : seen (exec (.sth 8 2 1) (tState [(8, 0x112233), (2, 4)])) (fun t => t.mem) []
    = [(6, 0x33), (7, 0x22)] := by decide
theorem test_ldd_misaligned : seen (exec (.ldd 8 2 0) (tState [(2, 4)])) (fun t => t.hart.save.map (fun r => (r.cause, r.faddr)))
    none = some (8, 4) := by decide
theorem test_amo_cas : seen (exec (.amoCas 5 7 6 3 2) { tState [(5, 3), (6, 9), (7, 16)] with mem := [(16, 3)] })
    (fun t => (t.hart.rd 5, t.mem)) (0, []) = (3, [(16, 9)]) := by decide
theorem test_trap_record : seen (exec (.trap 5) (tState [])) (fun t => t.hart.save.map (fun r => (r.cause, r.detail, r.rpc)))
    none = some (0x10, 5, 4) := by decide
theorem test_puts_rmode_limit : seen (exec (.puts 6 7) (tState [(6, 5)])) (fun t => t.hart.st) .created = .saved ∧
    seen (exec (.puts 6 7) (tState [(6, 4)])) (fun t => t.hart.rmode) 0 = 4 := by decide
theorem test_vsetlb_grants : seen (exec (.vsetlb 5 6 6 12) { tState [(6, 40)] with hart := { (tState [(6, 40)]).hart with w := 2 } })
    (fun t => (t.hart.vl, t.hart.rd 5, t.hart.pc)) (0, 0, 0) = (16, 16, 4) := by decide
theorem test_vsetlb_exits : seen (exec (.vsetlb 5 6 6 12) (tState [])) (fun t => (t.hart.vl, t.hart.pc)) (1, 0)
    = (0, 48) := by decide

/-! ## Vector instructions: the tables of R130 to R149, R141, R242 to R244 -/

/-- A vector register of one lane group: a tag, FE set, and elements of `w` bits. -/
def tVec (tag w : Nat) (l : List Nat) : VReg :=
  { cfg := BitVec.ofNat 32 (0x80000 + tag), data := BitVec.ofNat 2048 (packNat w l) }

/-- A hart with VL, vector registers and masks besides its scalars. -/
def tVecState (vl : Nat) (l : List (Reg × Word)) (vs : List (Nat × VReg)) (ms : List (Nat × BitVec 8192)) : State :=
  (tState l).upd (fun h =>
    ms.foldl (fun h p => h.setMask p.1 p.2) { vs.foldl (fun h p => h.setV p.1 p.2) h with vl := vl })

/-- The first `n` elements of a vector register. -/
def elemsOf (r n : Nat) (t : State) : List Nat := (List.range n).map (t.hart.elem r (t.hart.grp (BitVec.ofNat 5 r)) (t.hart.ty (BitVec.ofNat 5 r)).w)

/-- R141's example: VL = 8, m1 holding bits 1, 4, 5 and 7, v2 = 10 to 17 as N32. -/
def tPermute : State :=
  tVecState 8 [(3, 6)] [(2, tVec 7 32 [10, 11, 12, 13, 14, 15, 16, 17]), (1, tVec 7 32 [1, 2, 3, 4, 5, 6, 7, 8]), (3, tVec 7 32 [])]
    [(1, 0xB2)]

theorem test_vcomp : seen (exec (.vcomp 1 2 3 1 0) tPermute) (fun t => (elemsOf 1 8 t, t.hart.rd 3)) ([], 0)
    = ([11, 14, 15, 17, 5, 6, 7, 8], 4) := by decide
theorem test_vexpd : seen (exec (.vexpd 1 2 1 0) tPermute) (elemsOf 1 8) [] = [1, 10, 3, 4, 11, 12, 7, 13] := by decide
theorem test_vslidedn : seen (exec (.vslidedn 1 2 3 0 0) tPermute) (elemsOf 1 8) [] = [16, 17, 0, 0, 0, 0, 0, 0] := by decide
theorem test_mshup : seen (exec (.mshup 2 1) tPermute) (fun t => t.hart.mask 2) 0 = 0x64 := by decide
theorem test_vslideup : seen (exec (.vslideup 1 2 3 0 0) tPermute) (elemsOf 1 8) [] = [1, 2, 3, 4, 5, 6, 10, 11] := by decide
theorem test_vidx_masked : seen (exec (.vidx 1 1) tPermute) (elemsOf 1 8) [] = [1, 1, 3, 4, 4, 5, 7, 7] := by decide
theorem test_cmpt : seen (exec (.cmpt 1 2 3 1) tPermute) (fun t => (elemsOf 1 8 t, elemsOf 3 8 t)) ([], [])
    = ([11, 14, 15, 17, 5, 6, 7, 8], [1, 4, 5, 7, 0, 0, 0, 0]) := by decide
theorem test_scat :
    seen (exec (.scat 4 1 3 1) (tVecState 8 [] [(1, tVec 7 32 [111, 114, 115, 117]), (3, tVec 7 32 [1, 4, 5, 7]), (4, tVec 7 32 [])]
      [(1, 0xB2)])) (elemsOf 4 8) [] = [0, 111, 0, 0, 114, 115, 0, 117] := by decide
theorem test_vadd_wraps_and_keeps_tail :
    seen (exec (.vadd 1 2 3 0 0 0) (tVecState 1 [] [(2, tVec 7 32 [0xFFFFFFFF, 1]), (3, tVec 7 32 [2, 1]), (1, tVec 7 32 [9, 9])] []))
      (elemsOf 1 2) [] = [1, 9] := by decide
theorem test_vadc : seen (exec (.vadc 1 2 3 0 0 0) (tVecState 2 [] [(2, tVec 7 32 [0xFFFFFFFF, 1]), (3, tVec 7 32 [0, 1])] [(0, 5)]))
    (fun t => (elemsOf 1 2 t, t.hart.mask 0)) ([], 0) = ([0, 2], 5) := by decide
theorem test_vclt_signed : seen (exec (.vclt 1 2 3 0 0 0) (tVecState 1 [] [(2, tVec 3 32 [0xFFFFFFFF]), (3, tVec 3 32 [0])] []))
    (fun t => t.hart.mask 1) 0 = 1 := by decide
theorem test_vrsum : seen (exec (.vrsum 1 2 0 0) (tVecState 3 [] [(2, tVec 7 32 [5, 6, 7, 8])] [])) (elemsOf 1 1) [] = [18] := by decide
theorem test_vunpk : seen (exec (.vunpk 8 12 0 0) (tVecState 2 [] [(12, tVec 7 32 [1, 2, 3, 4])] []))
    (fun t => (elemsOf 8 2 t, elemsOf 9 2 t)) ([], []) = ([1, 3], [2, 4]) := by decide
theorem test_mfirst_none : seen (exec (.mfirst 9 2) (tVecState 8 [] [] [(2, 0x100)])) (fun t => t.hart.rd 9) 0
    = 0xFFFFFFFFFFFFFFFF := by decide
theorem test_spick : seen (exec (.spick 9 4 14 0 0) (tVecState 3 [(14, 9)] [(4, tVec 7 32 [5, 4, 1])] [])) (fun t => t.hart.rd 9) 0
    = 2 := by decide
theorem test_fp32_add : seen (exec (.vadd 1 2 3 0 0 0) (tVecState 1 [] [(2, tVec 15 32 [0x3F800000]), (3, tVec 15 32 [0x40000000])] []))
    (elemsOf 1 1) [] = [0x40400000] := by decide

/-! ## Witnesses: for each statement with hypotheses, states and operands that meet them, clause by clause -/

theorem witness_DecodeOfEncode : (Instr.add 5 6 7).wf = true ∧ (∀ w, Instr.add 5 6 7 ≠ .illegalInstruction w) ∧
    encode (.add 5 6 7) = some [0x04A63800] := ⟨by decide, nofun, by decide⟩

theorem witness_EncodeOfDecode : (0x04A63800 : Nat) < 2 ^ 32 ∧ (0xFFFFFFFF : Nat) < 2 ^ 32 ∧
    (∀ x, decodeWord 0x04A63800 0xFFFFFFFF ≠ .illegalInstruction x) ∧
    (∀ x, decodeWord 0xFC060000 0xFFFFFFFF ≠ .illegalInstruction x) ∧ decodeWord 0xA0000000 0 = .undefinedOpcode 0xA0000000 ∧
    decodeWord 0x0000000C 0 = .illegalInstruction 0x0000000C := by
  refine ⟨by decide, by decide, fun x h => ?_, fun x h => ?_, by decide, by decide⟩
  · rw [show decodeWord 0x04A63800 0xFFFFFFFF = .add 5 6 7 by decide] at h; cases h
  · rw [show decodeWord 0xFC060000 0xFFFFFFFF = .limm 12 0xFFFFFFFF by decide] at h; cases h

theorem witness_StepRunsDecoded :
    let s := tCode 0x04A63800
    let u := s.upd (fun h => { h with pc := 0x0100000000000000 })
    (s.agenda = Turn.plain :: [] ∧ s.hart.st = .resident ∧ s.hart.sect = none ∧ s.hart.replay = none ∧ s.hart.restart = none ∧
      s.hart.hardReq = none ∧ s.fetch = .ok (0x04A63800, 0)) ∧
    (u.agenda = Turn.plain :: [] ∧ u.hart.st = .resident ∧ u.hart.sect = none ∧ u.hart.replay = none ∧ u.hart.restart = none ∧
      u.hart.hardReq = none ∧ u.fetch = .error ⟨cPage, 2, 0x0100000000000000⟩) ∧ s.hart.late = [] ∧ s.hart.heldStrips = [] ∧
    s.hart.lateWord = none ∧ s.delaying = [] ∧ s.hart.wbuf = [] :=
  ⟨⟨rfl, rfl, rfl, rfl, rfl, rfl, rfl⟩, ⟨rfl, rfl, rfl, rfl, rfl, rfl, rfl⟩, rfl, rfl, rfl, rfl, rfl⟩

/-- A hart with a vector addition at its pc on lane group 0 of core 0, another of weight 1 in context 1, and the turn. -/
def tTurnAt (turn : Nat) : State :=
  let s := tCode 0x48443000
  { s with
    parked := [{ s.hart with id := { s.hart.id with hidx := 1 }, ctx := 1, info := { s.hart.info with wght := 1 } }]
    arbs := [(0, { turn := turn, credit := [3, 3, 0, 0, 0, 0, 0, 0], chosen := none })] }

theorem witness_StepsOfCandidates : (tCode 0x04A63800).candidate (tCode 0x04A63800).hart = false ∧
    (tTurnAt 0).candidate (tTurnAt 0).hart = true ∧ (tTurnAt 0).mayIssue.2 = true ∧ (tTurnAt 1).mayIssue.2 = false := by
  decide +kernel

theorem witness_ResetState : grantWidth 1 = true ∧ grantWidth 8 = true ∧ (31 : Nat) < 32 := by decide

theorem witness_StepKeeps : ∃ t, (tCode 0x04A63800).MemInv ∧ (tCode 0x04A63800).GrantInv ∧ step (tCode 0x04A63800) = .next t :=
  ⟨_, ⟨by decide, by decide⟩, by intro h m; rw [show (tCode 0x04A63800).harts = [(tCode 0x04A63800).hart] from rfl] at m
                                 rw [List.mem_singleton.1 m]; rfl, rfl⟩

theorem witness_OnlyOutsideAccessStops : outsideAccess (.add 1 2 3) = false ∧
    step { tState [] with agenda := [{ Turn.plain with act := some (.hostMemoryAccess (.read 0x5FFFFFFFFF 2)) }] }
      = .fault (.noSuchPhysicalByte 0x5FFFFFFFFF) := ⟨rfl, rfl⟩

theorem witness_BranchesAndJumps :
    ((tState [(2, 0x100)]).hart.rd 2 + BitVec.ofInt 64 (4 : BitVec 16).toInt).toNat % 4 = 0 ∧
    ((tState [(2, 0x100)]).hart.rd 2 + BitVec.ofInt 64 (3 : BitVec 16).toInt).toNat % 4 ≠ 0 ∧
    2 ^ 56 ≤ ((tState [(2, 0x0100000000000000)]).hart.rd 2 + BitVec.ofInt 64 (0 : BitVec 16).toInt).toNat := by decide

/-- The last bytes of the page, where an access of each size still fits. -/
def tLast : State := tState [(2, 0x40000)]

theorem witness_ScalarLoadsAndStores :
    tLast.MemInv ∧ tLast.hart.wbuf = [] ∧ 0 ∉ tLast.holding ∧ (∀ w ∈ tLast.hart.wbuf, w.stream ≠ 0) ∧
    (∀ n ∈ [1, 2, 4, 8], ∀ acc ∈ [Acc.read, .write],
      tLast.access tLast.hart acc n (tLast.hart.rd 2 + BitVec.ofInt 64 ((0x1FFF : BitVec 13).toInt * n)) = .ok ⟨0x40000 - n, .hbm⟩) ∧
    0x40000 ≤ barBase ∧ tLast.delays 0 ⟨0x3FFF8, .hbm⟩ = false ∧ ({ tLast with delaying := [0] } : State).delays 0 ⟨0x3FFF8, .hbm⟩ = true ∧
    (∀ acc ∈ [Acc.read, .write], tLast.access tLast.hart acc 1 (tLast.hart.rd 2 + BitVec.ofInt 64 ((0 : BitVec 13).toInt * 1))
      = .error ⟨cPage, acc.detail, 0x40000⟩) ∧
    tLast.access tLast.hart .read (2 ^ (0 : BitVec 2).toNat) (tLast.hart.rd 2) = .error ⟨cPage, 0, 0x40000⟩ ∧
    tLast.access tLast.hart .write (2 ^ (0 : BitVec 2).toNat) (tLast.hart.rd 2) = .error ⟨cPage, 1, 0x40000⟩ ∧
    tLast.accessRmw tLast.hart (2 ^ (2 : BitVec 2).toNat) (tLast.hart.rd 2) = .error ⟨cPage, 1, 0x40000⟩ ∧
    ¬ tLast.amoToHost (2 ^ (2 : BitVec 2).toNat) (tLast.hart.rd 2) ∧
    (1 : Word).toNat % 2 ≠ 0 ∧ (1 : Word).toNat < windowEnd ∧ windowEnd ≤ (0x0100000000000000 : Word).toNat :=
  ⟨⟨rfl, rfl⟩, rfl, by decide, by decide, by intro n hn acc ha; fin_cases hn <;> fin_cases ha <;> rfl, by decide,
    by decide, by decide, by intro acc ha; fin_cases ha <;> rfl, rfl, rfl, rfl, by unfold State.amoToHost; decide, by decide, by decide, by decide⟩

/-- A state whose page is the host's. -/
def tHostPage : State := { tState [(2, 16)] with pages := [{ fetchPage 0 with attr := .host }] }

theorem witness_amoToHost : tHostPage.amoToHost (2 ^ (3 : BitVec 2).toNat) (tHostPage.hart.rd 2) := by
  unfold State.amoToHost; decide

theorem witness_ScalarAtomics :
    tLast.MemInv ∧ (tState [(2, 0x3FFF8)]).accessRmw (tState [(2, 0x3FFF8)]).hart 8 0x3FFF8 = .ok ⟨0x3FFF8, .hbm⟩ ∧
    tHostPage.accessRmw tHostPage.hart 8 16 = .ok ⟨16, .host⟩ ∧ PageAttr.hbm ≠ .host ∧ 0x3FFF8 + 8 ≤ barBase ∧
    (tState [(2, 0x3FFFF)]).access (tState [(2, 0x3FFFF)]).hart .read 1 0x3FFFF = .ok ⟨0x3FFFF, .hbm⟩ ∧
    (tState [(2, 0x3FFFF)]).access (tState [(2, 0x3FFFF)]).hart .write 1 0x3FFFF = .ok ⟨0x3FFFF, .hbm⟩ ∧
    0 ∉ tLast.holding := ⟨⟨rfl, rfl⟩, rfl, rfl, by decide, by decide, rfl, rfl, by decide⟩

theorem witness_OrderingInstructions : (1 : BitVec 10).getLsbD 0 = true ∧ (tState []).hart.info.det = false ∧
    ((tState []).upd (fun h => { h with info := { h.info with det := true } })).hart.info.det = true := by decide

/-- A trap whose save writes the least. -/
def tSoftTrap : Trap :=
  { cause := 0x20, detail := 0, rpc := 4, fel := false, fidx := 0, faddr := 0, ctr := ctrDone, performed := 0 }

/-- A hart with a save area in the test page. -/
def tArea : State :=
  { State.reset with hart := { Hart.absent with st := .resident, trapbase := 0x200 }, pages := [fetchPage 0] }

theorem witness_TakingAnException : (tState []).hart.lane = none ∧ (tState []).hart.replay = none ∧
    (tState []).hart.trapbase = 0 ∧ (tState []).hart.wbuf = [] ∧ (tState []).hart.late = [] ∧ (0x11 : BitVec 8).toNat ≤ 0x11 ∧
    0x11 < tSoftTrap.cause.toNat ∧ (tState []).wdogDue (tState []).hart = false ∧
    (let s := { (tState []).upd (fun h => { h with info := { h.info with tbud := 1 }, tx := { h.tx with st := .opened } }) with cycle := 2500 }
     s.hart.handler = none ∧ s.wdogDue s.hart = true ∧ s.hart.tx.st = .opened) ∧
    (let k : Handler := { sregs := Vector.replicate 32 0, rpc := 4, pc := 0, areaWritten := true, overrunAt := some 0 };
     let s := { (tState []).upd (fun h => { h with info := { h.info with tbud := 1 }, handler := some k, badRegs := true }) with cycle := 2500 };
     s.hart.handler.isSome = true ∧ s.overrun s.hart = true ∧ s.hart.badRegs = true) := by decide

/-- Whether a translation succeeds with a place. -/
def reaches (r : Except Flt Phys) (p : Phys) : Bool :=
  match r with
  | .ok q => decide (q = p)
  | .error _ => false

theorem reaches_ok {r : Except Flt Phys} {p : Phys} (h : reaches r p = true) : r = .ok p := by
  cases r with
  | ok q => exact congrArg Except.ok (of_decide_eq_true h)
  | error e => cases h

theorem tArea_reached : (List.range 96).all (fun k =>
    reaches (tArea.translate tArea.hart.info.asid .write (tArea.hart.trapbase + BitVec.ofNat 64 (8 * k))) ⟨0x200 + 8 * k, .hbm⟩)
    = true := by decide

/-- Addresses of the test page translate to themselves. -/
theorem page_translates (s : State) (hp : s.pages = [fetchPage 0]) (ht : s.tlb = []) (a : Nat) (ha : a < 0x40000) :
    s.translate 0 .write (BitVec.ofNat 64 a) = .ok ⟨a, .hbm⟩ := by
  have e : (BitVec.ofNat 64 a).toNat = a := by simp; omega
  unfold State.translate
  rw [e]
  have h1 : ¬ windowEnd ≤ a := by unfold windowEnd; omega
  have h2 : ¬ kvWindow ≤ a := by unfold kvWindow; omega
  have h3 : ¬ codeWindow ≤ a := by unfold codeWindow; omega
  have c : pageCovers (fetchPage 0) 0 a = true := by
    simp [pageCovers, fetchPage, pageBytes]; omega
  have h4 : s.pageOf 0 a = some (fetchPage 0) := by
    rw [State.pageOf, hp, ht]; simp only [List.find?_nil, List.find?_cons, c]
  simp only [h1, h2, h3, if_false, h4]
  have h5 : ¬ hbmBytes ≤ 0 + (a - 0) := by unfold hbmBytes; omega
  simp [pagePermits, fetchPage] at h5 ⊢
  rw [if_neg (by omega)]
  simp; omega

theorem page_putWords (ws : List (Nat × Nat)) (s : State) (h : Hart) (hp : s.pages = [fetchPage 0]) (ht : s.tlb = [])
    (hb : h.trapbase = 0x200) (hi : h.info.asid = 0) (hw : ∀ p ∈ ws, p.1 < 0x10000) : ∃ t, s.putWords h ws = some t := by
  induction ws generalizing s with
  | nil => exact ⟨s, rfl⟩
  | cons w ws ih =>
    obtain ⟨o, v⟩ := w
    have ho : o < 0x10000 := hw _ (List.mem_cons_self ..)
    have e : h.trapbase + BitVec.ofNat 64 o = BitVec.ofNat 64 (0x200 + o) := by
      rw [hb, BitVec.ofNat_add]; rfl
    unfold State.putWords
    rw [hi, e, page_translates s hp ht _ (by omega)]
    have nb : ¬ barBase ≤ 0x200 + o := by unfold barBase; omega
    refine ih _ ?_ ?_ (fun p m => hw p (List.mem_cons_of_mem _ m))
    · unfold State.commitMem; rw [if_neg nb]; exact hp
    · unfold State.commitMem; rw [if_neg nb]; exact ht

/-- The test hart when what it issued has landed. -/
def tLanded : State := tArea.upd (fun h => h.landAll)

theorem tArea_offsets (p : Nat × Nat) (m : p ∈ saveWords .soft tLanded.hart (tArea.hart.record tArea.cycle tSoftTrap)) : p.1 < 0x10000 := by
  have hd : (headerWords tLanded.hart (tArea.hart.record tArea.cycle tSoftTrap)).length = 44 := by decide +kernel
  have gens : ∀ i < 8, (tLanded.hart.gen i).loaded = false := by decide
  have wins : ∀ i < 4, (tLanded.hart.window i).opened = false := by decide
  have tiles : ∀ i < 8, (tLanded.hart.tile i).enabled = false := by decide
  have hdr : ∀ l : List Nat, l.length = 64 → ∀ q ∈ (List.range l.length).map (fun i => (8 * i, l.getD i 0)), q.1 < 0x10000 := by
    intro l hl q hq
    obtain ⟨i, hi, rfl⟩ := List.mem_map.1 hq
    have := List.mem_range.1 hi
    show 8 * i < 0x10000
    omega
  unfold saveWords bodyWords at m
  simp only [List.mem_append, reduceCtorEq, if_false, List.not_mem_nil, false_or, or_false] at m
  have len : (headerWords tLanded.hart (tArea.hart.record tArea.cycle tSoftTrap) ++
      List.replicate (64 - (headerWords tLanded.hart (tArea.hart.record tArea.cycle tSoftTrap)).length) 0).length = 64 := by
    rw [List.length_append, List.length_replicate, hd]
  rcases m with ((((((((m | m) | m) | m) | m) | m) | m)) | m) | m
  · obtain ⟨i, hi, m⟩ := List.mem_flatMap.1 m
    have := dwords_lt _ _ _ _ m; have := List.mem_range.1 hi; omega
  · have := dwords_lt _ _ _ _ m; omega
  · obtain ⟨i, hi, m⟩ := List.mem_flatMap.1 m
    have := dwords_lt _ _ _ _ m; have := List.mem_range.1 hi; omega
  · obtain ⟨i, hi, m⟩ := List.mem_flatMap.1 m
    rw [gens i (List.mem_range.1 hi)] at m; cases m
  · obtain ⟨i, hi, m⟩ := List.mem_flatMap.1 m
    rw [wins i (List.mem_range.1 hi)] at m; cases m
  · obtain ⟨i, hi, m⟩ := List.mem_flatMap.1 m
    rw [tiles i (List.mem_range.1 hi)] at m; cases m
  · obtain ⟨i, hi, rfl⟩ := List.mem_map.1 m
    have := List.mem_range.1 hi
    show 512 + 8 * i < 0x10000
    omega
  · exact hdr _ len _ (List.mem_of_mem_drop m)
  · exact hdr _ len _ (List.mem_of_mem_take m)

theorem tArea_saved : ∃ r, (tArea.taken tSoftTrap).hart.save = some r ∧ r.reserve = false := by
  obtain ⟨t, ht⟩ := page_putWords (saveWords .soft tLanded.hart (tArea.hart.record tArea.cycle tSoftTrap)) tLanded tLanded.hart
    rfl rfl rfl rfl tArea_offsets
  have w := State.writeArea_save tLanded t .soft (tArea.hart.record tArea.cycle tSoftTrap) (by decide) ht
  have d : State.drainAll (tArea.settleLoads.upd fun h => h.landAll) = tLanded := State.drain_of_empty tLanded _ rfl
  have k : saveKindOf tSoftTrap.cause = .soft := rfl
  rw [← k] at w
  exact ⟨_, State.taken_save tArea tLanded tSoftTrap _ rfl rfl d rfl (by decide) w, rfl⟩

theorem witness_SaveAreaContents : tArea.MemInv ∧ tArea.hart.lane = none ∧ tArea.hart.handler = none ∧
    tArea.hart.trapbase ≠ 0 ∧ 0x200 + 0x300 ≤ barBase ∧
    (∀ o < 0x300, o % 8 = 0 →
      tArea.translate tArea.hart.info.asid .write (tArea.hart.trapbase + BitVec.ofNat 64 o) = .ok ⟨0x200 + o, .hbm⟩) ∧
    ∃ r, (tArea.taken tSoftTrap).hart.save = some r ∧ r.reserve = false :=
  ⟨⟨rfl, rfl⟩, rfl, rfl, by decide, by decide, fun o h1 h2 => by
      have := List.all_eq_true.1 tArea_reached (o / 8) (List.mem_range.2 (by omega))
      rw [show 8 * (o / 8) = o by omega] at this
      exact reaches_ok this, tArea_saved⟩

/-- A running emulation handler. -/
def tHandler (w : Bool) : Handler :=
  { sregs := Vector.replicate 32 7, pc := 0, rpc := 4, areaWritten := w, overrunAt := none }

def tHandling (w : Bool) : State := tArea.upd (fun h => { h with handler := some (tHandler w), st := .waiting .emulation })

theorem witness_TrapsTaken : (tState []).hart.lane = none ∧ (tState []).hart.badRegs = false ∧ (tState []).hart.handler = none ∧ (tState []).hart.info.emuh = 0 ∧
    (tHandling true).hart.handler.isSome = true := by decide

theorem witness_EmulationHandler :
    (let s := (tState []).upd (fun h => { h with info := { h.info with emuh := 0x100 } })
     s.hart.info.emuh ≠ 0 ∧ s.hart.handler = none ∧ s.hart.lane = none) ∧
    (∀ w, (tHandling w).hart.handler = some (tHandler w)) ∧ (tHandler false).areaWritten = false ∧
    (tHandler true).areaWritten = true ∧
    (tHandling true).translate (tHandling true).hart.info.asid .read ((tHandling true).hart.trapbase + 8) = .ok ⟨0x208, .hbm⟩ ∧
    (tHandling true).translate (tHandling true).hart.info.asid .read
      ((tHandling true).hart.trapbase + BitVec.ofNat 64 (0x200 + 8 * (31 : Reg).toNat)) = .ok ⟨0x4F8, .hbm⟩ ∧
    (∀ i < 8, (((tHandling true).upd Hart.landAll).drainAll).poison.contains (0x208 + i) = false) := by
  exact ⟨by decide, fun _ => rfl, rfl, rfl, rfl, rfl, by decide⟩

theorem witness_NamedState : (7 : Reg).toNat < 8 ∧ 8 ≤ (8 : Reg).toNat ∧ 17 ≤ (17 : Reg).toNat ∧
    ((tState [(6, 127)]).hart.rd 6).toNat < 2 ^ 7 ∧ ((tState [(6, 47)]).hart.rd 6).toNat ≤ 47 := by decide

/-- A hart of weight `n` in context `c`, alone or beside another of weight `m` in context 1. -/
def tTurns (n : BitVec 4) (c : Nat) (m : Option (BitVec 4)) : State :=
  let h : Hart := { (tState []).hart with ctx := c, info := { LaunchInfo.none with wght := n } }
  { tState [] with
    hart := h
    parked := match m with
      | some k => [{ h with id := { h.id with hidx := 1 }, ctx := 1, info := { h.info with wght := k } }]
      | none => [] }

theorem witness_TurnsAndProgress :
    (0 : Nat) < (tTurns 1 0 none).hart.w ∧ ((tTurns 1 3 none).arb 0 0).turn ≠ (tTurns 1 3 none).hart.ctx ∧
    (((tTurns 1 0 (some 2)).arb 0 0).turn = (tTurns 1 0 (some 2)).hart.ctx ∧ (tTurns 1 0 (some 2)).nextTurn 0 0 0 = some 1 ∧
      1 ≠ (tTurns 1 0 (some 2)).hart.ctx) ∧
    (((tTurns 0 0 none).arb 0 0).turn = (tTurns 0 0 none).hart.ctx ∧ (tTurns 0 0 none).nextTurn 0 0 0 = none) ∧
    (tState []).hart.inTx = false ∧
    ((tState []).upd (fun h => { h with tx := { h.tx with st := .opened } })).hart.inTx = true ∧
    (tState []).seedLog.length < 4096 := by decide

theorem witness_HaltRetires : (tState []).hart.lane = none ∧
    ((tState []).upd (fun h => { h with lane := some 0 })).hart.lane.isSome = true ∧ (tState []).hart.onCore = true ∧
    (let s := { tState [] with lparts := [(0, 1)] }
     partEn (s.lpart s.hart.core) = true ∧ s.hart.ctx = partHA (s.lpart s.hart.core)) := by decide

/-- A launch of the test hart with `left` harts to retire and DONEA in the page, none or one of them cancelled. -/
def tEnding (left : Nat) (cancelled : Bool) : Launch :=
  { rcb := 0, seq := 0, queue := 1, handle := 0, left := left, cancelled := cancelled, info := LaunchInfo.none, donea := 0x800, donev := 5 }

theorem witness_LaunchEnds : (tState []).MemInv ∧ (∀ n b, ({ tState [] with launches := [tEnding n b] } : State).launches.find?
      (fun l => decide (l.seq = (tState []).hart.id.seq)) = some (tEnding n b)) ∧ 1 < (tEnding 2 false).left ∧ (tEnding 1 true).left = 1 ∧
    (tEnding 1 true).donea ≠ 0 ∧ (tState []).translate (tEnding 1 true).info.asid .write ((tEnding 1 true).donea.setWidth 64)
      = .ok ⟨0x800, .hbm⟩ ∧ 0x800 + 8 ≤ barBase ∧ (∀ c ∈ (tState []).cmds, c.seq ≠ (tState []).hart.id.seq) ∧
    (let c : Cmd := { seq := 0, queue := 1, pkt := Vector.replicate 8 0, began := true, leftOut := false }
     ({ tState [] with cmds := [c] } : State).cmds.find? (fun c => decide (c.seq = (tState []).hart.id.seq)) = some c) :=
  ⟨⟨rfl, rfl⟩, fun _ _ => rfl, by decide, rfl, by decide, rfl, by decide, by decide, rfl⟩

/-- Two harts of one launch at the strip-mine heads of core 0, LPART naming both, each standing in the other's part when
`crossed`. -/
def tHeads (crossed : Bool) : State :=
  let s := tCode 0x40A60580
  let h : Hart := { s.hart with partDue := true, lgb := if crossed then 4 else 0, w := 4, info := { s.hart.info with rwid := 4 } }
  { s with
    hart := h, lparts := [(0, 0x201)]
    parked := if crossed then [{ h with id := { h.id with hidx := 1 }, ctx := 1, lgb := 0 }] else [] }

theorem witness_VectorLengthGrant :
    (∀ s ∈ [tState [], tHeads true, tHeads false], s.softDue s.hart = false ∧ s.regrant.isSome = true) ∧
    (tState []).hart.partDue = false ∧
    (let s := (tState []).upd (fun h => { h with soft := [⟨0, .host⟩] }); s.softDue s.hart = true ∧ s.hart.onCore = true) ∧
    (let s := tState []; ∀ x ∈ s.harts, x.id = s.hart.id → x.st ≠ .ready) := by
  decide +kernel

/-- Said of a head that must take a new grant: alone it takes one; crossed with another at its head they exchange; crossed with
one that is not at its head it waits. -/
theorem witness_PartHeads :
    (∀ s ∈ [tHeads true, tHeads false], s.hart.partDue = true ∧ s.hart.windowOpen = false ∧ s.lgWindow s.hart.core s.hart.ctx ≠ (0, 0)) ∧
    ((tHeads false).newGrant (tHeads false).hart).isSome = true ∧ (∀ x ∈ (tHeads false).parked, x.id ≠ (tHeads false).hart.id) ∧
    (tHeads true).newGrant (tHeads true).hart = none ∧
    ((tHeads true).harts.find? (fun x => decide (x.id ≠ (tHeads true).hart.id) && x.core == (tHeads true).hart.core && x.partDue &&
      !x.windowOpen && (tHeads true).atHead x)).isSome = true ∧
    (let s := { tHeads true with parked := (tHeads true).parked.map (fun (h : Hart) => { h with partDue := false }) }
     s.newGrant s.hart = none ∧ s.softDue s.hart = false ∧ ∀ x ∈ s.harts, (decide (x.id ≠ s.hart.id) && x.core == s.hart.core && x.partDue &&
      !x.windowOpen && s.atHead x) = false) := by
  decide +kernel

/-- A hart whose register 1 is empty, and one whose register 24 is bound to a read stream of no elements. -/
def tEmpty : State := tPermute.upd (fun h => h.setFull false 1)
def tBound : State := (tState []).upd (fun h => h.setGen 0 { loaded := true, bound := true, record := 0, pos := 0, ahead := 0 })

theorem witness_Configuration :
    cfgLegal (15 : Reg).toNat (0 : BitVec 6).toNat = true ∧ (5 : BitVec 3).toNat ≤ 5 ∧ (7 : BitVec 3) ≠ 1 ∧ (7 : BitVec 3) ≠ 2 ∧
    tPermute.hart.isBound (2 : Reg).toNat = false ∧ (1 : Reg).toNat % 2 ≠ 0 ∧
    (∃ r ∈ members (24 : Reg).toNat 1, tBound.hart.isBound r = true) ∧
    ((1 : Reg).toNat % 1 = 0 ∧ (∀ r ∈ members (1 : Reg).toNat 1, tEmpty.hart.isBound r = false) ∧ tEmpty.hart.lane = none ∧
      ∃ r ∈ members (1 : Reg).toNat 1, cfgFull (tEmpty.hart.v r).cfg = false) ∧
    ((24 : Reg).toNat % 8 = 0 ∧ tPermute.hart.usable (24 : Reg).toNat 8) ∧
    ((2 : Reg).toNat % tPermute.hart.grp 2 = 0 ∧ ∀ r ∈ members (2 : Reg).toNat (tPermute.hart.grp 2), tPermute.hart.isBound r = false) ∧
    (26 < (27 : Reg).toNat ∧ 15 < (16 : BitVec 6).toNat ∧ 31 < (32 : BitVec 6).toNat ∧ (3 : Reg) ≠ 9 ∧ (3 : Reg) ≠ 10 ∧ (1 : BitVec 6) ≠ 0 ∧
      6 ≤ (6 : BitVec 3).toNat) ∧ (1 : Reg).toNat % (tVecState 8 [] [(1, { cfg := 0x00080807, data := 0 })] []).hart.grp 1 ≠ 0 := by
  unfold Hart.usable; decide

theorem witness_EmptyRegisters :
    (tEmpty.hart.Plain ∧ (tEmpty.hart.ty 1).cls ≠ .untagged ∧ tEmpty.hart.opOk 1 tEmpty.hart.vl = true ∧
      tEmpty.hart.resOk 2 (tEmpty.hart.ty 1) (tEmpty.hart.grp 1) tEmpty.hart.vl = true ∧
      (∀ r ∈ members (1 : Reg).toNat (tEmpty.hart.grp 1) ++ members (2 : Reg).toNat (tEmpty.hart.grp 1),
        tEmpty.hart.isBound r = false) ∧
      ∃ r ∈ members (1 : Reg).toNat (tEmpty.hart.grp 1), cfgFull (tEmpty.hart.v r).cfg = false) ∧
    (∀ r ∈ members (2 : Reg).toNat (tEmpty.hart.grp 2), cfgFull (tEmpty.hart.v r).cfg = true) ∧
    ∃ r ∈ members (1 : Reg).toNat (tEmpty.hart.grp 2), cfgFull (tEmpty.hart.v r).cfg = false := by
  refine ⟨⟨⟨rfl, rfl, rfl, rfl, rfl, rfl, rfl⟩, ?_⟩, ?_⟩ <;> decide

/-- The hart of R141's example with VL = 0, and with FP32 elements. -/
def tNoLength : State := tPermute.upd (fun h => { h with vl := 0 })
def tFloats : State := tVecState 8 [(3, 6)] [(1, tVec 15 32 []), (2, tVec 15 32 [0x3F800000]), (3, tVec 15 32 [])] []

theorem witness_ElementwiseResults : ∀ s ∈ [tPermute, tNoLength],
    s.hart.Plain ∧ s.hart.opOk 2 s.hart.vl = true ∧
    (∀ op ∈ [EOp.add, .sub, .mul, .fma, .min, .max, .and, .or, .xor, .shl, .shr, .sel, .abs, .neg, .mov],
      s.hart.resOk 1 (op.result (s.hart.v 2).cfg).1 (op.result (s.hart.v 2).cfg).2.1 s.hart.vl = true ∧
      op.tooWide (s.hart.v 2).cfg = false ∧ (op.result (s.hart.v 2).cfg).2.2 = true ∧ op.accepts (s.hart.ty 2).cls = true ∧
      sameCfg (s.hart.v 1).cfg (mkCfg (op.result (s.hart.v 2).cfg).1 (op.result (s.hart.v 2).cfg).2.1) = true ∧
      op.pairs (s.hart.v 2).cfg (s.hart.v 3).cfg = true) ∧
    s.hart.opOk 3 s.hart.vl = true ∧ (s.hart.ty 3).cls ≠ .untagged ∧
    s.hart.usable 3 (s.hart.grp 3) ∧ s.hart.usable 2 (s.hart.grp 2) ∧ s.hart.usable 1 1 := by
  intro s m
  fin_cases m <;> refine ⟨⟨rfl, rfl, rfl, rfl, rfl, rfl, rfl⟩, ?_⟩ <;> unfold Hart.usable <;> decide

theorem witness_ElementwiseLength : tNoLength.hart.vl = 0 ∧ 0 < tPermute.hart.vl := by decide

theorem witness_IntegerElements : (⟨7, 0⟩ : Ty).isInt = true ∧ (⟨7, 0⟩ : Ty).cls = .nint ∧ (⟨3, 0⟩ : Ty).cls = .sint ∧
    0xFFFFFFFF < 2 ^ (⟨7, 0⟩ : Ty).w := by decide

theorem witness_CarryForms : ∀ s ∈ [tPermute, tNoLength],
    s.hart.Plain ∧ (s.hart.ty 2).isInt = true ∧ sameCfg (s.hart.v 2).cfg (s.hart.v 3).cfg = true ∧
    s.hart.opOk 2 s.hart.vl = true ∧ s.hart.opOk 3 s.hart.vl = true ∧
    s.hart.resOk 1 (s.hart.ty 2) (s.hart.grp 2) s.hart.vl = true ∧ s.hart.usable 2 (s.hart.grp 2) ∧
    s.hart.usable 3 (s.hart.grp 3) ∧ s.hart.usable 1 (s.hart.grp 2) := by
  intro s m
  fin_cases m <;> refine ⟨⟨rfl, rfl, rfl, rfl, rfl, rfl, rfl⟩, ?_⟩ <;> unfold Hart.usable <;> decide

theorem witness_ComparesAndMasks : tPermute.hart.Plain ∧ tPermute.hart.opOk 2 8 = true ∧
    (∀ rel ∈ [Rel.eq, .ne, .lt, .ge], rel.accepts (tPermute.hart.ty 2).cls = true) ∧ tPermute.hart.usable 2 (tPermute.hart.grp 2) ∧
    tPermute.hart.opOk 3 8 = true ∧ sameCfg (tPermute.hart.v 2).cfg (tPermute.hart.v 3).cfg = true ∧
    tPermute.hart.usable 3 (tPermute.hart.grp 3) ∧ (⟨7, 0⟩ : Ty).isInt = true ∧ (⟨15, 0⟩ : Ty).cls = .flt ∧
    (((⟨15, 0⟩ : Ty).value 0x7FC00000).isNan || ((⟨15, 0⟩ : Ty).value 0).isNan) = true ∧
    (⟨15, 0⟩ : Ty).value 0x80000000 = .fin true 0 (-149) ∧ (⟨15, 0⟩ : Ty).value 0 = .fin false 0 (-149) ∧
    (⟨15, 0⟩ : Ty).value 0xFF800000 = .inf true ∧ (⟨7, 0⟩ : Ty).cls ≠ .flt ∧ (⟨21, 0⟩ : Ty).cls ≠ .flt ∧
    (tPermute.hart.mask 1).getLsbD 1 = true ∧ (∀ j < 1, (tPermute.hart.mask 1).getLsbD j = false) ∧
    ∀ e < tPermute.hart.vl, (tPermute.hart.mask 2).getLsbD e = false := by
  refine ⟨⟨rfl, rfl, rfl, rfl, rfl, rfl, rfl⟩, ?_⟩; unfold Hart.usable; decide

theorem witness_PermutesAndFills : ∀ s ∈ [tPermute, tNoLength],
    s.hart.Plain ∧ (s.hart.ty 2).cls ≠ .untagged ∧ s.hart.opOk 2 s.hart.vl = true ∧
    s.hart.resOk 1 (s.hart.ty 2) (s.hart.grp 2) s.hart.vl = true ∧ s.hart.usable 2 (s.hart.grp 2) ∧
    s.hart.usable 1 (s.hart.grp 2) ∧ s.hart.opOk 3 s.hart.vl = true ∧ isIndexTy (s.hart.ty 3) = true ∧
    s.hart.usable 3 (s.hart.grp 3) ∧ (s.hart.ty 1).cls ≠ .untagged ∧ (s.hart.ty 1).isInt = true ∧
    s.hart.opOk 1 s.hart.vl = true ∧ s.hart.usable 1 (s.hart.grp 1) := by
  intro s m
  fin_cases m <;> refine ⟨⟨rfl, rfl, rfl, rfl, rfl, rfl, rfl⟩, ?_⟩ <;> unfold Hart.usable <;> decide

/-- N32 elements whose reduction widens to N64. -/
def tWiden : State := tVecState 4 [] [(1, tVec 8 64 []), (2, { cfg := 0x0008A007, data := 5 })] []

theorem witness_ReductionsAndScales :
    (∀ s ∈ [tPermute, tNoLength], s.hart.Plain ∧ s.hart.opOk 2 s.hart.vl = true ∧
      (∀ op ∈ [ROp.sum, .max, .min], op.accepts (s.hart.ty 2).cls = true) ∧ s.hart.usable 2 (s.hart.grp 2) ∧
      s.hart.usable 1 1 ∧ cfgW2 (s.hart.v 2).cfg = 0) ∧
    (tWiden.hart.Plain ∧ cfgW2 (tWiden.hart.v 2).cfg ≠ 0 ∧
      widenTy (tWiden.hart.ty 2) (w2Bits (cfgW2 (tWiden.hart.v 2).cfg)) false = some ⟨8, 0⟩) ∧
    ((⟨7, 0⟩ : Ty).isInt = true ∧ (∀ e < 8, tPermute.hart.elem 2 1 32 e < 2 ^ (⟨7, 0⟩ : Ty).w) ∧
      (⟨15, 0⟩ : Ty).cls = .flt ∧ ((⟨15, 0⟩ : Ty).value 0x7FC00000).isNan = true) ∧
    (tFloats.hart.Plain ∧ (7 : Reg).toNat < 8 ∧ (tFloats.hart.ty 2).cls = .flt ∧ tFloats.hart.opOk 2 tFloats.hart.vl = true ∧
      tFloats.hart.usable 2 (tFloats.hart.grp 2)) := by
  refine ⟨?_, ⟨⟨rfl, rfl, rfl, rfl, rfl, rfl, rfl⟩, ?_⟩, ?_, ⟨⟨rfl, rfl, rfl, rfl, rfl, rfl, rfl⟩, ?_⟩⟩
  · intro s m
    fin_cases m <;> refine ⟨⟨rfl, rfl, rfl, rfl, rfl, rfl, rfl⟩, ?_⟩ <;> unfold Hart.usable <;> decide
  · decide
  · decide
  · unfold Hart.usable; decide

/-- A float source and destinations of FP32, of the code-table type and of a paired-scale type. -/
def tConvert (tagA tagD : Nat) : State := tVecState 8 [] [(2, tVec tagA 8 []), (1, tVec tagD 8 [])] []

theorem witness_Conversions :
    (∀ p ∈ [(15, 14), (15, 15), (15, 26), (26, 15), (15, 22), (22, 15)], let s := tConvert p.1 p.2
      s.hart.Plain ∧ s.hart.opOk 2 s.hart.vl = true ∧ s.hart.opOk 1 s.hart.vl = true ∧ s.hart.usable 2 (s.hart.grp 2) ∧
        s.hart.usable 1 (s.hart.grp 1)) ∧
    cvtOk (cvtClass ((tConvert 15 14).hart.ty 2)) (cvtClass ((tConvert 15 14).hart.ty 1)) = true ∧
    (∀ p ∈ [(15, 26), (15, 22)], ((tConvert p.1 p.2).hart.ty 2).cls = .flt) ∧
    (∀ p ∈ [(26, 15), (22, 15)], ((tConvert p.1 p.2).hart.ty 1).cls = .flt) ∧
    ((tConvert 15 26).hart.ty 1).tag = 26 ∧ ((tConvert 26 15).hart.ty 2).tag = 26 ∧
    ((tConvert 15 22).hart.ty 1).tag ≠ 26 ∧ psBits ((tConvert 15 22).hart.ty 1) ≠ 0 ∧
    ((tConvert 22 15).hart.ty 2).tag ≠ 26 ∧ psBits ((tConvert 22 15).hart.ty 2) ≠ 0 ∧
    (7 : Reg).toNat < 8 ∧ ((tConvert 15 26).codeTab (tConvert 15 26).hart.core).swapPending = false := by
  refine ⟨?_, ?_⟩
  · intro p m
    fin_cases m <;> refine ⟨⟨rfl, rfl, rfl, rfl, rfl, rfl, rfl⟩, ?_⟩ <;> unfold Hart.usable <;> decide
  · decide

theorem witness_Pairing : let s := tPermute.upd (fun h => { h with vl := 4 })
    s.hart.Plain ∧ 0 < s.hart.vl ∧ (s.hart.ty 2).cls ≠ .untagged ∧
    ((8 : Reg).toNat % (2 * s.hart.grp 2) = 0 ∧ s.hart.opOk 2 (2 * s.hart.vl) = true ∧ s.hart.usable 2 (s.hart.grp 2) ∧
      s.hart.usable 8 (2 * s.hart.grp 2)) ∧
    ((2 : Reg).toNat % (2 * s.hart.grp 2) = 0 ∧ sameCfg (s.hart.v 2).cfg (s.hart.v (2 + s.hart.grp 2)).cfg = true ∧
      s.hart.fits 2 (s.hart.grp 2) (s.hart.ty 2).w (2 * s.hart.vl) = true ∧
      s.hart.resOk 8 (s.hart.ty 2) (s.hart.grp 2) (2 * s.hart.vl) = true ∧ s.hart.usable 2 (2 * s.hart.grp 2)) := by
  refine ⟨⟨rfl, rfl, rfl, rfl, rfl, rfl, rfl⟩, ?_⟩; unfold Hart.usable; decide

/-- A rotation of FP32 pairs v8, v9 by the BA32 angles of v4, for 32 iterations or few. -/
def tRotate : State :=
  tVecState 8 [] [(8, tVec 15 32 [0x3F800000]), (9, tVec 15 32 []), (4, tVec 12 32 [0x20000000]), (5, tVec 15 32 [])] []

theorem witness_Rotations : tRotate.hart.Plain ∧ 0 < tRotate.hart.vl ∧ tRotate.hart.vl ≤ 8 * tRotate.hart.w ∧
    (2 * (4 : BitVec 4).toNat) % (2 * cfgGrp (tRotate.hart.v 8).cfg) = 0 ∧ tRotate.hart.fits 8 1 32 8 = true ∧
    pairTag (cfgTy (tRotate.hart.v 8).cfg) = true ∧ sameCfg (tRotate.hart.v 8).cfg (tRotate.hart.v 9).cfg = true ∧
    tRotate.hart.opOk 4 8 = true ∧ angleTag .circular (tRotate.hart.ty 4) = true ∧ tRotate.hart.opOk 5 8 = true ∧
    angleTag .linear (tRotate.hart.ty 5) = true ∧ angleTag .hyperbolic (tRotate.hart.ty 5) = true ∧
    (∀ r ∈ members 8 2, cfgTag (tRotate.hart.v r).cfg ≠ 0) ∧ tRotate.hart.usable 8 2 ∧ tRotate.hart.usable 4 (tRotate.hart.grp 4) ∧ tRotate.hart.usable 5 (tRotate.hart.grp 5) ∧
    4 + 1 ≤ 8 ∧ 16 < (44 : BitVec 6).toNat := by
  refine ⟨⟨rfl, rfl, rfl, rfl, rfl, rfl, rfl⟩, ?_⟩; unfold Hart.usable; decide

theorem witness_RotationElements : ((⟨15, 0⟩ : Ty).value 0x7F800000).special = true ∧
    ((⟨15, 0⟩ : Ty).value 0x3F800000).special = false ∧ ((⟨12, 0⟩ : Ty).value 7).special = false ∧ (⟨9, 4⟩ : Ty).cls = .fx ∧
    ((⟨15, 0⟩ : Ty).cls = .flt ∧ pairTag ⟨15, 0⟩ = true ∧ 0x3F800000 < 2 ^ (⟨15, 0⟩ : Ty).w ∧
      (⟨15, 0⟩ : Ty).value 0x3F800000 = .fin false 0x800000 (-23) ∧ (⟨15, 0⟩ : Ty).value 0 = .fin false 0 (-149)) ∧
    (⟨10, 31⟩ : Ty).frac ≤ 44 ∧ (⟨10, 31⟩ : Ty).cls = .fx := by decide

/-- Eight words of data at the end of the page, addressed by s13, with an index vector in v2. -/
def tMemory (vl : Nat) : State :=
  tVecState vl [(13, 0x3FFE0), (9, 4)] [(6, tVec 7 32 []), (7, tVec 7 32 []), (2, tVec 7 32 [0, 4, 8, 12, 16, 20, 24, 28]),
    (4, tVec 4 2 [])] []

theorem tMemory_reads (e : Nat) (h : e < 8) :
    (tMemory 8).readPlace false 32 (placeAt 0x3FFE0 (e * 32)) = .ok 0 ∧
    (tMemory 8).readPlace false 32 ⟨0x3FFE0 + BitVec.ofInt 64 (e * (4 : Word).toInt), 0⟩ = .ok 0 ∧
    (tMemory 8).readPlace false 32 ⟨0x3FFE0 + BitVec.ofNat 64 ((tMemory 8).hart.elem 2 1 32 e), 0⟩ = .ok 0 ∧
    (tMemory 8).reach .write 32 (placeAt 0x3FFE0 (e * 32)) = .ok [⟨0x3FFE0 + 4 * e, .hbm⟩] := by
  interval_cases e <;> exact ⟨rfl, rfl, rfl, rfl⟩

theorem witness_VectorLoads : (tMemory 8).hart.Plain ∧ ((tMemory 8).hart.ty 6).cls ≠ .untagged ∧ (tMemory 8).hart.opOk 6 8 = true ∧
    (tMemory 8).hart.usable 6 ((tMemory 8).hart.grp 6) ∧ 8 ≤ ((tMemory 8).hart.ty 6).w ∧ (tMemory 8).hart.opOk 2 8 = true ∧
    isIndexTy ((tMemory 8).hart.ty 2) = true ∧ (tMemory 8).hart.usable 2 ((tMemory 8).hart.grp 2) ∧ (tMemory 0).hart.vl = 0 ∧
    0 < (tMemory 8).hart.vl ∧ (tMemory 8).hart.rd 13 = 0x3FFE0 ∧ (tMemory 8).hart.rd 9 = 4 ∧
    (6 : BitVec 64).toNat < 8 ∧ 6 + 2 ≤ 8 ∧ 8 < 7 + 6 := by
  refine ⟨⟨rfl, rfl, rfl, rfl, rfl, rfl, rfl⟩, ?_⟩; unfold Hart.usable; decide

/-- A fault-first load that meets the end of the page at element 4. -/
def tFaultFirst : State := tVecState 8 [(13, 0x3FFF0)] [(6, tVec 7 32 [])] []

/-- Eight words already read by a `.rep` load of the launch, and a token of four bits in the first byte of the page. -/
theorem witness_DelayedAndReplicated : ({ tMemory 8 with delaying := [1] } : State).delays 1 ⟨0x3FFE0, .hbm⟩ = true ∧
    (tMemory 8).delays 1 ⟨0x3FFE0, .hbm⟩ = false ∧ (tMemory 8).hart.activeList 0 ≠ [] ∧
    ({ tMemory 8 with fromReplica := true, replicas := [⟨0, 0x3FFE0, 4, 9⟩] } : State).replica 0x3FFE0 4 = some 9 ∧
    (⟨21, 0⟩ : Ty).w < 8 ∧ (placeAt 0x3FFE0 4).bit + 4 ≤ 8 ∧ (placeAt 0x3FFE0 7).bit < 8 ∧ 8 < (placeAt 0x3FFE0 7).bit + 4 ∧
    (∀ va ∈ [0x3FFE0, (0x3FFE1 : Word)], (tMemory 8).access (tMemory 8).hart .read 1 va = .ok ⟨va.toNat, .hbm⟩) := by
  refine ⟨by decide, by decide, by decide, by decide, by decide, by decide, by decide, by decide, fun va m => ?_⟩
  fin_cases m <;> rfl

theorem witness_FaultFirst : (∀ e < 4, tFaultFirst.readPlace false 32 (placeAt 0x3FFF0 (e * 32)) = .ok 0) ∧
    tFaultFirst.readPlace false 32 (placeAt 0x3FFF0 (4 * 32)) = .error ⟨cPage, 0, 0x40000⟩ ∧ cPage ∈ [cPage, cProt, cAlign] ∧
    tFaultFirst.hart.isActive 0 4 = true ∧ tFaultFirst.hart.Plain ∧ (tFaultFirst.hart.ty 6).cls ≠ .untagged ∧
    tFaultFirst.hart.opOk 6 8 = true ∧ tFaultFirst.hart.usable 6 (tFaultFirst.hart.grp 6) := by
  refine ⟨fun e h => ?_, rfl, by decide, by decide, ⟨rfl, rfl, rfl, rfl, rfl, rfl, rfl⟩, by decide, by decide, ?_⟩
  · interval_cases e <;> rfl
  · unfold Hart.usable; decide

/-- A first element outside the page: `vldff` raises its fault. Elements 2 and 4 there: their fields and words fail. -/
theorem witness_ElementFaults :
    ((tMemory 8).upd (fun h => h.wr 13 0x40000)).readPlace false 32 (placeAt 0x40000 (0 * 32)) = .error ⟨cPage, 0, 0x40000⟩ ∧
    ((∀ e < 2, ∀ j < 2, tFaultFirst.readPlace false 32 (placeAt 0x3FFF0 ((e * 2 + j) * 32)) = .ok 0) ∧
      tFaultFirst.readPlace false 32 (placeAt 0x3FFF0 ((2 * 2 + 0) * 32)) = .error ⟨cPage, 0, 0x40000⟩ ∧
      tFaultFirst.hart.isActive 0 2 = true) ∧
    (tFaultFirst.reach .write 32 (placeAt 0x3FFF0 (4 * 32)) = .error ⟨cPage, 1, 0x40000⟩ ∧
      (∀ e < 4, tFaultFirst.reach .write 32 (placeAt 0x3FFF0 (e * 32)) = .ok [⟨0x3FFF0 + 4 * e, .hbm⟩]) ∧ tFaultFirst.MemInv) ∧
    (∀ op ∈ [VAmo.add, .min, .max, .swap], tFaultFirst.amoReach op ⟨7, 0⟩ 0x40000 = .error ⟨cPage, 1, 0x40000⟩ ∧
      ∀ e < 4, tFaultFirst.amoReach op ⟨7, 0⟩ (0x3FFF0 + BitVec.ofNat 64 (4 * e)) = .ok ⟨0x3FFF0 + 4 * e, .hbm⟩) ∧
    (cPage ≠ cMachine ∧ tFaultFirst.hart.wbuf = []) ∧
    (([1, 5] : List Nat).filter (fun e => decide (2 ≤ e) && decide (tFaultFirst.hart.groupOf 32 e = 0)) = [5] ∧
      ([1] : List Nat).filter (fun e => decide (2 ≤ e) && decide (tFaultFirst.hart.groupOf 32 e = 0)) = []) := by
  refine ⟨rfl, ⟨fun e h j k => ?_, rfl, by decide⟩, ⟨rfl, fun e h => ?_, ⟨rfl, rfl⟩⟩, fun op m => ⟨?_, fun e h => ?_⟩, by decide, by decide⟩
  · interval_cases e <;> interval_cases j <;> rfl
  · interval_cases e <;> rfl
  · fin_cases m <;> rfl
  · fin_cases m <;> interval_cases e <;> rfl

theorem witness_Segments : 6 + ((1 : BitVec 3).toNat + 1) * (tMemory 4).hart.grp 6 ≤ 32 ∧
    (tMemory 4).hart.usable 6 (((1 : BitVec 3).toNat + 1) * (tMemory 4).hart.grp 6) ∧
    (∀ e < 4, ∀ j < 2, (tMemory 4).readPlace false 32 (placeAt 0x3FFE0 ((e * 2 + j) * 32)) = .ok 0) ∧
    (∀ e < 4, ∀ j < 2, (tMemory 4).reach .write 32 (placeAt 0x3FFE0 ((e * 2 + j) * 32)) = .ok [⟨0x3FFE0 + 4 * (e * 2 + j), .hbm⟩]) := by
  refine ⟨by decide, by unfold Hart.usable; decide, fun e h j k => ?_, fun e h j k => ?_⟩ <;>
    interval_cases e <;> interval_cases j <;> rfl

theorem witness_VectorStores : (tMemory 8).MemInv ∧ ∀ e, (tMemory 8).hart.isActive 0 e = true →
    (tMemory 8).reach .write 32 (placeAt 0x3FFE0 (e * 32)) = .ok [⟨0x3FFE0 + 4 * e, .hbm⟩] ∧
    (([⟨0x3FFE0 + 4 * e, .hbm⟩] : List Phys).map (fun q => q.pa)).Nodup ∧
    ∀ j < 32, (spot [⟨0x3FFE0 + 4 * e, .hbm⟩] (placeAt 0x3FFE0 (e * 32)) j).1 < barBase := by
  refine ⟨⟨rfl, rfl⟩, fun e h => ⟨(tMemory_reads e ?_).2.2.2, by simp, fun j hj => ?_⟩⟩
  · simp only [Hart.isActive, Bool.and_eq_true, decide_eq_true_eq] at h; exact h.1
  · have : e < 8 := by simp only [Hart.isActive, Bool.and_eq_true, decide_eq_true_eq] at h; exact h.1
    simp only [spot, placeAt, barBase]; omega

theorem witness_VectorAtomics : (tMemory 8).MemInv ∧
    (∀ op ∈ [VAmo.add, .min, .max, .swap], op.accepts ((tMemory 8).hart.ty 6) = true ∧ ∀ e < 8,
      (tMemory 8).amoReach op ((tMemory 8).hart.ty 6) (0x3FFE0 + BitVec.ofNat 64 ((tMemory 8).hart.elem 2 1 32 e))
        = .ok ⟨0x3FFE0 + 4 * e, .hbm⟩) ∧
    (tMemory 8).hart.info.det = false ∧ ((tMemory 8).hart.ty 6).isInt = true ∧ 0x40000 ≤ barBase ∧
    (let h := (tVecState 8 [] [(6, tVec 15 32 [])] []).hart;
     ({ h with info := { h.info with det := true } } : Hart).info.det = true ∧ isFloatTag (h.ty 6).tag = true) := by
  refine ⟨⟨rfl, rfl⟩, fun op m => ⟨?_, fun e h => ?_⟩, rfl, rfl, by decide, by decide⟩
  · fin_cases m <;> rfl
  · fin_cases m <;> interval_cases e <;> rfl

/-- A hart with window 1 open over four N32 words at the end of the page, and window 0 closed. -/
def tWindow : State :=
  (tVecState 8 [(13, 0x3FFF0), (14, 0x700000004)] [(6, tVec 7 32 [5]), (2, tVec 7 32 [0, 3, 4])] []).upd (fun h =>
    h.setWindow 1 { opened := true, base := 0x3FFF0, desc := 0x700000004, parts := List.replicate 32 0 })

theorem witness_Windows :
    ((0 : Reg).toNat < 4 ∧ (tWindow.hart.window 0).opened = false ∧ (⟨7, 0⟩ : Ty).tag ∈ [3, 4, 7, 8, 15, 16] ∧
      (tWindow.hart.rd 14).toNat = (tWindow.hart.rd 14).toNat % 2 ^ 32 + 7 * 2 ^ 32 ∧ 1 ≤ (tWindow.hart.rd 14).toNat % 2 ^ 32 ∧
      (tWindow.hart.rd 14).toNat % 2 ^ 32 ≤ 1024 ∧ (tWindow.hart.rd 13).toNat % ((⟨7, 0⟩ : Ty).w / 8) = 0) ∧
    (tWindow.hart.Plain ∧ (tWindow.hart.window 1).opened = true ∧
      (tWindow.hart.window 1).parts.length = 8 * tWindow.hart.w * (tWindow.hart.window 1).cnt ∧
      tWindow.hart.ty 6 = (tWindow.hart.window 1).ty ∧ isIndexTy (tWindow.hart.ty 2) = true ∧ tWindow.hart.opOk 6 8 = true ∧
      tWindow.hart.opOk 2 8 = true ∧ tWindow.hart.usable 6 1 ∧ tWindow.hart.usable 2 1) := by
  refine ⟨by decide, ⟨rfl, rfl, rfl, rfl, rfl, rfl, rfl⟩, ?_⟩; unfold Hart.usable; decide

theorem witness_WindowFolds : tWindow.MemInv ∧ (tWindow.hart.window 1).ty.tag ∈ [3, 4, 7, 8, 15, 16] ∧
    0 < (tWindow.hart.window 1).cnt ∧ (∀ j < 4, tWindow.accessRmw tWindow.hart ((tWindow.hart.window 1).ty.w / 8)
      ((tWindow.hart.window 1).base + BitVec.ofNat 64 (j * ((tWindow.hart.window 1).ty.w / 8))) = .ok ⟨0x3FFF0 + 4 * j, .hbm⟩) ∧
    (tWindow.hart.window 1).ty.isInt = true := by
  refine ⟨⟨rfl, rfl⟩, by decide, by decide, fun j h => ?_, rfl⟩
  interval_cases j <;> rfl

/-- The same window one word further on: its last word lies outside the page. -/
def tWindowOut : State := tWindow.upd (fun h => h.setWindow 1 { h.window 1 with base := 0x3FFF4 })

theorem witness_FoldFaults : (∀ j < 3, tWindowOut.accessRmw tWindowOut.hart 4 (0x3FFF4 + BitVec.ofNat 64 (j * 4)) = .ok ⟨0x3FFF4 + 4 * j, .hbm⟩) ∧
    tWindowOut.accessRmw tWindowOut.hart 4 (0x3FFF4 + BitVec.ofNat 64 (3 * 4)) = .error ⟨cPage, 1, 0x40000⟩ ∧
    (tWindowOut.hart.window 1).opened = true ∧ (tWindowOut.hart.window 1).cnt = 4 ∧
    (tWindowOut.hart.window 1).parts.length = 8 * tWindowOut.hart.w * 4 ∧ tWindowOut.hart.Plain ∧ tWindowOut.MemInv := by
  refine ⟨fun j h => ?_, rfl, rfl, rfl, by decide, ⟨rfl, rfl, rfl, rfl, rfl, rfl, rfl⟩, ⟨rfl, rfl⟩⟩
  interval_cases j <;> rfl

/-- A block table at 0x100 whose first block is mapped to frame 3, its second not; and positions in both. -/
def tTable : State :=
  { tVecState 2 [(20, 0x100)] [(16, tVec 8 64 []), (6, tVec 7 32 [5, 17])] [] with mem := memStore [] 0x100 (natLe 6 0x010000000003) }

theorem witness_PositionTranslation : tTable.hart.Plain ∧ (tTable.hart.ty 16).tag = 8 ∧ (tTable.hart.ty 6).tag = 7 ∧
    tTable.hart.opOk 16 2 = true ∧ tTable.hart.opOk 6 2 = true ∧ tTable.hart.usable 16 1 ∧ tTable.hart.usable 6 1 ∧
    tTable.readEntry 1 (0x100 + BitVec.ofNat 64 (16 * (tTable.hart.elem 6 1 32 0 / 16))) = .ok ⟨0x010000000003, 0⟩ ∧
    tTable.readEntry 1 (0x100 + BitVec.ofNat 64 (16 * (tTable.hart.elem 6 1 32 1 / 16))) = .ok ⟨0, 0⟩ ∧
    (⟨0x010000000003, 0⟩ : Entry).mapped = true ∧ (⟨0, 0⟩ : Entry).mapped = false ∧ tTable.hart.isActive 0 1 = true := by
  refine ⟨⟨rfl, rfl, rfl, rfl, rfl, rfl, rfl⟩, by decide, by decide, by decide, by decide, by unfold Hart.usable; decide,
    by unfold Hart.usable; decide, rfl, rfl, by decide, by decide, by decide⟩

/-- A record of 8 words from 0x80 upward, in memory at 0x200; register v24 bound to it with all of it read ahead. -/
def tRecord : Nat := 0x80 + (8 * 2 ^ 32 + 4) * 2 ^ 128

def tStream (ahead : Nat) : State :=
  { (tVecState 8 [(13, 0x200)] [(24, tVec 7 32 []), (25, tVec 7 32 []), (1, tVec 7 32 [])] []).upd (fun h =>
      h.setGen 0 { loaded := true, bound := true, record := BitVec.ofNat 512 tRecord, pos := 0, ahead := ahead }) with
    mem := memStore [] 0x200 (natLe 24 tRecord) }

theorem witness_Streams :
    (tStream 8).readRecord 0x200 8 = .ok tRecord ∧ streamRecOk tRecord = true ∧ streamRecOk 0 = false ∧
    (tState [(13, 0x200)]).readRecord 0x200 8 = .ok 0 ∧
    (1 : Reg).toNat < 2 ∧ 9 < (10 : Reg).toNat ∧ ((tStream 8).hart.gen ((2 : Reg).toNat - 2)).bound = true ∧
    2 ≤ (3 : Reg).toNat ∧ (3 : Reg).toNat ≤ 9 ∧ ((tStream 8).hart.gen ((3 : Reg).toNat - 2)).bound = false ∧
    (9 : Reg).toNat ≤ 9 ∧ (23 : Reg).toNat < 24 ∧ (tStream 8).hart.lane = none ∧ 24 ≤ (24 : Reg).toNat ∧
    ((tVecState 8 [] [(24, tVec 21 4 [])] []).hart.ty 24).w < 8 ∧ 8 ≤ ((tStream 8).hart.ty 24).w ∧
    (tStream 8).hart.isBound (24 : Reg).toNat = true ∧ cfgFull ((tStream 8).hart.v (25 : Reg).toNat).cfg = true := by
  refine ⟨rfl, by decide, by decide, rfl, ?_⟩; decide

theorem witness_BoundSource : (∀ n ∈ [7, 8], (tStream n).hart.Plain) ∧ 0 < (tStream 8).hart.vl ∧
    ((tStream 8).hart.ty 24).cls ≠ .untagged ∧ ((tStream 8).hart.gen 0).bound = true ∧ ((tStream 8).hart.gen 0).isWrite = false ∧
    ((tStream 8).hart.gen 0).pat.mode = 0 ∧ ((tStream 8).hart.gen 0).pat.space = 0 ∧ (tStream 8).hart.opOk 24 8 = true ∧
    (tStream 8).hart.resOk 1 ((tStream 8).hart.ty 24) 1 8 = true ∧ (tStream 8).hart.usable 1 1 ∧
    ((tStream 7).hart.gen 0).ahead < min 8 (((tStream 7).hart.gen 0).pat.total - 0) ∧
    min 8 (((tStream 8).hart.gen 0).pat.total - 0) ≤ ((tStream 8).hart.gen 0).ahead ∧
    ∀ e < 8, (tStream 8).access (tStream 8).hart .read 4 (BitVec.ofInt 64 (((tStream 8).hart.gen 0).pat.base +
      strideSum (fun _ => true) (nestIndex ((tStream 8).hart.gen 0).pat.counts (0 + e)) ((tStream 8).hart.gen 0).pat.strides))
      = .ok ⟨0x80 + 4 * e, .hbm⟩ := by
  refine ⟨fun n m => ?_, by decide, by decide, by decide, by decide, by decide, by decide, by decide, by decide, ?_, by decide,
    by decide, fun e h => ?_⟩
  · fin_cases m <;> exact ⟨rfl, rfl, rfl, rfl, rfl, rfl, rfl⟩
  · unfold Hart.usable; decide
  · interval_cases e <;> rfl

theorem witness_WaitingAndTesting :
    ((tState []).upd (fun h => { h with tx := { h.tx with st := .submitted } })).hart.inTx = true ∧
    (tState [(13, 0x3FFF8)]).hart.inTx = false ∧
    (tState [(13, 0x3FFF8)]).access (tState [(13, 0x3FFF8)]).hart .read 8 0x3FFF8 = .ok ⟨0x3FFF8, .hbm⟩ ∧
    (tState [(13, 0x3FFF8)]).load (tState [(13, 0x3FFF8)]).hart 0 false 0x3FFF8 8
      ≠ ((tState [(13, 0x3FFF8), (10, 1)]).hart.rd 10).toNat % 2 ^ (8 * 8) ∧
    (tState [(13, 0x3FFF8)]).load (tState [(13, 0x3FFF8)]).hart 0 false 0x3FFF8 8
      = ((tState [(13, 0x3FFF8)]).hart.rd 10).toNat % 2 ^ (8 * 8) ∧
    (let h := ((tState []).upd (fun h => { h with watch := { Watch.none with addr := 8, len := 4, hit := true } })).hart
     (h.watch.hit && h.watch.addr == 8 && h.watch.len == 4) = true) ∧
    ((tState []).hart.watch.hit && (tState []).hart.watch.addr == 0x3FFF8 && (tState []).hart.watch.len == 8) = false ∧
    (tVecState 9 [] [(8, tVec 7 32 [])] []).hart.opOk 8 9 = false ∧ (tVecState 8 [] [(8, tVec 7 32 [])] []).hart.opOk 8 8 = true ∧
    (tState []).hart.info.det = false := by
  refine ⟨by decide, by decide, rfl, ?_⟩; decide

/-- A section of two lanes, one of them in its turn. -/
def tSection (st : LaneState) (held : List LaneStore) : Section :=
  let l (e : Nat) : Lane :=
    { idx := e, pc := 0, st := st, words := 0, inbox := [], held := held, rounds := 0, cause := 0, detail := 0
      fel := false, faddr := 0 }
  { lanes := [l 0, l 1], tail := some 7, sregs := Vector.replicate 32 0, vl := 2, rmode := 0, rotn := 32, seed := 0 }

def tBlocks (st : LaneState) (held : List LaneStore) (lane : Option Nat) : State :=
  (tVecState 2 [(13, 2)] [(5, tVec 8 64 [0x40, 0x44])] [(1, 1), (2, 3)]).upd (fun h =>
    { h with sect := some (tSection st held), lane := lane })

theorem witness_LanesOfBlocks :
    ((tBlocks .running [] none).hart.sect.isSome = true ∧ (tPermute.hart.sect = none ∧ tPermute.hart.lane = none)) ∧
    (tBlocks .running [] none).hart.rd 13 = 2 ∧ (2 : Word).toNat % 4 ≠ 0 ∧ (0x40 : Word).toNat % 4 = 0 ∧
    tPermute.hart.activeList 1 = 1 :: [4, 5, 7] ∧ tNoLength.hart.activeList 1 = [] ∧
    (tBlocks .running [] (some 1)).hart.lane = some 1 ∧ (tBlocks .running [] (some 1)).hart.limit = none ∧
    (tBlocks .running [] (some 1)).hart.walked = [] ∧ ((tBlocks .running [] (some 1)).hart.ty 5).tag = 8 ∧
    (tBlocks .running [] (some 1)).hart.opOk 5 2 = true ∧ (tBlocks .running [] (some 1)).hart.usable 5 1 ∧
    (tBlocks .running [] (some 1)).hart.sel 1 1 = false ∧ (tBlocks .running [] (some 1)).hart.sel 2 1 = true ∧
    (BitVec.ofNat 64 ((tBlocks .running [] (some 1)).hart.elems 5 1)).toNat % 4 = 0 := by
  unfold Hart.usable; decide

theorem witness_LanesJoin :
    (tBlocks .running [] none).hart.sect = some (tSection .running []) ∧
    (∃ l ∈ (tSection .running []).lanes, l.st ≠ .stopped) ∧
    (∀ l ∈ (tSection .stopped [⟨0x3FFFC, 0x3FFFC, 4, 9⟩]).lanes, l.st = .stopped) ∧
    (tBlocks .stopped [⟨0x3FFFC, 0x3FFFC, 4, 9⟩] none).access (tBlocks .stopped [⟨0x3FFFC, 0x3FFFC, 4, 9⟩] none).hart .write 4 0x3FFFC
      = .ok ⟨0x3FFFC, .hbm⟩ ∧ 0x3FFFC + 4 ≤ barBase := by
  refine ⟨rfl, by decide, by decide, rfl, by decide⟩

/-! ### Sampling and matrices -/

/-- A grammar of one state and eight tokens, of which it allows 0 and 2 and pushes symbol 0; a context of it at 0x80, and a
context of a state it does not have at 0xC0. -/
def tGrammar : State :=
  { tVecState 8 [(2, 0x80), (3, 2), (4, 0xC0)] [] [] with
    mem := ([(0x80, 0x100), (0x90, 0x400), (0xC0, 0x100), (0xC8, 5), (0x100, 1 + 8 * 2 ^ 32 + 2 ^ 56), (0x108, 0x200), (0x110, 1),
      (0x118, 0x240), (0x120, 0x280), (0x128, 0x2C0), (0x130, 0x300), (0x138, 1), (0x240, 5), (0x280, 0xFFFFFFFF00000000),
      (0x300, 0x100000000)] : List (Nat × Nat)).foldl (fun m p => memStore m p.1 (natLe 8 p.2)) [] }

/-- The context at 0x80. -/
def tContext (state : Nat) : GContext :=
  { gram := { nst := 1, ntok := 8, nsym := 1, cls := 0x200, ncls := 1, msk := 0x240, stt := 0x280, cnd := 0x2C0, trn := 0x300,
              nmsk := 1, nrow := 0 },
    state := state, depth := 0, stk := if state = 0 then 0x400 else 0, d1 := state, nadv := 0 }

theorem witness_GrammarEngine : tGrammar.MemInv ∧ tGrammar.hart.inTx = false ∧ 0 < tGrammar.hart.vl ∧
    tGrammar.readContext (tGrammar.hart.rd 2) = .ok (tContext 0) ∧ tGrammar.readContext (tGrammar.hart.rd 4) = .ok (tContext 5) ∧
    tGrammar.contextMasks (tContext 5) = .ok none ∧ tGrammar.contextMasks (tContext 0) = .ok (some (0, none)) ∧
    (∀ e < 8, tGrammar.allowed (tContext 0).gram (0, none) (0 + e) = .ok (e == 0 || e == 2)) ∧
    tGrammar.maskBit (tContext 0).gram 0 2 = .ok true ∧ tGrammar.maskBit (tContext 0).gram 0 1 = .ok false ∧
    tGrammar.advanceContext (tContext 0) 1 = .ok (1, none) ∧
    tGrammar.advanceContext (tContext 0) 2 = .ok (0, some (0, 1, some (0x400, 0))) ∧
    tGrammar.access tGrammar.hart .write 8 0x88 = .ok ⟨0x88, .hbm⟩ ∧ tGrammar.access tGrammar.hart .write 8 0x98 = .ok ⟨0x98, .hbm⟩ ∧
    tGrammar.access tGrammar.hart .write 1 (BitVec.ofNat 64 0x400) = .ok ⟨0x400, .hbm⟩ ∧ 0x400 < barBase ∧
    (tGrammar.hart.rd 9).toNat = 0 ∧ (tGrammar.hart.rd 2).toNat ≠ 0 ∧ (0x40000000 : Word).getLsbD 30 = true ∧
    (tGrammar.hart.rd 2).getLsbD 30 = false := by
  refine ⟨⟨rfl, rfl⟩, by decide, by decide, rfl, rfl, rfl, rfl, fun e h => ?_, rfl, rfl, rfl, rfl, rfl, rfl, rfl, by decide,
    by decide, by decide, by decide, by decide⟩
  interval_cases e <;> rfl

/-- The same context in a grammar of one conditioned row, whose entry for no symbol is mask 0. -/
def tConditioned : GContext := { tContext 0 with gram := { (tContext 0).gram with nrow := 1, stt := 0x480 } }

theorem witness_GrammarSteps : (tContext 0).gram.nst ≤ (tContext 5).state ∧ (tContext 0).state < (tContext 0).gram.nst ∧
    (tContext 0).depth = 0 ∧ tGrammar.engineRead 8 ((tContext 0).gram.stt + 8 * 0) = .ok 0xFFFFFFFF00000000 ∧
    0xFFFFFFFF00000000 / 2 ^ 32 % 2 ^ 32 = 0xFFFFFFFF ∧ tGrammar.engineRead 8 (tConditioned.gram.stt + 8 * 0) = .ok 0 ∧
    tGrammar.engineRead 4 (tConditioned.gram.cnd + 256 * 0 + 4 * 63) = .ok 0 ∧ tGrammar.contextMasks tConditioned = .ok (some (0, some 0)) ∧
    ({ tContext 0 with depth := 1 } : GContext).depth ≤ 1024 ∧ tGrammar.engineRead 1 (0x400 + 1 - 1) = .ok 0 ∧ 8 ≤ 0xFFFFFE ∧ 2 < 8 ∧
    tGrammar.allowed (tContext 0).gram (0, none) 1 = .ok false ∧ tGrammar.allowed (tContext 0).gram (0, none) 2 = .ok true ∧
    tGrammar.engineRead 2 ((tContext 0).gram.cls + 2 * 2) = .ok 0 ∧
    tGrammar.engineRead 8 ((tContext 0).gram.trn + 8 * (0 * 1 + 0)) = .ok 0x100000000 ∧
    (0x100000000 / 2 ^ 32 % 4 = 1 ∧ ¬(1 ≤ 0 ∨ 1 ≤ 0x100000000 % 2 ^ 32 ∨ 1 ≤ 0x100000000 / 2 ^ 34 % 64)) ∧
    ∀ act < 4, (act * 2 ^ 32) / 2 ^ 32 % 4 = act := by
  refine ⟨by decide, by decide, rfl, rfl, by decide, rfl, rfl, rfl, by decide, rfl, by decide, by decide, rfl, rfl, rfl, rfl, by decide,
    by decide⟩

theorem test_tmask_by_table : seen (exec (.tmask 1 2 0 0) tGrammar) (fun t => (t.hart.mask 1).toNat) 0 = 5 := by decide +kernel
theorem test_tadv_pushes : seen (exec (.tadv 9 2 3) tGrammar) (fun t => (t.hart.rd 9, t.mem.filter (fun p => p.1 < 0x9A)))
    (1, []) = (0, [(0x81, 1), (0x8C, 1), (0x91, 4), (0x98, 1)]) := by decide +kernel

/-- Three logits, all of them NaN in v2, and weights 1, 2, 3 in v3. -/
def tLogits (vl : Nat) : State :=
  tVecState vl [(4, 0x3F800000)] [(1, tVec 15 32 [0x3F800000, 0x40000000, 0x40000000]),
    (2, tVec 15 32 [0x7FC00000, 0x7FC00000, 0x7FC00000]), (3, tVec 7 32 [1, 2, 3]), (5, tVec 7 32 []), (6, tVec 15 32 [])] []

theorem witness_Sampling : (tLogits 3).hart.Plain ∧ (tLogits 3).hart.opOk 1 3 = true ∧ (tLogits 3).hart.opOk 2 3 = true ∧
    (tLogits 3).hart.opOk 3 3 = true ∧ (tLogits 3).hart.usable 1 1 ∧ (tLogits 3).hart.usable 2 1 ∧ (tLogits 3).hart.usable 3 1 ∧
    (tLogits 3).hart.usable 6 1 ∧ 0 < (tLogits 3).hart.vl ∧
    (∀ e < 3, (⟨15, 0⟩ : Ty).value ((tLogits 3).hart.elem 2 1 32 e) = .nan false) ∧
    ((tLogits 3).hart.isActive 0 1 && !((⟨15, 0⟩ : Ty).value ((tLogits 3).hart.elem 1 1 32 1)).isNan) = true ∧
    ((tLogits 3).hart.ty 3).tag = 7 ∧ (BitVec.allOnes 64 : Word).toNat = 2 ^ 64 - 1 ∧
    (∀ n, (n = 2 ∨ n = 6) → n ≠ 2 ^ 64 - 1) ∧ (tLogits 3).hart.isActive 0 1 = true ∧
    (((List.range 1).filter ((tLogits 3).hart.isActive 0)).map ((tLogits 3).hart.elem 3 1 32)).sum ≤ 2 ∧
    2 < (((List.range 1).filter ((tLogits 3).hart.isActive 0)).map ((tLogits 3).hart.elem 3 1 32)).sum
      + (tLogits 3).hart.elem 3 1 32 1 ∧
    (((List.range 3).filter ((tLogits 3).hart.isActive 0)).map ((tLogits 3).hart.elem 3 1 32)).sum ≤ 6 := by
  unfold Hart.usable
  refine ⟨⟨rfl, rfl, rfl, rfl, rfl, rfl, rfl⟩, by decide, by decide, by decide, by decide, by decide, by decide, by decide, by decide,
    fun e h => ?_, by decide, by decide, by decide, by omega, by decide, by decide, by decide, by decide⟩
  interval_cases e <;> rfl

/-- Exact d of 0, of 1, of −24, and with a temperature of zero, by their exponents all 0. -/
theorem witness_SampleWeights : (∀ n y e, (FVal.inf false) ≠ .fin n y e) ∧ ((FVal.nan true).isNan = true) ∧ (true = true → (0 : Nat) = 0) ∧
    (let num (n : Bool) (x m : Int) : Int := (if n then -1 else 1) * x * 2 ^ (0 : Nat) - m
     num false 0 0 = 0 ∧ 0 < num false 1 0 ∧ num true 24 0 < -23 * 1 ∧ num true 23 0 ≤ 0 ∧ -23 * 1 ≤ num true 23 0) := by
  exact ⟨nofun, by decide, by decide, by decide⟩

theorem witness_Weights : (∀ n ∈ [0, 3], (tLogits n).hart.Plain ∧ n ≤ 8 * (tLogits n).hart.w ∧ (tLogits n).hart.opOk 1 n = true ∧
    (tLogits n).hart.resOk 5 ⟨7, 0⟩ 1 n = true) ∧ ((tLogits 3).hart.ty 1).tag ∈ [13, 14, 15] ∧
    (tLogits 3).hart.usable 5 1 ∧ (tLogits 3).hart.grp 1 * 32 / ((tLogits 3).hart.ty 1).w = 1 ∧ (3 : Reg).toNat % 2 = 1 ∧
    8 * (tLogits 9).hart.w < (tLogits 9).hart.vl ∧ (4 : Reg).toNat % 2 = 0 ∧ (4 : Reg) ≠ 0 := by
  unfold Hart.usable
  refine ⟨fun n m => ?_, by decide⟩
  fin_cases m <;> exact ⟨⟨rfl, rfl, rfl, rfl, rfl, rfl, rfl⟩, by decide, by decide, by decide⟩

/-- A hart of eight lane groups and sixteen rows, with tiles 0 and 1 enabled: BF16 operands v2 and v3, FP64 operands v4 and v6
of three slices in groups of two, and generators 0 and 1 over two scratchpad elements each. -/
def tMatrix : State :=
  (tVecState 2 [(13, 0x100), (14, 16)] [(2, tVec 14 16 [0x3F80, 0x4000]), (3, tVec 14 16 [0x3F80, 0x4040]),
    (4, { cfg := 0x000B0810, data := 0x3FF0000000000000 }), (6, { cfg := 0x000B0810, data := 0x3FF0000000000000 }),
    (8, tVec 15 32 [0x3F800000]), (10, tVec 16 64 [0x3FF0000000000000])] [(1, 3)]).upd (fun h =>
      let g : Gen := { loaded := true, bound := false, record := BitVec.ofNat 512 (2 ^ 125 + (2 * 2 ^ 32 + 2) * 2 ^ 128), pos := 0, ahead := 2 }
      (((({ h with w := 8, trows := 16 }.setTile 0 { enabled := true, data := 0x3F800000 }).setTile 1
        { enabled := true, data := 0 }).setGen 0 g).setGen 1 g))

theorem witness_OuterProducts : tMatrix.hart.Plain ∧ tMatrix.hart.trows ≠ 0 ∧ tMatrix.hart.trows ≤ 64 ∧ tMatrix.hart.opOk 2 2 = true ∧
    tMatrix.hart.opOk 4 2 = true ∧ tMatrix.hart.opOk 6 2 = true ∧
    (tMatrix.hart.usable 2 1 ∧ tMatrix.hart.usable 3 1 ∧ tMatrix.hart.usable 4 2 ∧ tMatrix.hart.usable 6 2) ∧
    mopDepth (tMatrix.hart.ty 2) (tMatrix.hart.ty 3) = some 1 ∧ tMatrix.hart.vl % 1 = 0 ∧ tMatrix.hart.vl / 1 ≤ tMatrix.hart.trows ∧
    tMatrix.hart.baseOk 3 (tMatrix.hart.grp 3) = true ∧ tMatrix.hart.fits 3 (tMatrix.hart.grp 3) 16 (64 * 1) = true ∧
    (tMatrix.hart.tile 0).enabled = true ∧ (tMatrix.hart.tile 1).enabled = true ∧ (tMatrix.hart.ty 4).tag = 16 ∧
    (tMatrix.hart.ty 6).tag = 16 ∧ cfgSlc (tMatrix.hart.v 4).cfg = 3 ∧ cfgSlc (tMatrix.hart.v 6).cfg = 3 ∧
    tMatrix.hart.fits 6 (tMatrix.hart.grp 6) 64 64 = true := by
  unfold Hart.usable
  refine ⟨⟨rfl, rfl, rfl, rfl, rfl, rfl, rfl⟩, ?_⟩; decide

/-- Its generator 0 over tile 1 through the window, a row below; and over an address of no element. -/
def tThrough (at_ ahead : Nat) : State := tMatrix.upd (fun h => h.setGen 0 { h.gen 0 with
  record := BitVec.ofNat 512 (2 ^ 125 + at_ + (2 * 2 ^ 32 + 2) * 2 ^ 128), ahead := ahead })

theorem witness_OuterProductsOfViews : 2 ≤ (2 : Reg).toNat ∧ (3 : Reg).toNat ≤ 9 ∧ (2 : Reg) ≠ 3 ∧
    (tMatrix.hart.gen 0).viewOk = true ∧ (tMatrix.hart.gen 1).viewOk = true ∧
    mopDepth (tMatrix.hart.ty 2) (tMatrix.hart.ty 3) = some 1 ∧ mopDepth (tMatrix.hart.ty 2) (tMatrix.hart.ty 2) = some 1 ∧
    0 < tMatrix.hart.vl ∧ tMatrix.hart.vl / 1 ≤ tMatrix.hart.trows ∧
    min tMatrix.hart.vl ((tMatrix.hart.gen 0).pat.total - (tMatrix.hart.gen 0).pos) ≤ (tMatrix.hart.gen 0).ahead ∧
    min (64 * 1) ((tMatrix.hart.gen 1).pat.total - (tMatrix.hart.gen 1).pos) ≤ (tMatrix.hart.gen 1).ahead ∧
    min (tMatrix.hart.vl + 64 * 1) ((tMatrix.hart.gen 0).pat.total - (tMatrix.hart.gen 0).pos) ≤ (tMatrix.hart.gen 0).ahead ∧
    (tMatrix.upd (fun h => { h with vl := 0 })).hart.vl = 0 ∧ tMatrix.hart.lane = none ∧ tMatrix.hart.walked = [] ∧
    (∀ e < 2, tMatrix.viewElem 2 (tMatrix.hart.ty 2) (tMatrix.hart.gen 0).pat (0 + e) = .ok (0, 0)) ∧
    (∀ e < 64, tMatrix.viewElem 3 (tMatrix.hart.ty 3) (tMatrix.hart.gen 1).pat (0 + e) = .ok (0, 0)) ∧
    (∀ e < 64, tMatrix.viewElem 2 (tMatrix.hart.ty 2) (tMatrix.hart.gen 0).pat (2 + e) = .ok (0, 0)) ∧
    (((tThrough 0x404000 2).hart.gen 0).pat.addr 0).toNat - 0x400000 = 0x4000 ∧ 0x4000 % 0x4000 / 256 < (tThrough 0x404000 2).hart.trows ∧
    ((tThrough 0x404000 2).hart.tile (0x4000 / 0x4000)).enabled = true ∧
    (tThrough 0x404001 2).viewElem 2 (tMatrix.hart.ty 2) ((tThrough 0x404001 2).hart.gen 0).pat (0 + 0) = .error ⟨cProt, 0, 0x404001⟩ := by
  refine ⟨by decide, by decide, by decide, by decide, by decide, by decide, by decide, by decide, by decide, by decide, by decide, by decide,
    by decide, by decide, by decide, fun e h => ?_, fun e h => ?_, fun e h => ?_, by decide, by decide, by decide, rfl⟩
  · interval_cases e <;> rfl
  · interval_cases e <;> rfl
  · interval_cases e <;> rfl

theorem witness_TilesAndTheirMemory : (tState []).hart.trows = 0 ∧ 1 ≤ (3 : BitVec 3).toNat ∧ (3 : BitVec 3).toNat ≤ 3 ∧
    tMatrix.hart.trows ≠ 0 ∧ 3 < (4 : BitVec 3).toNat ∧ tMatrix.MemInv ∧ (tMatrix.hart.tile 2).enabled = false ∧
    (tMatrix.hart.tile 0).enabled = true ∧ tMatrix.hart.lane = none ∧ tMatrix.hart.trows ≤ 64 ∧ (tMatrix.hart.rd 13).toNat % 4 = 0 ∧
    (tMatrix.hart.rd 14).toNat % 4 = 0 ∧ (∀ i < 64, tMatrix.hart.sel 1 i = decide (i < 2)) ∧
    ∀ i < 2, ∀ j < 2, ∀ k ∈ [Acc.read, Acc.write], tMatrix.access tMatrix.hart k 4
      (tMatrix.hart.rd 13 + BitVec.ofInt 64 ((i : Nat) * (tMatrix.hart.rd 14).toInt) + BitVec.ofNat 64 (4 * j))
      = .ok ⟨0x100 + 16 * i + 4 * j, .hbm⟩ := by
  refine ⟨by decide, by decide, by decide, by decide, by decide, ⟨rfl, rfl⟩, by decide, by decide, by decide, by decide, by decide,
    by decide, by decide, fun i hi j hj k m => ?_⟩
  fin_cases m <;> interval_cases i <;> interval_cases j <;> rfl

theorem witness_TileSlices : tMatrix.hart.Plain ∧ 13 ≤ (tMatrix.hart.ty 8).tag ∧ (tMatrix.hart.ty 10).tag = 16 ∧
    tMatrix.hart.opOk 8 2 = true ∧ tMatrix.hart.opOk 10 2 = true ∧ tMatrix.hart.usable 8 1 ∧ tMatrix.hart.usable 10 1 ∧
    tMatrix.hart.vl ≤ tMatrix.hart.trows ∧ tMatrix.hart.vl ≤ 64 ∧ (tMatrix.hart.rd 14).toNat < 64 ∧ (tMatrix.hart.rd 9).toNat < tMatrix.hart.trows ∧
    (tMatrix.hart.tile 0).enabled = true ∧ (tMatrix.hart.tile (0 + 1)).enabled = true ∧ 0 < tMatrix.hart.vl ∧
    (tMatrix.upd (fun h => { h with vl := 0 })).hart.vl = 0 := by
  unfold Hart.usable
  refine ⟨⟨rfl, rfl, rfl, rfl, rfl, rfl, rfl⟩, ?_⟩; decide

theorem test_mop_adds_products : seen (exec (.mop 0 2 3 0 0) tMatrix) (fun t => [(0, 0), (0, 1), (1, 1), (1, 2)].map
    (fun p => (t.hart.tile 0).at p.1 p.2)) [] = [0x40000000, 0x40400000, 0x40C00000, 0] := by decide +kernel

/-! ### Flow, engine jobs, key-value blocks -/

/-- Two harts of one launch on a core, LPART as given, and a value for it in s7. -/
def tPart (old v : Word) (seq : BitVec 64) : State :=
  let h := (tState [(7, v)]).hart
  { tState [(7, v)] with parked := [{ h with id := { h.id with hidx := 1, seq := seq }, ctx := 1 }], lparts := [(0, old)] }

theorem witness_Partition : (tPart 0 2 0).hart.rd 7 &&& 0xFFFFFFFFFFFFF03E ≠ 0 ∧
    (tPart 0x201 0x201 0).hart.rd 7 &&& 0xFFFFFFFFFFFFF03E = 0 ∧ (tPart 0x201 0x201 0).hart.rd 7 = (tPart 0x201 0x201 0).lpart 0 ∧
    (tPart 0 1 0).hart.rd 7 ≠ (tPart 0 1 0).lpart 0 ∧ partHA ((tPart 0 1 0).hart.rd 7) = partHB ((tPart 0 1 0).hart.rd 7) ∧
    (tPart 0 0x201 1).partHarts 0 (partHA 0x201) (partHB 0x201) false = false ∧ partHA 0x201 ≠ partHB 0x201 ∧
    (tPart 0 0x201 0).partHarts 0 (partHA 0x201) (partHB 0x201) (partEn 0x201 && (tPart 0 0x201 0).hart.info.det) = true := by
  decide

theorem witness_Compaction : tPermute.hart.Plain ∧ tNoLength.hart.Plain ∧ tFloats.hart.Plain ∧ tPermute.hart.opOk 2 8 = true ∧ tPermute.hart.opOk 3 8 = true ∧
    tPermute.hart.resOk 1 ⟨7, 0⟩ 1 8 = true ∧ tPermute.hart.usable 2 1 ∧ tPermute.hart.usable 3 1 ∧ tPermute.hart.usable 1 1 ∧
    (tPermute.hart.ty 2).cls ≠ .untagged ∧ (tPermute.hart.ty 3).tag ∈ [6, 7, 8] ∧ tNoLength.hart.vl = 0 ∧ 0 < tPermute.hart.vl ∧
    (tFloats.hart.ty 3).tag ∉ [6, 7, 8] ∧ tFloats.hart.opOk 3 8 = true ∧ tFloats.hart.resOk 1 ⟨15, 0⟩ 1 8 = true := by
  unfold Hart.usable
  refine ⟨⟨rfl, rfl, rfl, rfl, rfl, rfl, rfl⟩, ⟨rfl, rfl, rfl, rfl, rfl, rfl, rfl⟩, ⟨rfl, rfl, rfl, rfl, rfl, rfl, rfl⟩, ?_⟩; decide

/-- Loop records at 0x200 and 0x240 (zeros), a body of one vector addition at 0x40, and a footprint card at 0x400. -/
def tFlow : State :=
  { tState [(2, 0x200), (3, 0x240), (4, 0x400), (5, 0x600), (6, 0x280)] with
    mem := ([(0x40, 0x48443000), (0x200, 0x40), (0x208, 1), (0x210, 3), (0x280, 0x80), (0x288, 1), (0x290, 1),
      (0x400, 1 * 2 ^ 60)] : List (Nat × Nat)).foldl (fun m p => memStore m p.1 (natLe 8 p.2)) [] }

def tJob : Job :=
  { id := 0, core := 0, who := Hart.absent.id, asid := 0, fdom := 0, card := BitVec.ofNat 4096 (2 ^ 60), payloadDone := false
    failed := false, done := false }

theorem witness_Loops : tFlow.hart.inTx = false ∧ tFlow.readRecord 0x240 8 = .ok 0 ∧ parseLoop 0 = none ∧
    tFlow.readRecord 0x200 8 = .ok (packNat 64 [0x40, 1, 3, 0, 0, 0, 0, 0]) ∧
    parseLoop (packNat 64 [0x40, 1, 3, 0, 0, 0, 0, 0]) = some (0x40, 0, 1, [3]) ∧
    tFlow.fetchBody tFlow.hart 0x40 1 = .ok [0x48443000] ∧ [0x48443000].all replayable = true ∧
    tFlow.readRecord 0x280 8 = .ok (packNat 64 [0x80, 1, 1, 0, 0, 0, 0, 0]) ∧
    parseLoop (packNat 64 [0x80, 1, 1, 0, 0, 0, 0, 0]) = some (0x80, 0, 1, [1]) ∧
    tFlow.fetchBody tFlow.hart 0x80 1 = .ok [0] ∧ [0].all replayable = false := by
  refine ⟨by decide, rfl, by decide, rfl, by decide, rfl, by decide, rfl, by decide, rfl, by decide⟩

theorem witness_Jobs : (tFlow.jobs.filter (fun j => j.core == tFlow.hart.core && !j.done)).length < 64 ∧
    64 ≤ ((List.replicate 64 tJob).filter (fun j => j.core == tFlow.hart.core && !j.done)).length ∧
    tFlow.readCard 0x400 = .ok (2 ^ 60) ∧ cardOk 1 (2 ^ 60) = true ∧ tFlow.readCard 0x600 = .ok 0 ∧ cardOk 1 0 = false ∧
    cardOk 0 0 = false ∧ cardOk 0 (packNat 64 (List.replicate 23 0 ++ [1])) = true := by
  refine ⟨by decide, by decide, rfl, by decide, rfl, by decide, by decide, by decide⟩

/-- The state a step over an entry answers. -/
def okOr (r : Except Flt State) (s : State) : State :=
  match r with
  | .ok t => t
  | .error _ => s

/-- Three states, one after another. -/
def inTurn (a b c : State) : Nat → State
  | 0 => a
  | 1 => b
  | _ => c

/-- A parent table at 0x100 of frame 3 and an empty entry, and a child table at 0x140; splices and repairs of them; a table of
provenance at 0x100000 whose versions 0 to 3 are in states 1, 0, 2 and 3; frame 3 counted `n` times. -/
def tBlocksOf (n : Nat) : State :=
  { tState [(2, 0x100), (3, 0x140), (4, 2), (5, 1), (6, 0x200), (7, 0x180), (8, 0x240), (9, 0x1C0)] with
    kv := [(3, BitVec.ofNat 64 (n * 2 ^ 48 + 3))], asids := [{ asid := 0, prov := 0x100000, ring := 0, log2 := 0 }]
    mem := ([(0x100, 2 ^ 40 + 3), (0x180, 2 ^ 42 + 2 ^ 40 + 3), (0x1C0, 2 ^ 43 + 2 ^ 40 + 3), (0x200, 2 ^ 32), (0x208, 0x100),
      (0x240, 15 * 2 ^ 48), (0x248, 0x300), (0x250, 4 * 2 ^ 32 + 2 ^ 16 + 1), (0x300, 0x3F800000), (0x100008, 1), (0x100028, 2),
      (0x100038, 3)] : List (Nat × Nat)).foldl (fun m p => memStore m p.1 (natLe 8 p.2)) [] }

theorem witness_BlockTables : (tBlocksOf 1).hart.inTx = false ∧ (tBlocksOf 1).hart.restart = none ∧
    (∃ σ : Nat → State, σ 0 = tBlocksOf 1 ∧ ∀ j < ((tBlocksOf 1).hart.rd 4).toNat, State.forkEntry 0x100 0x140 (σ j) j = .ok (σ (j + 1))) ∧
    (∃ (σ : Nat → State) (φ : Nat → Nat), σ 0 = tBlocksOf 1 ∧ φ 0 = 0 ∧ φ 2 = 1 ∧
      ∀ j < 2, (σ j).dropEntries 0x100 1 j (φ j) = (σ (j + 1), φ (j + 1), none)) ∧
    (tBlocksOf 1).readRecord 0x200 4 = .ok (packNat 64 [2 ^ 32, 0x100, 0, 0]) ∧
    parseSplice (packNat 64 [2 ^ 32, 0x100, 0, 0]) = some { dblk := 0, nblk := 1, srct := 0x100, poff := 0, pidx := 0 } ∧
    (tBlocksOf 1).provState 0 0 = 1 ∧ (tBlocksOf 1).provBad (tBlocksOf 1).hart.info.asid 0 = false ∧
    (∃ σ : Nat → State, σ 0 = tBlocksOf 1 ∧ ∀ j < 1,
      State.spliceEntry 0x140 { dblk := 0, nblk := 1, srct := 0x100, poff := 0, pidx := 0 } (σ j) j = .ok (σ (j + 1))) := by
  refine ⟨by decide, rfl, ⟨inTurn (tBlocksOf 1) (okOr (State.forkEntry 0x100 0x140 (tBlocksOf 1) 0) (tBlocksOf 1))
        (okOr (State.forkEntry 0x100 0x140 (okOr (State.forkEntry 0x100 0x140 (tBlocksOf 1) 0) (tBlocksOf 1)) 1) (tBlocksOf 1)),
      rfl, fun j h => ?_⟩,
    ⟨(fun | 0 => tBlocksOf 1 | _ => ((tBlocksOf 1).dropEntries 0x100 1 0 0).1), (fun | 0 => 0 | _ => 1), rfl, rfl, rfl, fun j h => ?_⟩,
    rfl, by decide, by decide, by decide,
    ⟨(fun | 0 => tBlocksOf 1 | _ => okOr (State.spliceEntry 0x140 { dblk := 0, nblk := 1, srct := 0x100, poff := 0, pidx := 0 }
      (tBlocksOf 1) 0) (tBlocksOf 1)), rfl, fun j h => ?_⟩⟩
  · have : j < 2 := h
    interval_cases j <;> rfl
  · interval_cases j <;> rfl
  · interval_cases j; rfl

theorem witness_BlockEntries : (tBlocksOf 2).tableEntry 0x100 = .ok ⟨2 ^ 40 + 3, 0⟩ ∧ (tBlocksOf 2).tableEntry 0x110 = .ok ⟨0, 0⟩ ∧
    (tBlocksOf 2).tableEntry 0x140 = .ok ⟨0, 0⟩ ∧ (⟨2 ^ 40 + 3, 0⟩ : Entry).mapped = true ∧ (⟨0, 0⟩ : Entry).mapped = false ∧
    (⟨2 ^ 40 + 3, 0⟩ : Entry).pending = false ∧ (tBlocksOf 2).countable 3 true = true ∧ (tBlocksOf 2).countable 3 false = true ∧
    (tBlocksOf 2).entryPlace 0x100 = .ok ⟨0x100, .hbm⟩ ∧ (tBlocksOf 2).entryPlace 0x140 = .ok ⟨0x140, .hbm⟩ ∧
    0x140 + 16 ≤ barBase ∧ (tBlocksOf 1).count 3 = 1 ∧ (tBlocksOf 2).count 3 ≠ 1 := by
  refine ⟨rfl, rfl, rfl, by decide, by decide, by decide, by decide, by decide, rfl, rfl, by decide, by decide, by decide⟩

/-- Where frame 3 goes: no ring of its owner; a ring of sixteen with room; a full one. And what refuses a splice. -/
theorem witness_FreedAndSpliced : (∀ x ∈ (tBlocksOf 1).asids, x.asid = ownerOf ((tBlocksOf 1).leaf 3) → x.ring = 0) ∧
    (∀ n ∈ [0, 16], let s : State := { tBlocksOf 1 with
        asids := [{ asid := 0, prov := 0, ring := 0x4000, log2 := 4 }], mem := memStore [] 0x4000 (natLe 8 n) }
      s.asids.find? (fun x => decide (x.asid = ownerOf (s.leaf 3)) && x.ring != 0)
        = some { asid := 0, prov := 0, ring := 0x4000, log2 := 4 } ∧ 0x4000 + 64 + 8 * 2 ^ 4 ≤ hbmBytes ∧
      (BitVec.ofNat 64 (memRead s.mem 0x4000 8) - BitVec.ofNat 64 (memRead s.mem 0x4008 8)).toNat = n) ∧
    (0 : Nat) < 2 ^ 32 ∧ (0 : Nat) < 2 ^ 16 ∧ (tBlocksOf 65535).countable 3 true = false ∧
    (tBlocksOf 65535).tableEntry 0x100 = .ok ⟨2 ^ 40 + 3, 0⟩ ∧ (tBlocksOf 65535).tableEntry 0x140 = .ok ⟨0, 0⟩ ∧
    (∀ x ∈ (tBlocksOf 1).harts, x.late = []) ∧ ((tBlocksOf 1).harts.map (fun x => x.id)).Nodup := by
  refine ⟨by decide, by decide, by decide, by decide, by decide, rfl, rfl, by decide, by decide⟩

theorem witness_BlockRepair : (tBlocksOf 1).MemInv ∧ (tBlocksOf 1).hart.inTx = false ∧ (tBlocksOf 1).hart.wbuf = [] ∧
    ((tBlocksOf 1).drainAll).accessRmw ((tBlocksOf 1).drainAll).hart 16 0x1C0 = .ok ⟨0x1C0, .hbm⟩ ∧
    ((tBlocksOf 1).drainAll).readEntry 0 0x1C0 = .ok ⟨2 ^ 43 + 2 ^ 40 + 3, 0⟩ ∧ (⟨2 ^ 43 + 2 ^ 40 + 3, 0⟩ : Entry).mapped = true ∧
    (⟨2 ^ 43 + 2 ^ 40 + 3, 0⟩ : Entry).pending = true ∧
    (tBlocksOf 1).readRecord 0x240 4 = .ok (packNat 64 [15 * 2 ^ 48, 0x300, 4 * 2 ^ 32 + 2 ^ 16 + 1, 0]) ∧
    parseRepair (packNat 64 [15 * 2 ^ 48, 0x300, 4 * 2 ^ 32 + 2 ^ 16 + 1, 0])
      = some { blk := 0, slot := 0, tag := 15, fresh := 0x300, nel := 1, ntok := 1, tstr := 4 } ∧
    (tBlocksOf 1).readEntry 0 0x180 = .ok ⟨2 ^ 42 + 2 ^ 40 + 3, 0⟩ ∧ (⟨2 ^ 42 + 2 ^ 40 + 3, 0⟩ : Entry).spliced = true ∧
    (⟨2 ^ 42 + 2 ^ 40 + 3, 0⟩ : Entry).pending = false ∧ validOf ((tBlocksOf 1).leaf 3) = true ∧
    (tBlocksOf 1).entryPlace 0x180 = .ok ⟨0x180, .hbm⟩ ∧
    (tBlocksOf 1).repairMask { blk := 0, slot := 0, tag := 15, fresh := 0x300, nel := 1, ntok := 1, tstr := 4 }
      ((fmtOf 15).decode ((tBlocksOf 1).hart.repth.toNat % 2 ^ 32)) 3 (List.range 1) = .ok 1 := by
  refine ⟨⟨rfl, rfl⟩, by decide, rfl, rfl, rfl, by decide, by decide, rfl, by decide, rfl, by decide, by decide, by decide, rfl, rfl⟩

/-- A pair of elements that can be read, and values of each kind with thresholds on both sides. -/
theorem witness_Deviations : 1 ≤ 16 ∧ (3 * 2 ^ 18 + 0 * 2 ^ 14 + 0 + 0 * 4) % 4 = 0 ∧
    (∀ j < 4, (tBlocksOf 1).poison.contains (3 * 2 ^ 18 + j) = false) ∧
    (tBlocksOf 1).access (tBlocksOf 1).hart .read 4 0x300 = .ok ⟨0x300, .hbm⟩ ∧
    (∃ x y, (tBlocksOf 1).repairPair { blk := 0, slot := 0, tag := 15, fresh := 0x300, nel := 1, ntok := 1, tstr := 4 } 3 0 0 = .ok (x, y)) ∧
    deviates (.fin false 1 0) (.fin false 5 0) (.fin false 3 0) = true ∧ deviates (.fin false 1 1) (.fin false 5 0) (.fin false 3 0) = false ∧
    deviates (.inf false) (.inf true) (.inf true) = false ∧ deviates (.inf false) (.inf true) (.fin false 0 0) = true ∧
    deviates (.fin true 1 0) (.inf true) (.inf true) = true ∧ (FVal.nan false).isNan = true := by
  exact ⟨by decide, by decide, by decide, rfl, ⟨_, _, rfl⟩, by decide, by decide, by decide, by decide, by decide, by decide⟩

theorem witness_Provenance : (∀ v ∈ [0, 1, 2, 3], v < 2 ^ 16 ∧ (tBlocksOf 1).provBase (tBlocksOf 1).hart.info.asid + 16 * v + 16 ≤ hbmBytes ∧
      ∀ i < 16, (tBlocksOf 1).poison.contains ((tBlocksOf 1).provBase (tBlocksOf 1).hart.info.asid + 16 * v + i) = false) ∧
    (tBlocksOf 1).provBase (tBlocksOf 1).hart.info.asid ≠ 0 ∧
    [0, 1, 2, 3].map (fun v => memRead (tBlocksOf 1).mem (0x100000 + 16 * v + 8) 8 % 4) = [1, 0, 2, 3] := by decide

/-- A hart whose transaction is in the state given, over one granule declared for writing. -/
def tTx (st : TxState) (placed : Option (Nat × Nat)) (result : Option Word) : State :=
  (tState [(2, 0x400)]).upd (fun h =>
    { h with tx := { st := st, buf := [(0x400, true)], begun := 1, placed := placed, result := result, ghost := none, site := h.pc } })

theorem witness_OrderFirst : (∀ st ∈ [TxState.idle, .declaring, .submitted, .opened], (tTx st none none).hart.tx.st = st) ∧
    (∀ acc ∈ [Acc.read, .write], (tTx .declaring none none).translate (tTx .declaring none none).hart.info.asid acc 0x400
      = .ok ⟨0x400, .hbm⟩ ∧ tHostPage.translate tHostPage.hart.info.asid acc 16 = .ok ⟨16, .host⟩) ∧ PageAttr.host ≠ .hbm ∧
    (tTx .declaring none none).hart.tx.buf.any (fun x => x.1 == 0x400 / 1024 * 1024) = true ∧
    (tState []).hart.tx.buf.any (fun x => x.1 == 0x400) = false ∧ (tState []).hart.tx.buf.length < 16 ∧
    16 ≤ (List.replicate 16 ((0, true) : Nat × Bool)).length ∧ (List.replicate 16 ((0, true) : Nat × Bool)).any (fun x => x.1 == 0x400) = false ∧
    (tTx .declaring none none).hart.lane = none ∧ (tTx .opened none (some 5)).hart.tx.result = some 5 ∧
    (tTx .opened none none).hart.tx.result = none ∧
    (∀ st ∈ [TxState.submitted, .opened], (tTx st none (some 5)).hart.pc = (tTx st none (some 5)).hart.tx.site ∧
      (((tTx st none (some 5)).upd (fun h => h.advance 4)).hart.pc ≠ (tTx st none (some 5)).hart.tx.site)) := by
  refine ⟨fun st m => ?_, fun acc m => ?_, by decide⟩
  · fin_cases m <;> rfl
  · fin_cases m <;> exact ⟨rfl, rfl⟩

/-- A declaration at a gate, and two harts of one granule in the order of a batch. -/
def tEntry : GateEntry := { who := Hart.absent.id, cycle := 0, core := 0, ctx := 0 }

theorem witness_Gates : (let s := tTx .submitted none none;
      s.hart.tx.placed = none ∧ (∀ b ∈ s.gates.toList, ∀ e ∈ b, e.who ≠ s.hart.id) ∧ s.hart.info.det = false ∧ s.keyDue s.hart = true ∧
      s.stage = 0 ∧ s.bufOf s.hart.id = [(0x400, true)] ∧ s.withdrawn s.hart.id = false) ∧
    (tState []).withdrawn (tState []).hart.id = true ∧ tEntry.before { tEntry with cycle := 1 } = true ∧
    tEntry.before { tEntry with ctx := 1 } = true ∧ tEntry.before { tEntry with core := 1 } = true ∧
    (let s := { tTx .submitted none none with stage := 1, cycle := 1280, joined := 1, gates := Vector.replicate 4 [tEntry] };
      s.stage ≠ 0 ∧ s.beatFrom + s.beat.toNat ≤ s.ns ∧ (∃ b ∈ s.gates.toList, ∃ e ∈ b, e.who = s.hart.id) ∧
      ((List.range 4).flatMap (fun d =>
        if s.joined.getLsbD d then ((s.gates.toList.getD d []).take 256).map (fun e => e.who) else [])) = [s.hart.id]) ∧
    (let q : List QueueEntry := [⟨Hart.absent.id, false, false⟩, ⟨Hart.absent.id, false, false⟩, ⟨Hart.absent.id, true, false⟩]
     (grantQueue false false q).map (fun e => e.granted) = [true, true, false]) ∧
    (let s : State :=
      { tTx .submitted (some (3, 1)) none with
        merged := [⟨3, [Hart.absent.id]⟩], granules := [(0x400, [⟨Hart.absent.id, true, true⟩])] };
      s.merged = ⟨3, [s.hart.id]⟩ :: [] ∧ s.hart.tx.placed = some (3, 1) ∧ s.hart.tx.st = .submitted ∧
      ∀ x ∈ s.hart.tx.buf, ∃ e ∈ lookupD s.granules x.1 [], e.who = s.hart.id ∧ e.granted = true) := by decide

/-! ### The device's own steps -/

/-- A saved hart's record. -/
def tRecordOf (cause : BitVec 8) (wcause : BitVec 3) (released bad reserve : Bool) : SaveRec :=
  { cause := cause, detail := 0, pc := 0, rpc := 0, word := 0, payload := 0, wcause := wcause, pend := false, fel := false
    fidx := 0, faddr := 0, ctr := ctrDone, skip := [], performed := 0, count := 0, reserve := reserve, released := released
    inHandler := false, contextError := bad, vec := false, cycle := 0, lost := false }

def tSaved (cause : BitVec 8) (wcause : BitVec 3) (released bad reserve : Bool) : State :=
  tArea.upd (fun h => { h with st := .saved, save := some (tRecordOf cause wcause released bad reserve) })

/-- A hart in a waiting state. -/
def tWaiting (c : WaitCause) (hit : Bool) : State :=
  (tState []).upd (fun h => { h with st := .waiting c, watch := { Watch.none with hit := hit } })

theorem witness_Waking : (tWaiting .address true).hart.wakes .address = true ∧ (tWaiting .address false).hart.wakes .address = false ∧
    (tWaiting .fullEmpty false).hart.wakes .fullEmpty = true ∧ (tWaiting .emulation true).hart.wakes .emulation = false ∧
    ((tSaved 0x0D 0 true false false).hart.st = .saved ∧ (tSaved 0x0D 0 true false false).hart.cancelling = false ∧
      (tRecordOf 0x0D 0 true false false).released = true ∧ causeOfCode 0 = none) ∧
    ((0x22 : BitVec 8).toNat ≥ 0x20 ∧ causeOfCode 2 = some .address ∧
      ((tSaved 0x22 2 false false false).upd (fun h => { h with watch := { Watch.none with hit := true } })).hart.wakes .address = true) ∧
    (∀ c ∈ [WaitCause.address, .stream, .grant, .frontier], (tWaiting c false).hart.st = .waiting c ∧ (tWaiting c false).hart.onCore = true ∧
      ¬((tWaiting c false).hart.st = .waiting .fullEmpty ∨ (tWaiting c false).hart.handler.isSome = true ∨
        (tWaiting c false).hart.tx.st = .opened ∨
        (tWaiting c false).hart.restart.isSome = true ∧ ((tWaiting c false).hart.st = .resident ∨
          (tWaiting c false).hart.st = .waiting .stream ∨ (tWaiting c false).hart.st = .waiting .frontier))) ∧
    (tSaved 0x22 2 false false false).hart.onCore = false ∧ (tWaiting .fullEmpty false).hart.onCore = true ∧
    (tWaiting .fullEmpty false).hart.st = .waiting .fullEmpty ∧
    (let s := { (tState []).upd (fun h => { h with soft := [⟨90000, .host⟩, ⟨0, .host⟩] }) with cycle := 250000 }
     s.hart.soft.filter (fun r => s.softApplies s.hart r.why) = [⟨90000, .host⟩] ++ ⟨0, .host⟩ :: [] ∧ 0 + 100000 ≤ s.ns ∧
     ¬(90000 + 100000 ≤ s.ns) ∧ s.hart.onCore = true) ∧
    (let s := (tState []).upd (fun h => { h with soft := [⟨0, .ready h.id⟩] }); ∀ r ∈ s.hart.soft, s.softApplies s.hart r.why = false) ∧
    (((tWaiting .stream false).upd (fun h =>
      { h with restart := some { ctr := [3], skip := [], performed := 0, fidx := 0, count := 0 } })).hart.restart.isSome = true) ∧
    (∀ k u, SoftWhy.host ≠ .spare k u) := by
  refine ⟨by decide, by decide, by decide, by decide, by decide, by decide, by decide, by decide, by decide, by decide, by decide, by decide, by decide,
    nofun⟩

/-- A hart saved for a page fault in this cycle, in the reserve slot or in its area, and one saved for a pre-emption. -/
theorem witness_MeetsFault : (∀ b, (tSaved cPage 0 false false b).MemInv ∧ (tSaved cPage 0 false false b).hart.onCore = false ∧
      (tSaved cPage 0 false false b).hart.save = some (tRecordOf cPage 0 false false b) ∧ (tSaved cPage 0 false false b).hart.st = .saved ∧
      (tRecordOf cPage 0 false false b).cycle = (tSaved cPage 0 false false b).cycle) ∧ cPage.toNat ≤ 0x0C ∧
    (tRecordOf cPage 0 false false false).pend = false ∧ ¬((0x21 : BitVec 8).toNat ≤ 0x0C) ∧
    (tSaved cPage 0 false false false).translate 0 .write ((tSaved cPage 0 false false false).hart.trapbase + 0x18) = .ok ⟨0x218, .hbm⟩ ∧
    0x218 + 8 ≤ barBase := by
  exact ⟨fun _ => ⟨⟨rfl, rfl⟩, rfl, rfl, rfl, rfl⟩, by decide, rfl, by decide, rfl, by decide⟩

/-- A hart with a time budget of 1 µs, at a cycle. -/
def tWatched (cycle : Nat) (k : Option Handler) : State :=
  { (tState []).upd (fun h => { h with info := { h.info with tbud := 1 }, handler := k }) with cycle := cycle }

theorem witness_Watchdog : (∀ k, (tWatched 0 k).hart.lane = none ∧ (tWatched 0 k).hart.onCore = true ∧
      (tWatched 0 k).hart.badRegs = false ∧ (tWatched 0 k).hart.late = [] ∧ (tWatched 0 k).hart.tx.st = .idle) ∧
    ((tWatched 0 none).upd (fun h => { h with tx := { h.tx with st := .opened } })).hart.tx.st = .opened ∧
    1000 * (tWatched 0 none).hart.info.tbud.toNat ≠ 0 ∧ (tWatched 0 none).ns < (tWatched 0 none).hart.info.acceptedNs + 1000 ∧
    (tWatched 2500 none).hart.info.acceptedNs + 1000 ≤ (tWatched 2500 none).ns ∧ (tWatched 2500 none).hart.trapbase = 0 ∧
    (tWatched 2500 none).hart.wbuf = [] ∧ (tHandler true).overrunAt = none ∧
    ({ tHandler true with overrunAt := some 1000 } : Handler).overrunAt = some 1000 ∧ 1000 + 1000 ≤ (tWatched 5000 none).ns := by
  exact ⟨fun _ => ⟨rfl, rfl, rfl, rfl, rfl⟩, by decide⟩

/-- Two loads under way, of a scalar and of a vector register. -/
def tLate : State := (tState []).upd (fun h =>
  { h with
    pend := [⟨[6], 8⟩]
    late := [{ stream := 0, dest := .scalar 9 false, size := 8, elems := [(0, 0x100)] },
             { stream := 1, dest := .vector 6 1 32, size := 4, elems := [(0, 0x100), (1, 0x104)] }] })

theorem witness_LateLoads : (∀ w ∈ tLate.hart.wbuf, w.stream ≠ 0) ∧ (∀ w ∈ tLate.hart.wbuf, w.stream ≠ 1) ∧ tLate.hart.awaits ⟨[6], 8⟩ = true ∧
    (tLate.hart.late = [] ++ { stream := 0, dest := .scalar 9 false, size := 8, elems := [(0, 0x100)] } ::
      [{ stream := 1, dest := .vector 6 1 32, size := 4, elems := [(0, 0x100), (1, 0x104)] }]) ∧ 8 ∈ [1, 2, 4, 8] ∧
    (tLate.hart.late = [{ stream := 0, dest := .scalar 9 false, size := 8, elems := [(0, 0x100)] }] ++
      { stream := 1, dest := .vector 6 1 32, size := 4, elems := [(0, 0x100), (1, 0x104)] } :: []) ∧
    tLate.hart.isBound 6 = false ∧ (tStream 7).hart.isBound 24 = true ∧
    grantWidth tLate.hart.w = true ∧ 6 + 1 ≤ 32 ∧ ([(0, 0x100), (1, 0x104)].map (fun p : Nat × Nat => p.1)).Nodup ∧
    (∀ p ∈ [(0, 0x100), (1, 0x104)], 32 * (p.1 + 1) ≤ 256 * tLate.hart.w * 1) ∧
    ((tState []).hart.gen 0).bound = false ∧ ((tState []).hart.gen 0).loaded = false ∧
    (({ ((tState []).hart.gen 0) with record := BitVec.ofNat 512 (2 ^ 127) } : Gen).isWrite = true) := by decide

theorem witness_LandingAndPerforming :
    (let s := (tState []).upd (fun h => { h with pend := [⟨[1], 8⟩] }); s.hart.pend = ⟨[1], 8⟩ :: []) ∧ (tState []).hart.pend = [] ∧
    ((tStream 7).hart.gen 0).bound = true ∧ ((tStream 7).hart.gen 0).isWrite = false ∧ (∀ w ∈ (tState []).hart.wbuf, w.stream ≠ 1) ∧
    (let w : HeldWrite := ⟨1, false, 0x100, [7]⟩
     let x : HeldWrite := ⟨0, true, 0x100, [7]⟩
     ([x, w] : List HeldWrite) = [x] ++ w :: [] ∧ w.stream = 1 ∧ (∀ y ∈ [x], y.stream ≠ 1) ∧ w.addr < barBase ∧ x.pad = true) := by
  decide

/-- A created hart of one lane group, on a device in its last stage with die 0 joined. -/
def tCreated : State :=
  { tState [] with hart := Hart.absent, parked := [Hart.blank ⟨0x100, 0, 1⟩ LaunchInfo.none 0], stage := 2, joined := 1 }

/-- A hart with a vector addition at its pc and credit, on lane group 0 of core 0. -/
def tTurnOf : State := { tCode 0x48443000 with arbs := [(0, { turn := 0, credit := [3, 0, 0, 0, 0, 0, 0, 0], chosen := none })] }

/-- A hart that its domain released, ready again, with its area in the page. -/
def tReleased : State :=
  { tCreated with
    parked := [{ Hart.blank ⟨0x100, 0, 1⟩ LaunchInfo.none 0 with
                 st := .ready, trapbase := 0x200, save := some (tRecordOf 0x0D 0 true false false) }] }

theorem witness_ReleasedPlacement : ∃ x ∈ tReleased.parked, tReleased.placeable x 0 = true ∧
    x.save = some (tRecordOf 0x0D 0 true false false) ∧ tReleased.translate x.info.asid .read (x.trapbase + 96) = .ok ⟨0x260, .hbm⟩ ∧
    tReleased.translate x.info.asid .write (x.trapbase + 96) = .ok ⟨0x260, .hbm⟩ ∧ (∀ i < 8, 0x260 + i ∉ tReleased.poison) ∧
    tReleased.MemInv := by
  refine ⟨_, .head _, by decide +kernel, rfl, rfl, rfl, by decide, ⟨rfl, rfl⟩⟩

/-- A ready hart whose area in the page has lost a byte; and one of priority 1 where a hart of priority 0 holds each context of
the core it may use. -/
def tAreaLost : State :=
  { tCreated with
    poison := [0x208]
    parked := [{ Hart.blank ⟨0x100, 0, 1⟩ LaunchInfo.none 0 with
                 st := .ready, trapbase := 0x200, save := some (tRecordOf 0x21 0 false false false) }] }

def tContended : State :=
  let h (i : Nat) : Hart := { Hart.blank ⟨0, BitVec.ofNat 32 i, 0⟩ LaunchInfo.none 0 with st := .resident, ctx := i }
  { tCreated with
    mem := memStore [] 0x100 (natLe 8 (2 ^ 60 + 2 ^ 56))
    hart := h 0
    parked := { Hart.blank ⟨0x100, 0, 1⟩ { LaunchInfo.none with cmask := 1 } 0 with st := .ready } ::
      (List.range 7).map (fun i => h (i + 1)) }

theorem witness_LostArea : ∃ x ∈ tAreaLost.parked, tAreaLost.best (tAreaLost.harts.filter (fun h => tAreaLost.placeable h 0)) = some x ∧
    tAreaLost.areaLost x = true := by
  refine ⟨_, .head _, by decide +kernel, ?_⟩; decide +kernel

theorem witness_Contended : tContended.best (tContended.harts.filter (fun h => tContended.placeable h 0)) = none ∧
    (tContended.harts.map (fun h => h.id)).Nodup ∧ (∀ h ∈ tContended.harts, h.ctx < 8) ∧
    (∃ x ∈ tContended.harts, x.st = .ready ∧ tContended.mayUse x 0 = true ∧ tContended.energyHeld x = false ∧ tContended.noContext x = true ∧
      0 < tContended.prioOf x) ∧ tContended.hart.st = .resident ∧ tContended.hart.info.prio = 0 ∧
    (∀ z ∈ tContended.harts, z.st = .resident → z.id = tContended.hart.id ∨ tContended.hart.ctx < z.ctx) := by
  refine ⟨by decide +kernel, ?_⟩; decide +kernel

/-- A hart whose budget is spent, on a device one µs on. -/
def tSpent : State :=
  { (tWatched 2500 none).upd (fun h => { h with id := { h.id with rcb := 0x100 }, info := { h.info with ebuds := [1] }, ecnt := 5 }) with
    mem := memStore [] 0x100 (natLe 8 (2 ^ 60)) }

theorem witness_EnergyBudgets : tSpent.lastTick < tSpent.ns / 1000 ∧ tSpent.hart.onCore = true ∧ tSpent.spentOver tSpent.hart = [0x100] ∧
    tSpent.hart.soft = [] ∧ tSpent.hart.st ≠ .retired ∧ 0x100 < 2 ^ 56 ∧ BitVec.ofNat 56 0x100 ∉ tSpent.exhausted := by decide +kernel

/-- Two harts on lane group 0 of core 0 with a turn and credits; `h1` in context 1 has the weight and the word given. -/
def tArbiter (turn : Nat) (credit : List Int) (wght : BitVec 4) (candidate : Bool) : State :=
  let s := tTurnAt turn
  { s with
    parked := s.parked.map (fun (h : Hart) => { h with info := { h.info with wght := wght }, pc := if candidate then h.pc else 0x3FFFC })
    arbs := [(0, { turn := turn, credit := credit, chosen := none })] }

theorem witness_IssueCycles :
    (∀ s ∈ [tArbiter 0 [3, 3, 0, 0, 0, 0, 0, 0] 1 true, tArbiter 0 [0, 0, 0, 0, 0, 0, 0, 0] 1 true,
        tArbiter 0 [0, 0, 0, 0, 0, 0, 0, 0] 1 false, tArbiter 0 [0, 0, 0, 0, 0, 0, 0, 0] 0 false],
      s.chosenHart 0 0 = none) ∧
    (let s := tArbiter 0 [3, 3, 0, 0, 0, 0, 0, 0] 1 true
     s.arbHart 0 0 0 = some s.hart ∧ s.candidateOn 0 s.hart = true ∧ 0 < (s.arb 0 0).credit.getD 0 0) ∧
    (let s := tArbiter 0 [0, 0, 0, 0, 0, 0, 0, 0] 1 true
     s.nextTurn 0 0 0 = some 1 ∧ ∃ y ∈ s.parked, s.arbHart 0 0 1 = some y ∧ y.info.wght ≠ 0 ∧ s.candidateOn 0 y = true) ∧
    (let s := tArbiter 0 [0, 0, 0, 0, 0, 0, 0, 0] 1 false
     (∃ y ∈ s.parked, s.arbHart 0 0 1 = some y ∧ s.candidateOn 0 y = false) ∧ s.candidateOn 0 s.hart = true ∧ s.hart.info.wght = 0) ∧
    (let s := tArbiter 0 [0, 0, 0, 0, 0, 0, 0, 0] 0 false
     (∀ h ∈ s.arbHarts 0 0, h.info.wght = 0) ∧ s.arbHart 0 0 0 = some s.hart ∧ s.candidateOn 0 s.hart = true) ∧
    ((tState []).arbHarts 0 0 = [(tState []).hart] ∧ (tState []).candidateOn 0 (tState []).hart = false) ∧
    (let s : State := { tTurnOf with arbs := [(0, { turn := 0, credit := [3, 0, 0, 0, 0, 0, 0, 0], chosen := some 0 })] }
     s.chosenHart 0 0 = some s.hart) := by decide +kernel

theorem witness_PlacementEnergyIssue : tCreated.best (tCreated.harts.filter (fun h => tCreated.placeable h 0))
      = some (Hart.blank ⟨0x100, 0, 1⟩ LaunchInfo.none 0) ∧
    tCreated.slotFor (Hart.blank ⟨0x100, 0, 1⟩ LaunchInfo.none 0) 0 = some (0, 0, 1, 0) ∧
    tCreated.ns / 1000 ≤ tCreated.lastTick ∧ (tWatched 2500 none).lastTick < (tWatched 2500 none).ns / 1000 ∧
    tTurnOf.arbHart 0 0 (tTurnOf.arb 0 0).turn = some tTurnOf.hart ∧ tTurnOf.candidateOn 0 tTurnOf.hart = true ∧
    0 < (tTurnOf.arb 0 0).credit.getD (tTurnOf.arb 0 0).turn 0 ∧ (tTurnOf.arb 0 0).turn < (tTurnOf.arb 0 0).credit.length := by
  refine ⟨by decide +kernel, by decide +kernel, ?_⟩; decide +kernel

/-- A copy of one byte from 0x100 to 0x200, its completion word at an address; `sp` is the destination's space. -/
def tCopy (ca sp : Nat) : Job :=
  { tJob with
    card := BitVec.ofNat 4096 (packNat 64 ((List.range 24).map (fun k => ([(0, 2 ^ 56 + 2 ^ 52), (1, ca), (2, 9), (3, 0x100), (4, 16),
      (11, sp * 2 ^ 62 + (if sp = 0 then 0x200 else 32)), (12, 16), (19, 0x100),
      (20, sp * 2 ^ 62 + (if sp = 0 then 0x200 else 32)), (23, 1)].lookup k).getD 0))) }

/-- A footprint of 16 bytes written from 0x200. -/
def tFootprint (id : Nat) : Job :=
  { tJob with
    id := id
    card := BitVec.ofNat 4096 (packNat 64 ((List.range 13).map (fun k => ([(0, 2 ^ 60 + 2 ^ 52), (11, 0x200), (12, 16)].lookup k).getD 0))) }

theorem witness_EngineJobs :
    (∀ j ∈ [tCopy 0 0, tCopy 0x80 0, tCopy 0 3], j.id == 0 && !j.done && !j.payloadDone && j.kind == 0) ∧
    (∀ j ∈ [tCopy 0x80 0, tCopy 0 3], ({ tState [] with jobs := [j] } : State).jobReady j = true) ∧ (tCopy 0x80 0).tables = [] ∧
    (tCopy 0 3).tables ≠ [] ∧ (tState []).engineAccess 0 .write 8 0x80 = .ok ⟨0x80, .hbm⟩ ∧
    (∀ j ∈ [tCopy 0x80 0, tCopy 0 3], let d := dw j.card.toNat
     let dims := List.range (d 21 % 16 + 1)
     let cnt := dims.map (fun k => d (23 + 2 * k) % 2 ^ 32)
     cnt.foldl (· * ·) 1 = 1 ∧ ∃ σ : Nat → State, σ 0 = tState [] ∧ ∀ i < 1, ∃ bs,
      (σ i).jobRead j (resolveSpace j.core (d 19)) (d 19 % 2 ^ 56 + strideSum (fun _ => true) (nestIndex cnt i)
        (dims.map (fun k => toSigned 32 (d (22 + 2 * k) / 2 ^ 32)))) (2 ^ (d 21 / 256 % 4)) = .ok bs ∧
      (σ i).jobWrite j (resolveSpace j.core (d 20)) (d 20 % 2 ^ 56 + strideSum (fun _ => true) (nestIndex cnt i)
        (dims.map (fun k => toSigned 32 (d (22 + 2 * k) % 2 ^ 32)))) bs = .ok (σ (i + 1))) ∧
    (∀ l ∈ [[tFootprint 1], [tFootprint 0, tFootprint 1]], l.find? (fun x => x.id == 1 && !x.done && x.kind == 1) = some (tFootprint 1)) ∧
    ({ tState [] with jobs := [tFootprint 1] } : State).jobReady (tFootprint 1) = true ∧
    ({ tState [] with jobs := [tFootprint 0, tFootprint 1] } : State).jobReady (tFootprint 1) = false ∧
    ((tState []).codeTab 0).swapPending = false ∧
    (({ tState [] with codeTabs := [(0, { (tState []).codeTab 0 with swapPending := true })] } : State).codeTab 0).swapPending = true := by
  refine ⟨by decide, by decide, by decide, by decide, rfl, fun j m => ?_, by decide, by decide, by decide, by decide, by decide⟩
  fin_cases m
  · exact ⟨by decide, inTurn (tState []) (okOr ((tState []).jobWrite (tCopy 0x80 0) (0, 0) 0x200 [0]) (tState [])) (tState []), rfl,
      fun i h => ⟨[0], by interval_cases i; exact ⟨rfl, rfl⟩⟩⟩
  · exact ⟨by decide, inTurn (tState []) (okOr ((tState []).jobWrite (tCopy 0 3) (3, 0) 32 [0]) (tState [])) (tState []), rfl,
      fun i h => ⟨[0], by interval_cases i; exact ⟨rfl, rfl⟩⟩⟩

/-- A hart whose restart finishes a `vquant` to CT4 begun before. -/
def tMidCode : State :=
  (tCode 0x5CC20001).upd (fun h =>
    { h.setV 6 (tVec 26 4 []) with restart := some { ctr := [3], skip := [], performed := 0, fidx := 0, count := 0 } })

theorem witness_SwapWaits : (∃ h ∈ tMidCode.harts, h.core = 0 ∧ tMidCode.midCode h = true) ∧
    (∀ h ∈ (tState []).harts, h.core = 0 → (tState []).midCode h = false) := by decide

/-- The fault of an access that fails. -/
def faultOf {α : Type} (r : Except Flt α) : Option Flt :=
  match r with
  | .error f => some f
  | .ok _ => none

theorem error_of {α : Type} {r : Except Flt α} {f : Flt} (h : faultOf r = some f) : r = .error f := by
  cases r with
  | error e => exact congrArg _ (Option.some.inj h)
  | ok x => cases h

/-- A copy whose source lies outside its region, one that is misaligned, and a job whose payload and swap are done. -/
theorem witness_JobFaults : let j := tCopy 0 0
    (tState []).MemInv ∧ (tState []).jobRead j (0, 0) 0x90 1 = .error ⟨cProt, 0, 0x90⟩ ∧
    (BitVec.ofInt 64 0x101).toNat % 2 ≠ 0 ∧ (BitVec.ofInt 64 0x100).toNat % 1 = 0 ∧
    (tState []).engineAccess j.asid .read 1 0x100 = .ok ⟨0x100, .hbm⟩ ∧ (tState []).engineAccess j.asid .write 1 0x200 = .ok ⟨0x200, .hbm⟩ ∧
    (∀ i < 4, 0 * padBytes + i ∉ (tState []).padPoison) ∧ 0 + 4 ≤ padBytes ∧ 32 + 4 ≤ 64 ∧ ([7] : List Byte).length = 1 ∧
    (let k : Job := { tCopy 0x80 3 with payloadDone := true }
     let s : State := { tState [] with jobs := [k], codeTabs := [(0, { (tState []).codeTab 0 with swapPending := true })] }
     k ∈ s.jobs ∧ (s.jobs.map (fun x => x.id)).Nodup ∧ k.done = false ∧ ∀ c ∈ k.tables, c = 0) ∧
    (∀ x ∈ (tState []).jobs, x.payloadDone = false) := by
  intro j
  exact ⟨⟨rfl, rfl⟩, error_of (by decide +kernel), by decide, by decide, rfl, rfl, by decide, by decide, by decide, by decide, by decide, by decide⟩

/-- An event ring of domain 0 at 0x1000 for sixteen entries, with one event waiting and TAIL as given. -/
def tRing (tail : Nat) : State :=
  { tState [] with
    rings := [⟨0, 0x1000, 4⟩], events := [⟨0, 5, 0, 0, 0, 0, 0, 0⟩], mem := memStore [] 0x1000 (natLe 8 tail) }

theorem witness_ErrorsAndEvents :
    (tState []).pages.find? (fun x => pageCovers x 0 0x100) = some (fetchPage 0) ∧ (fetchPage 0).pinned = true ∧
    (let p := { fetchPage 0 with pinned := false }
     ({ tState [] with pages := [p] } : State).pages.find? (fun x => pageCovers x 0 0x100) = some p ∧ p.pinned = false) ∧
    (5 : BitVec 52).toNat ∈ ({ tState [] with poison := [5] } : State).poison ∧ (5 : BitVec 52).toNat ∉ (tState []).poison ∧
    (5 : BitVec 52).toNat ∈ ({ tState [] with padPoison := [5] } : State).padPoison ∧ (5 : BitVec 52).toNat ∉ (tState []).padPoison ∧
    (∀ r ∈ (tState []).rings, r.fdom ≠ 0) ∧ (∀ e ∈ (tState []).events, e.fdom ≠ 0) ∧
    (let used (l : List Remap) := l.filter (fun x => decide (x.kind = .core) && x.group == (spareGroup .core 3).1)
     (spareGroup .core 3).2 ≤ (used [⟨.core, 1, 0, 0⟩, ⟨.core, 2, 0, 1⟩]).length ∧ (used [⟨.core, 1, 0, 0⟩]).length < (spareGroup .core 3).2 ∧
     1 < (spareGroup .core 3).2 ∧ (∀ x ∈ used [⟨.core, 1, 0, 0⟩], x.spare ≠ 1) ∧ (∃ x ∈ used [⟨.core, 1, 0, 0⟩], x.spare = 0) ∧
     unitInService .core 3 = true ∧ unitInService .core 4000 = false) ∧
    (11 : BitVec 4).toNat < 12 ∧ (11 : BitVec 4) ∉ (tState []).portsLost ∧
    (∀ n ∈ [0, 16], (tRing n).MemInv ∧ (tRing n).rings.find? (fun x => decide (x.fdom = 0)) = some ⟨0, 0x1000, 4⟩ ∧
      (tRing n).events = [] ++ ⟨0, 5, 0, 0, 0, 0, 0, 0⟩ :: []) ∧ 0x1000 + 64 + 64 * 2 ^ 4 ≤ hbmBytes ∧
    2 ^ 4 ≤ (memRead (tRing 16).mem 0x1000 8 + 2 ^ 64 - memRead (tRing 16).mem 0x1008 8) % 2 ^ 64 ∧
    (memRead (tRing 0).mem 0x1000 8 + 2 ^ 64 - memRead (tRing 0).mem 0x1008 8) % 2 ^ 64 < 2 ^ 4 := by
  refine ⟨by decide, by decide, by decide, by decide, by decide, by decide, by decide, by decide, by decide, by decide, by decide, by decide,
    fun n m => ?_, by decide, by decide, by decide⟩
  fin_cases m <;> exact ⟨⟨rfl, rfl⟩, rfl, rfl⟩

theorem witness_StartAndPower : (State.reset.stage = 0 ∧ State.reset.firmwareGood = true ∧ State.reset.verified = false) ∧
    ({ State.reset with firmwareGood := false } : State).firmwareGood = false ∧
    ({ State.reset with verified := true } : State).verified = true ∧ ({ State.reset with stage := 1 } : State).stage = 1 ∧
    (let s := { State.reset with stage := 2 }
     2 ≤ s.stage ∧ s.startDone = false ∧ s.joined.getLsbD (3 : BitVec 2).toNat = false) := by decide

/-- Queue 1 of sixteen packets at 0x1000, with HEAD, TAIL and an operation code in the first packet. -/
def tQueue (head tail : BitVec 32) (op : Nat) : State :=
  { State.reset with
    queues := [{ id := 1, base := 0x1000, log2 := 4, tail := tail, head := head, enabled := true, err := false, stopped := false, ltol := 0 }]
    mem := memStore [] 0x1000 [BitVec.ofNat 8 op] }

theorem witness_RegistersAndPackets : (∀ x, State.reset.queue? 0 = some x → x.enabled = false) ∧
    ((0x104 : BitVec 64).getLsbD 8 = true ∧ 4 ≤ (0x104 : BitVec 64).toNat % 2 ^ 5 ∧ (0x104 : BitVec 64).toNat % 2 ^ 5 ≤ 16) ∧
    (0x4 : BitVec 64).getLsbD 8 = false ∧ (0x103 : BitVec 64).toNat % 2 ^ 5 < 4 ∧ 16 < (0x111 : BitVec 64).toNat % 2 ^ 5 ∧ (∃ x, (tQueue 0 1 14).queue? 1 = some x ∧ x.enabled = true ∧ x.err = false ∧ x.stopped = false ∧
      x.head ≠ x.tail ∧ (16 - x.head).toNat ≤ 2 ^ x.log2 ∧ 2 ^ x.log2 < (17 - x.head).toNat) ∧ State.reset.queue? 1 = none ∧
    (let s := { State.reset with queues := [{ id := 0, base := 0, log2 := 4, tail := 0, head := 0, enabled := true, err := false,
                                              stopped := false, ltol := 0 }] };
      ¬∀ x, s.queue? 0 = some x → x.enabled = false) ∧
    (4112 : BitVec 16).toNat = 4096 + 16 * (1 : BitVec 8).toNat ∧ 0x1000 + 64 * (0 % 2 ^ 4) + 64 ≤ hbmBytes ∧
    hbmBytes < hbmBytes - 64 + 64 * 1 + 64 ∧ (tQueue 0 1 14).MemInv ∧
    (({ State.reset with firmwareGood := false } : State).stage = 0 ∧ ({ State.reset with firmwareGood := false } : State).firmwareGood = false) ∧
    (tQueue 0 1 14).destroyed 1 = false ∧
    (∀ op ∈ [0, 3, 14, 16], memRead (tQueue 0 1 op).mem 0x1000 1 = op) ∧ stageAccepts 0 3 = false ∧ stageAccepts 0 14 = true := by
  refine ⟨fun x h => (by cases h), by decide, by decide, by decide, by decide, ⟨_, rfl, by decide⟩, by decide, fun h => ?_, by decide,
    by decide, by decide, ⟨rfl, by decide⟩, by decide, by decide, by decide, by decide, by decide⟩
  exact absurd (h _ rfl) (by decide)

theorem witness_OutsideAccesses : State.reset.MemInv ∧ (11 : BitVec 4).toNat < 12 ∧ (11 : BitVec 4) ∉ State.reset.portsLost ∧
    ¬((12 : BitVec 4).toNat < 12) ∧ (0x100 : BitVec 52).toNat + 8 ≤ hbmBytes ∧ (0x100 : BitVec 52).toNat % 8 = 0 ∧
    (0x101 : BitVec 52).toNat % 4 ≠ 0 ∧ VAmo.add.accepts ⟨15, 0⟩ = true ∧ VAmo.add.accepts ⟨9, 0⟩ = false ∧
    pageAligned (fetchPage 0) = true ∧ pageAligned { fetchPage 0 with vbase := 1 } = false := ⟨⟨rfl, rfl⟩, by decide⟩

theorem witness_Window : ([⟨0, 0, 0, 0, 0, 0, 0, 0⟩] : List JEntry).length ≤ (1 : BitVec 64).toNat ∧
    ([⟨0, 0, 0, 0, 0, 0⟩] : List SeedEntry).length ≤ (1 : BitVec 64).toNat := by decide

/-- An accepted command with its operand doublewords. -/
def tCmd (op q d1 d2 d3 d4 : Nat) (began : Bool) : Cmd :=
  { seq := 1, queue := q, began := began, leftOut := false
    pkt := #v[BitVec.ofNat 64 op, BitVec.ofNat 64 d1, BitVec.ofNat 64 d2, BitVec.ofNat 64 d3, BitVec.ofNat 64 d4, 0, 0, 0] }

/-- A device with queues 0 and 1 and one hart, and the command in hand. -/
def tHost (c : Cmd) : State :=
  { tArea with
    stage := 2, joined := 1, cmds := [c], inHand := some 1
    queues := [{ id := 0, base := 0, log2 := 4, tail := 0, head := 0, enabled := true, err := false, stopped := false, ltol := 0 },
               { id := 1, base := 0, log2 := 4, tail := 0, head := 0, enabled := true, err := false, stopped := false, ltol := 0 }] }

theorem witness_CommandFrame : State.reset.handCmd 3 = none ∧ (tHost (tCmd 13 0 256 0 0 0 false)).MemInv ∧
    (tHost (tCmd 13 0 256 0 0 0 false)).handCmd 13 = some (tCmd 13 0 256 0 0 0 false) ∧
    (let early : Cmd := { tCmd 4 0 0 0 0 0 false with seq := 0 }
     let s := { tHost (tCmd 13 0 256 0 0 0 false) with cmds := [early, tCmd 13 0 256 0 0 0 false] }
     s.handCmd 13 = some (tCmd 13 0 256 0 0 0 false) ∧ (tCmd 13 0 256 0 0 0 false).bar = false ∧
     ∃ x ∈ s.cmds, x.queue = 0 ∧ x.seq.toNat < 1 ∧ x.began = false) ∧
    (tHost (tCmd 13 0 256 1 0 0 false)).mayBegin (tCmd 13 0 256 1 0 0 false) = true ∧
    (∃ n < 6, (tCmd 13 0 256 1 0 0 false).d (n + 1) &&& (2 ^ 64 - 1 - [2 ^ 64 - 1].getD n 0) ≠ 0) ∧
    (tCmd (13 + 2 ^ 9) 0 256 0 0 0 false).d 0 / 2 ^ 9 % 2 ^ 23 ≠ 0 ∧
    ({ tQueue 0 1 14 with cmds := [tCmd 2 0 1 0 0 0 false] } : State).destroyed 1 = true ∧ (tCmd 0x10D 0 256 0 0 0 false).bar = true := by
  refine ⟨by decide, ⟨rfl, rfl⟩, by decide, ?_, by decide, ⟨1, by decide, by decide⟩, by decide⟩; decide

/-- A launch of one hart left, of queue 1 and address space 0. -/
def tLaunch : Launch :=
  { rcb := 0, seq := 0, queue := 1, handle := 0, left := 1, cancelled := false, info := LaunchInfo.none, donea := 0, donev := 0 }

theorem witness_QueueCommands :
    (∀ c ∈ [tCmd 1 1 0 0x502 0 0 false, tCmd 1 0 0 0x502 0 0 false, tCmd 1 0 0 0x501 0 0 false],
      (tHost c).handed 1 [2 ^ 64 - 1, 0xFFFFFFFF00001FFF] c) ∧
    ((tHost (tCmd 1 0 0 0x502 0 0 false)).queue? 2 = none ∧ ((tHost (tCmd 1 0 0 0x501 0 0 false)).queue? 1).isSome = true) ∧
    (∀ c ∈ [tCmd 2 1 1 0 0 0 false, tCmd 2 0 5 0 0 0 false, tCmd 2 0 1 0 0 0 false], (tHost c).handed 2 [0x1FF] c) ∧
    ((tHost (tCmd 2 0 5 0 0 0 false)).queue? 5 = none ∧ ((tHost (tCmd 2 0 1 0 0 0 false)).queue? 1).isSome = true ∧
      (∀ l ∈ (tHost (tCmd 2 0 1 0 0 0 false)).launches, l.queue ≠ 1) ∧ (∀ x ∈ [tCmd 2 0 1 0 0 0 false], x.queue = 1 → x.opc ≠ 5) ∧
      ∃ l ∈ ({ tHost (tCmd 2 0 1 0 0 0 false) with launches := [tLaunch] } : State).launches, l.queue = 1) ∧
    (∀ c ∈ [tCmd 14 0 5 9 0 0 false, tCmd 14 0 1 9 0 0 false, tCmd 14 0 0 9 0 0 false], (tHost c).handed 14 [0xFF, 0xFFFFFFFF] c) := by
  unfold State.handed; decide

theorem witness_MemoryCommands : let w := 2 ^ 64 - 1
    ((tHost (tCmd 9 0 0 0 0 0 false)).handed 9 [0xFFFF, w, w] (tCmd 9 0 0 0 0 0 false)) ∧
    (∀ c ∈ [tCmd 10 0 3 0 0 0 false, tCmd 10 0 (2 ^ 34) 0 0 0 false], (tHost c).handed 10 [w, 0xFFFF] c) ∧ 3 < kvFrames ∧ kvFrames ≤ 2 ^ 34 ∧
    ((tHost (tCmd 9 0 0 0 0 0 false)).harts.map (fun h => h.id)).Nodup ∧
    (∀ e ∈ [0, 0x0001000000000003, 0x0001000500000000], ∃ s : State, s.leaf 3 = e) ∧ validOf 0 = false ∧ refcOf 0 = 0 ∧
    validOf 0x0001000000000003 = true ∧ ownerOf 0x0001000000000003 = 0 ∧ refcOf 0x0001000500000000 ≠ 0 ∧ ownerOf 0x0001000500000000 ≠ 0 ∧
    ((tHost (tCmd 15 0 3 0 0 0 false)).handed 15 [w, 0xFFFF] (tCmd 15 0 3 0 0 0 false)) ∧
    (∀ c ∈ [tCmd 11 0 0 0x100000 0x40 4 false, tCmd 11 0 0 1 0x40 4 false], (tHost c).handed 11 [0xFFFF, w, w, 0x1F] c) ∧
    (∃ l ∈ [tLaunch], l.info.asid = 0) ∧
    (∀ c ∈ [tCmd 12 0 0 0x40 4 0 false, tCmd 12 0 0 0x40 3 0 false], (tHost c).handed 12 [0xFFFF, w, 0x1F] c) ∧
    (∀ c ∈ [tCmd 13 0 256 0 0 0 false, tCmd 13 0 4096 0 0 0 false, tCmd 13 0 300 0 0 0 false, tCmd 13 0 512 0 0 0 false,
        tCmd 13 0 256 0 0 0 true], (tHost c).handed 13 [w] c) ∧
    ((tHost (tCmd 13 0 512 0 0 0 false)).stage ≠ 0 ∧ (tHost (tCmd 13 0 512 0 0 0 false)).beat = BitVec.ofNat 13 512 ∧
      (tHost (tCmd 13 0 256 0 0 0 false)).beat ≠ BitVec.ofNat 13 256 ∧ (tHost (tCmd 13 0 256 0 0 0 true)).beat = (tHost (tCmd 13 0 256 0 0 0 true)).nextBeat ∧
      ({ tHost (tCmd 13 0 256 0 0 0 true) with nextBeat := 256 } : State).beat ≠ 256) ∧
    (let h := tState [] |>.hart
     let watched : Watch := { h.watch with len := 8, va := 0x100 }
     watched.len ≠ 0 ∧ 0xC0 < watched.va.toNat + watched.len ∧ watched.va.toNat < 0xC0 + 0x80) := by
  unfold State.handed
  refine ⟨by decide, by decide, by decide, by decide, by decide, fun e m => ⟨{ State.reset with kv := [(3, e)] }, rfl⟩, ?_⟩; decide

/-- A leaf RCB at 0x10000 of two harts with code at 0x2000 in an object of 64 bytes there. -/
def tLaunching (handle : Nat) (began : Bool) : State :=
  { tHost (tCmd 5 1 0x10000 handle 0 0 began) with
    objs := [{ handle := 7, digest := 0, entry := 0x2000, len := 64, refs := [1] }]
    mem := ([(0x10000, 2 ^ 60), (0x10040, 2 ^ 32 + 2), (0x10048, 0x2000), (0x10050, 64), (0x10068, 16)] : List (Nat × Nat)).foldl
      (fun m p => memStore m p.1 (natLe 8 p.2)) [] }

theorem witness_ObjectCommands : let w := 2 ^ 64 - 1
    (∀ c ∈ [tCmd 3 1 (2 ^ 52) 64 0 0 false, tCmd 3 1 0 64 0 0 false], (tHost c).handed 3 [w, w, w] c) ∧ 0 + 64 ≤ hbmBytes ∧
    hbmBytes < 2 ^ 52 + 64 ∧ objectStore + ((tHost (tCmd 3 1 0 64 0 0 false)).nextEntry - codeWindow) + 64 ≤ hbmBytes ∧
    (tCmd 3 1 0 64 0x100 0 false).d 3 + 16 ≤ objectStore ∧ (tCmd 3 1 0 64 0x100 0 false).d 7 % 2 ^ 56 + 8 ≤ (tCmd 3 1 0 64 0x100 0 false).d 3 ∧
    (∃ s : State, ∃ o, s.objs.find? (fun o => decide (o.digest = Config.sm3 (memBytes [] 0 64))) = some o) ∧
    (tHost (tCmd 3 1 0 64 0 0 false)).objs = [] ∧
    (∀ image, Config.orieder image = none ∨ ∃ native, Config.orieder image = some native) ∧
    ((tHost (tCmd 4 1 7 0 0 0 false)).handed 4 [w] (tCmd 4 1 7 0 0 0 false)) ∧ (∃ o ∈ (tLaunching 7 false).objs, o.handle.toNat = 7 ∧ 1 ∈ o.refs) ∧
    ((tLaunching 7 false).handed 5 [w, w] (tCmd 5 1 0x10000 7 0 0 false)) ∧ (tLaunching 7 false).launchOk 0x10000 = true ∧
    (tLaunching 7 false).launchOk 0x20001 = false ∧ 2 ^ 56 ≤ 2 ^ 56 ∧
    (∃ o, (tLaunching 7 false).objs.find? (fun o => o.handle.toNat == 7) = some o ∧ o.entry.toNat ≤ 0x2000 ∧ 0x2000 < o.entry.toNat + o.len ∧
      0x2000 + 64 ≤ o.entry.toNat + o.len) ∧ (tLaunching 7 false).rcbD 0x10000 9 = 0x2000 ∧ (tLaunching 7 false).rcbD 0x10000 10 = 64 ∧
    ((tLaunching 7 false).joined.getLsbD 0 = true ∧ (tLaunching 7 false).rcbD 0x10000 15 + (tLaunching 7 false).rcbD 0x10000 16 * 2 ^ 64 = 0) := by
  intro w
  unfold State.handed
  refine ⟨by decide, by decide, by decide, by decide, by decide, by decide, ⟨{ State.reset with objs := [⟨0, Config.sm3 (memBytes [] 0 64), 0, 0, []⟩] },
    ⟨0, Config.sm3 (memBytes [] 0 64), 0, 0, []⟩, by simp⟩, rfl, fun image => ?_,
    by decide, by decide, by decide, by decide, by decide, by decide, ⟨_, rfl, by decide⟩, by decide⟩
  cases Config.orieder image with
  | none => exact .inl rfl
  | some n => exact .inr ⟨n, rfl⟩

/-- Whether a release reads a context back, finds a value refused, or faults. -/
def readBackKind (r : Except Flt (Option (Hart × SaveRec))) : Nat :=
  match r with
  | .ok (some _) => 2
  | .ok none => 1
  | .error _ => 0

theorem readBack_found {r : Except Flt (Option (Hart × SaveRec))} (h : readBackKind r = 2) : ∃ x y, r = .ok (some (x, y)) := by
  unfold readBackKind at h
  split at h
  · exact ⟨_, _, rfl⟩
  · omega
  · omega

theorem readBack_refused {r : Except Flt (Option (Hart × SaveRec))} (h : readBackKind r = 1) : r = .ok none := by
  unfold readBackKind at h
  split at h
  · omega
  · rfl
  · omega

/-- A saved hart and a RELEASE of it in hand; `rotn` stands in its area. -/
def tReleasing (rotn : Nat) (bad reserve : Bool) : State :=
  let c := tCmd 6 0 0 0 0 0 false
  { tHost c with hart := (tSaved 0x20 0 false bad reserve).hart, mem := memStore [] 0x268 (natLe 8 (rotn * 2 ^ 16)) }

theorem witness_Release (n : Nat) (bad reserve : Bool) : let s := tReleasing n bad reserve
    s.handed 6 [2 ^ 64 - 1, 0xFFFFFFFF] (tCmd 6 0 0 0 0 0 false) ∧ s.overtakes (tCmd 6 0 0 0 0 0 false) = false ∧
    (s.named 0 (some 0)).find? (fun h => decide (h.st = .saved) && !h.cancelling) = some s.hart ∧
    s.hart.save = some (tRecordOf 0x20 0 false bad reserve) := by
  intro s
  refine ⟨⟨rfl, .inr rfl, rfl⟩, rfl, ?_, rfl⟩
  have : s.harts = [s.hart] := rfl
  unfold State.named
  rw [this]
  rfl

theorem witness_ReleaseOfNone : ∀ h ∈ (tHost (tCmd 6 0 0 0 0 0 false)).harts, h.id.rcb.toNat = 0 → h.id.hidx.toNat = 0 → h.st ≠ .saved := by
  decide

theorem witness_ReadBack : (∃ h r, (tReleasing 32 false false).readBack (tReleasing 32 false false).hart (tRecordOf 0x20 0 false false false)
      = .ok (some (h, r))) ∧
    (tReleasing 0 false false).readBack (tReleasing 0 false false).hart (tRecordOf 0x20 0 false false false) = .ok none :=
  ⟨readBack_found (by decide +kernel), readBack_refused (by decide +kernel)⟩

/-- A device with two saved harts of one launch, the second one released when `let_go`, and a CANCEL of every hart, or of the first. -/
def tCancelling (every letGo : Bool) : State :=
  let s := tHost (tCmd 7 0 0 (if every then 2 ^ 32 else 0) 0 0 false)
  let h := (tSaved 0x20 0 false false false).hart
  { s with
    hart := h, launches := [tEnding 1 false]
    parked := if every then [{ (tSaved 0x20 0 letGo false false).hart with id := { h.id with hidx := 1 } }] else [] }

theorem witness_CancelOfMany : (∀ b, let s := tCancelling true b
      s.handed 7 [2 ^ 64 - 1, 0x1FFFFFFFF] (tCmd 7 0 0 (2 ^ 32) 0 0 false) ∧ s.overtakes (tCmd 7 0 0 (2 ^ 32) 0 0 false) = false ∧
      (s.harts.map (fun x => x.id)).Nodup ∧ (∀ x ∈ s.harts, x.cancelling = false ∧ x.onCore = false ∧ x ∈ s.named 0 none) ∧
      s.hart.releasePending = false ∧ ∀ x ∈ s.parked, x.releasePending = b) ∧
    (let s := tCancelling false false
     s.named 0 (some 0) = [s.hart] ∧ s.launches.find? (fun l => decide (l.seq = s.hart.id.seq)) = some (tEnding 1 false) ∧
     s.translate 0 .write 0x800 = .ok ⟨0x800, .hbm⟩ ∧ ∀ x ∈ s.cmds, x.d 7 % 2 ^ 56 + 8 ≤ 0x800) ∧
    (({ tHost (tCmd 7 0 0 0 0 0 false) with hart := (tSaved 0x20 0 true false false).hart } : State).hart.releasePending = true) := by
  unfold State.handed
  refine ⟨fun b => ?_, by decide +kernel, rfl⟩
  cases b <;> decide +kernel

theorem witness_CancelAndPreempt :
    (∀ c ∈ [tCmd 7 0 0 0 0 0 false, tCmd 7 0 5 0 0 0 false], (tHost c).handed 7 [2 ^ 64 - 1, 0x1FFFFFFFF] c ∧ (tHost c).overtakes c = false) ∧
    (∀ h ∈ (tHost (tCmd 7 0 5 0 0 0 false)).harts, h.id.rcb.toNat = 5 → h.st = .retired) ∧
    (∀ c ∈ [tCmd 8 0 5 0 0 0 false, tCmd 8 0 0 0 0 0 false, tCmd 8 0 0 1 0 0 false], (tHost c).handed 8 [2 ^ 64 - 1, 1] c) ∧
    (tHost (tCmd 8 0 5 0 0 0 false)).named 5 none = [] ∧
    (tHost (tCmd 8 0 0 1 0 0 false)).named 0 none = [(tHost (tCmd 8 0 0 1 0 0 false)).hart] ∧
    (tHost (tCmd 8 0 0 1 0 0 false)).hart.onCore = true ∧
    (tHost (tCmd 8 0 0 1 0 0 false)).hart.deferred = false ∧ (tHost (tCmd 8 0 0 1 0 0 false)).hart.lane = none ∧
    (tHost (tCmd 8 0 0 1 0 0 false)).hart.badRegs = false ∧ (tHost (tCmd 8 0 0 1 0 0 true)).hart.hardReq = none ∧
    ((tHost (tCmd 8 0 0 1 0 0 false)).upd (fun h => { h with st := .waiting .fullEmpty })).hart.deferred = true ∧
    (let early : Cmd := { tCmd 7 0 0 0 0 0 false with seq := 0 }
     ({ tHost (tCmd 6 0 0 0 0 0 false) with cmds := [early, tCmd 6 0 0 0 0 0 false] } : State).overtakes (tCmd 6 0 0 0 0 0 false) = true) := by
  unfold State.handed; decide +kernel

/-! ### One step each of the device: R339, R317, R330, R336, R334, R9, R255, R266, R12, R212, R328 -/

theorem test_start_enters_stage_one : seen (exec .startStage { State.reset with verified := true }) (fun t => (t.stage, t.jhead)) (0, 0)
    = (1, 1) := by decide
theorem test_beat_advances : seen (exec .beatEnd { State.reset with stage := 1, cycle := 1280 }) (fun t => (t.beatNo, t.beatFrom)) (0, 0)
    = (1, 512) := by decide
theorem test_beat_waits : seen (exec .beatEnd { State.reset with stage := 1, cycle := 1279 }) (fun t => (t.beatNo, t.beatFrom)) (9, 9)
    = (0, 0) := by decide
theorem test_setbeat_takes_next_beat : seen (exec .setbeat (tHost (tCmd 13 0 768 0 0 0 false))) (fun t => (t.nextBeat, t.beat)) (0, 0)
    = (768, 512) := by decide
theorem test_qcreate_makes_queue : seen (exec .qcreate (tHost (tCmd 1 0 0x9000 0x700000502 0 0 false)))
    (fun t => (t.queue? 2).map (fun x => (x.base, x.log2, x.ltol))) none = some (0x9000, 5, 7) := by decide
theorem test_kvmap_owns_frame : seen (exec .kvmap (tHost (tCmd 10 0 3 5 0 0 false)))
    (fun t => (ownerOf (t.leaf 3), t.count 3, validOf (t.leaf 3))) (0, 0, false) = (5, 1, true) := by decide
theorem test_event_ring_takes_event : seen (exec (.eventRingPost 0) (tRing 3))
    (fun t => (memRead t.mem 0x1000 8, memRead t.mem (0x1040 + 3 * 64) 8, t.events.length)) (0, 0, 9) = (4, 5, 0) := by decide
theorem test_launch_stacks : seen (exec .launch (tLaunching 7 false)) (fun t => (t.parked.map (fun h => (h.rd 2, h.rd 3, h.rd 4)))) []
    = [(16, 0, 2), (32, 1, 2)] := by decide +kernel
theorem test_cancel_retires_saved : seen (exec .cancel { tHost (tCmd 7 0 0 0 0 0 false) with
    hart := (tSaved 0x20 0 false false false).hart }) (fun t => t.hart.st) .created = .retired := by decide +kernel
theorem test_preempt_asks : seen (exec .preempt (tHost (tCmd 8 0 0 0 0 0 false))) (fun t => t.hart.soft) [] = [⟨0, .host⟩] := by decide
theorem test_placement_takes_context : seen (exec (.hartPlacement 0) tCreated)
    (fun t => t.harts.map (fun h => (h.st, h.core, h.ctx, h.w))) [] = [(.retired, 0, 0, 1), (.resident, 0, 0, 1)] := by decide +kernel
theorem test_peer_adds : seen (exec (.peerPortRequest 0 (.amo 0 false 0x100 5 0)) { State.reset with mem := [(0x100, 250)] })
    (fun t => t.mem) [] = [(0x100, 255)] := by decide
theorem test_doorbell_past_size : seen (exec (.tailq 1 17) (tQueue 0 1 14)) (fun t => (t.queue? 1).map (fun x => x.err)) none
    = some true := by decide

end Sys2Proof.Tests
end

section
/-! Errors and events (R213, R214, R333, R334, R342, R343): what a device write leaves in memory, what performing every
hart's accesses keeps, and the obligation O52. -/

namespace Sys2Proof.Machine

@[simp] theorem natLe_length (k n : Nat) : (natLe k n).length = k := by
  induction k generalizing n with
  | zero => rfl
  | succ k ih => simp [natLe, ih]

theorem leNat_natLe (k n : Nat) : leNat (natLe k n) = n % 256 ^ k := by
  induction k generalizing n with
  | zero => simp [natLe, leNat, Nat.mod_one]
  | succ k ih =>
    rw [natLe, leNat, ih, BitVec.toNat_ofNat, show 256 ^ (k + 1) = 2 ^ 8 * 256 ^ k from Nat.pow_succ']
    exact Nat.mod_mul.symm

theorem memRead_memStore_same (bs : List Byte) (m : List Host.Cell) (a : Nat) (h : Memory.wf m = true) :
    memRead (memStore m a bs) a bs.length = leNat bs := by
  induction bs generalizing m a with
  | nil => rfl
  | cons b bs ih =>
    have first : memGet (memStore m a (b :: bs)) a = b :=
      memGet_memStore_same (b :: bs) m a 0 h (Nat.zero_lt_succ _)
    rw [List.length_cons, memRead, first, memStore, ih _ _ (memSet_wf m a b h), leNat]

theorem memRead_memStore_other (bs : List Byte) (m : List Host.Cell) (a x n : Nat) (h : Memory.wf m = true)
    (hx : x + n ≤ a ∨ a + bs.length ≤ x) : memRead (memStore m a bs) x n = memRead m x n :=
  memRead_congr _ _ _ _ fun y _ _ => memGet_memStore_other bs m a y h (by omega)

theorem memRead_memStore_natLe (m : List Host.Cell) (a k n : Nat) (h : Memory.wf m = true) :
    memRead (memStore m a (natLe k n)) a k = n % 256 ^ k := by
  simpa only [natLe_length, leNat_natLe] using memRead_memStore_same (natLe k n) m a h

theorem memStore_append (xs ys : List Byte) (m : List Host.Cell) (a : Nat) :
    memStore m a (xs ++ ys) = memStore (memStore m a xs) (a + xs.length) ys := by
  induction xs generalizing m a with
  | nil => rfl
  | cons x xs ih => simp only [List.cons_append, memStore, ih, List.length_cons, Nat.add_assoc, Nat.add_comm 1]

@[simp] theorem doublewords_length (ws : List Nat) : (ws.flatMap (natLe 8)).length = 8 * ws.length := by
  simp [List.length_flatMap, Nat.mul_comm]

/-- Of doublewords stored one after another each is read back. -/
theorem memRead_memStore_doublewords (ws : List Nat) (m : List Host.Cell) (a i : Nat) (h : Memory.wf m = true)
    (hi : i < ws.length) : memRead (memStore m a (ws.flatMap (natLe 8))) (a + 8 * i) 8 = ws[i] % 2 ^ 64 := by
  induction ws generalizing m a i with
  | nil => simp at hi
  | cons w ws ih =>
    have h' := memStore_wf (natLe 8 w) m a h
    rw [List.flatMap_cons, memStore_append, natLe_length]
    cases i with
    | zero =>
      rw [memRead_memStore_other _ _ _ _ _ h' (by omega)]
      exact memRead_memStore_natLe m a 8 w h
    | succ i =>
      rw [show a + 8 * (i + 1) = a + 8 + 8 * i by omega]
      exact ih _ _ i h' (Nat.lt_of_succ_lt_succ hi)

/-! ## Writes of the device -/

theorem noteWrite_withoutWatch (a n : Nat) (h : Hart) :
    ({ noteWrite a n h with watch := Watch.none } : Hart) = { h with watch := Watch.none } := by
  rw [noteWrite_eq]

/-- A write of the device inside HBM stores its bytes, and changes what no hart's context holds (R13). -/
theorem State.putDevice_hbm (s : State) (a : Nat) (bs : List Byte) (h : a + bs.length ≤ hbmBytes) :
    (s.putDevice a bs).mem = memStore s.mem a bs ∧ (s.putDevice a bs).events = s.events ∧
      (s.putDevice a bs).contexts = s.contexts := by
  have inside : ¬ hbmBytes < a + bs.length := by omega
  have low : ¬ barBase ≤ a := by simp only [hbmBytes, barBase] at h ⊢; omega
  rw [State.putDevice, if_neg inside, State.commitMem, if_neg low]
  refine ⟨rfl, rfl, ?_⟩
  simp [State.contexts, State.harts, noteWrite_withoutWatch]

/-! ## Translations that performing accesses keep -/

/-- The page table, and the translations that are still in use, are as they were. -/
def State.TranslationsKept (s t : State) : Prop := t.pages = s.pages ∧ t.tlb = s.tlb

theorem State.TranslationsKept.refl (s : State) : s.TranslationsKept s := ⟨rfl, rfl⟩

theorem State.TranslationsKept.trans {s t u : State} (h : s.TranslationsKept t) (k : t.TranslationsKept u) :
    s.TranslationsKept u := ⟨k.1.trans h.1, k.2.trans h.2⟩

theorem State.RegistersOnly.translationsKept {s t : State} (h : s.RegistersOnly t) : s.TranslationsKept t := by
  obtain ⟨-, -, -, -, -, -, pages, tlb, -⟩ := h
  exact ⟨pages, tlb⟩

theorem State.commit_translationsKept (s : State) (pad : Bool) (a : Nat) (bs : List Byte) :
    s.TranslationsKept (s.commit pad a bs) := by
  cases pad with
  | true => exact ⟨rfl, rfl⟩
  | false =>
    show s.TranslationsKept (s.commitMem a bs)
    unfold State.commitMem
    split
    · exact (State.barWrite_registersOnly s _ _).translationsKept
    · exact ⟨rfl, rfl⟩

theorem State.drainList_translationsKept (ws : List HeldWrite) (s : State) (sel : Nat → Bool) :
    s.TranslationsKept (s.drainList sel ws) := by
  induction ws generalizing s with
  | nil => exact .refl s
  | cons w ws ih =>
    refine State.TranslationsKept.trans ?_ (ih _)
    split
    · exact State.commit_translationsKept s _ _ _
    · exact .refl s

theorem State.drain_translationsKept (s : State) (sel : Nat → Bool) : s.TranslationsKept (s.drain sel) :=
  State.drainList_translationsKept s.hart.wbuf (s.upd fun h => { h with wbuf := h.wbuf.filter fun w => !sel w.stream }) sel

theorem Hart.keepBound_eq (h t : Hart) (rs : List Nat) :
    h.keepBound rs t = { t with vregs := (h.keepBound rs t).vregs } := by
  unfold Hart.keepBound
  generalize rs.filter (fun r => h.isBound r) = l
  induction l generalizing t with
  | nil => rfl
  | cons r l ih => rw [List.foldl_cons, ih]; rfl

theorem Hart.keepBound_putBits_eq (h : Hart) (rs : List Nat) (r g raw : Nat) :
    ∃ vregs, h.keepBound rs (h.putBits r g raw) = { h with vregs := vregs } := by
  rw [Hart.keepBound_eq, putBits_eq]
  exact ⟨_, rfl⟩

/-- A load that performs changes registers only, after its stream's held writes have performed (R193, R195). -/
theorem State.landLate_eq (s : State) (l : LateLoad) :
    ∃ sregs vregs, s.landLate l =
      (s.drain fun k => k == l.stream).upd fun h => { h with sregs := sregs, vregs := vregs } := by
  unfold State.landLate
  dsimp only
  split
  · exact ⟨_, _, congrArg (State.setHart _) (Hart.wr_eq _ _ _)⟩
  · obtain ⟨vregs, eq⟩ := Hart.keepBound_putBits_eq (s.drain fun k => k == l.stream).hart _ _ _ _
    exact ⟨_, vregs, congrArg (State.setHart _) eq⟩

theorem State.landLate_hart (s : State) (l : LateLoad) :
    (s.landLate l).hart.id = s.hart.id ∧ (s.landLate l).hart.late = s.hart.late := by
  obtain ⟨sregs, vregs, eq⟩ := s.landLate_eq l
  rw [eq, State.upd_hart, State.drain_hart]
  exact ⟨rfl, rfl⟩

theorem State.landLate_others (s : State) (l : LateLoad) : (s.landLate l).others = s.others := by
  obtain ⟨sregs, vregs, eq⟩ := s.landLate_eq l
  rw [eq]
  exact State.drain_others s _

theorem State.landLate_translationsKept (s : State) (l : LateLoad) : s.TranslationsKept (s.landLate l) := by
  obtain ⟨sregs, vregs, eq⟩ := s.landLate_eq l
  rw [eq]
  exact State.drain_translationsKept s _

theorem State.landLates_hart (ls : List LateLoad) (s : State) :
    (s.landLates ls).hart.id = s.hart.id ∧ (s.landLates ls).hart.late = s.hart.late := by
  induction ls generalizing s with
  | nil => exact ⟨rfl, rfl⟩
  | cons l ls ih =>
    obtain ⟨id, late⟩ := State.landLate_hart s l
    exact ⟨(ih _).1.trans id, (ih _).2.trans late⟩

theorem State.landLates_others (ls : List LateLoad) (s : State) : (s.landLates ls).others = s.others := by
  induction ls generalizing s with
  | nil => rfl
  | cons l ls ih => exact (ih _).trans (State.landLate_others s l)

theorem State.landLates_translationsKept (ls : List LateLoad) (s : State) : s.TranslationsKept (s.landLates ls) := by
  induction ls generalizing s with
  | nil => exact .refl s
  | cons l ls ih => exact (State.landLate_translationsKept s l).trans (ih _)

theorem State.focus_translationsKept (s : State) (id : HartId) : s.TranslationsKept (s.focus id) := by
  unfold State.focus
  split
  · exact .refl s
  · split
    · exact ⟨rfl, rfl⟩
    · exact .refl s

/-! ## A hart whose accesses have all performed -/

/-- Nothing that the hart has issued has yet to perform. -/
def Hart.Quiet (h : Hart) : Prop := h.wbuf = [] ∧ h.late = []

/-- The focused hart's accesses perform: its loads under way, then its held writes. -/
def State.settled (s : State) : State := s.settleLoads.drainAll

theorem State.settled_hart (s : State) : s.settled.hart.id = s.hart.id ∧ s.settled.hart.Quiet := by
  obtain ⟨id, late⟩ := State.landLates_hart s.hart.late (s.upd fun h => { h with late := [] })
  rw [State.settled, State.drainAll, State.drain_hart]
  exact ⟨id, List.filter_eq_nil_iff.2 (by simp), late⟩

theorem State.settled_others (s : State) : s.settled.others = s.others :=
  (State.drain_others _ _).trans (State.landLates_others s.hart.late (s.upd fun h => { h with late := [] }))

theorem State.settled_translationsKept (s : State) : s.TranslationsKept s.settled :=
  (State.landLates_translationsKept s.hart.late (s.upd fun h => { h with late := [] })).trans
    (State.drain_translationsKept _ _)

/-! ## Bringing a hart to the focus -/

/-- No two harts have one name. -/
def State.NamesDiffer (s : State) : Prop := (s.harts.map fun h => h.id).Nodup

/-- With differing names, the hart found is one among the others. -/
theorem cons_filter_perm_of_find (l : List Hart) (id : HartId) (h : Hart) (nodup : (l.map fun x => x.id).Nodup)
    (found : l.find? (fun x => decide (x.id = id)) = some h) : (h :: l.filter fun x => !decide (x.id = id)).Perm l := by
  induction l with
  | nil => cases found
  | cons x l ih =>
    rw [List.map_cons, List.nodup_cons] at nodup
    obtain ⟨fresh, nodup⟩ := nodup
    by_cases hx : x.id = id
    · have keep : l.filter (fun y => !decide (y.id = id)) = l := by
        rw [List.filter_eq_self]
        intro y hy
        have : y.id ≠ id := fun e => fresh (List.mem_map.2 ⟨y, hy, e.trans hx.symm⟩)
        simpa using this
      obtain rfl : x = h := by simpa [List.find?_cons, hx] using found
      simp [hx, keep]
    · have found' : l.find? (fun y => decide (y.id = id)) = some h := by simpa [List.find?_cons, hx] using found
      simp only [List.filter_cons, hx, decide_false, Bool.not_false, if_true]
      exact (List.Perm.swap x h _).trans ((ih nodup found').cons x)

theorem State.focus_harts_perm (s : State) (id : HartId) (n : s.NamesDiffer) : (s.focus id).harts.Perm s.harts := by
  unfold State.focus
  split
  · exact .refl _
  · split
    · next h found =>
      exact (List.Perm.swap s.hart h _).trans
        ((cons_filter_perm_of_find s.parked id h (List.nodup_cons.1 n).2 found).cons s.hart)
    · exact .refl _

theorem State.focus_namesDiffer (s : State) (id : HartId) (n : s.NamesDiffer) : (s.focus id).NamesDiffer :=
  ((s.focus_harts_perm id n).map Hart.id).nodup_iff.2 n

/-- Once a name has been brought to the focus, no hart out of focus has it. -/
theorem State.focus_parked_ne (s : State) (id : HartId) (n : s.NamesDiffer) (h : Hart) (m : h ∈ (s.focus id).parked) :
    h.id ≠ id := by
  unfold State.focus at m
  split at m
  · next e => exact fun k => (List.nodup_cons.1 n).1 (List.mem_map.2 ⟨h, m, k.trans e.symm⟩)
  · next e =>
    split at m
    · rcases List.mem_cons.1 m with rfl | m
      · exact e
      · simpa using (List.mem_filter.1 m).2
    · next absent => simpa using List.find?_eq_none.1 absent h m

/-! ## Every hart's accesses perform -/

/-- Every hart is quiet but those that a list names. -/
def State.QuietBut (s : State) (l : List HartId) : Prop := ∀ h ∈ s.harts, h.id ∈ l ∨ h.Quiet

/-- A hart out of focus keeps all but what it watches. -/
theorem mem_parked_of_others_eq {s t : State} (e : t.others = s.others) (h : Hart) (m : h ∈ t.parked) :
    ∃ x ∈ s.parked, x.id = h.id ∧ (x.Quiet → h.Quiet) := by
  have m' : ({ h with watch := Watch.none } : Hart) ∈ s.others := e ▸ List.mem_map_of_mem m
  obtain ⟨x, hx, eq⟩ := List.mem_map.1 m'
  have name : x.id = h.id := by injection eq
  have wbuf : x.wbuf = h.wbuf := by injection eq
  have late : x.late = h.late := by injection eq
  exact ⟨x, hx, name, fun q => ⟨wbuf ▸ q.1, late ▸ q.2⟩⟩

theorem State.settled_namesDiffer (s : State) (n : s.NamesDiffer) : s.settled.NamesDiffer := by
  have parked : (s.settled.parked.map fun h => h.id) = s.parked.map fun h => h.id := by
    have named := congrArg (List.map Hart.id) s.settled_others
    rw [State.others, State.others, List.map_map, List.map_map] at named
    exact named
  rw [State.NamesDiffer, State.harts, List.map_cons, parked, (State.settled_hart s).1]
  exact n

/-- When a hart's accesses perform, it needs no naming any more. -/
theorem State.onHart_settled (s : State) (id : HartId) (l : List HartId) (n : s.NamesDiffer) (q : s.QuietBut (id :: l)) :
    (s.onHart id State.settled).NamesDiffer ∧ (s.onHart id State.settled).QuietBut l := by
  have n₁ := s.focus_namesDiffer id n
  have n₂ := State.settled_namesDiffer _ n₁
  refine ⟨State.focus_namesDiffer _ _ n₂, fun h m => ?_⟩
  rcases List.mem_cons.1 ((State.focus_harts_perm _ _ n₂).mem_iff.1 m) with rfl | m
  · exact .inr (State.settled_hart _).2
  · obtain ⟨x, hx, name, quiet⟩ := mem_parked_of_others_eq (State.settled_others _) h m
    have other : x.id ≠ id := s.focus_parked_ne id n x hx
    rcases q x ((s.focus_harts_perm id n).mem_iff.1 (List.mem_cons_of_mem _ hx)) with named | q
    · exact .inl (name ▸ (List.mem_cons.1 named).resolve_left other)
    · exact .inr (quiet q)

theorem State.foldl_onHart_settled (l : List HartId) (s : State) (n : s.NamesDiffer) (q : s.QuietBut l) :
    (l.foldl (fun s id => s.onHart id State.settled) s).QuietBut [] := by
  induction l generalizing s with
  | nil => exact q
  | cons id l ih =>
    obtain ⟨n', q'⟩ := s.onHart_settled id l n q
    exact ih _ n' q'

theorem State.drainHarts_quiet (s : State) (n : s.NamesDiffer) (h : Hart) (m : h ∈ (s.drainHarts fun _ => true).harts) :
    h.Quiet := by
  have all : s.QuietBut ((s.harts.filter fun _ => true).map fun h => h.id) := fun h m =>
    .inl (List.mem_map.2 ⟨h, by simpa using m, rfl⟩)
  exact (State.foldl_onHart_settled _ s n all h m).resolve_left List.not_mem_nil

theorem State.onHart_settled_translationsKept (s : State) (id : HartId) :
    s.TranslationsKept (s.onHart id State.settled) :=
  ((s.focus_translationsKept id).trans (State.settled_translationsKept _)).trans (State.focus_translationsKept _ _)

theorem State.drainHarts_translationsKept (s : State) (p : Hart → Bool) : s.TranslationsKept (s.drainHarts p) := by
  unfold State.drainHarts
  generalize (s.harts.filter p).map (fun h => h.id) = l
  induction l generalizing s with
  | nil => exact .refl s
  | cons id l ih => exact (State.onHart_settled_translationsKept s id).trans (ih _)

/-! ## Eviction (R213) -/

theorem pageCovers_iff (x : Page) (asid : BitVec 16) (va : Nat) : pageCovers x asid va = true ↔
    x.asid = asid ∧ x.vbase.toNat ≤ va ∧ va < x.vbase.toNat + pageBytes x.size := by
  simp [pageCovers, and_assoc]

theorem mem_filter_uncovered (l : List Page) (asid : BitVec 16) (va : Nat) (x : Page) :
    x ∈ l.filter (fun x => !pageCovers x asid va) ↔
      x ∈ l ∧ ¬(x.asid = asid ∧ x.vbase.toNat ≤ va ∧ va < x.vbase.toNat + pageBytes x.size) := by
  rw [List.mem_filter, Bool.not_eq_true', ← Bool.not_eq_true, pageCovers_iff]

/-- The state after every accepted access has performed and the pages of an address are gone. -/
def State.evicted (s : State) (asid : BitVec 16) (va : Nat) : State :=
  let t := s.drainHarts fun _ => true
  { t with pages := t.pages.filter (fun x => !pageCovers x asid va)
           tlb := t.tlb.filter (fun x => !pageCovers x asid va) }

theorem exec_eviction_some (s : State) (asid : BitVec 16) (va : BitVec 56) (p : Page)
    (found : s.pages.find? (fun x => pageCovers x asid va.toNat) = some p) :
    exec (.eviction asid va) s = if p.pinned then .next s else .next (s.evicted asid va.toNat) := by
  show execEviction asid va s = _
  rw [execEviction, found]
  rfl

theorem State.mem_evicted_pages (s : State) (asid : BitVec 16) (va : Nat) (x : Page) :
    x ∈ (s.evicted asid va).pages ↔
      x ∈ s.pages ∧ ¬(x.asid = asid ∧ x.vbase.toNat ≤ va ∧ va < x.vbase.toNat + pageBytes x.size) := by
  rw [← (s.drainHarts_translationsKept fun _ => true).1]
  exact mem_filter_uncovered _ _ _ _

theorem State.mem_evicted_tlb (s : State) (asid : BitVec 16) (va : Nat) (x : Page) :
    x ∈ (s.evicted asid va).tlb ↔
      x ∈ s.tlb ∧ ¬(x.asid = asid ∧ x.vbase.toNat ≤ va ∧ va < x.vbase.toNat + pageBytes x.size) := by
  rw [← (s.drainHarts_translationsKept fun _ => true).2]
  exact mem_filter_uncovered _ _ _ _

/-! ## Errors, lost ports and spares -/

/-- Domain 0 is told of an event that names no hart. -/
def State.Told (s t : State) (code : Nat) : Prop :=
  ∃ e, t.events = s.events ++ [e] ∧ e.fdom = 0 ∧ e.cause = Config.eventCause code ∧ e.rcb = 0 ∧
    e.time = BitVec.ofNat 64 s.ns

theorem State.postManagement_told (s : State) (code : Nat) : s.Told (s.postManagement code) code :=
  ⟨_, rfl, rfl, rfl, rfl, rfl⟩

theorem mem_filter_bne (l : List Nat) (a x : Nat) : x ∈ l.filter (fun p => p != a) ↔ x ∈ l ∧ x ≠ a := by
  rw [List.mem_filter, bne_iff_ne]

theorem exec_unconsumedError_mem (s : State) (pa : BitVec 52) : exec (.unconsumedError (.mem pa)) s =
    if s.poison.contains pa.toNat then
      .next ({ s with poison := s.poison.filter fun p => p != pa.toNat }.postManagement 1)
    else .next s := rfl

theorem exec_unconsumedError_pad (s : State) (a : BitVec 52) : exec (.unconsumedError (.pad a)) s =
    if s.padPoison.contains a.toNat then
      .next ({ s with padPoison := s.padPoison.filter fun p => p != a.toNat }.postManagement 1)
    else .next s := rfl

theorem exec_peerPortLost (s : State) (port : BitVec 4) : exec (.peerPortLost port) s =
    if 12 ≤ port.toNat ∨ s.portsLost.contains port = true then .next s
    else .next ({ s with portsLost := port :: s.portsLost }.postManagement 3) := rfl

/-- What the journal ends with after a note (R332). -/
theorem State.note_journal_getLast? (s : State) (queue opc kind outcome : Nat) (detail : BitVec 64) :
    ∃ e, (s.note queue opc kind outcome detail).journal.getLast? = some e ∧ e.seq = s.jhead ∧
      e.queue = BitVec.ofNat 8 queue ∧ e.opc = BitVec.ofNat 8 opc ∧ e.kind = BitVec.ofNat 8 kind ∧
      e.outcome = BitVec.ofNat 16 outcome ∧ e.detail = detail := by
  have last (j : List JEntry) (e : JEntry) (n : Nat) (hn : n < (j ++ [e]).length) :
      ((j ++ [e]).drop n).getLast? = some e := by
    rw [List.getLast?_drop, if_neg (Nat.not_le.2 hn), List.getLast?_concat]
  unfold State.note
  dsimp only
  refine ⟨_, last _ _ _ ?_, rfl, rfl, rfl, rfl, rfl, rfl⟩
  rw [List.length_append, List.length_singleton]
  omega

/-- The remaps that hold spares of a unit's group. -/
def State.spent (s : State) (kind : SpareKind) (unit : Nat) : List Remap :=
  s.remaps.filter fun x => decide (x.kind = kind) && x.group == (spareGroup kind unit).1

/-- A unit takes a spare of its group, and the harts concerned have a soft request (R342). -/
def State.takeSpare (s : State) (kind : SpareKind) (unit spare : Nat) : State :=
  let s := { s with remaps := { kind := kind, unit := unit, group := (spareGroup kind unit).1, spare := spare } :: s.remaps }
  s.mapHarts fun h => if spareAffects kind unit h then h.request s.ns (.spare kind unit) else h

/-- The state after a unit has been remapped: the journal entry first. -/
def State.remapped (s : State) (kind : SpareKind) (unit spare : Nat) : State :=
  (s.note 0 0 2 0 (Config.packDetail unit spare)).takeSpare kind unit spare

theorem exec_spareRemap (s : State) (kind : SpareKind) (unit : BitVec 32) (spare : BitVec 16) :
    exec (.spareRemap kind unit spare) s =
      if !unitInService kind unit.toNat then .next s
      else if (spareGroup kind unit.toNat).2 ≤ (s.spent kind unit.toNat).length then .next (s.postManagement 2)
      else if (spareGroup kind unit.toNat).2 ≤ spare.toNat ∨
          (s.spent kind unit.toNat).any (fun x => x.spare == spare.toNat) = true then .next s
      else .next (s.remapped kind unit.toNat spare.toNat) := rfl

theorem Hart.request_of_affected (h : Hart) (kind : SpareKind) (unit now : Nat) (why : SoftWhy) :
    (if spareAffects kind unit h then h.request now why else h) =
      if spareAffects kind unit h ∧ h.onCore ∧ (∀ r ∈ h.soft, r.why ≠ why) then
        { h with soft := h.soft ++ [{ since := now, why := why }] } else h := by
  by_cases affected : spareAffects kind unit h = true
  · simp only [affected, if_true, true_and, Hart.request, List.all_eq_true, decide_eq_true_eq]
  · simp only [affected, if_false, false_and, Bool.false_eq_true]

theorem State.takeSpare_harts (s : State) (kind : SpareKind) (unit spare : Nat) :
    (s.takeSpare kind unit spare).harts = s.harts.map fun h =>
      if spareAffects kind unit h ∧ h.onCore ∧ (∀ r ∈ h.soft, r.why ≠ .spare kind unit) then
        { h with soft := h.soft ++ [{ since := s.ns, why := .spare kind unit }] } else h := by
  simp only [← Hart.request_of_affected]
  rfl

theorem State.takeSpare_rest (s : State) (kind : SpareKind) (unit spare : Nat) :
    (s.takeSpare kind unit spare).mem = s.mem ∧ (s.takeSpare kind unit spare).journal = s.journal ∧
    (s.takeSpare kind unit spare).remaps =
      { kind := kind, unit := unit, group := (spareGroup kind unit).1, spare := spare } :: s.remaps :=
  ⟨rfl, rfl, rfl⟩

theorem State.note_remaps (s : State) (queue opc kind outcome : Nat) (detail : BitVec 64) :
    (s.note queue opc kind outcome detail).remaps = s.remaps := by
  unfold State.note
  generalize (s.journal ++ [_] : List JEntry) = j
  rfl

theorem State.remapped_harts (s : State) (kind : SpareKind) (unit spare : Nat) :
    (s.remapped kind unit spare).harts = s.harts.map fun h =>
      if spareAffects kind unit h ∧ h.onCore ∧ (∀ r ∈ h.soft, r.why ≠ .spare kind unit) then
        { h with soft := h.soft ++ [{ since := s.ns, why := .spare kind unit }] } else h := by
  obtain ⟨hart, parked, -, -, -, -, -, -, -, -, -, cycle⟩ :=
    s.note_registersOnly 0 0 2 0 (Config.packDetail unit spare)
  rw [State.remapped, State.takeSpare_harts, State.harts, State.harts, State.ns, State.ns, hart, parked, cycle]

theorem State.remapped_remaps (s : State) (kind : SpareKind) (unit spare : Nat) : (s.remapped kind unit spare).remaps =
    { kind := kind, unit := unit, group := (spareGroup kind unit).1, spare := spare } :: s.remaps := by
  obtain ⟨-, -, remaps⟩ := State.takeSpare_rest (s.note 0 0 2 0 (Config.packDetail unit spare)) kind unit spare
  rw [State.remapped, remaps, State.note_remaps]

theorem State.remapped_mem (s : State) (kind : SpareKind) (unit spare : Nat) : (s.remapped kind unit spare).mem = s.mem := by
  obtain ⟨mem, -, -⟩ := State.takeSpare_rest (s.note 0 0 2 0 (Config.packDetail unit spare)) kind unit spare
  obtain ⟨-, -, noted, -⟩ := s.note_registersOnly 0 0 2 0 (Config.packDetail unit spare)
  rw [State.remapped, mem, noted]

theorem State.remapped_journal (s : State) (kind : SpareKind) (unit spare : Nat) :
    ∃ e, (s.remapped kind unit spare).journal.getLast? = some e ∧ e.kind = 2 := by
  obtain ⟨-, journal, -⟩ := State.takeSpare_rest (s.note 0 0 2 0 (Config.packDetail unit spare)) kind unit spare
  obtain ⟨e, last, -, -, -, two, -⟩ := s.note_journal_getLast? 0 0 2 0 (Config.packDetail unit spare)
  rw [State.remapped, journal]
  exact ⟨e, last, two⟩

section
variable (s : State)

theorem exec_unconsumedError_mem_poisoned (pa : BitVec 52) (h : pa.toNat ∈ s.poison) :
    ∃ t : State, exec (.unconsumedError (.mem pa)) s = .next t ∧ t = { s with poison := t.poison, events := t.events } ∧
      (∀ x, x ∈ t.poison ↔ x ∈ s.poison ∧ x ≠ pa.toNat) ∧ s.Told t 1 :=
  ⟨_, (exec_unconsumedError_mem s pa).trans (if_pos (List.contains_iff_mem.2 h)), rfl, mem_filter_bne _ _,
    State.postManagement_told { s with poison := s.poison.filter fun p => p != pa.toNat } 1⟩

theorem exec_unconsumedError_pad_poisoned (a : BitVec 52) (h : a.toNat ∈ s.padPoison) :
    ∃ t : State, exec (.unconsumedError (.pad a)) s = .next t ∧
      t = { s with padPoison := t.padPoison, events := t.events } ∧
      (∀ x, x ∈ t.padPoison ↔ x ∈ s.padPoison ∧ x ≠ a.toNat) ∧ s.Told t 1 :=
  ⟨_, (exec_unconsumedError_pad s a).trans (if_pos (List.contains_iff_mem.2 h)), rfl, mem_filter_bne _ _,
    State.postManagement_told { s with padPoison := s.padPoison.filter fun p => p != a.toNat } 1⟩

theorem exec_unconsumedError_unpoisoned (pa : BitVec 52) :
    (pa.toNat ∉ s.poison → exec (.unconsumedError (.mem pa)) s = .next s) ∧
    (pa.toNat ∉ s.padPoison → exec (.unconsumedError (.pad pa)) s = .next s) := by
  rw [exec_unconsumedError_mem, exec_unconsumedError_pad]
  exact ⟨fun h => if_neg (mt List.contains_iff_mem.1 h), fun h => if_neg (mt List.contains_iff_mem.1 h)⟩

theorem exec_peerPortLost_new (port : BitVec 4) (inRange : port.toNat < 12) (h : port ∉ s.portsLost) :
    ∃ t : State, exec (.peerPortLost port) s = .next t ∧
      t = { s with portsLost := port :: s.portsLost, events := t.events } ∧ s.Told t 3 := by
  have fresh : ¬(12 ≤ port.toNat ∨ s.portsLost.contains port = true) := by
    rw [List.contains_iff_mem]
    exact not_or.2 ⟨Nat.not_le.2 inRange, h⟩
  exact ⟨_, (exec_peerPortLost s port).trans (if_neg fresh), rfl, State.postManagement_told { s with portsLost := port :: s.portsLost } 3⟩

variable (kind : SpareKind) (unit : BitVec 32) (spare : BitVec 16)

theorem exec_spareRemap_not_in_service (h : unitInService kind unit.toNat = false) :
    exec (.spareRemap kind unit spare) s = .next s := by
  rw [exec_spareRemap, h]
  rfl

variable (inService : unitInService kind unit.toNat = true)
include inService

theorem exec_spareRemap_none_left (h : (spareGroup kind unit.toNat).2 ≤ (s.spent kind unit.toNat).length) :
    exec (.spareRemap kind unit spare) s = .next (s.postManagement 2) := by
  rw [exec_spareRemap, inService, if_neg (by decide), if_pos h]

variable (left : (s.spent kind unit.toNat).length < (spareGroup kind unit.toNat).2)
include left

theorem exec_spareRemap_refused (h : (spareGroup kind unit.toNat).2 ≤ spare.toNat ∨
    ∃ x ∈ s.spent kind unit.toNat, x.spare = spare.toNat) : exec (.spareRemap kind unit spare) s = .next s := by
  rw [exec_spareRemap, inService, if_neg (by decide), if_neg (Nat.not_le.2 left), if_pos]
  simpa only [List.any_eq_true, beq_iff_eq] using h

theorem exec_spareRemap_free (isThere : spare.toNat < (spareGroup kind unit.toNat).2)
    (free : ∀ x ∈ s.spent kind unit.toNat, x.spare ≠ spare.toNat) :
    exec (.spareRemap kind unit spare) s = .next (s.remapped kind unit.toNat spare.toNat) := by
  rw [exec_spareRemap, inService, if_neg (by decide), if_neg (Nat.not_le.2 left), if_neg]
  simp only [List.any_eq_true, beq_iff_eq, not_or, not_exists, not_and]
  exact ⟨Nat.not_le.2 isThere, free⟩

end

/-! ## Event rings (R334) -/

theorem firstEvent_eq_none (fdom : BitVec 16) (es : List FdEvent) (h : ∀ e ∈ es, e.fdom ≠ fdom) :
    firstEvent fdom es = none := by
  induction es with
  | nil => rfl
  | cons e es ih =>
    rw [firstEvent, if_neg (h e List.mem_cons_self), ih fun x hx => h x (List.mem_cons_of_mem _ hx)]
    rfl

theorem firstEvent_append_cons (before after : List FdEvent) (e : FdEvent)
    (h : ∀ x ∈ before, x.fdom ≠ e.fdom) : firstEvent e.fdom (before ++ e :: after) = some (e, before ++ after) := by
  induction before with
  | nil => rw [List.nil_append, firstEvent, if_pos rfl]; rfl
  | cons x before ih =>
    rw [List.cons_append, firstEvent, if_neg (h x List.mem_cons_self),
      ih fun y hy => h y (List.mem_cons_of_mem _ hy)]
    rfl

theorem FdEvent.words_length (e : FdEvent) : e.words.length = 8 := rfl

theorem FdEvent.words_lt (e : FdEvent) (w : Nat) (h : w ∈ e.words) : w < 2 ^ 64 := by
  have := e.cause.isLt; have := e.detail.isLt; have := e.rcb.isLt; have := e.hidx.isLt
  have := e.trapbase.isLt; have := e.time.isLt; have := e.frame.isLt
  simp only [FdEvent.words, List.mem_cons, List.not_mem_nil, or_false] at h
  omega

theorem exec_eventRingPost_waits (s : State) (fdom : BitVec 16)
    (h : (∀ r ∈ s.rings, r.fdom ≠ fdom) ∨ (∀ e ∈ s.events, e.fdom ≠ fdom)) :
    exec (.eventRingPost fdom) s = .next s := by
  show execEventRingPost fdom s = .next s
  rw [execEventRingPost]
  rcases h with noRing | noEvent
  · rw [List.find?_eq_none.2 (by simpa using noRing)]
  · rw [firstEvent_eq_none fdom s.events noEvent]
    split
    · next eq => cases eq
    · rfl

/-- The entries that a ring holds, TAIL less HEAD (log entry 29). -/
def State.ringHeld (s : State) (r : FdRing) : Nat :=
  (memRead s.mem r.base.toNat 8 + 2 ^ 64 - memRead s.mem (r.base.toNat + 8) 8) % 2 ^ 64

/-- Where a ring's next entry goes. -/
def State.ringSlot (s : State) (r : FdRing) : Nat :=
  r.base.toNat + 64 + 64 * (memRead s.mem r.base.toNat 8 % 2 ^ r.log2)

/-- The state after an event has gone to a ring and `rest` are the events that still wait. -/
def State.posted (s : State) (r : FdRing) (e : FdEvent) (rest : List FdEvent) : State :=
  (({ s with events := rest } : State).putDevice (s.ringSlot r) (e.words.flatMap (natLe 8))).writeDevice
    r.base.toNat ((memRead s.mem r.base.toNat 8 + 1) % 2 ^ 64)

theorem exec_eventRingPost_some (s : State) (fdom : BitVec 16) (r : FdRing) (e : FdEvent) (rest : List FdEvent)
    (ring : s.rings.find? (fun x => decide (x.fdom = fdom)) = some r)
    (event : firstEvent fdom s.events = some (e, rest)) :
    exec (.eventRingPost fdom) s = if 2 ^ r.log2 ≤ s.ringHeld r then .next s else .next (s.posted r e rest) := by
  show execEventRingPost fdom s = _
  rw [execEventRingPost, ring, event]
  rfl

section
variable (s : State) (r : FdRing) (e : FdEvent) (rest : List FdEvent)

/-- An entry stands behind its ring's header and inside the ring. -/
theorem State.ringSlot_bounds :
    r.base.toNat + 64 ≤ s.ringSlot r ∧ s.ringSlot r + 64 ≤ r.base.toNat + 64 + 64 * 2 ^ r.log2 := by
  have := Nat.mod_lt (memRead s.mem r.base.toNat 8) (Nat.two_pow_pos r.log2)
  unfold State.ringSlot
  omega

variable (fits : r.base.toNat + 64 + 64 * 2 ^ r.log2 ≤ hbmBytes)
include fits

theorem State.posted_fields :
    (s.posted r e rest).mem = memStore (memStore s.mem (s.ringSlot r) (e.words.flatMap (natLe 8))) r.base.toNat
      (natLe 8 ((memRead s.mem r.base.toNat 8 + 1) % 2 ^ 64)) ∧
    (s.posted r e rest).events = rest ∧ (s.posted r e rest).contexts = s.contexts := by
  have slot := s.ringSlot_bounds r
  obtain ⟨mem₁, events₁, contexts₁⟩ := State.putDevice_hbm ({ s with events := rest } : State) (s.ringSlot r)
    (e.words.flatMap (natLe 8)) (by rw [doublewords_length, FdEvent.words_length]; omega)
  obtain ⟨mem₂, events₂, contexts₂⟩ := State.putDevice_hbm
    (({ s with events := rest } : State).putDevice (s.ringSlot r) (e.words.flatMap (natLe 8)))
    r.base.toNat (natLe 8 ((memRead s.mem r.base.toNat 8 + 1) % 2 ^ 64)) (by rw [natLe_length]; omega)
  exact ⟨mem₂.trans (by rw [mem₁]), events₂.trans events₁, contexts₂.trans contexts₁⟩

variable (inv : s.MemInv)
include inv

theorem State.posted_tail :
    memRead (s.posted r e rest).mem r.base.toNat 8 = (memRead s.mem r.base.toNat 8 + 1) % 2 ^ 64 := by
  rw [(s.posted_fields r e rest fits).1, memRead_memStore_natLe _ _ _ _ (memStore_wf _ _ _ inv.1)]
  exact Nat.mod_mod _ _

theorem State.posted_word (i : Nat) (hi : i < 8) :
    memRead (s.posted r e rest).mem (s.ringSlot r + 8 * i) 8 = e.words[i] := by
  have slot := s.ringSlot_bounds r
  rw [(s.posted_fields r e rest fits).1, memRead_memStore_other _ _ _ _ _ (memStore_wf _ _ _ inv.1)
    (by rw [natLe_length]; omega), memRead_memStore_doublewords _ _ _ _ inv.1 hi]
  exact Nat.mod_eq_of_lt (e.words_lt _ (List.getElem_mem _))

/-- The doublewords of an entry as R334 lists them. -/
theorem State.posted_entry :
    memRead (s.posted r e rest).mem (s.ringSlot r) 8 = e.cause.toNat + e.detail.toNat * 2 ^ 8 ∧
    memRead (s.posted r e rest).mem (s.ringSlot r + 8) 8 = e.rcb.toNat ∧
    memRead (s.posted r e rest).mem (s.ringSlot r + 16) 8 = e.hidx.toNat ∧
    memRead (s.posted r e rest).mem (s.ringSlot r + 24) 8 = e.trapbase.toNat ∧
    memRead (s.posted r e rest).mem (s.ringSlot r + 32) 8 = e.time.toNat ∧
    memRead (s.posted r e rest).mem (s.ringSlot r + 40) 8 = e.frame.toNat := by
  have word := s.posted_word r e rest fits inv
  have first := word 0 (by decide)
  rw [Nat.mul_zero, Nat.add_zero] at first
  exact ⟨first, word 1 (by decide), word 2 (by decide), word 3 (by decide), word 4 (by decide), word 5 (by decide)⟩

theorem State.posted_other (x : Nat) (tail : x < r.base.toNat ∨ r.base.toNat + 8 ≤ x)
    (slot : x < s.ringSlot r ∨ s.ringSlot r + 64 ≤ x) : memGet (s.posted r e rest).mem x = memGet s.mem x := by
  rw [(s.posted_fields r e rest fits).1, memGet_memStore_other _ _ _ _ (memStore_wf _ _ _ inv.1)
    (by rw [natLe_length]; exact tail), memGet_memStore_other _ _ _ _ inv.1
    (by rw [doublewords_length, FdEvent.words_length]; exact slot)]

end

/-! ## The obligation -/

/-- Settles O52. Eviction: each hart in turn is brought to the focus and its accesses perform, which leaves the translations
alone and no hart's name behind. Event rings: the entry stands inside HBM behind the ring's header, so the two stores of a
post meet neither each other nor anything else. -/
theorem errorsAndEvents : Obligations.ErrorsAndEvents := by
  unfold Obligations.ErrorsAndEvents
  refine ⟨fun s asid spare va pa kind unit port => ⟨fun p found => ⟨fun pinned => ?_, fun unpinned => ?_⟩,
    exec_unconsumedError_mem_poisoned s pa, exec_unconsumedError_pad_poisoned s pa,
    (exec_unconsumedError_unpoisoned s pa).1, (exec_unconsumedError_unpoisoned s pa).2,
    ⟨exec_spareRemap_not_in_service s kind unit spare, fun inService => ⟨fun noneLeft => ?_,
      exec_spareRemap_refused s kind unit spare inService, fun left isThere free => ?_⟩⟩,
    exec_peerPortLost_new s port⟩, exec_eventRingPost_waits,
    fun s fdom r before after e inv ring events dom oldest fits => ?_⟩
  · rw [exec_eviction_some s asid va p found, if_pos pinned]
  · refine ⟨s.evicted asid va.toNat, ?_, s.mem_evicted_pages asid va.toNat, s.mem_evicted_tlb asid va.toNat,
      s.drainHarts_quiet⟩
    rw [exec_eviction_some s asid va p found, unpinned]
    rfl
  · exact ⟨_, exec_spareRemap_none_left s kind unit spare inService noneLeft, rfl, s.postManagement_told 2⟩
  · obtain ⟨e, last, journalled⟩ := s.remapped_journal kind unit.toNat spare.toNat
    exact ⟨_, e, exec_spareRemap_free s kind unit spare inService left isThere free,
      s.remapped_remaps kind unit.toNat spare.toNat, last, journalled, s.remapped_mem kind unit.toNat spare.toNat,
      s.remapped_harts kind unit.toNat spare.toNat⟩
  · subst dom
    have event : firstEvent e.fdom s.events = some (e, before ++ after) := by
      rw [events, firstEvent_append_cons before after e oldest]
    have post := exec_eventRingPost_some s e.fdom r e (before ++ after) ring event
    obtain ⟨cause, rcb, hidx, trapbase, time, frame⟩ := s.posted_entry r e (before ++ after) fits inv
    obtain ⟨-, left, contexts⟩ := s.posted_fields r e (before ++ after) fits
    exact ⟨fun full => post.trans (if_pos full), fun room => ⟨s.posted r e (before ++ after),
      post.trans (if_neg (Nat.not_le.2 room)), left, contexts, cause, rcb, hidx, trapbase, time, frame,
      s.posted_tail r e (before ++ after) fits inv,
      s.posted_other r e (before ++ after) fits inv⟩⟩

end Sys2Proof.Machine
end

section
/-! The grants of R15 through the operations that every instruction shares: memory, saves, faults, waits. -/

namespace Sys2Proof.Machine

/-! ## Grants of every hart -/

/-- What a step that answers a state leaves of R15. -/
def KeepsGrant (r : Res) : Prop := ∀ t, r = .next t → t.GrantInv

@[simp] theorem keepsGrant_next (s : State) : KeepsGrant (.next s) ↔ s.GrantInv :=
  ⟨fun h => h s rfl, fun h _ e => by cases e; exact h⟩

@[simp] theorem keepsGrant_fault (f : Fault) : KeepsGrant (.fault f) := fun _ e => nomatch e

@[simp] theorem keepsGrant_refused (r : Refusal) : KeepsGrant (.refused r) := fun _ e => nomatch e

theorem State.grantInv_iff (s : State) :
    s.GrantInv ↔ grantWidth s.hart.w = true ∧ ∀ h ∈ s.parked, grantWidth h.w = true :=
  List.forall_mem_cons

theorem State.GrantInv.hart {s : State} (h : s.GrantInv) : grantWidth s.hart.w = true := (s.grantInv_iff.1 h).1

theorem State.GrantInv.parked {s : State} (h : s.GrantInv) : ∀ x ∈ s.parked, grantWidth x.w = true :=
  (s.grantInv_iff.1 h).2

theorem State.GrantInv.of_others {s t : State} (h : s.GrantInv) (own : t.hart.w = s.hart.w) (rest : t.others = s.others) :
    t.GrantInv := by
  refine (State.grantInv_iff t).2 ⟨own ▸ h.hart, fun x hx => ?_⟩
  have m : ({ x with watch := Watch.none } : Hart) ∈ s.others := rest ▸ List.mem_map_of_mem hx
  obtain ⟨y, hy, e⟩ := List.mem_map.1 m
  have : y.w = x.w := by injection e
  exact this ▸ h.parked y hy


/-- A change of the machine that leaves every context as it was. -/
theorem State.GrantInv.of_same {s t : State} (k : s.GrantInv) (hart : t.hart = s.hart) (parked : t.parked = s.parked) :
    t.GrantInv :=
  (State.grantInv_iff t).2 ⟨hart ▸ k.hart, parked ▸ k.parked⟩

/-- A change of one context that keeps the grant. -/
theorem State.GrantInv.setHart {s : State} {h : Hart} (k : s.GrantInv) (w : grantWidth h.w = true) : (s.setHart h).GrantInv :=
  (State.grantInv_iff _).2 ⟨w, k.parked⟩

theorem State.GrantInv.upd {s : State} {f : Hart → Hart} (k : s.GrantInv) (w : grantWidth (f s.hart).w = true) :
    (s.upd f).GrantInv := k.setHart w

theorem State.GrantInv.mapHarts {s : State} {f : Hart → Hart} (k : s.GrantInv)
    (w : ∀ h : Hart, grantWidth h.w = true → grantWidth (f h).w = true) : (s.mapHarts f).GrantInv := by
  refine (State.grantInv_iff _).2 ⟨w _ k.hart, fun x hx => ?_⟩
  obtain ⟨y, hy, rfl⟩ := List.mem_map.1 hx
  exact w y (k.parked y hy)

/-! ### Shared operations -/

theorem State.RegistersOnly.grantInv {s t : State} (h : s.RegistersOnly t) (k : s.GrantInv) : t.GrantInv := by
  obtain ⟨hart, parked, -⟩ := h
  exact k.of_same hart parked

namespace State.GrantInv

variable {s : State}

@[simp] theorem note (k : s.GrantInv) (q o c x : Nat) (d : BitVec 64) : (s.note q o c x d).GrantInv :=
  (note_registersOnly s q o c x d).grantInv k

@[simp] theorem post (k : s.GrantInv) (e : FdEvent) : (s.post e).GrantInv := k

@[simp] theorem postHart (k : s.GrantInv) (h : Hart) (c d : BitVec 8) : (s.postHart h c d).GrantInv := k

@[simp] theorem setQueue (k : s.GrantInv) (q : Nat) (f : Queue → Queue) : (s.setQueue q f).GrantInv := k

@[simp] theorem queueError (k : s.GrantInv) (q : Nat) : (s.queueError q).GrantInv := (queueError_registersOnly s q).grantInv k

@[simp] theorem setPower (k : s.GrantInv) (p : Nat) : (s.setPower p).GrantInv := (setPower_registersOnly s p).grantInv k

@[simp] theorem powerUp (k : s.GrantInv) : s.powerUp.GrantInv := s.powerUp_registersOnly.grantInv k

@[simp] theorem writeReg (k : s.GrantInv) (n : Nat) (v : BitVec 64) : (s.writeReg n v).GrantInv :=
  (writeReg_registersOnly s n v).grantInv k

@[simp] theorem setLeaf (k : s.GrantInv) (f : Nat) (e : BitVec 64) : (s.setLeaf f e).GrantInv := k

@[simp] theorem setArb (k : s.GrantInv) (c g : Nat) (a : Arbiter) : (s.setArb c g a).GrantInv := k

@[simp] theorem creditAll (k : s.GrantInv) (h : Hart) (f : Int → Int) : (s.creditAll h f).GrantInv := by
  rw [creditAll_eq]; exact k

theorem focus (k : s.GrantInv) (id : HartId) : (s.focus id).GrantInv := by
  unfold State.focus
  split
  · exact k
  · split
    · next h found =>
      refine (grantInv_iff _).2 ⟨k.parked h (List.mem_of_find?_eq_some found), fun x hx => ?_⟩
      rcases List.mem_cons.1 hx with rfl | hx
      · exact k.hart
      · exact k.parked x (List.mem_filter.1 hx).1
    · exact k

theorem onHart (k : s.GrantInv) (id : HartId) (f : State → State) (keeps : ∀ t : State, t.GrantInv → (f t).GrantInv) :
    (s.onHart id f).GrantInv := (keeps _ (k.focus id)).focus _

@[simp] theorem commit (k : s.GrantInv) (pad : Bool) (a : Nat) (bs : List Byte) : (s.commit pad a bs).GrantInv :=
  k.of_others (by rw [commit_hart]) (commit_others s pad a bs)

@[simp] theorem commitMem (k : s.GrantInv) (a : Nat) (bs : List Byte) : (s.commitMem a bs).GrantInv := k.commit false a bs

@[simp] theorem commitPad (k : s.GrantInv) (a : Nat) (bs : List Byte) : (s.commitPad a bs).GrantInv := k.commit true a bs

@[simp] theorem putDevice (k : s.GrantInv) (a : Nat) (bs : List Byte) : (s.putDevice a bs).GrantInv := by
  unfold State.putDevice
  split
  · exact k
  · exact k.commitMem a bs

@[simp] theorem drain (k : s.GrantInv) (sel : Nat → Bool) : (s.drain sel).GrantInv :=
  k.of_others (by rw [drain_hart]) (drain_others s sel)

@[simp] theorem drainAll (k : s.GrantInv) : s.drainAll.GrantInv := k.drain _

@[simp] theorem store (k : s.GrantInv) (i : Nat) (now pad : Bool) (a : Nat) (bs : List Byte) : (s.store i now pad a bs).GrantInv :=
  k.of_others (by rw [store_hart]) (store_others s i now pad a bs)

@[simp] theorem landLate (k : s.GrantInv) (l : LateLoad) : (s.landLate l).GrantInv := by
  obtain ⟨sregs, vregs, e⟩ := s.landLate_eq l
  rw [e]
  exact (k.drain _).upd (k.drain _).hart

@[simp] theorem landLates (k : s.GrantInv) (ls : List LateLoad) : (s.landLates ls).GrantInv := by
  induction ls generalizing s with
  | nil => exact k
  | cons l ls ih => exact ih (k.landLate l)

@[simp] theorem settleLoads (k : s.GrantInv) : s.settleLoads.GrantInv := (k.upd (f := fun h => { h with late := [] }) k.hart).landLates _

@[simp] theorem releaseGranules (k : s.GrantInv) (id : HartId) : (s.releaseGranules id).GrantInv := k

@[simp] theorem endTx (k : s.GrantInv) : s.endTx.GrantInv := (grantInv_iff _).2 ⟨k.hart, k.parked⟩

theorem putWords (k : s.GrantInv) (h : Hart) (ws : List (Nat × Nat)) (t : State) (e : s.putWords h ws = some t) : t.GrantInv := by
  induction ws generalizing s with
  | nil => cases e; exact k
  | cons w ws ih =>
    obtain ⟨o, v⟩ := w
    unfold State.putWords at e
    split at e
    · cases e
    · exact ih (k.commitMem _ _) e

theorem writeArea (k : s.GrantInv) (i : SaveKind) (r : SaveRec) : (s.writeArea i r).GrantInv := by
  unfold State.writeArea
  dsimp only
  split
  · exact k.upd k.hart
  · split
    · next t e => have kt := k.putWords _ _ t e; exact kt.upd kt.hart
    · exact (k.upd k.hart).postHart _ _ _

theorem writeFrame (k : s.GrantInv) (r : SaveRec) : (s.writeFrame r).GrantInv := by
  unfold State.writeFrame
  dsimp only
  split
  · exact k.upd k.hart
  · split
    · next t e => have kt := k.putWords _ _ t e; exact kt.upd kt.hart
    · exact (k.upd k.hart).postHart _ _ _

end State.GrantInv

@[simp] theorem Hart.setFulls_w (h : Hart) (b : Bool) (rs : List Nat) : (h.setFulls b rs).w = h.w := by
  induction rs generalizing h with
  | nil => rfl
  | cons r rs ih => exact ih (h.setFull b r)

@[simp] theorem Hart.landAll_w (h : Hart) : h.landAll.w = h.w := Hart.setFulls_w h _ _

@[simp] theorem laneFault_w (e : Nat) (t : Trap) (h : Hart) : (laneFault e t h).w = h.w := by
  unfold laneFault; split <;> rfl

namespace State.GrantInv

variable {s : State}

@[simp] theorem landAll (k : s.GrantInv) : (s.upd fun h => h.landAll).GrantInv := k.upd (by rw [Hart.landAll_w]; exact k.hart)

@[simp] theorem wdogRelease (k : s.GrantInv) : s.wdogRelease.GrantInv := by
  unfold State.wdogRelease
  dsimp only
  split
  · exact (k.note _ _ _ _ _).drainAll.endTx
  · exact (k.note _ _ _ _ _).drainAll

theorem saved (k : s.GrantInv) (t : Trap) : (s.saved t).GrantInv := by
  have performed : (State.drainAll (s.settleLoads.upd fun h => h.landAll)).GrantInv := k.settleLoads.landAll.drainAll
  unfold State.saved
  dsimp only
  generalize State.drainAll (s.settleLoads.upd fun h => h.landAll) = u at performed
  have written : (if u.hart.handler.isSome = true then u.writeFrame (s.hart.record s.cycle t)
      else u.writeArea (saveKindOf t.cause) (s.hart.record s.cycle t)).GrantInv := by
    split
    · exact performed.writeFrame _
    · exact performed.writeArea _ _
  generalize (if u.hart.handler.isSome = true then u.writeFrame (s.hart.record s.cycle t)
    else u.writeArea (saveKindOf t.cause) (s.hart.record s.cycle t)) = v at written
  have noted := fun f : Hart → Hart => fun w => (written.upd (f := f) w).creditAll (v.upd f).hart fun _ => 0
  split
  · exact (noted _ written.hart).postHart _ _ _
  · exact noted _ written.hart

theorem savedWithWdog (k : s.GrantInv) (t : Trap) : (s.savedWithWdog t).GrantInv := by
  have kt := (k.upd (f := Hart.meeting) k.hart).wdogRelease.saved t
  unfold State.savedWithWdog
  dsimp only
  split
  · exact (kt.upd kt.hart).postHart _ _ _
  · exact kt.postHart _ _ _

@[simp] theorem taken (k : s.GrantInv) (t : Trap) : (s.taken t).GrantInv := by
  unfold State.taken
  split
  · exact k.upd (by rw [laneFault_w]; exact k.hart)
  · dsimp only
    split
    · exact k.savedWithWdog _
    · split
      · have kt := (k.upd (f := Hart.meeting) k.hart).saved (if s.hart.badRegs = true then { t with cause := cMachine, detail := 1 } else t)
        split
        · exact kt.postHart _ _ _
        · exact kt
      · exact k.saved _

/-! ### How an instruction ends -/

@[simp] theorem done (k : s.GrantInv) {h : Hart} (w : grantWidth h.w = true) : KeepsGrant (s.done h) :=
  (keepsGrant_next _).2 (k.setHart w)

@[simp] theorem take (k : s.GrantInv) (t : Trap) : KeepsGrant (s.take t) := (keepsGrant_next _).2 (k.taken t)

@[simp] theorem fault (k : s.GrantInv) (c d : BitVec 8) : KeepsGrant (s.fault c d) := k.take _

@[simp] theorem illegal (k : s.GrantInv) : KeepsGrant s.illegal := k.take _

@[simp] theorem faultAt (k : s.GrantInv) (f : Flt) : KeepsGrant (s.faultAt f) := by
  unfold State.faultAt
  split
  · exact k.drainAll.endTx.take _
  · exact k.take _

@[simp] theorem fetchFault (k : s.GrantInv) (f : Flt) : KeepsGrant (s.fetchFault f) := k.take _

@[simp] theorem faultPlain (k : s.GrantInv) (f : Flt) : KeepsGrant (s.faultPlain f) := k.take _

@[simp] theorem wait (k : s.GrantInv) (c : WaitCause) (w : Watch) : KeepsGrant (s.wait c w) := by
  unfold State.wait
  split <;> exact (keepsGrant_next _).2 (k.upd k.hart)

@[simp] theorem held (k : s.GrantInv) : KeepsGrant s.held := (keepsGrant_next _).2 (k.upd k.hart)

theorem writeVa (k : s.GrantInv) {i n : Nat} {va : BitVec 64} {v : Nat} {t : State} (e : s.writeVa i n va v = .ok t) :
    t.GrantInv := by
  unfold State.writeVa at e
  cases h : s.access s.hart .write n va with
  | error f => rw [h] at e; cases e
  | ok p => rw [h] at e; cases e; exact k.store _ _ _ _ _

@[simp] theorem notePcWord (k : s.GrantInv) : s.notePcWord.GrantInv := by
  unfold State.notePcWord
  split <;> exact k.upd k.hart

end State.GrantInv

end Sys2Proof.Machine
end

section
/-! The grants of R15 through scalar instructions, operands and streams. -/

namespace Sys2Proof.Machine

/-! ### Scalar instructions -/

namespace State.GrantInv

variable {s : State}

@[simp] theorem writeScalar (k : s.GrantInv) (d : Reg) (v : Word) : KeepsGrant (s.writeScalar d v) := k.done (by simp [k.hart])

@[simp] theorem scalarLoad (k : s.GrantInv) (signed : Bool) (n : Nat) (d a : Reg) (o : BitVec 13) :
    KeepsGrant (s.scalarLoad signed n d a o) := by
  unfold State.scalarLoad
  split
  · exact k.faultAt _
  · split
    · exact k.done k.hart
    · exact k.done (by simp [k.hart])

@[simp] theorem scalarStore (k : s.GrantInv) (n : Nat) (d a : Reg) (o : BitVec 13) : KeepsGrant (s.scalarStore n d a o) := by
  unfold State.scalarStore
  split
  · exact k.faultAt _
  · next t e => exact (k.writeVa e).done (k.writeVa e).hart

@[simp] theorem amo (k : s.GrantInv) (pcie : Bool) (op : AmoOp) (d a b : Reg) (z : BitVec 2) :
    KeepsGrant (s.amo pcie op d a b z) := by
  unfold State.amo
  dsimp only
  split
  · exact k.faultAt _
  · split
    · exact k.faultAt _
    · have kt := fun p : Phys => (k.drain fun i => i == 0).store 0 true false p.pa
      exact (kt _ _).done (by simp [(kt _ _).hart])

@[simp] theorem branch (k : s.GrantInv) (taken : Bool) (o : BitVec 13) : KeepsGrant (s.branch taken o) := by
  unfold State.branch
  split
  · exact (keepsGrant_next _).2 (k.upd k.hart)
  · exact k.done k.hart

/-- A scalar instruction of one word or two, or a jump, keeps the grants. -/
theorem execLdAcq (k : s.GrantInv) (d a : Reg) (sc : BitVec 3) (z : BitVec 2) : KeepsGrant (execLdAcq d a sc z s) := by
  unfold Machine.execLdAcq
  split
  · exact k.faultAt _
  · exact k.done (by simp [k.hart])

theorem execStRel (k : s.GrantInv) (a b : Reg) (sc : BitVec 3) (z : BitVec 2) : KeepsGrant (execStRel a b sc z s) := by
  unfold Machine.execStRel
  dsimp only
  split
  · exact k.faultAt _
  · have kt := fun p : Phys => k.drainAll.store 0 (s.performsNow p) false p.pa
    exact (kt _ _).done (kt _ _).hart

theorem execJalr (k : s.GrantInv) (d a : Reg) (i : BitVec 16) : KeepsGrant (execJalr d a i s) := by
  unfold Machine.execJalr
  dsimp only
  split
  · exact k.faultAt _
  · exact (keepsGrant_next _).2 (k.upd (by simp [k.hart]))

end State.GrantInv

/-! ### Operands and streams -/

@[simp] theorem Hart.keepBound_w (h t : Hart) (rs : List Nat) : (h.keepBound rs t).w = t.w := by rw [Hart.keepBound_eq]

@[simp] theorem Hart.putBits_w (h : Hart) (r g raw : Nat) : (h.putBits r g raw).w = h.w := Machine.putBits_w h r g raw

@[simp] theorem Hart.writeGroup_w (h : Hart) (r g w : Nat) (l : List (Nat × Nat)) : (h.writeGroup r g w l).w = h.w := by
  unfold Hart.writeGroup
  split
  · rfl
  · simp

theorem foldl_keeps_w {α : Type} (l : List α) (f : Hart → α → Hart) (step : ∀ h a, (f h a).w = h.w) (h : Hart) :
    (l.foldl f h).w = h.w := by
  induction l generalizing h with
  | nil => rfl
  | cons a l ih => rw [List.foldl_cons, ih, step]

@[simp] theorem Hart.setCfg_w (h : Hart) (r g : Nat) (c : BitVec 32) : (h.setCfg r g c).w = h.w := by
  unfold Hart.setCfg
  split
  · rfl
  · rw [Hart.keepBound_w]
    refine foldl_keeps_w _ _ (fun _ _ => ?_) h
    rfl

@[simp] theorem Hart.spendDraws_w (h : Hart) : h.spendDraws.w = h.w := by
  unfold Hart.spendDraws
  split
  · split <;> rfl
  · rfl

@[simp] theorem advanceStreams_w (reads writes : List (Nat × Nat)) (h : Hart) : (advanceStreams reads writes h).w = h.w := by
  unfold advanceStreams
  refine (foldl_keeps_w writes _ (fun _ _ => ?_) _).trans (foldl_keeps_w reads _ (fun _ _ => ?_) h)
  · rfl
  · rfl

namespace State.GrantInv

variable {s : State}

theorem foldl {α : Type} (k : s.GrantInv) (l : List α) (f : State → α → State)
    (step : ∀ t a, t.GrantInv → (f t a).GrantInv) : (l.foldl f s).GrantInv := by
  induction l generalizing s with
  | nil => exact k
  | cons a l ih => exact ih (step s a k)

@[simp] theorem sendAll (k : s.GrantInv) (i n : Nat) (p : StreamRec) (pos : Nat) (l : List (Nat × Nat)) :
    (s.sendAll i n p pos l).GrantInv := by
  induction l generalizing s with
  | nil => exact k
  | cons x l ih =>
    obtain ⟨e, v⟩ := x
    unfold State.sendAll
    split
    · exact ih (k.store _ _ _ _ _)
    · exact ih k

@[simp] theorem putRaw (k : s.GrantInv) (r g : Nat) (t : Ty) (l : List (Nat × Nat)) : (s.putRaw r g t l).GrantInv := by
  unfold State.putRaw
  split
  · exact k.sendAll _ _ _ _ _
  · exact k.upd (by simp [k.hart])

@[simp] theorem putElems (k : s.GrantInv) (r g : Nat) (t : Ty) (l : List (Nat × Nat)) : (s.putElems r g t l).GrantInv :=
  k.putRaw _ _ _ _

@[simp] theorem bumpAcnt (k : s.GrantInv) (base n : Nat) : (s.bumpAcnt base n).GrantInv := by
  unfold State.bumpAcnt
  split
  · exact k
  · split
    · exact k
    · exact k.commitMem _ _

@[simp] theorem settleWalk (k : s.GrantInv) (i : Nat) (w : Walked) : (s.settleWalk i w).GrantInv :=
  (k.setHart (by simpa using k.hart)).bumpAcnt _ _

@[simp] theorem settle (k : s.GrantInv) (i : Nat) : (s.settle i).GrantInv := by
  have walked := k.foldl s.hart.walked (State.settleWalk i) fun t w kt => kt.settleWalk i w
  unfold State.settle
  dsimp only
  refine walked.upd ?_
  split
  · exact walked.hart
  · exact walked.hart

@[simp] theorem raiseElem (k : s.GrantInv) (ctr : List (BitVec 16)) (done i : Nat) (f : Flt) :
    KeepsGrant (s.raiseElem ctr done i f) := by
  unfold State.raiseElem
  dsimp only
  split
  · exact (k.settle _).drainAll.endTx.take _
  · exact (k.settle _).take _

@[simp] theorem elemFault (k : s.GrantInv) (w : Nat) (act : List Nat) (i : Nat) (f : Flt) :
    KeepsGrant (s.elemFault w act i f) := k.raiseElem _ _ _ _

@[simp] theorem wholeFault (k : s.GrantInv) (i : Nat) (f : Flt) : KeepsGrant (s.wholeFault i f) := k.raiseElem _ _ _ _

@[simp] theorem noteRun (k : s.GrantInv) (r : Nat) (run : Run) : (s.noteRun r run).GrantInv := k.upd k.hart

theorem takeSources_ok (k : s.GrantInv) {runs : List Taking} {x : State × Option (Nat × Flt)}
    (e : s.takeSources runs = .ok x) : x.1.GrantInv := by
  unfold State.takeSources at e
  split at e
  · split at e <;> cases e
  · cases e; exact k.foldl _ _ fun t y kt => kt.noteRun _ _

theorem takeSources_error (k : s.GrantInv) {runs : List Taking} {r : Res} (e : s.takeSources runs = .error r) :
    KeepsGrant r := by
  unfold State.takeSources at e
  split at e
  · split at e <;> (cases e; exact k.wait _ _)
  · cases e

@[simp] theorem produce (k : s.GrantInv) (regs : List Nat) (due : Nat) : (s.produce regs due).GrantInv := by
  unfold State.produce
  split
  · exact k
  · exact k.upd (by simp [k.hart])

/-- The frame of a vector instruction keeps the grants where its body does. -/
theorem vector (k : s.GrantInv) (v : VSpec) (body : State → Res)
    (keeps : ∀ t : State, t.GrantInv → KeepsGrant (body t)) : KeepsGrant (s.vector v body) := by
  unfold State.vector
  dsimp only
  split
  · exact k.illegal
  · split
    · exact k.fault _ _
    · split
      · exact k.fault _ _
      · split
        · exact k.fault _ _
        · split
          · exact k.wait _ _
          · split
            · next r e => exact k.takeSources_error e
            · next t lim e =>
              have kt : t.GrantInv := k.takeSources_ok e
              generalize (!(boundNeeds s.hart v.srcs).isEmpty && s.hart.vl == 0 && s.hart.lane.isNone) = idle
              have ku : (if idle = true then t.upd fun h => { h with taken := [], walked := [] } else t).GrantInv := by
                split
                · exact kt.upd kt.hart
                · exact kt
              generalize (if idle = true then t.upd fun h => { h with taken := [], walked := [] } else t) = u at ku ⊢
              generalize (if idle = true then none else lim) = limS
              split
              · split
                · next x ex =>
                  have kx : x.GrantInv := keeps u ku x ex
                  split
                  · exact (keepsGrant_next _).2 kx
                  · exact (keepsGrant_next _).2 ((kx.settle _).upd (by simpa using (kx.settle _).hart))
                · exact keepsGrant_fault _
                · exact keepsGrant_refused _
              · split
                · exact (ku.upd ku.hart).wholeFault _ _
                · split
                  · next x ex =>
                    have kx : x.GrantInv := keeps _ (ku.upd ku.hart) x ex
                    split
                    · exact (keepsGrant_next _).2 kx
                    · exact (kx.upd kx.hart).elemFault _ _ _ _
                  · exact keepsGrant_fault _
                  · exact keepsGrant_refused _

end State.GrantInv

end Sys2Proof.Machine
end

section
/-! The grants of R15 where they are given: regrants and exchanges, the end of a launch, retirement, arbiters. -/

namespace Sys2Proof.Machine

/-! ### Grants, completion, retirement, arbiters -/

@[simp] theorem Hart.deadVectors_w (h : Hart) : h.deadVectors.w = h.w := by
  unfold Hart.deadVectors
  refine foldl_keeps_w _ _ (fun h r => ?_) h
  split <;> rfl

/-- A grant that a hart gets in exchange at a head has one of the widths of R15. -/
theorem State.newGrant_width (s : State) (h : Hart) {g w : Nat} (e : s.newGrant h = some (g, w)) : grantWidth w = true := by
  unfold State.newGrant at e
  dsimp only at e
  split at e
  · next r found =>
    cases e
    obtain ⟨x, hx, ex⟩ := List.exists_of_findSome?_eq_some found
    obtain ⟨y, -, ey⟩ := Option.map_eq_some_iff.1 ex
    have : x = w := by injection ey
    have m := (List.mem_filter.1 hx).1
    subst this
    simp only [List.mem_cons, List.not_mem_nil, or_false] at m
    obtain rfl | rfl | rfl | rfl := m <;> rfl
  · split at e
    · obtain ⟨y, -, ey⟩ := Option.map_eq_some_iff.1 e
      cases ey
      rfl
    · cases e

/-- Every hart but those of a name has a grant that R15 allows. -/
def State.GrantInvBut (s : State) (id : HartId) : Prop := ∀ h ∈ s.harts, h.id ≠ id → grantWidth h.w = true

theorem State.mem_modHart_harts {s : State} {id : HartId} {f : Hart → Hart} {x : Hart} (m : x ∈ (s.modHart id f).harts) :
    ∃ y ∈ s.harts, x = if y.id = id then f y else y := by
  have m' : x ∈ s.harts.map fun h => if h.id = id then f h else h := m
  obtain ⟨y, hy, e⟩ := List.mem_map.1 m'
  exact ⟨y, hy, e.symm⟩

theorem State.creditAll_harts (s : State) (h : Hart) (f : Int → Int) : (s.creditAll h f).harts = s.harts := by
  rw [State.creditAll_eq]; rfl

/-- What taking a grant makes of every hart: one of the name has the new width, any other is as it was. -/
theorem State.mem_takeGrant_harts {s : State} {h : Hart} {g w : Nat} {x : Hart} (m : x ∈ (s.takeGrant h g w).harts) :
    x.w = w ∨ (x ∈ s.harts ∧ x.id ≠ h.id) := by
  unfold State.takeGrant at m
  split at m
  · obtain ⟨y, hy, rfl⟩ := State.mem_modHart_harts m
    split
    · exact .inl rfl
    · next ne => exact .inr ⟨hy, ne⟩
  · dsimp only at m
    rw [State.creditAll_harts] at m
    obtain ⟨y, hy, rfl⟩ := State.mem_modHart_harts m
    rw [State.creditAll_harts] at hy
    split
    · exact .inl rfl
    · next ne => exact .inr ⟨hy, ne⟩

namespace State.GrantInv

variable {s : State}

theorem modHart (k : s.GrantInv) (id : HartId) (f : Hart → Hart)
    (w : ∀ h : Hart, grantWidth h.w = true → grantWidth (f h).w = true) : (s.modHart id f).GrantInv :=
  k.mapHarts fun h wh => by
    split
    · exact w h wh
    · exact wh

theorem takeGrant (k : s.GrantInv) (h : Hart) (g : Nat) {w : Nat} (width : grantWidth w = true) :
    (s.takeGrant h g w).GrantInv := fun _ m => by
  rcases State.mem_takeGrant_harts m with rfl | ⟨m, -⟩
  · exact width
  · exact k _ m

theorem regrant (k : s.GrantInv) {t : State} (e : s.regrant = some t) : t.GrantInv := by
  unfold State.regrant at e
  dsimp only at e
  split at e
  · cases e; exact k
  · split at e
    · next g w found => cases e; exact k.takeGrant _ _ (State.newGrant_width _ _ found)
    · split at e
      · cases e
      · next o _ =>
        have but : (s.modHart o.id fun x => { x with w := 0 }).GrantInvBut o.id := fun x m ne => by
          obtain ⟨y, hy, rfl⟩ := State.mem_modHart_harts m
          split at ne
          · next same => exact absurd same ne
          · next ne' => rw [if_neg ne']; exact k y hy
        generalize (s.modHart o.id fun x => { x with w := 0 }) = out at e but
        split at e
        · cases e
        · next g w found =>
          split at e
          · cases e
          · next g' w' found' =>
            cases e
            intro x m
            rcases State.mem_takeGrant_harts m with rfl | ⟨m, other⟩
            · exact State.newGrant_width _ _ found'
            · rcases State.mem_takeGrant_harts m with rfl | ⟨m, -⟩
              · exact State.newGrant_width _ _ found
              · exact but x m other

@[simp] theorem writeDevice (k : s.GrantInv) (a v : Nat) : (s.writeDevice a v).GrantInv := k.putDevice _ _

@[simp] theorem writeLevels (k : s.GrantInv) (rcb : Nat) : (s.writeLevels rcb).GrantInv :=
  k.foldl _ _ fun _ _ kt => kt.putDevice _ _

@[simp] theorem complete (k : s.GrantInv) (c : Cmd) (outcome : Nat) : (s.complete c outcome).GrantInv := by
  have noted := k.note c.queue (bits (c.pkt[0]).toNat 0 8) 1 outcome c.seq
  unfold State.complete
  dsimp only
  generalize s.note c.queue (bits (c.pkt[0]).toNat 0 8) 1 outcome c.seq = t at noted ⊢
  split
  · exact noted.of_same rfl rfl
  · exact (noted.writeDevice _ _).of_same rfl rfl

@[simp] theorem finishLaunch (k : s.GrantInv) (l : Launch) : (s.finishLaunch l).GrantInv := by
  have dropped : ({ s with replicas := s.replicas.filter fun r => !decide (r.seq = l.seq) } : State).GrantInv :=
    k.of_same rfl rfl
  unfold State.finishLaunch
  dsimp only
  generalize ({ s with replicas := s.replicas.filter fun r => !decide (r.seq = l.seq) } : State) = t at dropped ⊢
  generalize (if l.cancelled = true then 2 ^ 64 - 1 else l.donev.toNat) = v
  have told : (if l.donea = 0 then t
      else match t.translate l.info.asid .write (l.donea.setWidth 64) with
        | .ok p => t.commitMem p.pa (natLe 8 v)
        | .error _ => t).GrantInv := by
    split
    · exact dropped
    · split
      · exact dropped.commitMem _ _
      · exact dropped
  generalize (if l.donea = 0 then t
      else match t.translate l.info.asid .write (l.donea.setWidth 64) with
        | .ok p => t.commitMem p.pa (natLe 8 v)
        | .error _ => t) = u at told ⊢
  have gone : ({ u with launches := u.launches.filter fun x => !decide (x.seq = l.seq) } : State).GrantInv :=
    told.of_same rfl rfl
  split
  · exact gone.complete _ _
  · exact gone

@[simp] theorem launchLess (k : s.GrantInv) (seq : BitVec 64) (cancelled : Bool) : (s.launchLess seq cancelled).GrantInv := by
  unfold State.launchLess
  split
  · exact k
  · dsimp only
    split
    · refine State.GrantInv.finishLaunch ?_ _
      exact k.of_same rfl rfl
    · exact k.of_same rfl rfl

theorem mapHarts_lparts (k : s.GrantInv) {f : Hart → Hart} (l : List (Nat × BitVec 64))
    (w : ∀ h : Hart, (f h).w = h.w) : ({ s.mapHarts f with lparts := l } : State).GrantInv :=
  (k.mapHarts fun h wh => by rw [w h]; exact wh).of_same rfl rfl

@[simp] theorem endPartition (k : s.GrantInv) : s.endPartition.GrantInv := by
  unfold State.endPartition
  dsimp only
  split
  · refine k.mapHarts_lparts _ fun h => ?_
    split <;> rfl
  · exact k

@[simp] theorem retire (k : s.GrantInv) (cancelled : Bool) : (s.retire cancelled).GrantInv := by
  have ended := k.endTx.endPartition
  unfold State.retire
  dsimp only
  refine State.GrantInv.launchLess (State.GrantInv.upd ?_ ?_) _ _
  · split
    · exact ended.creditAll _ _
    · exact ended
  · split
    · exact (ended.creditAll _ _).hart
    · exact ended.hart

@[simp] theorem passTurn (k : s.GrantInv) (core lg : Nat) : (s.passTurn core lg).GrantInv := by
  unfold State.passTurn
  dsimp only
  split
  · exact k
  · split
    · exact k
    · exact k.setArb _ _ _

end State.GrantInv

end Sys2Proof.Machine
end

section
/-! The grants of R15 through the system major, elementwise, permuting and reducing instructions. -/

namespace Sys2Proof.Machine

/-! ### The system major, elementwise, permuting and reducing instructions -/

@[simp] theorem Hart.grantLength_w (h : Hart) (ew : BitVec 3) (grp : BitVec 2) (n : Nat) : (h.grantLength ew grp n).w = h.w := rfl

theorem Hart.ite_w {c : Prop} [Decidable c] {a b : Hart} {w : Nat} (ha : a.w = w) (hb : b.w = w) : (if c then a else b).w = w := by
  split
  · exact ha
  · exact hb

theorem Hart.putNamed_w {h t : Hart} {n : Nat} {v : Word} (e : h.putNamed n v = some t) : t.w = h.w := by
  unfold Hart.putNamed at e
  split at e
  all_goals (try split at e)
  all_goals cases e
  all_goals simp

namespace State.GrantInv

variable {s : State}

/-- A body that ends an instruction with results in a context of the same grant. -/
theorem done_of_w (k : s.GrantInv) {h : Hart} (w : h.w = s.hart.w) : KeepsGrant (s.done h) := k.done (w ▸ k.hart)

theorem trapAfter (k : s.GrantInv) (c d : BitVec 8) : KeepsGrant (s.trapAfter c d) := k.take _

theorem execEret (k : s.GrantInv) : KeepsGrant (execEret s) := by
  unfold Machine.execEret
  split
  · exact k.illegal
  · exact (keepsGrant_next _).2 (k.landAll.drainAll.upd k.landAll.drainAll.hart)

theorem enterHandler (k : s.GrantInv) (w : BitVec 32) : KeepsGrant (s.enterHandler w) :=
  (keepsGrant_next _).2 ((k.writeArea _ _).upd (k.writeArea _ _).hart)

theorem execUndefinedOpcode (k : s.GrantInv) (w : BitVec 32) : KeepsGrant (execUndefinedOpcode w s) := by
  unfold Machine.execUndefinedOpcode
  split
  · exact k.illegal
  · exact k.enterHandler w

theorem orderStreams_done (k : s.GrantInv) (m : BitVec 10) :
    KeepsGrant ((s.orderStreams m).done (s.orderStreams m).hart) := (k.drain _).done_of_w rfl

theorem execCvy (k : s.GrantInv) : KeepsGrant (execCvy s) := by
  unfold Machine.execCvy
  split
  · exact k.landAll.drainAll.done_of_w rfl
  · exact k.done_of_w rfl

theorem execGets (k : s.GrantInv) (d n : Reg) : KeepsGrant (execGets d n s) := by
  unfold Machine.execGets
  dsimp only
  split
  · split
    · exact k.illegal
    · exact k.done_of_w (by simp)
  · split
    · exact k.done_of_w (by split <;> simp)
    · exact k.illegal

theorem execPuts (k : s.GrantInv) (a n : Reg) : KeepsGrant (execPuts a n s) := by
  unfold Machine.execPuts
  dsimp only
  split
  · split
    · exact k.illegal
    · exact k.done_of_w (by simp)
  · split
    · next h e => exact k.done_of_w (Hart.putNamed_w e)
    · exact k.illegal

theorem execProg (k : s.GrantInv) : KeepsGrant (execProg s) := k.done_of_w (Hart.ite_w rfl rfl)

theorem yieldOn (k : s.GrantInv) (lg : Nat) : (s.yieldOn lg).GrantInv := by
  unfold State.yieldOn
  dsimp only
  split
  · exact (k.setArb _ _ _).passTurn _ _
  · exact k.setArb _ _ _

theorem execYield (k : s.GrantInv) : KeepsGrant (execYield s) :=
  (k.foldl _ _ fun _ _ kt => kt.yieldOn _).done_of_w rfl

theorem execHalt (k : s.GrantInv) : KeepsGrant (execHalt s) := by
  unfold Machine.execHalt
  split
  · exact k.illegal
  · exact (keepsGrant_next _).2 (k.landAll.drainAll.retire _)

theorem execSeed (k : s.GrantInv) (d : Reg) : KeepsGrant (execSeed d s) := by
  unfold Machine.execSeed
  split
  · exact k.illegal
  · refine done_of_w (k.of_same ?_ ?_) (by simp) <;> rfl

theorem takeSoft (k : s.GrantInv) : KeepsGrant s.takeSoft := by
  refine State.GrantInv.take (k.setHart ?_) _
  exact k.hart

theorem execVsetl (k : s.GrantInv) (d a : Reg) (ew : BitVec 3) (g : BitVec 2) : KeepsGrant (execVsetl d a ew g s) := by
  unfold Machine.execVsetl
  split
  · exact k.takeSoft
  · split
    · exact (keepsGrant_next _).2 k
    · next t e => exact (k.regrant e).done_of_w (by simp)

theorem execVsetlb (k : s.GrantInv) (a b : Reg) (ew : BitVec 3) (o : BitVec 13) : KeepsGrant (execVsetlb a b ew o s) := by
  unfold Machine.execVsetlb
  dsimp only
  split
  · exact k.takeSoft
  · split
    · exact (keepsGrant_next _).2 k
    · next t e =>
      split
      · exact (keepsGrant_next _).2 ((k.regrant e).setHart (by simpa using (k.regrant e).hart))
      · exact (k.regrant e).done_of_w (by simp)

@[simp] theorem configure (k : s.GrantInv) (ill : Bool) (d g : Nat) (c : BitVec 32) : KeepsGrant (s.configure ill d g c) := by
  unfold State.configure
  dsimp only
  split
  · exact k.illegal
  · split
    · exact k.wait _ _
    · refine k.done_of_w (foldl_keeps_w _ _ (fun _ _ => ?_) _)
      rfl

@[simp] theorem putResults (k : s.GrantInv) (d : Reg) (g : Nat) (t : Ty) (c : Option (BitVec 32)) (l : List (Nat × Nat × Nat)) :
    (s.putResults d g t c l).GrantInv := by
  unfold State.putResults
  split
  · exact k
  · refine State.GrantInv.putElems (k.upd ?_) _ _ _ _
    split
    · simpa using k.hart
    · exact k.hart

theorem elementwise (k : s.GrantInv) (op : EOp) (d a : Reg) (b : Second) (m : BitVec 3) (w : Bool) :
    KeepsGrant (s.elementwise op d a b m w) := by
  unfold State.elementwise
  exact k.vector _ _ fun _ kt => (kt.putResults _ _ _ _ _).done_of_w (Hart.ite_w (by simp) (by simp))

theorem carry (k : s.GrantInv) (sub : Bool) (d a b : Reg) (m : BitVec 3) (w x : Bool) : KeepsGrant (s.carry sub d a b m w x) := by
  unfold State.carry
  exact k.vector _ _ fun _ kt => (kt.putResults _ _ _ _ _).done_of_w (by simp)

theorem compares (k : s.GrantInv) (r : Rel) (d : BitVec 3) (a : Reg) (b : Second) (m : BitVec 3) (w : Bool) :
    KeepsGrant (s.compares r d a b m w) := by
  unfold State.compares
  exact k.vector _ _ fun _ kt => kt.done_of_w (by simp)

theorem maskOp (k : s.GrantInv) (d : BitVec 3) (f : Nat → Bool) : KeepsGrant (s.maskOp d f) := k.done_of_w (by simp)

theorem execMpop (k : s.GrantInv) (d : Reg) (a : BitVec 3) : KeepsGrant (execMpop d a s) := k.done_of_w (by simp)

theorem execMfirst (k : s.GrantInv) (d : Reg) (a : BitVec 3) : KeepsGrant (execMfirst d a s) := k.done_of_w (by simp)

theorem permute (k : s.GrantInv) (d a : Reg) (idx : Option (Reg × Bool)) (w : Bool)
    (place : Hart → (Nat → Nat) → List (Nat × Nat)) (after : Hart → Hart → Hart) (keeps : ∀ g h, (after g h).w = h.w) :
    KeepsGrant (s.permute d a idx w place after) := by
  unfold State.permute
  exact k.vector _ _ fun _ kt => (kt.putResults _ _ _ _ _).done_of_w (keeps _ _)

theorem execVcomp (k : s.GrantInv) (d a b : Reg) (m : BitVec 3) (w : BitVec 1) : KeepsGrant (execVcomp d a b m w s) := by
  unfold Machine.execVcomp
  exact k.permute _ _ _ _ _ _ fun _ _ => Hart.ite_w rfl (by simp)

theorem fill (k : s.GrantInv) (d : Reg) (m : BitVec 3) (intOnly : Bool) (f : Nat → Nat) : KeepsGrant (s.fill d m intOnly f) := by
  unfold State.fill
  exact k.vector _ _ fun _ kt => (kt.putResults _ _ _ _ _).done_of_w rfl

theorem reduction (k : s.GrantInv) (op : ROp) (d a : Reg) (m : BitVec 3) (w : Bool) : KeepsGrant (s.reduction op d a m w) := by
  unfold State.reduction
  refine k.vector _ _ fun _ kt => ?_
  dsimp only
  split
  · exact kt.done_of_w rfl
  · exact (kt.putResults _ _ _ _ _).done_of_w rfl

theorem execVsmaxe (k : s.GrantInv) (d a : Reg) (m : BitVec 3) (w : BitVec 1) : KeepsGrant (execVsmaxe d a m w s) := by
  unfold Machine.execVsmaxe
  exact k.vector _ _ fun _ kt => kt.done_of_w rfl

theorem execVcvt (k : s.GrantInv) (d a : Reg) (m : BitVec 3) (w : BitVec 1) : KeepsGrant (execVcvt d a m w s) := by
  unfold Machine.execVcvt
  exact k.vector _ _ fun _ kt => (kt.putResults _ _ _ _ _).done_of_w (Hart.ite_w (by simp) (by simp))

theorem execVquant (k : s.GrantInv) (d a b : Reg) (m : BitVec 3) (w : BitVec 1) : KeepsGrant (execVquant d a b m w s) := by
  unfold Machine.execVquant
  refine k.vector _ _ fun _ kt => ?_
  dsimp only
  split
  · exact kt.held
  · exact (kt.putResults _ _ _ _ _).done_of_w rfl

theorem execVdeq (k : s.GrantInv) (d a b : Reg) (m : BitVec 3) (w : BitVec 1) : KeepsGrant (execVdeq d a b m w s) := by
  unfold Machine.execVdeq
  refine k.vector _ _ fun _ kt => ?_
  dsimp only
  split
  · exact kt.held
  · exact (kt.putResults _ _ _ _ _).done_of_w (by simp)

theorem execVunpk (k : s.GrantInv) (d a : Reg) (m : BitVec 3) (w : BitVec 1) : KeepsGrant (execVunpk d a m w s) := by
  unfold Machine.execVunpk
  exact k.vector _ _ fun _ kt => ((kt.putResults _ _ _ _ _).putResults _ _ _ _ _).done_of_w rfl

theorem execVpack (k : s.GrantInv) (d a : Reg) (m : BitVec 3) (w : BitVec 1) : KeepsGrant (execVpack d a m w s) := by
  unfold Machine.execVpack
  exact k.vector _ _ fun _ kt => (kt.putResults _ _ _ _ _).done_of_w rfl

end State.GrantInv

end Sys2Proof.Machine
end

section
/-! The grants of R15 through vector memory, windows, lanes and the engine's jobs. -/

namespace Sys2Proof.Machine

/-! ### Vector memory, lanes, engine jobs -/

@[simp] theorem Hart.setFull_w (h : Hart) (b : Bool) (r : Nat) : (h.setFull b r).w = h.w := rfl

@[simp] theorem Hart.putSegs_w (h : Hart) (d : Reg) (g n : Nat) (t : Ty) (c : BitVec 32) (l : List (Nat × List Nat)) :
    (h.putSegs d g n t c l).w = h.w := foldl_keeps_w _ _ (fun _ _ => by simp) h

@[simp] theorem Hart.modLane_w (h : Hart) (e : Nat) (f : Lane → Lane) : (h.modLane e f).w = h.w := rfl

@[simp] theorem Hart.spend_w (h : Hart) (n : Nat) : (h.spend n).w = h.w := by
  unfold Hart.spend; split <;> rfl

namespace State.GrantInv

variable {s : State}

/-- The exception of an element's fault, after which an undeclared access has ended the transaction (R322). -/
theorem releasingTake (k : s.GrantInv) (c : Prop) [Decidable c] (t : Trap) :
    KeepsGrant ((if c then s.drainAll.endTx else s).take t) := by
  split
  · exact k.drainAll.endTx.take t
  · exact k.take t

@[simp] theorem keepReplica (k : s.GrantInv) (q : Phys) (n v : Nat) : (s.keepReplica q n v).GrantInv := by
  unfold State.keepReplica
  split
  · exact k
  · exact k.of_same rfl rfl

theorem keepReplicas (k : s.GrantInv) (w : Nat) (place : Nat → Place) (l : List (Nat × Nat)) :
    (s.keepReplicas w place l).GrantInv := by
  induction l generalizing s with
  | nil => exact k
  | cons x l ih =>
    obtain ⟨e, v⟩ := x
    unfold State.keepReplicas
    split
    · refine ih ?_
      split
      · exact k.keepReplica _ _ _
      · exact k
    · exact ih k

@[simp] theorem writeBits (k : s.GrantInv) (q : Phys) (b : Nat) : (s.writeBits q b).GrantInv :=
  (k.store 1 true false q.pa [BitVec.ofNat 8 b]).of_same rfl rfl

theorem writePlace (k : s.GrantInv) {w : Nat} {p : Place} {v : Nat} {t : State} (e : s.writePlace w p v = .ok t) :
    t.GrantInv := by
  unfold State.writePlace at e
  split at e
  · cases e
  · split at e
    · cases e; exact k.store _ _ _ _ _
    · cases e; exact (k.drain _).writeBits _ _
  · cases e; exact ((k.drain _).writeBits _ _).writeBits _ _
  · cases e; exact k

theorem landLoad (k : s.GrantInv) (d : Reg) (g : Nat) (t : Ty) (l : List (Nat × Nat)) : (s.landLoad d g t l).GrantInv := by
  unfold State.landLoad
  dsimp only
  split
  · exact k.putRaw _ _ _ _
  · exact (k.putRaw _ _ _ _).produce _ _

theorem issueLoad (k : s.GrantInv) {d : Reg} {g : Nat} {t : Ty} {place : Nat → Place} {es : List Nat} {u : State}
    (e : s.issueLoad d g t place es = some u) : u.GrantInv := by
  unfold State.issueLoad at e
  split at e
  · cases e
  · obtain ⟨l, -, rfl⟩ := Option.map_eq_some_iff.1 e
    exact (k.upd k.hart).produce _ _

theorem getD (k : s.GrantInv) {o : Option State} (some : ∀ u, o = some u → u.GrantInv) : (o.getD s).GrantInv := by
  cases o with
  | none => exact k
  | some u => exact some u rfl

theorem vload (k : s.GrantInv) (rep : Bool) (f : Form) (d a : Reg) (m : BitVec 3) : KeepsGrant (s.vload rep f d a m) := by
  unfold State.vload
  refine k.vector _ _ fun u ku => ?_
  dsimp only
  split
  · exact ku.done_of_w rfl
  · have kept : (if rep = true then u.keepReplicas (s.hart.ty d).w (u.hart.formPlace f a (s.hart.ty d).w)
        (u.gather rep (s.hart.ty d).w (u.hart.formPlace f a (s.hart.ty d).w) (u.hart.active m (s.hart.ty d).w)).1 else u).GrantInv := by
      split
      · exact ku.keepReplicas _ _ _
      · exact ku
    split
    · exact (kept.putRaw _ _ _ _).elemFault _ _ _ _
    · refine done_of_w ((kept.landLoad _ _ _ _).getD fun t e => ?_) rfl
      split at e
      · cases e
      · exact ku.issueLoad e

theorem execVldff (k : s.GrantInv) (d a b : Reg) (m : BitVec 3) (r : BitVec 1) : KeepsGrant (execVldff d a b m r s) := by
  unfold Machine.execVldff
  refine k.vector _ _ fun u ku => ?_
  dsimp only
  split
  · exact ku.done_of_w (by simp)
  · have kept : (if bit1 r = true then u.keepReplicas (s.hart.ty d).w (u.hart.formPlace .unit a (s.hart.ty d).w)
        (u.gather (bit1 r) (s.hart.ty d).w (u.hart.formPlace .unit a (s.hart.ty d).w) (u.hart.active m (s.hart.ty d).w)).1 else u).GrantInv := by
      split
      · exact ku.keepReplicas _ _ _
      · exact ku
    split
    · exact (kept.landLoad _ _ _ _).done_of_w (Hart.ite_w rfl (by simp))
    · split
      · exact (kept.landLoad _ _ _ _).done_of_w (by simp)
      · exact (kept.putRaw _ _ _ _).elemFault _ _ _ _

theorem execVldseg (k : s.GrantInv) (d a : Reg) (m f : BitVec 3) : KeepsGrant (execVldseg d a m f s) := by
  unfold Machine.execVldseg
  refine k.vector _ _ fun u ku => ?_
  dsimp only
  split
  · exact ku.done_of_w rfl
  · split
    · exact (ku.upd (by simpa using ku.hart)).elemFault _ _ _ _
    · exact ((ku.upd (by simpa using ku.hart)).produce _ _).done_of_w rfl

theorem scatter (k : s.GrantInv) (w : Nat) (place : Nat → Place) (val : Nat → Nat) (es : List Nat) :
    (s.scatter w place val es).1.GrantInv := by
  induction es generalizing s with
  | nil => exact k
  | cons e es ih =>
    unfold State.scatter
    split
    · exact k
    · next t et => exact ih (k.writePlace et)

theorem laneStore (k : s.GrantInv) (w : Nat) (p : Place) (v : Nat) : KeepsGrant (s.laneStore w p v) := by
  unfold State.laneStore
  split
  · exact k.illegal
  · split
    · exact k.illegal
    · split
      · exact k.elemFault _ _ _ _
      · exact k.done_of_w rfl

theorem vstore (k : s.GrantInv) (f : Form) (d a : Reg) (m : BitVec 3) (w : Bool) : KeepsGrant (s.vstore f d a m w) := by
  unfold State.vstore
  refine k.vector _ _ fun u ku => ?_
  dsimp only
  split
  · split
    · exact ku.laneStore _ _ _
    · exact ku.done_of_w rfl
  · split
    · exact (ku.scatter _ _ _ _).elemFault _ _ _ _
    · exact (ku.scatter _ _ _ _).done_of_w rfl

theorem scatterSeg (k : s.GrantInv) (w n : Nat) (a : Reg) (val : Nat → Nat → Nat) (es : List Nat) :
    (s.scatterSeg w n a val es).1.GrantInv := by
  induction es generalizing s with
  | nil => exact k
  | cons e es ih =>
    unfold State.scatterSeg
    split
    · exact k
    · refine ih (k.foldl _ _ fun t f kt => ?_)
      split
      · next u eu => exact kt.writePlace eu
      · exact kt

theorem execVstseg (k : s.GrantInv) (d a : Reg) (m : BitVec 3) (w : BitVec 1) (f : BitVec 3) :
    KeepsGrant (execVstseg d a m w f s) := by
  unfold Machine.execVstseg
  refine k.vector _ _ fun u ku => ?_
  dsimp only
  split
  · exact (ku.scatterSeg _ _ _ _ _).elemFault _ _ _ _
  · exact (ku.scatterSeg _ _ _ _ _).done_of_w rfl

theorem amoEach (k : s.GrantInv) (op : VAmo) (t : Ty) (addr : Nat → BitVec 64) (val : Nat → Nat) (es : List Nat) :
    (s.amoEach op t addr val es).1.GrantInv := by
  induction es generalizing s with
  | nil => exact k
  | cons e es ih =>
    unfold State.amoEach
    split
    · exact k
    · exact ih ((k.drain _).store _ _ _ _ _)

theorem vamo (k : s.GrantInv) (op : VAmo) (d a b : Reg) (m : BitVec 3) (x : Bool) : KeepsGrant (s.vamo op d a b m x) := by
  unfold State.vamo
  refine k.vector _ _ fun u ku => ?_
  dsimp only
  split
  · exact ku.done_of_w rfl
  · have performed := fun es => ku.amoEach op (s.hart.ty d)
      (fun e => u.hart.rd a + BitVec.ofNat 64 (u.hart.elems b e)) (u.hart.elems d) es
    have put := fun es fl l => ((performed es).upd (f := fun h => h.raise fl) (performed es).hart).putRaw d.toNat
      (s.hart.grp d) (s.hart.ty d) l
    split
    · exact ((put _ _ _).settle _).releasingTake _ _
    · exact ((put _ _ _).produce _ _).done_of_w rfl

theorem execAccw (k : s.GrantInv) (d a b : Reg) : KeepsGrant (execAccw d a b s) := by
  unfold Machine.execAccw
  dsimp only
  split
  · exact k.illegal
  · split
    · exact k.faultAt _
    · exact k.done_of_w rfl

theorem execVacc (k : s.GrantInv) (d a b : Reg) (m : BitVec 3) (w x : BitVec 1) : KeepsGrant (execVacc d a b m w x s) := by
  unfold Machine.execVacc
  exact k.vector _ _ fun _ ku => ku.done_of_w rfl

theorem folds (k : s.GrantInv) (w : Nat) (js : List Nat) : (s.folds w js).1.GrantInv := by
  induction js generalizing s with
  | nil => exact k
  | cons j js ih =>
    unfold State.folds
    dsimp only
    split
    · exact k
    · have put := fun q : Phys => (k.drain fun i => i == 1).store 1 true false q.pa
      exact ih ((put _ _).upd (put _ _).hart)

theorem foldWindow (k : s.GrantInv) (d : Reg) (close : Bool) : KeepsGrant (s.foldWindow d close) := by
  unfold State.foldWindow
  dsimp only
  split
  · exact k.illegal
  · split
    · exact (k.folds _ _).releasingTake _ _
    · exact (k.folds _ _).done_of_w (Hart.ite_w rfl rfl)

theorem vxlate (k : s.GrantInv) (ff : Bool) (d a b : Reg) (m : BitVec 3) (w : Bool) : KeepsGrant (s.vxlate ff d a b m w) := by
  unfold State.vxlate
  refine k.vector _ _ fun u ku => ?_
  dsimp only
  split
  · exact ku.done_of_w rfl
  · split
    · exact State.GrantInv.elemFault (State.GrantInv.putElems (ku.upd ku.hart) _ _ _ _) _ _ _ _
    · exact State.GrantInv.done_of_w (State.GrantInv.landLoad (ku.upd ku.hart) _ _ _ _) rfl

theorem execSspec (k : s.GrantInv) (n a : Reg) : KeepsGrant (execSspec n a s) := by
  unfold Machine.execSspec
  dsimp only
  split
  · exact k.illegal
  · split
    · exact k.faultAt _
    · split
      · exact k.illegal
      · exact k.done_of_w rfl

theorem execSdrain (k : s.GrantInv) (n : Reg) : KeepsGrant (execSdrain n s) := by
  unfold Machine.execSdrain
  split
  · exact k.illegal
  · exact (k.drain _).done_of_w rfl

theorem unbindReg (k : s.GrantInv) (r : Nat) : (s.unbindReg r).GrantInv := by
  unfold State.unbindReg
  split
  · exact (k.drain _).upd (k.drain _).hart
  · exact k

theorem execBind (k : s.GrantInv) (d a : Reg) : KeepsGrant (execBind d a s) := by
  unfold Machine.execBind
  dsimp only
  split
  · exact k.illegal
  · split
    · exact k.fault _ _
    · split
      · exact k.wait _ _
      · split
        · exact k.faultAt _
        · split
          · exact k.illegal
          · exact (k.unbindReg _).done_of_w rfl

theorem execUnbind (k : s.GrantInv) (d : Reg) : KeepsGrant (execUnbind d s) := by
  unfold Machine.execUnbind
  split
  · exact k.illegal
  · exact (k.unbindReg _).done_of_w rfl

theorem execWait (k : s.GrantInv) (d a b : Reg) (z : BitVec 2) (sc : BitVec 3) : KeepsGrant (execWait d a b z sc s) := by
  unfold Machine.execWait
  dsimp only
  split
  · exact k.illegal
  · split
    · exact k.faultAt _
    · split
      · exact k.wait _ _
      · exact k.done_of_w (Hart.wr_w _ _ _)

theorem testFull (k : s.GrantInv) (d a : Reg) (wantFull : Bool) : KeepsGrant (s.testFull d a wantFull) := by
  unfold State.testFull
  dsimp only
  split
  · exact k.illegal
  · split
    · exact k.done_of_w (by simp)
    · exact k.done_of_w (by simp)

/-! ### Lanes -/

theorem execVfetch (k : s.GrantInv) (a b : Reg) (m : BitVec 3) : KeepsGrant (execVfetch a b m s) := by
  unfold Machine.execVfetch
  dsimp only
  split
  · exact k.illegal
  · split
    · exact k.faultAt _
    · exact k.done_of_w rfl

theorem execLfetch (k : s.GrantInv) (a : Reg) (m : BitVec 3) (w : BitVec 1) : KeepsGrant (execLfetch a m w s) := by
  unfold Machine.execLfetch
  split
  · exact k.illegal
  · refine k.vector _ _ fun u ku => ?_
    dsimp only
    split
    · split
      · exact ku.faultAt _
      · exact (keepsGrant_next _).2 (ku.setHart ku.hart)
    · exact ku.done_of_w rfl

theorem execLstop (k : s.GrantInv) : KeepsGrant (execLstop s) := by
  unfold Machine.execLstop
  split
  · exact k.illegal
  · exact k.done_of_w rfl

theorem commitStores (k : s.GrantInv) (l : List LaneStore) : (s.commitStores l).1.GrantInv := by
  induction l generalizing s with
  | nil => exact k
  | cons w ws ih =>
    unfold State.commitStores
    split
    · exact k
    · next t et => exact ih (k.writeVa et)

theorem commitLanes (k : s.GrantInv) (l : List Lane) : (s.commitLanes l).1.GrantInv := by
  induction l generalizing s with
  | nil => exact k
  | cons x xs ih =>
    have stored := (k.commitStores x.held).upd (f := fun h => h.modLane x.idx fun y => { y with held := (s.commitStores x.held).2.1 })
      (k.commitStores x.held).hart
    unfold State.commitLanes
    dsimp only
    split
    · exact stored
    · exact ih stored

theorem execVjoin (k : s.GrantInv) (d : Reg) : KeepsGrant (execVjoin d s) := by
  unfold Machine.execVjoin
  split
  · exact k.illegal
  · next q _ =>
    split
    · exact k.illegal
    · split
      · exact (keepsGrant_next _).2 k
      · have committed := k.commitLanes q.lanes
        split
        · next t x f et =>
          rw [et] at committed
          dsimp only
          split
          · exact (State.GrantInv.endTx (s := t.drainAll) (State.GrantInv.drainAll committed)).take _
          · exact State.GrantInv.take (s := t) committed _
        · next t et =>
          rw [et] at committed
          exact State.GrantInv.done_of_w (State.GrantInv.drain (s := t) committed _) (by simp)

/-! ### Engine jobs -/

theorem execLpart (k : s.GrantInv) (a : Reg) : KeepsGrant (execLpart a s) := by
  unfold Machine.execLpart
  dsimp only
  split
  · exact k.illegal
  · split
    · exact k.illegal
    · split
      · exact k.done_of_w rfl
      · split
        · exact k.illegal
        · refine State.GrantInv.done_of_w (k.mapHarts_lparts _ fun h => ?_) rfl
          exact Hart.ite_w rfl rfl

theorem execCmpt (k : s.GrantInv) (d a b : Reg) (m : BitVec 3) : KeepsGrant (execCmpt d a b m s) := by
  unfold Machine.execCmpt
  refine k.vector _ _ fun u ku => ?_
  dsimp only
  refine State.GrantInv.done_of_w ?_ rfl
  split
  · exact ku.putResults _ _ _ _ _
  · exact (ku.putResults _ _ _ _ _).putElems _ _ _ _

theorem execScat (k : s.GrantInv) (d a b : Reg) (m : BitVec 3) : KeepsGrant (execScat d a b m s) := by
  unfold Machine.execScat
  exact k.vector _ _ fun _ ku => (ku.putResults _ _ _ _ _).done_of_w rfl

theorem execEloop (k : s.GrantInv) (a : Reg) : KeepsGrant (execEloop a s) := by
  unfold Machine.execEloop
  dsimp only
  split
  · exact k.illegal
  · split
    · exact k.faultAt _
    · split
      · exact k.illegal
      · split
        · exact k.faultAt _
        · split
          · exact k.illegal
          · exact (keepsGrant_next _).2 (k.upd k.hart)

theorem submitJob (k : s.GrantInv) (kind : Nat) (a : Reg) : KeepsGrant (s.submitJob kind a) := by
  unfold State.submitJob
  dsimp only
  split
  · exact k.illegal
  · split
    · exact (keepsGrant_next _).2 k
    · split
      · exact k.faultAt _
      · split
        · exact k.illegal
        · refine State.GrantInv.done_of_w ?_ rfl
          exact (k.drain fun i => decide (i ≤ 1)).of_same rfl rfl

theorem setJob (k : s.GrantInv) (id : Nat) (f : Job → Job) : (s.setJob id f).GrantInv := k.of_same rfl rfl

theorem postJob (k : s.GrantInv) (j : Job) (f : Flt) : (s.postJob j f).GrantInv := k.of_same rfl rfl

theorem completeJob (k : s.GrantInv) (j : Job) (v : Nat) : (s.completeJob j v).GrantInv := by
  unfold State.completeJob
  dsimp only
  split
  · exact k.setJob _ _
  · split
    · exact (k.setJob _ _).commitMem _ _
    · exact (k.setJob _ _).postJob _ _

theorem failJob (k : s.GrantInv) (j : Job) (f : Flt) : (s.failJob j f).GrantInv := ((k.postJob _ _).setJob _ _).completeJob _ _

theorem jobWrite (k : s.GrantInv) {j : Job} {sp : Nat × Nat} {addr : Int} {bs : List Byte} {t : State}
    (e : s.jobWrite j sp addr bs = .ok t) : t.GrantInv := by
  unfold State.jobWrite at e
  split at e
  · cases e
  · split at e
    · cases e; exact k.commitPad _ _
    · split at e
      · cases e; exact k.of_same rfl rfl
      · next a _ _ _ =>
        cases h : s.engineAccess j.asid .write bs.length (BitVec.ofNat 64 a) with
        | error f => rw [h] at e; cases e
        | ok p => rw [h] at e; cases e; exact k.commitMem _ _

theorem copyFrom (k : s.GrantInv) (j : Job) (n : Nat) (src dst : Nat × Nat) (sb db : Nat) (cnt : List Nat)
    (ss ds : List Int) (m i : Nat) : (s.copyFrom j n src dst sb db cnt ss ds m i).1.GrantInv := by
  induction m generalizing s i with
  | zero => exact k
  | succ m ih =>
    unfold State.copyFrom
    dsimp only
    split
    · exact k
    · split
      · exact k
      · next t et => exact ih (k.jobWrite et) _

theorem runCopy (k : s.GrantInv) (j : Job) : (s.runCopy j).1.GrantInv := k.copyFrom _ _ _ _ _ _ _ _ _ _ _

theorem chargeJob (k : s.GrantInv) (j : Job) (bytes : Nat) : (s.chargeJob j bytes).GrantInv :=
  k.mapHarts fun h wh => by rw [Hart.ite_w (by simp) rfl]; exact wh

theorem execCopyJob (k : s.GrantInv) (job : BitVec 64) : KeepsGrant (execCopyJob job s) := by
  unfold Machine.execCopyJob
  split
  · exact (keepsGrant_next _).2 k
  · next j _ =>
    split
    · exact (keepsGrant_next _).2 k
    · have copied := k.runCopy j
      dsimp only
      split
      · next t x f et =>
        rw [et] at copied
        exact (keepsGrant_next _).2 (State.GrantInv.failJob (State.GrantInv.chargeJob (s := t) copied _ _) _ _)
      · next t et =>
        rw [et] at copied
        have charged := fun n => State.GrantInv.chargeJob (State.GrantInv.setJob (s := t) copied j.id
          fun x => { x with payloadDone := true }) j n
        split
        · exact (keepsGrant_next _).2 ((charged _).completeJob _ _)
        · exact (keepsGrant_next _).2 ((charged _).foldl _ _ fun _ _ kt => kt.of_same rfl rfl)

theorem execFootprintComplete (k : s.GrantInv) (job : BitVec 64) : KeepsGrant (execFootprintComplete job s) := by
  unfold Machine.execFootprintComplete
  split
  · exact (keepsGrant_next _).2 k
  · split
    · exact (keepsGrant_next _).2 (k.completeJob _ _)
    · exact (keepsGrant_next _).2 k

theorem finishTables (k : s.GrantInv) (l : List Job) : (s.finishTables l).GrantInv := by
  induction l generalizing s with
  | nil => exact k
  | cons j js ih =>
    unfold State.finishTables
    refine ih ?_
    split
    · exact k.completeJob _ _
    · exact k

theorem execCodeTableSwap (k : s.GrantInv) (core : BitVec 7) : KeepsGrant (execCodeTableSwap core s) := by
  unfold Machine.execCodeTableSwap
  dsimp only
  split
  · exact (keepsGrant_next _).2 k
  · refine (keepsGrant_next _).2 (State.GrantInv.finishTables ?_ _)
    exact k.of_same rfl rfl

end State.GrantInv

end Sys2Proof.Machine
end

section
/-! The grants of R15 through key-value blocks, sampling, transactions, the matrix unit and rotations. -/

namespace Sys2Proof.Machine

theorem KeepsGrant.ite {c : Prop} [Decidable c] {r r' : Res} (k : KeepsGrant r) (k' : KeepsGrant r') :
    KeepsGrant (if c then r else r') := by
  split
  · exact k
  · exact k'

/-! ### Key-value blocks, sampling, transactions, matrices, rotations -/

/-- An entry of a walk over entries that keeps the grants where it succeeds. -/
def EntryKeepsGrant (f : State → Nat → Except Flt State) : Prop := ∀ s j t, s.GrantInv → f s j = .ok t → t.GrantInv

theorem placeIn_w (beat : Nat) (order : List HartId) (h : Hart) : (placeIn beat order h).w = h.w := by
  unfold placeIn; split <;> rfl

theorem unghost_w (ids : List HartId) (h : Hart) : (unghost ids h).w = h.w := Hart.ite_w rfl rfl

theorem State.grantTx_w (s : State) (h : Hart) : (s.grantTx h).w = h.w := by
  unfold State.grantTx
  split
  · exact Hart.ite_w rfl rfl
  · rfl

namespace State.GrantInv

variable {s : State}

/-- Every context changed by a function that keeps the grant. -/
theorem mapHarts_of_w (k : s.GrantInv) {f : Hart → Hart} (w : ∀ h : Hart, (f h).w = h.w) : (s.mapHarts f).GrantInv :=
  k.mapHarts fun h wh => by rw [w h]; exact wh

@[simp] theorem putEntry (k : s.GrantInv) (p : Phys) (e : Entry) : (s.putEntry p e).GrantInv := k.store _ _ _ _ _

@[simp] theorem setCount (k : s.GrantInv) (f c : Nat) : (s.setCount f c).GrantInv := k.setLeaf _ _

theorem pushFree (k : s.GrantInv) {asid : BitVec 16} {f : Nat} {t : State} (e : s.pushFree asid f = some t) : t.GrantInv := by
  unfold State.pushFree at e
  split at e
  · cases e
  · dsimp only at e
    split at e
    · cases e
    · cases e; exact (k.writeDevice _ _).writeDevice _ _

theorem drainReaders (k : s.GrantInv) : s.drainReaders.GrantInv :=
  k.foldl _ _ fun _ _ kt => kt.onHart _ _ fun _ ku => ku.settleLoads

theorem freeFrame (k : s.GrantInv) (f : Nat) : (s.freeFrame f).GrantInv := by
  have read := State.GrantInv.drainReaders
    (s := { s.setLeaf f (s.leaf f &&& ~~~1#64) with kvOld := s.kvOld.filter fun p => p.1 != f }) (k.of_same rfl rfl)
  unfold State.freeFrame
  dsimp only
  split
  · next t e => exact read.pushFree e
  · exact read.post _

theorem entryFault (k : s.GrantInv) (j count : Nat) (f : Flt) : KeepsGrant (s.entryFault j count f) := k.take _

theorem overEntries (k : s.GrantInv) {f : State → Nat → Except Flt State} (kf : EntryKeepsGrant f) (n j : Nat) :
    (s.overEntries f n j).1.GrantInv := by
  induction n generalizing s j with
  | zero => exact k
  | succ n ih =>
    unfold State.overEntries
    split
    · exact k
    · next t e => exact ih (kf _ _ _ k e) _

theorem map_ok {α : Type} {x : Except Flt α} {f : α → State} {t : State} (e : x.map f = .ok t)
    (kf : ∀ a, (f a).GrantInv) : t.GrantInv := by
  cases x with
  | error _ => cases e
  | ok a => cases e; exact kf a

theorem forkEntry (parent child : BitVec 64) : EntryKeepsGrant (State.forkEntry parent child) := fun s j t k e => by
  unfold State.forkEntry at e
  dsimp only at e
  split at e
  · cases e
  · split at e
    · exact map_ok e fun _ => k.putEntry _ _
    · split at e
      · cases e
      · split at e
        · cases e
        · split at e
          · cases e
          · split at e
            · cases e
            · cases e
            · cases e; exact ((k.setCount _ _).putEntry _ _).putEntry _ _

theorem execKfork (k : s.GrantInv) (d a b : Reg) : KeepsGrant (execKfork d a b s) := by
  unfold Machine.execKfork
  dsimp only
  split
  · exact k.illegal
  · have forked := k.overEntries (forkEntry (s.hart.rd a) (s.hart.rd d)) ((s.hart.rd b).toNat - s.hart.resumeAt) s.hart.resumeAt
    split
    · next t j f et => rw [et] at forked; exact State.GrantInv.entryFault (s := t) forked _ _ _
    · next t et => rw [et] at forked; exact State.GrantInv.done_of_w (s := t) forked rfl

theorem dropEntries (k : s.GrantInv) (table : BitVec 64) (n j freed : Nat) : (s.dropEntries table n j freed).1.GrantInv := by
  induction n generalizing s j freed with
  | zero => exact k
  | succ n ih =>
    unfold State.dropEntries
    dsimp only
    split
    · exact k
    · split
      · exact ih k _ _
      · split
        · exact k
        · split
          · exact k
          · have put := fun c p => (k.setCount c p)
            split
            · exact ih (((put _ _).putEntry _ _).freeFrame _) _ _
            · exact ih ((put _ _).putEntry _ _) _ _

theorem execKdrop (k : s.GrantInv) (d a b : Reg) : KeepsGrant (execKdrop d a b s) := by
  unfold Machine.execKdrop
  dsimp only
  split
  · exact k.illegal
  · have dropped := k.dropEntries (s.hart.rd a) ((s.hart.rd b).toNat - s.hart.resumeAt) s.hart.resumeAt s.hart.resumeCount
    split
    · next t n j f et => rw [et] at dropped; exact State.GrantInv.entryFault (s := t) dropped _ _ _
    · next t n et => rw [et] at dropped; exact State.GrantInv.done_of_w (s := t) dropped (by simp)

theorem spliceEntry (table : BitVec 64) (p : Splice) : EntryKeepsGrant (State.spliceEntry table p) := fun s j t k e => by
  unfold State.spliceEntry at e
  dsimp only at e
  split at e
  · cases e
  · cases e
  · split at e
    · cases e
    · split at e
      · cases e
      · split at e
        · cases e
        · exact map_ok e fun _ => (k.setCount _ _).putEntry _ _

theorem execKspl (k : s.GrantInv) (d a b : Reg) : KeepsGrant (execKspl d a b s) := by
  unfold Machine.execKspl
  dsimp only
  split
  · exact k.illegal
  · split
    · exact k.faultPlain _
    · split
      · exact k.illegal
      · next p _ =>
        split
        · exact k.faultPlain _
        · have spliced := k.overEntries (spliceEntry (s.hart.rd a) p) (p.nblk - s.hart.resumeAt) s.hart.resumeAt
          split
          · next t j f et => rw [et] at spliced; exact State.GrantInv.entryFault (s := t) spliced _ _ _
          · next t et => rw [et] at spliced; exact State.GrantInv.done_of_w (s := t) spliced (by simp)

theorem execKrep (k : s.GrantInv) (d a b : Reg) : KeepsGrant (execKrep d a b s) := by
  unfold Machine.execKrep
  dsimp only
  split
  · exact k.illegal
  · split
    · exact k.faultPlain _
    · split
      · exact k.illegal
      · split
        · exact k.entryFault _ _ _
        · split
          · exact k.faultPlain _
          · split
            · exact k.faultPlain _
            · split
              · exact k.entryFault _ _ _
              · split
                · exact k.faultAt _
                · exact (k.putEntry _ _).done_of_w (by simp)

theorem check (k : s.GrantInv) (final : Bool) (d a b : Reg) : KeepsGrant (s.check final d a b) := by
  unfold State.check
  dsimp only
  split
  · exact k.illegal
  · split
    · exact k.drainAll.entryFault _ _ _
    · exact k.drainAll.entryFault _ _ _
    · split
      · exact k.drainAll.faultPlain _
      · refine State.GrantInv.done_of_w ?_ (by simp)
        split
        · exact k.drainAll
        · exact k.drainAll.putEntry _ _

theorem provenance (k : s.GrantInv) (d a : Reg) (f : Nat → Option (Option Nat × Nat)) : KeepsGrant (s.provenance d a f) := by
  unfold State.provenance
  dsimp only
  split
  · exact k.illegal
  · split
    · exact k.faultPlain _
    · split
      · exact k.faultPlain _
      · split
        · exact k.faultPlain _
        · refine State.GrantInv.done_of_w ?_ (by simp)
          split
          · exact k
          · refine State.GrantInv.writeDevice ?_ _ _
            split
            · exact k.writeDevice _ _
            · exact k

/-! ### Token masks and sampling -/

theorem execTmask (k : s.GrantInv) (d : BitVec 3) (a b : Reg) (m : BitVec 3) : KeepsGrant (execTmask d a b m s) := by
  unfold Machine.execTmask
  dsimp only
  split
  · exact k.illegal
  · split
    · exact k.done_of_w rfl
    · split
      · exact k.faultPlain _
      · split
        · exact k.faultPlain _
        · exact k.done_of_w rfl
        · split
          · exact k.faultPlain _
          · exact k.done_of_w rfl

theorem writeContext (k : s.GrantInv) {va : BitVec 64} {c : GContext} {next depth : Nat} {push : Option (Nat × Nat)} {t : State}
    (e : s.writeContext va c next depth push = .ok t) : t.GrantInv := by
  unfold State.writeContext at e
  cases h1 : s.access s.hart .write 8 (va + 8) with
  | error f => rw [h1] at e; cases e
  | ok p1 =>
    rw [h1] at e
    cases h3 : s.access s.hart .write 8 (va + 24) with
    | error f => rw [h3] at e; cases e
    | ok p3 =>
      rw [h3] at e
      cases push with
      | none => cases e; exact (k.store _ _ _ _ _).store _ _ _ _ _
      | some x =>
        cases h : s.access s.hart .write 1 (BitVec.ofNat 64 x.1) with
        | error f =>
          have : (Except.error f : Except Flt State) = .ok t := by rw [← e]; simp only [h]; rfl
          cases this
        | ok p =>
          have : Except.ok (((s.store 1 true false p.pa [BitVec.ofNat 8 x.2]).store 1 true false p1.pa
              (natLe 8 (c.d1 / 2 ^ 43 * 2 ^ 43 + depth * 2 ^ 32 + next))).store 1 true false p3.pa
              (natLe 8 ((c.nadv + 1) % 2 ^ 64))) = (.ok t : Except Flt State) := by rw [← e]; simp only [h]; rfl
          cases this
          exact ((k.store _ _ _ _ _).store _ _ _ _ _).store _ _ _ _ _

theorem execTadv (k : s.GrantInv) (d a b : Reg) : KeepsGrant (execTadv d a b s) := by
  unfold Machine.execTadv
  dsimp only
  split
  · exact k.illegal
  · split
    · exact k.faultPlain _
    · split
      · exact k.faultPlain _
      · exact k.done_of_w (by simp)
      · split
        · exact k.faultPlain _
        · next t et => exact (k.writeContext et).done_of_w (by simp)

theorem execSmax (k : s.GrantInv) (d a b : Reg) (m : BitVec 3) (w : BitVec 1) : KeepsGrant (execSmax d a b m w s) := by
  unfold Machine.execSmax
  exact k.vector _ _ fun _ ku => (ku.putResults _ _ _ _ _).done_of_w (Hart.wr_w _ _ _)

theorem execSexp (k : s.GrantInv) (d a b : Reg) (m : BitVec 3) (w : BitVec 1) : KeepsGrant (execSexp d a b m w s) := by
  unfold Machine.execSexp
  refine k.vector _ _ fun u ku => ?_
  dsimp only
  refine State.GrantInv.done_of_w ?_ (Hart.wr_w _ _ _)
  split
  · exact ku.putResults _ _ _ _ _
  · exact (ku.putResults _ _ _ _ _).produce _ _

theorem execSpick (k : s.GrantInv) (d a b : Reg) (m : BitVec 3) (w : BitVec 1) : KeepsGrant (execSpick d a b m w s) := by
  unfold Machine.execSpick
  refine k.vector _ _ fun u ku => ?_
  dsimp only
  split
  · exact ku.done_of_w (by simp)
  · split
    · exact ku.done_of_w (by simp)
    · exact ku.done_of_w (by simp)

theorem execSrand (k : s.GrantInv) (d a b : Reg) : KeepsGrant (execSrand d a b s) := by
  unfold Machine.execSrand
  dsimp only
  split
  · exact k.done_of_w (by simp)
  · split
    · exact k.done_of_w (by simp)
    · exact k.done_of_w (by simp)

/-! ### Order-first transactions -/

theorem odecl (k : s.GrantInv) (write : Bool) (a : Reg) : KeepsGrant (s.odecl write a) := by
  unfold State.odecl
  dsimp only
  split
  · exact k.illegal
  · split
    · exact k.faultAt _
    · split
      · exact k.faultAt _
      · split
        · exact k.illegal
        · exact k.done_of_w rfl

theorem execObeg (k : s.GrantInv) (d : Reg) : KeepsGrant (execObeg d s) := by
  unfold Machine.execObeg
  dsimp only
  split
  · refine State.GrantInv.wait (k.setHart ?_) _ _
    exact k.hart
  · split
    · exact k.done_of_w (Hart.wr_w _ _ _)
    · exact k.illegal
  · split
    · exact k.wait _ _
    · exact k.illegal
  · exact k.illegal

theorem execOcom (k : s.GrantInv) : KeepsGrant (execOcom s) := by
  unfold Machine.execOcom
  split
  · exact k.illegal
  · exact k.drainAll.endTx.done_of_w rfl

theorem execGateArrival (k : s.GrantInv) : KeepsGrant (execGateArrival s) := by
  unfold Machine.execGateArrival
  dsimp only
  split
  · exact (keepsGrant_next _).2 (k.of_same rfl rfl)
  · exact (keepsGrant_next _).2 k

theorem endBeat (k : s.GrantInv) : s.endBeat.GrantInv :=
  ((k.mapHarts_of_w (placeIn_w s.beatNo ((List.range 4).flatMap fun d => s.batch d))).mapHarts_of_w
    (unghost_w ((List.range 4).flatMap fun d => (s.sent d).map fun e => e.who))).of_same rfl rfl

theorem appendOrder (k : s.GrantInv) (m : Merged) (ms : List Merged) : (s.appendOrder m ms).GrantInv := k.of_same rfl rfl

theorem execBatchAppend (k : s.GrantInv) : KeepsGrant (execBatchAppend s) := by
  unfold Machine.execBatchAppend
  split
  · exact (keepsGrant_next _).2 k
  · exact (keepsGrant_next _).2 (k.appendOrder _ _)

theorem execOrderFirstGrant (k : s.GrantInv) : KeepsGrant (execOrderFirstGrant s) :=
  (keepsGrant_next _).2 (k.upd (by rw [State.grantTx_w]; exact k.hart))

theorem appendOrders (k : s.GrantInv) (l : List Merged) : (s.appendOrders l).GrantInv := by
  induction l generalizing s with
  | nil => exact k
  | cons m ms ih => exact ih (k.appendOrder m ms)

theorem keepPromise (k : s.GrantInv) : s.keepPromise.GrantInv :=
  (k.appendOrders s.merged).mapHarts_of_w (State.grantTx_w _)

theorem passBeat (k : s.GrantInv) : s.passBeat.GrantInv := by
  unfold State.passBeat
  split
  · exact k
  · exact k.keepPromise.endBeat

theorem ite {c : Prop} [Decidable c] {t u : State} (kt : t.GrantInv) (ku : u.GrantInv) :
    State.GrantInv (if c then t else u) := by
  split
  · exact kt
  · exact ku

/-! ### The matrix unit -/

theorem execTattach (k : s.GrantInv) (q : BitVec 3) : KeepsGrant (execTattach q s) := by
  unfold Machine.execTattach
  dsimp only
  split
  · exact k.illegal
  · exact k.done_of_w rfl

theorem execTdetach (k : s.GrantInv) : KeepsGrant (execTdetach s) := by
  unfold Machine.execTdetach
  dsimp only
  split
  · exact k.done_of_w rfl
  · exact k.done_of_w rfl

theorem execTen (k : s.GrantInv) (t : BitVec 3) : KeepsGrant (execTen t s) := by
  unfold Machine.execTen
  dsimp only
  split
  · exact k.illegal
  · split
    · exact k.done_of_w rfl
    · exact k.done_of_w rfl

theorem execTdis (k : s.GrantInv) (t : BitVec 3) : KeepsGrant (execTdis t s) := by
  unfold Machine.execTdis
  dsimp only
  split
  · exact k.done_of_w rfl
  · exact k.done_of_w rfl

theorem execTzero (k : s.GrantInv) (t : BitVec 3) : KeepsGrant (execTzero t s) := by
  unfold Machine.execTzero
  dsimp only
  split
  · exact k.illegal
  · split
    · exact k.fault _ _
    · exact k.done_of_w rfl

theorem execMop (k : s.GrantInv) (t : BitVec 3) (a b : Reg) (r c : BitVec 3) : KeepsGrant (execMop t a b r c s) := by
  unfold Machine.execMop
  exact k.vector _ _ fun _ ku => ku.done_of_w rfl

theorem execMopS (k : s.GrantInv) (t : BitVec 3) (a b : Reg) (r c : BitVec 3) : KeepsGrant (execMopS t a b r c s) := by
  unfold Machine.execMopS
  dsimp only
  refine k.illegal.ite ?_
  split
  · exact k.fault _ _
  · refine (k.fault _ _).ite ((k.wait _ _).ite ((k.wait _ _).ite (KeepsGrant.ite ?_ ?_)))
    · exact k.done_of_w rfl
    · split
      · exact k.wholeFault _ _
      · exact k.done_of_w (by rw [Hart.raise_w, Hart.setTile_w, Hart.setGen_w, Hart.setGen_w])

theorem execMopx (k : s.GrantInv) (t : BitVec 2) (a b : Reg) (r c : BitVec 3) : KeepsGrant (execMopx t a b r c s) := by
  unfold Machine.execMopx
  exact k.vector _ _ fun _ ku => ku.done_of_w rfl

theorem tileToVector (k : s.GrantInv) (col : Bool) (t : BitVec 3) (d b : Reg) (m : BitVec 3) :
    KeepsGrant (s.tileToVector col t d b m) := by
  unfold State.tileToVector
  refine k.vector _ _ fun u ku => ?_
  dsimp only
  split
  · exact ku.done_of_w rfl
  · refine State.GrantInv.done_of_w (State.GrantInv.ite ?_ (State.GrantInv.produce ?_ _ _)) (Hart.ite_w (by simp) rfl)
    · exact ku.putResults _ _ _ _ _
    · exact ku.putResults _ _ _ _ _

theorem vectorToTile (k : s.GrantInv) (col : Bool) (t : BitVec 3) (a b : Reg) (m : BitVec 3) :
    KeepsGrant (s.vectorToTile col t a b m) := by
  unfold State.vectorToTile
  refine k.vector _ _ fun u ku => ?_
  dsimp only
  refine ku.done_of_w ?_
  rw [Hart.raise_w]
  exact Hart.ite_w rfl rfl

theorem execTld (k : s.GrantInv) (t : BitVec 3) (a b : Reg) (r c : BitVec 3) : KeepsGrant (execTld t a b r c s) := by
  unfold Machine.execTld
  dsimp only
  split
  · exact k.fault _ _
  · split
    · exact k.wholeFault _ _
    · split
      · exact State.GrantInv.wholeFault (k.upd k.hart) _ _
      · exact State.GrantInv.done_of_w (k.upd k.hart) rfl

theorem execTst (k : s.GrantInv) (t : BitVec 3) (a b : Reg) (r c : BitVec 3) : KeepsGrant (execTst t a b r c s) := by
  unfold Machine.execTst
  dsimp only
  split
  · exact k.fault _ _
  · split
    · exact k.wholeFault _ _
    · split
      · exact (k.scatter _ _ _ _).wholeFault _ _
      · exact (k.scatter _ _ _ _).done_of_w rfl

theorem rotation (k : s.GrantInv) (m : RotMode) (vta gain : Bool) (p : BitVec 4) (z : Reg) (nf : BitVec 6) (i : BitVec 3)
    (wz wp : Bool) : KeepsGrant (s.rotation m vta gain p z nf i wz wp) := by
  unfold State.rotation
  refine k.vector _ _ fun u ku => ?_
  dsimp only
  split
  · exact ku.done_of_w rfl
  · refine State.GrantInv.done_of_w ?_ rfl
    split
    · exact State.GrantInv.produce (ku.setHart (by simpa [apply_ite Hart.w] using ku.hart)) _ _
    · exact ku.setHart (by simpa [apply_ite Hart.w] using ku.hart)

end State.GrantInv

end Sys2Proof.Machine
end

section
/-! The grants of R15 through the scheduler's steps, placement among them. -/

namespace Sys2Proof.Machine

/-! ### The scheduler, the system and its commands -/

@[simp] theorem Hart.request_w (now : Nat) (why : SoftWhy) (h : Hart) : (h.request now why).w = h.w := Hart.ite_w rfl rfl

theorem State.budgetRequest_w (s : State) (h : Hart) : (s.budgetRequest h).w = h.w := by
  unfold State.budgetRequest
  split
  · exact Hart.request_w _ _ _
  · rfl

theorem Hart.restore_w (h : Hart) : h.restore.w = h.w := by
  unfold Hart.restore
  split
  · rfl
  · exact Hart.ite_w (Hart.deadVectors_w h) rfl

/-- A grant that a hart may have on a context has one of the widths of R15. -/
theorem State.grantOn_width (s : State) (self : HartId) (core ctx want : Nat) (exact : Bool) (rwid : Nat) {g w : Nat}
    (e : s.grantOn self core ctx want exact rwid = some (g, w)) : grantWidth w = true := by
  unfold State.grantOn at e
  dsimp only at e
  split at e
  · next r found =>
    cases e
    obtain ⟨x, hx, ex⟩ := List.exists_of_findSome?_eq_some found
    obtain ⟨y, -, ey⟩ := Option.map_eq_some_iff.1 ex
    have : x = w := by injection ey
    have m := (List.mem_filter.1 hx).1
    subst this
    simp only [List.mem_cons, List.not_mem_nil, or_false] at m
    obtain rfl | rfl | rfl | rfl := m <;> rfl
  · split at e
    · obtain ⟨y, -, ey⟩ := Option.map_eq_some_iff.1 e
      cases ey
      rfl
    · cases e

theorem State.slotFor_width (s : State) (h : Hart) (core : Nat) {ctx g w row : Nat}
    (e : s.slotFor h core = some (ctx, g, w, row)) : grantWidth w = true := by
  unfold State.slotFor at e
  obtain ⟨x, -, ex⟩ := List.exists_of_findSome?_eq_some e
  split at ex
  · cases ex
  · split at ex
    · cases ex
    · next g' w' found =>
      have width := s.grantOn_width _ _ _ _ _ _ found
      split at ex
      · cases ex
      · split at ex
        · cases ex; exact width
        · obtain ⟨y, -, ey⟩ := Option.map_eq_some_iff.1 ex
          cases ey
          exact width

/-- What a release reads back is in the hart it is read back for. -/
theorem State.readBack_w (s : State) (h : Hart) (r : SaveRec) {h' : Hart} {r' : SaveRec}
    (e : s.readBack h r = .ok (some (h', r'))) : h'.w = h.w := by
  unfold State.readBack at e
  dsimp only at e
  split at e
  · split at e
    · cases e
      exact Hart.ite_w rfl rfl
    · split at e
      · cases e
        exact Hart.ite_w rfl rfl
      · cases e
  all_goals cases e

namespace State.GrantInv

variable {s : State}

theorem boundary (k : s.GrantInv) (c d : BitVec 8) : (s.boundary c d).GrantInv := k.notePcWord.taken _

theorem pendFault (k : s.GrantInv) : s.pendFault.GrantInv := by
  unfold State.pendFault
  dsimp only
  split
  · split
    · split
      · exact k.setHart k.hart
      · refine State.GrantInv.getD (k.setHart (by exact k.hart)) fun t e => ?_
        exact putWords (k.setHart (by exact k.hart)) _ _ t e
    · exact k
  · exact k

theorem hardPreempt (k : s.GrantInv) (d : BitVec 8) : (s.hardPreempt d).GrantInv := by
  unfold State.hardPreempt
  dsimp only
  split
  · exact k.pendFault
  · split
    · exact k.setHart k.hart
    · exact boundary (k.setHart (by exact k.hart)) _ _

theorem execHartWake (k : s.GrantInv) : KeepsGrant (execHartWake s) := by
  unfold Machine.execHartWake
  dsimp only
  split
  · exact KeepsGrant.ite ((keepsGrant_next _).2 (k.setHart k.hart)) ((keepsGrant_next _).2 k)
  · split
    · exact KeepsGrant.ite ((keepsGrant_next _).2 (k.setHart k.hart)) ((keepsGrant_next _).2 k)
    · exact (keepsGrant_next _).2 k
  · exact (keepsGrant_next _).2 k

theorem execHartReclaim (k : s.GrantInv) : KeepsGrant (execHartReclaim s) := by
  unfold Machine.execHartReclaim
  dsimp only
  split
  · exact KeepsGrant.ite ((keepsGrant_next _).2 k) ((keepsGrant_next _).2 (k.boundary _ _))
  · exact (keepsGrant_next _).2 k

theorem execSoftRequestEscalation (k : s.GrantInv) : KeepsGrant (execSoftRequestEscalation s) := by
  unfold Machine.execSoftRequestEscalation
  dsimp only
  split
  · exact (keepsGrant_next _).2 (hardPreempt (k.setHart (by exact k.hart)) _)
  · exact (keepsGrant_next _).2 (k.setHart k.hart)

theorem execProducerLands (k : s.GrantInv) : KeepsGrant (execProducerLands s) := by
  unfold Machine.execProducerLands
  split
  · exact (keepsGrant_next _).2 k
  · have kt := k.settleLoads.ite k (c := s.hart.awaits ‹_›)
    exact (keepsGrant_next _).2 (kt.upd (by simpa using kt.hart))

theorem execCompactionComplete (k : s.GrantInv) (core : BitVec 7) : KeepsGrant (execCompactionComplete core s) :=
  (keepsGrant_next _).2 (k.mapHarts_of_w fun _ => Hart.ite_w rfl rfl)

theorem execStreamReadAhead (k : s.GrantInv) (gen : BitVec 3) (n : BitVec 16) :
    KeepsGrant (execStreamReadAhead gen n s) := by
  unfold Machine.execStreamReadAhead
  dsimp only
  split
  · exact (keepsGrant_next _).2 (k.setHart k.hart)
  · exact (keepsGrant_next _).2 k

theorem execAccessPerforms (k : s.GrantInv) (stream : BitVec 4) : KeepsGrant (execAccessPerforms stream s) := by
  unfold Machine.execAccessPerforms
  split
  · exact (keepsGrant_next _).2 (State.GrantInv.commit (k.upd k.hart) _ _ _)
  · split
    · exact (keepsGrant_next _).2 (State.GrantInv.landLate (k.upd k.hart) _)
    · exact (keepsGrant_next _).2 k

theorem clearTzi (k : s.GrantInv) (h : Hart) : (s.clearTzi h).GrantInv := by
  unfold State.clearTzi
  split
  · exact k
  · split
    · exact k
    · split
      · exact k
      · exact k.getD fun t e => k.putWords _ _ t e

theorem loseArea (k : s.GrantInv) (h : Hart) : (s.loseArea h).GrantInv := by
  refine State.GrantInv.postHart (k.modHart h.id _ ?_) _ _ _
  exact fun _ w => w

theorem placeHart (k : s.GrantInv) (h : Hart) (core : Nat) {ctx g w row : Nat} (width : grantWidth w = true) :
    (s.placeHart h core (ctx, g, w, row)).GrantInv := by
  unfold State.placeHart
  exact ((k.clearTzi h).modHart _ _ fun _ _ => width).creditAll _ _

theorem execHartPlacement (k : s.GrantInv) (core : BitVec 7) : KeepsGrant (execHartPlacement core s) := by
  unfold Machine.execHartPlacement
  dsimp only
  split
  · split
    · exact (keepsGrant_next _).2 (k.loseArea _)
    · split
      · next slot found => exact (keepsGrant_next _).2 (k.placeHart _ _ (s.slotFor_width _ _ found))
      · exact (keepsGrant_next _).2 k
  · refine (keepsGrant_next _).2 (k.foldl _ _ fun t h kt => ?_)
    unfold State.contend
    split
    · exact kt.modHart _ _ fun x w => by rw [Hart.request_w]; exact w
    · exact kt

theorem execEnergyTick (k : s.GrantInv) : KeepsGrant (execEnergyTick s) := by
  unfold Machine.execEnergyTick
  refine ((keepsGrant_next _).2 k).ite ((keepsGrant_next _).2 ?_)
  dsimp only
  have charged : (s.mapHarts fun h => if h.onCore then h.spend (s.staticShare h) else h).GrantInv :=
    k.mapHarts_of_w fun h => Hart.ite_w (Hart.spend_w _ _) rfl
  refine of_same (foldl (mapHarts_of_w ?_ (State.budgetRequest_w _)) _ _ fun t r kt => kt.post _) (by rfl) (by rfl)
  exact charged.of_same rfl rfl

theorem execWatchdogExpiry (k : s.GrantInv) : KeepsGrant (execWatchdogExpiry s) := by
  have landed : (s.settleLoads.upd fun h => { h.landAll with st := .resident }).GrantInv :=
    k.settleLoads.upd k.settleLoads.landAll.hart
  unfold Machine.execWatchdogExpiry
  dsimp only
  refine ((keepsGrant_next _).2 k).ite ?_
  split
  · split
    · exact (keepsGrant_next _).2 k
    · exact (keepsGrant_next _).2 (k.setHart k.hart)
  · exact (keepsGrant_next _).2 ((landed.ite k).wdogRelease.boundary _ _)

theorem execHandlerOverrun (k : s.GrantInv) : KeepsGrant (execHandlerOverrun s) := by
  unfold Machine.execHandlerOverrun
  dsimp only
  split
  · exact (keepsGrant_next _).2 ((k.wdogRelease.boundary cWdog 1).upd (k.wdogRelease.boundary cWdog 1).hart)
  · exact (keepsGrant_next _).2 k

theorem issue (k : s.GrantInv) (core lg : Nat) (h : Hart) (charge : Bool) : (s.issue core lg h charge).GrantInv := k.setArb _ _ _

theorem afterTurn (k : s.GrantInv) (c g : Nat) (cand : Bool) : (s.afterTurn c g cand).GrantInv := by
  have passed := (k.ite (k.setArb c g { s.arb c g with
    credit := (s.arb c g).credit.set (s.arb c g).turn (min ((s.arb c g).credit.getD (s.arb c g).turn 0) 0) })
    (c := cand)).passTurn c g
  unfold State.afterTurn
  dsimp only
  split
  · generalize State.passTurn _ c g = t at passed
    split
    · refine (passed.issue _ _ _ _).ite (passed.ite ?_)
      split
      · exact passed.issue _ _ _ _
      · exact passed
    · exact passed
  · split
    · exact k.issue _ _ _ _
    · exact k

theorem arbCycle (k : s.GrantInv) (core lg : Nat) : (s.arbCycle core lg).GrantInv := by
  have free : (s.unchoose core lg).GrantInv := k.setArb _ _ _
  unfold State.arbCycle
  dsimp only
  split
  · exact (free.issue _ _ _ _).ite (free.afterTurn _ _ _)
  · exact free.afterTurn _ _ _

theorem arbitrate (k : s.GrantInv) (core lg : Nat) (id : HartId) : (s.arbitrate core lg id).1.GrantInv := by
  have turned := k.ite (k.arbCycle core lg) (c := (s.chosenHart core lg).isSome)
  unfold State.arbitrate
  dsimp only
  generalize (if (s.chosenHart core lg).isSome = true then s else s.arbCycle core lg) = t at turned
  split
  · split
    · exact turned.setArb _ _ _
    · exact turned
  · exact turned

theorem mayIssue (k : s.GrantInv) : s.mayIssue.1.GrantInv := by
  unfold State.mayIssue
  dsimp only
  generalize s.hart = h
  generalize (List.range h.w).filter _ = l
  generalize true = b
  induction l generalizing s b with
  | nil => exact k
  | cons i l ih => exact ih (k.arbitrate _ _ _) _

theorem execWhippletreeIssueCycle (k : s.GrantInv) (core : BitVec 7) (g : BitVec 3) :
    KeepsGrant (execWhippletreeIssueCycle core g s) := by
  have turned := k.ite (k.arbCycle core.toNat g.toNat) (c := (s.chosenHart core.toNat g.toNat).isSome)
  unfold Machine.execWhippletreeIssueCycle
  dsimp only
  split
  · exact (keepsGrant_next _).2 (turned.focus _)
  · exact (keepsGrant_next _).2 turned

end State.GrantInv

end Sys2Proof.Machine
end

section
/-! The grants of R15 through the device's own steps and the host's commands. -/

namespace Sys2Proof.Machine

theorem State.rewatch_w (s : State) (asid : BitVec 16) (base len : Nat) (h : Hart) :
    (s.rewatch asid base len h).w = h.w := by
  unfold State.rewatch
  dsimp only
  split
  · rfl
  · split
    · exact Hart.ite_w rfl rfl
    · rfl

namespace State.GrantInv

variable {s : State}

/-! ### The device in its system -/

theorem writeAqctl (k : s.GrantInv) (v : BitVec 64) : (s.writeAqctl v).GrantInv :=
  (writeAqctl_registersOnly s v).grantInv k

theorem writeTail (k : s.GrantInv) (q : Nat) (t : BitVec 32) : (s.writeTail q t).GrantInv :=
  (writeTail_registersOnly s q t).grantInv k

theorem execRegisterWrite (k : s.GrantInv) (o : BitVec 16) (v : BitVec 64) : KeepsGrant (execRegisterWrite o v s) := by
  unfold Machine.execRegisterWrite
  split
  · exact (keepsGrant_next _).2 (k.writeReg _ _)
  · exact (keepsGrant_next _).2 k

/-- The accepted commands are no part of any context. -/
theorem withCmds (k : s.GrantInv) (l : List Cmd) : ({ s with cmds := l } : State).GrantInv := k.of_same rfl rfl

theorem accept (k : s.GrantInv) (q : Nat) (pkt : Vector (BitVec 64) 8) : (s.accept q pkt).GrantInv := by
  have accepted := fun o d f l => ((k.note q o 0 0 d).setQueue q f).withCmds l
  unfold State.accept
  exact State.GrantInv.ite ((accepted _ _ _ _).complete _ _) (accepted _ _ _ _)

theorem execPacketFetch (k : s.GrantInv) (q : BitVec 8) : KeepsGrant (execPacketFetch q s) := by
  unfold Machine.execPacketFetch
  dsimp only
  split
  · exact (keepsGrant_next _).2 k
  · refine ((keepsGrant_next _).2 k).ite (((keepsGrant_next _).2 (k.queueError _)).ite (((keepsGrant_next _).2 k).ite ?_))
    exact (keepsGrant_next _).2 (k.accept _ _)

theorem execEventRingPost (k : s.GrantInv) (d : BitVec 16) : KeepsGrant (execEventRingPost d s) := by
  unfold Machine.execEventRingPost
  split
  · refine ((keepsGrant_next _).2 k).ite ((keepsGrant_next _).2 (State.GrantInv.writeDevice (State.GrantInv.putDevice ?_ _ _) _ _))
    exact k.of_same rfl rfl
  · exact (keepsGrant_next _).2 k

theorem postManagement (k : s.GrantInv) (code : Nat) : (s.postManagement code).GrantInv := k.post _

theorem execStartStage (k : s.GrantInv) : KeepsGrant (execStartStage s) := by
  unfold Machine.execStartStage
  dsimp only
  split
  · refine ((keepsGrant_next _).2 k).ite (KeepsGrant.ite ?_ ?_)
    · exact (keepsGrant_next _).2 (k.of_same rfl rfl)
    · exact (keepsGrant_next _).2 (State.GrantInv.note (k.of_same (by rfl) (by rfl)) _ _ _ _ _)
  · split
    · exact (keepsGrant_next _).2 (State.GrantInv.note (k.of_same (by rfl) (by rfl)) _ _ _ _ _)
    · exact (keepsGrant_next _).2 (k.of_same rfl rfl)

theorem execDieJoin (k : s.GrantInv) (d : BitVec 2) : KeepsGrant (execDieJoin d s) := by
  unfold Machine.execDieJoin
  dsimp only
  split
  · exact (keepsGrant_next _).2 (State.GrantInv.note (k.of_same (by rfl) (by rfl)) _ _ _ _ _)
  · exact (keepsGrant_next _).2 k

theorem execPowerStateChange (k : s.GrantInv) : KeepsGrant (execPowerStateChange s) := by
  unfold Machine.execPowerStateChange
  split
  · exact (keepsGrant_next _).2 k
  · exact (keepsGrant_next _).2 (k.setPower _)

theorem drainHarts (k : s.GrantInv) (p : Hart → Bool) : (s.drainHarts p).GrantInv :=
  k.foldl _ _ fun _ _ kt => kt.onHart _ _ fun _ ku => ku.settleLoads.drainAll

theorem execEviction (k : s.GrantInv) (asid : BitVec 16) (va : BitVec 56) : KeepsGrant (execEviction asid va s) := by
  unfold Machine.execEviction
  dsimp only
  split
  · exact (keepsGrant_next _).2 k
  · split
    · exact (keepsGrant_next _).2 k
    · exact (keepsGrant_next _).2 ((k.drainHarts fun _ => true).of_same rfl rfl)

theorem execUnconsumedError (k : s.GrantInv) (byte : ErrorByte) : KeepsGrant (execUnconsumedError byte s) := by
  unfold Machine.execUnconsumedError
  split
  · split
    · exact (keepsGrant_next _).2 (postManagement (k.of_same (by rfl) (by rfl)) _)
    · exact (keepsGrant_next _).2 k
  · split
    · exact (keepsGrant_next _).2 (postManagement (k.of_same (by rfl) (by rfl)) _)
    · exact (keepsGrant_next _).2 k

theorem withRemaps (k : s.GrantInv) (l : List Remap) : ({ s with remaps := l } : State).GrantInv := k.of_same rfl rfl

theorem execSpareRemap (k : s.GrantInv) (kind : SpareKind) (unit : BitVec 32) (spare : BitVec 16) :
    KeepsGrant (execSpareRemap kind unit spare s) := by
  unfold Machine.execSpareRemap
  dsimp only
  refine ((keepsGrant_next _).2 k).ite (((keepsGrant_next _).2 (k.postManagement _)).ite (((keepsGrant_next _).2 k).ite ?_))
  have noted := fun d => k.note 0 0 2 0 d
  refine (keepsGrant_next _).2 (mapHarts_of_w ?_ fun h => Hart.ite_w (Hart.request_w _ _ _) rfl)
  exact (noted _).withRemaps _

theorem execPeerPortLost (k : s.GrantInv) (port : BitVec 4) : KeepsGrant (execPeerPortLost port s) := by
  unfold Machine.execPeerPortLost
  split
  · exact (keepsGrant_next _).2 k
  · exact (keepsGrant_next _).2 (postManagement (k.of_same (by rfl) (by rfl)) _)

theorem execPeerPortRequest (k : s.GrantInv) (port : BitVec 4) (op : PeerOp) : KeepsGrant (execPeerPortRequest port op s) := by
  have next := (keepsGrant_next _).2 k
  have stop := fun a => keepsGrant_fault (.noSuchPhysicalByte a)
  unfold Machine.execPeerPortRequest
  refine next.ite ?_
  cases op with
  | read pa n => exact (stop _).ite next
  | write pa bs => exact (stop _).ite ((keepsGrant_next _).2 (k.commitMem _ _))
  | amo o wide pa v x => exact next.ite ((stop _).ite ((keepsGrant_next _).2 (k.commitMem _ _)))
  | vamo o tag pa v => exact next.ite ((stop _).ite ((keepsGrant_next _).2 (k.commitMem _ _)))

theorem execHostMemoryAccess (k : s.GrantInv) (op : HostOp) : KeepsGrant (execHostMemoryAccess op s) := by
  have next := (keepsGrant_next _).2 k
  have stop := fun a => keepsGrant_fault (.noSuchPhysicalByte a)
  unfold Machine.execHostMemoryAccess
  cases op with
  | read pa n => exact (stop _).ite next
  | write pa bs => exact (stop _).ite ((keepsGrant_next _).2 (k.commitMem _ _))
  | readWindow _ _ => exact next
  | setPage p old => exact next.ite ((keepsGrant_next _).2 (k.of_same rfl rfl))
  | dropPage asid va old => exact (keepsGrant_next _).2 (k.of_same rfl rfl)

/-! ### Commands -/

/-- A command whose effect keeps the grants keeps them. -/
theorem command (k : s.GrantInv) (op : Nat) (ms : List Nat) {effect : Cmd → State} (keeps : ∀ c, (effect c).GrantInv) :
    KeepsGrant (s.command op ms effect) := by
  unfold State.command
  split
  · exact (keepsGrant_next _).2 k
  · refine ((keepsGrant_next _).2 k).ite (((keepsGrant_next _).2 (k.complete _ _)).ite ((keepsGrant_next _).2 (keeps _)))

theorem begin (k : s.GrantInv) (c : Cmd) : (s.begin c).GrantInv := k.of_same rfl rfl

theorem leaveOut (k : s.GrantInv) (c : Cmd) (left : Bool) : (s.leaveOut c left).GrantInv := k.of_same rfl rfl

theorem cancelHart (k : s.GrantInv) (id : HartId) : (s.cancelHart id).GrantInv :=
  k.onHart id _ fun t kt => by
    have met := hardPreempt (kt.upd (f := fun h => { h with cancelling := true }) kt.hart) 3
    exact met.ite (met.retire _)

theorem reap (k : s.GrantInv) (p : Hart → Bool) : (s.reap p).GrantInv :=
  k.foldl _ _ fun _ _ kt => kt.onHart _ _ fun _ ku => ku.retire _

theorem cancelQueue (k : s.GrantInv) (q : Nat) : (s.cancelQueue q).GrantInv := by
  unfold State.cancelQueue
  exact foldl (k.foldl _ _ fun _ _ kt => kt.cancelHart _) _ _ fun _ _ kt => kt.complete _ _

theorem execQcreate (k : s.GrantInv) : KeepsGrant (execQcreate s) :=
  k.command _ _ fun c => by
    dsimp only
    refine (k.complete _ _).ite ((k.complete _ _).ite ?_)
    exact State.GrantInv.complete (State.GrantInv.powerUp (k.of_same (by rfl) (by rfl))) _ _

theorem execQdestroy (k : s.GrantInv) : KeepsGrant (execQdestroy s) :=
  k.command _ _ fun c => by
    have stopped := (k.begin c).setQueue (bits (c.d 1) 0 8) fun x => { x with stopped := true }
    have cancelled := (stopped.cancelQueue (bits (c.d 1) 0 8)).ite stopped (c := bits (c.d 1) 8 1 = 1)
    dsimp only
    refine (k.complete _ _).ite ((k.complete _ _).ite (cancelled.ite ?_))
    exact State.GrantInv.complete (cancelled.of_same (by rfl) (by rfl)) _ _

theorem execSetltol (k : s.GrantInv) : KeepsGrant (execSetltol s) :=
  k.command _ _ fun c => by
    dsimp only
    refine (k.complete _ _).ite ?_
    refine State.GrantInv.complete (State.GrantInv.powerUp (State.GrantInv.setQueue ((ite ?_ k)) _ _)) _ _
    exact k.of_same rfl rfl

theorem loadResult (k : s.GrantInv) (c : Cmd) (o : Obj) : (s.loadResult c o).GrantInv := k.putDevice _ _

theorem execLoad (k : s.GrantInv) : KeepsGrant (execLoad s) :=
  k.command _ _ fun c => by
    dsimp only
    refine (k.complete _ _).ite ?_
    split
    · exact State.GrantInv.complete (loadResult (k.of_same (by rfl) (by rfl)) _ _) _ _
    · split
      · exact k.complete _ _
      · refine (k.complete _ _).ite (State.GrantInv.complete (loadResult (State.GrantInv.putDevice ?_ _ _) _ _) _ _)
        exact k.of_same rfl rfl

theorem execUnload (k : s.GrantInv) : KeepsGrant (execUnload s) :=
  k.command _ _ fun c => by
    dsimp only
    refine k.ite ?_
    split
    · exact k.complete _ _
    · exact State.GrantInv.complete (k.of_same (by rfl) (by rfl)) _ _

theorem startLaunch (k : s.GrantInv) (c : Cmd) : (s.startLaunch c).GrantInv := by
  have told := (k.begin c).writeLevels (c.d 1)
  unfold State.startLaunch
  refine State.GrantInv.powerUp ((State.grantInv_iff _).2 ⟨told.hart, fun h m => ?_⟩)
  rcases List.mem_append.1 m with m | m
  · exact told.parked h m
  · obtain ⟨i, -, rfl⟩ := List.mem_map.1 m
    rfl

theorem execLaunch (k : s.GrantInv) : KeepsGrant (execLaunch s) :=
  k.command _ _ fun c => by
    dsimp only
    exact k.ite ((k.complete _ _).ite ((k.startLaunch _).ite ((k.complete _ _).ite k)))

theorem releaseHart (k : s.GrantInv) {h : Hart} (w : grantWidth h.w = true) (r : SaveRec) : (s.releaseHart h r).GrantInv :=
  k.modHart _ _ fun _ _ => w

theorem named_w (k : s.GrantInv) {rcb : Nat} {i : Option Nat} {h : Hart} (m : h ∈ s.named rcb i) : grantWidth h.w = true :=
  k h (List.mem_filter.1 (List.mem_filter.1 m).1).1

theorem execRelease (k : s.GrantInv) : KeepsGrant (execRelease s) :=
  k.command _ _ fun c => by
    refine k.ite ?_
    split
    · exact k.complete _ _
    · next h found =>
      have w := k.named_w (List.mem_of_find?_eq_some found)
      split
      · exact k.complete _ _
      · next r _ =>
        refine (k.complete _ _).ite (((k.releaseHart w r).complete _ _).ite ?_)
        split
        · next h' r' e => exact (k.releaseHart (by rw [s.readBack_w h r e]; exact w) r').complete _ _
        · exact k.complete _ _
        · exact ((k.postHart _ _ _).complete _ _).ite (k.complete _ _)

theorem execCancel (k : s.GrantInv) : KeepsGrant (execCancel s) :=
  k.command _ _ fun c => by
    dsimp only
    have finish := fun (t : State) (kt : t.GrantInv) (n : Nat) => fun b : Prop => fun [Decidable b] =>
      kt.ite (kt.complete c n) (c := b)
    refine State.GrantInv.ite (finish _ (k.reap _) _ _) (k.ite ((k.complete _ _).ite ?_))
    refine finish _ (foldl ?_ _ _ fun _ _ kt => kt.cancelHart _) _ _
    exact (k.begin c).leaveOut c _

theorem execPreempt (k : s.GrantInv) : KeepsGrant (execPreempt s) :=
  k.command _ _ fun c => by
    have hard := (k.begin c).foldl ((s.named (c.d 1) none).map fun h => h.id)
      (fun s id => s.onHart id fun s => s.hardPreempt 3) fun _ _ kt => kt.onHart _ _ fun _ ku => ku.hardPreempt 3
    dsimp only
    refine (k.ite (k.complete _ _)).ite ((k.complete _ _).ite ((hard.ite (hard.complete _ _)).ite ?_))
    exact State.GrantInv.complete (k.foldl _ _ fun _ _ kt => kt.modHart _ _ fun x w => by rw [Hart.request_w]; exact w) _ _

theorem execTlbinv (k : s.GrantInv) : KeepsGrant (execTlbinv s) :=
  k.command _ _ fun c => by
    refine State.GrantInv.complete (mapHarts_of_w ?_ (State.rewatch_w _ _ _ _)) _ _
    exact (k.drainHarts _).of_same rfl rfl

theorem mapFrame (k : s.GrantInv) (f : Nat) (e : BitVec 64) : (s.mapFrame f e).GrantInv :=
  (k.drainHarts fun _ => true).of_same rfl rfl

theorem execKvmap (k : s.GrantInv) : KeepsGrant (execKvmap s) :=
  k.command _ _ fun c => by
    have mapped := fun f e => (k.mapFrame f e).complete c 0
    exact (k.complete _ _).ite ((mapped _ _).ite ((mapped _ _).ite (k.complete _ _)))

theorem execKvevict (k : s.GrantInv) : KeepsGrant (execKvevict s) :=
  k.command _ _ fun c => by
    refine (k.complete _ _).ite (State.GrantInv.complete ?_ _ _)
    exact (k.drainHarts fun _ => true).of_same rfl rfl

theorem execAsidcfg (k : s.GrantInv) : KeepsGrant (execAsidcfg s) :=
  k.command _ _ fun c => by
    refine (k.complete _ _).ite ((k.complete _ _).ite (State.GrantInv.complete ?_ _ _))
    exact k.of_same rfl rfl

theorem execFdring (k : s.GrantInv) : KeepsGrant (execFdring s) :=
  k.command _ _ fun c => by
    refine (k.complete _ _).ite (State.GrantInv.complete ?_ _ _)
    exact k.of_same rfl rfl

theorem execSetbeat (k : s.GrantInv) : KeepsGrant (execSetbeat s) :=
  k.command _ _ fun c => by
    have set : (if c.began then s
        else { s.begin c with
          nextBeat := BitVec.ofNat 13 (c.d 1), beat := if s.stage = 0 then BitVec.ofNat 13 (c.d 1) else s.beat }).GrantInv := by
      refine k.ite ?_
      exact k.of_same rfl rfl
    exact (k.complete _ _).ite ((set.complete _ _).ite set)

end State.GrantInv

end Sys2Proof.Machine
end

section
/-! Every instruction and device step keeps the grants of R15. -/

namespace Sys2Proof.Machine

/-! ### Every instruction and device step -/

theorem exec_keepsGrant {s : State} (k : s.GrantInv) (i : Instr) : KeepsGrant (exec i s) := by
  cases i with
  | trap | ebreak => exact k.trapAfter _ _
  | fence | sbar => exact k.orderStreams_done _
  | gets => exact k.execGets _ _
  | puts => exact k.execPuts _ _
  | seed => exact k.execSeed _
  | undefinedOpcode => exact k.execUndefinedOpcode _
  | add | sub | mul | mulh | div | divn | rem | remn | and | or | xor | andn | sll | srl | sra | slt |
    sltn | min | max | minn | maxn | clz | ctz | popc | addi | andi | ori | xori | slli | srli | srai |
    lui | slti => exact k.writeScalar _ _
  | limm | limmh | jal => exact (keepsGrant_next _).2 (k.setHart (by simpa using k.hart))
  | ldb | ldh | ldw | ldd | ldbS | ldhS | ldwS => exact k.scalarLoad _ _ _ _ _
  | stb | sth | stw | std => exact k.scalarStore _ _ _ _
  | amoAdd | amoSwap | amoCas | amoMin | amoMax | amoAnd | amoOr | amoXor =>
    dsimp only [exec, execAmoAdd, execAmoSwap, execAmoCas, execAmoMin, execAmoMax, execAmoAnd, execAmoOr, execAmoXor]
    exact k.amo _ _ _ _ _ _
  | ldAcq d a sc z => exact k.execLdAcq d a sc z
  | stRel a b sc z => exact k.execStRel a b sc z
  | beq | bne | blt | bge | bltn | bgen => exact k.branch _ _
  | jalr => exact k.execJalr _ _ _
  | vsetlb => exact k.execVsetlb _ _ _ _
  | vcfg | vcfgw | vtag => exact k.configure _ _ _ _
  | vsetl => exact k.execVsetl _ _ _ _
  | vadd | vsub | vmul | vfma | vmin | vmax | vabs | vneg | vand | vor | vxor | vshl | vshr | vmov |
    vsel | vadds | vsubs | vmuls | vfmas | vmins | vmaxs | vands | vors | vxors | vshls | vshrs | vsels => exact k.elementwise _ _ _ _ _ _
  | vadc | vsbc => exact k.carry _ _ _ _ _ _ _
  | vceq | vcne | vclt | vcge | vceqs | vcnes | vclts | vcges =>
    dsimp only [exec, execVceq, execVcne, execVclt, execVcge, execVceqs, execVcnes, execVclts, execVcges]
    exact k.compares _ _ _ _ _ _
  | mand | mor | mxor | mnot | mshup | mset | mclr => exact k.maskOp _ _
  | mpop => exact k.execMpop _ _
  | mfirst => exact k.execMfirst _ _
  | vslideup | vslidedn | vgath | vexpd =>
    dsimp only [exec, execVslideup, execVslidedn, execVgath, execVexpd]
    exact k.permute _ _ _ _ _ (fun _ h => h) fun _ _ => rfl
  | vcomp => exact k.execVcomp _ _ _ _ _
  | vbcast | vidx => exact k.fill _ _ _ _
  | vrsum | vrmax | vrmin => exact k.reduction _ _ _ _ _
  | vsmaxe => exact k.execVsmaxe _ _ _ _
  | vcvt => exact k.execVcvt _ _ _ _
  | vquant => exact k.execVquant _ _ _ _ _
  | vdeq => exact k.execVdeq _ _ _ _ _
  | vpack => exact k.execVpack _ _ _ _
  | vunpk => exact k.execVunpk _ _ _ _
  | rotc | rotcG | rotl | rotlG | roth | rothG | vtac | vtacG | vtal | vtalG | vtah | vtahG => exact k.rotation _ _ _ _ _ _ _ _ _
  | vld | vlds | vldx | vldb =>
    dsimp only [exec, execVld, execVlds, execVldx, execVldb]
    exact k.vload _ _ _ _ _
  | vldff => exact k.execVldff _ _ _ _ _
  | vldseg => exact k.execVldseg _ _ _ _
  | vst | vsts | vstx | vstb =>
    dsimp only [exec, execVst, execVsts, execVstx, execVstb]
    exact k.vstore _ _ _ _ _
  | vstseg => exact k.execVstseg _ _ _ _ _
  | vamoAdd | vamoMin | vamoMax | vamoSwap => exact k.vamo _ _ _ _ _ _
  | accw => exact k.execAccw _ _ _
  | vacc => exact k.execVacc _ _ _ _ _ _
  | accm | accx => exact k.foldWindow _ _
  | vxlat | vxlatFf => exact k.vxlate _ _ _ _ _ _
  | bind => exact k.execBind _ _
  | unbind => exact k.execUnbind _
  | vfetch => exact k.execVfetch _ _ _
  | lfetch a m w => exact k.execLfetch a m w
  | vjoin => exact k.execVjoin _
  | tmask => exact k.execTmask _ _ _ _
  | tadv => exact k.execTadv _ _ _
  | smax => exact k.execSmax _ _ _ _ _
  | sexp => exact k.execSexp _ _ _ _ _
  | spick => exact k.execSpick _ _ _ _ _
  | srand => exact k.execSrand _ _ _
  | mop => exact k.execMop _ _ _ _ _
  | mopS => exact k.execMopS _ _ _ _ _
  | mopx => exact k.execMopx _ _ _ _ _
  | tattach => exact k.execTattach _
  | ten => exact k.execTen _
  | tdis => exact k.execTdis _
  | tzero => exact k.execTzero _
  | tmovv | tmovvC => exact k.tileToVector _ _ _ _ _
  | tmovt | tmovtC => exact k.vectorToTile _ _ _ _ _
  | tld => exact k.execTld _ _ _ _ _
  | tst => exact k.execTst _ _ _ _ _
  | lpart => exact k.execLpart _
  | cmpt => exact k.execCmpt _ _ _ _
  | scat => exact k.execScat _ _ _ _
  | ecpy | efoot => exact k.submitJob _ _
  | eloop => exact k.execEloop _
  | kfork => exact k.execKfork _ _ _
  | kdrop => exact k.execKdrop _ _ _
  | kspl => exact k.execKspl _ _ _
  | krep => exact k.execKrep _ _ _
  | kprovRd | kprovLive | kprovFree =>
    dsimp only [exec, execKprovRd, execKprovLive, execKprovFree]
    exact k.provenance _ _ _
  | kprovRet =>
    dsimp only [exec, execKprovRet]
    exact k.drainAll.provenance _ _ _
  | kchk | kchkF => exact k.check _ _ _ _
  | odeclR | odeclW => exact k.odecl _ _
  | obeg => exact k.execObeg _
  | sspec => exact k.execSspec _ _
  | sdrain => exact k.execSdrain _
  | wait d a b z sc => exact k.execWait d a b z sc
  | vfull | vempty => exact k.testFull _ _ _
  | hartPlacement => exact k.execHartPlacement _
  | compactionComplete => exact k.execCompactionComplete _
  | streamReadAhead => exact k.execStreamReadAhead _ _
  | hardPreemption => exact (keepsGrant_next _).2 (k.hardPreempt _)
  | copyJob => exact k.execCopyJob _
  | footprintComplete => exact k.execFootprintComplete _
  | codeTableSwap => exact k.execCodeTableSwap _
  | eviction => exact k.execEviction _ _
  | unconsumedError => exact k.execUnconsumedError _
  | spareRemap => exact k.execSpareRemap _ _ _
  | peerPortLost => exact k.execPeerPortLost _
  | eventRingPost => exact k.execEventRingPost _
  | dieJoin => exact k.execDieJoin _
  | aqctl => exact (keepsGrant_next _).2 (k.writeAqctl _)
  | tailq => exact (keepsGrant_next _).2 (k.writeTail _ _)
  | registerWrite => exact k.execRegisterWrite _ _
  | packetFetch => exact k.execPacketFetch _
  | whippletreeIssueCycle => exact k.execWhippletreeIssueCycle _ _
  | illegalInstruction | endk => exact k.illegal
  | accessPerforms => exact k.execAccessPerforms _
  | peerPortRequest => exact k.execPeerPortRequest _ _
  | hostMemoryAccess => exact k.execHostMemoryAccess _
  | eret => exact k.execEret
  | prog => exact k.execProg
  | yield => exact k.execYield
  | halt => exact k.execHalt
  | cvy => exact k.execCvy
  | lstop => exact k.execLstop
  | tdetach => exact k.execTdetach
  | ocom => exact k.execOcom
  | hartWake => exact k.execHartWake
  | hartReclaim => exact k.execHartReclaim
  | producerLands => exact k.execProducerLands
  | softRequestEscalation => exact k.execSoftRequestEscalation
  | energyTick => exact k.execEnergyTick
  | watchdogExpiry => exact k.execWatchdogExpiry
  | handlerOverrun => exact k.execHandlerOverrun
  | gateArrival => exact k.execGateArrival
  | beatEnd => exact (keepsGrant_next _).2 (k.passBeat)
  | batchAppend => exact k.execBatchAppend
  | orderFirstGrant => exact k.execOrderFirstGrant
  | startStage => exact k.execStartStage
  | powerStateChange => exact k.execPowerStateChange
  | qcreate => exact k.execQcreate
  | qdestroy => exact k.execQdestroy
  | load => exact k.execLoad
  | unload => exact k.execUnload
  | launch => exact k.execLaunch
  | release => exact k.execRelease
  | cancel => exact k.execCancel
  | preempt => exact k.execPreempt
  | tlbinv => exact k.execTlbinv
  | kvmap => exact k.execKvmap
  | asidcfg => exact k.execAsidcfg
  | fdring => exact k.execFdring
  | setbeat => exact k.execSetbeat
  | setltol => exact k.execSetltol
  | kvevict => exact k.execKvevict

end Sys2Proof.Machine
end

section
/-! The grants of R15 through the issue of a word and the turns of lanes. -/

namespace Sys2Proof.Machine

/-! ### A turn of the device -/

theorem KeepsGrant.bind {r : Res} (k : KeepsGrant r) {f : State → Res} (keeps : ∀ t, t.GrantInv → KeepsGrant (f t)) :
    KeepsGrant (match r with
      | .next t => f t
      | x => x) := by
  cases r with
  | next t => exact keeps t (k t rfl)
  | fault x => exact keepsGrant_fault x
  | refused x => exact keepsGrant_refused x

theorem Hart.passStreams_w (h : Hart) (i : Instr) : (h.passStreams i).w = h.w := by
  unfold Hart.passStreams
  exact (foldl_keeps_w _ _ (fun _ _ => by rfl) _).trans (foldl_keeps_w _ _ (fun _ _ => by rfl) _)

namespace State.GrantInv

variable {s : State}

theorem withReplicas (k : s.GrantInv) {h : Hart} (w : grantWidth h.w = true) (l : List Replica) :
    ({ s.setHart h with replicas := l } : State).GrantInv := (k.setHart w).of_same rfl rfl

theorem precharge (k : s.GrantInv) (w : BitVec 32) (i : Instr) : (s.precharge w i).GrantInv := by
  have charged : (s.upd fun h => h.spend (s.energyOf h w i)).GrantInv := k.upd (by rw [Hart.spend_w]; exact k.hart)
  unfold State.precharge
  split
  · exact charged
  · exact charged
  · exact k

theorem account (s : State) {t : State} (k : t.GrantInv) (w : BitVec 32) (i : Instr) : (s.account w i t).GrantInv := by
  unfold State.account
  refine k.ite (k.upd ?_)
  simpa using k.hart

theorem completeStrips (k : s.GrantInv) (w : BitVec 32) (i : Instr) : (s.completeStrips w i).GrantInv := k.upd k.hart

theorem beforeLoads (k : s.GrantInv) (w : BitVec 32) : (s.beforeLoads w).GrantInv := k.ite (k.drain _)

theorem joinWord (s : State) {t u : State} (k : t.GrantInv) (w : BitVec 32) (i : Instr) (e : s.joinWord t w i = some u) :
    u.GrantInv := by
  unfold State.joinWord at e
  dsimp only at e
  split at e
  · cases e
  · split at e
    · cases e; exact k.of_others rfl rfl
    · cases e

theorem settleStreams (k : s.GrantInv) (ks : List Nat) : (s.settleStreams ks).GrantInv :=
  State.GrantInv.drain (State.GrantInv.landLates (k.upd (by exact k.hart)) _) _

theorem performWord (k : s.GrantInv) : s.performWord.GrantInv := by
  unfold State.performWord
  dsimp only
  split
  · exact k
  · next x _ =>
    have kt := k.settleStreams x.streams
    split
    · exact kt.withReplicas (by exact kt.hart) _
    · exact kt.setHart kt.hart

theorem settleAll (k : s.GrantInv) : s.settleAll.GrantInv := k.settleLoads.performWord

theorem settleWords (k : s.GrantInv) : s.settleWords.GrantInv :=
  k.foldl _ _ fun _ _ kt => kt.onHart _ _ fun _ ku => ku.performWord

theorem joins (k : s.GrantInv) {w : BitVec 32} {i : Instr} {u : State} (e : s.joins w i = some u) : u.GrantInv := by
  unfold State.joins at e
  split at e
  · cases e
  · split at e
    · next t run =>
      have kt := exec_keepsGrant k i t run
      split at e
      · cases e; exact kt
      · exact kt.joinWord s w i e
    · cases e

theorem execAfterLoads (k : s.GrantInv) (w : BitVec 32) (i : Instr) : KeepsGrant (s.execAfterLoads w i) := by
  unfold State.execAfterLoads
  dsimp only
  have first := k.settleAll.ite k (c := (s.hart.loading && (s.hart.namesLate w || s.hart.meetsWord w i
    || (passesLoads w).isNone)) = true)
  generalize (if (s.hart.loading && (s.hart.namesLate w || s.hart.meetsWord w i || (passesLoads w).isNone)) = true
    then s.settleAll else s) = t at first ⊢
  split
  · next u joined => exact (keepsGrant_next _).2 (first.joins joined)
  · have second := first.settleAll.ite first (c := ((passesLoads w).bind id).any (fun k => t.hart.loadsIn k) = true)
    generalize (if ((passesLoads w).bind id).any (fun k => t.hart.loadsIn k) = true then t.settleAll else t) = u
      at second ⊢
    refine KeepsGrant.bind (exec_keepsGrant (second.beforeLoads w) i) fun v kv => ?_
    exact (exec_keepsGrant (second.settleAll.beforeLoads w) i).ite ((keepsGrant_next _).2 kv)

/-- What `run` does once the word is let issue. -/
theorem issued (k : s.GrantInv) (w : BitVec 32) (i : Instr) :
    KeepsGrant (match ((s.completeStrips w i).precharge w i).hart.restart.filter
        (fun r => !scalarMajor w && !r.ctr.isEmpty && r.ctr.all (fun c => c == 0xFFFF)) with
      | some _ => .next (((s.completeStrips w i).precharge w i).account w i
          (((s.completeStrips w i).precharge w i).upd (fun h => (h.passStreams i).advance 4)))
      | none => match ((s.completeStrips w i).precharge w i).execAfterLoads w i with
        | .next t => .next (((s.completeStrips w i).precharge w i).account w i t)
        | r => r) := by
  have charged := (k.completeStrips w i).precharge w i
  generalize (s.completeStrips w i).precharge w i = t at charged ⊢
  split
  · exact (keepsGrant_next _).2 (account t (charged.upd (by rw [Hart.advance_w, Hart.passStreams_w]; exact charged.hart)) w i)
  · exact KeepsGrant.bind (charged.execAfterLoads w i) fun u ku => (keepsGrant_next _).2 (account t ku w i)

theorem run (k : s.GrantInv) (w : BitVec 32) (i : Instr) : KeepsGrant (s.run w i) := by
  unfold State.run
  dsimp only
  split
  · split
    · next t e => exact issued (by have := k.mayIssue; rw [e] at this; exact this) w i
    · next t e => exact (keepsGrant_next _).2 (by have := k.mayIssue; rw [e] at this; exact this)
  · exact k.issued w i

theorem replayTurn (k : s.GrantInv) (p : Replay) : KeepsGrant (s.replayTurn p) := by
  unfold State.replayTurn
  dsimp only
  refine KeepsGrant.bind (run (k.upd k.hart) _ _) fun t kt => KeepsGrant.ite ?_ ((keepsGrant_next _).2 kt)
  split
  · exact (keepsGrant_next _).2 (kt.upd kt.hart)
  · exact (keepsGrant_next _).2 (kt.upd (by simpa using kt.hart))

/-! ### Lanes -/

theorem laneWord (k : s.GrantInv) (q : Section) (l : Lane) (w : BitVec 32) (i : Instr) {x : Res × List (BitVec 64)}
    (e : s.laneWord q l w i = some x) : KeepsGrant x.1 := by
  have queued : (s.upd fun h => h.setV 31 { h.v 31 with cfg := h.queueCfg i }).GrantInv := k.upd k.hart
  unfold State.laneWord at e
  dsimp only at e
  split at e
  · cases e; exact k.illegal
  · split at e
    · split at e
      · cases e
      · cases e
        exact exec_keepsGrant (queued.upd (by simpa using queued.hart)) i
    · cases e; exact exec_keepsGrant queued i

theorem laneDone (k : s.GrantInv) {q : Section} {e : Nat} {i : Instr} {rest : List (BitVec 64)} {t u : State}
    (kt : t.GrantInv) (done : s.laneDone q e i rest t = some u) : u.GrantInv := by
  unfold State.laneDone at done
  dsimp only at done
  split at done
  · cases done
  · split at done
    · split at done
      · cases done; exact k.upd k.hart
      · split at done
        · cases done
        · cases done
          refine kt.setHart ?_
          rw [show ∀ (h : Hart) (n : Nat) (q : Option Section), ({ h.spend n with sect := q } : Hart).w = (h.spend n).w from
            fun _ _ _ => rfl, Hart.spend_w]
          exact kt.hart
    · cases done

theorem laneIssue (k : s.GrantInv) (q : Section) (l : Lane) : (s.laneIssue q l).1.GrantInv := by
  unfold State.laneIssue
  split
  · exact k
  · exact k.of_same rfl rfl

/-- What the word at a lane's PC, or the fault of its fetch, answers. -/
theorem laneResult (k : s.GrantInv) (q : Section) (l : Lane) {x : Res × List (BitVec 64) × Instr}
    (e : (match s.fetch with
      | .error f => some (s.faultAt f, l.inbox, Instr.lstop)
      | .ok (w, p) =>
        (((s.upd (fun h => h.withWord w p)).beforeLoads w).laneWord q l w (instrOf w p)).map
          (fun (x : Res × List (BitVec 64)) => (x.1, x.2, instrOf w p))) = some x) : KeepsGrant x.1 := by
  split at e
  · cases e; exact k.faultAt _
  · next w p _ =>
    obtain ⟨y, word, rfl⟩ := Option.map_eq_some_iff.1 e
    have noted : (s.upd fun h => h.withWord w p).GrantInv := k.upd k.hart
    exact (noted.beforeLoads w).laneWord q l w _ word

theorem laneStep (k : s.GrantInv) (e : Nat) {r : Res} (step : s.laneStep e = some r) : KeepsGrant r := by
  unfold State.laneStep at step
  split at step
  · next q l _ _ =>
    split at step
    · cases step
    · have ki := k.laneIssue q l
      generalize s.laneIssue q l = p at ki step
      split at step
      · cases step; exact (keepsGrant_next _).2 ki
      · next t =>
        have entered : (t.upd fun h => h.enterLane q l).GrantInv := State.GrantInv.upd ki ki.hart
        dsimp only at step
        split at step
        · cases step
        · next u rest i word =>
          obtain ⟨v, done, rfl⟩ := Option.map_eq_some_iff.1 step
          refine (keepsGrant_next _).2 (State.GrantInv.laneDone ki ?_ done)
          exact entered.laneResult q l word u rfl
        · next x rest i _ word =>
          cases step
          exact entered.laneResult q l word
  · cases step

theorem saveLanes (k : s.GrantInv) (l : Lane) : (s.saveLanes l).GrantInv := by
  have moved : (s.upd fun h => { h with pc := l.pc, ir := 0, irPayload := 0 }).GrantInv := k.upd k.hart
  unfold State.saveLanes
  dsimp only
  generalize (s.upd fun h => { h with pc := l.pc, ir := 0, irPayload := 0 }) = t at moved ⊢
  have noted := fun w => moved.upd (f := fun h => h.withWord w 0) moved.hart
  exact State.GrantInv.taken ((noted _).drainAll.endTx.ite (noted _)) _

theorem lanesTurn (k : s.GrantInv) (q : Section) : KeepsGrant (s.lanesTurn q) := by
  unfold State.lanesTurn
  cases e : q.lanes.findSome? fun l => s.laneStep l.idx with
  | none => exact (keepsGrant_next _).2 k
  | some r =>
    obtain ⟨l, -, step⟩ := List.exists_of_findSome?_eq_some e
    exact k.laneStep _ step

end State.GrantInv

end Sys2Proof.Machine
end

section
/-! The grants of R15 through a lane group's turn, a hart's turn and the step; obligation O7. -/

namespace Sys2Proof.Machine

theorem Hart.endStrips_w (now : Nat) (h : Hart) : (h.endStrips now).w = h.w := rfl

theorem Hart.age_w (h : Hart) : h.age.w = h.w := by
  unfold Hart.age
  exact Hart.ite_w rfl (Hart.setFulls_w _ _ _)

theorem orThen_eq_some {α : Type} {a : Option α} {b : Unit → Option α} {x : α} (e : orThen a b = some x) :
    a = some x ∨ b () = some x := by
  cases a with
  | none => exact .inr e
  | some y => exact .inl e

namespace State.GrantInv

variable {s : State}

/-! ### A lane group that goes ahead -/

theorem slipTo (fuel : Nat) (k : s.GrantInv) {n : Nat} {ws : List SlipWord} {t : State} {l : List SlipWord}
    (e : State.slipTo fuel s n ws = some (t, l)) : t.GrantInv := by
  induction fuel generalizing s n ws with
  | zero => cases e
  | succ fuel ih =>
    unfold State.slipTo at e
    split at e
    · cases e
    · next w p _ =>
      have noted : (s.upd fun h => h.withWord w p).GrantInv := k.upd k.hart
      dsimp only at e
      split at e
      · split at e
        · cases e
        · split at e
          · next u run =>
            split at e
            · exact ih (exec_keepsGrant noted _ u run) e
            · cases e
          · cases e
      · split at e
        · cases e; exact noted
        · exact ih (noted.upd (by rw [Hart.advance_w, Hart.passStreams_w]; exact noted.hart)) e

theorem apart (s : State) {t u : State} (k : t.GrantInv) {g : Nat} {mark : BitVec 16 × Nat}
    (e : s.apart t g mark = some u) : u.GrantInv := by
  unfold State.apart at e
  dsimp only at e
  split at e
  · cases e; exact k.of_others rfl rfl
  · cases e

/-- The books of another state's arbiters are no part of any context. -/
theorem withArbs (k : s.GrantInv) (l : List (Nat × Arbiter)) : ({ s with arbs := l } : State).GrantInv := k.of_same rfl rfl

theorem beginOn (k : s.GrantInv) (r : Restart) (n : Option Nat) :
    ({ s.upd (fun h => { h with restart := some r, limit := n }) with delaying := [] } : State).GrantInv :=
  k.of_others rfl rfl

theorem groupTurn (k : s.GrantInv) (g : Nat) : (s.groupTurn g).GrantInv := by
  unfold State.groupTurn
  dsimp only
  refine k.ite ?_
  split
  · exact k
  · next u ws slipped =>
    have ku := slipTo 64 (k.upd k.hart) slipped
    refine k.ite ?_
    have ka := ku.arbitrate s.hart.core (s.hart.lgb + g) s.hart.id
    generalize u.arbitrate s.hart.core (s.hart.lgb + g) s.hart.id = a at ka ⊢
    split
    · exact k.withArbs _
    · next u' =>
      have other := k.withArbs u'.arbs
      have begun := fun (w : BitVec 32) (i : Instr) (r : Restart) (n : Option Nat) =>
        beginOn ((ka.completeStrips w i).beforeLoads w) r n
      split
      · next t run =>
        have kt := exec_keepsGrant (begun _ _ _ _) _ t run
        refine State.GrantInv.ite (other.getD fun v e => kt.apart _ e) ?_
        split
        · exact other
        · split
          · next t' run' =>
            have kt' := exec_keepsGrant (begun _ _ _ _) _ t' run'
            exact State.GrantInv.ite (other.getD fun v e => kt'.apart _ e) other
          · exact other
      · exact other

/-! ### The turn of a hart -/

theorem issueWord (k : s.GrantInv) (w p : BitVec 32) : KeepsGrant (s.issueWord w p) := by
  have noted : (s.upd fun h => h.withWord w p).GrantInv := k.upd k.hart
  unfold State.issueWord
  dsimp only
  split
  · exact noted.run _ _
  · split
    · exact noted.run _ _
    · exact (k.lanesTurn _).ite (noted.run _ _)
    · exact (noted.run _ _).ite noted.illegal

theorem hartTurn (k : s.GrantInv) (lane group : Option Nat) : KeepsGrant (s.hartTurn lane group) := by
  unfold State.hartTurn
  dsimp only
  have first := k.performWord.ite k (c := (lane.isSome || group.isSome || s.hart.hardReq.isSome) = true)
  generalize (if (lane.isSome || group.isSome || s.hart.hardReq.isSome) = true then s.performWord else s) = t at first ⊢
  refine ((keepsGrant_next _).2 (first.hardPreempt _)).ite (((keepsGrant_next _).2 first).ite ?_)
  split
  · exact (keepsGrant_next _).2 (first.saveLanes _)
  · split
    · next e =>
      cases step : t.laneStep e with
      | none => exact (keepsGrant_next _).2 first
      | some r => exact first.laneStep e step
    · exact (keepsGrant_next _).2 (first.groupTurn _)
    · split
      · exact first.replayTurn _
      · split
        · exact (first.performWord.upd (by exact first.performWord.hart)).fetchFault _
        · exact first.issueWord _ _

/-! ### The device by itself -/

/-- A step that the device finds due is made in a state that keeps the grants. -/
theorem dueCommand (k : s.GrantInv) {t : State} {i : Instr} (e : s.dueCommand = some (t, i)) : t.GrantInv := by
  unfold State.dueCommand at e
  obtain ⟨c, -, ec⟩ := List.exists_of_findSome?_eq_some e
  dsimp only at ec
  split at ec
  · split at ec
    · cases ec; exact k.of_same rfl rfl
    · cases ec
  · cases ec

theorem dueQueue (k : s.GrantInv) {t : State} {i : Instr} (e : s.dueQueue = some (t, i)) : t.GrantInv := by
  unfold State.dueQueue at e
  obtain ⟨c, -, ec⟩ := List.exists_of_findSome?_eq_some e
  dsimp only at ec
  split at ec
  · cases ec; exact k
  · cases ec

theorem dueEvent (k : s.GrantInv) {t : State} {i : Instr} (e : s.dueEvent = some (t, i)) : t.GrantInv := by
  unfold State.dueEvent at e
  obtain ⟨c, -, ec⟩ := List.exists_of_findSome?_eq_some e
  dsimp only at ec
  split at ec
  · cases ec; exact k
  · cases ec

theorem dueJob (k : s.GrantInv) {t : State} {i : Instr} (e : s.dueJob = some (t, i)) : t.GrantInv := by
  unfold State.dueJob at e
  dsimp only at e
  split at e
  · next x found =>
    cases e
    obtain ⟨c, -, ec⟩ := List.exists_of_findSome?_eq_some found
    generalize (if c.kind = 0 then Instr.copyJob (BitVec.ofNat 64 c.id) else Instr.footprintComplete (BitVec.ofNat 64 c.id)) = j
      at ec
    split at ec
    · cases ec; exact k
    · cases ec
  · obtain ⟨c, -, ec⟩ := List.exists_of_findSome?_eq_some e
    split at ec
    · cases ec; exact k
    · cases ec

theorem dueHart (k : s.GrantInv) {t : State} {i : Instr} (e : s.dueHart = some (t, i)) : t.GrantInv := by
  unfold State.dueHart at e
  obtain ⟨h, -, eh⟩ := List.exists_of_findSome?_eq_some e
  obtain ⟨x, -, ex⟩ := Option.map_eq_some_iff.1 eh
  cases ex
  exact k.focus _

theorem dueTime (k : s.GrantInv) {t : State} {i : Instr} (e : s.dueTime = some (t, i)) : t.GrantInv := by
  unfold State.dueTime at e
  split at e
  · cases e; exact k
  · split at e
    · cases e; exact k
    · split at e
      · cases e; exact k
      · cases e

theorem duePlacement (k : s.GrantInv) {t : State} {i : Instr} (e : s.duePlacement = some (t, i)) : t.GrantInv := by
  unfold State.duePlacement at e
  split at e
  · obtain ⟨x, -, ex⟩ := Option.map_eq_some_iff.1 e
    cases ex
    exact k
  · cases e

theorem due (k : s.GrantInv) {t : State} {i : Instr} (e : s.due = some (t, i)) : t.GrantInv := by
  unfold State.due at e
  rcases orThen_eq_some e with e | e
  · exact k.dueCommand e
  rcases orThen_eq_some e with e | e
  · exact k.dueQueue e
  rcases orThen_eq_some e with e | e
  · exact k.dueEvent e
  rcases orThen_eq_some e with e | e
  · exact k.dueJob e
  rcases orThen_eq_some e with e | e
  · exact k.dueHart e
  rcases orThen_eq_some e with e | e
  · exact k.dueTime e
  · exact k.duePlacement e

theorem rotate (k : s.GrantInv) : s.rotate.GrantInv := by
  unfold State.rotate
  split
  · exact k
  · next h found =>
    refine (grantInv_iff _).2 ⟨k.parked h (List.mem_of_find?_eq_some found), fun x hx => ?_⟩
    rcases List.mem_append.1 hx with hx | hx
    · exact k.parked x (List.mem_filter.1 hx).1
    · cases List.mem_singleton.1 hx; exact k.hart

theorem ownTurn (k : s.GrantInv) : KeepsGrant s.ownTurn := by
  have settled := k.settleWords
  unfold State.ownTurn
  dsimp only
  generalize s.settleWords = t at settled ⊢
  split
  · next u i found => exact exec_keepsGrant (settled.due found) i
  · have chosen := settled.ite settled.rotate (c := t.hart.runnable = true)
    generalize (if t.hart.runnable = true then t else t.rotate) = u at chosen ⊢
    refine KeepsGrant.ite ((chosen.hartTurn none none).bind fun v kv => (keepsGrant_next _).2 kv.rotate) ?_
    split
    · exact exec_keepsGrant settled _
    · exact (keepsGrant_next _).2 settled

theorem settleByte (k : s.GrantInv) (a : Nat) : (s.settleByte a).GrantInv :=
  k.settleWords.foldl _ _ fun _ _ kt => kt.onHart _ _ fun _ ku => ku.settleLoads

theorem spoil (k : s.GrantInv) (x : Spoil) : (s.spoil x).GrantInv := by
  cases x with
  | mem pa => exact (k.settleByte pa.toNat).of_same rfl rfl
  | pad a => exact k.settleWords.of_same rfl rfl
  | regs => exact k.upd k.hart

theorem settleFor (k : s.GrantInv) (i : Instr) : (s.settleFor i).GrantInv := by
  unfold State.settleFor
  split
  · exact k.performWord.ite k
  · exact k.settleWords

theorem prepare (k : s.GrantInv) (t : Turn) : (s.prepare t).GrantInv := by
  unfold State.prepare
  refine of_same (s := match t.spoil with
    | some x => (match t.focus with
      | some id => s.focus id
      | none => s).spoil x
    | none => match t.focus with
      | some id => s.focus id
      | none => s) ?_ rfl rfl
  have focused : (match t.focus with
      | some id => s.focus id
      | none => s).GrantInv := by
    split
    · exact k.focus _
    · exact k
  split
  · exact focused.spoil _
  · exact focused

theorem namedTurn (k : s.GrantInv) (t : Turn) : KeepsGrant (s.namedTurn t) := by
  have prepared := k.prepare t
  unfold State.namedTurn
  dsimp only
  split
  · exact (exec_keepsGrant (prepared.settleFor _) _).ite ((keepsGrant_next _).2 prepared)
  · exact prepared.hartTurn _ _

theorem tick (k : s.GrantInv) : s.tick.GrantInv := by
  have later : ({ s with cycle := s.cycle + 1, inHand := none } : State).GrantInv := k.of_same rfl rfl
  have ended := later.mapHarts_of_w (Hart.endStrips_w (s.cycle + 1))
  exact (ended.upd (by rw [Hart.age_w]; exact ended.hart)).passBeat

theorem close (k : s.GrantInv) (hold : Bool) : (s.close hold).GrantInv := by
  unfold State.close
  split
  · exact k.of_same rfl rfl
  · exact k.tick

theorem turn (k : s.GrantInv) : KeepsGrant s.turn := by
  unfold State.turn
  split
  · exact k.ownTurn
  · exact namedTurn (k.of_same (by rfl) (by rfl)) _

end State.GrantInv

/-- Settles O7: a grant changes only where a slot or a new grant is taken, whose widths R15 lists, and a new hart begins
with one. -/
theorem stepKeepsGrantWidths : Obligations.StepKeepsGrantWidths := by
  unfold Obligations.StepKeepsGrantWidths
  intro s t k e
  unfold step at e
  have turned := k.turn
  generalize s.turn = r at e turned
  cases r with
  | next u => cases e; exact (turned u rfl).close _
  | fault f => cases e
  | refused f => cases e

end Sys2Proof.Machine
end

section
/-! The values right after reset; obligation O5. -/

namespace Sys2Proof.Machine

/-- Settles O5: the values stand in `State.reset` and `Hart.blank`; the head's width is the one of EW 6, 32 bits. -/
theorem resetState : Obligations.ResetState := by
  unfold Obligations.ResetState
  refine ⟨⟨rfl, rfl, rfl, rfl, rfl, rfl, rfl, rfl, rfl, rfl, rfl, rfl, rfl, rfl, ?_, fun id info n => ?_⟩, ⟨rfl, rfl⟩, ?_⟩
  · intro h m
    rw [List.mem_singleton.1 m]
    rfl
  · refine ⟨rfl, rfl, rfl, rfl, rfl, rfl, rfl, rfl, rfl, rfl, rfl, rfl, rfl, fun W _ => ?_, fun r _ => ?_⟩
    · have vlmax : ({ Hart.blank id info n with w := W } : Hart).vlmax = 256 * W * 1 / 32 := rfl
      rw [vlmax]
      omega
    · have fresh : (Hart.blank id info n).v r = VReg.fresh := by
        simp [Hart.blank, Hart.v]
      rw [fresh]
      exact ⟨rfl, rfl⟩
  · intro h m
    rw [List.mem_singleton.1 m]
    rfl

end Sys2Proof.Machine
end

section
/-! Reading and writing the named registers; obligation O18. -/

namespace Sys2Proof.Machine

/-! ### Named state -/

theorem State.trowsSeen_eq (s : State) (h : Hart) : s.trowsSeen h =
    if partEn (s.lpart h.core) = true ∧ h.partDue = false ∧ (h.ctx = partHA (s.lpart h.core) ∨ h.ctx = partHB (s.lpart h.core))
    then min 32 h.trows else h.trows := by
  unfold State.trowsSeen
  simp [and_assoc]

theorem exec_gets_named (s : State) (d : Reg) {n : Reg} {v : Word} (mask : n ≠ 6) (flags : n ≠ 5)
    (value : s.namedValue n.toNat = some v) : exec (.gets d n) s = .next (s.wrote d v) := by
  show execGets d n s = _
  unfold execGets
  rw [if_neg mask, value, if_neg flags]
  rfl

theorem exec_gets_cvgm (s : State) (d : Reg) : exec (.gets d 6) s =
    if 8 ≤ d.toNat then s.illegal else .next (s.setHart ((s.hart.landAll.setMask d.toNat s.hart.landAll.cvgm).advance 4)) := rfl

theorem State.namedValue_reserved (s : State) {n : Nat} (reserved : 17 ≤ n) : s.namedValue n = none := by
  obtain ⟨k, rfl⟩ := Nat.exists_eq_add_of_le' reserved
  rfl

theorem ne_of_reserved {n : Reg} (reserved : 17 ≤ n.toNat) : n ≠ 6 := fun e => by
  rw [e] at reserved
  exact absurd reserved (by decide)

theorem exec_gets_reserved (s : State) (d : Reg) {n : Reg} (reserved : 17 ≤ n.toNat) : exec (.gets d n) s = s.illegal := by
  show execGets d n s = _
  unfold execGets
  rw [if_neg (ne_of_reserved reserved), s.namedValue_reserved reserved]

theorem Hart.putNamed_reserved (h : Hart) (v : Word) {n : Nat} (reserved : 17 ≤ n) : h.putNamed n v = none := by
  obtain ⟨k, rfl⟩ := Nat.exists_eq_add_of_le' reserved
  rfl

theorem exec_puts_named (s : State) (a : Reg) {n : Reg} (mask : n ≠ 6) : exec (.puts a n) s =
    (s.hart.putNamed n.toNat (s.hart.rd a)).elim s.illegal s.done := by
  show execPuts a n s = _
  unfold execPuts
  rw [if_neg mask]
  cases s.hart.putNamed n.toNat (s.hart.rd a) <;> rfl

/-- A write of a named register whose range is checked. -/
theorem exec_puts_checked (s : State) (a : Reg) {n : Reg} {c : Prop} [Decidable c] {h : Hart} (mask : n ≠ 6)
    (put : s.hart.putNamed n.toNat (s.hart.rd a) = if c then some h else none) :
    exec (.puts a n) s = if c then .next (s.setHart (h.advance 4)) else s.illegal := by
  rw [exec_puts_named s a mask, put]
  by_cases h : c
  · rw [if_pos h, if_pos h]; rfl
  · rw [if_neg h, if_neg h, Option.elim_none]

theorem exec_puts_refused (s : State) (a : Reg) {n : Reg} (mask : n ≠ 6)
    (put : s.hart.putNamed n.toNat (s.hart.rd a) = none) : exec (.puts a n) s = s.illegal := by
  rw [exec_puts_named s a mask, put, Option.elim_none]

theorem exec_puts_cvgm (s : State) (a : Reg) : exec (.puts a 6) s =
    if a.toNat < 8 then .next (s.setHart ({ s.hart.landAll with cvgm := s.hart.mask a.toNat }.advance 4)) else s.illegal := by
  show execPuts a 6 s = _
  unfold execPuts
  rw [if_pos rfl, show s.hart.mask a.toNat = s.hart.landAll.mask a.toNat by rw [Hart.landAll_eq]; rfl]
  by_cases low : a.toNat < 8
  · rw [if_pos low, if_neg (Nat.not_le.2 low)]; rfl
  · rw [if_neg low, if_pos (Nat.not_lt.1 low)]

/-- Settles O18: each number has one line in `State.namedValue` and in `Hart.putNamed`. -/
theorem namedState : Obligations.NamedState := by
  unfold Obligations.NamedState
  refine ⟨fun s d => ⟨fun n v m => ?_, rfl, fun low => ?_, fun high => ?_, fun n reserved => exec_gets_reserved s d reserved⟩,
    fun s a => ⟨?_, ?_, ?_, ?_, rfl, ?_, ?_, rfl, fun n m => ?_⟩⟩
  · rw [← s.trowsSeen_eq s.hart] at m
    simp only [List.mem_cons, Prod.mk.injEq, List.not_mem_nil, or_false] at m
    obtain ⟨rfl, rfl⟩ | ⟨rfl, rfl⟩ | ⟨rfl, rfl⟩ | ⟨rfl, rfl⟩ | ⟨rfl, rfl⟩ | ⟨rfl, rfl⟩ | ⟨rfl, rfl⟩ | ⟨rfl, rfl⟩ |
      ⟨rfl, rfl⟩ | ⟨rfl, rfl⟩ | ⟨rfl, rfl⟩ | ⟨rfl, rfl⟩ | ⟨rfl, rfl⟩ | ⟨rfl, rfl⟩ | ⟨rfl, rfl⟩ := m
    all_goals exact exec_gets_named s d (by decide) (by decide) rfl
  · rw [exec_gets_cvgm, if_neg (Nat.not_le.2 low)]
    rw [Hart.landAll_eq]
  · rw [exec_gets_cvgm, if_pos high]
  · exact exec_puts_checked s a (by decide) rfl
  · exact exec_puts_cvgm s a
  · exact exec_puts_checked s a (by decide) rfl
  · exact exec_puts_checked s a (by decide) rfl
  · exact exec_puts_checked s a (by decide) rfl
  · exact exec_puts_checked s a (by decide) rfl
  · rcases m with m | reserved
    · simp only [List.mem_cons, List.not_mem_nil, or_false] at m
      obtain rfl | rfl | rfl | rfl | rfl | rfl | rfl | rfl | rfl := m
      all_goals exact exec_puts_refused s a (by decide) rfl
    · exact exec_puts_refused s a (ne_of_reserved reserved) (s.hart.putNamed_reserved _ reserved)

end Sys2Proof.Machine
end

section
/-! The end of a turn by `yield`; obligation O19. -/

namespace Sys2Proof.Machine

/-! ### The end of a turn -/

/-- A hart on core 1 with one lane group, in whose context 5 issue cycles are left there. -/
def yielding : State :=
  { State.reset with
    hart := { State.reset.hart with st := .resident, core := 1 }
    arbs := [(8, { Arbiter.fresh with turn := 1, credit := [5, 0, 0, 0, 0, 0, 0, 0] })] }

/-- The credit that a `yield` of that hart leaves is found on core 1 at lane group 0, and so on core 0 at the lane group 8, which
does not exist. -/
theorem yielding_credit : ∃ t : State, exec .yield yielding = .next t ∧ (t.arb 0 8).credit.getD 0 0 = 0 ∧
    (yielding.arb 0 8).credit.getD 0 0 = 5 := ⟨_, rfl, by decide, by decide⟩

/-- Refutes O19: it says of every number of a lane group on another core that its arbiter stays, also of numbers of 8 and more;
the number 8 on core 0 names the arbiter of lane group 0 on core 1, whose credit `yield` changes. -/
theorem not_turnsAndProgress : ¬ Obligations.TurnsAndProgress := by
  unfold Obligations.TurnsAndProgress
  rintro ⟨yields, -⟩
  obtain ⟨t, run, -, others, -⟩ := yields yielding
  obtain ⟨u, run', after, before⟩ := yielding_credit
  rw [run] at run'
  cases run'
  rw [others 0 8 (.inl (by decide)), before] at after
  exact absurd after (by decide)

end Sys2Proof.Machine
end

section
/-! A plain turn runs the word at the PC; obligation O4. -/

namespace Sys2Proof.Machine

/-! ### Performing loads, words and turns -/

/-- Loads that perform change the hart's registers, what it holds back and what it watches. -/
theorem State.landLates_hart_eq (ls : List LateLoad) (s : State) : ∃ sregs vregs wbuf watch,
    (s.landLates ls).hart = { s.hart with sregs := sregs, vregs := vregs, wbuf := wbuf, watch := watch } := by
  induction ls generalizing s with
  | nil => exact ⟨_, _, _, _, rfl⟩
  | cons l ls ih =>
    obtain ⟨sregs, vregs, eq⟩ := s.landLate_eq l
    obtain ⟨sregs', vregs', wbuf', watch', eq'⟩ := ih (s.landLate l)
    refine ⟨sregs', vregs', wbuf', watch', eq'.trans ?_⟩
    rw [eq, State.upd_hart, State.drain_hart]

theorem State.settleLoads_hart_eq (s : State) : ∃ sregs vregs wbuf watch, s.settleLoads.hart =
    { s.hart with sregs := sregs, vregs := vregs, wbuf := wbuf, late := [], watch := watch } :=
  State.landLates_hart_eq s.hart.late (s.upd fun h => { h with late := [] })

theorem State.settleStreams_late (s : State) (ks : List Nat) :
    (s.settleStreams ks).hart.late = s.hart.late.filter fun l => !ks.contains l.stream := by
  unfold State.settleStreams
  dsimp only
  rw [State.drain_hart]
  exact (State.landLates_hart _ _).2

theorem State.performWord_of_none (s : State) (none : s.hart.lateWord = none) : s.performWord = s := by
  unfold State.performWord
  rw [none]

theorem State.performWord_lateWord (s : State) : s.performWord.hart.lateWord = none := by
  unfold State.performWord
  split
  · assumption
  · dsimp only
    split <;> rfl

theorem State.performWord_late (s : State) (late : s.hart.late = []) : s.performWord.hart.late = [] := by
  have settled := fun ks => s.settleStreams_late ks
  rw [late] at settled
  unfold State.performWord
  split
  · exact late
  · dsimp only
    split <;> exact settled _

theorem State.settleAll_loads (s : State) : s.settleAll.hart.late = [] ∧ s.settleAll.hart.lateWord = none := by
  obtain ⟨sregs, vregs, wbuf, watch, eq⟩ := s.settleLoads_hart_eq
  exact ⟨s.settleLoads.performWord_late (by rw [eq]), s.settleLoads.performWord_lateWord⟩

theorem State.beforeLoads_of_empty (s : State) (w : BitVec 32) (wbuf : s.hart.wbuf = []) : s.beforeLoads w = s := by
  unfold State.beforeLoads
  rw [wbuf]
  rfl

theorem State.beforeLoads_wbuf (s : State) (w : BitVec 32) :
    (s.beforeLoads w).hart.wbuf = s.hart.wbuf.filter fun x => !(loadStreams w).contains x.stream := by
  by_cases wbuf : s.hart.wbuf = []
  · rw [s.beforeLoads_of_empty w wbuf, wbuf]; rfl
  · unfold State.beforeLoads
    rw [if_neg (by simpa using wbuf), State.drain_hart]

theorem State.completeStrips_of_none (s : State) (w : BitVec 32) (i : Instr) (none : s.hart.heldStrips = []) :
    s.completeStrips w i = s := by
  have same : s.hart.heldStrips.filter (fun x => !s.hart.stripFirst w i x) = s.hart.heldStrips := by rw [none]; rfl
  show s.setHart { s.hart with heldStrips := s.hart.heldStrips.filter fun x => !s.hart.stripFirst w i x } = s
  rw [same]
  rfl

theorem State.precharge_of_no_trap (s : State) (w : BitVec 32) (i : Instr) (trap : ∀ c, i ≠ .trap c) (ebreak : i ≠ .ebreak) :
    s.precharge w i = s := by
  unfold State.precharge
  split
  · next c => exact absurd rfl (trap c)
  · exact absurd rfl ebreak
  · rfl

theorem State.execAfterLoads_of_none (s : State) (w : BitVec 32) (i : Instr) (late : s.hart.late = [])
    (word : s.hart.lateWord = none) (prompt : s.delaying = []) : s.execAfterLoads w i = exec i (s.beforeLoads w) := by
  have quiet : s.hart.loading = false := by simp [Hart.loading, late, word]
  have alone : s.joins w i = none := by simp [State.joins, prompt]
  have apart : ∀ k, s.hart.loadsIn k = false := fun k => by simp [Hart.loadsIn, late, word]
  unfold State.execAfterLoads
  simp only [quiet, Bool.false_and, Bool.false_eq_true, if_false, alone, apart, Option.any_false, false_and]
  cases exec i (s.beforeLoads w) <;> rfl

/-! ### Arbitration changes the arbiters only -/

/-- `t` is `s` but for its arbiters. -/
def State.ArbitersOnly (s t : State) : Prop := t = { s with arbs := t.arbs }

namespace State.ArbitersOnly

variable {s t u : State}

theorem refl (s : State) : s.ArbitersOnly s := rfl

theorem trans (h : s.ArbitersOnly t) (k : t.ArbitersOnly u) : s.ArbitersOnly u := by
  rw [ArbitersOnly, h] at k
  exact k

theorem setArb (h : s.ArbitersOnly t) (core lg : Nat) (a : Arbiter) : s.ArbitersOnly (t.setArb core lg a) := h.trans rfl

theorem ite (h : s.ArbitersOnly t) (k : s.ArbitersOnly u) {c : Prop} [Decidable c] : s.ArbitersOnly (if c then t else u) := by
  split
  · exact h
  · exact k

theorem passTurn (h : s.ArbitersOnly t) (core lg : Nat) : s.ArbitersOnly (t.passTurn core lg) := by
  unfold State.passTurn
  dsimp only
  split
  · exact h
  · split
    · exact h
    · exact h.setArb _ _ _

theorem issue (h : s.ArbitersOnly t) (core lg : Nat) (x : Hart) (charge : Bool) : s.ArbitersOnly (t.issue core lg x charge) :=
  h.setArb _ _ _

theorem afterTurn (h : s.ArbitersOnly t) (core lg : Nat) (cand : Bool) : s.ArbitersOnly (t.afterTurn core lg cand) := by
  have passed := (h.ite (h.setArb core lg { t.arb core lg with
    credit := (t.arb core lg).credit.set (t.arb core lg).turn (min ((t.arb core lg).credit.getD (t.arb core lg).turn 0) 0) })
    (c := cand)).passTurn core lg
  unfold State.afterTurn
  dsimp only
  split
  · generalize State.passTurn _ core lg = v at passed
    split
    · refine (passed.issue _ _ _ _).ite (passed.ite ?_)
      split
      · exact passed.issue _ _ _ _
      · exact passed
    · exact passed
  · split
    · exact h.issue _ _ _ _
    · exact h

theorem arbCycle (h : s.ArbitersOnly t) (core lg : Nat) : s.ArbitersOnly (t.arbCycle core lg) := by
  have free : s.ArbitersOnly (t.unchoose core lg) := h.setArb _ _ _
  unfold State.arbCycle
  dsimp only
  split
  · exact (free.issue _ _ _ _).ite (free.afterTurn _ _ _)
  · exact free.afterTurn _ _ _

theorem arbitrate (h : s.ArbitersOnly t) (core lg : Nat) (id : HartId) : s.ArbitersOnly (t.arbitrate core lg id).1 := by
  have turned := h.ite (h.arbCycle core lg) (c := (t.chosenHart core lg).isSome)
  unfold State.arbitrate
  dsimp only
  generalize (if (t.chosenHart core lg).isSome = true then t else t.arbCycle core lg) = v at turned
  split
  · split
    · exact turned.setArb _ _ _
    · exact turned
  · exact turned

theorem mayIssue (s : State) : s.ArbitersOnly s.mayIssue.1 := by
  unfold State.mayIssue
  dsimp only
  generalize s.hart = h
  generalize (List.range h.w).filter _ = l
  have fold : ∀ (t : State) (b : Bool), s.ArbitersOnly t → s.ArbitersOnly (l.foldl (fun r i =>
      ((r.1.arbitrate h.core (h.lgb + i) h.id).1, r.2 && (r.1.arbitrate h.core (h.lgb + i) h.id).2)) (t, b)).1 := by
    induction l with
    | nil => exact fun _ _ k => k
    | cons i l ih => exact fun t b k => ih _ _ (k.arbitrate _ _ _)
  exact fold s true (refl s)

end State.ArbitersOnly

theorem State.ArbitersOnly.hart {s t : State} (h : s.ArbitersOnly t) : t.hart = s.hart := by
  rw [h]

theorem State.mayIssue_hart (s : State) : s.mayIssue.1.hart = s.hart := (State.ArbitersOnly.mayIssue s).hart

/-! ### A plain turn -/

theorem Hart.spend_restart (h : Hart) (n : Nat) : (h.spend n).restart = h.restart := by
  unfold Hart.spend
  split <;> rfl

/-- The result of a word with its books kept. -/
def State.booked (s : State) (w : BitVec 32) (i : Instr) : Res → Res
  | .next t => .next (s.account w i t)
  | r => r

/-- The books of a word that is let issue. -/
theorem State.run_let (s u : State) (w : BitVec 32) (i : Instr) (whole : u.hart.restart = none)
    (issues : s.candidate s.hart = false ∧ u = s ∨ s.candidate s.hart = true ∧ s.mayIssue = (u, true)) :
    s.run w i = ((u.completeStrips w i).precharge w i).booked w i (((u.completeStrips w i).precharge w i).execAfterLoads w i) := by
  have left : ((u.completeStrips w i).precharge w i).hart.restart = none := by
    unfold State.precharge
    split
    · exact (Hart.spend_restart _ _).trans whole
    · exact (Hart.spend_restart _ _).trans whole
    · exact whole
  unfold State.run
  dsimp only
  rcases issues with ⟨stays, rfl⟩ | ⟨may, issues⟩
  · rw [if_neg (by simp [stays]), left, Option.filter_none]
    cases ((u.completeStrips w i).precharge w i).execAfterLoads w i <;> rfl
  · rw [if_pos may, issues]
    dsimp only
    rw [left, Option.filter_none]
    cases ((u.completeStrips w i).precharge w i).execAfterLoads w i <;> rfl

theorem State.run_held (s : State) (w : BitVec 32) (i : Instr) (may : s.candidate s.hart = true) (held : s.mayIssue.2 = false) :
    s.run w i = .next s.mayIssue.1 := by
  unfold State.run
  dsimp only
  rw [if_pos may]
  split
  · next e => rw [e] at held; cases held
  · next e => rw [e]

/-- What a step makes of the result of its turn. -/
def Res.closed (hold : Bool) : Res → Res
  | .next t => .next (t.close hold)
  | .fault f => .fault f
  | .refused r => .refused r

/-- A step whose turn is the plain one of the hart in focus. -/
theorem step_plain (s : State) (hold : Bool) (rest : List Turn) (agenda : s.agenda = { Turn.plain with hold := hold } :: rest) :
    step s = Res.closed hold (({ s with agenda := rest, inHand := none } : State).hartTurn none none) := by
  have turn : s.turn = ({ s with agenda := rest, inHand := none } : State).hartTurn none none := by
    unfold State.turn
    rw [agenda]
    rfl
  have holds : s.holds = hold := by
    unfold State.holds
    rw [agenda]
  unfold step
  rw [turn, holds]
  cases ({ s with agenda := rest, inHand := none } : State).hartTurn none none <;> rfl

section Plain

variable {s : State} (st : s.hart.st = .resident) (sect : s.hart.sect = none) (replay : s.hart.replay = none)
  (hard : s.hart.hardReq = none)

include st sect replay hard

/-- The turn of a resident hart with nothing kept of what it did before runs the word at its PC. -/
theorem State.hartTurn_of_fetch {w p : BitVec 32} (word : s.fetch = .ok (w, p)) :
    s.hartTurn none none = (s.upd fun h => h.withWord w p).run w (instrOf w p) := by
  have runs : s.hart.runnable = true := by simp [Hart.runnable, st]
  have lanes : s.lanesEnded = none := by unfold State.lanesEnded; rw [sect]
  have issues : s.issueWord w p = (s.upd fun h => h.withWord w p).run w (instrOf w p) := by
    unfold State.issueWord
    rw [sect]
  unfold State.hartTurn
  simp [hard, runs, lanes, replay, word, issues]

theorem State.hartTurn_of_fault {f : Flt} (fault : s.fetch = .error f) :
    s.hartTurn none none = (s.performWord.upd fun h => h.withWord 0 0).fetchFault f := by
  have runs : s.hart.runnable = true := by simp [Hart.runnable, st]
  have lanes : s.lanesEnded = none := by unfold State.lanesEnded; rw [sect]
  unfold State.hartTurn
  simp [hard, runs, lanes, replay, fault]

end Plain

/-- Settles O4: the turn is the fetch, `State.run` and the books. -/
theorem stepRunsDecoded : Obligations.StepRunsDecoded := by
  unfold Obligations.StepRunsDecoded
  refine ⟨fun s hold rest agenda st sect replay restart hard => ⟨fun w p word => ?_, fun f fault => ?_⟩,
    fun u w i => ⟨?_, ?_, ?_, ?_, ?_, ?_, ?_, ?_, rfl⟩⟩
  · have turn := step_plain s hold rest agenda
    rw [State.hartTurn_of_fetch (s := { s with agenda := rest, inHand := none }) st sect replay hard word] at turn
    refine ⟨fun stays => ?_, fun may => ⟨State.ArbitersOnly.mayIssue _, fun lets => ?_, fun held => ?_⟩⟩
    · rw [turn, State.run_let _ _ w _ (by exact restart) (.inl ⟨stays, rfl⟩)]
      rfl
    · rw [turn, State.run_let _ _ w _ (by rw [State.mayIssue_hart]; exact restart) (.inr ⟨may, Prod.ext rfl lets⟩)]
      rfl
    · rw [turn, State.run_held _ w _ may held]
      rfl
  · rw [step_plain s hold rest agenda,
      State.hartTurn_of_fault (s := { s with agenda := rest, inHand := none }) st sect replay hard fault]
    rfl
  · exact State.execAfterLoads_of_none u w i
  · exact State.beforeLoads_of_empty u w
  · intro x m
    rw [State.beforeLoads_wbuf] at m
    simpa using m
  · exact State.performWord_of_none u
  · exact u.settleAll_loads.1
  · exact u.settleAll_loads.2
  · exact State.completeStrips_of_none u w i
  · exact State.precharge_of_no_trap u w i

end Sys2Proof.Machine
end

section
/-! What performing accesses and completing commands leave unchanged. -/

namespace Sys2Proof.Machine

/-! ### What performing accesses leaves unchanged -/

/-- `t` is `s` but for what a write to the host's registers can change (R326, R327). -/
def State.HostRegisters (s t : State) : Prop :=
  t = { s with aqbase := t.aqbase, aqctl := t.aqctl, pstate := t.pstate, queues := t.queues, journal := t.journal
               jhead := t.jhead, events := t.events }

namespace State.HostRegisters

variable {s t u : State}

theorem refl (s : State) : s.HostRegisters s := rfl

theorem trans (h : s.HostRegisters t) (k : t.HostRegisters u) : s.HostRegisters u := by
  rw [HostRegisters, h] at k
  exact k

theorem ite (h : s.HostRegisters t) (k : s.HostRegisters u) {c : Prop} [Decidable c] : s.HostRegisters (if c then t else u) := by
  split
  · exact h
  · exact k

theorem note (h : s.HostRegisters t) (q o c x : Nat) (d : BitVec 64) : s.HostRegisters (t.note q o c x d) := by
  refine h.trans ?_
  unfold State.note
  dsimp only
  generalize (t.journal ++ [_] : List JEntry).drop _ = j
  exact rfl

theorem post (h : s.HostRegisters t) (e : FdEvent) : s.HostRegisters (t.post e) := h.trans rfl

theorem setQueue (h : s.HostRegisters t) (q : Nat) (f : Queue → Queue) : s.HostRegisters (t.setQueue q f) := h.trans rfl

theorem withQueues (h : s.HostRegisters t) (l : List Queue) : s.HostRegisters { t with queues := l } := h.trans rfl

theorem withPower (h : s.HostRegisters t) (p : BitVec 3) : s.HostRegisters { t with pstate := p } := h.trans rfl

theorem withBase (h : s.HostRegisters t) (v : BitVec 64) : s.HostRegisters { t with aqbase := v } := h.trans rfl

theorem withControl (h : s.HostRegisters t) (v : BitVec 64) : s.HostRegisters { t with aqctl := v } := h.trans rfl

theorem queueError (h : s.HostRegisters t) (q : Nat) : s.HostRegisters (t.queueError q) :=
  ((h.setQueue _ _).note _ _ _ _ _).post _

theorem powerUp (h : s.HostRegisters t) : s.HostRegisters t.powerUp :=
  ite (ite (h.withPower _) ((h.withPower _).note _ _ _ _ _)) h

theorem writeAqctl (h : s.HostRegisters t) (v : BitVec 64) : s.HostRegisters (t.writeAqctl v) := by
  have set := h.withControl (v &&& aqctlMask)
  unfold State.writeAqctl
  refine powerUp ?_
  dsimp only
  split
  · exact ite (set.setQueue _ _) (ite (set.setQueue _ _) (set.setQueue _ _))
  · exact ite (set.withQueues _) set

theorem writeTail (h : s.HostRegisters t) (q : Nat) (v : BitVec 32) : s.HostRegisters (t.writeTail q v) := by
  unfold State.writeTail
  split
  · exact h
  · exact ite h (ite ((h.setQueue _ _).queueError _) (h.setQueue _ _))

theorem writeReg (h : s.HostRegisters t) (n : Nat) (v : BitVec 64) : s.HostRegisters (t.writeReg n v) := by
  unfold State.writeReg
  refine ite ?_ (ite (h.writeAqctl v) (ite (h.writeTail _ _) h))
  split
  · exact ite h (h.withBase v)
  · exact h.withBase v

theorem barWrite (h : s.HostRegisters t) (o : Nat) (bs : List Byte) : s.HostRegisters (t.barWrite o bs) := h.writeReg _ _

end State.HostRegisters

/-- `t` is `s` but for contexts, memory and scratchpads with their errors, and what a write to the host's registers can change. -/
def State.Accessed (s t : State) : Prop :=
  t = { s with hart := t.hart, parked := t.parked, mem := t.mem, pads := t.pads, poison := t.poison, padPoison := t.padPoison
               aqbase := t.aqbase, aqctl := t.aqctl, pstate := t.pstate, queues := t.queues, journal := t.journal
               jhead := t.jhead, events := t.events }

namespace State.Accessed

variable {s t u : State}

theorem refl (s : State) : s.Accessed s := rfl

theorem trans (h : s.Accessed t) (k : t.Accessed u) : s.Accessed u := by
  rw [Accessed, h] at k
  exact k

theorem of_registers (h : s.HostRegisters t) : s.Accessed t := by
  unfold Accessed
  rw [h]

theorem translate (h : s.Accessed t) : t.translate = s.translate := by
  rw [h]
  rfl

theorem lparts (h : s.Accessed t) : t.lparts = s.lparts := by rw [h]

theorem cmds (h : s.Accessed t) : t.cmds = s.cmds := by rw [h]

theorem launches (h : s.Accessed t) : t.launches = s.launches := by rw [h]

theorem cycle (h : s.Accessed t) : t.cycle = s.cycle := by rw [h]

theorem arbs (h : s.Accessed t) : t.arbs = s.arbs := by rw [h]

theorem granules (h : s.Accessed t) : t.granules = s.granules := by rw [h]

theorem upd (h : s.Accessed t) (f : Hart → Hart) : s.Accessed (t.upd f) := h.trans rfl

theorem mapHarts (h : s.Accessed t) (f : Hart → Hart) : s.Accessed (t.mapHarts f) := h.trans rfl

theorem post (h : s.Accessed t) (e : FdEvent) : s.Accessed (t.post e) := h.trans rfl

theorem note (h : s.Accessed t) (q o c x : Nat) (d : BitVec 64) : s.Accessed (t.note q o c x d) :=
  h.trans (of_registers ((HostRegisters.refl t).note q o c x d))

theorem commitMem (h : s.Accessed t) (a : Nat) (bs : List Byte) : s.Accessed (t.commitMem a bs) := by
  unfold State.commitMem
  split
  · exact h.trans (of_registers ((HostRegisters.refl t).barWrite _ _))
  · exact h.trans rfl

theorem commit (h : s.Accessed t) (pad : Bool) (a : Nat) (bs : List Byte) : s.Accessed (t.commit pad a bs) := by
  cases pad with
  | true => exact h.trans rfl
  | false => exact h.commitMem a bs

theorem putDevice (h : s.Accessed t) (a : Nat) (bs : List Byte) : s.Accessed (t.putDevice a bs) := by
  unfold State.putDevice
  split
  · exact h
  · exact h.commitMem a bs

theorem drainList (sel : Nat → Bool) (ws : List HeldWrite) (h : s.Accessed t) : s.Accessed (t.drainList sel ws) := by
  induction ws generalizing t with
  | nil => exact h
  | cons w ws ih =>
    unfold State.drainList
    split
    · exact ih (h.commit _ _ _)
    · exact ih h

theorem drain (h : s.Accessed t) (sel : Nat → Bool) : s.Accessed (t.drain sel) := drainList sel _ (h.upd _)

theorem drainAll (h : s.Accessed t) : s.Accessed t.drainAll := h.drain _

theorem landLate (h : s.Accessed t) (l : LateLoad) : s.Accessed (t.landLate l) := by
  obtain ⟨sregs, vregs, eq⟩ := t.landLate_eq l
  rw [eq]
  exact (h.drain _).upd _

theorem landLates (h : s.Accessed t) (ls : List LateLoad) : s.Accessed (t.landLates ls) := by
  induction ls generalizing t with
  | nil => exact h
  | cons l ls ih => exact ih (h.landLate l)

theorem settleLoads (h : s.Accessed t) : s.Accessed t.settleLoads := (h.upd _).landLates _

theorem putWords {h : Hart} (ws : List (Nat × Nat)) (k : s.Accessed t) (e : t.putWords h ws = some u) : s.Accessed u := by
  induction ws generalizing t with
  | nil => cases e; exact k
  | cons w ws ih =>
    obtain ⟨o, v⟩ := w
    unfold State.putWords at e
    split at e
    · cases e
    · exact ih (k.commitMem _ _) e

end State.Accessed

/-! ### Memory after held writes have performed -/

/-- What a held write makes of memory when it performs: one behind a BAR0 page or to a scratchpad leaves it. -/
def HeldWrite.stored (m : List Host.Cell) (w : HeldWrite) : List Host.Cell :=
  if w.pad = true ∨ barBase ≤ w.addr then m else memStore m w.addr w.data

theorem State.commit_mem (s : State) (w : HeldWrite) : (s.commit w.pad w.addr w.data).mem = w.stored s.mem := by
  unfold State.commit HeldWrite.stored
  by_cases pad : w.pad = true
  · rw [if_pos pad, if_pos (.inl pad)]
    rfl
  · rw [if_neg pad, State.commitMem]
    by_cases bar : barBase ≤ w.addr
    · rw [if_pos bar, if_pos (.inr bar)]
      exact (State.barWrite_registersOnly s _ _).2.2.1
    · rw [if_neg bar, if_neg (by simp [pad, bar])]

theorem State.drainList_mem (sel : Nat → Bool) (ws : List HeldWrite) (s : State) :
    (s.drainList sel ws).mem = (ws.filter fun w => sel w.stream).foldl HeldWrite.stored s.mem := by
  induction ws generalizing s with
  | nil => rfl
  | cons w ws ih =>
    unfold State.drainList
    rw [ih]
    by_cases h : sel w.stream = true
    · rw [if_pos h, List.filter_cons, if_pos h, List.foldl_cons, State.commit_mem]
    · rw [if_neg h, List.filter_cons, if_neg h]

theorem State.drain_mem (s : State) (sel : Nat → Bool) :
    (s.drain sel).mem = (s.hart.wbuf.filter fun w => sel w.stream).foldl HeldWrite.stored s.mem :=
  State.drainList_mem sel _ _

theorem State.drainAll_mem (s : State) : s.drainAll.mem = s.hart.wbuf.foldl HeldWrite.stored s.mem := by
  rw [State.drainAll, State.drain_mem, List.filter_true]

theorem State.commitMem_mem (s : State) {a : Nat} (bs : List Byte) (low : a < barBase) :
    (s.commitMem a bs).mem = memStore s.mem a bs := by
  rw [State.commitMem, if_neg (Nat.not_le.2 low)]

/-! ### Completion of a command -/

theorem Cmd.d_eq (c : Cmd) {n : Nat} (h : n < 8) : c.d n = (c.pkt[n]).toNat := by
  unfold Cmd.d
  rw [List.getD_eq_getElem _ _ (by simpa using h)]
  simp

/-- Where a command's completion doubleword stands. -/
theorem Cmd.completion_address (c : Cmd) : bits (c.pkt[7]).toNat 0 56 = c.d 7 % 2 ^ 56 := by
  rw [c.d_eq (by decide)]
  simp [bits]

theorem State.putDevice_journal (s : State) (a : Nat) (bs : List Byte) : (s.putDevice a bs).journal = s.journal := by
  unfold State.putDevice
  split
  · rfl
  · next inside =>
    have low : ¬ barBase ≤ a := by simp only [hbmBytes, barBase] at inside ⊢; omega
    rw [State.commitMem, if_neg low]
    rfl

theorem State.putDevice_contexts (s : State) (a : Nat) (bs : List Byte) : (s.putDevice a bs).contexts = s.contexts := by
  by_cases inside : a + bs.length ≤ hbmBytes
  · exact (s.putDevice_hbm a bs inside).2.2
  · rw [State.putDevice, if_pos (Nat.not_le.1 inside)]

/-- A write of the device touches the bytes it names, if any. -/
theorem State.putDevice_other (s : State) (a : Nat) (bs : List Byte) (inv : s.MemInv) {x : Nat}
    (outside : x < a ∨ a + bs.length ≤ x) : memGet (s.putDevice a bs).mem x = memGet s.mem x := by
  by_cases inside : a + bs.length ≤ hbmBytes
  · rw [(s.putDevice_hbm a bs inside).1, memGet_memStore_other bs s.mem a x inv.1 outside]
  · rw [State.putDevice, if_pos (Nat.not_le.1 inside)]

/-- A command's journal entry and completion doubleword. -/
def State.told (s : State) (c : Cmd) (outcome : Nat) : State :=
  if c.d 7 % 2 ^ 56 = 0 then s.note c.queue (bits (c.pkt[0]).toNat 0 8) 1 outcome c.seq
  else (s.note c.queue (bits (c.pkt[0]).toNat 0 8) 1 outcome c.seq).putDevice (c.d 7 % 2 ^ 56)
    (natLe 8 (c.seq.toNat * 2 ^ 16 + outcome))

theorem State.complete_eq (s : State) (c : Cmd) (outcome : Nat) :
    s.complete c outcome = { s.told c outcome with cmds := (s.told c outcome).cmds.filter fun x => !decide (x.seq = c.seq) } := by
  unfold State.complete State.told
  rw [c.completion_address]
  rfl

theorem State.told_accessed (s : State) (c : Cmd) (outcome : Nat) : s.Accessed (s.told c outcome) := by
  have noted := (State.Accessed.refl s).note c.queue (bits (c.pkt[0]).toNat 0 8) 1 outcome c.seq
  unfold State.told
  split
  · exact noted
  · exact noted.putDevice _ _

theorem State.told_journal (s : State) (c : Cmd) (outcome : Nat) :
    (s.told c outcome).journal = (s.note c.queue (bits (c.pkt[0]).toNat 0 8) 1 outcome c.seq).journal := by
  unfold State.told
  split
  · rfl
  · exact State.putDevice_journal _ _ _

theorem State.note_contexts (s : State) (q o c x : Nat) (d : BitVec 64) : (s.note q o c x d).contexts = s.contexts := by
  obtain ⟨hart, parked, -⟩ := s.note_registersOnly q o c x d
  unfold State.contexts State.harts
  rw [hart, parked]

theorem State.told_contexts (s : State) (c : Cmd) (outcome : Nat) : (s.told c outcome).contexts = s.contexts := by
  unfold State.told
  split
  · exact s.note_contexts _ _ _ _ _
  · exact (State.putDevice_contexts _ _ _).trans (s.note_contexts _ _ _ _ _)

theorem State.note_mem (s : State) (q o c x : Nat) (d : BitVec 64) : (s.note q o c x d).mem = s.mem :=
  (s.note_registersOnly q o c x d).2.2.1

theorem State.told_memInv (s : State) (c : Cmd) (outcome : Nat) (inv : s.MemInv) : (s.told c outcome).MemInv := by
  have noted := s.note_memInv c.queue (bits (c.pkt[0]).toNat 0 8) 1 outcome c.seq inv
  unfold State.told
  split
  · exact noted
  · exact State.putDevice_memInv _ _ _ noted

theorem State.told_other (s : State) (c : Cmd) (outcome : Nat) (inv : s.MemInv) {x : Nat}
    (outside : x < c.d 7 % 2 ^ 56 ∨ c.d 7 % 2 ^ 56 + 8 ≤ x) : memGet (s.told c outcome).mem x = memGet s.mem x := by
  have noted := s.note_memInv c.queue (bits (c.pkt[0]).toNat 0 8) 1 outcome c.seq inv
  unfold State.told
  split
  · rw [State.note_mem]
  · rw [State.putDevice_other _ _ _ noted (by rwa [natLe_length]), State.note_mem]

theorem State.complete_memInv (s : State) (c : Cmd) (outcome : Nat) (inv : s.MemInv) : (s.complete c outcome).MemInv := by
  rw [State.complete_eq]
  exact s.told_memInv c outcome inv

theorem State.complete_contexts (s : State) (c : Cmd) (outcome : Nat) : (s.complete c outcome).contexts = s.contexts := by
  rw [State.complete_eq]
  exact s.told_contexts c outcome

theorem State.complete_other (s : State) (c : Cmd) (outcome : Nat) (inv : s.MemInv) {x : Nat}
    (outside : x < c.d 7 % 2 ^ 56 ∨ c.d 7 % 2 ^ 56 + 8 ≤ x) : memGet (s.complete c outcome).mem x = memGet s.mem x := by
  rw [State.complete_eq]
  exact s.told_other c outcome inv outside

theorem State.complete_completes (s : State) (c : Cmd) (outcome : Nat) (inv : s.MemInv) :
    Completes (s.complete c outcome) c outcome := by
  rw [State.complete_eq]
  refine ⟨fun x m => by simpa using (List.mem_filter.1 m).2, fun named inside => ?_, ?_⟩
  · have noted := s.note_memInv c.queue (bits (c.pkt[0]).toNat 0 8) 1 outcome c.seq inv
    show memRead (s.told c outcome).mem _ 8 = _
    unfold State.told
    rw [if_neg named, (State.putDevice_hbm _ _ _ (by rwa [natLe_length])).1,
      memRead_memStore_natLe _ _ _ _ noted.1, show (256 : Nat) ^ 8 = 2 ^ 64 by norm_num]
  · obtain ⟨e, last, -, queue, -, kind, out, detail⟩ :=
      s.note_journal_getLast? c.queue (bits (c.pkt[0]).toNat 0 8) 1 outcome c.seq
    exact ⟨e, (congrArg List.getLast? (s.told_journal c outcome)).trans last, kind, out, detail, queue⟩

theorem State.complete_quietlyCompletes (s : State) (c : Cmd) (outcome : Nat) (inv : s.MemInv) :
    QuietlyCompletes s (s.complete c outcome) c outcome :=
  ⟨s.complete_completes c outcome inv, s.complete_contexts c outcome, fun _ => s.complete_other c outcome inv⟩

/-- The same contexts make the same focused hart, but for what it watches. -/
theorem State.hart_of_contexts {s t : State} (h : t.contexts = s.contexts) :
    t.hart = { s.hart with watch := t.hart.watch } ∧ t.others = s.others := by
  obtain ⟨hart, others⟩ := List.cons.inj h
  exact ⟨congrArg (fun x : Hart => { x with watch := t.hart.watch }) hart, others⟩

end Sys2Proof.Machine
end

section
/-! A hart that retires, and the end of its launch; obligation O20. -/

namespace Sys2Proof.Machine

/-! ### The end of a launch -/

theorem State.contexts_eq (s : State) : s.contexts = { s.hart with watch := Watch.none } :: s.others := rfl

theorem State.commitMem_contexts (s : State) (a : Nat) (bs : List Byte) : (s.commitMem a bs).contexts = s.contexts := by
  have hart := s.commit_hart false a bs
  have others := s.commit_others false a bs
  show (s.commit false a bs).contexts = _
  rw [State.contexts_eq, State.contexts_eq, others, hart]

/-- The completion doubleword of a launch's RCB written, and its replicas dropped (R10, R211). -/
def State.doneTold (s : State) (l : Launch) : State :=
  let v := if l.cancelled then 2 ^ 64 - 1 else l.donev.toNat
  let s := { s with replicas := s.replicas.filter (fun r => !decide (r.seq = l.seq)) }
  if l.donea = 0 then s
  else match s.translate l.info.asid .write (l.donea.setWidth 64) with
    | .ok p => s.commitMem p.pa (natLe 8 v)
    | .error _ => s

/-- `t` is `s` but for launches, commands and replicas, and what accesses change. -/
def State.LaunchesOnly (s t : State) : Prop :=
  ({ s with cmds := t.cmds, launches := t.launches, replicas := t.replicas } : State).Accessed t

theorem State.LaunchesOnly.of_accessed {s t : State} (h : s.Accessed t) : s.LaunchesOnly t := by
  unfold State.LaunchesOnly
  rw [h]
  rfl

theorem State.LaunchesOnly.trans {s t u : State} (h : s.LaunchesOnly t) (k : t.LaunchesOnly u) : s.LaunchesOnly u := by
  unfold State.LaunchesOnly State.Accessed at h k ⊢
  rw [h] at k
  exact k

theorem State.doneTold_spec (s : State) (l : Launch) : s.LaunchesOnly (s.doneTold l) ∧ (s.doneTold l).contexts = s.contexts ∧
    (s.doneTold l).cmds = s.cmds ∧ (s.doneTold l).launches = s.launches := by
  unfold State.doneTold
  dsimp only
  split
  · exact ⟨rfl, rfl, rfl, rfl⟩
  · split
    · next p _ =>
      have put := (State.Accessed.refl { s with replicas := s.replicas.filter fun r => !decide (r.seq = l.seq) }).commitMem p.pa
        (natLe 8 (if l.cancelled = true then 2 ^ 64 - 1 else l.donev.toNat))
      have dropped : s.LaunchesOnly { s with replicas := s.replicas.filter fun r => !decide (r.seq = l.seq) } := rfl
      exact ⟨dropped.trans (.of_accessed put), State.commitMem_contexts _ _ _, put.cmds, put.launches⟩
    · exact ⟨rfl, rfl, rfl, rfl⟩

theorem State.finishLaunch_of_some (s : State) (l : Launch) {c : Cmd}
    (found : s.cmds.find? (fun c => decide (c.seq = l.seq)) = some c) : s.finishLaunch l =
      ({ s.doneTold l with launches := s.launches.filter fun x => !decide (x.seq = l.seq) } : State).complete c
        (if l.cancelled then 4 else 0) := by
  obtain ⟨-, -, cmds, launches⟩ := s.doneTold_spec l
  have unfolded : s.finishLaunch l =
    match (s.doneTold l).cmds.find? (fun c => decide (c.seq = l.seq)) with
    | some c => ({ s.doneTold l with launches := (s.doneTold l).launches.filter fun x => !decide (x.seq = l.seq) } : State).complete
        c (if l.cancelled then 4 else 0)
    | none => { s.doneTold l with launches := (s.doneTold l).launches.filter fun x => !decide (x.seq = l.seq) } := rfl
  rw [unfolded, cmds, found, launches]

theorem State.finishLaunch_of_none (s : State) (l : Launch)
    (found : s.cmds.find? (fun c => decide (c.seq = l.seq)) = none) : s.finishLaunch l =
      { s.doneTold l with launches := s.launches.filter fun x => !decide (x.seq = l.seq) } := by
  obtain ⟨-, -, cmds, launches⟩ := s.doneTold_spec l
  have unfolded : s.finishLaunch l =
    match (s.doneTold l).cmds.find? (fun c => decide (c.seq = l.seq)) with
    | some c => ({ s.doneTold l with launches := (s.doneTold l).launches.filter fun x => !decide (x.seq = l.seq) } : State).complete
        c (if l.cancelled then 4 else 0)
    | none => { s.doneTold l with launches := (s.doneTold l).launches.filter fun x => !decide (x.seq = l.seq) } := rfl
  rw [unfolded, cmds, found, launches]


theorem State.finishLaunch_spec (s : State) (l : Launch) : s.LaunchesOnly (s.finishLaunch l) ∧
    (s.finishLaunch l).contexts = s.contexts ∧
    (s.finishLaunch l).launches = s.launches.filter fun x => !decide (x.seq = l.seq) := by
  obtain ⟨frame, contexts, -, -⟩ := s.doneTold_spec l
  have dropped := frame.trans (u := { s.doneTold l with launches := s.launches.filter fun x => !decide (x.seq = l.seq) }) rfl
  cases found : s.cmds.find? (fun c => decide (c.seq = l.seq)) with
  | none =>
    rw [s.finishLaunch_of_none l found]
    exact ⟨dropped, contexts, rfl⟩
  | some c =>
    rw [s.finishLaunch_of_some l found]
    refine ⟨?_, (State.complete_contexts _ _ _).trans contexts, ?_⟩
    · rw [State.complete_eq]
      exact (dropped.trans (.of_accessed (State.told_accessed _ _ _))).trans rfl
    · rw [State.complete_eq]
      exact (State.told_accessed _ _ _).launches

/-- The launch with one hart fewer. -/
def Launch.less (l : Launch) (cancelled : Bool) : Launch := { l with left := l.left - 1, cancelled := l.cancelled || cancelled }

theorem State.launchLess_of_none (s : State) {seq : BitVec 64} (b : Bool)
    (found : s.launches.find? (fun l => decide (l.seq = seq)) = none) : s.launchLess seq b = s := by
  unfold State.launchLess
  rw [found]

theorem State.launchLess_of_some (s : State) {seq : BitVec 64} (b : Bool) {l : Launch}
    (found : s.launches.find? (fun l => decide (l.seq = seq)) = some l) : s.launchLess seq b =
      if l.left - 1 = 0 then
        ({ s with launches := s.launches.map fun x => if x.seq = seq then l.less b else x } : State).finishLaunch (l.less b)
      else { s with launches := s.launches.map fun x => if x.seq = seq then l.less b else x } := by
  unfold State.launchLess
  rw [found]
  rfl

theorem State.launchLess_spec (s : State) (seq : BitVec 64) (b : Bool) : s.LaunchesOnly (s.launchLess seq b) ∧
    (s.launchLess seq b).contexts = s.contexts := by
  cases found : s.launches.find? (fun l => decide (l.seq = seq)) with
  | none =>
    rw [s.launchLess_of_none b found]
    exact ⟨rfl, rfl⟩
  | some l =>
    rw [s.launchLess_of_some b found]
    have fewer : s.LaunchesOnly { s with launches := s.launches.map fun x => if x.seq = seq then l.less b else x } := rfl
    split
    · obtain ⟨frame, contexts, -⟩ := State.finishLaunch_spec
        { s with launches := s.launches.map fun x => if x.seq = seq then l.less b else x } (l.less b)
      exact ⟨fewer.trans frame, contexts⟩
    · exact ⟨fewer, rfl⟩

/-- The launches that stand when one of them ends. -/
theorem Launch.filter_map_less (ls : List Launch) (l : Launch) (b : Bool) :
    (ls.map fun x => if x.seq = l.seq then l.less b else x).filter (fun x => !decide (x.seq = l.seq)) =
      ls.filter (fun x => decide (x.seq ≠ l.seq)) := by
  induction ls with
  | nil => rfl
  | cons x xs ih =>
    rw [List.map_cons, List.filter_cons, List.filter_cons, ih]
    by_cases same : x.seq = l.seq
    · simp [same, Launch.less]
    · simp [same]

/-! ### A hart that retires -/

/-- Ending the partition may mark the hart to take a new grant, and no more. -/
theorem State.endPartition_hart (s : State) : ∃ due, s.endPartition.hart = { s.hart with partDue := due } := by
  unfold State.endPartition
  dsimp only
  split
  · show ∃ due, (ite _ _ _ : Hart) = _
    split
    · exact ⟨true, rfl⟩
    · exact ⟨s.hart.partDue, rfl⟩
  · exact ⟨s.hart.partDue, rfl⟩

/-- The state of a hart that retires, before its launch loses it: the transaction and the partition ended, credits 0, the
context closed. -/
def State.closed (s : State) : State :=
  let s := s.endTx.endPartition
  (if s.hart.onCore then s.creditAll s.hart (fun _ => 0) else s).upd Hart.close

theorem State.retire_eq (s : State) (b : Bool) : s.retire b = s.closed.launchLess s.hart.id.seq b := by
  have same : s.endTx.endPartition.hart.id = s.hart.id := by
    obtain ⟨due, eq⟩ := s.endTx.endPartition_hart
    rw [eq]
    rfl
  unfold State.retire State.closed
  dsimp only
  rw [← same]
  split
  · rw [State.creditAll_eq]
  · rfl


/-- `t` is `s` but for contexts, arbiters, granules with their merged order, and the partitions. -/
def State.LeavesOnly (s t : State) : Prop :=
  t = { s with hart := t.hart, parked := t.parked, arbs := t.arbs, granules := t.granules, merged := t.merged, lparts := t.lparts }

theorem State.LeavesOnly.trans {s t u : State} (h : s.LeavesOnly t) (k : t.LeavesOnly u) : s.LeavesOnly u := by
  unfold State.LeavesOnly at h k ⊢
  rw [h] at k
  exact k

theorem State.endTx_leavesOnly (s : State) : s.LeavesOnly s.endTx := rfl

theorem State.endPartition_leavesOnly (s : State) : s.LeavesOnly s.endPartition := by
  unfold State.endPartition
  dsimp only
  split <;> exact rfl

theorem State.closed_leavesOnly (s : State) : s.LeavesOnly s.closed := by
  have ended := s.endTx_leavesOnly.trans s.endTx.endPartition_leavesOnly
  unfold State.closed
  dsimp only
  split
  · rw [State.creditAll_eq]
    exact ended.trans rfl
  · exact ended.trans rfl

theorem State.closed_granules (s : State) : s.closed.granules = s.endTx.granules := by
  have ended : s.endTx.endPartition.granules = s.endTx.granules := by
    unfold State.endPartition
    dsimp only
    split <;> exact rfl
  rw [← ended]
  unfold State.closed
  dsimp only
  split
  · rw [State.creditAll_eq]
    rfl
  · rfl

theorem State.closed_hart (s : State) : s.closed.hart = s.endTx.hart.close := by
  obtain ⟨due, eq⟩ := s.endTx.endPartition_hart
  have hart : s.closed.hart = s.endTx.endPartition.hart.close := by
    unfold State.closed
    dsimp only
    split
    · rw [State.creditAll_eq]
      rfl
    · rfl
  rw [hart, eq]
  rfl

theorem State.closed_lparts (s : State) : s.closed.lparts = s.endTx.endPartition.lparts := by
  unfold State.closed
  dsimp only
  split
  · rw [State.creditAll_eq]
    rfl
  · rfl

/-- Granting in a queue changes no entry's hart. -/
theorem grantQueue_who {a b : Bool} {q : List QueueEntry} {e : QueueEntry} (m : e ∈ grantQueue a b q) :
    ∃ e' ∈ q, e'.who = e.who := by
  induction q generalizing a b with
  | nil => cases m
  | cons x xs ih =>
    unfold grantQueue at m
    rcases List.mem_cons.1 m with rfl | m
    · exact ⟨x, List.mem_cons_self, rfl⟩
    · obtain ⟨e', mem, who⟩ := ih m
      exact ⟨e', List.mem_cons_of_mem _ mem, who⟩

/-- No queue holds a hart whose transaction has ended (R312). -/
theorem State.endTx_no_entry (s : State) : ∀ q ∈ s.endTx.granules, ∀ e ∈ q.2, e.who ≠ s.hart.id := by
  intro q mq e me
  obtain ⟨p, -, rfl⟩ := List.mem_map.1 (List.mem_filter.1 mq).1
  obtain ⟨e', mem, who⟩ := grantQueue_who me
  rw [← who]
  simpa using (List.mem_filter.1 mem).2

theorem lookupD_assign_same {κ α : Type} [DecidableEq κ] (l : List (κ × α)) (k : κ) (v d : α) :
    lookupD (assign l k v) k d = v := by
  unfold assign lookupD
  rw [if_pos rfl]

/-- A partition in which a retiring hart has a part is switched off (R241). -/
theorem State.endPartition_partEn (s : State) (onCore : s.hart.onCore = true) (en : partEn (s.lpart s.hart.core) = true)
    (part : s.hart.ctx = partHA (s.lpart s.hart.core) ∨ s.hart.ctx = partHB (s.lpart s.hart.core)) :
    partEn (s.endPartition.lpart s.hart.core) = false := by
  have named : (s.hart.onCore && partEn (s.lpart s.hart.core) &&
      (s.hart.ctx == partHA (s.lpart s.hart.core) || s.hart.ctx == partHB (s.lpart s.hart.core))) = true := by
    simpa [onCore, en] using part
  unfold State.endPartition
  dsimp only
  rw [if_pos named]
  show partEn (lookupD (assign _ _ _) _ _) = false
  rw [lookupD_assign_same]
  simp [partEn]


theorem Hart.close_gen (h : Hart) (i : Nat) : (h.close.gen i).bound = false := by
  unfold Hart.gen Hart.close
  simp

theorem Hart.close_window (h : Hart) (i : Nat) : (h.close.window i).opened = false := by
  unfold Hart.window Hart.close
  simp

/-- What the hart had issued has landed and performed. -/
def State.finished (s : State) : State := (s.upd Hart.landAll).drainAll

theorem State.finished_accessed (s : State) : s.Accessed s.finished := ((State.Accessed.refl s).upd _).drainAll

theorem State.finished_mem (s : State) : s.finished.mem = s.drainAll.mem := by
  rw [State.finished, State.drainAll_mem, State.drainAll_mem, State.upd_hart, Hart.landAll_eq]
  rfl

theorem State.finished_hart (s : State) : ∃ vregs watch, s.finished.hart =
    { s.hart with vregs := vregs, pend := [], heldStrips := [], wbuf := [], watch := watch } := by
  refine ⟨s.hart.landAll.vregs, s.finished.hart.watch, ?_⟩
  have drained := State.drain_hart (s.upd Hart.landAll) (fun _ => true)
  unfold State.finished State.drainAll
  rw [drained, State.upd_hart, Hart.landAll_eq]
  simp

theorem exec_halt_of_lane {s : State} (lane : s.hart.lane.isSome = true) : exec .halt s = s.illegal := by
  show execHalt s = _
  unfold execHalt
  rw [if_pos lane]

theorem exec_halt {s : State} (lane : s.hart.lane = none) : exec .halt s = .next (s.finished.retire false) := by
  show execHalt s = _
  unfold execHalt
  rw [lane]
  rfl


/-- What a retired hart's context holds. -/
theorem State.retire_hart (s : State) (b : Bool) : ∃ watch, (s.retire b).hart = { s.endTx.hart.close with watch := watch } := by
  rw [State.retire_eq]
  obtain ⟨-, contexts⟩ := s.closed.launchLess_spec s.hart.id.seq b
  obtain ⟨hart, -⟩ := State.hart_of_contexts contexts
  exact ⟨_, by rw [hart, State.closed_hart]⟩

theorem State.LaunchesOnly.granules {s t : State} (h : s.LaunchesOnly t) : t.granules = s.granules := by
  have only : ({ s with cmds := t.cmds, launches := t.launches, replicas := t.replicas } : State).Accessed t := h
  exact only.granules

theorem State.LaunchesOnly.lparts {s t : State} (h : s.LaunchesOnly t) : t.lparts = s.lparts := by
  have only : ({ s with cmds := t.cmds, launches := t.launches, replicas := t.replicas } : State).Accessed t := h
  exact only.lparts

theorem State.retire_no_entry (s : State) (b : Bool) : ∀ q ∈ (s.retire b).granules, ∀ e ∈ q.2, e.who ≠ s.hart.id := by
  obtain ⟨frame, -⟩ := s.closed.launchLess_spec s.hart.id.seq b
  rw [State.retire_eq, frame.granules, State.closed_granules]
  exact s.endTx_no_entry

theorem State.retire_lpart (s : State) (b : Bool) (core : Nat) :
    (s.retire b).lpart core = s.endTx.endPartition.lpart core := by
  obtain ⟨frame, -⟩ := s.closed.launchLess_spec s.hart.id.seq b
  unfold State.lpart
  rw [State.retire_eq, frame.lparts, State.closed_lparts]

/-- The launch of a retiring hart, when it is not the last one. -/
theorem State.retire_of_more (s : State) {l : Launch} (found : s.launches.find? (fun l => decide (l.seq = s.hart.id.seq)) = some l)
    (more : 1 < l.left) : (s.retire false).mem = s.mem ∧ (s.retire false).launches =
      s.launches.map (fun x => if x.seq = s.hart.id.seq then { l with left := l.left - 1 } else x) := by
  have kept := s.closed_leavesOnly
  have less : l.less false = { l with left := l.left - 1 } := by
    unfold Launch.less
    rw [Bool.or_false]
  rw [State.retire_eq, State.launchLess_of_some _ _ (by rw [kept]; exact found), if_neg (by omega), less, kept]
  exact ⟨rfl, rfl⟩

/-- The completion doubleword stored, when it translates to memory. -/
theorem State.doneTold_mem (s : State) (l : Launch) {m' : List Host.Cell}
    (h : l.donea = 0 ∧ m' = s.mem ∨ l.donea ≠ 0 ∧ ∃ p, s.translate l.info.asid .write (l.donea.setWidth 64) = .ok p ∧
      p.pa + 8 ≤ barBase ∧ m' = memStore s.mem p.pa (natLe 8 (if l.cancelled then 2 ^ 64 - 1 else l.donev.toNat))) :
    (s.doneTold l).mem = m' := by
  unfold State.doneTold
  dsimp only
  rcases h with ⟨zero, rfl⟩ | ⟨nonzero, p, found, low, rfl⟩
  · rw [if_pos zero]
  · have found' : State.translate { s with replicas := s.replicas.filter fun r => !decide (r.seq = l.seq) } l.info.asid .write
      (l.donea.setWidth 64) = .ok p := found
    rw [if_neg nonzero, found']
    exact State.commitMem_mem _ _ (by omega)

theorem State.doneTold_memInv (s : State) (l : Launch) (inv : s.MemInv) : (s.doneTold l).MemInv := by
  unfold State.doneTold
  dsimp only
  split
  · exact inv
  · split
    · exact State.commit_memInv _ false _ _ inv
    · exact inv

/-- The launch of a retiring hart, when it is the last one (R10, R331). -/
theorem State.retire_of_last (s : State) (inv : s.MemInv) {l : Launch}
    (found : s.launches.find? (fun l => decide (l.seq = s.hart.id.seq)) = some l) (last : l.left = 1) :
    (s.retire false).launches = s.launches.filter (fun x => decide (x.seq ≠ s.hart.id.seq)) ∧
    ∀ m', (l.donea = 0 ∧ m' = s.mem ∨ l.donea ≠ 0 ∧ ∃ p, s.translate l.info.asid .write (l.donea.setWidth 64) = .ok p ∧
        p.pa + 8 ≤ barBase ∧ m' = memStore s.mem p.pa (natLe 8 (if l.cancelled then 2 ^ 64 - 1 else l.donev.toNat))) →
      ((∀ c ∈ s.cmds, c.seq ≠ s.hart.id.seq) → (s.retire false).mem = m') ∧
      ∀ c, s.cmds.find? (fun c => decide (c.seq = s.hart.id.seq)) = some c →
        Completes (s.retire false) c (if l.cancelled then 4 else 0) ∧
        ∀ x, (x < c.d 7 % 2 ^ 56 ∨ c.d 7 % 2 ^ 56 + 8 ≤ x) → memGet (s.retire false).mem x = memGet m' x := by
  have kept := s.closed_leavesOnly
  have seq : l.seq = s.hart.id.seq := by simpa using List.find?_some found
  have cancelled : (l.less false).cancelled = l.cancelled := Bool.or_false _
  let u : State := { s.closed with launches := s.launches.map fun x => if x.seq = s.hart.id.seq then l.less false else x }
  have eq : s.retire false = u.finishLaunch (l.less false) := by
    rw [State.retire_eq, State.launchLess_of_some _ _ (by rw [kept]; exact found), if_pos (by omega),
      show s.closed.launches = s.launches by rw [kept]]
  have cmds : u.cmds = s.cmds := by
    show s.closed.cmds = _
    rw [kept]
  have mem : u.mem = s.mem := by
    show s.closed.mem = _
    rw [kept]
  have translate : u.translate = s.translate := by
    show s.closed.translate = _
    rw [kept]
    rfl
  have pads : u.pads = s.pads := by
    show s.closed.pads = _
    rw [kept]
  have memInv : u.MemInv := ⟨by rw [mem]; exact inv.1, by rw [pads]; exact inv.2⟩
  refine ⟨?_, fun m' h => ?_⟩
  · obtain ⟨-, -, launches⟩ := u.finishLaunch_spec (l.less false)
    rw [eq, launches, ← seq]
    show (List.map _ _).filter _ = _
    rw [← seq]
    exact Launch.filter_map_less s.launches l false
  · have stored : (u.doneTold (l.less false)).mem = m' := by
      refine u.doneTold_mem (l.less false) ?_
      rw [cancelled, mem, translate]
      exact h
    have seq' : (l.less false).seq = s.hart.id.seq := seq
    refine ⟨fun none => ?_, fun c some => ?_⟩
    · have absent : u.cmds.find? (fun c => decide (c.seq = (l.less false).seq)) = Option.none := by
        rw [cmds, seq']
        simpa using none
      rw [eq, State.finishLaunch_of_none _ _ absent]
      exact stored
    · rw [eq, State.finishLaunch_of_some _ _ (by rw [cmds, seq']; exact some), cancelled]
      have told := u.doneTold_memInv (l.less false) memInv
      refine ⟨State.complete_completes _ _ _ told, fun x outside => ?_⟩
      refine (State.complete_other _ _ _ ?_ outside).trans (congrArg (fun m => memGet m x) stored)
      exact told


/-- Settles O20: what the hart had issued is finished first, then the context closes and the launch loses the hart. -/
theorem haltRetires : Obligations.HaltRetires := by
  unfold Obligations.HaltRetires
  intro s h
  refine ⟨exec_halt_of_lane, fun lane => ?_, fun lane inv l found => ⟨_, exec_halt lane, ?_, ?_⟩⟩
  · obtain ⟨vregs, w, before⟩ := s.finished_hart
    obtain ⟨watch, hart⟩ := s.finished.retire_hart false
    have id : s.finished.hart.id = h.id := by rw [before]
    have sregs : s.finished.hart.sregs = h.sregs := by rw [before]
    have masks : s.finished.hart.masks = h.masks := by rw [before]
    refine ⟨_, exec_halt lane, ?_⟩
    rw [hart]
    refine ⟨id, rfl, rfl, rfl, rfl, rfl, fun i _ => Hart.close_gen _ i, fun i _ => Hart.close_window _ i, ?_,
      fun onCore en part => ?_, sregs, masks⟩
    · rw [← id]
      exact s.finished.retire_no_entry false
    · rw [State.retire_lpart]
      have lparts : s.finished.endTx.lparts = s.lparts := s.finished_accessed.lparts
      have same : s.finished.endTx.lpart = s.lpart := by
        unfold State.lpart
        rw [lparts]
      have at_ : s.finished.endTx.hart.core = h.core ∧ s.finished.endTx.hart.ctx = h.ctx ∧
          s.finished.endTx.hart.onCore = h.onCore := by
        show s.finished.hart.core = _ ∧ s.finished.hart.ctx = _ ∧ s.finished.hart.onCore = _
        rw [before]
        exact ⟨rfl, rfl, rfl⟩
      obtain ⟨core, ctx, on⟩ := at_
      rw [← core] at en part ⊢
      rw [← ctx] at part
      rw [← same] at en part
      exact State.endPartition_partEn _ (on.trans onCore) en part
  all_goals
    have accessed := s.finished_accessed
    obtain ⟨vregs, w, before⟩ := s.finished_hart
    have id : s.finished.hart.id = h.id := by rw [before]
    have found' : s.finished.launches.find? (fun l => decide (l.seq = s.finished.hart.id.seq)) = some l := by
      rw [accessed.launches, id]
      exact found
  · intro more
    have spec := s.finished.retire_of_more found' more
    rwa [s.finished_mem, accessed.launches, id] at spec
  · intro last
    have inv' : s.finished.MemInv := State.drain_memInv _ _ inv
    have spec := s.finished.retire_of_last inv' found' last
    rwa [accessed.launches, id, s.finished_mem, accessed.translate, accessed.cmds] at spec

end Sys2Proof.Machine
end

section
/-! Saving a context: what lands, what is written, credits and events. -/

namespace Sys2Proof.Machine

/-! ### A pending pre-emption leaves alone what accesses do

Loads and stores neither read nor change `hardReq`, so marking the hart commutes with them. -/

theorem State.upd_ite {c : Prop} [Decidable c] (s t : State) (f : Hart → Hart) :
    (if c then s else t).upd f = if c then s.upd f else t.upd f := apply_ite (fun u : State => u.upd f) c s t

theorem State.note_upd (s : State) (q o c x : Nat) (d : BitVec 64) (f : Hart → Hart) :
    (s.upd f).note q o c x d = (s.note q o c x d).upd f := by
  unfold State.note State.upd State.ns
  with_reducible rfl

theorem State.queueError_upd (s : State) (q : Nat) (f : Hart → Hart) : (s.upd f).queueError q = (s.queueError q).upd f := by
  unfold State.queueError
  have set : (s.upd f).setQueue q (fun x => { x with err := true }) = (s.setQueue q fun x => { x with err := true }).upd f := rfl
  rw [set, State.note_upd]
  rfl

theorem State.setPower_upd (s : State) (p : Nat) (f : Hart → Hart) : (s.upd f).setPower p = (s.setPower p).upd f := by
  unfold State.setPower
  dsimp only
  rw [State.upd_ite, ← State.note_upd]
  rfl

theorem State.powerUp_upd (s : State) (f : Hart → Hart) : (s.upd f).powerUp = s.powerUp.upd f := by
  unfold State.powerUp
  rw [State.upd_ite, ← State.setPower_upd]
  rfl

theorem State.writeAqctl_upd (s : State) (v : BitVec 64) (f : Hart → Hart) : (s.upd f).writeAqctl v = (s.writeAqctl v).upd f := by
  unfold State.writeAqctl
  rw [← State.powerUp_upd]
  congr 1
  have same : State.queue? { s.upd f with aqctl := v &&& aqctlMask } 0 = State.queue? { s with aqctl := v &&& aqctlMask } 0 := rfl
  dsimp only
  rw [same]
  cases State.queue? { s with aqctl := v &&& aqctlMask } 0 with
  | none =>
    dsimp only
    rw [State.upd_ite]
    rfl
  | some q =>
    dsimp only
    rw [State.upd_ite, State.upd_ite]
    rfl

theorem State.writeTail_upd (s : State) (q : Nat) (v : BitVec 32) (f : Hart → Hart) :
    (s.upd f).writeTail q v = (s.writeTail q v).upd f := by
  unfold State.writeTail
  have same : (s.upd f).queue? q = s.queue? q := rfl
  rw [same]
  cases s.queue? q with
  | none => rfl
  | some x =>
    dsimp only
    rw [State.upd_ite, State.upd_ite, ← State.queueError_upd]
    rfl

theorem State.writeReg_upd (s : State) (n : Nat) (v : BitVec 64) (f : Hart → Hart) :
    (s.upd f).writeReg n v = (s.writeReg n v).upd f := by
  unfold State.writeReg
  rw [State.writeAqctl_upd, State.writeTail_upd, State.upd_ite, State.upd_ite, State.upd_ite]
  have same : (s.upd f).queue? 0 = s.queue? 0 := rfl
  rw [same]
  cases s.queue? 0 with
  | none => rfl
  | some q =>
    dsimp only
    rw [State.upd_ite]
    rfl

theorem noteWrite_meeting (a n : Nat) (h : Hart) : noteWrite a n h.meeting = (noteWrite a n h).meeting := by
  unfold noteWrite
  rw [apply_ite Hart.meeting]
  rfl

theorem State.commitMem_meeting (s : State) (a : Nat) (bs : List Byte) :
    (s.upd Hart.meeting).commitMem a bs = (s.commitMem a bs).upd Hart.meeting := by
  unfold State.commitMem State.mapHarts
  rw [State.upd_ite, State.upd_hart, noteWrite_meeting]
  congr 1
  exact s.writeReg_upd _ _ _

theorem State.commit_meeting (s : State) (pad : Bool) (a : Nat) (bs : List Byte) :
    (s.upd Hart.meeting).commit pad a bs = (s.commit pad a bs).upd Hart.meeting := by
  cases pad with
  | true => rfl
  | false => exact s.commitMem_meeting a bs

theorem State.drainList_meeting (sel : Nat → Bool) (ws : List HeldWrite) (s : State) :
    (s.upd Hart.meeting).drainList sel ws = (s.drainList sel ws).upd Hart.meeting := by
  induction ws generalizing s with
  | nil => rfl
  | cons w ws ih =>
    unfold State.drainList
    split
    · rw [State.commit_meeting, ih]
    · exact ih s

theorem State.drain_meeting (s : State) (sel : Nat → Bool) :
    (s.upd Hart.meeting).drain sel = (s.drain sel).upd Hart.meeting :=
  State.drainList_meeting sel s.hart.wbuf (s.upd fun h => { h with wbuf := h.wbuf.filter fun w => !sel w.stream })

theorem State.load_meeting (s : State) (h : Hart) (k : Nat) (pad : Bool) (a n : Nat) :
    (s.upd Hart.meeting).load h.meeting k pad a n = s.load h k pad a n := by
  induction n generalizing a with
  | zero => rfl
  | succ n ih =>
    unfold State.load
    rw [ih]
    rfl

theorem Hart.wr_meeting (h : Hart) (r : Reg) (v : Word) : h.meeting.wr r v = (h.wr r v).meeting := by
  unfold Hart.wr
  split <;> rfl

theorem Hart.putBits_meeting (g : Nat) (h : Hart) (r raw : Nat) : h.meeting.putBits r g raw = (h.putBits r g raw).meeting := by
  induction g generalizing h r raw with
  | zero => rfl
  | succ g ih => exact ih (h.setV r { h.v r with data := BitVec.ofNat 2048 (raw % 2 ^ (256 * h.w)) }) _ _

theorem Hart.grpBits_meeting (h : Hart) (r g : Nat) : h.meeting.grpBits r g = h.grpBits r g := by
  induction g generalizing r with
  | zero => rfl
  | succ g ih =>
    unfold Hart.grpBits
    rw [ih]
    rfl

theorem Hart.keepBound_meeting (h : Hart) (rs : List Nat) (t : Hart) :
    h.meeting.keepBound rs t.meeting = (h.keepBound rs t).meeting :=
  List.foldl_hom Hart.meeting (fun _ _ => rfl)

theorem State.landLate_meeting (s : State) (l : LateLoad) :
    (s.upd Hart.meeting).landLate l = (s.landLate l).upd Hart.meeting := by
  unfold State.landLate
  rw [State.drain_meeting]
  dsimp only
  rw [State.upd_hart]
  simp only [State.load_meeting]
  split
  · exact congrArg (State.setHart _) (Hart.wr_meeting _ _ _)
  · refine congrArg (State.setHart _) ?_
    dsimp only
    rw [State.upd_hart, Hart.grpBits_meeting, Hart.putBits_meeting, Hart.keepBound_meeting]
    rfl

theorem State.landLates_meeting (ls : List LateLoad) (s : State) :
    (s.upd Hart.meeting).landLates ls = (s.landLates ls).upd Hart.meeting := by
  induction ls generalizing s with
  | nil => rfl
  | cons l ls ih =>
    unfold State.landLates
    rw [State.landLate_meeting, ih]

theorem State.settleLoads_meeting (s : State) : (s.upd Hart.meeting).settleLoads = s.settleLoads.upd Hart.meeting :=
  State.landLates_meeting s.hart.late (s.upd fun h => { h with late := [] })

/-! ### A save -/

theorem Hart.setFulls_vregs (rs : List Nat) (b : Bool) {h k : Hart} (same : h.vregs = k.vregs) :
    (h.setFulls b rs).vregs = (k.setFulls b rs).vregs := by
  induction rs generalizing h k with
  | nil => exact same
  | cons r rs ih =>
    refine ih ?_
    unfold Hart.setFull Hart.setV Hart.v
    dsimp only
    rw [same]

theorem Hart.landAll_vregs {h k : Hart} (vregs : h.vregs = k.vregs) (pend : h.pend = k.pend) :
    h.landAll.vregs = k.landAll.vregs := by
  unfold Hart.landAll
  rw [pend]
  exact Hart.setFulls_vregs _ _ vregs

theorem State.writeArea_kept (s : State) (k : SaveKind) (r : SaveRec) : ∃ b w,
    (s.writeArea k r).hart = { s.hart with save := some { r with reserve := b }, watch := w } ∧ (s.hart.trapbase = 0 → b = true) := by
  unfold State.writeArea
  dsimp only
  split
  · exact ⟨true, s.hart.watch, rfl, fun _ => rfl⟩
  · next based =>
    split
    · next u e =>
      refine ⟨false, u.hart.watch, ?_, fun zero => absurd zero based⟩
      rw [State.upd_hart, State.putWords_hart _ _ _ _ e]
    · exact ⟨true, s.hart.watch, rfl, fun _ => rfl⟩

theorem State.writeFrame_kept (s : State) (r : SaveRec) : ∃ b w,
    (s.writeFrame r).hart = { s.hart with save := some { r with reserve := b }, watch := w } ∧ (s.hart.trapbase = 0 → b = true) := by
  unfold State.writeFrame
  dsimp only
  split
  · exact ⟨true, s.hart.watch, rfl, fun _ => rfl⟩
  · next based =>
    split
    · next u e =>
      refine ⟨false, u.hart.watch, ?_, fun zero => absurd zero based⟩
      rw [State.upd_hart, State.putWords_hart _ _ _ _ e]
    · exact ⟨true, s.hart.watch, rfl, fun _ => rfl⟩

theorem State.writeFrame_accessed (s : State) (r : SaveRec) : s.Accessed (s.writeFrame r) := by
  have kept := State.Accessed.refl s
  unfold State.writeFrame
  dsimp only
  split
  · exact kept.upd _
  · split
    · next u e => exact (kept.putWords _ e).upd _
    · exact (kept.upd _).post _

theorem State.writeArea_accessed (s : State) (k : SaveKind) (r : SaveRec) : s.Accessed (s.writeArea k r) := by
  have kept := State.Accessed.refl s
  unfold State.writeArea
  dsimp only
  split
  · exact kept.upd _
  · split
    · next u e => exact (kept.putWords _ e).upd _
    · exact (kept.upd _).post _

/-- What was issued has landed and performed. -/
def State.landed (s : State) : State := (s.settleLoads.upd Hart.landAll).drainAll

/-- The landed context written to the save area or the handler's frame. -/
def State.areaWritten (s : State) (t : Trap) : State :=
  if s.landed.hart.handler.isSome then s.landed.writeFrame (s.hart.record s.cycle t)
  else s.landed.writeArea (saveKindOf t.cause) (s.hart.record s.cycle t)

/-- The written context passing to saved. -/
def Hart.suspended (r : SaveRec) (t : Trap) (h : Hart) : Hart :=
  { h with st := .saved, watch := if r.wcause = 0 then Watch.none else h.watch
           limit := none, taken := [], walked := []
           restart := if boundaryCause t.cause || t.keep then h.restart else none
           hardReq := none }

/-- The save before its event is posted. -/
def State.suspended (s : State) (t : Trap) : State :=
  let u := (s.areaWritten t).upd (Hart.suspended (s.hart.record s.cycle t) t)
  u.creditAll u.hart (fun _ => 0)

theorem State.saved_eq (s : State) (t : Trap) : s.saved t =
    if t.cause.toNat ≤ 0x11 then (s.suspended t).postHart (s.suspended t).hart t.cause (s.hart.eventDetail t.detail)
    else s.suspended t := rfl

theorem State.suspended_hart (s : State) (t : Trap) :
    (s.suspended t).hart = (s.areaWritten t).hart.suspended (s.hart.record s.cycle t) t := by
  unfold State.suspended
  dsimp only
  rw [State.creditAll_eq]
  rfl

theorem State.landed_hart (s : State) :
    ∃ watch, s.landed.hart = { s.settleLoads.hart.landAll with wbuf := [], watch := watch } := by
  refine ⟨s.landed.hart.watch, ?_⟩
  have drained := State.drain_hart (s.settleLoads.upd Hart.landAll) (fun _ => true)
  unfold State.landed State.drainAll
  rw [drained]
  simp

/-- A saved context: what landing leaves, with its record. -/
theorem State.saved_hart (s : State) (t : Trap) : ∃ b watch restart, (s.hart.trapbase = 0 → b = true) ∧
    (s.saved t).hart = { s.settleLoads.hart.landAll with
      st := .saved, wbuf := [], save := some { s.hart.record s.cycle t with reserve := b }, watch := watch, limit := none
      taken := [], walked := [], restart := restart, hardReq := none } := by
  obtain ⟨sregs, vregs, wbuf, watch, settled⟩ := s.settleLoads_hart_eq
  obtain ⟨watch', landed⟩ := s.landed_hart
  have base : s.landed.hart.trapbase = s.hart.trapbase := by rw [landed, Hart.landAll_eq, settled]
  have written : ∃ b w, (s.areaWritten t).hart = { s.landed.hart with
      save := some { s.hart.record s.cycle t with reserve := b }, watch := w } ∧ (s.hart.trapbase = 0 → b = true) := by
    rw [← base]
    unfold State.areaWritten
    split
    · obtain ⟨b, w, hart, slot⟩ := s.landed.writeFrame_kept (s.hart.record s.cycle t)
      exact ⟨b, w, hart, slot⟩
    · obtain ⟨b, w, hart, slot⟩ := s.landed.writeArea_kept (saveKindOf t.cause) (s.hart.record s.cycle t)
      exact ⟨b, w, hart, slot⟩
  obtain ⟨b, w, hart, slot⟩ := written
  have same : (s.saved t).hart = (s.suspended t).hart := by
    rw [State.saved_eq]
    split <;> rfl
  refine ⟨b, (s.suspended t).hart.watch, (s.suspended t).hart.restart, slot, ?_⟩
  rw [same, State.suspended_hart, hart, landed]
  rfl

theorem State.areaWritten_accessed (s : State) (t : Trap) : s.Accessed (s.areaWritten t) := by
  have landed : s.Accessed s.landed := ((State.Accessed.refl s).settleLoads.upd _).drainAll
  unfold State.areaWritten
  split
  · exact landed.trans (s.landed.writeFrame_accessed _)
  · exact landed.trans (s.landed.writeArea_accessed _ _)

/-! ### Credits -/

theorem lookupD_assign_other {κ α : Type} [DecidableEq κ] (l : List (κ × α)) {j k : κ} (v d : α) (ne : k ≠ j) :
    lookupD (assign l k v) j d = lookupD l j d := by
  have skip : ∀ m : List (κ × α), lookupD (m.filter fun p => !decide (p.1 = k)) j d = lookupD m j d := by
    intro m
    induction m with
    | nil => rfl
    | cons p m ih =>
      obtain ⟨x, y⟩ := p
      by_cases here : x = k
      · have other : x ≠ j := fun e => ne (here.symm.trans e)
        simp [here, lookupD, ih, ne]
      · simp [here, lookupD, ih]
  unfold assign
  rw [lookupD, if_neg ne, skip]

theorem State.arb_setArb_same (s : State) (core g : Nat) (a : Arbiter) : (s.setArb core g a).arb core g = a :=
  lookupD_assign_same _ _ _ _

theorem State.arb_setArb_other (s : State) {core g core' g' : Nat} (a : Arbiter) (ne : core * 8 + g ≠ core' * 8 + g') :
    (s.setArb core g a).arb core' g' = s.arb core' g' := lookupD_assign_other _ _ _ ne

/-- Clearing a hart's credits leaves it 0 on every lane group of its grant (R25). -/
theorem State.creditAll_zero (s : State) (h : Hart) {g : Nat} (inside : g < h.w) :
    ((s.creditAll h fun _ => 0).arb h.core (h.lgb + g)).credit.getD h.ctx 0 = 0 := by
  have fold : ∀ (l : List Nat) (u : State), g ∈ l ∨ (u.arb h.core (h.lgb + g)).credit.getD h.ctx 0 = 0 →
      ((l.foldl (fun u i =>
        let a := u.arb h.core (h.lgb + i)
        u.setArb h.core (h.lgb + i) { a with credit := a.credit.set h.ctx 0, chosen := a.chosen.filter fun c => c != h.ctx })
          u).arb h.core (h.lgb + g)).credit.getD h.ctx 0 = 0 := by
    intro l
    induction l with
    | nil =>
      rintro u (m | zero)
      · cases m
      · exact zero
    | cons i l ih =>
      intro u m
      refine ih _ ?_
      by_cases here : i = g
      · subst here
        refine .inr ?_
        rw [State.arb_setArb_same]
        simp [List.getD_eq_getElem?_getD, List.getElem?_set]
        split <;> rfl
      · rcases m with m | zero
        · exact .inl ((List.mem_cons.1 m).resolve_left fun e => here e.symm)
        · refine .inr ?_
          rw [State.arb_setArb_other _ _ (by omega)]
          exact zero
  exact fold (List.range h.w) s (.inl (List.mem_range.2 inside))


theorem State.saved_arbs (s : State) (t : Trap) : (s.saved t).arbs = (s.suspended t).arbs := by
  rw [State.saved_eq]
  split <;> rfl

/-- A saved hart's credits are 0 on its grant (R25). -/
theorem State.saved_credit (s : State) (t : Trap) {g : Nat} (inside : g < s.hart.w) :
    ((s.saved t).arb s.hart.core (s.hart.lgb + g)).credit.getD s.hart.ctx 0 = 0 := by
  obtain ⟨b, watch, restart, -, hart⟩ := s.saved_hart t
  obtain ⟨sregs, vregs, wbuf, watch, settled⟩ := s.settleLoads_hart_eq
  have same : (s.saved t).hart = (s.suspended t).hart := by
    rw [State.saved_eq]
    split <;> rfl
  have before : (s.suspended t).hart = ((s.areaWritten t).upd (Hart.suspended (s.hart.record s.cycle t) t)).hart :=
    s.suspended_hart t
  rw [same, before, Hart.landAll_eq, settled] at hart
  generalize eq : (s.areaWritten t).upd (Hart.suspended (s.hart.record s.cycle t) t) = u at hart
  have zero := u.creditAll_zero u.hart (g := g) (by rw [hart]; exact inside)
  have arb : (s.saved t).arb = (u.creditAll u.hart fun _ => 0).arb := by
    unfold State.arb
    rw [State.saved_arbs, ← eq]
    rfl
  rw [arb]
  rw [hart] at zero ⊢
  exact zero

theorem State.suspended_events (s : State) (t : Trap) : (s.suspended t).events = (s.areaWritten t).events := by
  unfold State.suspended
  dsimp only
  rw [State.creditAll_eq]
  rfl

theorem State.suspended_cycle (s : State) (t : Trap) : (s.suspended t).cycle = s.cycle := by
  have kept := (s.areaWritten_accessed t).cycle
  unfold State.suspended
  dsimp only
  rw [State.creditAll_eq]
  exact kept

/-- The event of a hart. -/
def State.hartEvent (s : State) (h : Hart) (cause detail : BitVec 8) : FdEvent :=
  { fdom := h.info.fdom, cause := cause, detail := detail, rcb := h.id.rcb.setWidth 64, hidx := h.id.hidx
    trapbase := h.trapbase, time := BitVec.ofNat 64 s.ns, frame := 0 }

/-- A save for a cause up to 0x11 posts its event last (R254). -/
theorem State.saved_posts (s : State) (t : Trap) (low : t.cause.toNat ≤ 0x11) : ∃ before,
    (s.saved t).events = before ++ [s.hartEvent s.hart t.cause (s.hart.eventDetail t.detail)] := by
  obtain ⟨b, watch, restart, -, hart⟩ := s.saved_hart t
  obtain ⟨sregs, vregs, wbuf, watch, settled⟩ := s.settleLoads_hart_eq
  have eq := s.saved_eq t
  rw [if_pos low] at eq
  have same : (s.suspended t).hart = (s.saved t).hart := by
    rw [eq]
    rfl
  refine ⟨(s.suspended t).events, ?_⟩
  rw [eq]
  show _ ++ [(s.suspended t).hartEvent (s.suspended t).hart _ _] = _
  unfold State.hartEvent State.ns
  rw [State.suspended_cycle, same, hart, Hart.landAll_eq, settled]

/-- With nothing held back, loads that perform change the hart alone. -/
theorem State.landLates_of_empty (ls : List LateLoad) (s : State) (none : s.hart.wbuf = []) :
    s.landLates ls = s.setHart (s.landLates ls).hart ∧ (s.landLates ls).hart.wbuf = [] := by
  induction ls generalizing s with
  | nil => exact ⟨rfl, none⟩
  | cons l ls ih =>
    obtain ⟨sregs, vregs, eq⟩ := s.landLate_eq l
    rw [s.drain_of_empty _ none] at eq
    have left : (s.landLate l).hart.wbuf = [] := by
      rw [eq]
      exact none
    obtain ⟨only, wbuf⟩ := ih (s.landLate l) left
    refine ⟨only.trans ?_, wbuf⟩
    show (s.landLate l).setHart _ = s.setHart ((s.landLate l).landLates ls).hart
    rw [eq]
    rfl

/-- With the reserve slot and nothing held back, a save changes the hart alone before credits and events. -/
theorem State.areaWritten_of_slot (s : State) (t : Trap) (slot : s.hart.trapbase = 0) (none : s.hart.wbuf = []) :
    s.areaWritten t = s.setHart (s.areaWritten t).hart := by
  obtain ⟨settled, wbuf⟩ := State.landLates_of_empty s.hart.late (s.upd fun h => { h with late := [] }) none
  have only : s.settleLoads = s.setHart s.settleLoads.hart := settled
  obtain ⟨sregs, vregs, w, watch, base⟩ := s.settleLoads_hart_eq
  have landed : s.landed = s.settleLoads.upd Hart.landAll := by
    unfold State.landed State.drainAll
    refine State.drain_of_empty _ _ ?_
    rw [State.upd_hart, Hart.landAll_eq]
    exact wbuf
  have zero : (s.settleLoads.upd Hart.landAll).hart.trapbase = 0 := by
    rw [State.upd_hart, Hart.landAll_eq, base]
    exact slot
  unfold State.areaWritten
  rw [landed]
  unfold State.writeFrame State.writeArea
  dsimp only
  rw [if_pos zero, if_pos zero, only]
  split <;> rfl

/-- With the reserve slot and nothing held back, a save for a cause above 0x11 posts nothing. -/
theorem State.saved_quiet (s : State) (t : Trap) (slot : s.hart.trapbase = 0) (none : s.hart.wbuf = [])
    (high : 0x11 < t.cause.toNat) : (s.saved t).events = s.events := by
  rw [State.saved_eq, if_neg (Nat.not_le.2 high), State.suspended_events, s.areaWritten_of_slot t slot none]
  rfl

end Sys2Proof.Machine
end

section
/-! Taking an exception; obligation O14. -/

namespace Sys2Proof.Machine

/-! ### The three ways of taking an exception -/

/-- The trap a save records: an error in the hart's registers makes it a machine-check (R256). -/
def Hart.trapped (h : Hart) (t : Trap) : Trap := if h.badRegs then { t with cause := cMachine, detail := 1 } else t

/-- A context whose record says that it can only be cancelled, where `spoils` holds. -/
def Hart.spoiled (spoils : Bool) (h : Hart) : Hart :=
  { h with save := h.save.map fun r => { r with contextError := r.contextError || spoils } }

theorem Hart.spoiled_false (h : Hart) : h.spoiled false = h := by
  unfold Hart.spoiled
  simp

/-- `v` is the focused hart's context as its save begins: what precedes the save changes a waiting pre-emption, the transaction
and what is held. -/
def State.Begins (s v : State) : Prop :=
  v.cycle = s.cycle ∧ ∃ hardReq tx wbuf watch, v.hart = { s.hart with hardReq := hardReq, tx := tx, wbuf := wbuf, watch := watch }

/-- Taking `t` saves from `v` with the events `es` after the save's own; `spoils` marks the context. -/
structure State.Takes (s : State) (t : Trap) (v : State) (es : List FdEvent) (spoils : Bool) : Prop where
  begins : s.Begins v
  hart : (s.taken t).hart = (v.saved (s.hart.trapped t)).hart.spoiled spoils
  arbs : (s.taken t).arbs = (v.saved (s.hart.trapped t)).arbs
  events : (s.taken t).events = (v.saved (s.hart.trapped t)).events ++ es

theorem State.begins_refl (s : State) : s.Begins s := ⟨rfl, s.hart.hardReq, s.hart.tx, s.hart.wbuf, s.hart.watch, rfl⟩

theorem State.begins_meeting (s : State) : s.Begins (s.upd Hart.meeting) :=
  ⟨rfl, _, s.hart.tx, s.hart.wbuf, s.hart.watch, rfl⟩

/-- The watchdog's release: a submitted or open transaction ends. -/
theorem State.wdogRelease_hart (s : State) : ∃ wbuf watch tx, s.wdogRelease.hart =
    { s.hart with tx := tx, wbuf := wbuf, watch := watch } ∧
    ((s.hart.tx.st = .submitted ∨ s.hart.tx.st = .opened) → tx.st = .idle) ∧
    (¬(s.hart.tx.st = .submitted ∨ s.hart.tx.st = .opened) → tx = s.hart.tx) := by
  have drained : (s.note 0 0 3 0 (s.hart.id.rcb.setWidth 64)).drainAll.hart =
      { s.hart with wbuf := [], watch := (s.note 0 0 3 0 (s.hart.id.rcb.setWidth 64)).drainAll.hart.watch } := by
    refine (State.drain_hart _ _).trans ?_
    rw [(s.note_registersOnly _ _ _ _ _).1]
    simp [State.drainAll]
  unfold State.wdogRelease
  dsimp only
  generalize (s.note 0 0 3 0 (s.hart.id.rcb.setWidth 64)).drainAll = u at drained
  have same : u.hart.tx = s.hart.tx := by rw [drained]
  rw [same]
  split
  · next held =>
    refine ⟨[], u.hart.watch, u.endTx.hart.tx, ?_, fun _ => rfl, fun not => absurd held not⟩
    show ({ u.hart with tx := u.endTx.hart.tx } : Hart) = _
    rw [drained]
  · next not => exact ⟨[], u.hart.watch, s.hart.tx, drained, fun held => absurd held not, fun _ => rfl⟩

theorem State.wdogRelease_cycle (s : State) : s.wdogRelease.cycle = s.cycle := by
  have kept := (((State.Accessed.refl s).note 0 0 3 0 (s.hart.id.rcb.setWidth 64)).drainAll).cycle
  unfold State.wdogRelease
  dsimp only
  split
  · exact kept
  · exact kept

theorem State.begins_wdogRelease (s : State) : s.Begins (s.upd Hart.meeting).wdogRelease := by
  obtain ⟨wbuf, watch, tx, hart, -⟩ := (s.upd Hart.meeting).wdogRelease_hart
  exact ⟨State.wdogRelease_cycle _, _, tx, wbuf, watch, hart⟩

/-- An exception that meets neither the watchdog's expiry nor a pre-emption. -/
theorem State.takes_plain {s : State} {t : Trap} (lane : s.hart.lane = none) (apart : s.meetsWdog t.cause = false)
    (alone : (s.hart.badRegs && s.hart.preempted t.cause) = false) : s.Takes t s [] false := by
  have taken : s.taken t = s.saved (s.hart.trapped t) := by
    unfold State.taken
    rw [lane]
    dsimp only
    rw [apart, alone]
    rfl
  exact ⟨s.begins_refl, by rw [taken, Hart.spoiled_false], by rw [taken], by rw [taken, List.append_nil]⟩

theorem State.saved_cycle (s : State) (t : Trap) : (s.saved t).cycle = s.cycle := by
  rw [State.saved_eq]
  split
  · exact s.suspended_cycle t
  · exact s.suspended_cycle t

/-- A saved hart's events name it as before. -/
theorem State.saved_hartEvent (s : State) (t : Trap) (c d : BitVec 8) :
    (s.saved t).hartEvent (s.saved t).hart c d = s.hartEvent s.hart c d := by
  obtain ⟨b, watch, restart, -, hart⟩ := s.saved_hart t
  obtain ⟨sregs, vregs, wbuf, watch, settled⟩ := s.settleLoads_hart_eq
  unfold State.hartEvent State.ns
  rw [State.saved_cycle, hart, Hart.landAll_eq, settled]

theorem State.Begins.hartEvent {s v : State} (h : s.Begins v) (c d : BitVec 8) : v.hartEvent v.hart c d = s.hartEvent s.hart c d := by
  obtain ⟨cycle, hardReq, tx, wbuf, watch, hart⟩ := h
  unfold State.hartEvent State.ns
  rw [cycle, hart]

theorem State.postHart_events (s : State) (h : Hart) (c d : BitVec 8) :
    (s.postHart h c d).events = s.events ++ [s.hartEvent h c d] := rfl

/-- What a machine-check replaces: WDOG is posted after it where that was the expiry. -/
theorem State.takes_replacing {s : State} {t : Trap} (lane : s.hart.lane = none) (apart : s.meetsWdog t.cause = false)
    (both : (s.hart.badRegs && s.hart.preempted t.cause) = true) : s.Takes t (s.upd Hart.meeting)
      (if t.cause = cWdog then [s.hartEvent s.hart cWdog (s.hart.eventDetail t.detail)] else []) false := by
  have begins := s.begins_meeting
  generalize eq : s.upd Hart.meeting = v at begins
  have taken : s.taken t = if t.cause = cWdog then (v.saved (s.hart.trapped t)).postHart (v.saved (s.hart.trapped t)).hart cWdog
      (s.hart.eventDetail t.detail) else v.saved (s.hart.trapped t) := by
    rw [← eq]
    unfold State.taken
    rw [lane]
    dsimp only
    rw [apart, both]
    rfl
  by_cases expiry : t.cause = cWdog
  · rw [if_pos expiry] at taken ⊢
    refine ⟨begins, by rw [taken, Hart.spoiled_false]; rfl, by rw [taken]; rfl, ?_⟩
    rw [taken, State.postHart_events, State.saved_hartEvent, begins.hartEvent]
  · rw [if_neg expiry] at taken ⊢
    exact ⟨begins, by rw [taken, Hart.spoiled_false], by rw [taken], by rw [taken, List.append_nil]⟩

/-- An exception that meets the watchdog's expiry or the handler's overrun. -/
theorem State.takes_meeting {s : State} {t : Trap} (lane : s.hart.lane = none) (meets : s.meetsWdog t.cause = true) :
    s.Takes t (s.upd Hart.meeting).wdogRelease
      [s.hartEvent s.hart cWdog (s.hart.eventDetail (if s.hart.handler.isSome then 1 else 0))] s.hart.handler.isSome := by
  have begins := s.begins_wdogRelease
  generalize eq : (s.upd Hart.meeting).wdogRelease = v at begins
  have taken : s.taken t = State.postHart (if s.hart.handler.isSome then (v.saved (s.hart.trapped t)).upd (Hart.spoiled true)
      else v.saved (s.hart.trapped t)) (State.hart (if s.hart.handler.isSome then (v.saved (s.hart.trapped t)).upd (Hart.spoiled true)
      else v.saved (s.hart.trapped t))) cWdog (s.hart.eventDetail (if s.hart.handler.isSome then 1 else 0)) := by
    rw [← eq]
    unfold State.taken
    rw [lane]
    dsimp only
    rw [meets]
    unfold Hart.spoiled
    simp only [Bool.or_true]
    rfl
  have event := (v.saved_hartEvent (s.hart.trapped t) cWdog (s.hart.eventDetail (if s.hart.handler.isSome then 1 else 0))).trans
    (begins.hartEvent _ _)
  cases handler : s.hart.handler.isSome with
  | true =>
    rw [handler] at taken event
    exact ⟨begins, by rw [taken]; rfl, by rw [taken]; rfl, by rw [taken, State.postHart_events, ← event]; rfl⟩
  | false =>
    rw [handler] at taken event
    exact ⟨begins, by rw [taken, Hart.spoiled_false]; rfl, by rw [taken]; rfl, by rw [taken, State.postHart_events, ← event]; rfl⟩

/-! ### The saved context -/

namespace State.Takes

variable {s : State} {t : Trap} {v : State} {es : List FdEvent} {spoils : Bool}

/-- What the context holds after an exception: the context before it, with what landing leaves and its record. -/
theorem context (h : s.Takes t v es spoils) : ∃ b watch restart, (s.hart.trapbase = 0 → b = true) ∧ (s.taken t).hart =
    { s.hart with
      st := .saved, sregs := v.settleLoads.hart.sregs, vregs := v.settleLoads.hart.landAll.vregs, pend := [], heldStrips := []
      wbuf := [], late := [], tx := v.hart.tx
      save := some { v.hart.record s.cycle (s.hart.trapped t) with reserve := b, contextError := s.hart.badRegs || spoils }
      watch := watch, limit := none, taken := [], walked := [], restart := restart, hardReq := none } := by
  obtain ⟨b, watch, restart, slot, hart⟩ := v.saved_hart (s.hart.trapped t)
  obtain ⟨sregs, vregs, wbuf, w, settled⟩ := v.settleLoads_hart_eq
  obtain ⟨cycle, hardReq, tx, wbuf', w', begun⟩ := h.begins
  refine ⟨b, watch, restart, fun zero => slot (by rw [begun]; exact zero), ?_⟩
  have regs : v.settleLoads.hart.landAll = { v.settleLoads.hart with
    vregs := v.settleLoads.hart.landAll.vregs, pend := [], heldStrips := [] } := Hart.landAll_eq _
  rw [h.hart, hart, regs, cycle]
  generalize v.settleLoads.hart.landAll.vregs = landed
  rw [settled, begun]
  rfl

/-- The record of an exception. -/
theorem record (h : s.Takes t v es spoils) : ∃ r, (s.taken t).hart.save = some r ∧ r.cause = (s.hart.trapped t).cause ∧
    r.detail = s.hart.eventDetail (s.hart.trapped t).detail ∧ r.pc = s.hart.pc ∧ r.rpc = t.rpc ∧ r.fel = t.fel ∧
    r.fidx = t.fidx ∧ r.faddr = t.faddr ∧ r.ctr = t.ctr ∧ (s.hart.replay = none → r.word = s.hart.ir) ∧
    r.payload = s.hart.irPayload ∧ r.pend = v.hart.preempted (s.hart.trapped t).cause ∧
    r.contextError = (s.hart.badRegs || spoils) ∧ (s.hart.trapbase = 0 → r.reserve = true) := by
  obtain ⟨b, watch, restart, slot, hart⟩ := h.context
  obtain ⟨cycle, hardReq, tx, wbuf, w, begun⟩ := h.begins
  have trapped : (s.hart.trapped t).rpc = t.rpc ∧ (s.hart.trapped t).fel = t.fel ∧ (s.hart.trapped t).fidx = t.fidx ∧
      (s.hart.trapped t).faddr = t.faddr ∧ (s.hart.trapped t).ctr = t.ctr := by
    unfold Hart.trapped
    split <;> exact ⟨rfl, rfl, rfl, rfl, rfl⟩
  obtain ⟨rpc, fel, fidx, faddr, ctr⟩ := trapped
  refine ⟨_, congrArg Hart.save hart, rfl, ?_⟩
  rw [begun]
  refine ⟨rfl, rfl, rpc, fel, fidx, faddr, ctr, fun none => ?_, rfl, rfl, rfl, slot⟩
  show (match s.hart.replay with | some p => p.word | Option.none => s.hart.ir) = s.hart.ir
  rw [none]

theorem credit (h : s.Takes t v es spoils) {g : Nat} (inside : g < s.hart.w) :
    ((s.taken t).arb s.hart.core (s.hart.lgb + g)).credit.getD s.hart.ctx 0 = 0 := by
  obtain ⟨cycle, hardReq, tx, wbuf, w, begun⟩ := h.begins
  have zero := v.saved_credit (s.hart.trapped t) (g := g) (by rw [begun]; exact inside)
  rw [begun] at zero
  have arb : (s.taken t).arb = (v.saved (s.hart.trapped t)).arb := by
    unfold State.arb
    rw [h.arbs]
  rw [arb]
  exact zero

theorem posts (h : s.Takes t v es spoils) (low : (s.hart.trapped t).cause.toNat ≤ 0x11) : ∃ before,
    (s.taken t).events = before ++
      s.hartEvent s.hart (s.hart.trapped t).cause (s.hart.eventDetail (s.hart.trapped t).detail) :: es := by
  obtain ⟨before, events⟩ := v.saved_posts (s.hart.trapped t) low
  have detail : v.hart.eventDetail = s.hart.eventDetail := by
    obtain ⟨cycle, hardReq, tx, wbuf, w, begun⟩ := h.begins
    rw [begun]
    rfl
  exact ⟨before, by rw [h.events, events, h.begins.hartEvent, detail, List.append_assoc]; rfl⟩

/-- Loads that have performed before leave the registers as they stand. -/
theorem registers_settled (h : s.Takes t v es spoils) (none : s.hart.late = []) :
    v.settleLoads.hart.sregs = s.hart.sregs ∧ v.settleLoads.hart.landAll.vregs = s.hart.landAll.vregs := by
  obtain ⟨cycle, hardReq, tx, wbuf, w, begun⟩ := h.begins
  have late : v.hart.late = [] := by
    rw [begun]
    exact none
  rw [State.settleLoads_none v late, begun]
  exact ⟨rfl, Hart.landAll_vregs rfl rfl⟩

end State.Takes

/-- A fault meets the expiry of the watchdog, or in the handler its overrun (R256, R270). -/
theorem State.meetsWdog_iff (s : State) (c : BitVec 8) : s.meetsWdog c = true ↔
    c.toNat ≤ 0x0C ∧ (s.hart.handler = none ∧ s.wdogDue s.hart = true ∨ s.hart.handler.isSome = true ∧ s.overrun s.hart = true) := by
  unfold State.meetsWdog
  cases s.hart.handler <;> simp

/-- The three ways together: what precedes the save, and what is posted after its event. -/
theorem State.takes (s : State) (t : Trap) (lane : s.hart.lane = none) :
    s.meetsWdog t.cause = true ∧ s.Takes t (s.upd Hart.meeting).wdogRelease
      [s.hartEvent s.hart cWdog (s.hart.eventDetail (if s.hart.handler.isSome then 1 else 0))] s.hart.handler.isSome ∨
    s.meetsWdog t.cause = false ∧ (s.hart.badRegs && s.hart.preempted t.cause) = true ∧ s.Takes t (s.upd Hart.meeting)
      (if t.cause = cWdog then [s.hartEvent s.hart cWdog (s.hart.eventDetail t.detail)] else []) false ∨
    s.meetsWdog t.cause = false ∧ (s.hart.badRegs && s.hart.preempted t.cause) = false ∧ s.Takes t s [] false := by
  cases meets : s.meetsWdog t.cause with
  | true => exact .inl ⟨rfl, State.takes_meeting lane meets⟩
  | false =>
    cases both : s.hart.badRegs && s.hart.preempted t.cause with
    | true => exact .inr (.inl ⟨rfl, rfl, State.takes_replacing lane meets both⟩)
    | false => exact .inr (.inr ⟨rfl, rfl, State.takes_plain lane meets both⟩)


theorem Hart.eventDetail_or (h : Hart) (d : BitVec 8) : h.eventDetail d = d ||| (if h.handler.isSome then 0x80 else 0) := by
  unfold Hart.eventDetail
  split
  · rfl
  · exact (BitVec.or_zero).symm

theorem Hart.trapped_cause (h : Hart) (t : Trap) : (h.trapped t).cause = if h.badRegs then 0x09 else t.cause := by
  unfold Hart.trapped
  split <;> rfl

theorem Hart.trapped_detail (h : Hart) (t : Trap) : (h.trapped t).detail = if h.badRegs then 1 else t.detail := by
  unfold Hart.trapped
  split <;> rfl

theorem Hart.preempted_iff (h : Hart) (c : BitVec 8) : h.preempted c = true ↔
    h.hardReq.isSome = true ∨ c = 0x0D ∨ c = 0x20 ∨ c = 0x21 := by
  unfold Hart.preempted cSoft cHard cWdog
  simp only [Bool.or_eq_true, beq_iff_eq]
  tauto

/-- A machine-check is no pre-emption by itself. -/
theorem Hart.preempted_trapped (h : Hart) (t : Trap) : h.preempted (h.trapped t).cause = true ↔
    h.hardReq.isSome = true ∨ h.badRegs = false ∧ (t.cause = 0x0D ∨ t.cause = 0x20 ∨ t.cause = 0x21) := by
  rw [Hart.preempted_iff, Hart.trapped_cause]
  cases h.badRegs <;> simp

/-- What an exception's record, registers, transaction and events turn on. -/
theorem State.exists_takes (s : State) (t : Trap) (lane : s.hart.lane = none) : ∃ v es spoils, s.Takes t v es spoils ∧
    (v.hart.preempted (s.hart.trapped t).cause = true ↔ s.hart.hardReq.isSome = true ∨ s.meetsWdog t.cause = true ∨
      t.cause = 0x0D ∨ t.cause = 0x20 ∨ t.cause = 0x21) ∧
    (spoils = true ↔ s.meetsWdog t.cause = true ∧ s.hart.handler.isSome = true) ∧
    (s.meetsWdog t.cause = false → v.settleLoads.hart.sregs = s.settleLoads.hart.sregs ∧
      v.settleLoads.hart.landAll.vregs = s.settleLoads.hart.landAll.vregs ∧ v.hart.tx = s.hart.tx) ∧
    (s.meetsWdog t.cause = true → (s.hart.tx.st = .submitted ∨ s.hart.tx.st = .opened) → v.hart.tx.st = .idle) ∧
    (s.meetsWdog t.cause = true → es =
      [s.hartEvent s.hart 0x0D (if s.hart.handler.isSome then 0x81 else 0)]) ∧
    (s.hart.badRegs = true ∧ t.cause = 0x0D → es = [s.hartEvent s.hart 0x0D (s.hart.eventDetail t.detail)]) ∧
    (s.meetsWdog t.cause = false → ¬(s.hart.badRegs = true ∧ t.cause = 0x0D) → es = []) := by
  rcases s.takes t lane with ⟨meets, takes⟩ | ⟨apart, both, takes⟩ | ⟨apart, alone, takes⟩
  · obtain ⟨wbuf, watch, tx, hart, ends, -⟩ := (s.upd Hart.meeting).wdogRelease_hart
    obtain ⟨small, -⟩ := (s.meetsWdog_iff t.cause).1 meets
    refine ⟨_, _, _, takes, ?_, by simp [meets], by simp [meets], fun _ held => ?_, fun _ => ?_, ?_, by simp [meets]⟩
    · rw [Hart.preempted_iff, hart]
      simp [meets, Hart.meeting]
    · rw [hart]
      exact ends held
    · rw [Hart.eventDetail_or]
      cases s.hart.handler.isSome <;> rfl
    · rintro ⟨-, expiry⟩
      rw [expiry] at small
      exact absurd small (by decide)
  · have wait := (s.hart.preempted_iff t.cause).1 (by simpa using (Bool.and_eq_true_iff.1 both).2)
    have bad : s.hart.badRegs = true := (Bool.and_eq_true_iff.1 both).1
    refine ⟨_, _, _, takes, ?_, by simp [apart], fun _ => ⟨?_, ?_, rfl⟩, by simp [apart], by simp [apart], fun ⟨_, expiry⟩ => ?_,
      fun _ other => ?_⟩
    · rw [Hart.preempted_iff]
      simp only [apart, State.upd_hart, Hart.meeting, Option.isSome_some, true_or, Bool.false_eq_true, false_or, true_iff]
      exact wait
    · rw [State.settleLoads_meeting]
      rfl
    · rw [State.settleLoads_meeting]
      exact Hart.landAll_vregs rfl rfl
    · exact if_pos expiry
    · exact if_neg fun expiry => other ⟨bad, expiry⟩
  · refine ⟨_, _, _, takes, ?_, by simp [apart], fun _ => ⟨rfl, rfl, rfl⟩, by simp [apart], by simp [apart],
      fun ⟨bad, expiry⟩ => ?_, fun _ _ => rfl⟩
    · rw [Hart.preempted_trapped]
      have quiet : s.hart.badRegs = true → ¬s.hart.preempted t.cause = true := fun bad pre => by simp [bad, pre] at alone
      rw [Hart.preempted_iff] at quiet
      cases bad : s.hart.badRegs with
      | false => simp [apart]
      | true =>
        have none := quiet bad
        simp only [apart]
        tauto
    · have pre := (s.hart.preempted_iff t.cause).2 (.inr (.inl expiry))
      simp [bad, pre] at alone

/-- With the reserve slot and nothing held back, an exception of a cause above 0x11 posts nothing. -/
theorem State.taken_quiet {s : State} {t : Trap} (lane : s.hart.lane = none) (zero : s.hart.trapbase = 0) (none : s.hart.wbuf = [])
    (high : 0x11 < (s.hart.trapped t).cause.toNat) : (s.taken t).events = s.events := by
  have good : s.hart.badRegs = false := by
    cases bad : s.hart.badRegs with
    | false => rfl
    | true =>
      rw [Hart.trapped_cause, if_pos bad] at high
      exact absurd high (by decide)
  have high' : 0x11 < t.cause.toNat := by
    rw [Hart.trapped_cause, good] at high
    exact high
  have apart : s.meetsWdog t.cause = false := by
    unfold State.meetsWdog
    rw [decide_eq_false (by omega), Bool.false_and]
  have plain := State.takes_plain (t := t) lane apart (by rw [good, Bool.false_and])
  rw [plain.events, List.append_nil]
  exact s.saved_quiet _ zero none high

/-- Settles O14: what precedes the save changes only a waiting pre-emption, the transaction and held writes, and the save keeps
the rest of the context. -/
theorem takingAnException : Obligations.TakingAnException := by
  unfold Obligations.TakingAnException
  intro s t lane h u h' cause bit7 detail meets landed posted
  obtain ⟨v, es, spoils, takes, pend, spoilt, apart, ends, wdog, replaced, quiet⟩ := s.exists_takes t lane
  obtain ⟨b, watch, restart, -, hart⟩ := takes.context
  obtain ⟨r, save, rcause, rdetail, rest⟩ := takes.record
  have met : s.meetsWdog t.cause = true ↔ meets := s.meetsWdog_iff t.cause
  have unmet : ¬meets → s.meetsWdog t.cause = false := fun not => Bool.eq_false_iff.2 fun yes => not (met.1 yes)
  have isCause : (h.trapped t).cause = cause := h.trapped_cause t
  have isDetail : h.eventDetail (h.trapped t).detail = detail := by rw [Hart.eventDetail_or, Hart.trapped_detail]
  have event : ∀ c d, posted (s.hartEvent h c d) c d := fun _ _ => ⟨rfl, rfl, rfl, rfl, rfl, rfl, rfl⟩
  refine ⟨congrArg Hart.st hart, ⟨r, save, rcause.trans isCause, rdetail.trans isDetail, ?_⟩, ?_⟩
  · obtain ⟨pc, rpc, fel, fidx, faddr, ctr, word, payload, rpend, error, slot⟩ := rest
    refine ⟨pc, rpc, fel, fidx, faddr, ctr, word, payload, ?_, ?_, slot⟩
    · rw [rpend, pend, met]
    · rw [error, Bool.or_eq_true, spoilt, met]
  · rw [show h' = _ from hart]
    refine ⟨rfl, rfl, rfl, rfl, rfl, rfl, rfl, rfl, rfl, rfl, rfl, rfl, rfl, rfl, rfl, rfl, rfl, rfl, fun not => ?_, fun none => ?_,
      fun g inside => takes.credit inside, fun low => ?_, fun yes held => ends (met.2 yes) held, fun not => ?_,
      fun zero none high => ?_⟩
    · obtain ⟨sregs, vregs, -⟩ := apart (unmet not)
      exact ⟨sregs, vregs⟩
    · exact takes.registers_settled none
    · obtain ⟨before, events⟩ := takes.posts (by rw [isCause]; exact low)
      refine ⟨before, _, es, events, by rw [isCause, isDetail]; exact event _ _, fun not same => quiet (unmet not) same,
        fun turned => ⟨_, replaced turned, ?_⟩, fun yes => ⟨_, wdog (met.2 yes), event _ _⟩⟩
      rw [← Hart.eventDetail_or]
      exact event _ _
    · obtain ⟨-, -, tx⟩ := apart (unmet not)
      exact tx
    · have high' : 0x11 < (h.trapped t).cause.toNat := by rw [isCause]; exact high
      rw [show u = s.taken t from rfl, State.taken_quiet lane zero none high']

end Sys2Proof.Machine
end

section
/-! Waking, pre-emption and the watchdog; obligation O48. -/

namespace Sys2Proof.Machine

/-! ### Saves between instructions -/

theorem betweenTrap_eq (h : Hart) (c d : BitVec 8) : boundaryTrap h c d = betweenTrap h c d := rfl

/-- What puts off a save between instructions. -/
theorem Hart.deferred_iff (h : Hart) : h.deferred = true ↔ h.st = .waiting .fullEmpty ∨ h.handler.isSome = true ∨ h.tx.st = .opened ∨
    h.restart.isSome = true ∧ (h.st = .resident ∨ h.st = .waiting .stream ∨ h.st = .waiting .frontier) := by
  unfold Hart.deferred Hart.midWord
  simp only [Bool.or_eq_true, Bool.and_eq_true, decide_eq_true_eq, or_assoc]

theorem exec_hartWake_of_waiting {s : State} {c : WaitCause} (waits : s.hart.st = .waiting c) : exec .hartWake s =
    if s.hart.wakes c then .next (s.setHart { s.hart with st := if s.hart.handler.isSome then .waiting .emulation else .resident })
    else .next s := by
  show execHartWake s = _
  unfold execHartWake
  dsimp only
  rw [waits]
  rfl

theorem exec_hartWake_of_saved {s : State} {r : SaveRec} (saved : s.hart.st = .saved) (kept : s.hart.save = some r) :
    exec .hartWake s = if s.hart.mayReady r then .next (s.setHart { s.hart with st := .ready, since := s.cycle }) else .next s := by
  show execHartWake s = _
  unfold execHartWake
  dsimp only
  rw [saved, kept]

/-- When a saved hart that is not being cancelled becomes ready (R12, R255, R256). -/
theorem Hart.mayReady_iff {h : Hart} (r : SaveRec) (stays : h.cancelling = false) : h.mayReady r = true ↔
    (r.released = true ∨ 0x20 ≤ r.cause.toNat ∧ r.lost = false) ∧ ∀ c, causeOfCode r.wcause = some c → h.wakes c = true := by
  unfold Hart.mayReady
  rw [stays]
  cases causeOfCode r.wcause <;> simp

theorem exec_hartReclaim {s : State} {c : WaitCause} (waits : s.hart.st = .waiting c) : exec .hartReclaim s =
    if c = .fullEmpty ∨ c = .emulation ∨ s.hart.deferred = true then .next s
    else .next (s.notePcWord.taken (betweenTrap s.hart 0x22 0)) := by
  show execHartReclaim s = _
  unfold execHartReclaim
  dsimp only
  rw [waits]
  rfl

theorem State.hardPreempt_of_deferred {s : State} (detail : BitVec 8) (onCore : s.hart.onCore = true)
    (put : s.hart.deferred = true) :
    s.hardPreempt detail = s.setHart { s.hart with hardReq := some (s.hart.hardReq.getD detail), soft := [] } := by
  unfold State.hardPreempt
  dsimp only
  rw [onCore, put]
  rfl

theorem State.hardPreempt_of_taken {s : State} (detail : BitVec 8) (onCore : s.hart.onCore = true)
    (now : s.hart.deferred = false) : s.hardPreempt detail =
      (s.setHart { s.hart with soft := [] }).notePcWord.taken (betweenTrap s.hart 0x21 (s.hart.hardReq.getD detail)) := by
  unfold State.hardPreempt
  dsimp only
  rw [onCore, now]
  rfl

theorem State.hardPreempt_of_off {s : State} (detail : BitVec 8) (off : s.hart.onCore = false) :
    s.hardPreempt detail = s.pendFault := by
  unfold State.hardPreempt
  dsimp only
  rw [off]
  rfl

/-- The fault with which a pre-emption is noted. -/
def State.faultNow (s : State) (r : SaveRec) : Prop :=
  s.hart.save = some r ∧ s.hart.st = .saved ∧ r.cycle = s.cycle ∧ r.cause.toNat ≤ 0x0C ∧ r.pend = false

theorem State.pendFault_of_none {s : State} (none : ∀ r, ¬s.faultNow r) : s.pendFault = s := by
  unfold State.pendFault
  dsimp only
  split
  · next r save => exact if_neg fun now => none r ⟨save, now⟩
  · rfl

theorem State.pendFault_of_fault {s : State} {r : SaveRec} (now : s.faultNow r) : s.pendFault =
    if r.reserve then s.setHart { s.hart with save := some { r with pend := true }, soft := [] }
    else ((s.setHart { s.hart with save := some { r with pend := true }, soft := [] }).putWords s.hart
      [((if r.inHandler then 0x7C18 else 0x18), (headerWords s.hart { r with pend := true }).getD 3 0)]).getD
        (s.setHart { s.hart with save := some { r with pend := true }, soft := [] }) := by
  obtain ⟨save, cond⟩ := now
  unfold State.pendFault
  dsimp only
  rw [save]
  dsimp only
  rw [if_pos cond]

/-- PEND is bit 19 of D3 (R260). -/
theorem headerWords_pend (h : Hart) (r : SaveRec) (clear : r.pend = false) :
    (headerWords h { r with pend := true }).getD 3 0 = (headerWords h r).getD 3 0 + 2 ^ 19 := by
  have word : ∀ r : SaveRec, (headerWords h r).getD 3 0 =
      r.cause.toNat + r.detail.toNat * 2 ^ 8 + r.wcause.toNat * 2 ^ 16 + b2n r.pend * 2 ^ 19 + b2n r.fel * 2 ^ 20 := by
    intro r
    unfold headerWords
    simp only [List.cons_append, List.getD_cons_succ, List.getD_cons_zero]
  rw [word, word, clear]
  simp only [b2n, Bool.false_eq_true, if_true, if_false]
  omega

theorem State.putWords_single {s : State} {h : Hart} {o v : Nat} {q : Phys}
    (found : s.translate h.info.asid .write (h.trapbase + BitVec.ofNat 64 o) = .ok q) :
    s.putWords h [(o, v)] = some (s.commitMem q.pa (natLe 8 v)) := by
  unfold State.putWords
  rw [found]
  rfl

/-- The fault noted in the save area: D3 takes PEND, and nothing else there changes. -/
theorem State.pendFault_of_area {s : State} {r : SaveRec} {q : Phys} (now : s.faultNow r) (area : r.reserve = false)
    (found : s.translate s.hart.info.asid .write (s.hart.trapbase + if r.inHandler then 0x7C18 else 0x18) = .ok q)
    (low : q.pa + 8 ≤ barBase) : s.pendFault.others = s.others ∧
      s.pendFault.hart = { s.hart with save := some { r with pend := true }, soft := [], watch := s.pendFault.hart.watch } ∧
      s.pendFault.mem = memStore s.mem q.pa (natLe 8 ((headerWords s.hart r).getD 3 0 + 2 ^ 19)) := by
  have clear : r.pend = false := now.2.2.2.2
  generalize eq : s.setHart { s.hart with save := some { r with pend := true }, soft := [] } = u
  have found' : u.translate s.hart.info.asid .write (s.hart.trapbase + BitVec.ofNat 64 (if r.inHandler then 0x7C18 else 0x18)) =
      .ok q := by
    rw [← eq, ← found, apply_ite (BitVec.ofNat 64)]
    rfl
  have put : s.pendFault = u.commitMem q.pa (natLe 8 ((headerWords s.hart r).getD 3 0 + 2 ^ 19)) := by
    rw [State.pendFault_of_fault now, if_neg (by rw [area]; decide), eq, State.putWords_single found', headerWords_pend _ _ clear]
    rfl
  have hart := u.commit_hart false q.pa (natLe 8 ((headerWords s.hart r).getD 3 0 + 2 ^ 19))
  have others := u.commit_others false q.pa (natLe 8 ((headerWords s.hart r).getD 3 0 + 2 ^ 19))
  rw [put]
  refine ⟨others.trans (by rw [← eq]; rfl), hart.trans (by rw [← eq]; rfl), ?_⟩
  rw [State.commitMem_mem _ _ (by omega), ← eq]
  rfl

/-- The soft requests whose reasons stand. -/
def State.live (s : State) : List SoftReq := s.hart.soft.filter fun r => s.softApplies s.hart r.why

theorem exec_softRequestEscalation_of_none {s : State} (none : ∀ r ∈ s.live, ¬r.since + 100000 ≤ s.ns) :
    exec .softRequestEscalation s = .next (s.setHart { s.hart with soft := s.live }) := by
  have found : s.live.find? (fun r => decide (r.since + 100000 ≤ s.ns)) = Option.none := by simpa using none
  show execSoftRequestEscalation s = _
  unfold execSoftRequestEscalation
  have same : (s.setHart { s.hart with soft := s.standing s.hart }).hart.soft.find?
      (fun r => decide (r.since + 100000 ≤ (s.setHart { s.hart with soft := s.standing s.hart }).ns)) = Option.none := found
  dsimp only
  rw [same]
  rfl

theorem exec_softRequestEscalation_of_due {s : State} {before after : List SoftReq} {r : SoftReq}
    (live : s.live = before ++ r :: after) (first : ∀ x ∈ before, ¬x.since + 100000 ≤ s.ns) (due : r.since + 100000 ≤ s.ns) :
    exec .softRequestEscalation s = .next ((s.setHart { s.hart with soft := s.live }).hardPreempt r.why.detail) := by
  have found : s.live.find? (fun r => decide (r.since + 100000 ≤ s.ns)) = some r := by
    rw [live, List.find?_append, List.find?_eq_none.2 (by simpa using first)]
    simp [due]
  show execSoftRequestEscalation s = _
  unfold execSoftRequestEscalation
  have same : (s.setHart { s.hart with soft := s.standing s.hart }).hart.soft.find?
      (fun r => decide (r.since + 100000 ≤ (s.setHart { s.hart with soft := s.standing s.hart }).ns)) = some r := found
  dsimp only
  rw [same]
  rfl

/-! ### The watchdog -/

theorem State.saved_granules (s : State) (t : Trap) : (s.saved t).granules = s.granules := by
  have suspended : (s.suspended t).granules = s.granules := by
    unfold State.suspended
    dsimp only
    rw [State.creditAll_eq]
    exact (s.areaWritten_accessed t).granules
  rw [State.saved_eq]
  split
  · exact suspended
  · exact suspended

/-- With the reserve slot and nothing held back, a save writes no journal entry. -/
theorem State.saved_journal (s : State) (t : Trap) (slot : s.hart.trapbase = 0) (none : s.hart.wbuf = []) :
    (s.saved t).journal = s.journal := by
  have suspended : (s.suspended t).journal = s.journal := by
    unfold State.suspended
    dsimp only
    rw [State.creditAll_eq, s.areaWritten_of_slot t slot none]
    rfl
  rw [State.saved_eq]
  split
  · exact suspended
  · exact suspended

theorem State.notePcWord_eq (s : State) : ∃ w p, s.notePcWord = s.upd fun h => h.withWord w p := by
  unfold State.notePcWord
  split
  · next w p _ => exact ⟨w, p, rfl⟩
  · exact ⟨0, 0, rfl⟩

/-- The expiry in the journal, with what the hart held performed. -/
def State.expiryNoted (s : State) : State := (s.note 0 0 3 0 (s.hart.id.rcb.setWidth 64)).drainAll

theorem State.wdogRelease_eq (s : State) : s.wdogRelease =
    if s.expiryNoted.hart.tx.st = .submitted ∨ s.expiryNoted.hart.tx.st = .opened then s.expiryNoted.endTx else s.expiryNoted := rfl

/-- A submitted or open transaction ends at the expiry (R322). -/
theorem State.wdogRelease_ends (s : State) (held : s.hart.tx.st = .submitted ∨ s.hart.tx.st = .opened) :
    ∃ u : State, s.wdogRelease = u.endTx ∧ u.hart.id = s.hart.id := by
  have drained := State.drain_hart (s.note 0 0 3 0 (s.hart.id.rcb.setWidth 64)) (fun _ => true)
  rw [(s.note_registersOnly _ _ _ _ _).1] at drained
  have kept : s.expiryNoted.hart.tx = s.hart.tx ∧ s.expiryNoted.hart.id = s.hart.id := by
    unfold State.expiryNoted State.drainAll
    rw [drained]
    exact ⟨rfl, rfl⟩
  obtain ⟨tx, id⟩ := kept
  exact ⟨s.expiryNoted, by rw [State.wdogRelease_eq, tx, if_pos held], id⟩

theorem State.expiryNoted_of_empty (s : State) (none : s.hart.wbuf = []) : s.expiryNoted.hart.wbuf = [] ∧
    s.expiryNoted = s.note 0 0 3 0 (s.hart.id.rcb.setWidth 64) := by
  have empty : (s.note 0 0 3 0 (s.hart.id.rcb.setWidth 64)).hart.wbuf = [] := by
    rw [(s.note_registersOnly _ _ _ _ _).1]
    exact none
  have same : s.expiryNoted = s.note 0 0 3 0 (s.hart.id.rcb.setWidth 64) := by
    unfold State.expiryNoted State.drainAll
    exact State.drain_of_empty _ _ empty
  exact ⟨by rw [same]; exact empty, same⟩

/-- With nothing held back, the journal entry of the expiry is the last (R333). -/
theorem State.wdogRelease_journal (s : State) (none : s.hart.wbuf = []) : s.wdogRelease.hart.wbuf = [] ∧
    ∃ e, s.wdogRelease.journal.getLast? = some e ∧ e.kind = 3 ∧ e.detail = s.hart.id.rcb.setWidth 64 := by
  obtain ⟨e, last, -, -, -, kind, -, detail⟩ := s.note_journal_getLast? 0 0 3 0 (s.hart.id.rcb.setWidth 64)
  obtain ⟨empty, same⟩ := s.expiryNoted_of_empty none
  rw [← same] at last
  rw [State.wdogRelease_eq]
  generalize s.expiryNoted = u at last empty
  split
  · exact ⟨empty, e, last, kind, detail⟩
  · exact ⟨empty, e, last, kind, detail⟩

/-- An exception with sound registers that meets no expiry is a save. -/
theorem State.taken_of_plain {s : State} {t : Trap} (lane : s.hart.lane = none) (apart : s.meetsWdog t.cause = false)
    (good : s.hart.badRegs = false) : s.taken t = s.saved t := by
  unfold State.taken
  rw [lane]
  dsimp only
  rw [apart, good]
  rfl

/-- `t` is what an expiry leaves of a hart with sound registers outside a lane's turn; `spoilt` marks the context. -/
structure State.Expires (s t : State) (detail : BitVec 8) (spoilt : Bool) : Prop where
  id : t.hart.id = s.hart.id
  st : t.hart.st = .saved
  ended : s.hart.tx.st = .submitted ∨ s.hart.tx.st = .opened → t.hart.tx.st = .idle ∧ t.hart.tx.buf = [] ∧
    ∀ q ∈ t.granules, ∀ e ∈ q.2, e.who ≠ s.hart.id
  stands : ¬(s.hart.tx.st = .submitted ∨ s.hart.tx.st = .opened) → t.hart.tx = s.hart.tx
  landed : t.hart.wbuf = [] ∧ t.hart.late = [] ∧ t.hart.pend = []
  sregs : s.hart.late = [] → t.hart.sregs = s.hart.sregs
  record : ∃ r, t.hart.save = some r ∧ r.cause = 0x0D ∧ r.detail = detail ∧ r.pc = s.hart.pc ∧
    r.rpc = s.hart.pc ∧ r.contextError = spoilt
  journal : s.hart.trapbase = 0 → s.hart.wbuf = [] → ∃ e, t.journal.getLast? = some e ∧ e.kind = 3 ∧
    e.detail = s.hart.id.rcb.setWidth 64

theorem State.expire_expires (s : State) (detail : BitVec 8) (lane : s.hart.lane = none) (good : s.hart.badRegs = false) :
    s.Expires (s.expire detail) (s.hart.eventDetail detail) false := by
  obtain ⟨wbuf, watch, tx, released, ends, stands⟩ := s.wdogRelease_hart
  obtain ⟨w, p, noted⟩ := s.wdogRelease.notePcWord_eq
  generalize eq : s.wdogRelease.notePcWord = v at noted
  have begun : v.hart = { s.hart with tx := tx, wbuf := wbuf, watch := watch, ir := w, irPayload := p } := by
    rw [noted, State.upd_hart, released]
    rfl
  let trap := boundaryTrap s.hart cWdog detail
  have taken : s.expire detail = v.taken trap := by
    show s.wdogRelease.notePcWord.taken (boundaryTrap s.wdogRelease.hart cWdog detail) = _
    rw [eq, released]
    rfl
  have good' : v.hart.badRegs = false := by rw [begun]; exact good
  have lane' : v.hart.lane = none := by rw [begun]; exact lane
  have takes : v.Takes trap v [] false := State.takes_plain lane' rfl (by rw [good']; rfl)
  have plain : v.taken trap = v.saved trap := State.taken_of_plain lane' rfl good'
  obtain ⟨b, w', restart, slot, hart⟩ := takes.context
  obtain ⟨r, save, cause, rdetail, pc, rpc, -, -, -, -, -, -, -, error, -⟩ := takes.record
  have trapped : v.hart.trapped trap = trap := if_neg (by rw [good']; decide)
  rw [trapped] at cause rdetail
  have granules : (v.taken trap).granules = s.wdogRelease.granules := by
    rw [plain, State.saved_granules, noted]
    rfl
  rw [taken]
  refine ⟨?_, congrArg Hart.st hart, fun held => ⟨?_, ?_, ?_⟩, fun not => ?_, ?_, fun none => ?_, ⟨r, save, cause, ?_, ?_, ?_, ?_⟩,
    fun zero none => ?_⟩
  · rw [hart, begun]
  · rw [hart, begun]
    exact ends held
  · obtain ⟨u, ended, -⟩ := s.wdogRelease_ends held
    have buf : tx.buf = [] := by
      have same : s.wdogRelease.hart.tx = tx := by rw [released]
      rw [← same, ended]
      rfl
    rw [hart, begun]
    exact buf
  · obtain ⟨u, ended, same⟩ := s.wdogRelease_ends held
    rw [granules, ended, ← same]
    exact u.endTx_no_entry
  · rw [hart, begun]
    exact stands not
  · rw [hart]
    exact ⟨rfl, rfl, rfl⟩
  · have settled := takes.registers_settled (by rw [begun]; exact none)
    rw [hart]
    exact settled.1.trans (by rw [begun])
  · rw [rdetail, begun]
    rfl
  · rw [pc, begun]
  · exact rpc
  · rw [error, good']
    rfl
  · obtain ⟨empty, e, last, kind, edetail⟩ := s.wdogRelease_journal none
    refine ⟨e, ?_, kind, edetail⟩
    have quiet := v.saved_journal trap (by rw [begun]; exact zero) (by rw [noted]; exact empty)
    rw [plain, quiet, noted]
    exact last


/-- A register producer that lands does not change what an expiry records. -/
theorem State.expires_landed {s t : State} {detail : BitVec 8} {spoilt : Bool}
    (h : (s.settleLoads.upd fun h => { h.landAll with st := .resident }).Expires t detail spoilt) : s.Expires t detail spoilt := by
  obtain ⟨sregs, vregs, wbuf, watch, settled⟩ := s.settleLoads_hart_eq
  have hart : (s.settleLoads.upd fun h => { h.landAll with st := .resident }).hart = { s.hart with
      sregs := sregs, vregs := s.settleLoads.hart.landAll.vregs, wbuf := wbuf, late := [], watch := watch, pend := []
      heldStrips := [], st := .resident } := by
    rw [State.upd_hart, Hart.landAll_eq]
    generalize s.settleLoads.hart.landAll.vregs = landed
    rw [settled]
  obtain ⟨id, st, ended, stands, landed, same, record, journal⟩ := h
  rw [hart] at id ended stands same record journal
  refine ⟨id, st, ended, stands, landed, fun none => ?_, record, fun zero none => journal zero ?_⟩
  · have before : s.settleLoads = s := s.settleLoads_none none
    rw [before] at settled
    rw [same rfl, settled]
  · have kept := (State.landLates_of_empty s.hart.late (s.upd fun h => { h with late := [] }) none).2
    have same : s.settleLoads.hart.wbuf = wbuf := by rw [settled]
    exact same.symm.trans kept

theorem exec_hardPreemption (s : State) (detail : BitVec 8) : exec (.hardPreemption detail) s = .next (s.hardPreempt detail) := rfl

/-- The context of a hart whose handler has overrun can only be cancelled. -/
theorem State.Expires.spoil {s t : State} {detail : BitVec 8} {b : Bool} (h : s.Expires t detail b) :
    s.Expires (t.upd fun h => { h with save := h.save.map fun r => { r with contextError := true } }) detail true := by
  obtain ⟨id, st, ended, stands, landed, same, ⟨r, save, record⟩, journal⟩ := h
  obtain ⟨cause, rdetail, pc, rpc, -⟩ := record
  exact ⟨id, st, ended, stands, landed, same, ⟨{ r with contextError := true }, congrArg (Option.map _) save, cause, rdetail, pc, rpc, rfl⟩,
    journal⟩

theorem State.wdogDue_iff {s : State} {h : Hart} (onCore : h.onCore = true) (timed : h.interval ≠ 0) : s.wdogDue h = true ↔
    (if h.info.pers then h.wdogFrom else h.info.acceptedNs) + h.interval ≤ s.ns := by
  unfold State.wdogDue
  rw [onCore]
  simp [timed]

theorem exec_watchdogExpiry_of_idle {s : State} (idle : s.wdogDue s.hart = false ∨ s.hart.midWord = true) :
    exec .watchdogExpiry s = .next s := by
  show execWatchdogExpiry s = _
  unfold execWatchdogExpiry
  exact if_pos (by simpa using idle)

theorem exec_watchdogExpiry_of_none {s : State} (due : s.wdogDue s.hart = true) (between : s.hart.midWord = false)
    (none : s.hart.handler = none) : exec .watchdogExpiry s = .next ((if s.hart.st = .waiting .fullEmpty then
      s.settleLoads.upd fun h => { h.landAll with st := .resident } else s).expire 0) := by
  show execWatchdogExpiry s = _
  unfold execWatchdogExpiry
  dsimp only
  rw [if_neg (by simp [due, between]), none]

theorem exec_watchdogExpiry_of_handler {s : State} {k : Handler} (due : s.wdogDue s.hart = true) (between : s.hart.midWord = false)
    (handler : s.hart.handler = some k) (fresh : k.overrunAt = none) : exec .watchdogExpiry s =
      .next (s.setHart { s.hart with handler := some { k with overrunAt := some s.ns } }) := by
  show execWatchdogExpiry s = _
  unfold execWatchdogExpiry
  dsimp only
  rw [if_neg (by simp [due, between]), handler]
  dsimp only
  rw [fresh]

theorem exec_handlerOverrun {s : State} (overrun : s.overrun s.hart = true) : exec .handlerOverrun s =
    .next ((s.expire 1).upd fun h => { h with save := h.save.map fun r => { r with contextError := true } }) := by
  show execHandlerOverrun s = _
  unfold execHandlerOverrun
  exact if_pos overrun

/-- Settles O48: a hart's save between instructions is put off or taken, and an expiry is the save after its release. -/
theorem wakingAndWatchdog : Obligations.WakingAndWatchdog := by
  unfold Obligations.WakingAndWatchdog
  refine ⟨?_, ?_⟩
  · intro s detail inv h quiet preempted kept midway put due live
    have deferred : h.deferred = true ↔ put := h.deferred_iff
    have undeferred : ¬put → h.deferred = false := fun not => Bool.eq_false_iff.2 fun yes => not (deferred.1 yes)
    refine ⟨fun c waits => exec_hartWake_of_waiting waits, ?_, fun c m waits not => ?_, fun c waits held => ?_,
      fun onCore yes => ?_, fun onCore not => ?_, fun off => ?_, fun none => exec_softRequestEscalation_of_none none,
      fun before r after split first now onCore => ?_, fun why => ?_⟩
    · intro r st save stays free
      rw [exec_hartWake_of_saved st save]
      refine ⟨fun free wakes => if_pos ((Hart.mayReady_iff r stays).2 ⟨free, wakes⟩), fun not => if_neg fun yes => ?_⟩
      exact not ((Hart.mayReady_iff r stays).1 yes).1
    · rw [exec_hartReclaim waits, if_neg]
      rintro (rfl | rfl | yes)
      · simp at m
      · simp at m
      · exact not (deferred.1 yes)
    · rw [exec_hartReclaim waits, if_pos]
      rcases held with yes | full | emulation
      · exact .inr (.inr (deferred.2 yes))
      · exact .inl full
      · exact .inr (.inl emulation)
    · rw [exec_hardPreemption]
      exact congrArg Host.Outcome.next (State.hardPreempt_of_deferred detail onCore (deferred.2 yes))
    · rw [exec_hardPreemption]
      exact congrArg Host.Outcome.next (State.hardPreempt_of_taken detail onCore (undeferred not))
    · intro meets
      rw [exec_hardPreemption, State.hardPreempt_of_off detail off]
      refine ⟨fun none => congrArg Host.Outcome.next (State.pendFault_of_none none), ?_⟩
      intro r now noted
      refine ⟨fun slot => ?_, fun q area found low => ?_⟩
      · exact congrArg Host.Outcome.next ((State.pendFault_of_fault now).trans (if_pos slot))
      · obtain ⟨others, hart, mem⟩ := State.pendFault_of_area now area found low
        exact ⟨_, rfl, others, hart, mem⟩
    · rw [exec_softRequestEscalation_of_due split first now]
      refine ⟨fun yes => ?_, fun not => ?_⟩
      · exact congrArg Host.Outcome.next (State.hardPreempt_of_deferred _ onCore (deferred.2 yes))
      · exact congrArg Host.Outcome.next (State.hardPreempt_of_taken _ onCore (undeferred not))
    · refine ⟨?_, fun other => ?_⟩
      · rintro ⟨k, u, rfl⟩
        rfl
      · cases why with
        | spare k u => exact absurd rfl (other k u)
        | _ => rfl
  · intro s h span from_ saved lane good onCore timed slipped
    have due : s.wdogDue h = true ↔ from_ + span ≤ s.ns := State.wdogDue_iff onCore timed
    have mid : h.midWord = true ↔ slipped := by
      unfold Hart.midWord
      rw [Bool.and_eq_true, decide_eq_true_eq]
    have between : ¬slipped → h.midWord = false := fun not => Bool.eq_false_iff.2 fun yes => not (mid.1 yes)
    have expires : ∀ {t : State} {d : BitVec 8} {b : Bool}, s.Expires t d b → saved t d b := by
      rintro t d b ⟨id, st, ended, stands, ⟨wbuf, late, pend⟩, sregs, record, journal⟩
      refine ⟨id, st, ended, fun tx => stands ?_, wbuf, late, pend, sregs, record, journal⟩
      have apart : h.tx.st ≠ .submitted ∧ h.tx.st ≠ .opened := by
        rcases tx with tx | tx <;> simp [tx]
      exact not_or.2 apart
    refine ⟨fun idle => ?_, fun passed not none => ?_, fun k passed not handler fresh => ?_, fun k n handler set passed => ?_⟩
    · refine exec_watchdogExpiry_of_idle (idle.imp (fun early => Bool.eq_false_iff.2 fun yes => ?_) mid.2)
      exact absurd (due.1 yes) (Nat.not_le.2 early)
    · refine ⟨_, exec_watchdogExpiry_of_none (due.2 passed) (between not) none, expires ?_⟩
      have plain : s.hart.eventDetail 0 = 0 := by
        unfold Hart.eventDetail
        rw [show s.hart.handler = Option.none from none]
        rfl
      split
      · have settled := s.settleLoads_hart_eq
        obtain ⟨sregs, vregs, wbuf, watch, settled⟩ := settled
        have landed : (s.settleLoads.upd fun h => { h.landAll with st := .resident }).Expires _ _ _ :=
          State.expire_expires _ 0 (by rw [State.upd_hart, Hart.landAll_eq, settled]; exact lane)
            (by rw [State.upd_hart, Hart.landAll_eq, settled]; exact good)
        have same : (s.settleLoads.upd fun h => { h.landAll with st := .resident }).hart.eventDetail 0 = s.hart.eventDetail 0 := by
          rw [State.upd_hart, Hart.landAll_eq, settled]
          rfl
        rw [same, plain] at landed
        exact State.expires_landed landed
      · have direct := s.expire_expires 0 lane good
        rwa [plain] at direct
    · exact exec_watchdogExpiry_of_handler (due.2 passed) (between not) handler fresh
    · have overrun : s.overrun s.hart = true := by
        unfold State.overrun
        rw [show s.hart.onCore = true from onCore, show s.hart.handler = some k from handler]
        have ran : n + s.hart.interval ≤ s.ns := passed
        simpa [set] using ran
      have direct := s.expire_expires 1 lane good
      have detail : s.hart.eventDetail 1 = 0x81 := by
        unfold Hart.eventDetail
        rw [show s.hart.handler = some k from handler]
        rfl
      rw [detail] at direct
      exact ⟨_, exec_handlerOverrun overrun, expires direct.spoil⟩

end Sys2Proof.Machine
end

section
/-! Landing, reading ahead and performing; obligation O49. -/

namespace Sys2Proof.Machine

/-! ### Producers land -/

theorem Hart.setFull_v (h : Hart) (r q : Nat) (inside : q < 32) : (h.setFull true r).v q =
    if q = r % 32 then { h.v q with cfg := (h.v q).cfg ||| 0x00080000 } else h.v q := by
  unfold Hart.setFull Hart.setV Hart.v
  dsimp only
  by_cases here : q = r % 32
  · subst here
    simp
  · rw [if_neg here]
    simp only [Nat.mod_eq_of_lt inside]
    exact Vector.getElem_set_ne _ _ fun same => here same.symm

/-- Registers made full: each named one has FE set, whatever the order (R49). -/
theorem Hart.setFulls_v (rs : List Nat) (h : Hart) {q : Nat} (inside : q < 32) : (h.setFulls true rs).v q =
    if q ∈ rs.map (· % 32) then { h.v q with cfg := (h.v q).cfg ||| 0x00080000 } else h.v q := by
  induction rs generalizing h with
  | nil => rfl
  | cons r rs ih =>
    show ((h.setFull true r).setFulls true rs).v q = _
    rw [ih, Hart.setFull_v _ _ _ inside, List.map_cons]
    by_cases here : q = r % 32
    · have twice : (h.v q).cfg ||| 0x00080000 ||| 0x00080000 = (h.v q).cfg ||| 0x00080000 := by
        rw [BitVec.or_assoc, BitVec.or_self]
      rw [if_pos here, if_pos (List.mem_cons.2 (.inl here))]
      split
      · rw [twice]
      · rfl
    · simp [here]

theorem exec_producerLands {s : State} {p : Pending} {ps : List Pending} (first : s.hart.pend = p :: ps) :
    exec .producerLands s = .next ((if s.hart.awaits p then s.settleLoads else s).upd fun h =>
      { h.setFulls true p.regs with pend := ps }) := by
  show execProducerLands s = _
  unfold execProducerLands
  rw [first]

theorem exec_producerLands_of_nil {s : State} (none : s.hart.pend = []) : exec .producerLands s = .next s := by
  show execProducerLands s = _
  unfold execProducerLands
  rw [none]

/-! ### Reading ahead -/

theorem exec_streamReadAhead {s : State} {g : BitVec 3} (n : BitVec 16) : exec (.streamReadAhead g n) s =
    if ((s.hart.gen g.toNat).bound || (s.hart.gen g.toNat).loaded) && !(s.hart.gen g.toNat).isWrite then
      .next (s.setHart (s.hart.setGen g.toNat { s.hart.gen g.toNat with
        ahead := min ((s.hart.gen g.toNat).ahead + n.toNat) ((s.hart.gen g.toNat).pat.total - (s.hart.gen g.toNat).pos) }))
    else .next s := rfl

/-! ### Accesses perform -/

theorem performFirst_of_apart {k : Nat} {ws : List HeldWrite} (apart : ∀ w ∈ ws, w.stream ≠ k) : performFirst k ws = none := by
  induction ws with
  | nil => rfl
  | cons w ws ih =>
    obtain ⟨here, rest⟩ := List.forall_mem_cons.1 apart
    unfold performFirst
    rw [if_neg here, ih rest]
    rfl

theorem performFirst_of_first {k : Nat} {before after : List HeldWrite} {w : HeldWrite} (mine : w.stream = k)
    (apart : ∀ x ∈ before, x.stream ≠ k) : performFirst k (before ++ w :: after) = some (w, before ++ after) := by
  induction before with
  | nil => exact if_pos mine
  | cons x xs ih =>
    obtain ⟨here, rest⟩ := List.forall_mem_cons.1 apart
    rw [List.cons_append, performFirst, if_neg here, ih rest]
    rfl

theorem firstLoad_of_apart {k : Nat} {ls : List LateLoad} (apart : ∀ l ∈ ls, l.stream ≠ k) : firstLoad k ls = none := by
  induction ls with
  | nil => rfl
  | cons l ls ih =>
    obtain ⟨here, rest⟩ := List.forall_mem_cons.1 apart
    unfold firstLoad
    rw [if_neg here, ih rest]
    rfl

theorem firstLoad_of_first {k : Nat} {before after : List LateLoad} {l : LateLoad} (mine : l.stream = k)
    (apart : ∀ x ∈ before, x.stream ≠ k) : firstLoad k (before ++ l :: after) = some (l, before ++ after) := by
  induction before with
  | nil => exact if_pos mine
  | cons x xs ih =>
    obtain ⟨here, rest⟩ := List.forall_mem_cons.1 apart
    rw [List.cons_append, firstLoad, if_neg here, ih rest]
    rfl

theorem exec_accessPerforms_of_write {s : State} {k : BitVec 4} {before after : List HeldWrite} {w : HeldWrite}
    (held : s.hart.wbuf = before ++ w :: after) (mine : w.stream = k.toNat) (apart : ∀ x ∈ before, x.stream ≠ k.toNat) :
    exec (.accessPerforms k) s = .next ((s.upd fun h => { h with wbuf := before ++ after }).commit w.pad w.addr w.data) := by
  show execAccessPerforms k s = _
  unfold execAccessPerforms
  rw [held, performFirst_of_first mine apart]

theorem exec_accessPerforms_of_load {s : State} {k : BitVec 4} {before after : List LateLoad} {l : LateLoad}
    (none : ∀ w ∈ s.hart.wbuf, w.stream ≠ k.toNat) (late : s.hart.late = before ++ l :: after) (mine : l.stream = k.toNat)
    (apart : ∀ x ∈ before, x.stream ≠ k.toNat) :
    exec (.accessPerforms k) s = .next ((s.upd fun h => { h with late := before ++ after }).landLate l) := by
  show execAccessPerforms k s = _
  unfold execAccessPerforms
  rw [performFirst_of_apart none]
  dsimp only
  rw [late, firstLoad_of_first mine apart]

theorem exec_accessPerforms_of_none {s : State} {k : BitVec 4} (none : ∀ w ∈ s.hart.wbuf, w.stream ≠ k.toNat)
    (prompt : ∀ l ∈ s.hart.late, l.stream ≠ k.toNat) : exec (.accessPerforms k) s = .next s := by
  show execAccessPerforms k s = _
  unfold execAccessPerforms
  rw [performFirst_of_apart none]
  dsimp only
  rw [firstLoad_of_apart prompt]

theorem State.drainList_of_apart {sel : Nat → Bool} {ws : List HeldWrite} (s : State) (apart : ∀ w ∈ ws, sel w.stream = false) :
    s.drainList sel ws = s := by
  induction ws with
  | nil => rfl
  | cons w ws ih =>
    obtain ⟨here, rest⟩ := List.forall_mem_cons.1 apart
    rw [State.drainList, here]
    exact ih rest

/-- Streams that hold nothing have nothing to perform. -/
theorem State.drain_of_apart {s : State} {sel : Nat → Bool} (apart : ∀ w ∈ s.hart.wbuf, sel w.stream = false) : s.drain sel = s := by
  have same : s.hart.wbuf.filter (fun w => !sel w.stream) = s.hart.wbuf := by
    rw [List.filter_eq_self]
    intro w m
    rw [apart w m]
    rfl
  unfold State.drain
  dsimp only
  rw [State.drainList_of_apart _ apart]
  show ({ s with hart := { s.hart with wbuf := s.hart.wbuf.filter fun w => !sel w.stream } } : State) = s
  rw [same]

/-- What a load reads depends on what its hart holds back alone. -/
theorem State.load_of_wbuf (s : State) {h h' : Hart} (same : h'.wbuf = h.wbuf) (k : Nat) (pad : Bool) (a n : Nat) :
    s.load h' k pad a n = s.load h k pad a n := by
  induction n generalizing a with
  | zero => rfl
  | succ n ih =>
    unfold State.load State.see
    rw [ih, same]

theorem State.load_upd (s : State) (f : Hart → Hart) (h : Hart) (k : Nat) (pad : Bool) (a n : Nat) :
    (s.upd f).load h k pad a n = s.load h k pad a n := by
  induction n generalizing a with
  | zero => rfl
  | succ n ih =>
    unfold State.load
    rw [ih]
    rfl

theorem toSigned_eq_toInt {w v : Nat} (small : v < 2 ^ w) : toSigned w v = (BitVec.ofNat w v).toInt := by
  unfold toSigned
  rw [BitVec.toInt_eq_toNat_cond, BitVec.toNat_ofNat, Nat.mod_eq_of_lt small]
  split
  · rfl
  · norm_num

/-- The elements of a load with what its stream sees at their addresses. -/
def State.readElems (s : State) (l : LateLoad) : List (Nat × Nat) :=
  l.elems.map fun p => (p.1, s.load s.hart l.stream false p.2 l.size)

theorem State.landLate_reads {s : State} {late : List LateLoad} {l : LateLoad} (none : ∀ w ∈ s.hart.wbuf, w.stream ≠ l.stream) :
    (s.upd fun h => { h with late := late }).drain (fun k => k == l.stream) = (s.upd fun h => { h with late := late }) ∧
    ∀ a, (s.upd fun h => { h with late := late }).load (s.upd fun h => { h with late := late }).hart l.stream false a l.size =
      s.load s.hart l.stream false a l.size := by
  refine ⟨State.drain_of_apart (by simpa using none), fun a => ?_⟩
  rw [State.load_upd]
  exact State.load_of_wbuf s (h := s.hart) (h' := { s.hart with late := late }) rfl _ _ _ _

/-- A scalar load reaching its register: what it reads is what its stream sees before it performs. -/
theorem State.landLate_scalar {s : State} {late : List LateLoad} {l : LateLoad} {r : Reg} {signed : Bool}
    (none : ∀ w ∈ s.hart.wbuf, w.stream ≠ l.stream) (scalar : l.dest = .scalar r signed) :
    (s.upd fun h => { h with late := late }).landLate l = s.setHart ({ s.hart with late := late }.wr r
      (loadedWord signed l.size (s.load s.hart l.stream false (l.elems.headD (0, 0)).2 l.size))) := by
  obtain ⟨still, reads⟩ := State.landLate_reads (late := late) none
  unfold State.landLate
  rw [still, scalar]
  dsimp only
  rw [reads]
  rfl

/-- A vector load reaching its group: bound registers apart, its elements are what its stream sees. -/
theorem State.landLate_vector {s : State} {late : List LateLoad} {l : LateLoad} {r g w : Nat}
    (none : ∀ w ∈ s.hart.wbuf, w.stream ≠ l.stream) (vector : l.dest = .vector r g w) :
    (s.upd fun h => { h with late := late }).landLate l = s.setHart
      ({ s.hart with late := late }.keepBound (members r g) ({ s.hart with late := late }.putBits r g
        ((s.readElems l).foldl (fun raw (p : Nat × Nat) => setElem raw w p.1 p.2) ({ s.hart with late := late }.grpBits r g)))) := by
  obtain ⟨still, reads⟩ := State.landLate_reads (late := late) none
  unfold State.landLate
  rw [still, vector]
  dsimp only
  simp only [reads]
  unfold State.readElems
  rw [List.foldl_map]
  rfl

theorem Hart.keepBound_v (h t : Hart) (rs : List Nat) (inside : ∀ r ∈ rs, r < 32) {q : Nat} (low : q < 32) :
    (h.keepBound rs t).v q = if q ∈ rs ∧ h.isBound q = true then h.v q else t.v q := by
  have fold : ∀ (l : List Nat) (t : Hart), (∀ r ∈ l, r < 32) →
      (l.foldl (fun t r => t.setV r (h.v r)) t).v q = if q ∈ l then h.v q else t.v q := by
    intro l
    induction l with
    | nil => exact fun _ _ => rfl
    | cons r l ih =>
      intro t inside
      obtain ⟨here, rest⟩ := List.forall_mem_cons.1 inside
      rw [List.foldl_cons, ih _ rest]
      by_cases same : r = q
      · subst same
        rw [setV_v_same]
        simp
      · rw [setV_v_other _ _ _ _ here low same]
        simp [show ¬q = r from fun e => same e.symm]
  unfold Hart.keepBound
  rw [fold _ _ fun r m => inside r (List.mem_filter.1 m).1]
  simp only [List.mem_filter]

/-- Elements put into a group whose registers are not bound. -/
theorem putBits_written {h : Hart} {d g w : Nat} {l : List (Nat × Nat)} {act : Nat → Bool} {val : Nat → Nat}
    (inside : d + g ≤ 32) (wide : h.w ≤ 8) (fits : ∀ p ∈ l, w * (p.1 + 1) ≤ 256 * h.w * g)
    (gives : ∀ e, l.reverse.find? (fun p => p.1 == e) = if act e then some (e, val e) else none) :
    GroupWritten h (h.putBits d g (l.foldl (fun raw p => setElem raw w p.1 p.2) (h.grpBits d g))) d g w id act val := by
  refine ⟨fun e _ => ?_, fun r m => ?_, fun r low other => ?_⟩
  · have small : l.foldl (fun raw p => setElem raw w p.1 p.2) (h.grpBits d g) < 2 ^ (256 * h.w * g) :=
      foldl_setElem_lt _ _ _ _ (grpBits_lt h d g) fits
    rw [Hart.elem, putBits_grpBits _ _ _ _ inside wide, Nat.mod_eq_of_lt small, elemAt_foldl, gives]
    cases act e <;> rfl
  · have range := (mem_members d g r).1 m
    rw [putBits_cfg _ _ _ _ _ inside (by omega)]
    rfl
  · have apart : r < d ∨ d + g ≤ r := by
      rw [mem_members] at other
      omega
    rw [putBits_v_other _ _ _ _ _ inside low apart]

theorem GroupWritten.of_vregs {h k h' : Hart} {d g w : Nat} {c : BitVec 32 → BitVec 32} {act : Nat → Bool} {val : Nat → Nat}
    (vregs : k.vregs = h.vregs) (width : k.w = h.w) (written : GroupWritten k h' d g w c act val) :
    GroupWritten h h' d g w c act val := by
  have same : ∀ q, k.v q = h.v q := fun q => by
    unfold Hart.v
    simp only [vregs]
  obtain ⟨elems, config, others⟩ := written
  refine ⟨fun e inside => ?_, fun r m => ?_, fun r low other => ?_⟩
  · rw [elems e (by rw [width]; exact inside), elem_congr h k d g w e width fun q _ _ => by rw [same]]
  · rw [config r m, same]
  · rw [others r low other, same]

/-- What a held write that performs changes: memory or a scratchpad with its errors, and what harts watch. -/
theorem State.commit_spec {s : State} (w : HeldWrite) (ws : List HeldWrite) (plain : w.pad = true ∨ w.addr < barBase) :
    let t := (s.upd fun h => { h with wbuf := ws }).commit w.pad w.addr w.data
    t = { s with hart := t.hart, parked := t.parked, mem := t.mem, pads := t.pads, poison := t.poison, padPoison := t.padPoison } ∧
    (∀ x, w.pad = false → (x ∈ t.poison ↔ x ∈ s.poison ∧ (x < w.addr ∨ w.addr + w.data.length ≤ x))) ∧
    (∀ x, w.pad = true → (x ∈ t.padPoison ↔ x ∈ s.padPoison ∧ (x < w.addr ∨ w.addr + w.data.length ≤ x))) ∧
    t.hart = { s.hart with wbuf := ws, watch := t.hart.watch } ∧ t.others = s.others ∧
    t.mem = (if w.pad then s.mem else memStore s.mem w.addr w.data) ∧
    t.pads = if w.pad then memStore s.pads w.addr w.data else s.pads := by
  intro t
  have hart : t.hart = { s.hart with wbuf := ws, watch := t.hart.watch } := State.commit_hart _ _ _ _
  have others : t.others = s.others := State.commit_others _ _ _ _
  have left : ∀ (x : Nat) (l : List Nat), x ∈ l.filter (fun p => !(decide (w.addr ≤ p) && decide (p < w.addr + w.data.length))) ↔
      x ∈ l ∧ (x < w.addr ∨ w.addr + w.data.length ≤ x) := fun x l => by
    rw [List.mem_filter]
    simp only [Bool.not_eq_true', Bool.and_eq_false_iff, decide_eq_false_iff_not, Nat.not_le, Nat.not_lt]
  cases pad : w.pad with
  | true =>
    have eq : t = (s.upd fun h => { h with wbuf := ws }).commitPad w.addr w.data := by
      show State.commit _ w.pad _ _ = _
      rw [pad]
      rfl
    have errors : t.padPoison = s.padPoison.filter fun p => !(decide (w.addr ≤ p) && decide (p < w.addr + w.data.length)) := by
      rw [eq]
      rfl
    exact ⟨by rw [eq]; rfl, fun _ no => absurd no (by decide), fun x _ => by rw [errors]; exact left x _, hart, others,
      by rw [eq]; rfl, by rw [eq]; rfl⟩
  | false =>
    have low : ¬barBase ≤ w.addr := by simpa [pad] using plain
    have eq : t = { (s.upd fun h => { h with wbuf := ws }).mapHarts (noteWrite w.addr w.data.length) with
        mem := memStore s.mem w.addr w.data
        poison := s.poison.filter fun p => !(decide (w.addr ≤ p) && decide (p < w.addr + w.data.length)) } := by
      show State.commit _ w.pad _ _ = _
      rw [pad]
      exact if_neg low
    have errors : t.poison = s.poison.filter fun p => !(decide (w.addr ≤ p) && decide (p < w.addr + w.data.length)) := by
      rw [eq]
    exact ⟨by rw [eq]; rfl, fun x _ => by rw [errors]; exact left x _, fun _ no => absurd no (by decide), hart, others,
      by rw [eq]; rfl, by rw [eq]; rfl⟩

/-- Where each element stands once, the last is the only one. -/
theorem find?_reverse_of_nodup {l : List (Nat × Nat)} {f : Nat → Nat} (once : (l.map fun p => p.1).Nodup) (e : Nat) :
    (l.map fun p => (p.1, f p.2)).reverse.find? (fun p => p.1 == e) =
      if decide (e ∈ l.map fun p => p.1) then some (e, f (lookupD l e 0)) else none := by
  induction l with
  | nil => rfl
  | cons p l ih =>
    obtain ⟨x, a⟩ := p
    rw [List.map_cons, List.nodup_cons] at once
    obtain ⟨fresh, once⟩ := once
    rw [List.map_cons, List.reverse_cons, List.find?_append, ih once]
    by_cases here : x = e
    · subst here
      have absent : decide (x ∈ l.map fun p => p.1) = false := decide_eq_false fresh
      rw [absent]
      simp [lookupD]
    · by_cases later : e ∈ l.map fun p => p.1
      · simp only [List.map_cons, List.mem_cons, later, or_true, decide_true, if_true, lookupD, if_neg here]
        rfl
      · have apart : ¬e = x := fun same => here same.symm
        simp only [List.map_cons, List.mem_cons, later, apart, or_self, decide_false]
        simp [here]

/-- Settles O49: each step acts on the oldest producer, write or load that it names. -/
theorem landingAndPerforming : Obligations.LandingAndPerforming := by
  unfold Obligations.LandingAndPerforming
  intro s core g n k h gen
  refine ⟨fun p ps first => ?_, exec_producerLands_of_nil, rfl, fun ready reads => ?_, fun bound loaded => ?_, fun writes => ?_,
    exec_accessPerforms_of_none, ?_, fun before w after held mine apart plain => ?_⟩
  · intro u m
    refine ⟨{ m.setFulls true p.regs with pend := ps }, exec_producerLands first, fun awaits => ?_, ?_, fun r inside => ?_⟩
    · have settled : m = s.settleLoads.hart := congrArg State.hart (if_pos awaits)
      obtain ⟨sregs, vregs, wbuf, watch, eq⟩ := s.settleLoads_hart_eq
      rw [Hart.setFulls_eq, settled, eq]
    · rw [Hart.setFulls_eq]
    · exact Hart.setFulls_v p.regs m inside
  · rw [exec_streamReadAhead, if_pos]
    rw [Bool.and_eq_true, Bool.or_eq_true]
    exact ⟨ready, by rw [show (s.hart.gen g.toNat).isWrite = false from reads]; rfl⟩
  · rw [exec_streamReadAhead, if_neg]
    simp [show (s.hart.gen g.toNat).bound = false from bound, show (s.hart.gen g.toNat).loaded = false from loaded]
  · rw [exec_streamReadAhead, if_neg]
    simp [show (s.hart.gen g.toNat).isWrite = true from writes]
  · intro before l after none late mine apart val
    have none' : ∀ w ∈ h.wbuf, w.stream ≠ l.stream := by
      rw [mine]
      exact none
    have reads : ∀ a, s.load h l.stream false a l.size = val a := fun a => by rw [mine]
    refine ⟨fun r signed e a scalar elems size => ?_, fun r m w vector wide width inside once fits => ?_⟩
    · rw [exec_accessPerforms_of_load none late mine apart, State.landLate_scalar none' scalar, elems]
      show Host.Outcome.next (s.setHart (Hart.wr _ r (loadedWord signed l.size (s.load h l.stream false a l.size)))) = _
      have small : val a < 2 ^ (8 * l.size) := by
        rw [Nat.pow_mul]
        exact s.load_lt _ _ _ _ _
      rw [reads, loadedWord, toSigned_eq_toInt small]
    · rw [exec_accessPerforms_of_load none late mine apart, State.landLate_vector none' vector]
      have inside' : ∀ i ∈ members r m, i < 32 := fun i mem => by
        have := (mem_members r m i).1 mem
        omega
      have listed : s.readElems l = l.elems.map fun p => (p.1, val p.2) := by
        unfold State.readElems
        exact List.map_congr_left fun p _ => congrArg _ (reads p.2)
      refine ⟨_, rfl, ?_, fun i low bound => ?_, fun free => ?_⟩
      · rw [Hart.keepBound_eq, putBits_eq]
      · rw [Hart.keepBound_v _ _ _ inside' low]
        by_cases mem : i ∈ members r m
        · exact if_pos ⟨mem, bound⟩
        · rw [if_neg fun both => mem both.1]
          exact putBits_v_other _ _ _ _ _ inside low (by rw [mem_members] at mem; omega)
      · rw [keepBound_self { s.hart with late := before ++ after } _ _ free, listed]
        refine GroupWritten.of_vregs (k := { s.hart with late := before ++ after }) rfl rfl (putBits_written inside
          (grantWidth_le h.w wide) (fun p mem => ?_) fun e => find?_reverse_of_nodup (f := val) once e)
        obtain ⟨q, listed, rfl⟩ := List.mem_map.1 mem
        exact fits q listed
  · exact ⟨_, exec_accessPerforms_of_write held mine apart, State.commit_spec w (before ++ after) plain⟩

end Sys2Proof.Machine
end

section
/-! Objects and launches; obligation O59. -/

namespace Sys2Proof.Machine

/-! ### The command in hand -/

theorem State.command_of_handed {s : State} {op : Nat} {ms : List Nat} {c : Cmd} (handed : s.handed op ms c) (f : Cmd → State) :
    s.command op ms f = .next (f c) := by
  obtain ⟨hand, may, clean⟩ := handed
  have begins : ¬(!c.began && !s.mayBegin c) = true := by
    rcases may with h | h <;> simp [h]
  unfold State.command
  rw [hand]
  dsimp only
  rw [if_neg begins, if_neg (by simp [clean])]

theorem State.handed_mem {s : State} {op : Nat} {ms : List Nat} {c : Cmd} (handed : s.handed op ms c) : c ∈ s.cmds ∧ c.opc = op := by
  obtain ⟨hand, -, -⟩ := handed
  unfold State.handCmd at hand
  split at hand
  · cases hand
  · have found := List.find?_some hand
    exact ⟨List.mem_of_find?_eq_some hand, by simpa using (Bool.and_eq_true_iff.1 found).2⟩

/-! ### Loading and unloading -/

/-- The image that a LOAD names, and the loaded object of its digest. -/
def State.image (s : State) (c : Cmd) : List Byte := memBytes s.mem (c.d 1) (c.d 2)

def State.sameObject (s : State) (c : Cmd) : Option Obj := s.objs.find? fun o => decide (o.digest = Config.sm3 (s.image c))

/-- The object that a LOAD of a new image makes of its native code. -/
def State.newObject (s : State) (c : Cmd) (native : List Byte) : Obj :=
  { handle := c.seq + 1, digest := Config.sm3 (s.image c), entry := BitVec.ofNat 64 s.nextEntry, len := native.length
    refs := [c.queue] }

section
variable {s : State} {c : Cmd} {ms : List Nat}

theorem exec_load_of_outside (handed : s.handed 3 [whole, whole, whole] c) (outside : hbmBytes < c.d 1 + c.d 2) :
    exec .load s = .next (s.complete c 1) := by
  refine (State.command_of_handed handed _).trans (congrArg Host.Outcome.next ?_)
  exact if_pos outside

theorem exec_load_of_known (handed : s.handed 3 [whole, whole, whole] c) (inside : c.d 1 + c.d 2 ≤ hbmBytes) {o : Obj}
    (known : s.sameObject c = some o) : exec .load s = .next
      ((State.loadResult { s with objs := s.objs.map fun x => if x.handle = o.handle then { x with refs := c.queue :: x.refs } else x }
        c o).complete c 0) := by
  refine (State.command_of_handed handed _).trans (congrArg Host.Outcome.next ?_)
  have found : s.objs.find? (fun o => decide (o.digest = Config.sm3 (memBytes s.mem (c.d 1) (c.d 2)))) = some o := known
  dsimp only
  rw [if_neg (Nat.not_lt.2 inside), found]

theorem exec_load_of_refused (handed : s.handed 3 [whole, whole, whole] c) (inside : c.d 1 + c.d 2 ≤ hbmBytes)
    (new : s.sameObject c = none) (refused : Config.orieder (s.image c) = none) : exec .load s = .next (s.complete c 3) := by
  refine (State.command_of_handed handed _).trans (congrArg Host.Outcome.next ?_)
  have found : s.objs.find? (fun o => decide (o.digest = Config.sm3 (memBytes s.mem (c.d 1) (c.d 2)))) = none := new
  have refused' : Config.orieder (memBytes s.mem (c.d 1) (c.d 2)) = none := refused
  dsimp only
  rw [if_neg (Nat.not_lt.2 inside), found]
  dsimp only
  rw [refused']

theorem exec_load_of_native (handed : s.handed 3 [whole, whole, whole] c) (inside : c.d 1 + c.d 2 ≤ hbmBytes)
    (new : s.sameObject c = none) {native : List Byte} (translated : Config.orieder (s.image c) = some native) : exec .load s = .next
      (if hbmBytes < objectStore + (s.nextEntry - codeWindow) + native.length then s.complete c 3
       else (State.loadResult (State.putDevice { s with objs := s.objs ++ [s.newObject c native] }
         (objectStore + (s.nextEntry - codeWindow)) native) c (s.newObject c native)).complete c 0) := by
  refine (State.command_of_handed handed _).trans (congrArg Host.Outcome.next ?_)
  have found : s.objs.find? (fun o => decide (o.digest = Config.sm3 (memBytes s.mem (c.d 1) (c.d 2)))) = none := new
  have translated' : Config.orieder (memBytes s.mem (c.d 1) (c.d 2)) = some native := translated
  dsimp only
  rw [if_neg (Nat.not_lt.2 inside), found]
  dsimp only
  rw [translated']
  rfl

end

theorem State.complete_objs (s : State) (c : Cmd) (o : Nat) : (s.complete c o).objs = s.objs := by
  have kept := s.told_accessed c o
  rw [State.complete_eq]
  show (s.told c o).objs = s.objs
  rw [kept]

theorem State.putDevice_objs (s : State) (a : Nat) (bs : List Byte) : (s.putDevice a bs).objs = s.objs := by
  have kept := (State.Accessed.refl s).putDevice a bs
  rw [kept]

/-- A LOAD's handle and entry stand where it asked for them, apart from its completion doubleword (R330). -/
theorem State.loadResult_answered {s : State} {c : Cmd} (o : Obj) (inv : s.MemInv) (inside : c.d 3 + 16 ≤ hbmBytes)
    (apart : c.d 7 % 2 ^ 56 + 8 ≤ c.d 3 ∨ c.d 3 + 16 ≤ c.d 7 % 2 ^ 56) :
    memRead ((s.loadResult c o).complete c 0).mem (c.d 3) 8 = o.handle.toNat ∧
      memRead ((s.loadResult c o).complete c 0).mem (c.d 3 + 8) 8 = o.entry.toNat := by
  have inv' : (s.loadResult c o).MemInv := State.putDevice_memInv _ _ _ inv
  have words : natLe 8 o.handle.toNat ++ natLe 8 o.entry.toNat = [o.handle.toNat, o.entry.toNat].flatMap (natLe 8) := by simp
  have stored : (s.loadResult c o).mem = memStore s.mem (c.d 3) ([o.handle.toNat, o.entry.toNat].flatMap (natLe 8)) := by
    unfold State.loadResult
    rw [words]
    exact (State.putDevice_hbm s _ _ (by simpa using inside)).1
  have reads : ∀ i < 2, memRead ((s.loadResult c o).complete c 0).mem (c.d 3 + 8 * i) 8 =
      memRead (memStore s.mem (c.d 3) ([o.handle.toNat, o.entry.toNat].flatMap (natLe 8))) (c.d 3 + 8 * i) 8 := fun i low => by
    rw [← stored]
    exact memRead_congr _ _ _ _ fun x _ _ => State.complete_other _ _ _ inv' (by omega)
  refine ⟨?_, ?_⟩
  · have first := (reads 0 (by decide)).trans (memRead_memStore_doublewords [_, _] s.mem (c.d 3) 0 inv.1 (Nat.zero_lt_succ _))
    simpa [Nat.mod_eq_of_lt o.handle.isLt] using first
  · have second := (reads 1 (by decide)).trans (memRead_memStore_doublewords [_, _] s.mem (c.d 3) 1 inv.1 Nat.one_lt_two)
    simpa [Nat.mod_eq_of_lt o.entry.isLt] using second

/-- An object's code stands below the place of the next one, which is in the code window. -/
theorem State.nextEntry_above (s : State) : codeWindow ≤ s.nextEntry ∧ ∀ x ∈ s.objs, x.entry.toNat + x.len ≤ s.nextEntry := by
  have fold : ∀ (l : List Obj) (e : Nat), let n := l.foldl (fun e o => max e ((o.entry.toNat + o.len + 2 ^ 18 - 1) / 2 ^ 18 * 2 ^ 18)) e
      e ≤ n ∧ ∀ x ∈ l, x.entry.toNat + x.len ≤ n := by
    intro l
    induction l with
    | nil => exact fun e => ⟨Nat.le_refl e, fun x m => nomatch m⟩
    | cons o l ih =>
      intro e n
      obtain ⟨base, above⟩ := ih (max e ((o.entry.toNat + o.len + 2 ^ 18 - 1) / 2 ^ 18 * 2 ^ 18))
      have up : o.entry.toNat + o.len ≤ (o.entry.toNat + o.len + 2 ^ 18 - 1) / 2 ^ 18 * 2 ^ 18 := by omega
      refine ⟨(Nat.le_max_left _ _).trans base, fun x m => ?_⟩
      rcases List.mem_cons.1 m with rfl | m
      · exact (up.trans (Nat.le_max_right _ _)).trans base
      · exact above x m
  exact fold s.objs codeWindow

/-- The code of a new object that finds room stands in the code window, above that of every other (R340). -/
theorem State.newObject_placed {s : State} (c : Cmd) {native : List Byte}
    (room : objectStore + (s.nextEntry - codeWindow) + native.length ≤ hbmBytes) : let o := s.newObject c native
      codeWindow ≤ o.entry.toNat ∧ o.entry.toNat + o.len ≤ kvWindow ∧ ∀ x ∈ s.objs, x.entry.toNat + x.len ≤ o.entry.toNat := by
  obtain ⟨base, above⟩ := s.nextEntry_above
  have small : s.nextEntry < 2 ^ 64 := by
    simp only [objectStore, codeWindow, hbmBytes] at room base
    omega
  have entry : (s.newObject c native).entry.toNat = s.nextEntry := by
    show (BitVec.ofNat 64 s.nextEntry).toNat = _
    rw [BitVec.toNat_ofNat, Nat.mod_eq_of_lt small]
  have len : (s.newObject c native).len = native.length := rfl
  intro o
  rw [show o.entry.toNat = s.nextEntry from entry, show o.len = native.length from len]
  refine ⟨base, ?_, above⟩
  simp only [objectStore, codeWindow, hbmBytes, kvWindow] at room base ⊢
  omega

/-- A LOAD's answer and its completion leave the code of a new object as it was stored. -/
theorem State.newObject_stored {s : State} {c : Cmd} (o : Obj) {native : List Byte} {base : Nat} (inv : s.MemInv)
    (high : objectStore ≤ base) (room : base + native.length ≤ hbmBytes) (result : c.d 3 + 16 ≤ objectStore)
    (completion : c.d 7 % 2 ^ 56 + 8 ≤ objectStore) {i : Nat} (inside : i < native.length) :
    memGet ((State.loadResult (s.putDevice base native) c o).complete c 0).mem (base + i) = native.getD i 0 := by
  have inv1 := State.putDevice_memInv s base native inv
  have inv2 : (State.loadResult (s.putDevice base native) c o).MemInv := State.putDevice_memInv _ _ _ inv1
  rw [State.complete_other _ _ _ inv2 (.inr (by omega)), State.loadResult,
    State.putDevice_other _ _ _ inv1 (.inr (by rw [List.length_append, natLe_length, natLe_length]; omega)),
    (State.putDevice_hbm s _ _ room).1]
  rw [memGet_memStore_same native s.mem _ i inv.1 inside, List.getD_eq_getElem _ _ inside]

section
variable {s : State} {c : Cmd}

theorem exec_unload_of_none (handed : s.handed 4 [whole] c)
    (started : ∀ x ∈ s.cmds, x.queue = c.queue → x.seq.toNat < c.seq.toNat → x.opc ≠ 5)
    (none : ∀ o ∈ s.objs, o.handle.toNat = c.d 1 → c.queue ∉ o.refs) : exec .unload s = .next (s.complete c 5) := by
  refine (State.command_of_handed handed _).trans (congrArg Host.Outcome.next ?_)
  have ready : ¬(s.earlier c).any (fun x => x.opc == 5) = true := by
    unfold State.earlier
    simpa using started
  have found : s.objs.find? (fun o => o.handle.toNat == c.d 1 && o.refs.contains c.queue) = Option.none := by simpa using none
  dsimp only
  rw [if_neg ready, found]

theorem exec_unload_of_some (handed : s.handed 4 [whole] c)
    (started : ∀ x ∈ s.cmds, x.queue = c.queue → x.seq.toNat < c.seq.toNat → x.opc ≠ 5)
    (held : ∃ o ∈ s.objs, o.handle.toNat = c.d 1 ∧ c.queue ∈ o.refs) : exec .unload s = .next (State.complete { s with
      objs := (s.objs.map fun x => if x.handle.toNat = c.d 1 then { x with refs := x.refs.erase c.queue } else x).filter
        fun x => !x.refs.isEmpty } c 0) := by
  refine (State.command_of_handed handed _).trans (congrArg Host.Outcome.next ?_)
  have ready : ¬(s.earlier c).any (fun x => x.opc == 5) = true := by
    unfold State.earlier
    simpa using started
  obtain ⟨o, found⟩ : ∃ o, s.objs.find? (fun o => o.handle.toNat == c.d 1 && o.refs.contains c.queue) = some o := by
    obtain ⟨o, m, handle, ref⟩ := held
    exact Option.isSome_iff_exists.1 (List.find?_isSome.2 ⟨o, m, by simp [handle, ref]⟩)
  have handle : o.handle.toNat = c.d 1 := by
    have found := List.find?_some found
    simpa using (Bool.and_eq_true_iff.1 found).1
  dsimp only
  rw [if_neg ready, found]
  dsimp only
  have same : ∀ x : Obj, (x.handle = o.handle) = (x.handle.toNat = c.d 1) := fun x => by
    rw [← handle]
    exact propext BitVec.toNat_inj.symm
  simp only [same]

end


/-! ### Launching -/

/-- The scalars a hart starts with (R9). -/
theorem Hart.create_rd (name : HartId) (info : LaunchInfo) (args now : Nat) (r : Reg) : (Hart.create name info args now).rd r =
    if r = 5 then BitVec.ofNat 64 args else if r = 4 then info.hcnt.setWidth 64 else if r = 3 then name.hidx.setWidth 64
    else if r = 2 then BitVec.ofNat 64 (info.stkb.toNat + (name.hidx.toNat + 1) * info.stks.toNat) else 0 := by
  have number : ∀ n : Reg, (n.toNat = r.toNat) = (r = n) := fun n => propext (BitVec.toNat_inj.trans eq_comm)
  have five : (5 = r.toNat) = (r = 5) := number 5
  have four : (4 = r.toNat) = (r = 4) := number 4
  have three : (3 = r.toNat) = (r = 3) := number 3
  have two : (2 = r.toNat) = (r = 2) := number 2
  unfold Hart.rd Hart.create Hart.blank
  simp only [Vector.getElem_set, five, four, three, two, Vector.getElem_replicate]
  by_cases zero : r = 0
  · subst zero
    rfl
  · rw [if_neg zero]

/-- The rest of a hart's start values (R9, R45). -/
theorem Hart.create_rest (name : HartId) (info : LaunchInfo) (args now : Nat) : let h := Hart.create name info args now
    h.id = name ∧ h.st = .created ∧ h.pc = info.code.setWidth 64 ∧ h.vl = 0 ∧ h.save = none ∧ (∀ k < 8, h.mask k = 0) ∧
    (∀ r < 32, cfgTag (h.v r).cfg = 0 ∧ cfgFull (h.v r).cfg = true) ∧ ∀ k ∈ h.tiles.toList, k.enabled = false := by
  refine ⟨rfl, rfl, rfl, rfl, rfl, fun k _ => ?_, fun r _ => ?_, fun k m => ?_⟩
  · unfold Hart.mask Hart.create Hart.blank
    simp
  · have fresh : (Hart.create name info args now).v r = VReg.fresh := by
      unfold Hart.v Hart.create Hart.blank
      simp
    rw [fresh]
    decide
  · have same : k = { enabled := false, data := 0 } := by
      unfold Hart.create Hart.blank at m
      simpa using m
    rw [same]

theorem State.writeLevels_accessed (s : State) (rcb : Nat) : s.Accessed (s.writeLevels rcb) ∧
    (s.writeLevels rcb).contexts = s.contexts := by
  unfold State.writeLevels
  dsimp only
  generalize s.path rcb = p
  have fold : ∀ (l : List Nat) (t : State), s.Accessed t → t.contexts = s.contexts →
      let u := l.foldl (fun (s : State) i => s.putDevice (p.getD i 0 + 6) [BitVec.ofNat 8
        (memRead s.mem (p.getD i 0 + 6) 1 % 2 + (p.length - 1 - i) % 8 * 2 + memRead s.mem (p.getD i 0 + 6) 1 / 16 * 16)]) t
      s.Accessed u ∧ u.contexts = s.contexts := by
    intro l
    induction l with
    | nil => exact fun t h k => ⟨h, k⟩
    | cons i l ih => exact fun t h k => ih _ (h.putDevice _ _) ((State.putDevice_contexts _ _ _).trans k)
  exact fold _ s (.refl s) rfl

/-- The harts a launch creates. -/
def State.newHarts (s : State) (c : Cmd) : List Hart :=
  (List.range (s.launchInfo (c.d 1)).hcnt.toNat).map fun i =>
    Hart.create { rcb := BitVec.ofNat 56 (c.d 1), hidx := BitVec.ofNat 32 i, seq := c.seq } (s.launchInfo (c.d 1))
      (bits (s.rcbD (c.d 1) 11) 0 56) s.cycle

theorem State.powerUp_launch (s : State) : s.powerUp.launches = s.launches ∧ s.powerUp.parked = s.parked := by
  have kept := (State.HostRegisters.refl s).powerUp
  rw [kept]
  exact ⟨rfl, rfl⟩

/-- An accepted launch stands with its harts parked (R8). -/
theorem State.startLaunch_spec (s : State) (c : Cmd) : ∃ l, (s.startLaunch c).launches = s.launches ++ [l] ∧ l.seq = c.seq ∧
    l.queue = c.queue ∧ l.left = (s.launchInfo (c.d 1)).hcnt.toNat ∧ l.cancelled = false ∧
    ∃ old, old.length = s.parked.length ∧ (s.startLaunch c).parked = old ++ s.newHarts c := by
  obtain ⟨accessed, contexts⟩ := (s.begin c).writeLevels_accessed (c.d 1)
  have launches : ((s.begin c).writeLevels (c.d 1)).launches = s.launches := accessed.launches
  have length : ((s.begin c).writeLevels (c.d 1)).parked.length = s.parked.length := by
    have same := congrArg List.length contexts
    unfold State.contexts State.harts at same
    have begun : (s.begin c).parked.length = s.parked.length := rfl
    rw [← begun]
    simpa using same
  unfold State.startLaunch
  dsimp only
  rw [(State.powerUp_launch _).1, (State.powerUp_launch _).2, launches]
  exact ⟨_, rfl, rfl, rfl, rfl, rfl, _, length, rfl⟩

section
variable {s : State} {c : Cmd}

/-- The dies of a launch's CMASK. -/
def State.cmaskOf (s : State) (c : Cmd) : Nat := s.rcbD (c.d 1) 15 + s.rcbD (c.d 1) 16 * 2 ^ 64

theorem exec_launch_of_rejected (handed : s.handed 5 [whole, whole] c) (fresh : c.began = false)
    (bad : 2 ^ 56 ≤ c.d 1 ∨ s.launchOk (c.d 1) = false) : exec .launch s = .next (s.complete c 2) := by
  refine (State.command_of_handed handed _).trans (congrArg Host.Outcome.next ?_)
  dsimp only
  rw [if_neg (by rw [fresh]; decide), if_pos]
  exact bad.imp_right .inl

theorem exec_launch_of_accepted (handed : s.handed 5 [whole, whole] c) (fresh : c.began = false)
    (small : c.d 1 < 2 ^ 56) (ok : s.launchOk (c.d 1) = true) {o : Obj} (found : s.objs.find? (fun o => o.handle.toNat == c.d 2) = some o)
    (above : o.entry.toNat ≤ s.rcbD (c.d 1) 9 % 2 ^ 56) (below : s.rcbD (c.d 1) 9 % 2 ^ 56 < o.entry.toNat + o.len)
    (whole' : s.rcbD (c.d 1) 9 % 2 ^ 56 + s.rcbD (c.d 1) 10 % 2 ^ 32 ≤ o.entry.toNat + o.len)
    (die : ∃ d < 4, s.joined.getLsbD d = true ∧ (s.cmaskOf c = 0 ∨ s.cmaskOf c / 2 ^ (32 * d) % 2 ^ 32 ≠ 0)) :
    exec .launch s = .next (s.startLaunch c) := by
  refine (State.command_of_handed handed _).trans (congrArg Host.Outcome.next ?_)
  dsimp only
  have code : bits (s.rcbD (c.d 1) 9) 0 56 = s.rcbD (c.d 1) 9 % 2 ^ 56 := by simp [bits]
  have segb : bits (s.rcbD (c.d 1) 10) 0 32 = s.rcbD (c.d 1) 10 % 2 ^ 32 := by simp [bits]
  have joins : (List.range 4).any (fun d => s.joined.getLsbD d &&
      (s.cmaskOf c == 0 || bits (s.cmaskOf c) (32 * d) 32 != 0)) = true := by
    obtain ⟨d, low, joined, mask⟩ := die
    refine List.any_eq_true.2 ⟨d, List.mem_range.2 low, ?_⟩
    simpa [joined, bits] using mask
  rw [if_neg (by rw [fresh]; decide), found, code, segb, if_neg, if_pos]
  · exact joins
  · refine not_or.2 ⟨Nat.not_le.2 small, not_or.2 ⟨by rw [ok]; decide, ?_⟩⟩
    dsimp only
    rw [decide_eq_true above, decide_eq_true below, decide_eq_true whole']
    decide

end


/-- A hart of a launch at its creation (R9). -/
theorem State.newHarts_spec {s : State} {c : Cmd} (small : c.d 1 < 2 ^ 56) {i : Nat} (inside : i < s.rcbD (c.d 1) 8 % 2 ^ 32) :
    ∃ h ∈ s.newHarts c, h.id.rcb.toNat = c.d 1 ∧ h.id.hidx = BitVec.ofNat 32 i ∧ h.id.seq = c.seq ∧ h.st = .created ∧
      h.pc.toNat = s.rcbD (c.d 1) 9 % 2 ^ 56 ∧
      (h.rd 2).toNat = (s.rcbD (c.d 1) 12 % 2 ^ 56 + (i + 1) * (s.rcbD (c.d 1) 13 % 2 ^ 32)) % 2 ^ 64 ∧
      h.rd 3 = BitVec.ofNat 64 i ∧ (h.rd 4).toNat = s.rcbD (c.d 1) 8 % 2 ^ 32 ∧ (h.rd 5).toNat = s.rcbD (c.d 1) 11 % 2 ^ 56 ∧
      h.vl = 0 ∧ h.save = none ∧ (∀ r : Reg, r ∉ [2, 3, 4, 5] → h.rd r = 0) ∧ (∀ k < 8, h.mask k = 0) ∧
      (∀ r < 32, cfgTag (h.v r).cfg = 0 ∧ cfgFull (h.v r).cfg = true) ∧ (∀ k ∈ h.tiles.toList, k.enabled = false) := by
  let name : HartId := { rcb := BitVec.ofNat 56 (c.d 1), hidx := BitVec.ofNat 32 i, seq := c.seq }
  obtain ⟨id, st, pc, vl, save, masks, cfgs, tiles⟩ :=
    Hart.create_rest name (s.launchInfo (c.d 1)) (bits (s.rcbD (c.d 1) 11) 0 56) s.cycle
  have scalars := Hart.create_rd name (s.launchInfo (c.d 1)) (bits (s.rcbD (c.d 1) 11) 0 56) s.cycle
  generalize eq : Hart.create name (s.launchInfo (c.d 1)) (bits (s.rcbD (c.d 1) 11) 0 56) s.cycle = h at *
  have count : (s.launchInfo (c.d 1)).hcnt.toNat = s.rcbD (c.d 1) 8 % 2 ^ 32 := BitVec.toNat_ofNat _ _
  have low : i < 2 ^ 32 := Nat.lt_of_lt_of_le inside (Nat.le_of_lt (Nat.mod_lt _ (by decide)))
  refine ⟨h, List.mem_map.2 ⟨i, List.mem_range.2 (by rw [count]; exact inside), eq⟩, ?_, ?_, ?_, st, ?_, ?_, ?_, ?_, ?_, vl, save, ?_,
    masks, cfgs, tiles⟩
  · rw [id]
    show (BitVec.ofNat 56 (c.d 1)).toNat = _
    rw [BitVec.toNat_ofNat, Nat.mod_eq_of_lt small]
  · rw [id]
  · rw [id]
  · rw [pc]
    show ((BitVec.ofNat 56 (s.rcbD (c.d 1) 9)).setWidth 64).toNat = _
    rw [BitVec.toNat_setWidth, BitVec.toNat_ofNat]
    omega
  · rw [scalars]
    show (BitVec.ofNat 64 ((BitVec.ofNat 56 (s.rcbD (c.d 1) 12)).toNat + ((BitVec.ofNat 32 i).toNat + 1) *
      (BitVec.ofNat 32 (s.rcbD (c.d 1) 13)).toNat)).toNat = _
    rw [BitVec.toNat_ofNat, BitVec.toNat_ofNat, BitVec.toNat_ofNat, BitVec.toNat_ofNat, Nat.mod_eq_of_lt low]
  · rw [scalars]
    show (BitVec.ofNat 32 i).setWidth 64 = _
    rw [BitVec.setWidth_ofNat_of_le_of_lt (by decide) low]
  · rw [scalars]
    show ((BitVec.ofNat 32 (s.rcbD (c.d 1) 8)).setWidth 64).toNat = _
    rw [BitVec.toNat_setWidth, BitVec.toNat_ofNat]
    omega
  · rw [scalars]
    show (BitVec.ofNat 64 (bits (s.rcbD (c.d 1) 11) 0 56)).toNat = _
    rw [BitVec.toNat_ofNat]
    simp only [bits]
    omega
  · intro r other
    simp only [List.mem_cons, List.not_mem_nil, or_false, not_or] at other
    obtain ⟨two, three, four, five⟩ := other
    rw [scalars, if_neg five, if_neg four, if_neg three, if_neg two]

/-- Settles O59: each command's effect at the command in hand, and what its completion leaves. -/
theorem objectCommands : Obligations.ObjectCommands := by
  unfold Obligations.ObjectCommands
  intro s c inv w image same answered
  have quiet : ∀ (u : State) (o : Nat), u.mem = s.mem → u.contexts = s.contexts → u.MemInv →
      QuietlyCompletes s (u.complete c o) c o := by
    intro u o mem contexts inv'
    obtain ⟨done, kept, bytes⟩ := u.complete_quietlyCompletes c o inv'
    exact ⟨done, kept.trans contexts, fun x outside => (bytes x outside).trans (by rw [mem])⟩
  have plain := fun o => quiet s o rfl rfl inv
  refine ⟨fun handed => ⟨fun outside => ⟨_, exec_load_of_outside handed outside, plain 1⟩, fun inside => ⟨fun o known => ?_,
    fun new => ⟨fun refused => ⟨_, exec_load_of_refused handed inside new refused, plain 3⟩, ?_⟩⟩⟩, fun handed started =>
    ⟨fun none => ⟨_, exec_unload_of_none handed started none, plain 5⟩, fun held => ?_⟩, ?_⟩
  · refine ⟨_, exec_load_of_known handed inside known, State.complete_completes _ _ _ (State.putDevice_memInv _ _ _ inv),
      (State.complete_contexts _ _ _).trans (State.putDevice_contexts _ _ _), State.loadResult_answered o inv, ?_⟩
    rw [State.complete_objs]
    exact State.putDevice_objs _ _ _
  · intro native translated at_
    have run := exec_load_of_native handed inside new translated
    refine ⟨fun full => ⟨_, run.trans (congrArg _ (if_pos full)), plain 3⟩, fun room => ?_⟩
    have stored := State.putDevice_memInv ({ s with objs := s.objs ++ [s.newObject c native] }) at_ native inv
    obtain ⟨base, end_, above⟩ := State.newObject_placed c room
    refine ⟨_, s.newObject c native, run.trans (congrArg _ (if_neg (Nat.not_lt.2 room))),
      State.complete_completes _ _ _ (State.putDevice_memInv _ _ _ stored),
      (State.complete_contexts _ _ _).trans ((State.putDevice_contexts _ _ _).trans (State.putDevice_contexts _ _ _)),
      State.loadResult_answered _ stored, ?_, rfl, rfl, rfl, base, end_, above, fun result completion i low =>
        State.newObject_stored (s := { s with objs := s.objs ++ [s.newObject c native] }) _ inv (Nat.le_add_right _ _) room result
          completion low⟩
    rw [State.complete_objs]
    exact (State.putDevice_objs _ _ _).trans (State.putDevice_objs _ _ _)
  · exact ⟨_, exec_unload_of_some handed started held, quiet _ 0 rfl rfl inv, State.complete_objs _ _ _⟩
  · intro handed fresh rcb code mask n
    refine ⟨fun bad => ⟨_, exec_launch_of_rejected handed fresh bad, plain 2⟩, fun small ok o found above below inside die => ?_⟩
    obtain ⟨l, launches, seq, queue, left, cancelled, old, length, parked⟩ := s.startLaunch_spec c
    have count : (s.launchInfo (c.d 1)).hcnt.toNat = s.rcbD (c.d 1) 8 % 2 ^ 32 := BitVec.toNat_ofNat _ _
    refine ⟨_, l, exec_launch_of_accepted handed fresh small ok found above below inside die, launches, seq, queue, left.trans count,
      cancelled, ?_, fun i low => ?_⟩
    · rw [parked, List.length_append, length]
      unfold State.newHarts
      rw [List.length_map, List.length_range, count]
    · obtain ⟨h, mem, rest⟩ := State.newHarts_spec small low
      exact ⟨h, by rw [parked]; exact List.mem_append_right _ mem, rest⟩

end Sys2Proof.Machine
end

section
/-! Harts by name, and releasing them. -/

namespace Sys2Proof.Machine

/-! ### Harts by name -/

theorem State.mem_harts_of_contexts {s t : State} (same : t.contexts = s.contexts) {x : Hart} (m : x ∈ s.harts) :
    ∃ y ∈ t.harts, y = { x with watch := y.watch } := by
  have m' : ({ x with watch := Watch.none } : Hart) ∈ t.contexts := by
    rw [same]
    exact List.mem_map_of_mem m
  obtain ⟨y, my, eq⟩ := List.mem_map.1 m'
  exact ⟨y, my, congrArg (fun h : Hart => { h with watch := y.watch }) eq⟩

/-- What a step on one hart leaves alone of the others: all but what they watch, and a change of LPART they have yet to follow. -/
def Hart.bare (h : Hart) : Hart := { h with watch := Watch.none, partDue := false }

/-- The harts out of focus, bare. -/
def State.rest (s : State) : List Hart := s.parked.map Hart.bare

theorem State.rest_of_others {s t : State} (same : t.others = s.others) : t.rest = s.rest := by
  have mapped := congrArg (List.map Hart.bare) same
  unfold State.others at mapped
  rw [List.map_map, List.map_map] at mapped
  exact mapped

theorem State.focus_hart_id {s : State} {id : HartId} (named : ∃ h ∈ s.harts, h.id = id) : (s.focus id).hart.id = id := by
  unfold State.focus
  split
  · assumption
  · next other =>
    split
    · next found =>
      have found := List.find?_some found
      simpa using found
    · next absent =>
      obtain ⟨h, m, rfl⟩ := named
      rcases List.mem_cons.1 m with rfl | m
      · exact absurd rfl other
      · exact absurd (decide_eq_true rfl) (List.find?_eq_none.1 absent h m)

theorem State.harts_eq_of_id {s : State} (n : s.NamesDiffer) {x y : Hart} (mx : x ∈ s.harts) (my : y ∈ s.harts) (same : x.id = y.id) :
    x = y := List.inj_on_of_nodup_map n mx my same

theorem State.focus_hart {s : State} (n : s.NamesDiffer) {x : Hart} (m : x ∈ s.harts) : (s.focus x.id).hart = x := by
  have there : (s.focus x.id).hart ∈ s.harts := (s.focus_harts_perm x.id n).mem_iff.1 List.mem_cons_self
  exact State.harts_eq_of_id n there m (State.focus_hart_id ⟨x, m, rfl⟩)

/-- A step on one hart: the harts after it are that hart's outcome and the others, bare. -/
theorem State.onHart_harts {s : State} (n : s.NamesDiffer) {x : Hart} (m : x ∈ s.harts) {f : State → State}
    (name : (f (s.focus x.id)).hart.id = x.id) (rest : (f (s.focus x.id)).rest = (s.focus x.id).rest) :
    (s.onHart x.id f).NamesDiffer ∧ (f (s.focus x.id)).hart ∈ (s.onHart x.id f).harts ∧
    (∀ y ∈ (s.onHart x.id f).harts, y = (f (s.focus x.id)).hart ∨ ∃ z ∈ s.harts, z.id ≠ x.id ∧ y.bare = z.bare) ∧
    (∀ z ∈ s.harts, z.id ≠ x.id → ∃ y ∈ (s.onHart x.id f).harts, y.bare = z.bare) := by
  have hart := State.focus_hart n m
  have names : (f (s.focus x.id)).harts.map Hart.id = (s.focus x.id).harts.map Hart.id := by
    have parked := congrArg (List.map Hart.id) rest
    unfold State.rest at parked
    rw [List.map_map, List.map_map] at parked
    unfold State.harts
    rw [List.map_cons, List.map_cons, name, hart]
    exact congrArg _ parked
  have differ : (f (s.focus x.id)).NamesDiffer := by
    unfold State.NamesDiffer
    rw [names]
    exact s.focus_namesDiffer x.id n
  have perm := State.focus_harts_perm (f (s.focus x.id)) s.hart.id differ
  refine ⟨State.focus_namesDiffer _ _ differ, perm.mem_iff.2 List.mem_cons_self, fun y my => ?_, fun z mz other => ?_⟩
  · rcases List.mem_cons.1 (perm.mem_iff.1 my) with rfl | my
    · exact .inl rfl
    · have bare : y.bare ∈ (s.focus x.id).rest := by
        rw [← rest]
        exact List.mem_map_of_mem my
      obtain ⟨z, mz, same⟩ := List.mem_map.1 bare
      exact .inr ⟨z, (s.focus_harts_perm x.id n).mem_iff.1 (List.mem_cons_of_mem _ mz), s.focus_parked_ne x.id n z mz, same.symm⟩
  · have parked : z ∈ (s.focus x.id).parked := by
      rcases List.mem_cons.1 ((s.focus_harts_perm x.id n).mem_iff.2 mz) with rfl | mz
      · exact absurd (State.focus_hart_id ⟨x, m, rfl⟩) other
      · exact mz
    have bare : z.bare ∈ (f (s.focus x.id)).rest := by
      rw [rest]
      exact List.mem_map_of_mem parked
    obtain ⟨y, my, same⟩ := List.mem_map.1 bare
    exact ⟨y, perm.mem_iff.2 (List.mem_cons_of_mem _ my), same⟩

theorem foldl_min_le (l : List Nat) (b : Nat) : l.foldl min b ≤ b ∧ ∀ x ∈ l, l.foldl min b ≤ x := by
  induction l generalizing b with
  | nil => exact ⟨Nat.le_refl b, fun x m => nomatch m⟩
  | cons a l ih =>
    obtain ⟨low, all⟩ := ih (min b a)
    refine ⟨low.trans (Nat.min_le_left _ _), fun x m => ?_⟩
    rcases List.mem_cons.1 m with rfl | m
    · exact low.trans (Nat.min_le_right _ _)
    · exact all x m

theorem foldl_min_mem (l : List Nat) (b : Nat) : l.foldl min b = b ∨ l.foldl min b ∈ l := by
  induction l generalizing b with
  | nil => exact .inl rfl
  | cons a l ih =>
    rcases ih (min b a) with same | m
    · rw [List.foldl_cons, same]
      rcases Nat.le_total b a with le | le
      · exact .inl (Nat.min_eq_left le)
      · exact .inr (by rw [Nat.min_eq_right le]; exact List.mem_cons_self)
    · exact .inr (List.mem_cons_of_mem _ m)

/-- Whether a hart answers to an RCB and a launch index. -/
def Hart.answers (rcb : Nat) (idx : Option Nat) (h : Hart) : Prop :=
  h.id.rcb.toNat = rcb ∧ ∀ i, idx = some i → h.id.hidx.toNat = i

/-- The harts that a command names: those of the oldest launch of the RCB that have not retired, or the one of an index (R330). -/
theorem State.mem_named {s : State} {rcb : Nat} {idx : Option Nat} {h : Hart} : h ∈ s.named rcb idx ↔
    h ∈ s.harts ∧ h.answers rcb idx ∧ h.st ≠ .retired ∧
      ∀ x ∈ s.harts, x.answers rcb idx → x.st ≠ .retired → h.id.seq.toNat ≤ x.id.seq.toNat := by
  have listed : ∃ l : List Hart, s.named rcb idx = l.filter (fun h => h.id.seq.toNat ==
      (l.map fun h => h.id.seq.toNat).foldl min (2 ^ 64)) ∧ ∀ x, x ∈ l ↔ x ∈ s.harts ∧ x.answers rcb idx ∧ x.st ≠ .retired := by
    refine ⟨_, rfl, fun x => ?_⟩
    rw [List.mem_filter]
    unfold Hart.answers
    cases idx <;> simp [and_assoc, and_comm, and_left_comm]
  obtain ⟨l, eq, mem⟩ := listed
  rw [eq, List.mem_filter, mem]
  obtain ⟨-, low⟩ := foldl_min_le (l.map fun h => h.id.seq.toNat) (2 ^ 64)
  have attained := foldl_min_mem (l.map fun h => h.id.seq.toNat) (2 ^ 64)
  generalize (l.map fun h => h.id.seq.toNat).foldl min (2 ^ 64) = oldest at low attained
  rw [beq_iff_eq]
  refine ⟨fun ⟨⟨there, answers, live⟩, first⟩ => ⟨there, answers, live, fun x mx ax lx => ?_⟩,
    fun ⟨there, answers, live, first⟩ => ⟨⟨there, answers, live⟩, ?_⟩⟩
  · rw [first]
    exact low _ (List.mem_map_of_mem ((mem x).2 ⟨mx, ax, lx⟩))
  · have below := low _ (List.mem_map_of_mem ((mem h).2 ⟨there, answers, live⟩))
    rcases attained with big | m
    · have := h.id.seq.isLt
      omega
    · obtain ⟨x, mx, rfl⟩ := List.mem_map.1 m
      obtain ⟨hx, ax, lx⟩ := (mem x).1 mx
      exact Nat.le_antisymm (first x hx ax lx) below

/-! ### Releasing -/

section
variable {s : State} {c : Cmd}

/-- The saved hart that a RELEASE names. -/
def State.toRelease (s : State) (c : Cmd) : Option Hart :=
  (s.named (c.d 1) (some (c.d 2))).find? fun h => decide (h.st = .saved) && !h.cancelling

theorem exec_release_of_later (handed : s.handed 6 [whole, 0xFFFFFFFF] c) (later : s.overtakes c = true) :
    exec .release s = .next s := by
  refine (State.command_of_handed handed _).trans (congrArg Host.Outcome.next ?_)
  exact if_pos later

theorem exec_release_of_none (handed : s.handed 6 [whole, 0xFFFFFFFF] c) (first : s.overtakes c = false)
    (none : s.toRelease c = none) : exec .release s = .next (s.complete c 5) := by
  refine (State.command_of_handed handed _).trans (congrArg Host.Outcome.next ?_)
  unfold State.toRelease at none
  rw [if_neg (by rw [first]; decide), none]

theorem exec_release_of_spoilt (handed : s.handed 6 [whole, 0xFFFFFFFF] c) (first : s.overtakes c = false) {h : Hart} {r : SaveRec}
    (found : s.toRelease c = some h) (save : h.save = some r) (spoilt : r.contextError = true) :
    exec .release s = .next (s.complete c 6) := by
  refine (State.command_of_handed handed _).trans (congrArg Host.Outcome.next ?_)
  unfold State.toRelease at found
  rw [if_neg (by rw [first]; decide), found]
  dsimp only
  rw [save]
  exact if_pos spoilt

theorem exec_release_of_slot (handed : s.handed 6 [whole, 0xFFFFFFFF] c) (first : s.overtakes c = false) {h : Hart} {r : SaveRec}
    (found : s.toRelease c = some h) (save : h.save = some r) (sound : r.contextError = false) (slot : r.reserve = true) :
    exec .release s = .next ((s.releaseHart h r).complete c 0) := by
  refine (State.command_of_handed handed _).trans (congrArg Host.Outcome.next ?_)
  unfold State.toRelease at found
  rw [if_neg (by rw [first]; decide), found]
  dsimp only
  rw [save]
  dsimp only
  rw [if_neg (by rw [sound]; decide), if_pos slot]

theorem exec_release_of_area (handed : s.handed 6 [whole, 0xFFFFFFFF] c) (first : s.overtakes c = false) {h : Hart} {r : SaveRec}
    (found : s.toRelease c = some h) (save : h.save = some r) (sound : r.contextError = false) (area : r.reserve = false) :
    (s.readBack h r = .ok none → exec .release s = .next (s.complete c 6)) ∧
    ∀ h' r', s.readBack h r = .ok (some (h', r')) → exec .release s = .next ((s.releaseHart h' r').complete c 0) := by
  refine ⟨fun read => ?_, fun h' r' read => ?_⟩
  all_goals
    refine (State.command_of_handed handed _).trans (congrArg Host.Outcome.next ?_)
    unfold State.toRelease at found
    rw [if_neg (by rw [first]; decide), found]
    dsimp only
    rw [save]
    dsimp only
    rw [if_neg (by rw [sound]; decide), if_neg (by rw [area]; decide), read]

end

theorem Hart.putScalars_id (h : Hart) (l : List Nat) : (h.putScalars l).id = h.id := rfl

/-- What is read back for a hart is that hart's. -/
theorem State.readBack_id {s : State} {h h' : Hart} {r r' : SaveRec} (read : s.readBack h r = .ok (some (h', r'))) : h'.id = h.id := by
  unfold State.readBack at read
  dsimp only at read
  split at read
  · next hd sc ve ma _ _ _ _ =>
    have named : ∀ b : Bool, (if b then (h.putScalars sc).putMasks ma else ((h.putScalars sc).putMasks ma).putVectors ve).id = h.id := by
      intro b
      cases b <;> rfl
    split at read
    · obtain ⟨rfl, -⟩ := Prod.mk.inj (Option.some.inj (Except.ok.inj read))
      exact named _
    · split at read
      · obtain ⟨rfl, -⟩ := Prod.mk.inj (Option.some.inj (Except.ok.inj read))
        exact named _
      · cases read
  · cases read
  · cases read
  · cases read
  · cases read

/-- A released hart, once the command has completed. -/
theorem State.releaseHart_runs {s : State} {c : Cmd} {h z : Hart} (r : SaveRec) (m : h ∈ s.harts) (name : z.id = h.id) :
    ∃ y ∈ ((s.releaseHart z r).complete c 0).harts, y.id = z.id ∧ y.save = some { r with released := true } ∧ y.sregs = z.sregs ∧
      y.st = if z.mayReady { r with released := true } then .ready else .saved := by
  let n : Hart := { z with
    save := some { r with released := true }, st := if z.mayReady { r with released := true } then .ready else .saved
    since := if z.mayReady { r with released := true } then s.cycle else z.since }
  have there : n ∈ (s.releaseHart z r).harts := by
    have mapped : (s.releaseHart z r).harts = s.harts.map fun h => if h.id = z.id then n else h := rfl
    rw [mapped]
    exact List.mem_map.2 ⟨h, m, if_pos name.symm⟩
  obtain ⟨y, my, eq⟩ := State.mem_harts_of_contexts (State.complete_contexts (s.releaseHart z r) c 0) there
  refine ⟨y, my, ?_, ?_, ?_, ?_⟩
  all_goals rw [eq]

theorem State.releaseHart_memInv {s : State} (z : Hart) (r : SaveRec) (inv : s.MemInv) : (s.releaseHart z r).MemInv := inv

/-- Of two releases or cancels of a hart, the later one waits (R334). -/
theorem State.overtakes_iff (s : State) (c : Cmd) : s.overtakes c = true ↔ ∃ x ∈ s.cmds, (x.opc = 6 ∨ x.opc = 7) ∧ x.began = false ∧
    x.seq.toNat < c.seq.toNat ∧ x.d 1 = c.d 1 ∧ (c.index = none ∨ x.index = none ∨ c.index = x.index) := by
  unfold State.overtakes Cmd.meets
  simp only [List.any_eq_true, Bool.and_eq_true, Bool.or_eq_true, beq_iff_eq, Bool.not_eq_true', decide_eq_true_eq,
    Option.isNone_iff_eq_none, and_assoc, or_assoc]

end Sys2Proof.Machine
end

section
/-! Cancelling a hart, and harts one after the other. -/

namespace Sys2Proof.Machine

/-! ### What a hard pre-emption and a retirement leave of other harts -/

theorem State.putWords_others {s t : State} {h : Hart} (ws : List (Nat × Nat)) (put : s.putWords h ws = some t) :
    t.others = s.others := by
  induction ws generalizing s with
  | nil => cases put; rfl
  | cons w ws ih =>
    obtain ⟨o, v⟩ := w
    unfold State.putWords at put
    split at put
    · cases put
    · exact (ih put).trans (State.commit_others _ false _ _)

/-- `t` is `s` but for the focused hart's record and soft requests, and what accesses change. -/
def State.Noted (s t : State) : Prop :=
  (∃ save soft watch, t.hart = { s.hart with save := save, soft := soft, watch := watch }) ∧ t.others = s.others ∧
    s.Accessed t ∧ (s.MemInv → t.MemInv)

theorem State.Noted.putWords {s t u : State} {h : Hart} {ws : List (Nat × Nat)} (noted : s.Noted t)
    (put : t.putWords h ws = some u) : s.Noted u := by
  obtain ⟨⟨save, soft, watch, hart⟩, others, accessed, memInv⟩ := noted
  refine ⟨⟨save, soft, u.hart.watch, ?_⟩, (State.putWords_others _ put).trans others, accessed.putWords _ put,
    fun inv => State.putWords_memInv _ _ _ _ put (memInv inv)⟩
  rw [State.putWords_hart _ _ _ _ put, hart]

/-- A pre-emption that meets a fault changes the record, the soft requests and the save area. -/
theorem State.pendFault_noted (s : State) : s.Noted s.pendFault := by
  have same : s.Noted s := ⟨⟨s.hart.save, s.hart.soft, s.hart.watch, rfl⟩, rfl, .refl s, fun inv => inv⟩
  unfold State.pendFault
  dsimp only
  split
  · next r save =>
    split
    · have noted : s.Noted (s.setHart { s.hart with save := some { r with pend := true }, soft := [] }) :=
        ⟨⟨_, _, s.hart.watch, rfl⟩, rfl, (State.Accessed.refl s).upd fun h => { h with save := some { r with pend := true }, soft := [] },
          fun inv => inv⟩
      split
      · exact noted
      · generalize put : State.putWords _ s.hart _ = written
        cases written with
        | none => exact noted
        | some t => exact noted.putWords put
    · exact same
  · exact same

theorem State.endPartition_rest (s : State) : s.endPartition.rest = s.rest := by
  unfold State.endPartition
  dsimp only
  split
  · show List.map Hart.bare (s.parked.map _) = _
    rw [List.map_map]
    refine List.map_congr_left fun x _ => ?_
    show Hart.bare (ite _ _ _) = _
    split <;> rfl
  · rfl

theorem State.retire_rest (s : State) (b : Bool) : (s.retire b).rest = s.rest := by
  have closed : s.closed.rest = s.rest := by
    have same : s.closed.rest = s.endTx.endPartition.rest := by
      unfold State.closed
      dsimp only
      split
      · rw [State.creditAll_eq]
        rfl
      · rfl
    rw [same, State.endPartition_rest]
    rfl
  obtain ⟨-, contexts⟩ := s.closed.launchLess_spec s.hart.id.seq b
  rw [State.retire_eq, State.rest_of_others (State.hart_of_contexts contexts).2, closed]

theorem State.finishLaunch_memInv (s : State) (l : Launch) (inv : s.MemInv) : (s.finishLaunch l).MemInv := by
  have told := s.doneTold_memInv l inv
  cases found : s.cmds.find? (fun c => decide (c.seq = l.seq)) with
  | none =>
    rw [s.finishLaunch_of_none l found]
    exact told
  | some c =>
    rw [s.finishLaunch_of_some l found]
    exact State.complete_memInv _ _ _ told

theorem State.closed_memInv (s : State) (inv : s.MemInv) : s.closed.MemInv := by
  have kept := s.closed_leavesOnly
  rw [kept]
  exact inv

theorem State.retire_memInv (s : State) (b : Bool) (inv : s.MemInv) : (s.retire b).MemInv := by
  have closed := s.closed_memInv inv
  rw [State.retire_eq]
  cases found : s.closed.launches.find? (fun l => decide (l.seq = s.hart.id.seq)) with
  | none =>
    rw [State.launchLess_of_none _ _ found]
    exact closed
  | some l =>
    rw [State.launchLess_of_some _ _ found]
    split
    · exact State.finishLaunch_memInv _ _ closed
    · exact closed

/-! ### Cancelling one hart -/

/-- What cancelling makes of the hart in focus. -/
def State.cancelFocus (s : State) : State :=
  let s := (s.upd fun h => { h with cancelling := true }).hardPreempt 3
  if s.hart.onCore then s else s.retire true

theorem State.cancelHart_eq (s : State) (name : HartId) : s.cancelHart name = s.onHart name State.cancelFocus := rfl

/-- The fault in which a hart without a context is cancelled. -/
def State.cancelNoted (s : State) : State := (s.upd fun h => { h with cancelling := true }).pendFault

theorem State.cancelFocus_of_off {s : State} (off : s.hart.onCore = false) : s.cancelFocus = s.cancelNoted.retire true := by
  obtain ⟨⟨save, soft, watch, hart⟩, -⟩ := (s.upd fun h => { h with cancelling := true }).pendFault_noted
  have still : s.cancelNoted.hart.onCore = false := by
    rw [State.cancelNoted, hart]
    exact off
  have noted : (s.upd fun h => { h with cancelling := true }).hardPreempt 3 = s.cancelNoted := State.hardPreempt_of_off 3 off
  unfold State.cancelFocus
  dsimp only
  rw [noted, if_neg (by rw [still]; decide)]

/-- A hart without a context retires at once when it is cancelled. -/
theorem State.cancelFocus_spec {s : State} (off : s.hart.onCore = false) : s.cancelFocus.hart.id = s.hart.id ∧
    s.cancelFocus.hart.st = .retired ∧ s.cancelFocus.hart.cancelling = false ∧ s.cancelFocus.rest = s.rest ∧
    (s.MemInv → s.cancelFocus.MemInv) := by
  obtain ⟨⟨save, soft, watch, noted⟩, others, -, memInv⟩ := (s.upd fun h => { h with cancelling := true }).pendFault_noted
  obtain ⟨watch', hart⟩ := s.cancelNoted.retire_hart true
  have name : s.cancelNoted.endTx.hart.id = s.hart.id := by
    show s.cancelNoted.hart.id = _
    rw [State.cancelNoted, noted]
    rfl
  rw [State.cancelFocus_of_off off, hart]
  exact ⟨name, rfl, rfl, (State.retire_rest _ _).trans (State.rest_of_others others), fun inv => State.retire_memInv _ _ (memInv inv)⟩

theorem State.focus_memInv (s : State) (name : HartId) (inv : s.MemInv) : (s.focus name).MemInv := by
  unfold State.focus
  split
  · exact inv
  · split
    · exact inv
    · exact inv

theorem Hart.of_bare {x y : Hart} (same : y.bare = x.bare) :
    y.id = x.id ∧ y.st = x.st ∧ y.save = x.save ∧ y.cancelling = x.cancelling := by
  have name : y.bare.id = x.bare.id := by rw [same]
  have st : y.bare.st = x.bare.st := by rw [same]
  have save : y.bare.save = x.bare.save := by rw [same]
  have cancelling : y.bare.cancelling = x.bare.cancelling := by rw [same]
  exact ⟨name, st, save, cancelling⟩

/-- The state after the harts that a list names have been cancelled. -/
structure State.CancelledAll (s : State) (names : List HartId) (t : State) : Prop where
  differ : t.NamesDiffer
  gone : ∀ x ∈ s.harts, x.id ∈ names → ∃ y ∈ t.harts, y.id = x.id ∧ y.st = .retired
  left : ∀ x ∈ s.harts, x.id ∉ names → ∃ y ∈ t.harts, y.bare = x.bare
  only : ∀ y ∈ t.harts, y.cancelling = false ∨ ∃ x ∈ s.harts, y.bare = x.bare
  memInv : s.MemInv → t.MemInv

theorem State.foldl_cancelHart (names : List HartId) {s : State} (n : s.NamesDiffer)
    (off : ∀ x ∈ s.harts, x.id ∈ names → x.onCore = false) (there : ∀ name ∈ names, ∃ x ∈ s.harts, x.id = name) :
    s.CancelledAll names (names.foldl (fun s name => s.cancelHart name) s) := by
  induction names generalizing s with
  | nil =>
    exact ⟨n, fun _ _ m => absurd m List.not_mem_nil, fun x m _ => ⟨x, m, rfl⟩, fun y m => .inr ⟨y, m, rfl⟩, fun inv => inv⟩
  | cons name names ih =>
    obtain ⟨x, mx, rfl⟩ := there _ List.mem_cons_self
    have focus := State.focus_hart n mx
    obtain ⟨id, st, cancelling, rest, memInv⟩ := State.cancelFocus_spec (s := s.focus x.id)
      (by rw [focus]; exact off x mx List.mem_cons_self)
    rw [focus] at id
    obtain ⟨n', there', from_, to_⟩ := State.onHart_harts n mx id rest
    rw [← State.cancelHart_eq] at n' there' from_ to_
    generalize eq : s.cancelHart x.id = t at n' there' from_ to_
    have inv' : s.MemInv → t.MemInv := fun inv => by
      rw [← eq]
      exact State.focus_memInv _ _ (memInv (State.focus_memInv _ _ inv))
    have fresh : (State.cancelFocus (s.focus x.id)).hart.onCore = false := by
      unfold Hart.onCore
      rw [st]
    have later := ih n' ?_ ?_
    · show s.CancelledAll (x.id :: names) (names.foldl (fun s name => s.cancelHart name) (s.cancelHart x.id))
      rw [eq]
      refine ⟨later.differ, fun w mw named => ?_, fun w mw other => ?_, fun y my => ?_, fun inv => later.memInv (inv' inv)⟩
      · by_cases same : w.id = x.id
        · by_cases again : x.id ∈ names
          · obtain ⟨y, my, yid, yst⟩ := later.gone _ there' (by rw [id]; exact again)
            exact ⟨y, my, yid.trans (id.trans same.symm), yst⟩
          · obtain ⟨y, my, bare⟩ := later.left _ there' (by rw [id]; exact again)
            obtain ⟨yid, yst, -⟩ := Hart.of_bare bare
            exact ⟨y, my, yid.trans (id.trans same.symm), yst.trans st⟩
        · obtain ⟨z, mz, bare⟩ := to_ w mw same
          obtain ⟨zid, -⟩ := Hart.of_bare bare
          obtain ⟨y, my, yid, yst⟩ := later.gone z mz (by rw [zid]; exact (List.mem_cons.1 named).resolve_left same)
          exact ⟨y, my, yid.trans zid, yst⟩
      · obtain ⟨notHere, notLater⟩ := not_or.1 (List.mem_cons.not.1 other)
        obtain ⟨z, mz, bare⟩ := to_ w mw notHere
        obtain ⟨zid, -⟩ := Hart.of_bare bare
        obtain ⟨y, my, bare'⟩ := later.left z mz (by rw [zid]; exact notLater)
        exact ⟨y, my, bare'.trans bare⟩
      · rcases later.only y my with quiet | ⟨z, mz, bare⟩
        · exact .inl quiet
        · rcases from_ z mz with rfl | ⟨w, mw, -, bare'⟩
          · obtain ⟨-, -, -, same⟩ := Hart.of_bare bare
            exact .inl (same.trans cancelling)
          · exact .inr ⟨w, mw, bare.trans bare'⟩
    · intro z mz named
      rcases from_ z mz with rfl | ⟨w, mw, other, bare⟩
      · exact fresh
      · obtain ⟨zid, zst, -⟩ := Hart.of_bare bare
        have old := off w mw (List.mem_cons_of_mem _ (by rw [← zid]; exact named))
        unfold Hart.onCore at old ⊢
        rw [zst]
        exact old
    · intro name m
      obtain ⟨w, mw, rfl⟩ := there name (List.mem_cons_of_mem _ m)
      by_cases same : w.id = x.id
      · exact ⟨_, there', id.trans same.symm⟩
      · obtain ⟨z, mz, bare⟩ := to_ w mw same
        exact ⟨z, mz, (Hart.of_bare bare).1⟩

end Sys2Proof.Machine
end

section
/-! CANCEL, and what the last hart of a launch is told. -/

namespace Sys2Proof.Machine

/-! ### Cancelling what a command names -/

theorem State.focus_moves (s : State) (name : HartId) : ∃ h p, s.focus name = { s with hart := h, parked := p } := by
  unfold State.focus
  split
  · exact ⟨s.hart, s.parked, rfl⟩
  · split
    · exact ⟨_, _, rfl⟩
    · exact ⟨s.hart, s.parked, rfl⟩

/-- An operand with no bit outside a mask of low bits is below its power of two. -/
theorem lt_of_and_high {v n m : Nat} (small : v < 2 ^ (n + m)) (clear : v &&& (2 ^ m - 1) <<< n = 0) : v < 2 ^ n := by
  by_contra big
  obtain ⟨i, high, set⟩ := Nat.exists_ge_and_testBit_of_ge_two_pow (Nat.le_of_not_lt big)
  have inside : i < n + m := by
    by_contra beyond
    have zero := Nat.testBit_lt_two_pow (Nat.lt_of_lt_of_le small (Nat.pow_le_pow_right (by decide) (Nat.le_of_not_lt beyond)))
    rw [set] at zero
    cases zero
  have both : (v &&& (2 ^ m - 1) <<< n).testBit i = true := by
    rw [Nat.testBit_and, set, Nat.testBit_shiftLeft, Nat.testBit_two_pow_sub_one]
    simp only [Bool.true_and, Bool.and_eq_true, decide_eq_true_eq]
    omega
  rw [clear] at both
  simp at both

section
variable {s : State} {c : Cmd}

/-- A CANCEL names one hart, or with the bit above its index every hart (R330). -/
theorem Hart.answers_iff (handed : s.handed 7 [whole, 0x1FFFFFFFF] c) (h : Hart) : h.answers (c.d 1) c.index ↔
    h.id.rcb.toNat = c.d 1 ∧ (c.d 2 / 2 ^ 32 = 1 ∨ h.id.hidx.toNat = c.d 2 % 2 ^ 32) := by
  obtain ⟨-, opc⟩ := State.handed_mem handed
  obtain ⟨-, -, clean⟩ := handed
  have small : c.d 2 < 2 ^ 33 := by
    unfold Cmd.clean at clean
    have masked := List.all_eq_true.1 (Bool.and_eq_true_iff.1 clean).2 1 (by decide)
    refine lt_of_and_high (m := 31) ?_ (beq_iff_eq.1 masked)
    rw [c.d_eq (by decide)]
    exact (c.pkt[2]).isLt
  unfold Hart.answers Cmd.index bits
  refine and_congr_right fun _ => ?_
  by_cases every : c.d 2 / 2 ^ 32 = 1
  · rw [if_pos ⟨opc, by omega⟩]
    exact ⟨fun _ => .inl every, fun _ _ none => nomatch none⟩
  · rw [if_neg (by omega)]
    simp only [Option.some.injEq, forall_eq', every, false_or]
    norm_num

/-- The harts that a CANCEL retires: those with no release under way (log entry 51). -/
def State.toCancel (s : State) (c : Cmd) : List Hart := (s.named (c.d 1) c.index).filter fun h => !h.releasePending

/-- Whether a CANCEL leaves some hart out. -/
def State.leavesOut (s : State) (c : Cmd) : Bool := decide ((s.toCancel c).length < (s.named (c.d 1) c.index).length)

/-- The state in which a CANCEL has begun. -/
def State.begun (s : State) (c : Cmd) : State := (s.begin c).leaveOut c (s.leavesOut c)

/-- Its harts cancelled. -/
def State.cancelledBy (s : State) (c : Cmd) : State :=
  ((s.toCancel c).map fun h => h.id).foldl (fun s name => s.cancelHart name) (s.begun c)

theorem State.mem_toCancel {h : Hart} : h ∈ s.toCancel c ↔ h ∈ s.named (c.d 1) c.index ∧ ¬h.releasePending = true := by
  unfold State.toCancel
  rw [List.mem_filter, Bool.not_eq_true', Bool.not_eq_true]

theorem State.leavesOut_iff : s.leavesOut c = true ↔ ∃ h ∈ s.named (c.d 1) c.index, h.releasePending = true := by
  unfold State.leavesOut State.toCancel
  rw [decide_eq_true_eq, List.length_filter_lt_length_iff_exists]
  simp

theorem exec_cancel_of_later (handed : s.handed 7 [whole, 0x1FFFFFFFF] c) (fresh : c.began = false) (later : s.overtakes c = true) :
    exec .cancel s = .next s := by
  refine (State.command_of_handed handed _).trans (congrArg Host.Outcome.next ?_)
  dsimp only
  rw [if_neg (by rw [fresh]; decide), if_pos later]

theorem exec_cancel_of_none (handed : s.handed 7 [whole, 0x1FFFFFFFF] c) (fresh : c.began = false) (first : s.overtakes c = false)
    (none : s.toCancel c = []) : exec .cancel s = .next (s.complete c 5) := by
  unfold State.toCancel at none
  refine (State.command_of_handed handed _).trans (congrArg Host.Outcome.next ?_)
  dsimp only
  rw [if_neg (by rw [fresh]; decide), if_neg (by rw [first]; decide), none]
  rfl

theorem exec_cancel_of_some (handed : s.handed 7 [whole, 0x1FFFFFFFF] c) (fresh : c.began = false) (first : s.overtakes c = false)
    (some : s.toCancel c ≠ []) (done : ∀ y ∈ (s.cancelledBy c).harts, y.cancelling = false) :
    exec .cancel s = .next ((s.cancelledBy c).complete c (if s.leavesOut c then 5 else 0)) := by
  unfold State.cancelledBy State.begun State.leavesOut at *
  unfold State.toCancel at *
  refine (State.command_of_handed handed _).trans (congrArg Host.Outcome.next ?_)
  dsimp only
  rw [if_neg (by rw [fresh]; decide), if_neg (by rw [first]; decide), if_neg (by rwa [List.isEmpty_iff]), if_neg]
  intro still
  obtain ⟨y, my, cancelling⟩ := List.any_eq_true.1 still
  rw [done y my] at cancelling
  exact absurd cancelling (by simp)

theorem State.begun_cmds {x : Cmd} (m : x ∈ (s.begun c).cmds) : ∃ z ∈ s.cmds, ∀ {n}, x.d n = z.d n := by
  obtain ⟨y, my, rfl⟩ := List.mem_map.1 m
  obtain ⟨z, mz, rfl⟩ := List.mem_map.1 my
  refine ⟨z, mz, fun {n} => ?_⟩
  have packet : ∀ (b : Prop) [Decidable b] (k : Cmd) (f : Cmd → Cmd), (f k).pkt = k.pkt → (if b then f k else k).pkt = k.pkt := by
    intro b _ k f same
    split
    · exact same
    · rfl
  unfold Cmd.d
  rw [packet _ _ (fun k => { k with leftOut := s.leavesOut c }) rfl, packet _ _ (fun k => { k with began := true }) rfl]

theorem State.begun_memInv (inv : s.MemInv) : (s.begun c).MemInv := inv

/-- Where no hart that a CANCEL names holds a context, its harts retire and the others stand. -/
theorem State.cancelledBy_spec (n : s.NamesDiffer) (off : ∀ h ∈ s.toCancel c, h.onCore = false) :
    (s.begun c).CancelledAll ((s.toCancel c).map fun h => h.id) (s.cancelledBy c) := by
  have member : ∀ h ∈ s.toCancel c, h ∈ s.harts := fun h m => (State.mem_named.1 (State.mem_toCancel.1 m).1).1
  refine State.foldl_cancelHart (s := s.begun c) _ n (fun x m named => ?_) fun name m => ?_
  · obtain ⟨h, mh, same⟩ := List.mem_map.1 named
    rw [← State.harts_eq_of_id n (member h mh) m same]
    exact off h mh
  · obtain ⟨h, mh, rfl⟩ := List.mem_map.1 m
    exact ⟨h, member h mh, rfl⟩

end

/-! ### What the launch of the last cancelled hart is told -/

/-- The doubleword that the last hart of a launch leaves where it was cancelled (R10, R255). -/
theorem State.retire_tells {s : State} (inv : s.MemInv) {l : Launch} {p : Phys}
    (found : s.launches.find? (fun l => decide (l.seq = s.hart.id.seq)) = some l) (last : l.left = 1) (named : l.donea ≠ 0)
    (translated : s.translate l.info.asid .write (l.donea.setWidth 64) = .ok p) (low : p.pa + 8 ≤ barBase)
    (apart : ∀ x ∈ s.cmds, p.pa + 8 ≤ x.d 7 % 2 ^ 56 ∨ x.d 7 % 2 ^ 56 + 8 ≤ p.pa) : memRead (s.retire true).mem p.pa 8 = 2 ^ 64 - 1 := by
  have kept := s.closed_leavesOnly
  let u : State := { s.closed with launches := s.launches.map fun x => if x.seq = s.hart.id.seq then l.less true else x }
  have eq : s.retire true = u.finishLaunch (l.less true) := by
    rw [State.retire_eq, State.launchLess_of_some _ _ (by rw [kept]; exact found), if_pos (by omega),
      show s.closed.launches = s.launches by rw [kept]]
  have cmds : u.cmds = s.cmds := by
    show s.closed.cmds = _
    rw [kept]
  have translate : u.translate = s.translate := by
    show s.closed.translate = _
    rw [kept]
    rfl
  have memInv : u.MemInv := s.closed_memInv inv
  have all : (l.less true).cancelled = true := Bool.or_true _
  have stored := u.doneTold_mem (l.less true) (m' := memStore u.mem p.pa (natLe 8 (2 ^ 64 - 1)))
    (.inr ⟨named, p, by rw [translate]; exact translated, low, by rw [all]; rfl⟩)
  have told : memRead (u.doneTold (l.less true)).mem p.pa 8 = 2 ^ 64 - 1 := by
    rw [stored, memRead_memStore_natLe _ _ _ _ memInv.1]
    norm_num
  rw [eq]
  cases found : u.cmds.find? (fun c => decide (c.seq = (l.less true).seq)) with
  | none =>
    rw [State.finishLaunch_of_none _ _ found]
    exact told
  | some x =>
    rw [State.finishLaunch_of_some _ _ found]
    have mx := List.mem_of_find?_eq_some found
    rw [cmds] at mx
    refine (memRead_congr _ _ _ _ fun b from_ to_ => ?_).trans told
    have far := apart x mx
    have inv' := u.doneTold_memInv (l.less true) memInv
    refine State.complete_other _ _ _ ?_ ?_
    · exact inv'
    · omega

/-- The same when a hart without a context is cancelled. -/
theorem State.cancelFocus_tells {s : State} (off : s.hart.onCore = false) (inv : s.MemInv) {l : Launch} {p : Phys}
    (found : s.launches.find? (fun l => decide (l.seq = s.hart.id.seq)) = some l) (last : l.left = 1) (named : l.donea ≠ 0)
    (translated : s.translate l.info.asid .write (l.donea.setWidth 64) = .ok p) (low : p.pa + 8 ≤ barBase)
    (apart : ∀ x ∈ s.cmds, p.pa + 8 ≤ x.d 7 % 2 ^ 56 ∨ x.d 7 % 2 ^ 56 + 8 ≤ p.pa) : memRead s.cancelFocus.mem p.pa 8 = 2 ^ 64 - 1 := by
  obtain ⟨⟨save, soft, watch, hart⟩, -, accessed, memInv⟩ := (s.upd fun h => { h with cancelling := true }).pendFault_noted
  have name : s.cancelNoted.hart.id = s.hart.id := by
    rw [State.cancelNoted, hart]
    rfl
  rw [State.cancelFocus_of_off off]
  refine State.retire_tells (s := s.cancelNoted) (memInv inv) (l := l) ?_ last named ?_ low ?_
  · rw [name, State.cancelNoted, accessed.launches]
    exact found
  · rw [State.cancelNoted, accessed.translate]
    exact translated
  · rw [State.cancelNoted, accessed.cmds]
    exact apart

/-- A CANCEL of the last hart of a launch, named alone. -/
theorem State.cancelledBy_tells {s : State} {c : Cmd} {h : Hart} (n : s.NamesDiffer) (m : h ∈ s.harts) (only : s.toCancel c = [h])
    (off : h.onCore = false) (inv : s.MemInv) {l : Launch} {p : Phys}
    (found : s.launches.find? (fun l => decide (l.seq = h.id.seq)) = some l) (last : l.left = 1) (named : l.donea ≠ 0)
    (translated : s.translate l.info.asid .write (l.donea.setWidth 64) = .ok p) (low : p.pa + 8 ≤ barBase)
    (apart : ∀ x ∈ s.cmds, p.pa + 8 ≤ x.d 7 % 2 ^ 56 ∨ x.d 7 % 2 ^ 56 + 8 ≤ p.pa) : memRead (s.cancelledBy c).mem p.pa 8 = 2 ^ 64 - 1 := by
  have focus : ((s.begun c).focus h.id).hart = h := State.focus_hart (s := s.begun c) n m
  obtain ⟨k, ps, moves⟩ := (s.begun c).focus_moves h.id
  have one : s.cancelledBy c = (s.begun c).cancelHart h.id := by
    unfold State.cancelledBy
    rw [only]
    rfl
  have same : (s.cancelledBy c).mem = ((s.begun c).focus h.id).cancelFocus.mem := by
    obtain ⟨k', ps', back⟩ := ((s.begun c).focus h.id).cancelFocus.focus_moves (s.begun c).hart.id
    rw [one, State.cancelHart_eq]
    show (State.focus _ _).mem = _
    rw [back]
  rw [same]
  have inv' : ((s.begun c).focus h.id).MemInv := State.focus_memInv _ _ (State.begun_memInv inv)
  refine State.cancelFocus_tells (l := l) (by rw [focus]; exact off) inv' ?_ last named ?_ low ?_
  · rw [focus, moves]
    exact found
  · rw [moves]
    exact translated
  · rw [moves]
    intro x mx
    obtain ⟨z, mz, same⟩ := State.begun_cmds mx
    rw [same]
    exact apart z mz

end Sys2Proof.Machine
end

section
/-! PREEMPT: soft requests and hard pre-emptions of the host. -/

namespace Sys2Proof.Machine

/-! ### A save leaves the other harts alone -/

theorem State.writeArea_others (s : State) (k : SaveKind) (r : SaveRec) : (s.writeArea k r).others = s.others := by
  unfold State.writeArea
  dsimp only
  split
  · rfl
  · split
    · next u e =>
      have put := State.putWords_others _ e
      exact put
    · rfl

theorem State.writeFrame_others (s : State) (r : SaveRec) : (s.writeFrame r).others = s.others := by
  unfold State.writeFrame
  dsimp only
  split
  · rfl
  · split
    · next u e =>
      have put := State.putWords_others _ e
      exact put
    · rfl

theorem State.saved_others (s : State) (t : Trap) : (s.saved t).others = s.others := by
  have landed : s.landed.others = s.others :=
    (State.drain_others _ _).trans (State.landLates_others _ _)
  have written : (s.areaWritten t).others = s.landed.others := by
    unfold State.areaWritten
    split
    · exact State.writeFrame_others _ _
    · exact State.writeArea_others _ _ _
  have suspended : (s.suspended t).others = (s.areaWritten t).others := by
    unfold State.suspended
    dsimp only
    rw [State.creditAll_eq]
    rfl
  rw [State.saved_eq]
  split
  · exact suspended.trans (written.trans landed)
  · exact suspended.trans (written.trans landed)

/-! ### A hard pre-emption by the host -/

/-- `t` is `s` with its hart saved by a hard pre-emption of a detail. -/
structure State.Preempted (s t : State) (detail : BitVec 8) : Prop where
  id : t.hart.id = s.hart.id
  st : t.hart.st = .saved
  record : ∃ r, t.hart.save = some r ∧ r.cause = 0x21 ∧ r.detail = detail
  rest : t.rest = s.rest
  memInv : s.MemInv → t.MemInv

theorem State.hardPreempt_preempted {s : State} (detail : BitVec 8) (onCore : s.hart.onCore = true) (now : s.hart.deferred = false)
    (lane : s.hart.lane = none) (good : s.hart.badRegs = false) :
    s.Preempted (s.hardPreempt detail) (s.hart.hardReq.getD detail) := by
  have handler : s.hart.handler = none := by
    have not := (not_congr s.hart.deferred_iff).1 (by rw [now]; decide)
    simpa using (not_or.1 (not_or.1 not).2).1
  obtain ⟨w, p, noted⟩ := (s.setHart { s.hart with soft := [] }).notePcWord_eq
  rw [State.hardPreempt_of_taken detail onCore now, noted]
  let u : State := (s.setHart { s.hart with soft := [] }).upd fun h => h.withWord w p
  have plain : u.taken (betweenTrap s.hart 0x21 (s.hart.hardReq.getD detail)) =
      u.saved (betweenTrap s.hart 0x21 (s.hart.hardReq.getD detail)) := State.taken_of_plain lane rfl good
  obtain ⟨b, watch, restart, -, hart⟩ := u.saved_hart (betweenTrap s.hart 0x21 (s.hart.hardReq.getD detail))
  obtain ⟨sregs, vregs, wbuf, watch', settled⟩ := u.settleLoads_hart_eq
  show s.Preempted (u.taken _) _
  refine ⟨?_, ?_, ⟨{ u.hart.record u.cycle (betweenTrap s.hart 0x21 (s.hart.hardReq.getD detail)) with reserve := b }, ?_, rfl, ?_⟩, ?_,
    fun inv => State.taken_memInv _ _ inv⟩
  · rw [plain, hart, Hart.landAll_eq, settled]
    rfl
  · rw [plain, hart]
  · rw [plain, hart]
  · show u.hart.eventDetail _ = _
    unfold Hart.eventDetail
    rw [show u.hart.handler = none from handler]
    rfl
  · rw [plain, State.rest_of_others (State.saved_others _ _)]
    rfl

/-! ### Soft requests of the host -/

/-- A hart after more soft requests: its name, its place and its own requests stand. -/
def Hart.Asked (x y : Hart) : Prop := y.id = x.id ∧ y.onCore = x.onCore ∧ ∀ r ∈ x.soft, r ∈ y.soft

theorem Hart.request_asked (now : Nat) (why : SoftWhy) (h : Hart) : h.Asked (h.request now why) := by
  unfold Hart.request
  split
  · exact ⟨rfl, rfl, fun r m => List.mem_append_left _ m⟩
  · exact ⟨rfl, rfl, fun r m => m⟩

theorem Hart.request_some (now : Nat) (why : SoftWhy) {h : Hart} (onCore : h.onCore = true) :
    ∃ r ∈ (h.request now why).soft, r.why = why := by
  unfold Hart.request
  split
  · exact ⟨_, List.mem_append_right _ List.mem_cons_self, rfl⟩
  · next stands =>
    have some : ¬h.soft.all (fun r => decide (r.why ≠ why)) = true := fun all => stands ⟨onCore, all⟩
    simpa using some

/-- Requests raised on named harts, one after the other: every hart keeps its own, and the named ones have one for the reason. -/
theorem State.foldl_request (why : SoftWhy) (l : List Hart) (s : State) (f : State → Nat) :
    ∀ x ∈ s.harts, ∃ y ∈ (l.foldl (fun s h => s.modHart h.id (Hart.request (f s) why)) s).harts, x.Asked y ∧
      (x.onCore = true → (x.id ∈ l.map (fun h => h.id) ∨ ∃ r ∈ x.soft, r.why = why) → ∃ r ∈ y.soft, r.why = why) := by
  induction l generalizing s with
  | nil =>
    intro x m
    exact ⟨x, m, ⟨rfl, rfl, fun r m => m⟩, fun _ asked => asked.resolve_left List.not_mem_nil⟩
  | cons k l ih =>
    intro x m
    let z : Hart := if x.id = k.id then x.request (f s) why else x
    have asked : x.Asked z := by
      show x.Asked (ite _ _ _)
      split
      · exact x.request_asked _ _
      · exact ⟨rfl, rfl, fun r m => m⟩
    have there : z ∈ (s.modHart k.id (Hart.request (f s) why)).harts :=
      List.mem_map_of_mem (f := fun h : Hart => if h.id = k.id then h.request (f s) why else h) m
    obtain ⟨y, my, ⟨id, core, soft⟩, host⟩ := ih _ z there
    obtain ⟨zid, zcore, zsoft⟩ := asked
    refine ⟨y, my, ⟨id.trans zid, core.trans zcore, fun r mr => soft r (zsoft r mr)⟩, fun onCore names => host (zcore.trans onCore) ?_⟩
    rcases names with named | ⟨r, mr, same⟩
    · rcases List.mem_cons.1 named with here | later
      · right
        show ∃ r ∈ (ite _ _ _ : Hart).soft, _
        rw [if_pos here]
        exact Hart.request_some _ _ onCore
      · left
        rw [zid]
        exact later
    · exact .inr ⟨r, zsoft r mr, same⟩

/-! ### PREEMPT -/

section
variable {s : State} {c : Cmd}

theorem exec_preempt_of_none (handed : s.handed 8 [whole, 1] c) (fresh : c.began = false) (none : s.named (c.d 1) Option.none = []) :
    exec .preempt s = .next (s.complete c 5) := by
  refine (State.command_of_handed handed _).trans (congrArg Host.Outcome.next ?_)
  dsimp only
  rw [if_neg (by rw [fresh]; decide), none]
  rfl

theorem exec_preempt_of_begun (handed : s.handed 8 [whole, 1] c) (begun : c.began = true) :
    exec .preempt s = .next (if s.preemptPending (c.d 1) then s else s.complete c 0) := by
  refine (State.command_of_handed handed _).trans (congrArg Host.Outcome.next ?_)
  dsimp only
  rw [if_pos begun]

theorem exec_preempt_of_soft (handed : s.handed 8 [whole, 1] c) (fresh : c.began = false) (some : s.named (c.d 1) none ≠ [])
    (soft : c.d 2 = 0) : exec .preempt s =
      .next (((s.named (c.d 1) none).foldl (fun s h => s.modHart h.id (Hart.request s.ns .host)) s).complete c 0) := by
  refine (State.command_of_handed handed _).trans (congrArg Host.Outcome.next ?_)
  dsimp only
  rw [if_neg (by rw [fresh]; decide), if_neg (by rwa [List.isEmpty_iff]), soft, if_neg (by decide)]

theorem exec_preempt_of_hard (handed : s.handed 8 [whole, 1] c) (fresh : c.began = false) {x : Hart} (one : s.named (c.d 1) none = [x])
    (hard : c.d 2 = 1) : exec .preempt s =
      let t := (s.begin c).onHart x.id fun s => s.hardPreempt 3
      .next (if t.preemptPending (c.d 1) then t else t.complete c 0) := by
  refine (State.command_of_handed handed _).trans (congrArg Host.Outcome.next ?_)
  dsimp only
  rw [if_neg (by rw [fresh]; decide), one, if_neg (fun none => nomatch none), hard, if_pos (by decide)]
  rfl

theorem State.preemptPending_iff {rcb : Nat} : s.preemptPending rcb = true ↔
    ∃ x ∈ s.named rcb none, x.onCore = true ∧ x.hardReq.isSome = true := by
  unfold State.preemptPending
  simp

/-- The only hart that a launch is left with is still its only one once a step on it has kept it live. -/
theorem State.named_onHart {s : State} {x y : Hart} {rcb : Nat} (one : s.named rcb none = [x]) {t : State}
    (my : y ∈ t.harts) (name : y.id = x.id) (live : y.st ≠ .retired)
    (from_ : ∀ z ∈ t.harts, z = y ∨ ∃ w ∈ s.harts, w.id ≠ x.id ∧ z.bare = w.bare) : ∀ z, z ∈ t.named rcb none ↔ z = y := by
  have answers : ∀ {a b : Hart}, a.id = b.id → (a.answers rcb none ↔ b.answers rcb none) := by
    intro a b same
    unfold Hart.answers
    rw [same]
  obtain ⟨mx, ax, lx, first⟩ := State.mem_named.1 (show x ∈ s.named rcb none by rw [one]; exact List.mem_cons_self)
  have old : y.id.seq.toNat ≤ x.id.seq.toNat := by rw [name]
  have oldest : ∀ z ∈ t.harts, z.answers rcb none → z.st ≠ .retired → y.id.seq.toNat ≤ z.id.seq.toNat := by
    intro z mz az lz
    rcases from_ z mz with rfl | ⟨w, mw, -, bare⟩
    · exact Nat.le_refl _
    · obtain ⟨wid, wst, -⟩ := Hart.of_bare bare
      rw [wid]
      exact old.trans (first w mw ((answers wid).1 az) (by rw [← wst]; exact lz))
  intro z
  refine ⟨fun m => ?_, ?_⟩
  · obtain ⟨mz, az, lz, low⟩ := State.mem_named.1 m
    rcases from_ z mz with same | ⟨w, mw, other, bare⟩
    · exact same
    · obtain ⟨wid, wst, -⟩ := Hart.of_bare bare
      have named : w ∈ s.named rcb none := by
        refine State.mem_named.2 ⟨mw, (answers wid).1 az, by rw [← wst]; exact lz, fun v mv av lv => ?_⟩
        have below := low y my ((answers name).2 ax) live
        rw [wid, name] at below
        exact below.trans (first v mv av lv)
      rw [one] at named
      exact absurd (congrArg Hart.id (List.mem_singleton.1 named)) other
  · rintro rfl
    exact State.mem_named.2 ⟨my, (answers name).2 ax, live, oldest⟩

theorem State.preemptPending_of_began (handed : s.handed 8 [whole, 1] c) (begun : c.began = true) :
    ((∃ x ∈ s.named (c.d 1) none, x.onCore = true ∧ x.hardReq.isSome = true) → exec .preempt s = .next s) ∧
    ((∀ x ∈ s.named (c.d 1) none, x.onCore = true → x.hardReq = none) → exec .preempt s = .next (s.complete c 0)) := by
  refine ⟨fun pending => ?_, fun done => ?_⟩
  · rw [exec_preempt_of_begun handed begun, if_pos (State.preemptPending_iff.2 pending)]
  · rw [exec_preempt_of_begun handed begun, if_neg]
    intro pending
    obtain ⟨x, m, onCore, some⟩ := State.preemptPending_iff.1 pending
    rw [done x m onCore] at some
    cases some

/-- HARD on the only hart of a launch, which may be taken (R266). -/
theorem exec_preempt_of_taken (handed : s.handed 8 [whole, 1] c) (inv : s.MemInv) (fresh : c.began = false) {x : Hart}
    (one : s.named (c.d 1) none = [x]) (hard : c.d 2 = 1) (n : s.NamesDiffer) (onCore : x.onCore = true) (lane : x.lane = none)
    (good : x.badRegs = false) (now : x.deferred = false) : ∃ (t : State) (y : Hart) (r : SaveRec), exec .preempt s = .next t ∧
      Completes t c 0 ∧ y ∈ t.harts ∧ y.id = x.id ∧ y.st = .saved ∧ y.save = some r ∧ r.cause = 0x21 ∧
      r.detail = x.hardReq.getD 3 := by
  have mx : x ∈ s.harts := (State.mem_named.1 (show x ∈ s.named (c.d 1) none by rw [one]; exact List.mem_cons_self)).1
  have focus : ((s.begin c).focus x.id).hart = x := State.focus_hart (s := s.begin c) n mx
  have taken := State.hardPreempt_preempted (s := (s.begin c).focus x.id) 3 (by rw [focus]; exact onCore) (by rw [focus]; exact now)
    (by rw [focus]; exact lane) (by rw [focus]; exact good)
  obtain ⟨id, st, ⟨r, save, cause, detail⟩, rest, memInv⟩ := taken
  rw [focus] at id detail
  obtain ⟨-, there, from_, -⟩ := State.onHart_harts (s := s.begin c) n mx (f := fun s => s.hardPreempt 3) id rest
  have run := exec_preempt_of_hard handed fresh one hard
  have inv' : ((s.begin c).onHart x.id fun s => s.hardPreempt 3).MemInv :=
    State.focus_memInv _ _ (memInv (State.focus_memInv (s.begin c) _ inv))
  have only := State.named_onHart one there id (by rw [st]; decide) from_
  dsimp only at run
  generalize (s.begin c).onHart x.id (fun s => s.hardPreempt 3) = t at run there only inv'
  rw [if_neg] at run
  · obtain ⟨y, my, eq⟩ := State.mem_harts_of_contexts (t.complete_contexts c 0) there
    refine ⟨_, y, r, run, State.complete_completes _ _ _ inv', my, ?_, ?_, ?_, cause, detail⟩
    · rw [eq]
      exact id
    · rw [eq]
      exact st
    · rw [eq]
      exact save
  · intro pending
    obtain ⟨z, mz, held, -⟩ := State.preemptPending_iff.1 pending
    rw [(only z).1 mz, Hart.onCore, st] at held
    cases held

/-- HARD on the only hart of a launch, which may not be taken: it waits (R266). -/
theorem exec_preempt_of_put (handed : s.handed 8 [whole, 1] c) (fresh : c.began = false) {x : Hart}
    (one : s.named (c.d 1) none = [x]) (hard : c.d 2 = 1) (n : s.NamesDiffer) (onCore : x.onCore = true)
    (put : x.deferred = true) : ∃ (t : State) (y : Hart), exec .preempt s = .next t ∧ t.journal = s.journal ∧
      (∃ k ∈ t.cmds, k.seq = c.seq ∧ k.began = true) ∧ y ∈ t.harts ∧ y = { x with hardReq := some (x.hardReq.getD 3), soft := [] } := by
  obtain ⟨mx, ax, lx, -⟩ := State.mem_named.1 (show x ∈ s.named (c.d 1) none by rw [one]; exact List.mem_cons_self)
  have focus : ((s.begin c).focus x.id).hart = x := State.focus_hart (s := s.begin c) n mx
  have kept := State.hardPreempt_of_deferred (s := (s.begin c).focus x.id) 3 (by rw [focus]; exact onCore) (by rw [focus]; exact put)
  rw [focus] at kept
  obtain ⟨h, ps, moves⟩ := (s.begin c).focus_moves x.id
  obtain ⟨h', ps', back⟩ := (((s.begin c).focus x.id).hardPreempt 3).focus_moves (s.begin c).hart.id
  have rest : (((s.begin c).focus x.id).hardPreempt 3).rest = ((s.begin c).focus x.id).rest := by
    rw [kept]
    rfl
  obtain ⟨-, there, from_, -⟩ := State.onHart_harts (s := s.begin c) n mx (f := fun s => s.hardPreempt 3)
    (by rw [kept]; rfl) rest
  have result : (((s.begin c).focus x.id).hardPreempt 3).hart = { x with hardReq := some (x.hardReq.getD 3), soft := [] } := by
    rw [kept]
    rfl
  rw [result] at there from_
  have only := State.named_onHart one there rfl lx from_
  have run := exec_preempt_of_hard handed fresh one hard
  dsimp only at run
  have pending : ((s.begin c).onHart x.id fun s => s.hardPreempt 3).preemptPending (c.d 1) = true :=
    State.preemptPending_iff.2 ⟨_, (only _).2 rfl, onCore, rfl⟩
  rw [if_pos pending] at run
  refine ⟨_, _, run, ?_, ?_, there, rfl⟩
  · show (State.focus _ _).journal = _
    rw [back, kept]
    show ((s.begin c).focus x.id).journal = _
    rw [moves]
    rfl
  · have same : ((s.begin c).onHart x.id fun s => s.hardPreempt 3).cmds = (s.begin c).cmds := by
      show (State.focus _ _).cmds = _
      rw [back, kept]
      show ((s.begin c).focus x.id).cmds = _
      rw [moves]
    rw [same]
    exact ⟨_, List.mem_map_of_mem (State.handed_mem handed).1, by rw [if_pos rfl], by rw [if_pos rfl]⟩

end
end Sys2Proof.Machine
end

section
/-! Commands on harts; obligation O60. -/

namespace Sys2Proof.Machine

/-- CANCEL: who is named, who retires and who is left (R255, R330, R334). -/
theorem exec_cancel_cancels {s : State} {c : Cmd} (handed : s.handed 7 [whole, 0x1FFFFFFFF] c) (inv : s.MemInv)
    (fresh : c.began = false) (first : s.overtakes c = false) (n : s.NamesDiffer) (calm : ∀ x ∈ s.harts, x.cancelling = false)
    (some : ∃ h ∈ s.named (c.d 1) c.index, ¬h.releasePending = true)
    (off : ∀ h ∈ s.named (c.d 1) c.index, ¬h.releasePending = true → h.onCore = false) : ∃ t : State, exec .cancel s = .next t ∧
      ((∃ h ∈ s.named (c.d 1) c.index, h.releasePending = true) → Completes t c 5) ∧
      ((∀ h ∈ s.named (c.d 1) c.index, ¬h.releasePending = true) → Completes t c 0) ∧
      (∀ h ∈ s.named (c.d 1) c.index, ¬h.releasePending = true → ∃ y ∈ t.harts, y.id = h.id ∧ y.st = .retired) ∧
      (∀ h ∈ s.named (c.d 1) c.index, h.releasePending = true →
        ∃ y ∈ t.harts, y.id = h.id ∧ y.st = h.st ∧ y.save = h.save ∧ y.cancelling = false) ∧
      ∀ h l p, s.named (c.d 1) c.index = [h] → s.launches.find? (fun l => decide (l.seq = h.id.seq)) = Option.some l → l.left = 1 →
        l.donea ≠ 0 → s.translate l.info.asid .write (l.donea.setWidth 64) = .ok p → p.pa + 8 ≤ barBase →
        (∀ x ∈ s.cmds, p.pa + 8 ≤ x.d 7 % 2 ^ 56 ∨ x.d 7 % 2 ^ 56 + 8 ≤ p.pa) → memRead t.mem p.pa 8 = 2 ^ 64 - 1 := by
  have member : ∀ h ∈ s.named (c.d 1) c.index, h ∈ s.harts := fun h m => (State.mem_named.1 m).1
  have all := State.cancelledBy_spec (s := s) (c := c) n fun h m => off h (State.mem_toCancel.1 m).1 (State.mem_toCancel.1 m).2
  have after := all.memInv (State.begun_memInv inv)
  have done : ∀ y ∈ (s.cancelledBy c).harts, y.cancelling = false := by
    intro y my
    rcases all.only y my with calmed | ⟨x, mx, bare⟩
    · exact calmed
    · obtain ⟨-, -, -, same⟩ := Hart.of_bare bare
      exact same.trans (calm x mx)
  obtain ⟨k, mk, notPending⟩ := some
  have run := exec_cancel_of_some handed fresh first (List.ne_nil_of_mem (State.mem_toCancel.2 ⟨mk, notPending⟩)) done
  have seen : ∀ z ∈ (s.cancelledBy c).harts, ∃ y ∈ ((s.cancelledBy c).complete c (if s.leavesOut c then 5 else 0)).harts,
      y = { z with watch := y.watch } := fun z mz => State.mem_harts_of_contexts (State.complete_contexts _ _ _) mz
  refine ⟨_, run, fun left => ?_, fun none => ?_, fun h m not => ?_, fun h m left => ?_, fun h l p only found last named translated low apart => ?_⟩
  · rw [if_pos (State.leavesOut_iff.2 left)]
    exact State.complete_completes _ _ _ after
  · rw [if_neg fun left => ?_]
    · exact State.complete_completes _ _ _ after
    · obtain ⟨h, m, pending⟩ := State.leavesOut_iff.1 left
      exact none h m pending
  · obtain ⟨z, mz, id, st⟩ := all.gone h (member h m) (List.mem_map_of_mem (State.mem_toCancel.2 ⟨m, not⟩))
    obtain ⟨y, my, eq⟩ := seen z mz
    exact ⟨y, my, by rw [eq]; exact id, by rw [eq]; exact st⟩
  · have stays : h.id ∉ (s.toCancel c).map fun h => h.id := by
      intro named
      obtain ⟨g, mg, same⟩ := List.mem_map.1 named
      obtain ⟨mg, not⟩ := State.mem_toCancel.1 mg
      rw [State.harts_eq_of_id n (member g mg) (member h m) same] at not
      exact not left
    obtain ⟨z, mz, bare⟩ := all.left h (member h m) stays
    obtain ⟨id, st, save, cancelling⟩ := Hart.of_bare bare
    obtain ⟨y, my, eq⟩ := seen z mz
    refine ⟨y, my, ?_, ?_, ?_, ?_⟩
    · rw [eq]
      exact id
    · rw [eq]
      exact st
    · rw [eq]
      exact save
    · rw [eq]
      exact cancelling.trans (calm h (member h m))
  · have notPending : ¬h.releasePending = true := by
      rw [only] at mk
      rwa [← List.mem_singleton.1 mk]
    have mh : h ∈ s.named (c.d 1) c.index := by
      rw [only]
      exact List.mem_cons_self
    have alone : s.toCancel c = [h] := by
      unfold State.toCancel
      rw [only]
      exact List.filter_cons_of_pos (by simpa using notPending)
    have told := State.cancelledBy_tells n (member h mh) alone (off h mh notPending) inv found last named translated low apart
    refine (memRead_congr _ _ _ _ fun b from_ to_ => State.complete_other _ c _ after ?_).trans told
    have := apart c (State.handed_mem handed).1
    omega

/-- Settles O60: a command on harts does to each that it names what the step on that hart does, and then completes. -/
theorem hartCommands : Obligations.HartCommands := by
  unfold Obligations.HartCommands
  intro s c inv w only runsAgain
  refine ⟨fun handed first => ⟨fun none => ?_, fun h r found save => ⟨fun spoilt => ?_, fun sound => ⟨fun slot => ?_, fun area =>
    ⟨fun refused => ?_, fun h' r' read => ?_⟩⟩⟩⟩, s.overtakes_iff c, fun later => ⟨fun handed => exec_release_of_later handed later,
    fun handed fresh => exec_cancel_of_later handed fresh later⟩, fun handed fresh first => ?_, fun handed => ?_⟩
  · refine ⟨_, exec_release_of_none handed first ?_, State.complete_quietlyCompletes _ _ _ inv⟩
    refine List.find?_eq_none.2 fun h m saved => ?_
    obtain ⟨mh, ⟨rcb, index⟩, -⟩ := State.mem_named.1 m
    exact none h mh rcb (index _ rfl) (of_decide_eq_true (Bool.and_eq_true_iff.1 saved).1)
  · exact ⟨_, exec_release_of_spoilt handed first found save spoilt, State.complete_quietlyCompletes _ _ _ inv⟩
  · have mh : h ∈ s.harts := (State.mem_named.1 (List.mem_of_find?_eq_some found)).1
    obtain ⟨y, my, id, kept, sregs, st⟩ := State.releaseHart_runs (c := c) r mh rfl
    exact ⟨_, y, exec_release_of_slot handed first found save sound slot,
      State.complete_completes _ _ _ (State.releaseHart_memInv h r inv), my, id, kept, sregs, st⟩
  · exact ⟨_, (exec_release_of_area handed first found save sound area).1 refused, State.complete_quietlyCompletes _ _ _ inv⟩
  · have mh : h ∈ s.harts := (State.mem_named.1 (List.mem_of_find?_eq_some found)).1
    obtain ⟨y, my, id, kept, sregs, st⟩ := State.releaseHart_runs (c := c) r' mh (State.readBack_id read)
    exact ⟨_, y, (exec_release_of_area handed first found save sound area).2 h' r' read,
      State.complete_completes _ _ _ (State.releaseHart_memInv h' r' inv), my, id, kept, sregs, st⟩
  · have mem : ∀ h, h ∈ s.named (c.d 1) c.index ↔ _ := fun h => State.mem_named
    simp only [Hart.answers_iff handed] at mem
    refine ⟨fun retired => ?_, mem, fun left => ?_, fun n calm some off => exec_cancel_cancels handed inv fresh first n calm some off⟩
    · refine ⟨_, exec_cancel_of_none handed fresh first ?_, State.complete_quietlyCompletes _ _ _ inv⟩
      refine List.eq_nil_iff_forall_not_mem.2 fun h m => ?_
      obtain ⟨mh, mine, live, -⟩ := (mem h).1 (State.mem_toCancel.1 m).1
      exact live (retired h mh mine)
    · refine ⟨_, exec_cancel_of_none handed fresh first ?_, State.complete_quietlyCompletes _ _ _ inv⟩
      refine List.eq_nil_iff_forall_not_mem.2 fun h m => ?_
      obtain ⟨m, not⟩ := State.mem_toCancel.1 m
      exact not (left h m)
  · refine ⟨fun fresh none => ⟨_, exec_preempt_of_none handed fresh none, State.complete_quietlyCompletes _ _ _ inv⟩,
      fun fresh some soft => ?_, fun x fresh one hard n onCore lane good => ⟨fun now => ?_, fun put => ?_⟩, fun begun => ?_⟩
    · have inv' : ((s.named (c.d 1) none).foldl (fun s h => s.modHart h.id (Hart.request s.ns .host)) s).MemInv := by
        generalize s.named (c.d 1) none = l
        clear some handed fresh soft only runsAgain
        induction l generalizing s with
        | nil => exact inv
        | cons k l ih => exact ih (s.modHart k.id (Hart.request s.ns .host)) inv
      refine ⟨_, exec_preempt_of_soft handed fresh some soft, State.complete_completes _ _ _ inv', fun x m onCore => ?_⟩
      obtain ⟨z, mz, ⟨id, -, kept⟩, host⟩ := State.foldl_request .host (s.named (c.d 1) none) s (fun s => s.ns) x (State.mem_named.1 m).1
      obtain ⟨y, my, eq⟩ := State.mem_harts_of_contexts (State.complete_contexts _ c 0) mz
      have soft : y.soft = z.soft := by rw [eq]
      rw [← soft] at kept host
      exact ⟨y, my, by rw [eq]; exact id, kept, host onCore (.inl (List.mem_map_of_mem m))⟩
    · exact exec_preempt_of_taken handed inv fresh one hard n onCore lane good now
    · exact exec_preempt_of_put handed fresh one hard n onCore put
    · obtain ⟨pending, done⟩ := State.preemptPending_of_began handed begun
      exact ⟨pending, fun none => ⟨_, done none, State.complete_quietlyCompletes _ _ _ inv⟩⟩

end Sys2Proof.Machine
end

section
/-! What can issue does not depend on the arbiters. -/

namespace Sys2Proof.Machine

/-! ### What issues does not depend on the arbiters -/

section
variable (s : State) (a : List (Nat × Arbiter))

/-- The state with other arbiters. -/
def State.withArbs (s : State) (a : List (Nat × Arbiter)) : State := { s with arbs := a }

theorem State.withArbs_focus (name : HartId) : (s.withArbs a).focus name = (s.focus name).withArbs a := by
  have parked : (s.withArbs a).parked = s.parked := rfl
  unfold State.focus
  by_cases same : s.hart.id = name
  · rw [if_pos same, if_pos (show (s.withArbs a).hart.id = name from same)]
  · rw [if_neg same, if_neg (show ¬(s.withArbs a).hart.id = name from same), parked]
    cases s.parked.find? fun h => decide (h.id = name) <;> rfl

theorem State.creditAll_withArbs (h : Hart) (f : Int → Int) : ∃ b, s.creditAll h f = s.withArbs b := ⟨_, State.creditAll_eq s h f⟩

/-- A context changed between two changes of credits. -/
theorem State.creditAll_modHart (h h' : Hart) (f : Int → Int) (name : HartId) (k : Hart → Hart) :
    ∃ b, ((s.creditAll h f).modHart name k).creditAll h' f = (s.modHart name k).withArbs b := by
  obtain ⟨b, first⟩ := s.creditAll_withArbs h f
  obtain ⟨b', second⟩ := ((s.withArbs b).modHart name k).creditAll_withArbs h' f
  rw [first]
  exact ⟨b', second⟩

theorem State.takeGrant_withArbs (h : Hart) (g w : Nat) : ∃ b, (s.withArbs a).takeGrant h g w = (s.takeGrant h g w).withArbs b := by
  unfold State.takeGrant
  split
  · exact ⟨a, rfl⟩
  · dsimp only
    generalize ({ (if w = h.w then h else h.landAll.deadVectors) with lgb := g, w := w, partDue := false } : Hart) = h'
    obtain ⟨b, there⟩ := (s.withArbs a).creditAll_modHart h h' (fun _ => 0) h.id fun _ => h'
    obtain ⟨b', here⟩ := s.creditAll_modHart h h' (fun _ => 0) h.id fun _ => h'
    rw [there, here]
    exact ⟨b, rfl⟩

set_option smartUnfolding false in
theorem State.newGrant_withArbs : (s.withArbs a).newGrant = s.newGrant := rfl

set_option smartUnfolding false in
theorem State.wordAt_withArbs : (s.withArbs a).wordAt = s.wordAt := rfl

set_option smartUnfolding false in
theorem State.softDue_withArbs : (s.withArbs a).softDue = s.softDue := rfl

set_option smartUnfolding false in
theorem State.takeReg_withArbs (r n : Nat) : ((s.withArbs a).takeReg r n).frontier = (s.takeReg r n).frontier := rfl

theorem State.atHead_withArbs : (s.withArbs a).atHead = s.atHead := by
  unfold State.atHead
  simp only [State.wordAt_withArbs]

theorem State.newGrant_takeGrant_withArbs (h o : Hart) (g w : Nat) :
    ((s.withArbs a).takeGrant h g w).newGrant o = (s.takeGrant h g w).newGrant o := by
  obtain ⟨b, same⟩ := s.takeGrant_withArbs a h g w
  rw [same, State.newGrant_withArbs]

theorem State.regrant_withArbs : (s.withArbs a).regrant.isNone = s.regrant.isNone := by
  have hart : (s.withArbs a).hart = s.hart := rfl
  have harts : (s.withArbs a).harts = s.harts := rfl
  have window : (s.withArbs a).lgWindow = s.lgWindow := rfl
  have out : ∀ (name : HartId) (f : Hart → Hart), (s.withArbs a).modHart name f = (s.modHart name f).withArbs a := fun _ _ => rfl
  unfold State.regrant
  simp only [hart, harts, window, out, State.newGrant_withArbs, State.atHead_withArbs, State.newGrant_takeGrant_withArbs]
  split
  · rfl
  · cases s.newGrant s.hart with
    | some p => rfl
    | none =>
      dsimp only
      cases s.harts.find? _ with
      | none => rfl
      | some o =>
        dsimp only
        cases (s.modHart o.id fun x => { x with w := 0 }).newGrant s.hart with
        | none => rfl
        | some p =>
          dsimp only
          cases State.newGrant _ o <;> rfl

theorem State.blocked_withArbs : (s.withArbs a).blocked = s.blocked := by
  funext h i
  have frontier : (s.withArbs a).atFrontier h i = s.atFrontier h i := by
    unfold State.atFrontier
    congr 1
    funext p
    exact congrArg (fun x : Option _ => ((h.gen p.1).bound && (h.gen p.1).pat.mode != 0 && x.isSome))
      ((s.setHart h).takeReg_withArbs a _ _)
  have part : (s.withArbs a).awaitsPart h i = s.awaitsPart h i := by
    unfold State.awaitsPart
    simp only [State.softDue_withArbs, State.withArbs_focus, State.regrant_withArbs]
  unfold State.blocked
  rw [frontier, part]
  rfl

/-- Which words can issue does not depend on the arbiters (R22). -/
theorem State.headOn_withArbs : (s.withArbs a).headOn = s.headOn := by
  funext lg h
  unfold State.headOn State.candidate State.laneReady State.headWord State.issuable
  simp only [State.blocked_withArbs, State.wordAt_withArbs]

theorem State.candidateOn_withArbs : (s.withArbs a).candidateOn = s.candidateOn := by
  funext lg h
  unfold State.candidateOn
  rw [State.headOn_withArbs]

end

end Sys2Proof.Machine
end

section
/-! Arbiters and issue cycles. -/

namespace Sys2Proof.Machine

/-! ### One cycle of an arbiter -/

/-- What an arbiter charges a hart's head (R23). -/
def State.charge (s : State) (g : Nat) (h : Hart) : Int := ((s.headOn g h).map fun w => h.occupancy w).getD 0

/-- `t` is `s` with another arbiter at one lane group. -/
def State.Arbitrated (s t : State) (c g : Nat) (A : Arbiter) : Prop := (∃ a, t = s.withArbs a) ∧ t.arb c g = A

namespace State.Arbitrated
variable {s t : State} {c g : Nat} {A : Arbiter}

theorem set (h : s.Arbitrated t c g A) (B : Arbiter) : s.Arbitrated (t.setArb c g B) c g B := by
  obtain ⟨⟨a, rfl⟩, -⟩ := h
  exact ⟨⟨_, rfl⟩, State.arb_setArb_same _ _ _ _⟩

theorem headOn (h : s.Arbitrated t c g A) : t.headOn = s.headOn := by
  obtain ⟨⟨a, rfl⟩, -⟩ := h
  exact s.headOn_withArbs a

theorem candidateOn (h : s.Arbitrated t c g A) : t.candidateOn = s.candidateOn := by
  obtain ⟨⟨a, rfl⟩, -⟩ := h
  exact s.candidateOn_withArbs a

theorem arbHarts (h : s.Arbitrated t c g A) : t.arbHarts = s.arbHarts := by
  obtain ⟨⟨a, rfl⟩, -⟩ := h
  rfl

theorem arbHart (h : s.Arbitrated t c g A) : t.arbHart = s.arbHart := by
  obtain ⟨⟨a, rfl⟩, -⟩ := h
  rfl

theorem nextTurn (h : s.Arbitrated t c g A) : t.nextTurn = s.nextTurn := by
  obtain ⟨⟨a, rfl⟩, -⟩ := h
  rfl

theorem lowest (h : s.Arbitrated t c g A) : t.lowest = s.lowest := by
  funext c g p
  unfold State.lowest
  rw [h.arbHart, h.candidateOn]

theorem unchoose (s : State) (c g : Nat) : s.Arbitrated (s.unchoose c g) c g { s.arb c g with chosen := none } :=
  ⟨⟨_, rfl⟩, State.arb_setArb_same _ _ _ _⟩

/-- An arbiter lets a hart issue (R22). -/
theorem issue (h : s.Arbitrated t c g A) (x : Hart) (charged : Bool) : s.Arbitrated (t.issue c g x charged) c g
    { A with chosen := some x.ctx, credit := if charged then A.credit.set x.ctx (A.credit.getD x.ctx 0 - s.charge g x) else A.credit } := by
  have same : t.issue c g x charged = t.setArb c g { A with
      chosen := some x.ctx, credit := if charged then A.credit.set x.ctx (A.credit.getD x.ctx 0 - s.charge g x) else A.credit } := by
    unfold State.issue State.charge
    rw [h.headOn, h.2]
    cases s.headOn g x <;> rfl
  rw [same]
  exact h.set _

end State.Arbitrated

theorem State.arbHart_mem {s : State} {c g k : Nat} {x : Hart} (there : s.arbHart c g k = some x) : x.ctx = k ∧ x ∈ s.harts :=
  ⟨by simpa using List.find?_some there, (List.mem_filter.1 (List.mem_of_find?_eq_some there)).1⟩

/-- The refilled credit of the hart that takes the turn (R22). -/
def Arbiter.refill (A : Arbiter) (n : Nat) (y : Hart) : Int :=
  min (A.credit.getD n 0 + 4 * (y.info.wght.toNat : Int)) (4 * (y.info.wght.toNat : Int))

/-- What the hart that takes the turn has: at least 1 where it can issue (R22). -/
def State.refilled (s : State) (g : Nat) (A : Arbiter) (n : Nat) (y : Hart) : Int :=
  if s.candidateOn g y && decide (A.refill n y ≤ 0) then 1 else A.refill n y

/-- The arbiter once the turn has passed. -/
def State.passed (s : State) (g : Nat) (A : Arbiter) (n : Nat) (y : Hart) : Arbiter :=
  { A with turn := n, credit := A.credit.set n (s.refilled g A n y) }

section
variable {s t : State} {c g n : Nat} {A : Arbiter} {y : Hart}

theorem State.Arbitrated.passTurn (h : s.Arbitrated t c g A) (next : s.nextTurn c g A.turn = some n)
    (there : s.arbHart c g n = some y) : s.Arbitrated (t.passTurn c g) c g (s.passed g A n y) := by
  have same : t.passTurn c g = t.setArb c g (s.passed g A n y) := by
    unfold State.passTurn
    dsimp only
    rw [h.nextTurn, h.2, next]
    dsimp only
    rw [h.arbHart, there]
    dsimp only
    rw [h.candidateOn]
    rfl
  rw [same]
  exact h.set _

/-- The arbiter as the holder of the turn leaves it: without its credit where it cannot issue (R22). -/
def Arbiter.left (A : Arbiter) (can : Bool) : Arbiter :=
  if can then A else { A with credit := A.credit.set A.turn (min (A.credit.getD A.turn 0) 0) }

theorem Arbiter.left_turn (A : Arbiter) (can : Bool) : (A.left can).turn = A.turn := by
  unfold Arbiter.left
  split <;> rfl

/-- The rest of the cycle where a bound hart has weight: the turn has passed to the next of them. -/
theorem State.afterTurn_weighted (h : s.Arbitrated t c g A) (can : Bool) (weighted : ∃ x ∈ s.arbHarts c g, x.info.wght ≠ 0)
    (next : s.nextTurn c g A.turn = some n) (there : s.arbHart c g n = some y) :
    ∃ u, s.Arbitrated u c g (s.passed g (A.left can) n y) ∧
      (s.candidateOn g y = true → t.afterTurn c g can = u.issue c g y true) ∧
      (s.candidateOn g y = false → (s.lowest c g fun x => x.info.wght != 0).isSome = true → t.afterTurn c g can = u) ∧
      (s.candidateOn g y = false → s.lowest c g (fun x => x.info.wght != 0) = none →
        (∀ z, s.lowest c g (fun x => x.info.wght == 0) = some z → t.afterTurn c g can = u.issue c g z false) ∧
        (s.lowest c g (fun x => x.info.wght == 0) = none → t.afterTurn c g can = u)) := by
  let v : State := if can then t else t.setArb c g { A with credit := A.credit.set A.turn (min (A.credit.getD A.turn 0) 0) }
  have before : s.Arbitrated v c g (A.left can) := by
    show s.Arbitrated (ite _ _ _) c g (ite _ _ _)
    split
    · exact h
    · exact h.set _
  have after := before.passTurn (by rw [A.left_turn]; exact next) there
  have any : (t.arbHarts c g).any (fun x => x.info.wght != 0) = true := by
    rw [h.arbHarts]
    simpa using weighted
  refine ⟨v.passTurn c g, after, ?_⟩
  have form : ∀ o, (v.passTurn c g).arbHart c g ((v.passTurn c g).arb c g).turn = o → t.afterTurn c g can = (match o with
      | some h => if (v.passTurn c g).candidateOn g h then (v.passTurn c g).issue c g h true
        else if ((v.passTurn c g).lowest c g fun x => x.info.wght != 0).isSome then v.passTurn c g
        else (match (v.passTurn c g).lowest c g fun x => x.info.wght == 0 with
          | some x => (v.passTurn c g).issue c g x false
          | none => v.passTurn c g)
      | none => v.passTurn c g) := by
    rintro o rfl
    unfold State.afterTurn
    rw [h.2] 
    exact if_pos any
  have run := form (some y) (by rw [after.2, after.arbHart]; exact there)
  rw [after.candidateOn, after.lowest] at run
  dsimp only at run
  refine ⟨fun can => run.trans (if_pos can), fun cannot some => ?_, fun cannot none => ⟨fun z lowest => ?_, fun lowest => ?_⟩⟩
  · rw [run, if_neg (by rw [cannot]; decide), if_pos some]
  · rw [run, if_neg (by rw [cannot]; decide), none, lowest]
    rfl
  · rw [run, if_neg (by rw [cannot]; decide), none, lowest]
    rfl

/-- The rest of the cycle where no bound hart has weight. -/
theorem State.afterTurn_unweighted (h : s.Arbitrated t c g A) (can : Bool) (unweighted : ¬∃ x ∈ s.arbHarts c g, x.info.wght ≠ 0) :
    (∀ z, s.lowest c g (fun _ => true) = some z → t.afterTurn c g can = t.issue c g z false) ∧
    (s.lowest c g (fun _ => true) = none → t.afterTurn c g can = t) := by
  have any : ¬(t.arbHarts c g).any (fun x => x.info.wght != 0) = true := by
    rw [h.arbHarts]
    simpa using unweighted
  refine ⟨fun z lowest => ?_, fun lowest => ?_⟩
  · unfold State.afterTurn
    dsimp only
    rw [if_neg any, h.lowest, lowest]
  · unfold State.afterTurn
    dsimp only
    rw [if_neg any, h.lowest, lowest]

/-- The cycle in which the holder of the turn issues. -/
theorem State.arbCycle_of_holder {x : Hart} (there : s.arbHart c g (s.arb c g).turn = some x) (can : s.candidateOn g x = true)
    (credit : 0 < (s.arb c g).credit.getD (s.arb c g).turn 0) : s.arbCycle c g = (s.unchoose c g).issue c g x true := by
  have h := State.Arbitrated.unchoose s c g
  unfold State.arbCycle
  dsimp only
  rw [h.2, h.arbHart, h.candidateOn, there]
  dsimp only
  rw [if_pos]
  rw [can, decide_eq_true credit]
  rfl

/-- The cycle in which it does not. -/
theorem State.arbCycle_of_other (not : ¬(0 < (s.arb c g).credit.getD (s.arb c g).turn 0 ∧
      ∃ x, s.arbHart c g (s.arb c g).turn = some x ∧ s.candidateOn g x = true)) {can : Bool}
    (holds : can = true ↔ ∃ x, s.arbHart c g (s.arb c g).turn = some x ∧ s.candidateOn g x = true) :
    s.arbCycle c g = (s.unchoose c g).afterTurn c g can := by
  have h := State.Arbitrated.unchoose s c g
  unfold State.arbCycle
  dsimp only
  rw [h.2, h.arbHart, h.candidateOn]
  cases there : s.arbHart c g (s.arb c g).turn with
  | none =>
    have cannot : can = false := Bool.eq_false_iff.2 fun yes => by
      obtain ⟨x, some, -⟩ := holds.1 yes
      rw [there] at some
      cases some
    rw [cannot]
  | some x =>
    have same : can = s.candidateOn g x := Bool.eq_iff_iff.2
      ⟨fun yes => by
        obtain ⟨z, some, candidate⟩ := holds.1 yes
        rw [there] at some
        rwa [Option.some.inj some], fun yes => holds.2 ⟨x, there, yes⟩⟩
    dsimp only
    rw [if_neg, same]
    intro both
    obtain ⟨candidate, credit⟩ := Bool.and_eq_true_iff.1 both
    exact not ⟨of_decide_eq_true credit, x, there, candidate⟩

/-! ### The issue cycle -/

/-- What an issue cycle leaves: an arbiter, and in the focus the hart that it has let issue. -/
def State.Issues (s : State) (core : BitVec 7) (group : BitVec 3) (turn : Nat) (credit : List Int) (x : Option Hart) : Prop :=
  ∃ t : State, exec (.whippletreeIssueCycle core group) s = .next t ∧ t.mem = s.mem ∧
    t.arb core.toNat group.toNat = { turn := turn, credit := credit, chosen := x.map (fun h => h.ctx) } ∧
    t.hart.id = (x.getD s.hart).id ∧ ((s.harts.map (fun h => h.id)).Nodup → ∀ h, h ∈ t.harts ↔ h ∈ s.harts)

theorem exec_issueCycle_of_chosen {core : BitVec 7} {group : BitVec 3} {x : Hart}
    (chosen : s.chosenHart core.toNat group.toNat = some x) : exec (.whippletreeIssueCycle core group) s = .next (s.focus x.id) := by
  show execWhippletreeIssueCycle core group s = _
  unfold execWhippletreeIssueCycle
  dsimp only
  rw [if_pos (by rw [chosen]; rfl), chosen]

theorem State.Arbitrated.chosenHart (h : s.Arbitrated t c g A) :
    (∀ x, A.chosen = some x.ctx → s.arbHart c g x.ctx = some x → s.candidateOn g x = true → t.chosenHart c g = some x) ∧
    (A.chosen = none → t.chosenHart c g = none) := by
  refine ⟨fun x chosen there can => ?_, fun none => ?_⟩
  · unfold State.chosenHart
    rw [h.2, chosen]
    dsimp only
    rw [h.arbHart, there, h.candidateOn]
    exact if_pos can
  · unfold State.chosenHart
    rw [h.2, none]

/-- A cycle in which no hart issues. -/
theorem State.issues_none {core : BitVec 7} {group : BitVec 3} (free : s.chosenHart core.toNat group.toNat = none)
    (h : s.Arbitrated (s.arbCycle core.toNat group.toNat) core.toNat group.toNat A) (none : A.chosen = Option.none) :
    s.Issues core group A.turn A.credit Option.none := by
  have run : exec (.whippletreeIssueCycle core group) s = .next (s.arbCycle core.toNat group.toNat) := by
    show execWhippletreeIssueCycle core group s = _
    unfold execWhippletreeIssueCycle
    dsimp only
    rw [if_neg (by rw [free]; decide), h.chosenHart.2 none]
  obtain ⟨⟨a, same⟩, arb⟩ := h
  refine ⟨_, run, ?_, ?_, ?_, fun _ => ?_⟩
  · rw [same]
    rfl
  · rw [arb, Option.map_none, ← none]
  · rw [same]
    rfl
  · rw [same]
    exact fun _ => Iff.rfl

/-- A cycle in which a hart issues. -/
theorem State.issues_some {core : BitVec 7} {group : BitVec 3} (free : s.chosenHart core.toNat group.toNat = none) {x : Hart}
    (h : s.Arbitrated (s.arbCycle core.toNat group.toNat) core.toNat group.toNat A) (chosen : A.chosen = some x.ctx)
    (there : s.arbHart core.toNat group.toNat x.ctx = some x) (can : s.candidateOn group.toNat x = true) :
    s.Issues core group A.turn A.credit (some x) := by
  have run : exec (.whippletreeIssueCycle core group) s = .next ((s.arbCycle core.toNat group.toNat).focus x.id) := by
    show execWhippletreeIssueCycle core group s = _
    unfold execWhippletreeIssueCycle
    dsimp only
    rw [if_neg (by rw [free]; decide), h.chosenHart.1 x chosen there can]
  obtain ⟨⟨a, same⟩, arb⟩ := h
  obtain ⟨k, ps, moves⟩ := (s.arbCycle core.toNat group.toNat).focus_moves x.id
  refine ⟨_, run, ?_, ?_, ?_, fun n => ?_⟩
  · rw [moves, same]
    rfl
  · rw [moves]
    refine arb.trans ?_
    rw [Option.map_some, ← chosen]
  · refine State.focus_hart_id ⟨x, ?_, rfl⟩
    rw [same]
    exact (State.arbHart_mem there).2
  · intro z
    rw [same]
    exact (State.focus_harts_perm (s.withArbs a) x.id n).mem_iff

end
end Sys2Proof.Machine
end

section
/-! The preferred hart, slots and lost areas. -/

namespace Sys2Proof.Machine

/-! ### The hart that R14 prefers -/

theorem State.better_true {s : State} {a b : Hart} (better : s.better a b = true) :
    s.prioOf b ≤ s.prioOf a ∧ (s.prioOf b = s.prioOf a → a.since ≤ b.since) := by
  unfold State.better at better
  simp only [Bool.or_eq_true, Bool.and_eq_true, decide_eq_true_eq, beq_iff_eq] at better
  rcases better with higher | ⟨same, earlier⟩
  · exact ⟨Nat.le_of_lt higher, fun same => by omega⟩
  · exact ⟨Nat.le_of_eq same.symm, fun _ => by omega⟩

theorem State.better_false {s : State} {a b : Hart} (worse : s.better a b = false) :
    s.prioOf a ≤ s.prioOf b ∧ (s.prioOf a = s.prioOf b → b.since ≤ a.since) := by
  unfold State.better at worse
  simp only [Bool.or_eq_false_iff, Bool.and_eq_false_iff, decide_eq_false_iff_not, beq_eq_false_iff_ne] at worse
  obtain ⟨high, rest⟩ := worse
  refine ⟨by omega, fun same => ?_⟩
  rcases rest with other | ⟨late, -⟩
  · exact absurd same other
  · omega

theorem State.best_spec (s : State) (l : List Hart) : (l ≠ [] → ∃ x, s.best l = some x) ∧ ∀ x, s.best l = some x → x ∈ l ∧
    ∀ y ∈ l, s.prioOf y ≤ s.prioOf x ∧ (s.prioOf y = s.prioOf x → x.since ≤ y.since) := by
  induction l with
  | nil => exact ⟨fun not => absurd rfl not, fun x found => (nomatch found)⟩
  | cons h hs ih =>
    have spec := ih.2
    cases rest : s.best hs with
    | none =>
      have found : s.best (h :: hs) = some h := by
        unfold State.best
        rw [rest]
      have none : hs = [] := by
        by_contra some
        obtain ⟨x, found⟩ := ih.1 some
        rw [rest] at found
        cases found
      refine ⟨fun _ => ⟨h, found⟩, fun x e => ?_⟩
      rw [found] at e
      cases e
      refine ⟨List.mem_cons_self, fun y m => ?_⟩
      rw [none] at m
      rw [List.mem_singleton.1 m]
      exact ⟨Nat.le_refl _, fun _ => Nat.le_refl _⟩
    | some x =>
      obtain ⟨mx, first⟩ := spec x rest
      have found : s.best (h :: hs) = if s.better h x then some h else some x := by
        rw [State.best, rest]
      rw [found]
      cases better : s.better h x with
      | true =>
        obtain ⟨high, early⟩ := State.better_true better
        refine ⟨fun _ => ⟨h, rfl⟩, fun z e => ?_⟩
        cases e
        refine ⟨List.mem_cons_self, fun y m => ?_⟩
        rcases List.mem_cons.1 m with rfl | m
        · exact ⟨Nat.le_refl _, fun _ => Nat.le_refl _⟩
        · obtain ⟨low, late⟩ := first y m
          exact ⟨low.trans high, fun same => (early (by omega)).trans (late (by omega))⟩
      | false =>
        refine ⟨fun _ => ⟨x, rfl⟩, fun z e => ?_⟩
        cases e
        refine ⟨List.mem_cons_of_mem _ mx, fun y m => ?_⟩
        rcases List.mem_cons.1 m with rfl | m
        · exact State.better_false better
        · exact first y m

/-- Every hart of a list has its place in R14's order. -/
theorem State.mem_inOrder (s : State) (n : Nat) (l : List Hart) (differ : (l.map fun h => h.id).Nodup) (long : l.length ≤ n) {x : Hart}
    (m : x ∈ l) : x ∈ s.inOrder n l := by
  induction n generalizing l with
  | zero => exact absurd m (by rw [List.length_eq_zero_iff.1 (Nat.le_zero.1 long)]; exact List.not_mem_nil)
  | succ n ih =>
    obtain ⟨some, spec⟩ := s.best_spec l
    obtain ⟨h, found⟩ := some (List.ne_nil_of_mem m)
    obtain ⟨mh, -⟩ := spec h found
    rw [State.inOrder, found]
    by_cases same : x.id = h.id
    · rw [List.inj_on_of_nodup_map differ m mh same]
      exact List.mem_cons_self
    · refine List.mem_cons_of_mem _ (ih _ ?_ ?_ (List.mem_filter.2 ⟨m, by simpa using same⟩))
      · exact differ.sublist (List.filter_sublist.map _)
      · have shorter := List.length_filter_lt_length_iff_exists (p := fun x => !decide (x.id = h.id)) |>.2 ⟨h, mh, by simp⟩
        omega

/-! ### The least of a list -/

/-- One step of the search for the element of the least key. -/
def least {α : Type} (key : α → Nat) (best : Option α) (x : α) : Option α :=
  match best with
  | none => some x
  | some b => if key x < key b then some x else some b

theorem foldl_least {α : Type} (key : α → Nat) (l : List α) (best : Option α) :
    (l.foldl (least key) best = none ↔ best = none ∧ l = []) ∧ ∀ b, l.foldl (least key) best = some b →
      (b ∈ l ∨ best = some b) ∧ (∀ z ∈ l, key b ≤ key z) ∧ ∀ z, best = some z → key b ≤ key z := by
  induction l generalizing best with
  | nil =>
    refine ⟨⟨fun none => ⟨none, rfl⟩, fun h => h.1⟩, fun b e => ⟨.inr e, fun z m => (nomatch m), fun z e' => ?_⟩⟩
    rw [List.foldl_nil, e'] at e
    cases e
    exact Nat.le_refl _
  | cons x xs ih =>
    obtain ⟨none, some⟩ := ih (least key best x)
    have step : ∃ y, least key best x = Option.some y ∧ (y = x ∨ best = Option.some y) ∧ key y ≤ key x ∧
        ∀ z, best = Option.some z → key y ≤ key z := by
      unfold least
      cases best with
      | none => exact ⟨x, rfl, .inl rfl, Nat.le_refl _, fun z e => (nomatch e)⟩
      | some b =>
        dsimp only
        split
        · next lt => exact ⟨x, rfl, .inl rfl, Nat.le_refl _, fun z e => by cases e; exact Nat.le_of_lt lt⟩
        · next ge => exact ⟨b, rfl, .inr rfl, Nat.le_of_not_lt ge, fun z e => by cases e; exact Nat.le_refl _⟩
    obtain ⟨y, taken, from_, low, old⟩ := step
    rw [List.foldl_cons]
    refine ⟨⟨fun e => ?_, fun h => (nomatch h.2)⟩, fun b e => ?_⟩
    · rw [taken] at none
      cases (none.1 (by rw [← taken]; exact e)).1
    · obtain ⟨there, all, first⟩ := some b e
      have below := first y taken
      refine ⟨?_, fun z m => ?_, fun z e' => below.trans (old z e')⟩
      · rcases there with m | same
        · exact .inl (List.mem_cons_of_mem _ m)
        · rw [taken] at same
          cases same
          rcases from_ with rfl | same
          · exact .inl List.mem_cons_self
          · exact .inr same
      · rcases List.mem_cons.1 m with rfl | m
        · exact below.trans low
        · exact all z m

/-! ### Slots -/

theorem State.lgWindow_top (s : State) (core ctx : Nat) : (s.lgWindow core ctx).2 ≤ 8 := by
  unfold State.lgWindow
  dsimp only
  split
  · decide
  · split
    · show 4 ≤ 8
      decide
    · split
      · decide
      · show 0 ≤ 8
        decide

theorem State.freeBlock_spec {s : State} {self : HartId} {core ctx w g : Nat} (found : s.freeBlock self core ctx w = some g) :
    g + w ≤ 8 ∧ g % w = 0 := by
  have free := List.find?_some found
  have aligned := (List.mem_filter.1 (List.mem_of_find?_eq_some found)).2
  unfold State.blockFree at free
  simp only [Bool.and_eq_true, decide_eq_true_eq] at free
  have := s.lgWindow_top core ctx
  exact ⟨by omega, by simpa using aligned⟩

theorem State.sharedGroup_below {s : State} {self : HartId} {core ctx g : Nat} (found : s.sharedGroup self core ctx = some g) : g < 8 := by
  have search : ∃ p, s.sharedGroup self core ctx =
      ((List.range 8).filter p).foldl (least fun g => (s.boundHarts self core g).length) none := by
    unfold State.sharedGroup
    refine ⟨_, congrArg₂ (fun f l => List.foldl f none l) ?_ rfl⟩
    funext best g
    cases best <;> rfl
  obtain ⟨p, eq⟩ := search
  rw [eq] at found
  have there := ((foldl_least _ _ none).2 g found).1.resolve_right fun none => nomatch none
  exact List.mem_range.1 (List.mem_filter.1 there).1

theorem State.grantOn_block {s : State} {self : HartId} {core ctx want : Nat} {exact : Bool} {rwid g w : Nat}
    (found : s.grantOn self core ctx want exact rwid = some (g, w)) : g + w ≤ 8 ∧ g % w = 0 := by
  unfold State.grantOn at found
  dsimp only at found
  split at found
  · next r e =>
    cases found
    obtain ⟨x, -, ex⟩ := List.exists_of_findSome?_eq_some e
    obtain ⟨y, free, ey⟩ := Option.map_eq_some_iff.1 ex
    cases ey
    exact State.freeBlock_spec free
  · split at found
    · obtain ⟨y, shared, ey⟩ := Option.map_eq_some_iff.1 found
      cases ey
      exact ⟨State.sharedGroup_below shared, Nat.mod_one _⟩
    · cases found

theorem State.slotFor_spec {s : State} {h : Hart} {core ctx g w row : Nat} (found : s.slotFor h core = some (ctx, g, w, row)) :
    ctx < 8 ∧ s.hartAt core ctx = none ∧ g + w ≤ 8 ∧ g % w = 0 := by
  unfold State.slotFor at found
  obtain ⟨x, mx, ex⟩ := List.exists_of_findSome?_eq_some found
  have inside := List.mem_range.1 mx
  split at ex
  · cases ex
  · next free =>
    have free : s.hartAt core x = none := by simpa using free
    split at ex
    · cases ex
    · next g' w' granted =>
      obtain ⟨top, aligned⟩ := State.grantOn_block granted
      split at ex
      · cases ex
      · split at ex
        · cases ex
          exact ⟨inside, free, top, aligned⟩
        · obtain ⟨y, -, ey⟩ := Option.map_eq_some_iff.1 ex
          cases ey
          exact ⟨inside, free, top, aligned⟩

/-! ### Whether the area is lost -/

theorem State.areaLost_iff (s : State) (x : Hart) : s.areaLost x = true ↔ ∃ r, x.save = some r ∧ r.reserve = false ∧ r.released = false ∧
    ∃ p ∈ saveWords (saveKindOf r.cause) x r, ∃ q, s.translate x.info.asid .read (x.trapbase + BitVec.ofNat 64 p.1) = .ok q ∧
      ∃ i < 8, q.pa + i ∈ s.poison := by
  have word : ∀ p : Nat × Nat, (match s.translate x.info.asid .read (x.trapbase + BitVec.ofNat 64 p.1) with
        | .ok q => (List.range 8).any fun i => s.poison.contains (q.pa + i)
        | .error _ => false) = true ↔
      ∃ q, s.translate x.info.asid .read (x.trapbase + BitVec.ofNat 64 p.1) = .ok q ∧ ∃ i < 8, q.pa + i ∈ s.poison := by
    intro p
    cases s.translate x.info.asid .read (x.trapbase + BitVec.ofNat 64 p.1) with
    | ok q => simp
    | error e => simp
  unfold State.areaLost
  cases x.save with
  | none => simp
  | some r =>
    simp only [Bool.and_eq_true, Bool.not_eq_true', List.any_eq_true, List.isEmpty_eq_false_iff, Option.some.injEq,
      exists_eq_left', and_assoc]
    refine ⟨fun ⟨_, reserve, released, p, mp, lost⟩ => ⟨reserve, released, p, mp, (word p).1 lost⟩,
      fun ⟨reserve, released, p, mp, lost⟩ => ⟨?_, reserve, released, p, mp, (word p).2 lost⟩⟩
    obtain ⟨q, -, i, -, m⟩ := lost
    exact List.ne_nil_of_mem m

end Sys2Proof.Machine
end

section
/-! Restoring and placing a hart. -/

namespace Sys2Proof.Machine

/-! ### Restoring a context -/

theorem Hart.deadVectors_eq (h : Hart) : ∃ vregs, h.deadVectors = { h with vregs := vregs } := by
  have fold : ∀ (l : List Nat) (k : Hart), (∃ vregs, k = { h with vregs := vregs }) → ∃ vregs,
      l.foldl (fun h r => if h.isBound r then h else (h.setV r { h.v r with data := 0 }).setFull true r) k = { h with vregs := vregs } := by
    intro l
    induction l with
    | nil => exact fun k same => same
    | cons r l ih =>
      rintro k ⟨vregs, rfl⟩
      refine ih _ ?_
      show ∃ v, (ite _ _ _ : Hart) = _
      split
      · exact ⟨vregs, rfl⟩
      · exact ⟨_, rfl⟩
  exact fold _ h ⟨h.vregs, rfl⟩

/-- Nothing of a generator is read ahead any more (R267). -/
def Gen.unread (g : Gen) : Gen := { g with ahead := 0 }

theorem Hart.restore_of_none {h : Hart} (none : h.save = none) : h.restore = h := by
  unfold Hart.restore
  rw [none]

theorem Hart.restore_of_some {h : Hart} {r : SaveRec} (save : h.save = some r) : ∃ vregs restart sect replay counted, h.restore =
    { h with vregs := vregs, pc := r.rpc, restart := restart, save := none, sect := sect, replay := replay, counted := counted
             gens := h.gens.map Gen.unread } := by
  obtain ⟨vregs, dead⟩ := h.deadVectors_eq
  have kept : ∃ vregs, (if r.cause = cSoft then h.deadVectors else h) = { h with vregs := vregs } := by
    split
    · exact ⟨vregs, dead⟩
    · exact ⟨h.vregs, rfl⟩
  obtain ⟨vregs, kept⟩ := kept
  unfold Hart.restore
  rw [save]
  dsimp only
  rw [kept]
  exact ⟨_, _, _, _, _, rfl⟩

theorem Hart.gen_unread {h : Hart} {gens : Vector Gen 8} (same : h.gens = gens.map Gen.unread) (k : Hart) (old : k.gens = gens) (i : Nat) :
    h.gen i = (k.gen i).unread := by
  unfold Hart.gen
  simp only [same, old, Vector.getElem_map]

/-- What a restore keeps (R263, R265, R267). -/
theorem Hart.restore_spec (h : Hart) : let k := h.restore
    k.id = h.id ∧ k.sregs = h.sregs ∧ k.masks = h.masks ∧ k.tiles = h.tiles ∧ k.flags = h.flags ∧ k.handler = h.handler ∧ k.save = none ∧
    (∀ i, (k.gen i).pos = (h.gen i).pos) ∧ (∀ r, h.save = some r → k.pc = r.rpc ∧ ∀ i, (k.gen i).ahead = 0) ∧
    (h.save = none → k.pc = h.pc) := by
  cases save : h.save with
  | none =>
    rw [Hart.restore_of_none save]
    exact ⟨rfl, rfl, rfl, rfl, rfl, rfl, save, fun _ => rfl, fun r some => (nomatch some), fun _ => rfl⟩
  | some r =>
    obtain ⟨vregs, restart, sect, replay, counted, kept⟩ := Hart.restore_of_some save
    have gen : ∀ i, h.restore.gen i = (h.gen i).unread := Hart.gen_unread (by rw [kept]) h rfl
    refine ⟨?_, ?_, ?_, ?_, ?_, ?_, ?_, fun i => ?_, fun r' same => ⟨?_, fun i => ?_⟩, fun none => (nomatch none)⟩
    case refine_8 | refine_10 => rw [gen]; rfl
    all_goals rw [kept]
    cases same
    rfl

/-! ### Placing a hart -/

/-- A hart as it becomes resident in a slot (R7, R12, R257, R267, R270). -/
def State.seated (u : State) (h : Hart) (core ctx g w row : Nat) : Hart :=
  let h0 := h.restore
  let h' : Hart := { h0 with
    core := core, ctx := ctx, lgb := g, w := w, rowBase := row, wdogFrom := u.ns
    info := u.refresh h.id.rcb.toNat h.info, partDue := false
    handler := if h.info.pers then h0.handler.map (fun (k : Handler) => { k with overrunAt := none }) else h0.handler }
  { h' with st := h'.running }

theorem State.placeHart_eq (s : State) (h : Hart) (core ctx g w row : Nat) : s.placeHart h core (ctx, g, w, row) =
    ((s.clearTzi h).modHart h.id fun _ => (s.clearTzi h).seated h core ctx g w row).creditAll
      ((s.clearTzi h).seated h core ctx g w row) fun _ => 0 := rfl

theorem State.seated_spec (u : State) (h : Hart) (core ctx g w row : Nat) : let y := u.seated h core ctx g w row
    y.id = h.id ∧ y.st = (if h.handler.isSome then .waiting .emulation else .resident) ∧ y.core = core ∧ y.ctx = ctx ∧
    y.lgb = g ∧ y.w = w ∧ y.rowBase = row ∧ y.sregs = h.sregs ∧ y.masks = h.masks ∧ y.tiles = h.tiles ∧ y.flags = h.flags ∧
    y.save = none ∧ y.wdogFrom = u.ns ∧ (∀ k < 8, (y.gen k).pos = (h.gen k).pos) ∧
    (∀ r, h.save = some r → y.pc = r.rpc ∧ ∀ k < 8, (y.gen k).ahead = 0) ∧ (h.save = none → y.pc = h.pc) ∧
    y.info = u.refresh h.id.rcb.toNat h.info := by
  intro y
  have runs : ∀ k : Hart, k.handler = h.handler → (if h.info.pers then k.handler.map (fun (k : Handler) => { k with overrunAt := none })
      else k.handler).isSome = h.handler.isSome := by
    intro k same
    rw [same]
    split
    · exact Option.isSome_map
    · rfl
  obtain ⟨id, sregs, masks, tiles, flags, handler, save, pos, saved, fresh⟩ := h.restore_spec
  have st : y.st = (if h.handler.isSome then .waiting .emulation else .resident) := by
    show Hart.running _ = _
    unfold Hart.running
    dsimp only
    rw [runs _ handler]
  exact ⟨id, st, rfl, rfl, rfl, rfl, rfl, sregs, masks, tiles, flags, save, rfl, fun k _ => pos k,
    fun r some => ⟨(saved r some).1, fun k _ => (saved r some).2 k⟩, fresh, rfl⟩

/-! ### TZI of a released hart -/

section
variable {s : State} {h : Hart}

theorem State.putWords_contexts {s t : State} (ws : List (Nat × Nat)) (put : s.putWords h ws = some t) : t.contexts = s.contexts := by
  induction ws generalizing s with
  | nil => cases put; rfl
  | cons w ws ih =>
    obtain ⟨o, v⟩ := w
    unfold State.putWords at put
    split at put
    · cases put
    · exact (ih put).trans (State.commitMem_contexts _ _ _)

theorem State.clearTzi_keeps (s : State) (h : Hart) : (s.clearTzi h).contexts = s.contexts ∧ s.Accessed (s.clearTzi h) := by
  have same : s.contexts = s.contexts ∧ s.Accessed s := ⟨rfl, .refl s⟩
  unfold State.clearTzi
  split
  · exact same
  · split
    · exact same
    · split
      · exact same
      · generalize put : State.putWords _ _ _ = written
        cases written with
        | none => exact same
        | some t => exact ⟨State.putWords_contexts _ put, same.2.putWords _ put⟩

theorem State.clearTzi_of_kept (kept : ∀ r, h.save = some r → r.released = false ∨ r.reserve = true ∨ r.inHandler = true) :
    s.clearTzi h = s := by
  unfold State.clearTzi
  split
  · rfl
  · next r save =>
    rw [if_pos]
    rcases kept r save with held | slot | handler
    · rw [held]
      rfl
    · rw [slot, Bool.or_true]
      rfl
    · rw [handler, Bool.or_true]

/-- TZI cleared in the area: one byte of one doubleword becomes 0 (R260). -/
theorem State.clearTzi_of_released {r : SaveRec} {p : Phys} (save : h.save = some r) (released : r.released = true)
    (area : r.reserve = false) (outside : r.inHandler = false) (read : s.translate h.info.asid .read (h.trapbase + 96) = .ok p)
    (write : s.translate h.info.asid .write (h.trapbase + 96) = .ok p) (sound : ∀ i < 8, p.pa + i ∉ s.poison) :
    s.clearTzi h = s.commitMem p.pa (natLe 8 (memRead s.mem p.pa 8 - bits (memRead s.mem p.pa 8) 8 8 * 2 ^ 8)) := by
  have word : s.getWord h 96 = some (memRead s.mem p.pa 8) := by
    unfold State.getWord
    rw [show (BitVec.ofNat 64 96 : BitVec 64) = 96 from rfl, read]
    dsimp only
    rw [if_neg]
    simpa using sound
  unfold State.clearTzi
  rw [save]
  dsimp only
  rw [if_neg (by rw [released, area, outside]; decide), word]
  dsimp only
  rw [State.putWords_single (q := p) (show s.translate h.info.asid .write (h.trapbase + BitVec.ofNat 64 96) = .ok p from write)]
  rfl

/-- A read of `n` bytes is a number of `n` bytes. -/
theorem memRead_lt (m : List Host.Cell) (a n : Nat) : memRead m a n < 256 ^ n := by
  induction n generalizing a with
  | zero => exact Nat.one_pos
  | succ n ih =>
    have low := (memGet m a).isLt
    have high := ih (a + 1)
    rw [memRead, pow_succ]
    omega

theorem State.clearTzi_spec (inv : s.MemInv) {r : SaveRec} {p : Phys} (save : h.save = some r) (released : r.released = true)
    (area : r.reserve = false) (outside : r.inHandler = false) (read : s.translate h.info.asid .read (h.trapbase + 96) = .ok p)
    (write : s.translate h.info.asid .write (h.trapbase + 96) = .ok p) (sound : ∀ i < 8, p.pa + i ∉ s.poison)
    (low : p.pa + 8 ≤ barBase) : memRead (s.clearTzi h).mem p.pa 8 = memRead s.mem p.pa 8 - memRead s.mem p.pa 8 / 2 ^ 8 % 2 ^ 8 * 2 ^ 8 ∧
      ∀ a, (a < p.pa ∨ p.pa + 8 ≤ a) → memGet (s.clearTzi h).mem a = memGet s.mem a := by
  have small := memRead_lt s.mem p.pa 8
  rw [State.clearTzi_of_released save released area outside read write sound, State.commitMem_mem _ _ (by omega)]
  refine ⟨?_, fun a apart => memGet_memStore_other _ _ _ _ inv.1 (by rw [natLe_length]; exact apart)⟩
  rw [memRead_memStore_natLe _ _ _ _ inv.1]
  unfold bits
  exact Nat.mod_eq_of_lt (lt_of_le_of_lt (Nat.sub_le _ _) small)

end

/-! ### HART_PLACEMENT -/

section
variable {s : State} {core : BitVec 7}

/-- The hart that a placement on a core takes (R14). -/
def State.toPlace (s : State) (core : BitVec 7) : Option Hart := s.best (s.harts.filter fun h => s.placeable h core.toNat)

theorem exec_placement_of_lost {x : Hart} (chosen : s.toPlace core = some x) (lost : s.areaLost x = true) :
    exec (.hartPlacement core) s = .next (s.loseArea x) := by
  unfold State.toPlace at chosen
  show execHartPlacement core s = _
  unfold execHartPlacement
  dsimp only
  rw [chosen]
  exact if_pos lost

theorem exec_placement_of_slot {x : Hart} {slot : Nat × Nat × Nat × Nat} (chosen : s.toPlace core = some x)
    (sound : s.areaLost x = false) (found : s.slotFor x core.toNat = some slot) :
    exec (.hartPlacement core) s = .next (s.placeHart x core.toNat slot) := by
  unfold State.toPlace at chosen
  show execHartPlacement core s = _
  unfold execHartPlacement
  dsimp only
  rw [chosen]
  dsimp only
  rw [if_neg (by rw [sound]; decide), found]

theorem exec_placement_of_none (none : s.toPlace core = none) :
    exec (.hartPlacement core) s = .next ((s.contenders core.toNat).foldl State.contend s) := by
  unfold State.toPlace at none
  show execHartPlacement core s = _
  unfold execHartPlacement
  dsimp only
  rw [none]

/-- The harts after a placement, whatever each watches. -/
theorem State.placeHart_harts (s : State) (x : Hart) (core ctx g w row : Nat) :
    (s.placeHart x core (ctx, g, w, row)).contexts = (s.harts.map fun z => if z.id = x.id then
      (s.clearTzi x).seated x core ctx g w row else z).map fun z => { z with watch := Watch.none } := by
  have kept := (s.clearTzi_keeps x).1
  have harts : (s.placeHart x core (ctx, g, w, row)).harts =
      (s.clearTzi x).harts.map fun z => if z.id = x.id then (s.clearTzi x).seated x core ctx g w row else z := by
    rw [State.placeHart_eq, State.creditAll_eq]
    rfl
  generalize (s.clearTzi x).seated x core ctx g w row = y at harts
  have bare : ∀ l : List Hart, (l.map fun z => if z.id = x.id then y else z).map (fun z => { z with watch := Watch.none }) =
      (l.map fun z => { z with watch := Watch.none }).map fun z => if z.id = x.id then { y with watch := Watch.none } else z := by
    intro l
    rw [List.map_map, List.map_map]
    refine List.map_congr_left fun z _ => ?_
    show ({ (ite _ _ _ : Hart) with watch := Watch.none } : Hart) = ite _ _ _
    split <;> rfl
  unfold State.contexts at kept ⊢
  rw [harts, bare, bare, kept]

end
end Sys2Proof.Machine
end

section
/-! Requests of ready harts without a context. -/

namespace Sys2Proof.Machine

/-! ### Ready harts that find every context held -/

/-- What `k` is of `h` when it has more soft requests and else is the same. -/
def Hart.Softer (h k : Hart) : Prop := k = { h with soft := k.soft } ∧ ∀ r ∈ h.soft, r ∈ k.soft

theorem Hart.Softer.refl (h : Hart) : h.Softer h := ⟨rfl, fun _ m => m⟩

theorem Hart.Softer.trans {h k j : Hart} (first : h.Softer k) (second : k.Softer j) : h.Softer j := by
  obtain ⟨same, kept⟩ := first
  obtain ⟨same', kept'⟩ := second
  refine ⟨?_, fun r m => kept' r (kept r m)⟩
  rw [same] at same'
  exact same'

theorem Hart.Softer.request (h : Hart) (now : Nat) (why : SoftWhy) : h.Softer (h.request now why) := by
  unfold Hart.request
  split
  · exact ⟨rfl, fun r m => List.mem_append_left _ m⟩
  · exact .refl h

/-- `t` is `s` with more soft requests on its harts. -/
def State.Requested (s t : State) : Prop :=
  (∃ h p, t = { s with hart := h, parked := p }) ∧ ∃ g : Hart → Hart, t.harts = s.harts.map g ∧ ∀ h, Hart.Softer h (g h)

namespace State.Requested
variable {s t u : State}

theorem refl (s : State) : s.Requested s := ⟨⟨s.hart, s.parked, rfl⟩, id, (List.map_id _).symm, fun h => .refl h⟩

theorem trans (first : s.Requested t) (second : t.Requested u) : s.Requested u := by
  obtain ⟨⟨h, p, rfl⟩, g, harts, softer⟩ := first
  obtain ⟨⟨h', p', rfl⟩, g', harts', softer'⟩ := second
  refine ⟨⟨h', p', rfl⟩, g' ∘ g, ?_, fun h => (softer h).trans (softer' _)⟩
  rw [harts', harts, List.map_map]

theorem modHart (s : State) (name : HartId) (now : Nat) (why : SoftWhy) : s.Requested (s.modHart name (Hart.request now why)) := by
  refine ⟨⟨_, _, rfl⟩, fun h => if h.id = name then Hart.request now why h else h, rfl, fun h => ?_⟩
  show h.Softer (ite _ _ _)
  split
  · exact .request h now why
  · exact .refl h

theorem contend (s : State) (h : Hart) : s.Requested (s.contend h) := by
  unfold State.contend
  split
  · exact .modHart _ _ _ _
  · exact .refl s

theorem foldl (l : List Hart) (s : State) : s.Requested (l.foldl State.contend s) := by
  induction l generalizing s with
  | nil => exact .refl s
  | cons h l ih => exact (contend s h).trans (ih _)

set_option smartUnfolding false in
theorem prioOf (h : s.Requested t) : t.prioOf = s.prioOf := by
  obtain ⟨⟨h, p, rfl⟩, -⟩ := h
  rfl

theorem mayUse (h : s.Requested t) : t.mayUse = s.mayUse := by
  obtain ⟨⟨h, p, rfl⟩, -⟩ := h
  rfl

end State.Requested

/-- The order in which R14 picks the hart to interrupt. -/
def Hart.victimKey (x : Hart) : Nat := (x.info.prio.toNat * 128 + x.core) * 8 + x.ctx

/-- The harts that a ready hart may interrupt (R14). -/
def State.Below (s : State) (x v : Hart) : Prop :=
  v ∈ s.harts ∧ v.st = .resident ∧ s.mayUse x v.core = true ∧ v.info.prio.toNat < s.prioOf x

theorem State.victim_spec (s : State) (x : Hart) : (∀ v, s.Below x v → ∃ b, s.victim x (s.prioOf x) = some b) ∧
    ∀ b, s.victim x (s.prioOf x) = some b → s.Below x b ∧ ∀ v, s.Below x v → b.victimKey ≤ v.victimKey := by
  have search : ∃ l : List Hart, s.victim x (s.prioOf x) = l.foldl (least Hart.victimKey) none ∧ ∀ v, v ∈ l ↔ s.Below x v := by
    unfold State.victim
    refine ⟨_, congrArg₂ (fun f l => List.foldl f none l) ?_ rfl, fun v => ?_⟩
    · funext best x
      cases best <;> rfl
    · rw [List.mem_filter]
      unfold State.Below
      simp only [Bool.and_eq_true, decide_eq_true_eq, and_assoc]
  obtain ⟨l, eq, mem⟩ := search
  obtain ⟨none, some⟩ := foldl_least Hart.victimKey l none
  rw [eq]
  refine ⟨fun v below => Option.ne_none_iff_exists'.1 fun absent => ?_, fun b found => ?_⟩
  · have empty := (none.1 absent).2
    rw [empty] at mem
    exact absurd ((mem v).2 below) List.not_mem_nil
  · obtain ⟨there, all, -⟩ := some b found
    exact ⟨(mem b).1 (there.resolve_right fun none => nomatch none), fun v below => all v ((mem v).2 below)⟩

theorem State.mayUse_core {s : State} {x : Hart} {core : Nat} (may : s.mayUse x core = true) : core < 128 := by
  unfold State.mayUse at may
  by_contra far
  rw [BitVec.getLsbD_of_ge _ _ (show 4 ≤ core / 32 by omega), Bool.and_false] at may
  cases may

/-- A ready hart's request reaches the hart that R14 names. -/
theorem State.contend_requests {s : State} {x v : Hart} (below : s.Below x v) (places : ∀ h ∈ s.harts, h.ctx < 8)
    (first : ∀ z, s.Below x z → z.id = v.id ∨ v.info.prio.toNat < z.info.prio.toNat ∨ v.info.prio = z.info.prio ∧
      (v.core < z.core ∨ v.core = z.core ∧ v.ctx < z.ctx)) :
    ∃ y ∈ (s.contend x).harts, y.id = v.id ∧ y.st = .resident ∧ ∃ r ∈ y.soft, r.why = .ready x.id := by
  obtain ⟨some, spec⟩ := s.victim_spec x
  obtain ⟨b, found⟩ := some v below
  obtain ⟨belowB, low⟩ := spec b found
  have key := low v below
  have same : b.id = v.id := by
    refine (first b belowB).resolve_right fun later => ?_
    obtain ⟨mb, -, useB, -⟩ := belowB
    obtain ⟨mv, -, useV, -⟩ := below
    have coreB := State.mayUse_core useB
    have coreV := State.mayUse_core useV
    have ctxB := places b mb
    have ctxV := places v mv
    unfold Hart.victimKey at key
    rcases later with higher | ⟨equal, rest⟩
    · omega
    · rw [equal] at key
      omega
  obtain ⟨mv, resident, -⟩ := below
  unfold State.contend
  rw [found]
  dsimp only
  have there : v.request s.ns (.ready x.id) ∈ s.harts.map fun h => if h.id = b.id then h.request s.ns (.ready x.id) else h :=
    List.mem_map.2 ⟨v, mv, if_pos same.symm⟩
  refine ⟨v.request s.ns (.ready x.id), there, ?_, ?_, ?_⟩
  · exact (v.request_asked _ _).1
  · have kept := (Hart.Softer.request v s.ns (.ready x.id)).1
    rw [kept]
    exact resident
  · exact Hart.request_some _ _ (by rw [Hart.onCore, resident])

/-- Among several ready harts each has its request, whatever the others raise. -/
theorem State.contenders_request {s : State} {l : List Hart} {x v : Hart} (m : x ∈ l) (below : s.Below x v)
    (places : ∀ h ∈ s.harts, h.ctx < 8)
    (first : ∀ z, s.Below x z → z.id = v.id ∨ v.info.prio.toNat < z.info.prio.toNat ∨ v.info.prio = z.info.prio ∧
      (v.core < z.core ∨ v.core = z.core ∧ v.ctx < z.ctx)) :
    ∃ y ∈ (l.foldl State.contend s).harts, y.id = v.id ∧ y.st = .resident ∧ ∃ r ∈ y.soft, r.why = .ready x.id := by
  obtain ⟨before, after, rfl⟩ := List.append_of_mem m
  rw [List.foldl_append, List.foldl_cons]
  have earlier := State.Requested.foldl before s
  have prio := earlier.prioOf
  have use := earlier.mayUse
  obtain ⟨-, g, harts, softer⟩ := earlier
  have image : ∀ h : Hart, (g h).id = h.id ∧ (g h).st = h.st ∧ (g h).info = h.info ∧ (g h).core = h.core ∧ (g h).ctx = h.ctx := by
    intro h
    rw [(softer h).1]
    exact ⟨rfl, rfl, rfl, rfl, rfl⟩
  generalize before.foldl State.contend s = t at harts prio use
  have back : ∀ h : Hart, t.Below x (g h) → h ∈ s.harts → s.Below x h := by
    rintro h ⟨-, st, may, low⟩ m
    obtain ⟨-, st', info, core, -⟩ := image h
    rw [st'] at st
    rw [info, prio] at low
    rw [core, use] at may
    exact ⟨m, st, may, low⟩
  have there : t.Below x (g v) := by
    obtain ⟨mv, st, may, low⟩ := below
    obtain ⟨-, st', info, core, -⟩ := image v
    refine ⟨by rw [harts]; exact List.mem_map_of_mem mv, st'.trans st, by rw [core, use]; exact may, by rw [info, prio]; exact low⟩
  obtain ⟨y, my, id, st, r, mr, why⟩ := State.contend_requests there
    (fun h m => by
      rw [harts] at m
      obtain ⟨z, mz, rfl⟩ := List.mem_map.1 m
      obtain ⟨-, -, -, -, ctx⟩ := image z
      rw [ctx]
      exact places z mz)
    (fun z below' => by
      have m := below'.1
      rw [harts] at m
      obtain ⟨w, mw, rfl⟩ := List.mem_map.1 m
      obtain ⟨id, -, info, core, ctx⟩ := image w
      obtain ⟨id', -, info', core', ctx'⟩ := image v
      rw [id, info, core, ctx, id', info', core', ctx']
      exact first w (back w below' mw))
  obtain ⟨-, g', harts', softer'⟩ := State.Requested.foldl after (t.contend x)
  refine ⟨g' y, by rw [harts']; exact List.mem_map_of_mem my, ?_, ?_, r, (softer' y).2 r mr, why⟩
  · rw [(softer' y).1]
    exact id.trans (image v).1
  · rw [(softer' y).1]
    exact st

theorem State.mem_contenders {s : State} {c : Nat} {x : Hart} (differ : s.NamesDiffer) (m : x ∈ s.harts) (ready : x.st = .ready)
    (may : s.mayUse x c = true) (free : s.energyHeld x = false) (none : s.noContext x = true) : x ∈ s.contenders c := by
  unfold State.contenders
  refine State.mem_inOrder _ _ _ (List.Nodup.sublist (List.filter_sublist.map _) differ) (Nat.le_refl _) (List.mem_filter.2 ⟨m, ?_⟩)
  rw [ready, may, free, none]
  rfl

end Sys2Proof.Machine
end

section
/-! Energy ticks, and the hart of the lowest context. -/

namespace Sys2Proof.Machine

/-! ### Energy -/

/-- The state in which each bound hart has been charged its share for one µs (R269). -/
def State.charged (s : State) : State :=
  { s.mapHarts (fun h => if h.onCore then h.spend (s.staticShare h) else h) with lastTick := s.lastTick + 1 }

/-- The RCBs over a hart whose budgets are reached, as they bear on it (R7, R11). -/
def State.reachedOver (m : State) (h : Hart) : List Nat :=
  if h.onCore then m.spentOver h else if h.st = .retired then [] else m.heldOver h

/-- The RCBs that stay exhausted. -/
def State.stillExhausted (m : State) : List (BitVec 56) :=
  m.exhausted.filter fun r => m.spentRcbs.contains r.toNat || m.overEbud (m.path r.toNat)

/-- The RCBs that newly are. -/
def State.newlyExhausted (m : State) : List Nat :=
  m.spentRcbs.filter fun r => !m.stillExhausted.contains (BitVec.ofNat 56 r)

/-- The event of a budget reached (R11). -/
def State.ebudEvent (m : State) (rcb : Nat) : FdEvent :=
  { fdom := BitVec.ofNat 16 (m.effFdom (m.path rcb)), cause := 0xF0, detail := 0, rcb := BitVec.ofNat 64 rcb
    hidx := 0, trapbase := 0, time := BitVec.ofNat 64 m.ns, frame := 0 }

/-- A charged state once the budgets have been compared. -/
def State.compared (m : State) : State :=
  { m.newlyExhausted.foldl (fun s r => s.postEbud r) (m.mapHarts m.budgetRequest) with
    exhausted := m.newlyExhausted.map (BitVec.ofNat 56) ++ m.stillExhausted }

theorem exec_energyTick_of_early {s : State} (early : s.ns / 1000 ≤ s.lastTick) : exec .energyTick s = .next s := if_pos early

theorem exec_energyTick_of_due {s : State} (due : s.lastTick < s.ns / 1000) : exec .energyTick s = .next s.charged.compared :=
  if_neg (Nat.not_le.2 due)

theorem State.mem_spentRcbs {m : State} {r : Nat} : r ∈ m.spentRcbs ↔ ∃ h ∈ m.harts, r ∈ m.reachedOver h := by
  unfold State.spentRcbs
  rw [List.mem_eraseDups, List.mem_flatMap]
  rfl

set_option smartUnfolding false in
theorem State.ebudEvent_of (m : State) (h : Hart) (p : List Hart) (e : List FdEvent) :
    State.ebudEvent { m with hart := h, parked := p, events := e } = m.ebudEvent := rfl

/-- Posting the budgets reached adds their events and changes nothing else. -/
theorem State.foldl_postEbud (l : List Nat) (m : State) :
    l.foldl (fun s r => s.postEbud r) m = { m with events := m.events ++ l.map m.ebudEvent } := by
  have fold : ∀ (l : List Nat) (e : List FdEvent), l.foldl (fun s r => s.postEbud r) { m with events := e } =
      { m with events := e ++ l.map m.ebudEvent } := by
    intro l
    induction l with
    | nil => exact fun e => by rw [List.map_nil, List.append_nil]; rfl
    | cons r l ih =>
      intro e
      have step : State.postEbud { m with events := e } r = { m with events := e ++ [m.ebudEvent r] } := by
        have event := congrFun (m.ebudEvent_of m.hart m.parked e) r
        rw [← event]
        rfl
      rw [List.foldl_cons, step, ih, List.map_cons, List.append_assoc]
      rfl
  exact fold l m.events

theorem State.budgetRequest_softer (m : State) (h : Hart) : h.Softer (m.budgetRequest h) := by
  unfold State.budgetRequest
  split
  · exact .request _ _ _
  · exact .refl h

theorem Hart.request_of_off {h : Hart} (now : Nat) (why : SoftWhy) (off : h.onCore = false) : h.request now why = h := by
  unfold Hart.request
  rw [if_neg (by rw [off]; simp)]

/-- A hart under no budget reached has no request. -/
theorem State.budgetRequest_of_none {m : State} {h : Hart} (none : m.reachedOver h = []) : m.budgetRequest h = h := by
  unfold State.reachedOver at none
  unfold State.budgetRequest
  cases onCore : h.onCore with
  | true =>
    rw [onCore, if_pos rfl] at none
    rw [none]
  | false =>
    split
    · exact Hart.request_of_off _ _ onCore
    · rfl

/-- A bound hart over a budget that it read has a request for one (R7, R11). -/
theorem State.budgetRequest_asks {m : State} {h : Hart} (onCore : h.onCore = true) (some : m.reachedOver h ≠ []) :
    ∃ q ∈ (m.budgetRequest h).soft, (∃ r ∈ m.reachedOver h, q.why = .budget r) ∧ (q ∈ h.soft ∨ q.since = m.ns) := by
  have read : m.reachedOver h = m.spentOver h := if_pos onCore
  rw [read] at some ⊢
  unfold State.budgetRequest
  cases rest : m.spentOver h with
  | nil => exact absurd rest some
  | cons r rs =>
    dsimp only
    unfold Hart.request
    split
    · exact ⟨_, List.mem_append_right _ List.mem_cons_self, ⟨r, List.mem_cons_self, rfl⟩, .inr rfl⟩
    · next stands =>
      have held : ¬h.soft.all (fun q => decide (q.why ≠ .budget r)) = true := fun all => stands ⟨onCore, all⟩
      obtain ⟨q, mq, why⟩ : ∃ q ∈ h.soft, q.why = .budget r := by simpa using held
      exact ⟨q, mq, ⟨r, List.mem_cons_self, why⟩, .inl mq⟩

/-- What the comparison of budgets changes (R11). -/
theorem State.compared_eq (m : State) : m.compared = { m.mapHarts m.budgetRequest with
    events := m.events ++ m.newlyExhausted.map m.ebudEvent
    exhausted := m.newlyExhausted.map (BitVec.ofNat 56) ++ m.stillExhausted } := by
  have events : (m.mapHarts m.budgetRequest).ebudEvent = m.ebudEvent := m.ebudEvent_of _ _ m.events
  unfold State.compared
  rw [State.foldl_postEbud, events]
  rfl

theorem State.compared_harts (m : State) : m.compared.harts = m.harts.map m.budgetRequest := by
  rw [State.compared_eq]
  rfl

/-- Every budget reached is marked, and the newly reached ones are posted. -/
theorem State.compared_exhausts {m : State} {h : Hart} {r : Nat} (there : h ∈ m.harts) (reached : r ∈ m.reachedOver h) (small : r < 2 ^ 56) :
    BitVec.ofNat 56 r ∈ m.compared.exhausted ∧ (BitVec.ofNat 56 r ∉ m.exhausted → ∃ e ∈ m.compared.events, e.cause = 0xF0 ∧
      e.rcb.toNat = r ∧ e.fdom.toNat = m.effFdom (m.path r) % 2 ^ 16) := by
  have spent : r ∈ m.spentRcbs := State.mem_spentRcbs.2 ⟨h, there, reached⟩
  have value : (BitVec.ofNat 56 r).toNat = r := by
    rw [BitVec.toNat_ofNat, Nat.mod_eq_of_lt small]
  have fresh : BitVec.ofNat 56 r ∉ m.stillExhausted → r ∈ m.newlyExhausted := fun not =>
    List.mem_filter.2 ⟨spent, by simpa using not⟩
  rw [State.compared_eq]
  refine ⟨?_, fun not => ⟨m.ebudEvent r, ?_, rfl, ?_, BitVec.toNat_ofNat _ _⟩⟩
  · by_cases old : BitVec.ofNat 56 r ∈ m.stillExhausted
    · exact List.mem_append_right _ old
    · exact List.mem_append_left _ (List.mem_map_of_mem (fresh old))
  · exact List.mem_append_right _ (List.mem_map_of_mem (fresh fun old => not (List.mem_filter.1 old).1))
  · show (BitVec.ofNat 64 r).toNat = r
    rw [BitVec.toNat_ofNat]
    exact Nat.mod_eq_of_lt (by omega)

/-! ### The hart of the lowest context -/

theorem findSome?_range {α : Type} (f : Nat → Option α) (n : Nat) {k : Nat} {b : α} (inside : k < n) (found : f k = some b)
    (before : ∀ j < k, f j = none) : (List.range n).findSome? f = some b := by
  induction n with
  | zero => exact absurd inside (Nat.not_lt_zero k)
  | succ n ih =>
    rw [List.range_succ, List.findSome?_append]
    by_cases early : k < n
    · rw [ih early]
      rfl
    · have last : k = n := by omega
      subst last
      have none : (List.range k).findSome? f = none := List.findSome?_eq_none_iff.2 fun j m => before j (List.mem_range.1 m)
      rw [none]
      simp [found]

section
variable {s : State} {c g : Nat} {p : Hart → Bool}

theorem State.lowest_some {x : Hart} (inside : x.ctx < 8) (there : s.arbHart c g x.ctx = some x) (can : s.candidateOn g x = true)
    (holds : p x = true) (before : ∀ k < x.ctx, ∀ y, s.arbHart c g k = some y → s.candidateOn g y = true → p y = false) :
    s.lowest c g p = some x := by
  unfold State.lowest
  refine findSome?_range _ 8 inside ?_ fun k early => ?_
  · rw [there]
    dsimp only
    rw [can, holds]
    rfl
  · cases other : s.arbHart c g k with
    | none => rfl
    | some y =>
      dsimp only
      cases able : s.candidateOn g y with
      | false => rfl
      | true =>
        rw [before k early y other able]
        rfl

theorem State.lowest_none : s.lowest c g p = none ↔ ∀ k < 8, ∀ y, s.arbHart c g k = some y → s.candidateOn g y = true → p y = false := by
  unfold State.lowest
  rw [List.findSome?_eq_none_iff]
  refine ⟨fun none k inside y there can => ?_, fun none k m => ?_⟩
  · have here := none k (List.mem_range.2 inside)
    rw [there] at here
    dsimp only at here
    rw [can] at here
    cases holds : p y with
    | false => rfl
    | true =>
      rw [holds] at here
      cases here
  · cases other : s.arbHart c g k with
    | none => rfl
    | some y =>
      dsimp only
      cases able : s.candidateOn g y with
      | false => rfl
      | true =>
        rw [none k (List.mem_range.1 m) y other able]
        rfl

end
end Sys2Proof.Machine
end

section
/-! The turn of an arbiter; obligation O50. -/

namespace Sys2Proof.Machine

/-! ### The turn of an arbiter -/

section
variable {s : State} {core : BitVec 7} {group : BitVec 3}

/-- The credit that the turn's holder is left with (R22). -/
def State.creditLeft (s : State) (c g : Nat) (can : Bool) : List Int :=
  if can then (s.arb c g).credit else (s.arb c g).credit.set (s.arb c g).turn (min ((s.arb c g).credit.getD (s.arb c g).turn 0) 0)

/-- The refilled credit of the next context's hart. -/
def refillOf (credit : List Int) (n : Nat) (y : Hart) : Int :=
  min (credit.getD n 0 + 4 * (y.info.wght.toNat : Int)) (4 * (y.info.wght.toNat : Int))

theorem State.unchosen_left (s : State) (c g : Nat) (can : Bool) : (Arbiter.left { s.arb c g with chosen := none } can).credit =
    s.creditLeft c g can ∧ (Arbiter.left { s.arb c g with chosen := none } can).chosen = none := by
  unfold Arbiter.left State.creditLeft
  cases can <;> exact ⟨rfl, rfl⟩

theorem State.creditLeft_length (s : State) (c g : Nat) (can : Bool) : (s.creditLeft c g can).length = (s.arb c g).credit.length := by
  unfold State.creditLeft
  cases can
  · exact List.length_set
  · rfl

/-- The holder of the turn issues. -/
theorem State.issues_holder (free : s.chosenHart core.toNat group.toNat = none) {x : Hart}
    (there : s.arbHart core.toNat group.toNat (s.arb core.toNat group.toNat).turn = some x) (can : s.candidateOn group.toNat x = true)
    (credit : 0 < (s.arb core.toNat group.toNat).credit.getD (s.arb core.toNat group.toNat).turn 0) :
    s.Issues core group (s.arb core.toNat group.toNat).turn ((s.arb core.toNat group.toNat).credit.set x.ctx
      ((s.arb core.toNat group.toNat).credit.getD (s.arb core.toNat group.toNat).turn 0 - s.charge group.toNat x)) (some x) := by
  obtain ⟨place, -⟩ := State.arbHart_mem there
  have cycle := State.arbCycle_of_holder there can credit
  have issued := (State.Arbitrated.unchoose s core.toNat group.toNat).issue x true
  rw [← cycle] at issued
  have done := State.issues_some free issued rfl (by rw [place]; exact there) can
  have held : (s.arb core.toNat group.toNat).credit.getD (s.arb core.toNat group.toNat).turn 0 =
      (s.arb core.toNat group.toNat).credit.getD x.ctx 0 := by rw [place]
  rw [held]
  exact done

/-- The turn passes to a hart with weight. -/
theorem State.issues_passed (free : s.chosenHart core.toNat group.toNat = none) {can : Bool}
    (holds : can = true ↔ ∃ x, s.arbHart core.toNat group.toNat (s.arb core.toNat group.toNat).turn = some x ∧
      s.candidateOn group.toNat x = true)
    (not : ¬(0 < (s.arb core.toNat group.toNat).credit.getD (s.arb core.toNat group.toNat).turn 0 ∧
      ∃ x, s.arbHart core.toNat group.toNat (s.arb core.toNat group.toNat).turn = some x ∧ s.candidateOn group.toNat x = true))
    (weighted : ∃ x ∈ s.arbHarts core.toNat group.toNat, x.info.wght ≠ 0) {n : Nat} {y : Hart}
    (next : s.nextTurn core.toNat group.toNat (s.arb core.toNat group.toNat).turn = some n)
    (there : s.arbHart core.toNat group.toNat n = some y) :
    let cr := s.creditLeft core.toNat group.toNat can
    (s.candidateOn group.toNat y = true → n < cr.length → let v := if refillOf cr n y ≤ 0 then 1 else refillOf cr n y
      s.Issues core group n ((cr.set n v).set y.ctx (v - s.charge group.toNat y)) (some y)) ∧
    (s.candidateOn group.toNat y = false → (s.lowest core.toNat group.toNat fun x => x.info.wght != 0) ≠ none →
      s.Issues core group n (cr.set n (refillOf cr n y)) none) ∧
    (s.candidateOn group.toNat y = false → (s.lowest core.toNat group.toNat fun x => x.info.wght != 0) = none →
      (∀ z, s.lowest core.toNat group.toNat (fun x => x.info.wght == 0) = some z →
        s.arbHart core.toNat group.toNat z.ctx = some z → s.candidateOn group.toNat z = true →
        s.Issues core group n (cr.set n (refillOf cr n y)) (some z)) ∧
      (s.lowest core.toNat group.toNat (fun x => x.info.wght == 0) = none → s.Issues core group n (cr.set n (refillOf cr n y)) none)) := by
  intro cr
  obtain ⟨place, -⟩ := State.arbHart_mem there
  have cycle := State.arbCycle_of_other not holds
  obtain ⟨left, unchosen⟩ := s.unchosen_left core.toNat group.toNat can
  obtain ⟨u, passed, issue, wait, rest⟩ :=
    State.afterTurn_weighted (State.Arbitrated.unchoose s core.toNat group.toNat) can weighted next there
  rw [← cycle] at issue wait rest
  have credit : ∀ v, s.refilled group.toNat (Arbiter.left { s.arb core.toNat group.toNat with chosen := none } can) n y = v →
      (s.passed group.toNat (Arbiter.left { s.arb core.toNat group.toNat with chosen := none } can) n y).credit = cr.set n v := by
    rintro v rfl
    show (Arbiter.left _ can).credit.set n _ = _
    rw [left]
  have refill : (Arbiter.left { s.arb core.toNat group.toNat with chosen := none } can).refill n y = refillOf cr n y := by
    unfold Arbiter.refill
    rw [left]
    rfl
  have still : s.candidateOn group.toNat y = false →
      s.refilled group.toNat (Arbiter.left { s.arb core.toNat group.toNat with chosen := none } can) n y = refillOf cr n y := by
    intro cannot
    unfold State.refilled
    rw [cannot, refill]
    rfl
  refine ⟨fun able inside => ?_, fun cannot some => ?_, fun cannot none => ⟨fun z low there' able => ?_, fun low => ?_⟩⟩
  · intro v
    have value : s.refilled group.toNat (Arbiter.left { s.arb core.toNat group.toNat with chosen := none } can) n y = v := by
      unfold State.refilled
      rw [able, refill, Bool.true_and]
      show ite _ _ _ = ite _ _ _
      simp only [decide_eq_true_eq]
    have issued := passed.issue y true
    rw [← issue able] at issued
    have done := State.issues_some free issued rfl (by rw [place]; exact there) able
    have held : (cr.set n v).getD y.ctx 0 = v := by
      rw [place, List.getD_eq_getElem?_getD, List.getElem?_set_self inside]
      rfl
    dsimp only at done
    rw [if_pos rfl, credit v value, held] at done
    exact done
  · rw [← wait cannot (Option.isSome_iff_ne_none.2 some)] at passed
    have done := State.issues_none free passed unchosen
    rw [credit _ (still cannot)] at done
    exact done
  · have issued := passed.issue z false
    rw [← (rest cannot none).1 z low] at issued
    have done := State.issues_some free issued rfl there' able
    dsimp only at done
    rw [if_neg (by decide), credit _ (still cannot)] at done
    exact done
  · rw [← (rest cannot none).2 low] at passed
    have done := State.issues_none free passed unchosen
    rw [credit _ (still cannot)] at done
    exact done

/-- No bound hart has weight: the turn and the credits stay. -/
theorem State.issues_unweighted (free : s.chosenHart core.toNat group.toNat = none) {can : Bool}
    (holds : can = true ↔ ∃ x, s.arbHart core.toNat group.toNat (s.arb core.toNat group.toNat).turn = some x ∧
      s.candidateOn group.toNat x = true)
    (not : ¬(0 < (s.arb core.toNat group.toNat).credit.getD (s.arb core.toNat group.toNat).turn 0 ∧
      ∃ x, s.arbHart core.toNat group.toNat (s.arb core.toNat group.toNat).turn = some x ∧ s.candidateOn group.toNat x = true))
    (unweighted : ¬∃ x ∈ s.arbHarts core.toNat group.toNat, x.info.wght ≠ 0) : let a := s.arb core.toNat group.toNat
    (∀ z, s.lowest core.toNat group.toNat (fun _ => true) = some z → s.arbHart core.toNat group.toNat z.ctx = some z →
      s.candidateOn group.toNat z = true → s.Issues core group a.turn a.credit (some z)) ∧
    (s.lowest core.toNat group.toNat (fun _ => true) = none → s.Issues core group a.turn a.credit none) := by
  intro a
  have cycle := State.arbCycle_of_other not holds
  have unchosen := State.Arbitrated.unchoose s core.toNat group.toNat
  obtain ⟨issue, rest⟩ := State.afterTurn_unweighted unchosen can unweighted
  rw [← cycle] at issue rest
  refine ⟨fun z low there able => ?_, fun low => ?_⟩
  · have issued := unchosen.issue z false
    rw [← issue z low] at issued
    have done := State.issues_some free issued rfl there able
    exact done
  · rw [← rest low] at unchosen
    have done := State.issues_none free unchosen rfl
    exact done

end

/-- Settles O50: a placement takes the hart that R14 prefers, a tick compares the budgets as charged, and a cycle passes the turn. -/
theorem placementEnergyIssue : Obligations.PlacementEnergyIssue := by
  unfold Obligations.PlacementEnergyIssue
  intro s core group c g chosenOne
  refine ⟨s.best_spec, s.areaLost_iff, fun x chosen lost => ?_, fun none differ places x mx ready may free full => ?_,
    fun x ctx lg w row chosen sound slot => ?_, exec_energyTick_of_early, fun due => ?_, fun x chosen => exec_issueCycle_of_chosen chosen,
    fun free => ?_⟩
  · have harts : (s.loseArea x).harts = s.harts.map fun z => if z.id = x.id then
        { z with st := .saved, save := z.save.map fun r => { r with lost := true } } else z := rfl
    exact ⟨_, _, exec_placement_of_lost chosen lost, harts, rfl, rfl, rfl, rfl, rfl, rfl⟩
  · intro below v belowV first
    have there := State.mem_contenders (c := core.toNat) differ mx ready may free full
    exact ⟨_, exec_placement_of_none none, State.contenders_request there belowV places first⟩
  · intro bare
    obtain ⟨inside, unheld, top, aligned⟩ := State.slotFor_spec slot
    obtain ⟨id, st, core', ctx', lgb, width, rows, sregs, masks, tiles, flags, save, from_, pos, saved, fresh, info⟩ :=
      (s.clearTzi x).seated_spec x core.toNat ctx lg w row
    have kept := (s.clearTzi_keeps x).2
    have now : (s.clearTzi x).ns = s.ns := congrArg (fun n => 2 * n / 5) kept.cycle
    have mem : (s.placeHart x core.toNat (ctx, lg, w, row)).mem = (s.clearTzi x).mem := by
      rw [State.placeHart_eq, State.creditAll_eq]
      rfl
    refine ⟨inside, unheld, s.slotFor_width x _ slot, top, aligned, s.placeHart x core.toNat (ctx, lg, w, row),
      (s.clearTzi x).seated x core.toNat ctx lg w row, exec_placement_of_slot chosen sound slot,
      s.placeHart_harts x _ _ _ _ _, id, st, core', ctx', lgb, width, rows, sregs, masks, tiles, flags, save, from_.trans now, pos,
      saved, fresh, fun i low => ?_, fun held => ?_, fun inv r p some released area outside read write good low => ?_⟩
    · have zero := ((s.clearTzi x).modHart x.id fun _ => (s.clearTzi x).seated x core.toNat ctx lg w row).creditAll_zero
        ((s.clearTzi x).seated x core.toNat ctx lg w row) (g := i) (by rw [width]; exact low)
      rw [State.placeHart_eq]
      rw [core', ctx', lgb] at zero
      exact zero
    · rw [mem]
      have same := State.clearTzi_of_kept (s := s) held
      rw [same] at info ⊢
      exact ⟨rfl, info⟩
    · intro v
      rw [mem]
      exact State.clearTzi_spec inv some released area outside read write good low
  · intro m spent
    have charged : m = s.charged := rfl
    have reached : ∀ h, spent h = m.reachedOver h := fun _ => rfl
    refine ⟨m.compared, exec_energyTick_of_due due, by rw [m.compared_eq]; rfl, by rw [m.compared_eq]; rfl, ?_, fun none => ?_,
      fun h there onCore some => ?_, fun h there r reached small => State.compared_exhausts there reached small⟩
    · rw [m.compared_harts, List.map_map]
      refine List.map_congr_left fun h _ => ?_
      have same := (m.budgetRequest_softer h).1
      show ((m.budgetRequest h).id, (m.budgetRequest h).ecnt) = _
      rw [same]
    · have nothing : m.spentRcbs = [] := List.eq_nil_iff_forall_not_mem.2 fun r spentR => by
        obtain ⟨h, there, reached⟩ := State.mem_spentRcbs.1 spentR
        have empty : m.reachedOver h = [] := none h there
        rw [empty] at reached
        cases reached
      refine ⟨?_, ?_⟩
      · rw [m.compared_harts]
        exact (List.map_congr_left fun h there => State.budgetRequest_of_none (none h there)).trans (List.map_id _)
      · rw [m.compared_eq]
        show m.events ++ List.map _ m.newlyExhausted = _
        unfold State.newlyExhausted
        rw [nothing]
        exact List.append_nil _
    · obtain ⟨q, mq, why, when⟩ := State.budgetRequest_asks onCore (show m.reachedOver h ≠ [] from some)
      refine ⟨m.budgetRequest h, by rw [m.compared_harts]; exact List.mem_map_of_mem there, ?_, q, mq, why, when⟩
      rw [(m.budgetRequest_softer h).1]
  · intro a holder weighted after charged lowest noCandidate
    have low : ∀ (p : Hart → Prop) (b : Hart → Bool), (∀ h, b h = true ↔ p h) → ∀ x, lowest p x → s.lowest c g b = some x ∧
        s.arbHart c g x.ctx = some x ∧ s.candidateOn g x = true := by
      rintro p b decides x ⟨inside, there, can, holds, before⟩
      refine ⟨State.lowest_some inside there can ((decides x).2 holds) fun k early y there' can' => ?_, there, can⟩
      exact Bool.eq_false_iff.2 fun yes => before k early y there' can' ((decides y).1 yes)
    have none : ∀ (p : Hart → Prop) (b : Hart → Bool), (∀ h, b h = true ↔ p h) → (s.lowest c g b = none ↔ noCandidate p) := by
      intro p b decides
      refine State.lowest_none.trans ⟨fun no k inside y there can yes => ?_, fun no k inside y there can => ?_⟩
      · exact absurd ((decides y).2 yes) (Bool.eq_false_iff.1 (no k inside y there can))
      · exact Bool.eq_false_iff.2 fun yes => no k inside y there can ((decides y).1 yes)
    have heavy : ∀ h : Hart, (h.info.wght != 0) = true ↔ h.info.wght ≠ 0 := fun h => bne_iff_ne
    have light : ∀ h : Hart, (h.info.wght == 0) = true ↔ h.info.wght = 0 := fun h => beq_iff_eq
    obtain ⟨can, holds⟩ : ∃ can : Bool, can = true ↔ ∃ x, s.arbHart c g a.turn = some x ∧ s.candidateOn g x = true :=
      ⟨decide (∃ x, s.arbHart c g a.turn = some x ∧ s.candidateOn g x = true), decide_eq_true_iff⟩
    refine ⟨fun x there can credit => State.issues_holder free there can credit, fun not weights n y next there => ?_,
      fun not unweighted => ?_⟩
    · intro cr wght refill
      have same : cr = s.creditLeft c g can := by
        cases can with
        | true => exact if_pos (holds.1 rfl)
        | false => exact if_neg fun some => nomatch holds.2 some
      have length : a.credit.length = cr.length := by
        rw [same]
        exact (s.creditLeft_length c g can).symm
      obtain ⟨issue, wait, rest⟩ := State.issues_passed free holds not weights next there
      rw [← same] at issue wait rest
      refine ⟨fun able inside => issue able (by rw [← length]; exact inside), fun cannot some => wait cannot fun absent =>
        some ((none _ _ heavy).1 absent), fun cannot absent => ?_⟩
      obtain ⟨issue', wait'⟩ := rest cannot ((none _ _ heavy).2 absent)
      refine ⟨fun z lowest => ?_, fun absent => wait' ((none _ _ light).2 absent)⟩
      obtain ⟨found, there', able⟩ := low _ _ light z lowest
      exact issue' z found there' able
    · obtain ⟨issue, wait⟩ := State.issues_unweighted free holds not unweighted
      have all : ∀ h : Hart, (fun _ : Hart => true) h = true ↔ True := fun _ => by simp
      refine ⟨fun z lowest => ?_, fun absent => wait ((none _ _ all).2 absent)⟩
      obtain ⟨found, there, able⟩ := low _ _ all z lowest
      exact issue z found there able

end Sys2Proof.Machine
end

section
/-! Strip-mine heads and new grants. -/

namespace Sys2Proof.Machine

/-! ### Strip-mine heads -/

theorem vlmaxOf_eq (W : Nat) (ew : BitVec 3) (G : Nat) : vlmaxOf W ew.toNat G =
    if ew = 3 then 256 * W * G / 7 / 16 * 16 else 256 * W * G / [2, 4, 6, 7, 8, 16, 32, 64].getD ew.toNat 0 := by
  have cases : ∀ e : BitVec 3, e = 0 ∨ e = 1 ∨ e = 2 ∨ e = 3 ∨ e = 4 ∨ e = 5 ∨ e = 6 ∨ e = 7 := by decide
  rcases cases ew with rfl | rfl | rfl | rfl | rfl | rfl | rfl | rfl <;> rfl

section
variable {s0 s : State}

theorem exec_vsetl_of_some (d a : Reg) (ew : BitVec 3) (g : BitVec 2) (quiet : s0.softDue s0.hart = false) (granted : s0.regrant = some s) :
    exec (.vsetl d a ew g) s0 = .next (s.setHart (((s.hart.grantLength ew g (s.hart.rd a).toNat).wr d
      (BitVec.ofNat 64 (s.hart.grantLength ew g (s.hart.rd a).toNat).vl)).advance 4)) := by
  show execVsetl d a ew g s0 = _
  unfold execVsetl
  rw [if_neg (by rw [quiet]; decide), granted]
  rfl

theorem exec_vsetlb_of_some (d a : Reg) (ew : BitVec 3) (o : BitVec 13) (quiet : s0.softDue s0.hart = false) (granted : s0.regrant = some s) :
    let h := s.hart.grantLength ew 0 (s.hart.rd a).toNat
    exec (.vsetlb d a ew o) s0 = .next (s.setHart { h.wr d (BitVec.ofNat 64 h.vl) with
      pc := if h.vl = 0 then s.hart.pc + BitVec.ofInt 64 (4 * o.toInt) else s.hart.pc + 4 }) := by
  intro h
  have vl : (h.wr d (BitVec.ofNat 64 h.vl)).vl = h.vl := by
    unfold Hart.wr
    split <;> rfl
  have pc : (h.wr d (BitVec.ofNat 64 h.vl)).pc = s.hart.pc := by
    unfold Hart.wr
    split <;> rfl
  have branch : ∀ (k : Hart) (n : Nat) (p x : BitVec 64), k.vl = n → k.pc = p → (if k.vl = 0 then
      Host.Outcome.next (s.setHart { k with pc := k.pc + x }) else s.done k) =
        .next (s.setHart { k with pc := if n = 0 then p + x else p + 4 }) := by
    rintro k _ _ x rfl rfl
    split <;> rfl
  show execVsetlb d a ew o s0 = _
  unfold execVsetlb
  rw [if_neg (by rw [quiet]; decide), granted]
  exact branch _ _ _ _ vl pc

theorem exec_head_of_soft (due : s.softDue s.hart = true) (d a : Reg) (ew : BitVec 3) (g : BitVec 2) (o : BitVec 13) :
    ∀ i ∈ [Instr.vsetl d a ew g, .vsetlb d a ew o], exec i s = s.takeSoft := by
  intro i m
  rcases List.mem_cons.1 m with rfl | m
  · exact if_pos due
  · rw [List.mem_singleton.1 m]
    exact if_pos due

theorem exec_head_of_none (quiet : s.softDue s.hart = false) (none : s.regrant = none) (d a : Reg) (ew : BitVec 3) (g : BitVec 2)
    (o : BitVec 13) : exec (.vsetl d a ew g) s = .next s ∧ exec (.vsetlb d a ew o) s = .next s := by
  refine ⟨?_, ?_⟩
  · show execVsetl d a ew g s = _
    unfold execVsetl
    rw [if_neg (by rw [quiet]; decide), none]
  · show execVsetlb d a ew o s = _
    unfold execVsetlb
    rw [if_neg (by rw [quiet]; decide), none]

end

/-! ### Soft requests -/

theorem State.softDue_iff (s : State) (h : Hart) : s.softDue h = true ↔
    (∃ r ∈ h.soft, s.softApplies h r.why = true) ∧ h.tx.st ≠ .opened ∧ h.handler = none := by
  unfold State.softDue State.standing
  simp only [Bool.and_eq_true, Bool.not_eq_true', List.isEmpty_eq_false_iff_exists_mem, decide_eq_true_eq, Option.isNone_iff_eq_none,
    and_assoc, List.mem_filter]

theorem State.softApplies_budget (s : State) (h : Hart) (rcb : Nat) : s.softApplies h (.budget rcb) = true ↔
    ∃ b, (rcb, b) ∈ (s.path h.id.rcb.toNat).zip h.info.ebuds ∧ b ≠ 0 ∧ b.toNat ≤ s.subtreeEnergy rcb := by
  show (s.spentOver h).contains rcb = true ↔ _
  unfold State.spentOver
  rw [List.contains_iff_mem, List.mem_filterMap]
  refine ⟨?_, ?_⟩
  · rintro ⟨⟨r, b⟩, m, found⟩
    dsimp only at found
    split at found
    · next reached =>
      cases found
      exact ⟨b, m, reached⟩
    · cases found
  · rintro ⟨b, m, reached⟩
    exact ⟨(rcb, b), m, if_pos reached⟩

theorem State.softApplies_ready (s : State) (h : Hart) {id : HartId} (none : ∀ x ∈ s.harts, x.id = id → x.st ≠ .ready) :
    s.softApplies h (.ready id) = false := by
  unfold State.softApplies
  rw [List.any_eq_false]
  intro x m
  have apart : ¬(x.id = id ∧ x.st = .ready) := fun both => none x m both.1 both.2
  rw [decide_eq_false apart]
  simp

/-! ### New grants -/

/-- The widths that a new grant may have: at most RWID, exactly RWID in a deterministic region (R16, R28). -/
def Hart.mayHaveWidth (h : Hart) (w : Nat) : Prop := grantWidth w = true ∧ w ≤ h.info.rwid ∧ (h.info.det = true → w = h.info.rwid)

/-- A block within the hart's part, free and within the budgets it read (R11, R21). -/
def State.blockOk (s : State) (h : Hart) (g w : Nat) : Bool :=
  s.blockFree h.id h.core (s.lgWindow h.core h.ctx) g w && s.budgetOk h.info.budgets h.id h.core g w

/-- The first lane groups that are tried for a width: the hart's own, then the aligned ones. -/
def Hart.tried (h : Hart) (w : Nat) : List Nat := (if h.w = w then [h.lgb] else []) ++ (List.range 8).filter (fun g => g % w == 0)

/-- The block found for a width. -/
def State.blockFor (s : State) (h : Hart) (w : Nat) : Option (Nat × Nat) :=
  ((h.tried w).find? fun g => s.blockOk h g w).map fun g => (g, w)

/-- The widths tried, the widest first. -/
def Hart.widths (h : Hart) : List Nat := [8, 4, 2, 1].filter fun w => if h.info.det then w == h.info.rwid else decide (w ≤ h.info.rwid)

theorem Hart.mem_widths {h : Hart} {w : Nat} : w ∈ h.widths ↔ h.mayHaveWidth w := by
  have widths : w ∈ [8, 4, 2, 1] ↔ grantWidth w = true := by
    unfold grantWidth
    simp only [List.mem_cons, List.not_mem_nil, or_false, Bool.or_eq_true, beq_iff_eq]
    tauto
  unfold Hart.widths Hart.mayHaveWidth
  rw [List.mem_filter, widths]
  cases h.info.det with
  | true => simpa using fun _ (same : w = h.info.rwid) => Nat.le_of_eq same
  | false => simp

/-- A shared lane group that the hart may take when it asks for one alone (R16). -/
def State.sharedFor (s : State) (h : Hart) : Option Nat :=
  (s.sharedGroup h.id h.core h.ctx).filter fun g => s.budgetOk h.info.budgets h.id h.core g 1

theorem State.newGrant_eq (s : State) (h : Hart) : s.newGrant h = (h.widths.findSome? (s.blockFor h)).or
    (if h.info.rwid = 1 then (s.sharedFor h).map fun g => (g, 1) else none) := by
  have same : s.newGrant h = (match h.widths.findSome? (s.blockFor h) with
      | some r => some r
      | none => if h.info.rwid = 1 then (s.sharedFor h).map fun g => (g, 1) else none) := rfl
  rw [same]
  cases h.widths.findSome? (s.blockFor h) <;> rfl

/-- A block for a width is the first tried that is free and within the budgets. -/
theorem State.blockFor_spec {s : State} {h : Hart} {w : Nat} : (∀ g w', s.blockFor h w = some (g, w') → w' = w ∧ s.blockOk h g w = true) ∧
    (s.blockFor h w = none → ∀ g < 8, g % w = 0 → s.blockOk h g w = false) := by
  unfold State.blockFor
  refine ⟨fun g w' found => ?_, fun none g low aligned => ?_⟩
  · obtain ⟨x, tried, same⟩ := Option.map_eq_some_iff.1 found
    cases same
    exact ⟨rfl, List.find?_some (p := fun g => s.blockOk h g w) tried⟩
  · have absent := List.find?_eq_none.1 (Option.map_eq_none_iff.1 none) g
      (List.mem_append_right _ (List.mem_filter.2 ⟨List.mem_range.2 low, by simpa using aligned⟩))
    exact Bool.eq_false_iff.2 absent

/-- What a new grant is: the widest block that the hart may have, or a shared lane group (R16, R21). -/
theorem State.newGrant_spec {s : State} {h : Hart} {g w : Nat} (found : s.newGrant h = some (g, w)) :
    h.mayHaveWidth w ∧ s.budgetOk h.info.budgets h.id h.core g w = true ∧
    (s.blockOk h g w = true ∧ (∀ w' ∈ h.widths, w < w' → s.blockFor h w' = none) ∨
      h.info.rwid = 1 ∧ w = 1 ∧ s.sharedGroup h.id h.core h.ctx = some g) := by
  rw [State.newGrant_eq] at found
  cases block : h.widths.findSome? (s.blockFor h) with
  | some r =>
    rw [block] at found
    cases found
    obtain ⟨before, x, after, split, here, none⟩ := List.findSome?_eq_some_iff.1 block
    obtain ⟨rfl, ok⟩ := State.blockFor_spec.1 g w here
    have m : w ∈ h.widths := by
      rw [split]
      exact List.mem_append_right _ List.mem_cons_self
    refine ⟨Hart.mem_widths.1 m, (Bool.and_eq_true_iff.1 ok).2, .inl ⟨ok, fun w' m' wider => none w' ?_⟩⟩
    have sorted : h.widths.Pairwise (fun a b => b < a) := List.Pairwise.sublist List.filter_sublist (by decide)
    rw [split] at m' sorted
    rcases List.mem_append.1 m' with m' | m'
    · exact m'
    · rcases List.mem_cons.1 m' with rfl | m'
      · exact absurd wider (Nat.lt_irrefl _)
      · have below := List.rel_of_pairwise_cons (List.pairwise_append.1 sorted).2.1 m'
        omega
  | none =>
    rw [block] at found
    by_cases one : h.info.rwid = 1
    · rw [if_pos one] at found
      obtain ⟨x, shared, same⟩ := Option.map_eq_some_iff.1 found
      cases same
      obtain ⟨group, ok⟩ := Option.filter_eq_some_iff.1 shared
      exact ⟨⟨rfl, by omega, fun _ => one.symm⟩, ok, .inr ⟨one, rfl, group⟩⟩
    · rw [if_neg one] at found
      cases found

theorem State.blockFree_spec {s : State} {self : HartId} {core : Nat} {win : Nat × Nat} {g w : Nat}
    (free : s.blockFree self core win g w = true) : win.1 ≤ g ∧ g + w ≤ win.2 ∧
      ∀ i < w, ∀ x ∈ s.harts, x.id ≠ self → x.boundTo core (g + i) = false := by
  unfold State.blockFree at free
  simp only [Bool.and_eq_true, decide_eq_true_eq, List.all_eq_true, List.mem_range, List.isEmpty_iff] at free
  obtain ⟨⟨low, top⟩, none⟩ := free
  refine ⟨low, top, fun i inside x m other => ?_⟩
  have empty := none i inside
  unfold State.boundHarts at empty
  have apart := List.filter_eq_nil_iff.1 empty x m
  simpa [other] using apart

theorem State.sharedGroup_window {s : State} {self : HartId} {core ctx g : Nat} (found : s.sharedGroup self core ctx = some g) :
    (s.lgWindow core ctx).1 ≤ g ∧ g + 1 ≤ (s.lgWindow core ctx).2 := by
  have search : ∃ p : Nat → Bool, s.sharedGroup self core ctx =
      ((List.range 8).filter p).foldl (least fun g => (s.boundHarts self core g).length) none ∧
      ∀ g, p g = true → (s.lgWindow core ctx).1 ≤ g ∧ g < (s.lgWindow core ctx).2 := by
    unfold State.sharedGroup
    refine ⟨_, congrArg₂ (fun f l => List.foldl f none l) ?_ rfl, fun g holds => ?_⟩
    · funext best g
      cases best <;> rfl
    · simp only [Bool.and_eq_true, decide_eq_true_eq] at holds
      exact holds.1.1
  obtain ⟨p, eq, inside⟩ := search
  rw [eq] at found
  have there := ((foldl_least _ _ none).2 g found).1.resolve_right fun none => nomatch none
  exact inside g (List.mem_filter.1 there).2

/-- A new grant lies within the hart's part (R21). -/
theorem State.newGrant_window {s : State} {h : Hart} {g w : Nat} (found : s.newGrant h = some (g, w)) :
    (s.lgWindow h.core h.ctx).1 ≤ g ∧ g + w ≤ (s.lgWindow h.core h.ctx).2 := by
  obtain ⟨-, -, ⟨ok, -⟩ | ⟨-, rfl, shared⟩⟩ := State.newGrant_spec found
  · obtain ⟨low, top, -⟩ := State.blockFree_spec (Bool.and_eq_true_iff.1 ok).1
    exact ⟨low, top⟩
  · exact State.sharedGroup_window shared

/-- No wider block than a new grant's is free and within the budgets. -/
theorem State.newGrant_widest {s : State} {h : Hart} {g w : Nat} (found : s.newGrant h = some (g, w)) {g' w' : Nat}
    (width : grantWidth w' = true) (wider : w < w') (fits : w' ≤ h.info.rwid) (aligned : g' % w' = 0) : s.blockOk h g' w' = false := by
  obtain ⟨⟨-, -, det⟩, -, ⟨-, none⟩ | ⟨one, rfl, -⟩⟩ := State.newGrant_spec found
  · by_cases low : g' < 8
    · refine State.blockFor_spec.2 (none w' (Hart.mem_widths.2 ⟨width, fits, fun yes => ?_⟩) wider) g' low aligned
      have := det yes
      omega
    · refine Bool.eq_false_iff.2 fun ok => ?_
      obtain ⟨-, top, -⟩ := State.blockFree_spec (Bool.and_eq_true_iff.1 ok).1
      have := s.lgWindow_top h.core h.ctx
      omega
  · omega

end Sys2Proof.Machine
end

section
/-! A change of LPART at a head; obligation O21. -/

namespace Sys2Proof.Machine

/-! ### A change of LPART at a head -/

/-- A hart with another grant, its vector registers dead where the width changes (log entry 19). -/
def Hart.regranted (h : Hart) (g w : Nat) : Hart :=
  { (if w = h.w then h else h.landAll.deadVectors) with lgb := g, w := w, partDue := false }

/-- What taking a grant makes of the context of its name. -/
def Hart.taking (h : Hart) (g w : Nat) (x : Hart) : Hart :=
  if g = h.lgb ∧ w = h.w then { x with w := w, partDue := false } else h.regranted g w

theorem Hart.regranted_id (h : Hart) (g w : Nat) : (h.regranted g w).id = h.id := by
  show (ite _ _ _ : Hart).id = _
  split
  · rfl
  · obtain ⟨vregs, dead⟩ := h.landAll.deadVectors_eq
    rw [dead]
    show h.landAll.id = _
    rw [Hart.landAll_eq]

/-- A hart that takes a grant has it; so has the copy of it with the width 0 that an exchange leaves meanwhile. -/
theorem Hart.taking_spec (h : Hart) (g w v : Nat) : h.taking g w h = h.regranted g w ∧ (h.taking g w { h with w := v }).id = h.id ∧
    (h.taking g w { h with w := v }).partDue = false ∧ (h.taking g w { h with w := v }).lgb = g ∧
    (h.taking g w { h with w := v }).w = w := by
  by_cases same : g = h.lgb ∧ w = h.w
  · have taking : ∀ x, h.taking g w x = { x with w := w, partDue := false } := fun x => if_pos same
    rw [taking, taking]
    obtain ⟨rfl, rfl⟩ := same
    refine ⟨?_, rfl, rfl, rfl, rfl⟩
    unfold Hart.regranted
    rw [if_pos rfl]
  · have taking : ∀ x, h.taking g w x = h.regranted g w := fun x => if_neg same
    rw [taking, taking]
    exact ⟨rfl, h.regranted_id g w, rfl, rfl, rfl⟩

theorem State.takeGrant_eq (s : State) (h : Hart) (g w : Nat) :
    ∃ b, s.takeGrant h g w = (s.modHart h.id (h.taking g w)).withArbs b := by
  unfold State.takeGrant
  by_cases same : g = h.lgb ∧ w = h.w
  · have taking : h.taking g w = fun x => { x with w := w, partDue := false } := funext fun x => if_pos same
    rw [if_pos same, taking]
    exact ⟨s.arbs, rfl⟩
  · have taking : h.taking g w = fun _ => h.regranted g w := funext fun x => if_neg same
    rw [if_neg same, taking]
    exact s.creditAll_modHart h (h.regranted g w) (fun _ => 0) h.id fun _ => h.regranted g w

section
variable {s : State}

/-- A hart keeps its grant at its head: no change of LPART for it, a window open, or no part of it (R21, R190). -/
def State.staysPut (s : State) : Prop :=
  s.hart.partDue = false ∨ s.hart.windowOpen = true ∨ s.lgWindow s.hart.core s.hart.ctx = (0, 0)

/-- The other hart of an exchange (R21). -/
def State.partner (s : State) (x : Hart) : Bool :=
  decide (x.id ≠ s.hart.id) && x.core == s.hart.core && x.partDue && !x.windowOpen && s.atHead x

theorem State.regrant_of_stays (stays : s.staysPut) : s.regrant = some s := by
  unfold State.regrant
  dsimp only
  rw [if_pos]
  rcases stays with fresh | held | outside
  · rw [fresh]
    rfl
  · rw [held, Bool.or_true]
    rfl
  · rw [outside, decide_eq_true rfl, Bool.or_true]

theorem State.moves_test (moves : ¬s.staysPut) :
    ¬(!s.hart.partDue || s.hart.windowOpen || decide (s.lgWindow s.hart.core s.hart.ctx = (0, 0))) = true := by
  intro test
  simp only [Bool.or_eq_true, Bool.not_eq_true', decide_eq_true_eq] at test
  exact moves (or_assoc.1 test)

theorem State.regrant_of_granted (moves : ¬s.staysPut) {g w : Nat} (found : s.newGrant s.hart = some (g, w)) :
    s.regrant = some (s.takeGrant s.hart g w) := by
  unfold State.regrant
  dsimp only
  rw [if_neg (State.moves_test moves), found]

theorem State.regrant_of_alone (moves : ¬s.staysPut) (none : s.newGrant s.hart = none) (alone : s.harts.find? s.partner = Option.none) :
    s.regrant = Option.none := by
  unfold State.partner at alone
  unfold State.regrant
  dsimp only
  rw [if_neg (State.moves_test moves), none]
  dsimp only
  rw [alone]

/-- The state in which the partner's lane groups count as free. -/
def State.vacated (s : State) (o : Hart) : State := s.modHart o.id fun x => { x with w := 0 }

theorem State.regrant_of_partner (moves : ¬s.staysPut) (none : s.newGrant s.hart = none) {o : Hart}
    (found : s.harts.find? s.partner = some o) {s1 : State} (granted : s.regrant = some s1) : ∃ g w g' w',
      (s.vacated o).newGrant s.hart = some (g, w) ∧ ((s.vacated o).takeGrant s.hart g w).newGrant o = some (g', w') ∧
      s1 = ((s.vacated o).takeGrant s.hart g w).takeGrant o g' w' := by
  unfold State.partner at found
  unfold State.regrant at granted
  dsimp only at granted
  rw [if_neg (State.moves_test moves), none] at granted
  dsimp only at granted
  rw [found] at granted
  dsimp only at granted
  unfold State.vacated
  split at granted
  · cases granted
  · next g w first =>
    split at granted
    · cases granted
    · next g' w' second =>
      cases granted
      exact ⟨g, w, g', w', first, second, rfl⟩

theorem State.partner_apart {o : Hart} (found : s.harts.find? s.partner = some o) : o.id ≠ s.hart.id ∧ o ∈ s.parked := by
  have holds := List.find?_some found
  unfold State.partner at holds
  simp only [Bool.and_eq_true, decide_eq_true_eq] at holds
  obtain ⟨⟨⟨⟨other, -⟩, -⟩, -⟩, -⟩ := holds
  refine ⟨other, (List.mem_cons.1 (List.mem_of_find?_eq_some found)).resolve_left fun same => ?_⟩
  rw [same] at other
  exact other rfl

theorem State.modHart_withArbs_hart (s : State) (name : HartId) (f : Hart → Hart) (b : List (Nat × Arbiter)) :
    ((s.modHart name f).withArbs b).hart = (if s.hart.id = name then f s.hart else s.hart) := rfl

/-- The new grant of the hart at its head, by itself or in exchange. -/
theorem State.regrant_hart (moves : ¬s.staysPut) {s1 : State} (granted : s.regrant = some s1) : ∃ g w, s1.hart = s.hart.regranted g w ∧
    (s.newGrant s.hart = none ∨ s.newGrant s.hart = some (g, w)) ∧ s.hart.mayHaveWidth w ∧
    (s.lgWindow s.hart.core s.hart.ctx).1 ≤ g ∧ g + w ≤ (s.lgWindow s.hart.core s.hart.ctx).2 := by
  cases found : s.newGrant s.hart with
  | some r =>
    obtain ⟨g, w⟩ := r
    rw [State.regrant_of_granted moves found] at granted
    cases granted
    obtain ⟨b, eq⟩ := s.takeGrant_eq s.hart g w
    obtain ⟨may, -⟩ := State.newGrant_spec found
    refine ⟨g, w, ?_, .inr rfl, may, State.newGrant_window found⟩
    rw [eq, State.modHart_withArbs_hart, if_pos rfl, (s.hart.taking_spec g w 0).1]
  | none =>
    cases other : s.harts.find? s.partner with
    | none =>
      rw [State.regrant_of_alone moves found other] at granted
      cases granted
    | some o =>
      obtain ⟨g, w, g', w', first, second, rfl⟩ := State.regrant_of_partner moves found other granted
      obtain ⟨apart, -⟩ := State.partner_apart other
      obtain ⟨may, -⟩ := State.newGrant_spec first
      have window := State.newGrant_window first
      have here : (s.vacated o).hart = s.hart := if_neg apart.symm
      obtain ⟨b, eq⟩ := (s.vacated o).takeGrant_eq s.hart g w
      obtain ⟨b', eq'⟩ := ((s.vacated o).takeGrant s.hart g w).takeGrant_eq o g' w'
      have hart : ((s.vacated o).takeGrant s.hart g w).hart = s.hart.regranted g w := by
        rw [eq, State.modHart_withArbs_hart, here, if_pos rfl, (s.hart.taking_spec g w 0).1]
      refine ⟨g, w, ?_, .inl rfl, may, window⟩
      rw [eq', State.modHart_withArbs_hart, hart, Hart.regranted_id, if_neg apart.symm]

/-- The partner's new grant. -/
theorem State.regrant_partner (moves : ¬s.staysPut) (none : s.newGrant s.hart = none) {o : Hart} {s1 : State}
    (granted : s.regrant = some s1) (other : s.harts.find? s.partner = some o) : ∃ y ∈ s1.parked, y.id = o.id ∧ y.partDue = false ∧
      (s.lgWindow o.core o.ctx).1 ≤ y.lgb ∧ y.lgb + y.w ≤ (s.lgWindow o.core o.ctx).2 ∧ y.w ≤ o.info.rwid := by
  obtain ⟨g, w, g', w', -, second, rfl⟩ := State.regrant_of_partner moves none other granted
  obtain ⟨apart, there⟩ := State.partner_apart other
  obtain ⟨⟨-, fits, -⟩, -⟩ := State.newGrant_spec second
  obtain ⟨low, top⟩ := State.newGrant_window second
  obtain ⟨-, id, due, lgb, width⟩ := o.taking_spec g' w' 0
  obtain ⟨b, eq⟩ := (s.vacated o).takeGrant_eq s.hart g w
  obtain ⟨b', eq'⟩ := ((s.vacated o).takeGrant s.hart g w).takeGrant_eq o g' w'
  have window : ((s.vacated o).takeGrant s.hart g w).lgWindow = s.lgWindow := by
    rw [eq]
    rfl
  have first : ({ o with w := 0 } : Hart) ∈ (s.vacated o).parked :=
    List.mem_map.2 ⟨o, there, if_pos rfl⟩
  have still : ({ o with w := 0 } : Hart) ∈ ((s.vacated o).takeGrant s.hart g w).parked := by
    rw [eq]
    exact List.mem_map.2 ⟨_, first, if_neg apart⟩
  rw [window] at low top
  refine ⟨o.taking g' w' { o with w := 0 }, ?_, id, due, by rw [lgb]; exact low, by rw [lgb, width]; exact top, by rw [width]; exact fits⟩
  rw [eq']
  exact List.mem_map.2 ⟨_, still, if_pos rfl⟩

end

/-- Settles O21: the length is granted after what a change of LPART or a soft request asks of the head. -/
theorem vectorLengthGrant : Obligations.VectorLengthGrant := by
  unfold Obligations.VectorLengthGrant
  refine ⟨?_, ?_, ?_⟩
  · intro s0 s d a ew g o quiet granted h bitsOfEw vlmax n n1 h1
    have length : n = min (h.rd a).toNat (vlmaxOf h.w ew.toNat (2 ^ g.toNat)) := by rw [vlmaxOf_eq]
    have length1 : n1 = min (h.rd a).toNat (vlmaxOf h.w ew.toNat (2 ^ (0 : BitVec 2).toNat)) := by rw [vlmaxOf_eq]; rfl
    refine ⟨?_, ?_⟩
    · rw [exec_vsetl_of_some d a ew g quiet granted, length]
      rfl
    · have run := exec_vsetlb_of_some d a ew o quiet granted
      rw [run]
      show Host.Outcome.next _ = Host.Outcome.next (s.setHart { ({ h with vl := n1, headEw := ew, headGrp := 0 } : Hart).wr d
        (BitVec.ofNat 64 n1) with pc := if n1 = 0 then h.pc + BitVec.ofInt 64 (4 * o.toInt) else h.pc + 4 })
      rw [length1]
      rfl
  · intro s d a ew g o h
    refine ⟨s.softDue_iff h, rfl, fun u => ⟨rfl, ?_⟩, fun id none => s.softApplies_ready h none, s.softApplies_budget h,
      fun now why onCore => ⟨fun r m => (h.request_asked now why).2.2 r m, h.request_some now why onCore⟩, fun due i m => ?_⟩
    · show (h.onCore && h.core == u) = true ↔ _
      rw [Bool.and_eq_true, beq_iff_eq]
    · rw [exec_head_of_soft due d a ew g o i m]
      rfl
  · intro s d a ew g o h win partner stays
    refine ⟨State.regrant_of_stays, fun moves s1 granted => ?_, fun lg w found => ⟨?_, fun moves differ => ?_, ?_, ?_⟩,
      fun moves none alone quiet => ?_, fun moves none s1 x granted other => State.regrant_partner moves none granted other⟩
    · obtain ⟨lg, w, hart, grant, ⟨width, fits, det⟩, low, top⟩ := State.regrant_hart moves granted
      exact ⟨lg, w, width, low, top, fits, det, grant, hart⟩
    · exact (State.newGrant_spec found).2.1
    · refine ⟨_, State.regrant_of_granted moves found, ?_⟩
      obtain ⟨b, eq⟩ := s.takeGrant_eq s.hart lg w
      rw [eq]
      exact (List.map_congr_left fun x m => if_neg (differ x m)).trans (List.map_id _)
    · obtain ⟨-, -, ⟨ok, -⟩ | ⟨-, one, -⟩⟩ := State.newGrant_spec found
      · exact .inr (State.blockFree_spec (Bool.and_eq_true_iff.1 ok).1).2.2
      · exact .inl one
    · exact fun lg' w' width wider fits aligned => State.newGrant_widest found width wider fits aligned
    · have waits : s.regrant = Option.none := State.regrant_of_alone moves none
        (List.find?_eq_none.2 fun x m yes => Bool.eq_false_iff.1 (alone x m) yes)
      exact ⟨waits, exec_head_of_none quiet waits d a ew g o⟩

end Sys2Proof.Machine
end

section
/-! Lane partition; lists of elements written to a group. -/

namespace Sys2Proof.Machine

/-! ### Lane partition -/

/-- A field of bits is 0 where each of its bits is. -/
theorem bits_eq_zero (v lo n : Nat) : bits v lo n = 0 ↔ ∀ i, lo ≤ i → i < lo + n → v.testBit i = false := by
  unfold bits
  refine ⟨fun zero i low high => ?_, fun clear => Nat.eq_of_testBit_eq fun i => ?_⟩
  · have bit : (v / 2 ^ lo % 2 ^ n).testBit (i - lo) = false := by rw [zero, Nat.zero_testBit]
    rw [Nat.testBit_mod_two_pow, Nat.testBit_div_two_pow, decide_eq_true (by omega : i - lo < n), Bool.true_and] at bit
    rwa [show i - lo + lo = i by omega] at bit
  · rw [Nat.testBit_mod_two_pow, Nat.testBit_div_two_pow, Nat.zero_testBit]
    by_cases inside : i < n
    · rw [clear (i + lo) (by omega) (by omega), Bool.and_false]
    · rw [decide_eq_false inside, Bool.false_and]

/-- The reserved bits of LPART (R20). -/
theorem reserved_iff (v : Word) : (bits v.toNat 12 52 ≠ 0 ∨ bits v.toNat 1 5 ≠ 0) ↔ v &&& 0xFFFFFFFFFFFFF03E ≠ 0 := by
  have mask : ∀ i : Fin 64, (0xFFFFFFFFFFFFF03E : BitVec 64).getLsbD i = decide (12 ≤ i.val ∨ 1 ≤ i.val ∧ i.val < 6) := by decide
  rw [← not_and_or, not_iff_not, bits_eq_zero, bits_eq_zero]
  refine ⟨fun ⟨high, low⟩ => BitVec.eq_of_getLsbD_eq fun i inside => ?_, fun zero => ?_⟩
  · show _ = (0#64).getLsbD i
    rw [BitVec.getLsbD_and, mask ⟨i, inside⟩, BitVec.getLsbD_zero]
    by_cases reserved : 12 ≤ i ∨ 1 ≤ i ∧ i < 6
    · have clear : v.getLsbD i = false := reserved.elim (fun h => high i h (by omega)) fun h => low i h.1 (by omega)
      rw [clear, Bool.false_and]
    · rw [decide_eq_false reserved, Bool.and_false]
  · have clear : ∀ i, i < 64 → (12 ≤ i ∨ 1 ≤ i ∧ i < 6) → v.toNat.testBit i = false := by
      intro i inside reserved
      have bit : (v &&& 0xFFFFFFFFFFFFF03E).getLsbD i = false := by rw [zero]; exact BitVec.getLsbD_zero
      rw [BitVec.getLsbD_and, mask ⟨i, inside⟩, decide_eq_true reserved, Bool.and_true] at bit
      exact bit
    exact ⟨fun i low high => clear i (by omega) (.inl low), fun i low high => clear i (by omega) (.inr ⟨low, by omega⟩)⟩

section
variable {s : State} {a : Reg}

/-- What `lpart` may not write: reserved bits, and in a deterministic region EN over a hart of RWID above 4 (R20, R21, R28). -/
def State.partBad (s : State) (v : Word) : Prop :=
  v &&& 0xFFFFFFFFFFFFF03E ≠ 0 ∨ (partEn v = true ∧ s.hart.info.det = true ∧
    ∃ c ∈ [partHA v, partHB v], ∃ x, s.hartAt s.hart.core c = some x ∧ 4 < x.info.rwid)

/-- Whether the hart in a context of the core asks for more than a part holds. -/
def State.tooWide (s : State) (c : Nat) : Bool := ((s.hartAt s.hart.core c).map fun x => decide (4 < x.info.rwid)).getD false

theorem State.tooWide_iff (c : Nat) : s.tooWide c = true ↔ ∃ x, s.hartAt s.hart.core c = some x ∧ 4 < x.info.rwid := by
  unfold State.tooWide
  cases s.hartAt s.hart.core c <;> simp

/-- The harts that a change of LPART concerns: those the old value or the new one names (R21). -/
def State.partNames (s : State) (v : Word) (x : Hart) : Bool :=
  x.onCore && x.core == s.hart.core && (x.ctx == partHA v || x.ctx == partHB v || (partEn (s.lpart s.hart.core) &&
    (x.ctx == partHA (s.lpart s.hart.core) || x.ctx == partHB (s.lpart s.hart.core))))

/-- The state after LPART has been written. -/
def State.parted (s : State) (v : Word) : State :=
  { (s.mapHarts fun x => if s.partNames v x then { x with partDue := true } else x) with
    lparts := assign s.lparts s.hart.core v }

theorem exec_lpart_eq : exec (.lpart a) s =
    if bits (s.hart.rd a).toNat 12 52 ≠ 0 ∨ bits (s.hart.rd a).toNat 1 5 ≠ 0 then s.illegal
    else if partEn (s.hart.rd a) && s.hart.info.det && (s.tooWide (partHA (s.hart.rd a)) || s.tooWide (partHB (s.hart.rd a))) then s.illegal
    else if s.hart.rd a = s.lpart s.hart.core then s.done s.hart
    else if partHA (s.hart.rd a) = partHB (s.hart.rd a) ∨ !s.partHarts s.hart.core (partHA (s.hart.rd a)) (partHB (s.hart.rd a))
      (partEn (s.hart.rd a) && s.hart.info.det) then s.illegal
    else (s.parted (s.hart.rd a)).done (s.parted (s.hart.rd a)).hart := by
  have wide : ∀ c, (match s.hartAt s.hart.core c with
      | some x => decide (4 < x.info.rwid)
      | none => false) = s.tooWide c := by
    intro c
    unfold State.tooWide
    cases s.hartAt s.hart.core c <;> rfl
  rw [← wide, ← wide]
  rfl

theorem State.partBad_iff (v : Word) : s.partBad v ↔ (bits v.toNat 12 52 ≠ 0 ∨ bits v.toNat 1 5 ≠ 0) ∨
    (partEn v && s.hart.info.det && (s.tooWide (partHA v) || s.tooWide (partHB v))) = true := by
  unfold State.partBad
  rw [reserved_iff, Bool.and_eq_true, Bool.and_eq_true, Bool.or_eq_true, State.tooWide_iff, State.tooWide_iff, and_assoc]
  simp only [List.mem_cons, List.not_mem_nil, or_false, exists_eq_or_imp, exists_eq_left]

theorem exec_lpart_of_bad (bad : s.partBad (s.hart.rd a)) : exec (.lpart a) s = s.illegal := by
  rw [exec_lpart_eq]
  by_cases reserved : bits (s.hart.rd a).toNat 12 52 ≠ 0 ∨ bits (s.hart.rd a).toNat 1 5 ≠ 0
  · rw [if_pos reserved]
  · rw [if_neg reserved, if_pos ((State.partBad_iff _).1 bad |>.resolve_left reserved)]

theorem exec_lpart_of_good (good : ¬s.partBad (s.hart.rd a)) : exec (.lpart a) s =
    if s.hart.rd a = s.lpart s.hart.core then s.done s.hart
    else if partHA (s.hart.rd a) = partHB (s.hart.rd a) ∨ !s.partHarts s.hart.core (partHA (s.hart.rd a)) (partHB (s.hart.rd a))
      (partEn (s.hart.rd a) && s.hart.info.det) then s.illegal
    else (s.parted (s.hart.rd a)).done (s.parted (s.hart.rd a)).hart := by
  obtain ⟨free, narrow⟩ := not_or.1 (fun both => good ((State.partBad_iff _).2 both))
  rw [exec_lpart_eq, if_neg free, if_neg narrow]

theorem State.parted_lpart (v : Word) (c : Nat) : (s.parted v).lpart c = if c = s.hart.core then v else s.lpart c := by
  by_cases same : c = s.hart.core
  · rw [if_pos same, same]
    exact lookupD_assign_same _ _ _ _
  · rw [if_neg same]
    exact lookupD_assign_other _ _ _ fun other => same other.symm

end

/-! ### Compaction and scatter -/

theorem activeList_eq (h : Hart) (k : BitVec 3) : h.everyActive k = h.activeList k := isActive_filter h k

theorem left_plain {h : Hart} (plain : h.Plain) (w e : Nat) : h.left w e = true := by
  simp [Hart.left, plain.unlimited, Hart.restarts, plain.whole]

/-- A list with its places, as a list of places with its elements. -/
theorem places_eq (l : List Nat) : places l = (List.range l.length).map fun i => (l.getD i 0, i) := by
  unfold places
  refine List.ext_getElem (by simp) fun i h1 h2 => ?_
  have inside : i < l.length := by simpa using h2
  simp [List.getD_eq_getElem?_getD, List.getElem?_eq_getElem inside]

theorem opOk_base {h : Hart} {r : Reg} {n : Nat} (ok : h.opOk r n = true) (own : h.lane = none) : r.toNat + h.grp r ≤ 32 := by
  simp only [Hart.opOk, Hart.baseOk, Hart.regEnd, own, isXq_own h _ own, Bool.false_or, Bool.and_eq_true, decide_eq_true_eq,
    Option.isSome_none, Bool.false_eq_true, if_false] at ok
  exact ok.1.2

theorem resOk_base {h : Hart} {r : Reg} {t : Ty} {g n : Nat} (ok : h.resOk r t g n = true) (own : h.lane = none) : r.toNat + g ≤ 32 := by
  simp only [Hart.resOk, Hart.baseOk, Hart.regEnd, own, isXq_own h _ own, Bool.false_or, Bool.and_eq_true, decide_eq_true_eq,
    Option.isSome_none, Bool.false_eq_true, if_false] at ok
  exact ok.1.2

/-- An operand that passes R119 is one that passes it as a result of its own type. -/
theorem resOk_of_opOk {h : Hart} {r : Reg} {n : Nat} (ok : h.opOk r n = true) : h.resOk r (h.ty r) (h.grp r) n = true := ok

/-- The last of several elements listed for one place stands. -/
theorem find?_reverse_filter (l : List Nat) (at_ f : Nat → Nat) (e : Nat) :
    (l.map fun i => (at_ i, f i)).reverse.find? (fun p => p.1 == e) =
      if (l.filter fun i => at_ i == e).isEmpty then none else some (e, f ((l.filter fun i => at_ i == e).getLast?.getD 0)) := by
  induction l using List.reverseRecOn with
  | nil => rfl
  | append_singleton l i ih =>
    rw [List.map_append, List.reverse_append, List.map_singleton, List.reverse_singleton, List.singleton_append, List.filter_append]
    by_cases here : at_ i = e
    · rw [List.find?_cons_of_pos (by simpa using here)]
      have alone : [i].filter (fun i => at_ i == e) = [i] := List.filter_cons_of_pos (by simpa using here)
      rw [alone, if_neg (by simp), List.getLast?_concat, here]
      rfl
    · rw [List.find?_cons_of_neg (by simpa using here), ih]
      have nothing : [i].filter (fun i => at_ i == e) = [] := List.filter_cons_of_neg (by simpa using here)
      rw [nothing, List.append_nil]

theorem orAll_zeros {α : Type} (l : List α) : orAll (l.map fun _ => 0) = 0 := by
  have fold : ∀ (l : List α) (n : Nat), (l.map fun _ => (0 : Nat)).foldl (fun a b => a ||| b) n = n := by
    intro l
    induction l with
    | nil => exact fun n => rfl
    | cons x l ih =>
      intro n
      rw [List.map_cons, List.foldl_cons, Nat.or_zero]
      exact ih n
  exact fold l 0

theorem flags_or_zero (h : Hart) : h.flags ||| BitVec.ofNat 64 0 = h.flags := BitVec.or_zero

end Sys2Proof.Machine
end

section
/-! Compaction and scatter; obligation O43. -/

namespace Sys2Proof.Machine

/-- The frame of a vector instruction whose types do not match (R40). -/
theorem vector_mism (s : State) (v : VSpec) (body : State → Res) (ill : v.ill = false) (tile : v.tile = none) (mism : v.mism = true)
    (src : ∀ x ∈ v.srcs, 0 < x.grp ∧ s.hart.usable x.reg x.grp) (dst : ∀ d ∈ v.dsts, 0 < d.grp ∧ s.hart.usable d.reg d.grp) :
    s.vector v body = s.fault cType 0 := by
  unfold State.vector
  dsimp only
  rw [ill, misuse_plain s.hart v src dst, if_neg (by decide), tile]
  dsimp only
  rw [mism, Bool.true_or, if_pos rfl]

theorem GroupWritten.congr {h h' k' : Hart} {d g w : Nat} {c : BitVec 32 → BitVec 32} {act act' : Nat → Bool} {val val' : Nat → Nat}
    (written : GroupWritten h h' d g w c act val) (vregs : k'.vregs = h'.vregs) (width : k'.w = h'.w) (acts : act = act')
    (vals : ∀ e, act' e = true → val e = val' e) : GroupWritten h k' d g w c act' val' := by
  subst acts
  have same : ∀ q, k'.v q = h'.v q := fun q => by
    unfold Hart.v
    rw [vregs]
  have elem : ∀ e, k'.elem d g w e = h'.elem d g w e := fun e => elem_congr h' k' d g w e width fun q _ _ => by rw [same]
  refine ⟨fun e inside => ?_, fun r m => by rw [same]; exact written.config r m, fun r low out => by rw [same]; exact written.others r low out⟩
  rw [elem, written.elems e inside]
  cases active : act e with
  | true => rw [if_pos rfl, if_pos rfl, vals e active]
  | false => rfl

/-- Results of any list, the last one listed for an element standing. -/
theorem putResults_list (s : State) (d : Reg) (g : Nat) (t : Ty) (c : BitVec 32) (l : List (Nat × Nat)) (n : Nat) {act : Nat → Bool}
    {val : Nat → Nat} (plain : s.hart.Plain) (some : 0 < s.hart.vl) (group : 0 < g) (usable : s.hart.usable d.toNat g) (width : t.w ≠ 0)
    (ok : s.hart.resOk d t g n = true) (inside : ∀ p ∈ l, p.1 < n)
    (last : ∀ e, l.reverse.find? (fun p => p.1 == e) = if act e then Option.some (e, val e) else none) :
    ∃ h', s.putResults d g t (Option.some c) (l.map fun p => (p.1, p.2, 0)) = s.setHart h' ∧ h' = { s.hart with vregs := h'.vregs } ∧
      GroupWritten s.hart h' d.toNat g t.w (resultCfg c) act fun e => t.stored (val e) := by
  have unbound := isBound_base _ _ _ group usable
  have own := isXq_own s.hart d.toNat plain.own
  have base := resOk_base ok plain.own
  have members : ∀ i ∈ members d.toNat g, s.hart.isBound i = false := fun i m => (usable i m).1
  have stored : ∀ e, (l.map fun p => (p.1, t.stored p.2)).reverse.find? (fun p => p.1 == e) =
      if act e then Option.some (e, t.stored (val e)) else none := by
    intro e
    rw [← List.map_reverse, List.find?_map, Function.comp_def]
    dsimp only
    rw [last e]
    cases act e <;> rfl
  obtain ⟨frame, written⟩ := group_written s.hart d.toNat g t c (l.map fun p => (p.1, t.stored p.2)) act (fun e => t.stored (val e)) own unbound
    members base (grantWidth_le _ plain.width)
    (fun p m => by
      obtain ⟨q, mq, rfl⟩ := List.mem_map.1 m
      exact resOk_fits s.hart d t g n q.1 ok plain.own width (inside q mq)) stored 0
  have zero : ((l.map fun p => (p.1, p.2, 0)).map fun p : Nat × Nat × Nat => p.2.2).foldl (fun a b => a ||| b) 0 = 0 := by
    rw [List.map_map]
    exact orAll_zeros l
  have reach : s.hart.reach ≠ 0 := by
    simp [Hart.reach, plain.own]
    omega
  have open_ : ((s.hart.setCfg d.toNat g c).raise 0).writeBound d.toNat = false := by
    have same : ((s.hart.setCfg d.toNat g c).raise 0).isBound d.toNat = s.hart.isBound d.toNat := by
      rw [(setCfg_spec s.hart d.toNat g c own unbound members base).1]
      rfl
    simp [Hart.writeBound, same, unbound]
  refine ⟨((s.hart.setCfg d.toNat g c).raise 0).writeGroup d.toNat g t.w (l.map fun p => (p.1, t.stored p.2)), ?_, ?_, written⟩
  · unfold State.putResults
    rw [if_neg reach]
    dsimp only
    rw [zero]
    unfold State.putElems State.putRaw
    rw [if_neg (by rw [State.upd_hart, open_]; decide), List.map_map, List.map_map]
    rfl
  · rw [flags_or_zero] at frame
    exact frame

/-- Elements written to a group under its own configuration. -/
theorem putElems_list (s : State) (b : Reg) (g : Nat) (t : Ty) (l : List (Nat × Nat)) (n : Nat) {act : Nat → Bool} {val : Nat → Nat}
    (own : s.hart.lane = none) (narrow : s.hart.w ≤ 8) (group : 0 < g) (usable : ∀ i ∈ members b.toNat g, s.hart.isBound i = false)
    (width : t.w ≠ 0) (plain : ∀ x, t.stored x = x) (ok : s.hart.resOk b t g n = true) (inside : ∀ p ∈ l, p.1 < n)
    (last : ∀ e, l.reverse.find? (fun p => p.1 == e) = if act e then some (e, val e) else none) :
    ∃ h', s.putElems b.toNat g t l = s.setHart h' ∧ h' = { s.hart with vregs := h'.vregs } ∧
      GroupWritten s.hart h' b.toNat g t.w id act val := by
  have unbound : s.hart.isBound b.toNat = false := usable _ ((mem_members _ _ _).2 ⟨Nat.le_refl _, by omega⟩)
  obtain ⟨frame, written⟩ := writeGroup_spec s.hart b.toNat g t.w l act val (isXq_own _ _ own) usable (resOk_base ok own) narrow
    (fun p m => resOk_fits s.hart b t g n p.1 ok own width (inside p m)) last
  refine ⟨s.hart.writeGroup b.toNat g t.w l, ?_, frame, written⟩
  have same : (l.map fun p => (p.1, t.stored p.2)) = l := (List.map_congr_left fun p _ => by rw [plain]; rfl).trans (List.map_id l)
  unfold State.putElems State.putRaw
  rw [if_neg (by simp [Hart.writeBound, unbound]), same]
  rfl

/-- One element for each of the first places. -/
theorem find?_first (n : Nat) (f : Nat → Nat) (e : Nat) : ((List.range n).map fun i => (i, f i)).reverse.find? (fun p => p.1 == e) =
    if decide (e < n) then some (e, f e) else none := by
  rw [find_act _ List.nodup_range f e]
  simp only [List.mem_range]

theorem wideIndex_iff (t : Ty) : isWideIndex t = true ↔ t.tag ∈ [6, 7, 8] := by
  unfold isWideIndex
  simp only [Bool.and_eq_true, decide_eq_true_eq, List.mem_cons, List.not_mem_nil, or_false]
  omega

theorem wideIndex_plain {t : Ty} (wide : t.tag ∈ [6, 7, 8]) : t.w ≠ 0 ∧ ∀ x, t.stored x = x := by
  obtain ⟨tag, frac⟩ := t
  simp only [List.mem_cons, List.not_mem_nil, or_false] at wide
  rcases wide with rfl | rfl | rfl
  · exact ⟨tagWidth_ne 6 (by decide), fun x => rfl⟩
  · exact ⟨tagWidth_ne 7 (by decide), fun x => rfl⟩
  · exact ⟨tagWidth_ne 8 (by decide), fun x => rfl⟩

section
variable {s : State} {d a b : Reg} {k : BitVec 3}

/-- The operands of `cmpt` and `scat` in order (R119, R177, R243, R244). -/
structure State.Packs (s : State) (d a b : Reg) : Prop where
  plain : s.hart.Plain
  source : s.hart.opOk a s.hart.vl = true
  index : s.hart.opOk b s.hart.vl = true
  result : s.hart.resOk d (s.hart.ty a) (s.hart.grp a) s.hart.vl = true
  usableA : s.hart.usable a.toNat (s.hart.grp a)
  usableB : s.hart.usable b.toNat (s.hart.grp b)
  usableD : s.hart.usable d.toNat (s.hart.grp a)

/-- The specification of `cmpt`'s frame. -/
def Hart.cmptSpec (h : Hart) (d a b : Reg) (k : BitVec 3) : VSpec :=
  { ill := !h.opOk a h.vl || !h.resOk d (h.ty a) (h.grp a) h.vl || !h.opOk b h.vl, tile := none
    mism := (h.ty a).cls == .untagged || !isWideIndex (h.ty b)
    srcs := [{ reg := a.toNat, grp := h.grp a, trap := false, need := h.vl }]
    dsts := [{ reg := d.toNat, grp := h.grp a, cfg := some (h.ty a, h.grp a), len := h.vl },
             { reg := b.toNat, grp := h.grp b, cfg := none, len := h.vl }]
    sends := (List.range (h.everyActive k).length).filter (fun e => h.left (h.ty a).w e), lanewise := false, sendwise := true
    w := (h.ty a).w }

/-- What `cmpt` does within its frame. -/
def State.cmptBody (d a b : Reg) (k : BitVec 3) (t : Ty) (g : Nat) (tb : Ty) (gb : Nat) (s : State) : Res :=
  let h := s.hart
  let ps := (places (h.everyActive k)).filter (fun p => h.left t.w p.2)
  let s := s.putResults d g t (some (mkCfg t g)) (ps.map (fun p => (p.2, h.elems a p.1, 0)))
  let s := if h.vl = 0 then s else s.putElems b.toNat gb tb (ps.map (fun p => (p.2, p.1)))
  s.done s.hart

theorem exec_cmpt_eq : exec (.cmpt d a b k) s =
    s.vector (s.hart.cmptSpec d a b k) (State.cmptBody d a b k (s.hart.ty a) (s.hart.grp a) (s.hart.ty b) (s.hart.grp b)) := rfl

/-- The places that `scat` fills: where the index vector names them below VL. -/
def Hart.spots (h : Hart) (k : BitVec 3) (rb : Nat → Nat) : List (Nat × Nat) :=
  ((List.range (h.everyActive k).length).map (fun i => (rb i, i))).filter (fun p => decide (p.1 < h.vl))

/-- The specification of `scat`'s frame. -/
def State.scatSpec (s : State) (d a b : Reg) (k : BitVec 3) : VSpec :=
  let h := s.hart
  { ill := !h.opOk a h.vl || !h.resOk d (h.ty a) (h.grp a) h.vl || !h.opOk b h.vl, tile := none
    mism := (h.ty a).cls == .untagged || !isWideIndex (h.ty b)
    srcs := [{ reg := a.toNat, grp := h.grp a, trap := false, need := h.vl },
             { reg := b.toNat, grp := h.grp b, trap := false, need := h.vl }]
    dsts := [{ reg := d.toNat, grp := h.grp a, cfg := some (h.ty a, h.grp a), len := h.vl }]
    sends := (let l := (h.spots k (s.peek b h.vl)).map (fun p => p.1)
              (List.range h.vl).filter (fun e => l.contains e && h.left (h.ty a).w e))
    lanewise := false, sendwise := true, w := (h.ty a).w }

/-- What `scat` does within its frame. -/
def State.scatBody (d a b : Reg) (k : BitVec 3) (t : Ty) (g : Nat) (s : State) : Res :=
  let h := s.hart
  let s := s.putResults d g t (some (mkCfg t g))
    (((h.spots k (h.elems b)).filter (fun p => h.left t.w p.1)).map (fun p => (p.1, h.elems a p.2, 0)))
  s.done s.hart

theorem exec_scat_eq : exec (.scat d a b k) s =
    s.vector (s.scatSpec d a b k) (State.scatBody d a b k (s.hart.ty a) (s.hart.grp a)) := rfl

section
variable (packs : s.Packs d a b)
include packs

theorem State.Packs.legal : (!s.hart.opOk a s.hart.vl || !s.hart.resOk d (s.hart.ty a) (s.hart.grp a) s.hart.vl ||
    !s.hart.opOk b s.hart.vl) = false := by
  rw [packs.source, packs.result, packs.index]
  rfl

theorem State.Packs.cmptUsable : (∀ x ∈ (s.hart.cmptSpec d a b k).srcs, 0 < x.grp ∧ s.hart.usable x.reg x.grp) ∧
    ∀ x ∈ (s.hart.cmptSpec d a b k).dsts, 0 < x.grp ∧ s.hart.usable x.reg x.grp := by
  refine ⟨fun x m => ?_, fun x m => ?_⟩
  · rw [List.mem_singleton.1 m]
    exact ⟨cfgGrp_pos _, packs.usableA⟩
  · rcases List.mem_cons.1 m with rfl | m
    · exact ⟨cfgGrp_pos _, packs.usableD⟩
    · rw [List.mem_singleton.1 m]
      exact ⟨cfgGrp_pos _, packs.usableB⟩

theorem State.Packs.scatUsable : (∀ x ∈ (s.scatSpec d a b k).srcs, 0 < x.grp ∧ s.hart.usable x.reg x.grp) ∧
    ∀ x ∈ (s.scatSpec d a b k).dsts, 0 < x.grp ∧ s.hart.usable x.reg x.grp := by
  refine ⟨fun x m => ?_, fun x m => ?_⟩
  · rcases List.mem_cons.1 m with rfl | m
    · exact ⟨cfgGrp_pos _, packs.usableA⟩
    · rw [List.mem_singleton.1 m]
      exact ⟨cfgGrp_pos _, packs.usableB⟩
  · rw [List.mem_singleton.1 m]
    exact ⟨cfgGrp_pos _, packs.usableD⟩

/-- An index vector of another type is a type mismatch (R243, R244). -/
theorem State.Packs.mismatch (other : (s.hart.ty b).tag ∉ [6, 7, 8]) :
    ∀ i ∈ [Instr.cmpt d a b k, .scat d a b k], exec i s = s.fault cType 0 := by
  have mism : ((s.hart.ty a).cls == .untagged || !isWideIndex (s.hart.ty b)) = true := by
    rw [Bool.eq_false_iff.2 fun wide => other ((wideIndex_iff _).1 wide)]
    exact Bool.or_true _
  intro i m
  rcases List.mem_cons.1 m with rfl | m
  · rw [exec_cmpt_eq]
    exact vector_mism s _ _ packs.legal rfl mism packs.cmptUsable.1 packs.cmptUsable.2
  · rw [List.mem_singleton.1 m, exec_scat_eq]
    exact vector_mism s _ _ packs.legal rfl mism packs.scatUsable.1 packs.scatUsable.2

section
variable (tagged : (s.hart.ty a).cls ≠ .untagged) (wide : (s.hart.ty b).tag ∈ [6, 7, 8])
include tagged wide

omit packs in
theorem matches_ : ((s.hart.ty a).cls == .untagged || !isWideIndex (s.hart.ty b)) = false := by
  rw [(wideIndex_iff _).2 wide, beq_eq_false_iff_ne.2 tagged]
  rfl

/-- The frame of `cmpt` around a body that ends past the word. -/
theorem State.Packs.cmpt {h2 : Hart} (body : State.cmptBody d a b k (s.hart.ty a) (s.hart.grp a) (s.hart.ty b) (s.hart.grp b) s =
      .next (s.setHart h2)) (same : h2 = { s.hart with vregs := h2.vregs, pc := s.hart.pc + 4 }) :
    exec (.cmpt d a b k) s = .next (s.setHart h2) := by
  rw [exec_cmpt_eq]
  refine vector_done s _ _ h2 packs.plain packs.legal rfl (matches_ tagged wide) packs.cmptUsable.1 packs.cmptUsable.2 body ?_ ?_ ?_ ?_ ?_
  all_goals rw [same]

/-- The frame of `scat` around a body that ends past the word. -/
theorem State.Packs.scat {h2 : Hart} (body : State.scatBody d a b k (s.hart.ty a) (s.hart.grp a) s =
      .next (s.setHart h2)) (same : h2 = { s.hart with vregs := h2.vregs, pc := s.hart.pc + 4 }) :
    exec (.scat d a b k) s = .next (s.setHart h2) := by
  rw [exec_scat_eq]
  refine vector_done s _ _ h2 packs.plain packs.legal rfl (matches_ tagged wide) packs.scatUsable.1 packs.scatUsable.2 body ?_ ?_ ?_ ?_ ?_
  all_goals rw [same]

/-- At VL = 0 only the PC moves (R56). -/
theorem State.Packs.idle (none : s.hart.vl = 0) :
    ∀ i ∈ [Instr.cmpt d a b k, .scat d a b k], exec i s = .next (s.atPc (s.hart.pc + 4)) := by
  have nothing : ∀ t g l, s.putResults d g t (some (mkCfg t g)) l = s := by
    intro t g l
    unfold State.putResults
    rw [if_pos (by simp [Hart.reach, packs.plain.own, none])]
  intro i m
  rcases List.mem_cons.1 m with rfl | m
  · refine packs.cmpt tagged wide ?_ rfl
    unfold State.cmptBody
    dsimp only
    rw [nothing, if_pos none]
    rfl
  · rw [List.mem_singleton.1 m]
    refine packs.scat tagged wide ?_ rfl
    unfold State.scatBody
    dsimp only
    rw [nothing]
    rfl

/-- `cmpt`: the active elements first, then their places (R243). -/
theorem State.Packs.cmpt_packs (some : 0 < s.hart.vl) : ∃ h1 h', exec (.cmpt d a b k) s = .next (s.setHart { h' with pc := s.hart.pc + 4 }) ∧
    h1 = { s.hart with vregs := h1.vregs } ∧ h' = { s.hart with vregs := h'.vregs } ∧
    GroupWritten s.hart h1 d.toNat (s.hart.grp a) (s.hart.ty a).w (resultCfg (mkCfg (s.hart.ty a) (s.hart.grp a)))
      (fun e => decide (e < (s.hart.activeList k).length))
      (fun e => (s.hart.ty a).stored (s.hart.elem a.toNat (s.hart.grp a) (s.hart.ty a).w ((s.hart.activeList k).getD e 0))) ∧
    GroupWritten h1 h' b.toNat (s.hart.grp b) (s.hart.ty b).w id (fun e => decide (e < (s.hart.activeList k).length))
      (fun e => (s.hart.activeList k).getD e 0) := by
  have few : (s.hart.activeList k).length ≤ s.hart.vl := (List.length_filter_le _ _).trans (Nat.le_of_eq List.length_range)
  have listed : (places (s.hart.everyActive k)).filter (fun p => s.hart.left (s.hart.ty a).w p.2) =
      (List.range (s.hart.activeList k).length).map fun i => ((s.hart.activeList k).getD i 0, i) := by
    rw [activeList_eq, places_eq]
    exact List.filter_eq_self.2 fun p _ => left_plain packs.plain _ _
  obtain ⟨h1, put1, frame1, written1⟩ := putResults_list s d (s.hart.grp a) (s.hart.ty a) (mkCfg (s.hart.ty a) (s.hart.grp a))
    ((List.range (s.hart.activeList k).length).map fun i => (i, s.hart.elems a ((s.hart.activeList k).getD i 0))) s.hart.vl packs.plain some
    (cfgGrp_pos _) packs.usableD (tagWidth_ne _ tagged) packs.result
    (fun p m => by
      obtain ⟨i, mi, rfl⟩ := List.mem_map.1 m
      exact Nat.lt_of_lt_of_le (List.mem_range.1 mi) few)
    (find?_first _ _)
  obtain ⟨w, unstored⟩ := wideIndex_plain wide
  obtain ⟨h2, put2, frame2, written2⟩ := putElems_list (s.setHart h1) b (s.hart.grp b) (s.hart.ty b)
    ((List.range (s.hart.activeList k).length).map fun i => (i, (s.hart.activeList k).getD i 0)) s.hart.vl
    (by rw [State.setHart_hart, frame1]; exact packs.plain.own) (by rw [State.setHart_hart, frame1]; exact grantWidth_le _ packs.plain.width)
    (cfgGrp_pos _) (fun i m => by rw [State.setHart_hart, frame1]; exact (packs.usableB i m).1) w unstored
    (by rw [State.setHart_hart, frame1]; exact resOk_of_opOk packs.index)
    (fun p m => by
      obtain ⟨i, mi, rfl⟩ := List.mem_map.1 m
      exact Nat.lt_of_lt_of_le (List.mem_range.1 mi) few)
    (find?_first _ _)
  have same2 : h2 = { s.hart with vregs := h2.vregs } := by
    rw [State.setHart_hart] at frame2
    rw [frame1] at frame2
    exact frame2
  refine ⟨h1, h2, packs.cmpt tagged wide ?_ (by rw [same2]), frame1, same2, ?_, written2⟩
  · unfold State.cmptBody
    dsimp only
    rw [listed, List.map_map, List.map_map, if_neg (by omega)]
    rw [List.map_map] at put1
    rw [show ((fun p : Nat × Nat => (p.2, s.hart.elems a p.1, 0)) ∘ fun i => ((s.hart.activeList k).getD i 0, i)) =
      (fun p : Nat × Nat => (p.1, p.2, 0)) ∘ fun i => (i, s.hart.elems a ((s.hart.activeList k).getD i 0)) from rfl, put1,
      show ((fun p : Nat × Nat => (p.2, p.1)) ∘ fun i => ((s.hart.activeList k).getD i 0, i)) =
        fun i => (i, (s.hart.activeList k).getD i 0) from rfl, put2]
    show Host.Outcome.next (s.setHart (h2.advance 4)) = _
    rw [same2]
    rfl
  · rw [elems_plain _ packs.plain] at written1
    exact written1

/-- `scat`: each element at the place its index names, the last of equal places standing (R244). -/
theorem State.Packs.scat_scatters (some : 0 < s.hart.vl) : ∃ h', exec (.scat d a b k) s = .next (s.setHart h') ∧
    h' = { s.hart with vregs := h'.vregs, pc := s.hart.pc + 4 } ∧
    let from_ (e : Nat) : List Nat := (List.range (s.hart.activeList k).length).filter fun i =>
      s.hart.elem b.toNat (s.hart.grp b) (s.hart.ty b).w i == e
    GroupWritten s.hart h' d.toNat (s.hart.grp a) (s.hart.ty a).w (resultCfg (mkCfg (s.hart.ty a) (s.hart.grp a)))
      (fun e => decide (e < s.hart.vl) && !(from_ e).isEmpty)
      (fun e => (s.hart.ty a).stored (s.hart.elem a.toNat (s.hart.grp a) (s.hart.ty a).w ((from_ e).getLast?.getD 0))) := by
  let idx := s.hart.elem b.toNat (s.hart.grp b) (s.hart.ty b).w
  let ea := s.hart.elem a.toNat (s.hart.grp a) (s.hart.ty a).w
  let l := ((List.range (s.hart.activeList k).length).filter fun i => decide (idx i < s.hart.vl)).map fun i => (idx i, ea i)
  have listed : ((s.hart.spots k (s.hart.elems b)).filter fun p => s.hart.left (s.hart.ty a).w p.1).map
      (fun p => (p.1, s.hart.elems a p.2, 0)) = l.map fun p => (p.1, p.2, 0) := by
    rw [List.filter_eq_self.2 fun p _ => left_plain packs.plain _ _, elems_plain _ packs.plain, elems_plain _ packs.plain]
    unfold Hart.spots
    rw [activeList_eq, List.filter_map, List.map_map, List.map_map]
    rfl
  have last : ∀ e, l.reverse.find? (fun p => p.1 == e) =
      if decide (e < s.hart.vl) && !((List.range (s.hart.activeList k).length).filter fun i => idx i == e).isEmpty then
        Option.some (e, ea (((List.range (s.hart.activeList k).length).filter fun i => idx i == e).getLast?.getD 0)) else none := by
    intro e
    show ((List.filter _ _).map _).reverse.find? _ = _
    rw [find?_reverse_filter, List.filter_filter]
    by_cases low : e < s.hart.vl
    · have same : (fun i => idx i == e && decide (idx i < s.hart.vl)) = fun i => idx i == e := by
        funext i
        by_cases here : idx i = e
        · rw [here, decide_eq_true low, Bool.and_true]
        · rw [beq_eq_false_iff_ne.2 here, Bool.false_and]
      rw [same, decide_eq_true low, Bool.true_and]
      cases ((List.range (s.hart.activeList k).length).filter fun i => idx i == e).isEmpty <;> rfl
    · have none : ((List.range (s.hart.activeList k).length).filter fun i => idx i == e && decide (idx i < s.hart.vl)) = [] := by
        refine List.filter_eq_nil_iff.2 fun i _ both => ?_
        obtain ⟨here, below⟩ := Bool.and_eq_true_iff.1 both
        rw [beq_iff_eq.1 here] at below
        exact low (of_decide_eq_true below)
      rw [none, decide_eq_false low]
      rfl
  obtain ⟨h1, put, frame, written⟩ := putResults_list s d (s.hart.grp a) (s.hart.ty a) (mkCfg (s.hart.ty a) (s.hart.grp a)) l s.hart.vl
    packs.plain some (cfgGrp_pos _) packs.usableD (tagWidth_ne _ tagged) packs.result
    (fun p m => by
      obtain ⟨i, mi, rfl⟩ := List.mem_map.1 m
      exact of_decide_eq_true (List.mem_filter.1 mi).2) last
  refine ⟨{ h1 with pc := s.hart.pc + 4 }, packs.scat tagged wide ?_ (by rw [frame]), by rw [frame], ?_⟩
  · unfold State.scatBody
    dsimp only
    rw [listed, put]
    show Host.Outcome.next (s.setHart (h1.advance 4)) = _
    rw [frame]
    rfl
  · exact written.congr rfl rfl rfl fun e _ => rfl

end
end
end

/-- Settles O43: `lpart` marks the harts that either value names; `cmpt` and `scat` write the lists that R243 and R244 give. -/
theorem partitionAndCompaction : Obligations.PartitionAndCompaction := by
  unfold Obligations.PartitionAndCompaction
  refine ⟨?_, ?_⟩
  · intro s a h v old named bad
    refine ⟨exec_lpart_of_bad, fun good same => ?_, fun good other => ⟨fun refused => ?_, fun apart harts => ?_⟩⟩
    · rw [exec_lpart_of_good good, if_pos same]
      rfl
    · rw [exec_lpart_of_good good, if_neg other, if_pos]
      exact refused.imp_right fun no => by rw [no]; rfl
    · refine ⟨(s.parted v).setHart ((s.parted v).hart.advance 4), ?_, rfl, s.parted_lpart v, fun f marks => ?_⟩
      · rw [exec_lpart_of_good good, if_neg other, if_neg]
        · rfl
        · rintro (same | no)
          · exact apart same
          · rw [harts] at no
            cases no
      · have names : ∀ x, s.partNames v x = true ↔ named x := by
          intro x
          unfold State.partNames
          simp only [Bool.and_eq_true, Bool.or_eq_true, beq_iff_eq, and_assoc, or_assoc]
          exact Iff.rfl
        have same : f = fun x => if s.partNames v x then { x with partDue := true } else x := by
          funext x
          obtain ⟨marked, kept⟩ := marks x
          by_cases name : s.partNames v x = true
          · rw [if_pos name]
            exact marked ((names x).1 name)
          · rw [if_neg name]
            exact kept fun yes => name ((names x).2 yes)
        rw [same]
        exact ⟨rfl, rfl⟩
  · intro s d a b k h t g tb act ea idx plain source index result usableA usableB usableD
    have packs : s.Packs d a b := ⟨plain, source, index, result, usableA, usableB, usableD⟩
    exact ⟨packs.mismatch, fun tagged wide none => packs.idle tagged wide none,
      fun tagged wide some => ⟨packs.cmpt_packs tagged wide some, packs.scat_scatters tagged wide some⟩⟩

end Sys2Proof.Machine
end

section
/-! A vector instruction that stops at the fault of an element. -/

namespace Sys2Proof.Machine

/-! ### An instruction that stops at a fault -/

/-- An instruction on whole registers that leaves the PC where it was gives what its own part gives. -/
theorem vector_stops (s s2 : State) (v : VSpec) (body : State → Res) (ill : v.ill = false) (tile : v.tile = none) (mism : v.mism = false)
    (src : ∀ x ∈ v.srcs, 0 < x.grp ∧ s.hart.usable x.reg x.grp) (dst : ∀ d ∈ v.dsts, 0 < d.grp ∧ s.hart.usable d.reg d.grp)
    (stops : body s = .next s2) (pc : s2.hart.pc = s.hart.pc) : s.vector v body = .next s2 := by
  have sources : ∀ x ∈ v.srcs, s.hart.isBound x.reg = false := fun x m => isBound_base _ _ _ (src x m).1 (src x m).2
  have dests : ∀ d ∈ v.dsts, s.hart.isBound d.reg = false := fun d m => isBound_base _ _ _ (dst d m).1 (dst d m).2
  have walks : (v.srcs.map fun x => x.reg).any (fun r => s.hart.readBound r && walkMismatch s.hart r) = false := by
    simp only [List.any_map, List.any_eq_false]
    intro x m
    simp [Hart.readBound, sources x m]
  have emptySrc : v.srcs.filter (fun x => !s.hart.readBound x.reg && !s.hart.isXq x.reg &&
      !(s.hart.empties (members x.reg x.grp)).isEmpty) = [] := by
    simp only [List.filter_eq_nil_iff]
    intro x m
    simp [empties_full _ _ fun i mi => ((src x m).2 i mi).2]
  have emptyDst : v.dsts.flatMap (fun d => if s.hart.isXq d.reg || s.hart.isBound d.reg then []
      else s.hart.empties (members d.reg d.grp)) = [] := by
    simp only [List.flatMap_eq_nil_iff]
    intro x m
    simp [empties_full _ _ fun i mi => ((dst x m).2 i mi).2]
  have noReads : v.srcs.filter (fun x => s.hart.readBound x.reg) = [] := by
    simp only [List.filter_eq_nil_iff]
    intro x m
    simp [Hart.readBound, sources x m]
  have noWrites : v.dsts.filter (fun d => s.hart.writeBound d.reg) = [] := by
    simp only [List.filter_eq_nil_iff]
    intro x m
    simp [Hart.writeBound, dests x m]
  unfold State.vector
  simp only [ill, misuse_plain s.hart v src dst, walks, emptySrc, emptyDst, mism, tile, noReads, noWrites, boundNeeds, State.takings,
    State.unready, State.takeSources, stops, List.map_nil, List.eraseDups_nil, List.foldl_nil, List.any_nil, List.isEmpty_nil,
    Bool.or_self, Bool.false_eq_true, if_false, false_and, Bool.not_true, pc, if_true, Bool.or_false, Bool.false_or, firstFault,
    List.filter_nil, Bool.false_and]
  rw [if_neg]
  simp only [List.any_eq_true]
  rintro ⟨x, m, wrong⟩
  simp [Hart.writeBound, dests x m] at wrong

theorem State.taken_pc {s : State} (t : Trap) (lane : s.hart.lane = none) : (s.taken t).hart.pc = s.hart.pc := by
  obtain ⟨v, es, spoils, takes, -⟩ := s.exists_takes t lane
  obtain ⟨b, watch, restart, -, context⟩ := takes.context
  rw [context]

theorem State.faults_pc {s : State} (t : Trap) (lane : s.hart.lane = none) : (s.faults t).hart.pc = s.hart.pc := by
  unfold State.faults
  split
  · have ended : s.drainAll.endTx.hart.lane = s.hart.lane ∧ s.drainAll.endTx.hart.pc = s.hart.pc := by
      rw [show s.drainAll.endTx.hart = { s.drainAll.hart with tx := s.drainAll.endTx.hart.tx } from rfl, State.drainAll, State.drain_hart]
      exact ⟨rfl, rfl⟩
    rw [State.taken_pc t (ended.1.trans lane), ended.2]
  · exact State.taken_pc t lane

/-- The fault of an element outside a lane's turn. -/
theorem State.elemFault_own {s : State} (w : Nat) (act : List Nat) (k : Nat) (f : Flt) (lane : s.hart.lane = none)
    (unwalked : s.hart.walked = []) : s.elemFault w act k f = .next (s.faults (s.hart.elemTrap w act k f)) := by
  unfold State.elemFault State.raiseElem State.faults
  rw [settle_nil s k unwalked]
  dsimp only
  by_cases undeclared : f.cause = cUndecl
  · rw [if_pos ⟨undeclared, lane⟩, if_pos (show (s.hart.elemTrap w act k f).cause = cUndecl from undeclared)]
    rfl
  · rw [if_neg fun both => undeclared both.1, if_neg (show ¬(s.hart.elemTrap w act k f).cause = cUndecl from undeclared)]
    rfl

theorem owed_plain {h : Hart} (plain : h.Plain) (k : BitVec 3) (w : Nat) : h.owed k w = h.activeList k := by
  have same : ({ h with limit := none } : Hart) = h := by rw [← plain.unlimited]
  rw [Hart.owed, same, active_plain h plain, isActive_filter]
  rfl

theorem active_list {h : Hart} (plain : h.Plain) (k : BitVec 3) (w : Nat) : h.active k w = h.activeList k := by
  rw [active_plain h plain, isActive_filter]
  rfl

theorem mem_activeList {h : Hart} {k : BitVec 3} {e : Nat} : e ∈ h.activeList k ↔ h.isActive k e = true := by
  unfold Hart.activeList Hart.isActive
  simp only [List.mem_filter, List.mem_range, Bool.and_eq_true, decide_eq_true_eq]
  exact ⟨fun h => h.2, fun h => ⟨h.1, h⟩⟩

theorem lt_of_isActive {h : Hart} {k : BitVec 3} {e : Nat} (active : h.isActive k e = true) : e < h.vl := by
  unfold Hart.isActive at active
  simp only [Bool.and_eq_true, decide_eq_true_eq] at active
  exact active.1

theorem activeList_nodup (h : Hart) (k : BitVec 3) : (h.activeList k).Nodup := List.nodup_range.filter _

end Sys2Proof.Machine
end

section
/-! The checks of an access after others have performed. -/

namespace Sys2Proof.Machine

/-! ### Accesses after others have performed -/

theorem State.access_hart (s : State) {h h' : Hart} (info : h'.info = h.info) (tx : h'.tx = h.tx) (name : h'.id = h.id) (acc : Acc)
    (n : Nat) (va : BitVec 64) : s.access h' acc n va = s.access h acc n va := by
  have declared : ∀ pa, h'.declared acc va.toNat pa = h.declared acc va.toNat pa := fun pa => by
    unfold Hart.declared Hart.inStack
    rw [tx, info, name]
  unfold State.access State.locate State.admitted
  rw [info]
  split
  · rfl
  · simp only [declared]

theorem State.orderOf_hart (s : State) {h h' : Hart} (info : h'.info = h.info) : s.orderOf h' = s.orderOf h := by
  funext f
  unfold State.orderOf
  rw [info]

theorem State.both_hart (s : State) {h h' : Hart} (info : h'.info = h.info) : s.both h' = s.both h := by
  funext a b
  unfold State.both
  rw [s.orderOf_hart info]

theorem State.accessRmw_hart (s : State) {h h' : Hart} (info : h'.info = h.info) (tx : h'.tx = h.tx) (name : h'.id = h.id) (n : Nat)
    (va : BitVec 64) : s.accessRmw h' n va = s.accessRmw h n va := by
  unfold State.accessRmw
  rw [s.access_hart info tx name, s.access_hart info tx name, s.both_hart info]

/-- Whether an access meets a storage error that a read reports, among `n` bytes. -/
def State.spoiled (s : State) (pa n : Nat) : Bool := (List.range n).any fun i => s.poison.contains (pa + i)

theorem State.spoiled_iff (s : State) (pa n : Nat) : s.spoiled pa n = true ↔ ∃ i < n, s.poison.contains (pa + i) = true := by
  unfold State.spoiled
  simp only [List.any_eq_true, List.mem_range]

/-- A machine without a storage error. -/
def State.sound (s : State) : State := { s with poison := [] }

/-- The checks of R344 but for that of a storage error. -/
def State.cleared (s : State) (h : Hart) (acc : Acc) (n : Nat) (va : BitVec 64) : Except Flt Phys := s.sound.access h acc n va

theorem State.admitted_sound (s : State) (h : Hart) (acc : Acc) (n : Nat) (va : BitVec 64) (p : Phys) : s.sound.admitted h acc n va p =
    if !h.declared acc va.toNat p.pa then .error ⟨cUndecl, 0, va⟩
    else if acc = .write ∧ p.attr = .hbm ∧ 1 < s.count (p.pa / 2 ^ 18) then .error ⟨cCow, 0, va⟩
    else if s.portLost p then .error ⟨cMachine, 0, va⟩ else .ok p := by
  have none : ((List.range n).any fun i => s.sound.poison.contains (p.pa + i)) = false := by
    rw [List.any_eq_false]
    exact fun i _ h => nomatch h
  unfold State.admitted
  rw [none]
  simp only [Bool.false_eq_true, and_false, or_false]
  rfl

/-- The checks of an access in the order of R344, that of a storage error last. -/
theorem State.admitted_eq (s : State) (h : Hart) (acc : Acc) (n : Nat) (va : BitVec 64) (p : Phys) : s.admitted h acc n va p =
    if !h.declared acc va.toNat p.pa then .error ⟨cUndecl, 0, va⟩
    else if acc = .write ∧ p.attr = .hbm ∧ 1 < s.count (p.pa / 2 ^ 18) then .error ⟨cCow, 0, va⟩
    else if s.portLost p then .error ⟨cMachine, 0, va⟩
    else if acc ≠ .write ∧ s.spoiled p.pa n = true then .error ⟨cMachine, 0, va⟩ else .ok p := by
  unfold State.admitted State.spoiled
  by_cases lost : s.portLost p = true
  · simp only [lost, true_or, if_true]
  · simp only [lost, Bool.false_eq_true, false_or, if_false]

theorem State.access_sound (s : State) (h : Hart) (acc : Acc) (n : Nat) (va : BitVec 64) :
    s.sound.locate h acc n va = s.locate h acc n va := rfl

theorem State.access_of_error {s : State} {h : Hart} {acc : Acc} {n : Nat} {va : BitVec 64} {f : Flt}
    (refused : s.cleared h acc n va = .error f) : s.access h acc n va = .error f := by
  unfold State.cleared State.access at refused
  unfold State.access
  rw [s.access_sound] at refused
  cases found : s.locate h acc n va with
  | error g => rwa [found] at refused
  | ok p =>
    rw [found] at refused
    dsimp only at refused ⊢
    rw [State.admitted_sound] at refused
    rw [State.admitted_eq]
    split_ifs at refused ⊢ <;> exact refused

theorem State.access_of_ok {s : State} {h : Hart} {acc : Acc} {n : Nat} {va : BitVec 64} {p : Phys}
    (granted : s.cleared h acc n va = .ok p) : s.access h acc n va =
      if acc ≠ .write ∧ s.spoiled p.pa n = true then .error ⟨cMachine, 0, va⟩ else .ok p := by
  unfold State.cleared State.access at granted
  unfold State.access
  rw [s.access_sound] at granted
  cases found : s.locate h acc n va with
  | error g => rw [found] at granted; cases granted
  | ok p' =>
    rw [found] at granted
    dsimp only at granted ⊢
    rw [State.admitted_sound] at granted
    split at granted
    · cases granted
    · next declared =>
      split at granted
      · cases granted
      · next single =>
        split at granted
        · cases granted
        · next kept =>
          cases granted
          rw [State.admitted_eq, if_neg declared, if_neg single, if_neg kept]

theorem State.Accessed.cleared {s t : State} (h : s.Accessed t) (hart : Hart) (acc : Acc) (n : Nat) (va : BitVec 64) :
    t.cleared hart acc n va = s.cleared hart acc n va := by
  rw [h]
  rfl

theorem State.Accessed.orderOf {s t : State} (h : s.Accessed t) (hart : Hart) : t.orderOf hart = s.orderOf hart := by
  rw [h]
  rfl

/-- A write's checks are the same after accesses have performed. -/
theorem State.Accessed.access_write {s t : State} (h : s.Accessed t) (hart : Hart) (n : Nat) (va : BitVec 64) :
    t.access hart .write n va = s.access hart .write n va := by
  cases cleared : s.cleared hart .write n va with
  | error f => rw [State.access_of_error cleared, State.access_of_error ((h.cleared ..).trans cleared)]
  | ok p =>
    rw [State.access_of_ok cleared, State.access_of_ok ((h.cleared ..).trans cleared), if_neg fun bad => bad.1 rfl,
      if_neg fun bad => bad.1 rfl]

/-- A read's checks after accesses have performed: they can only have taken storage errors away. -/
theorem State.Accessed.access_read {s t : State} (h : s.Accessed t) (fewer : ∀ p, t.poison.contains p = true → s.poison.contains p = true)
    (hart : Hart) (n : Nat) (va : BitVec 64) : t.access hart .read n va = s.access hart .read n va ∨
      (∃ p, t.access hart .read n va = .ok p) ∧ s.access hart .read n va = .error ⟨cMachine, 0, va⟩ := by
  cases cleared : s.cleared hart .read n va with
  | error f => exact .inl (by rw [State.access_of_error cleared, State.access_of_error ((h.cleared ..).trans cleared)])
  | ok p =>
    rw [State.access_of_ok cleared, State.access_of_ok ((h.cleared ..).trans cleared)]
    by_cases bad : s.spoiled p.pa n = true
    · by_cases still : t.spoiled p.pa n = true
      · exact .inl (by rw [if_pos ⟨fun h => (nomatch h), still⟩, if_pos ⟨fun h => (nomatch h), bad⟩])
      · exact .inr ⟨⟨p, if_neg fun both => still both.2⟩, if_pos ⟨fun h => (nomatch h), bad⟩⟩
    · have gone : ¬ t.spoiled p.pa n = true := fun still => bad ((s.spoiled_iff _ _).2 (by
        obtain ⟨i, low, meets⟩ := (t.spoiled_iff _ _).1 still
        exact ⟨i, low, fewer _ meets⟩))
      exact .inl (by rw [if_neg fun both => gone both.2, if_neg fun both => bad both.2])

theorem State.Accessed.access_same {s t : State} (h : s.Accessed t) (same : ∀ p, t.poison.contains p = s.poison.contains p)
    (hart : Hart) (acc : Acc) (n : Nat) (va : BitVec 64) : t.access hart acc n va = s.access hart acc n va := by
  have spoiled : ∀ pa, t.spoiled pa n = s.spoiled pa n := fun pa => by
    unfold State.spoiled
    simp only [same]
  cases cleared : s.cleared hart acc n va with
  | error f => rw [State.access_of_error cleared, State.access_of_error ((h.cleared ..).trans cleared)]
  | ok p => rw [State.access_of_ok cleared, State.access_of_ok ((h.cleared ..).trans cleared), spoiled]

theorem State.Accessed.accessRmw_same {s t : State} (h : s.Accessed t) (same : ∀ p, t.poison.contains p = s.poison.contains p)
    (hart : Hart) (n : Nat) (va : BitVec 64) : t.accessRmw hart n va = s.accessRmw hart n va := by
  unfold State.accessRmw State.both
  rw [h.access_same same, h.access_same same, h.orderOf]

theorem State.accessRmw_ok {s : State} {h : Hart} {n : Nat} {va : BitVec 64} {p : Phys} (ok : s.accessRmw h n va = .ok p) :
    s.access h .read n va = .ok p ∧ ∃ q, s.access h .write n va = .ok q := by
  unfold State.accessRmw State.both at ok
  cases write : s.access h .write n va with
  | error f =>
    rw [write] at ok
    cases read : s.access h .read n va with
    | error g => rw [read] at ok; cases ok
    | ok q => rw [read] at ok; cases ok
  | ok q =>
    rw [write] at ok
    cases read : s.access h .read n va with
    | error g => rw [read] at ok; cases ok
    | ok q' =>
      rw [read] at ok
      cases ok
      exact ⟨rfl, q, rfl⟩

/-- An atomic access that could be made still can be after others have performed. -/
theorem State.Accessed.accessRmw_ok {s t : State} (h : s.Accessed t)
    (fewer : ∀ p, t.poison.contains p = true → s.poison.contains p = true) {hart : Hart} {n : Nat} {va : BitVec 64} {p : Phys}
    (ok : s.accessRmw hart n va = .ok p) : t.accessRmw hart n va = .ok p := by
  obtain ⟨read, q, write⟩ := State.accessRmw_ok ok
  rcases h.access_read fewer hart n va with same | ⟨-, bad⟩
  · unfold State.accessRmw State.both
    rw [h.access_write, write, same, read]
  · rw [read] at bad
    cases bad

/-- An atomic access refused for another reason than a storage error still is after others have performed. -/
theorem State.Accessed.accessRmw_error {s t : State} (h : s.Accessed t)
    (fewer : ∀ p, t.poison.contains p = true → s.poison.contains p = true) {hart : Hart} {n : Nat} {va : BitVec 64} {f : Flt}
    (refused : s.accessRmw hart n va = .error f) (other : f.cause ≠ cMachine) : t.accessRmw hart n va = .error f := by
  rcases h.access_read fewer hart n va with same | ⟨⟨p, now⟩, bad⟩
  · rw [← refused]
    unfold State.accessRmw State.both
    rw [h.access_write, same, h.orderOf]
  · unfold State.accessRmw State.both at refused ⊢
    rw [bad] at refused
    rw [h.access_write, now]
    cases write : s.access hart .write n va with
    | ok q =>
      rw [write] at refused
      cases refused
      exact absurd rfl other
    | error g =>
      rw [write] at refused
      dsimp only at refused ⊢
      by_cases sooner : s.orderOf hart ⟨cMachine, 0, va⟩ < s.orderOf hart g
      · rw [if_pos sooner] at refused
        cases refused
        exact absurd rfl other
      · rwa [if_neg sooner] at refused

end Sys2Proof.Machine
end

section
/-! Atomic elements. -/

namespace Sys2Proof.Machine

/-! ### Atomic elements: each performs at once, after the earlier writes of its stream -/

theorem State.commitMem_poison {s : State} {a : Nat} {bs : List Byte} {p : Nat} (bad : (s.commitMem a bs).poison.contains p = true) :
    s.poison.contains p = true := by
  unfold State.commitMem at bad
  split at bad
  · rwa [(State.HostRegisters.refl s).barWrite (a - barBase) bs] at bad
  · simp only [List.contains_iff_mem, List.mem_filter] at bad ⊢
    exact bad.1

theorem State.drainList_poison (sel : Nat → Bool) (ws : List HeldWrite) {s : State} {p : Nat}
    (bad : (s.drainList sel ws).poison.contains p = true) : s.poison.contains p = true := by
  induction ws generalizing s with
  | nil => exact bad
  | cons w ws ih =>
    unfold State.drainList at bad
    have bad := ih bad
    split at bad
    · unfold State.commit at bad
      split at bad
      · exact bad
      · exact State.commitMem_poison bad
    · exact bad

theorem State.drain_poison {s : State} {sel : Nat → Bool} {p : Nat} (bad : (s.drain sel).poison.contains p = true) :
    s.poison.contains p = true := by
  unfold State.drain at bad
  have kept := State.drainList_poison sel _ bad
  exact kept

/-- No write of stream S1 is held. -/
def Hart.prompt (h : Hart) : Prop := ∀ w ∈ h.wbuf, w.stream ≠ 1

theorem Hart.prompt.drain {s : State} (prompt : s.hart.prompt) : s.drain (fun k => k == 1) = s :=
  State.drain_of_apart fun w m => by simpa using prompt w m

theorem State.drain_prompt (s : State) : (s.drain fun k => k == 1).hart.prompt := by
  rw [Hart.prompt, State.drain_hart]
  intro w m
  simpa using (List.mem_filter.1 m).2

/-- The stream's held writes perform, then bytes are stored. -/
def State.atomic (s : State) (pa : Nat) (bs : List Byte) : State := (s.drain fun k => k == 1).store 1 true false pa bs

theorem State.atomic_eq (s : State) (pa : Nat) (bs : List Byte) : s.atomic pa bs = (s.drain fun k => k == 1).commitMem pa bs := by
  unfold State.atomic State.store
  rw [if_neg fun h => h.2 rfl, s.drain_prompt.drain]
  rfl

theorem State.atomic_mem {s : State} {pa : Nat} (bs : List Byte) (low : pa < barBase) :
    (s.atomic pa bs).mem = memStore (s.drain fun k => k == 1).mem pa bs := by
  rw [State.atomic_eq, State.commitMem_mem _ _ low]

theorem State.atomic_hart (s : State) (pa : Nat) (bs : List Byte) : (s.atomic pa bs).hart =
    { s.hart with wbuf := (s.atomic pa bs).hart.wbuf, watch := (s.atomic pa bs).hart.watch } := by
  rw [State.atomic, State.store_hart, State.drain_hart]

theorem State.atomic_prompt (s : State) (pa : Nat) (bs : List Byte) : (s.atomic pa bs).hart.prompt := by
  have wbuf : (s.atomic pa bs).hart.wbuf = (s.drain fun k => k == 1).hart.wbuf := by
    rw [State.atomic_eq]
    exact (congrArg Hart.wbuf (State.commit_hart _ false pa bs)).trans rfl
  rw [Hart.prompt, wbuf]
  exact s.drain_prompt

/-- `u` is `s` after atomic elements: but for windows and flags the hart's registers are as they were, and so are the other harts
but for what they watch; the checks of R344 can only have lost storage errors, and lost none where no write was held. -/
structure State.Atomics (s u : State) : Prop where
  accessed : s.Accessed u
  hart : u.hart = { s.hart with windows := u.hart.windows, flags := u.hart.flags, wbuf := u.hart.wbuf, watch := u.hart.watch }
  others : u.others = s.others
  fewer : ∀ p, u.poison.contains p = true → s.poison.contains p = true
  same : s.hart.prompt → u.hart.prompt ∧ ∀ p, u.poison.contains p = s.poison.contains p

namespace State.Atomics

variable {s t u : State}

theorem refl (s : State) : s.Atomics s := ⟨.refl s, rfl, rfl, fun _ h => h, fun h => ⟨h, fun _ => rfl⟩⟩

theorem trans (h : s.Atomics t) (k : t.Atomics u) : s.Atomics u := by
  refine ⟨h.accessed.trans k.accessed, ?_, k.others.trans h.others, fun p bad => h.fewer p (k.fewer p bad), fun prompt => ?_⟩
  · conv_lhs => rw [k.hart, h.hart]
  · obtain ⟨prompt, first⟩ := h.same prompt
    obtain ⟨prompt, second⟩ := k.same prompt
    exact ⟨prompt, fun p => (second p).trans (first p)⟩

/-- An element that passes its checks performs. -/
theorem atomic {pa n : Nat} {bs : List Byte} {attr : PageAttr} {va : Word} (ok : s.accessRmw s.hart n va = .ok ⟨pa, attr⟩)
    (length : bs.length = n) : s.Atomics (s.atomic pa bs) := by
  refine ⟨?_, ?_, ?_, ?_, fun prompt => ⟨s.atomic_prompt pa bs, fun p => ?_⟩⟩
  · rw [State.atomic_eq]
    exact ((Accessed.refl s).drain _).commitMem _ _
  · rw [State.atomic_hart]
  · rw [State.atomic, State.store_others, State.drain_others]
  · rw [State.atomic_eq]
    exact fun p bad => State.drain_poison (State.commitMem_poison bad)
  · obtain ⟨read, -⟩ := State.accessRmw_ok ok
    obtain ⟨-, -, -, -, -, -, clean⟩ := State.access_ok _ _ _ _ _ _ read
    have clean := clean (fun h => nomatch h)
    rw [State.atomic_eq, prompt.drain, State.commitMem]
    split
    · rw [(State.HostRegisters.refl s).barWrite (pa - barBase) bs]
    · show (s.poison.filter _).contains p = _
      rw [Bool.eq_iff_iff]
      simp only [List.contains_iff_mem, List.mem_filter, length]
      refine ⟨fun h => h.1, fun bad => ⟨bad, ?_⟩⟩
      by_contra inside
      simp only [Bool.not_eq_true, Bool.not_eq_false', Bool.and_eq_true, decide_eq_true_eq] at inside
      have apart := clean (p - pa) (by omega)
      rw [show pa + (p - pa) = p by omega] at apart
      simp only [List.contains_eq_mem, decide_eq_false_iff_not] at apart
      exact apart bad

/-- Windows and flags may change meanwhile. -/
theorem upd {f : Hart → Hart} (same : f s.hart = { s.hart with windows := (f s.hart).windows, flags := (f s.hart).flags }) :
    s.Atomics (s.upd f) := by
  have wbuf : (f s.hart).wbuf = s.hart.wbuf := by rw [same]
  refine ⟨(Accessed.refl s).upd f, ?_, rfl, fun _ h => h, fun prompt => ⟨?_, fun _ => rfl⟩⟩
  · show f s.hart = { s.hart with
      windows := (f s.hart).windows, flags := (f s.hart).flags, wbuf := (f s.hart).wbuf, watch := (f s.hart).watch }
    rw [same]
  · show ∀ w ∈ (f s.hart).wbuf, w.stream ≠ 1
    rw [wbuf]
    exact prompt

theorem info (h : s.Atomics u) : u.hart.info = s.hart.info := by rw [h.hart]

theorem accessRmw_hart (h : s.Atomics u) (n : Nat) (va : Word) : u.accessRmw u.hart n va = u.accessRmw s.hart n va :=
  u.accessRmw_hart h.info (by rw [h.hart]) (by rw [h.hart]) n va

/-- An element whose checks passed at the start passes them in its turn. -/
theorem accessRmw_ok (h : s.Atomics u) {n : Nat} {va : Word} {p : Phys} (ok : s.accessRmw s.hart n va = .ok p) :
    u.accessRmw u.hart n va = .ok p := (h.accessRmw_hart n va).trans (h.accessed.accessRmw_ok h.fewer ok)

/-- An element whose checks failed at the start fails them in its turn; a storage error could have been overwritten by a write that
was still held. -/
theorem accessRmw_error (h : s.Atomics u) {n : Nat} {va : Word} {f : Flt} (refused : s.accessRmw s.hart n va = .error f)
    (held : f.cause = cMachine → s.hart.prompt) : u.accessRmw u.hart n va = .error f := by
  rw [h.accessRmw_hart]
  by_cases machine : f.cause = cMachine
  · rw [h.accessed.accessRmw_same (h.same (held machine)).2, refused]
  · exact h.accessed.accessRmw_error h.fewer refused machine

theorem atStore (h : s.Atomics u) (f : Hart → Hart)
    (same : f s.hart = { s.hart with windows := u.hart.windows, flags := u.hart.flags }) : s.AtStore u f := by
  refine ⟨?_, h.others⟩
  rw [same]
  exact h.hart

end State.Atomics

/-! ### Memory before each of a run of atomic elements -/

/-- Memory after one atomic element: its word becomes what the operation makes of its old value. -/
def atomicStep (pa : Nat → Nat) (n : Nat) (new : Nat → Nat → Nat × Nat) (m : List Host.Cell) (e : Nat) : List Host.Cell :=
  memStore m (pa e) (natLe n (new e (memRead m (pa e) n)).1)

/-- Memory before element `e` of a run over the elements that `act` selects. -/
def atomicMem (pa : Nat → Nat) (n : Nat) (new : Nat → Nat → Nat × Nat) (act : Nat → Bool) (m : List Host.Cell) (e : Nat) : List Host.Cell :=
  ((List.range e).filter act).foldl (atomicStep pa n new) m

section
variable {pa : Nat → Nat} {n : Nat} {new : Nat → Nat → Nat × Nat} {act : Nat → Bool} {m : List Host.Cell}

@[simp] theorem atomicMem_zero : atomicMem pa n new act m 0 = m := rfl

theorem atomicMem_succ (e : Nat) : atomicMem pa n new act m (e + 1) =
    if act e then atomicStep pa n new (atomicMem pa n new act m e) e else atomicMem pa n new act m e := by
  unfold atomicMem
  rw [List.range_succ, List.filter_append, List.foldl_append, List.filter_cons, List.filter_nil]
  cases act e <;> rfl

end

/-- The word that an element finds, after the writes its stream held. -/
theorem State.load_drained (s : State) {pa n : Nat} (low : pa + n ≤ barBase) :
    (s.drain fun k => k == 1).load (s.drain fun k => k == 1).hart 1 false pa n = memRead (s.drain fun k => k == 1).mem pa n :=
  State.load_memory _ _ 1 pa n s.drain_prompt low

end Sys2Proof.Machine
end

section
/-! Integer sums, and what elements leave in the partials of a window. -/

namespace Sys2Proof.Machine

/-! ### Integer sums -/

theorem wrap_add (w : Nat) {x y : Int} {m n : Nat} (hx : x % (2 ^ w : Nat) = (m : Int) % (2 ^ w : Nat))
    (hy : y % (2 ^ w : Nat) = (n : Int) % (2 ^ w : Nat)) : wrap w (x + y) = (m + n) % 2 ^ w := by
  unfold wrap
  rw [Int.add_emod, hx, hy, ← Int.add_emod]
  norm_cast

theorem toSigned_emod (w x : Nat) : toSigned w x % (2 ^ w : Nat) = (x : Int) % (2 ^ w : Nat) := by
  unfold toSigned
  split
  · rfl
  · push_cast
    exact Int.sub_emod_right _ _

theorem isInt_class {t : Ty} (int : t.isInt = true) : t.cls = .sint ∨ t.cls = .nint := by
  simpa [Ty.isInt] using int

theorem int_emod {t : Ty} (int : t.isInt = true) (x : Nat) : t.int x % (2 ^ t.w : Nat) = (x : Int) % (2 ^ t.w : Nat) := by
  unfold Ty.int
  rcases isInt_class int with cls | cls
  · rw [cls]
    exact toSigned_emod _ _
  · rw [cls]

/-- Integers add modulo 2^w, without flags. -/
theorem compute_add_int {t : Ty} (int : t.isInt = true) (mode x y : Nat) :
    EOp.compute .add t t t mode 0 x y 0 = ((x + y) % 2 ^ t.w, 0) := by
  have sum : wrap t.w (t.int x + t.int y) = (x + y) % 2 ^ t.w := wrap_add t.w (int_emod int x) (int_emod int y)
  unfold EOp.compute
  rcases isInt_class int with cls | cls
  all_goals
    rw [cls]
    exact Prod.ext sum rfl

theorem int_width {t : Ty} (int : t.isInt = true) : t.w ≤ 64 := by
  obtain ⟨tag, frac⟩ := t
  unfold Ty.isInt Ty.cls at int
  by_cases known : tag < 27
  · show tagWidth tag ≤ 64
    interval_cases tag <;> decide
  · show [0, 8, 16, 32, 64, 8, 16, 32, 64, 16, 32, 16, 32, 16, 16, 32, 64, 8, 8, 6, 2, 4, 7, 32, 4, 4, 4].getD tag 0 ≤ 64
    rw [List.getD_eq_default _ _ (by simpa using known)]
    exact Nat.zero_le _

theorem accumulate_int {t : Ty} (int : t.isInt = true) (mode v : Nat) (p : BitVec 64) :
    accumulate t mode p v = (BitVec.ofNat 64 ((p.toNat + v) % 2 ^ t.w), 0) := by
  unfold accumulate
  rw [compute_add_int int]
  dsimp only
  rw [Nat.mod_add_mod]

/-! ### Accumulating into partials -/

theorem orAll_append (l k : List Nat) : orAll (l ++ k) = orAll l ||| orAll k := by
  unfold orAll
  rw [List.foldl_append]
  generalize l.foldl (fun a b => a ||| b) 0 = x
  induction k using List.reverseRecOn with
  | nil => exact (Nat.or_zero x).symm
  | append_singleton k e ih => rw [List.foldl_append, List.foldl_append, ih, List.foldl_cons, List.foldl_nil, List.foldl_cons,
      List.foldl_nil, Nat.or_assoc]

theorem orAll_singleton (x : Nat) : orAll [x] = x := Nat.zero_or x

theorem accumulateAll_append (t : Ty) (mode lanes cnt : Nat) (val idx : Nat → Nat) (es fs : List Nat) (acc : List (BitVec 64) × Nat) :
    accumulateAll t mode lanes cnt val idx (es ++ fs) acc =
      accumulateAll t mode lanes cnt val idx fs (accumulateAll t mode lanes cnt val idx es acc) := by
  induction es generalizing acc with
  | nil => rfl
  | cons e es ih =>
    obtain ⟨ps, fl⟩ := acc
    rw [List.cons_append, accumulateAll, accumulateAll]
    split <;> exact ih _

/-- A window's place for the partial of a lane and an element. -/
theorem place_inj {cnt l l' j j' : Nat} (low : j < cnt) (low' : j' < cnt) (same : l * cnt + j = l' * cnt + j') : l = l' ∧ j = j' := by
  have mods := congrArg (· % cnt) same
  simp only [Nat.mod_eq_of_lt low, Nat.mod_eq_of_lt low', Nat.add_comm, Nat.add_mul_mod_self_right] at mods
  subst mods
  exact ⟨Nat.eq_of_mul_eq_mul_right (by omega) (Nat.add_right_cancel same), rfl⟩

theorem place_lt {cnt lanes l j : Nat} (low : j < cnt) (lane : l < lanes) : l * cnt + j < lanes * cnt :=
  calc l * cnt + j < l * cnt + cnt := by omega
    _ = (l + 1) * cnt := by ring
    _ ≤ lanes * cnt := Nat.mul_le_mul_right _ lane

section
variable (t : Ty) (mode lanes cnt : Nat) (val idx : Nat → Nat)

/-- The elements among `es` that accumulate into the partial of lane `l` and element `j`, added to it in order. -/
def partialOf (ps : List (BitVec 64)) (es : List Nat) (l j : Nat) : BitVec 64 :=
  (es.filter fun e => decide (e % lanes = l) && decide (idx e = j)).foldl (fun p e => (accumulate t mode p (val e)).1)
    (ps.getD (l * cnt + j) 0)

theorem partialOf_append_singleton (ps : List (BitVec 64)) (es : List Nat) (e l j : Nat) :
    partialOf t mode lanes cnt val idx ps (es ++ [e]) l j =
      if e % lanes = l ∧ idx e = j then (accumulate t mode (partialOf t mode lanes cnt val idx ps es l j) (val e)).1
      else partialOf t mode lanes cnt val idx ps es l j := by
  unfold partialOf
  rw [List.filter_append, List.foldl_append]
  by_cases mine : e % lanes = l ∧ idx e = j
  · rw [if_pos mine, List.filter_cons, if_pos (by simpa using mine)]
    rfl
  · rw [if_neg mine, List.filter_cons, if_neg (by simpa using mine)]
    rfl

/-- The flags of one element's addition to its partial, which the elements before it have reached. -/
def contribution (ps : List (BitVec 64)) (es : List Nat) (e : Nat) : Nat :=
  if idx e < cnt then (accumulate t mode (partialOf t mode lanes cnt val idx ps (es.filter fun x => decide (x < e)) (e % lanes) (idx e))
    (val e)).2
  else fINVALID

variable {t mode lanes cnt val idx}

/-- What the elements of an ascending list leave in each partial, and their flags. -/
theorem accumulateAll_spec {ps : List (BitVec 64)} (size : ps.length = lanes * cnt) (some : 0 < lanes) (es : List Nat)
    (ascending : es.Pairwise (· < ·)) :
    (accumulateAll t mode lanes cnt val idx es (ps, 0)).1.length = ps.length ∧
    (∀ l < lanes, ∀ j < cnt, (accumulateAll t mode lanes cnt val idx es (ps, 0)).1.getD (l * cnt + j) 0 =
      partialOf t mode lanes cnt val idx ps es l j) ∧
    (accumulateAll t mode lanes cnt val idx es (ps, 0)).2 = orAll (es.map (contribution t mode lanes cnt val idx ps es)) := by
  induction es using List.reverseRecOn with
  | nil => exact ⟨rfl, fun l _ j _ => rfl, rfl⟩
  | append_singleton es e ih =>
    rw [List.pairwise_append] at ascending
    obtain ⟨sorted, -, below⟩ := ascending
    have below : ∀ x ∈ es, x < e := fun x m => below x m e (List.mem_singleton.2 rfl)
    obtain ⟨length, parts, flags⟩ := ih sorted
    have earlier : (es ++ [e]).filter (fun x => decide (x < e)) = es := by
      rw [List.filter_append, List.filter_cons, if_neg (by simp), List.filter_nil, List.append_nil,
        List.filter_eq_self.2 fun x m => by simpa using below x m]
    have before : ∀ x ∈ es, contribution t mode lanes cnt val idx ps (es ++ [e]) x = contribution t mode lanes cnt val idx ps es x :=
      fun x m => by
        have same : (es ++ [e]).filter (fun y => decide (y < x)) = es.filter fun y => decide (y < x) := by
          have late := below x m
          rw [List.filter_append, List.filter_cons, if_neg (by simp; omega), List.filter_nil, List.append_nil]
        unfold contribution
        rw [same]
    have all : (es ++ [e]).map (contribution t mode lanes cnt val idx ps (es ++ [e])) =
        es.map (contribution t mode lanes cnt val idx ps es) ++ [contribution t mode lanes cnt val idx ps (es ++ [e]) e] := by
      rw [List.map_append, List.map_congr_left before]
      rfl
    have lane : e % lanes < lanes := Nat.mod_lt _ some
    rw [accumulateAll_append, all, orAll_append, orAll_singleton, ← flags]
    generalize reached : accumulateAll t mode lanes cnt val idx es (ps, 0) = acc at length parts ⊢
    obtain ⟨qs, fl⟩ := acc
    rw [accumulateAll]
    by_cases element : idx e < cnt
    · rw [if_pos element]
      have old : qs.getD (e % lanes * cnt + idx e) 0 = partialOf t mode lanes cnt val idx ps es (e % lanes) (idx e) :=
        parts _ lane _ element
      refine ⟨(List.length_set ..).trans length, fun l hl j hj => ?_, ?_⟩
      · show (qs.set _ _).getD _ 0 = _
        rw [partialOf_append_singleton, old]
        by_cases mine : e % lanes = l ∧ idx e = j
        · obtain ⟨rfl, rfl⟩ := mine
          have inside : e % lanes * cnt + idx e < qs.length := by
            rw [show qs.length = ps.length from length, size]
            exact place_lt element lane
          rw [if_pos ⟨rfl, rfl⟩, List.getD_eq_getElem _ _ (by rwa [List.length_set]), List.getElem_set_self]
          rfl
        · rw [if_neg mine, ← parts l hl j hj, List.getD_eq_getElem?_getD, List.getD_eq_getElem?_getD, List.getElem?_set_ne]
          exact fun same => mine (place_inj element hj same)
      · show fl ||| (accumulate t mode (qs.getD _ 0) (val e)).2 = fl ||| _
        unfold contribution
        rw [if_pos element, earlier, old]
    · rw [if_neg element]
      refine ⟨length, fun l hl j hj => ?_, ?_⟩
      · rw [partialOf_append_singleton, if_neg fun mine : e % lanes = l ∧ idx e = j => element (mine.2 ▸ hj)]
        exact parts l hl j hj
      · show fl ||| fINVALID = fl ||| _
        unfold contribution
        rw [if_neg element]

/-- Integer elements raise a flag only for an index that is no element. -/
theorem contributions_int (int : t.isInt = true) (ps : List (BitVec 64)) (es fs : List Nat) :
    orAll (es.map (contribution t mode lanes cnt val idx ps fs)) = if es.any (fun e => decide (cnt ≤ idx e)) then fINVALID else 0 := by
  have each : ∀ e, contribution t mode lanes cnt val idx ps fs e = if cnt ≤ idx e then fINVALID else 0 := fun e => by
    unfold contribution
    by_cases element : idx e < cnt
    · rw [if_pos element, accumulate_int int, if_neg (by omega)]
    · rw [if_neg element, if_pos (by omega)]
  induction es using List.reverseRecOn with
  | nil => rfl
  | append_singleton es e ih =>
    rw [List.map_append, orAll_append, ih, List.map_singleton, orAll_singleton, each, List.any_append]
    by_cases late : cnt ≤ idx e <;> cases es.any (fun e => decide (cnt ≤ idx e)) <;> simp [late]

end

end Sys2Proof.Machine
end

section
/-! The identity of a window, its partials, and the fold of a word. -/

namespace Sys2Proof.Machine

/-! ### Folding a window into memory -/

/-- The identity of a window's sums (R187). -/
def Hart.sumIdentity (h : Hart) (t : Ty) : Nat := if t.tag < 15 ∨ h.rmode = 3 then 0 else 2 ^ (t.w - 1)

theorem identity_window {t : Ty} (h : Hart) (tag : t.tag ∈ [3, 4, 7, 8, 15, 16]) :
    ROp.identity .sum t (noRsr h.rmodeN) = h.sumIdentity t := by
  have down : noRsr h.rmodeN = RDN ↔ h.rmode = 3 := by
    have mode : h.rmodeN = 3 ↔ h.rmode = 3 := ⟨fun same => BitVec.eq_of_toNat_eq same, fun same => congrArg BitVec.toNat same⟩
    rw [← mode]
    unfold noRsr RDN RNE RSR
    split <;> omega
  obtain ⟨tag', frac⟩ := t
  unfold Hart.sumIdentity
  simp only [List.mem_cons, List.not_mem_nil, or_false] at tag
  rcases tag with rfl | rfl | rfl | rfl | rfl | rfl
  · exact (if_pos (.inl (show 3 < 15 by decide))).symm
  · exact (if_pos (.inl (show 4 < 15 by decide))).symm
  · exact (if_pos (.inl (show 7 < 15 by decide))).symm
  · exact (if_pos (.inl (show 8 < 15 by decide))).symm
  all_goals
    exact if_congr (down.trans (by simp)) rfl rfl

theorem window_width {t : Ty} (tag : t.tag ∈ [3, 4, 7, 8, 15, 16]) : t.w = 32 ∨ t.w = 64 := by
  obtain ⟨tag', frac⟩ := t
  simp only [List.mem_cons, List.not_mem_nil, or_false] at tag
  rcases tag with rfl | rfl | rfl | rfl | rfl | rfl
  · exact .inl rfl
  · exact .inr rfl
  · exact .inl rfl
  · exact .inr rfl
  · exact .inl rfl
  · exact .inr rfl

theorem setWindow_same (h : Hart) (i : Nat) (x : Window) : (h.setWindow i x).window i = x := by
  unfold Hart.window Hart.setWindow
  simp

theorem setWindow_other (h : Hart) {i j : Nat} (x : Window) (hi : i < 4) (hj : j < 4) (ne : j ≠ i) :
    (h.setWindow i x).window j = h.window j := by
  unfold Hart.window Hart.setWindow
  rw [Vector.getElem_set_ne]
  omega

theorem set_places (f : Nat → Nat) (v : BitVec 64) (n : Nat) (ps : List (BitVec 64)) :
    ((List.range n).foldl (fun ps l => ps.set (f l) v) ps).length = ps.length ∧
    ∀ x < ps.length, ((List.range n).foldl (fun ps l => ps.set (f l) v) ps).getD x 0 =
      if ∃ l < n, f l = x then v else ps.getD x 0 := by
  induction n with
  | zero => exact ⟨rfl, fun x _ => (if_neg fun ⟨l, low, _⟩ => Nat.not_lt_zero l low).symm⟩
  | succ n ih =>
    obtain ⟨length, get⟩ := ih
    rw [List.range_succ, List.foldl_append, List.foldl_cons, List.foldl_nil]
    refine ⟨(List.length_set ..).trans length, fun x inside => ?_⟩
    by_cases mine : f n = x
    · rw [if_pos ⟨n, Nat.lt_succ_self n, mine⟩, mine, List.getD_eq_getElem _ _ (by rwa [List.length_set, length]), List.getElem_set_self]
    · rw [List.getD_eq_getElem?_getD, List.getElem?_set_ne mine, ← List.getD_eq_getElem?_getD, get x inside]
      refine if_congr ⟨fun ⟨l, low, same⟩ => ⟨l, by omega, same⟩, fun ⟨l, low, same⟩ => ⟨l, ?_, same⟩⟩ rfl rfl
      by_contra late
      exact mine (by rw [← same, show l = n by omega])

/-- The partials of one element at the identity, the others as they were. -/
theorem clearParts_spec {ps : List (BitVec 64)} {cnt lanes j : Nat} (ident : BitVec 64) (size : ps.length = lanes * cnt) (low : j < cnt) :
    (clearParts ps ident cnt lanes j).length = ps.length ∧ ∀ l < lanes, ∀ i < cnt,
      (clearParts ps ident cnt lanes j).getD (l * cnt + i) 0 = if i = j then ident else ps.getD (l * cnt + i) 0 := by
  obtain ⟨length, get⟩ := set_places (fun l => l * cnt + j) ident lanes ps
  refine ⟨length, fun l hl i hi => (get _ (size ▸ place_lt hi hl)).trans (if_congr ⟨fun ⟨l', _, same⟩ => ?_, fun same => ?_⟩ rfl rfl)⟩
  · exact (place_inj low hi same).2.symm
  · exact ⟨l, hl, by rw [same]⟩

theorem foldWord_congr {t : Ty} {mode cnt j old lanes : Nat} {ps qs : List (BitVec 64)}
    (same : ∀ l < lanes, ps.getD (l * cnt + j) 0 = qs.getD (l * cnt + j) 0) :
    foldWord t mode cnt j old ps lanes = foldWord t mode cnt j old qs lanes := by
  unfold foldWord
  induction lanes with
  | zero => rfl
  | succ n ih =>
    rw [List.range_succ, List.foldl_append, List.foldl_append, ih fun l hl => same l (by omega), List.foldl_cons, List.foldl_cons,
      same n (Nat.lt_succ_self n)]
    rfl

/-- An integer word takes the sum of its old value and every lane's partial. -/
theorem foldWord_int {t : Ty} (int : t.isInt = true) (mode cnt j : Nat) {y : Nat} (small : y < 2 ^ t.w) (ps : List (BitVec 64)) (lanes : Nat) :
    foldWord t mode cnt j y ps lanes =
      ((y + ((List.range lanes).map fun l => (ps.getD (l * cnt + j) 0).toNat % 2 ^ t.w).sum) % 2 ^ t.w, 0) := by
  have wide : (2 : Nat) ^ t.w ≤ 2 ^ 64 := Nat.pow_le_pow_right (by decide) (int_width int)
  unfold foldWord
  induction lanes with
  | zero => exact Prod.ext (Nat.mod_eq_of_lt small).symm rfl
  | succ n ih =>
    rw [List.range_succ, List.foldl_append, ih, List.foldl_cons, List.foldl_nil, accumulate_int int, List.map_append, List.sum_append]
    dsimp only
    refine Prod.ext ?_ rfl
    dsimp only
    generalize (List.range n).map _ = l
    have low : ∀ x, x % 2 ^ t.w < 2 ^ 64 := fun x => lt_of_lt_of_le (Nat.mod_lt _ (Nat.two_pow_pos _)) wide
    rw [BitVec.toNat_ofNat, BitVec.toNat_ofNat, Nat.mod_eq_of_lt (low _), Nat.mod_eq_of_lt (low _), Nat.mod_add_mod, List.map_singleton,
      List.sum_singleton, Nat.add_assoc]

end Sys2Proof.Machine
end

section
/-! A run of folds. -/

namespace Sys2Proof.Machine

/-! ### A run of folds -/

section
variable (s : State) (w : Nat) (pa : Nat → Nat)

/-- What a fold makes of the word of element `j`, by the partials at the start (R189). -/
def State.foldNew (j old : Nat) : Nat × Nat :=
  foldWord (s.hart.window w).ty s.hart.rmodeN (s.hart.window w).cnt j old (s.hart.window w).parts (8 * s.hart.w)

/-- Memory before the fold of each element. -/
def State.foldMem : Nat → List Host.Cell :=
  atomicMem pa ((s.hart.window w).ty.w / 8) (s.foldNew w) (fun _ => true) (s.drain fun k => k == 1).mem

/-- A fold's word in its turn. -/
def State.foldedWord (j : Nat) : Nat × Nat := s.foldNew w j (memRead (s.foldMem w pa j) (pa j) ((s.hart.window w).ty.w / 8))

/-- The identity to which a window's partials return. -/
def State.foldIdent : BitVec 64 := BitVec.ofNat 64 (ROp.identity .sum (s.hart.window w).ty (noRsr s.hart.rmodeN))

/-- A window with other partials. -/
def Window.withParts (x : Window) (ps : List (BitVec 64)) : Window := { x with parts := ps }

theorem State.upd_congr (s : State) {f g : Hart → Hart} (same : f s.hart = g s.hart) : s.upd f = s.upd g := by
  unfold State.upd
  rw [same]

/-- Element `j` folded at its place. -/
def State.foldStep (j at_ : Nat) : State :=
  (s.atomic at_ (natLe ((s.hart.window w).ty.w / 8) (s.foldNew w j ((s.drain fun k => k == 1).load (s.drain fun k => k == 1).hart 1 false at_
    ((s.hart.window w).ty.w / 8))).1)).upd fun h => (h.setWindow w ((s.hart.window w).withParts
      (clearParts (s.hart.window w).parts (s.foldIdent w) (s.hart.window w).cnt (8 * h.w) j))).raise
    (s.foldNew w j ((s.drain fun k => k == 1).load (s.drain fun k => k == 1).hart 1 false at_ ((s.hart.window w).ty.w / 8))).2

/-- The address of an element of the window. -/
def State.foldAddr (j : Nat) : Word := (s.hart.window w).base + BitVec.ofNat 64 (j * ((s.hart.window w).ty.w / 8))

theorem State.folds_of_ok {j : Nat} {js : List Nat} {p : Phys}
    (ok : s.accessRmw s.hart ((s.hart.window w).ty.w / 8) (s.foldAddr w j) = .ok p) :
    s.folds w (j :: js) = (s.foldStep w j p.pa).folds w js := by
  unfold State.foldAddr at ok
  rw [State.folds]
  dsimp only
  rw [ok]
  rfl

theorem State.folds_of_error {j : Nat} {js : List Nat} {f : Flt}
    (refused : s.accessRmw s.hart ((s.hart.window w).ty.w / 8) (s.foldAddr w j) = .error f) : s.folds w (j :: js) = (s, some (j, f)) := by
  unfold State.foldAddr at refused
  rw [State.folds]
  dsimp only
  rw [refused]

/-- `u` is `s` with the elements below `q` folded. -/
structure State.Folded (u : State) (q : Nat) : Prop where
  atomics : s.Atomics u
  drained : (u.drain fun k => k == 1).mem = s.foldMem w pa q
  stored : u.mem = if q = 0 then s.mem else s.foldMem w pa q
  others : ∀ m < 4, m ≠ w → u.hart.window m = s.hart.window m
  window : u.hart.window w = { s.hart.window w with parts := (u.hart.window w).parts }
  size : (u.hart.window w).parts.length = 8 * s.hart.w * (s.hart.window w).cnt
  parts : ∀ l < 8 * s.hart.w, ∀ j < (s.hart.window w).cnt, (u.hart.window w).parts.getD (l * (s.hart.window w).cnt + j) 0 =
    if j < q then s.foldIdent w else (s.hart.window w).parts.getD (l * (s.hart.window w).cnt + j) 0
  flags : u.hart.flags = s.hart.flags ||| BitVec.ofNat 64 (orAll ((List.range q).map fun j => (s.foldedWord w pa j).2))

/-- The word of element `j` passes its checks and lies in memory. -/
def State.FoldReached (j : Nat) : Prop :=
  (∃ attr, s.accessRmw s.hart ((s.hart.window w).ty.w / 8) (s.foldAddr w j) = .ok ⟨pa j, attr⟩) ∧
    pa j + (s.hart.window w).ty.w / 8 ≤ barBase

end

namespace State.Folded

variable {s u : State} {w q : Nat} {pa : Nat → Nat}

theorem start (size : (s.hart.window w).parts.length = 8 * s.hart.w * (s.hart.window w).cnt) : s.Folded w pa s 0 where
  atomics := .refl s
  drained := rfl
  stored := rfl
  others := fun _ _ _ => rfl
  window := rfl
  size := size
  parts := fun _ _ _ _ => rfl
  flags := (flags_or_zero s.hart).symm

theorem width (f : s.Folded w pa u q) : u.hart.w = s.hart.w := by rw [f.atomics.hart]

theorem rmodeN (f : s.Folded w pa u q) : u.hart.rmodeN = s.hart.rmodeN := by
  unfold Hart.rmodeN
  rw [f.atomics.hart]

theorem foldNew (f : s.Folded w pa u q) (inside : q < (s.hart.window w).cnt) (old : Nat) : u.foldNew w q old = s.foldNew w q old := by
  unfold State.foldNew
  rw [f.window, f.width, f.rmodeN]
  exact foldWord_congr fun l low => (f.parts l low q inside).trans (if_neg (Nat.lt_irrefl q))

theorem foldIdent (f : s.Folded w pa u q) : u.foldIdent w = s.foldIdent w := by
  unfold State.foldIdent
  rw [f.window, f.rmodeN]
  rfl

theorem foldAddr (f : s.Folded w pa u q) (j : Nat) : u.foldAddr w j = s.foldAddr w j := by
  unfold State.foldAddr
  rw [f.window]
  rfl

theorem element (f : s.Folded w pa u q) : (u.hart.window w).ty = (s.hart.window w).ty ∧ (u.hart.window w).cnt = (s.hart.window w).cnt := by
  rw [f.window]
  exact ⟨rfl, rfl⟩

theorem foldStep (f : s.Folded w pa u q) (inside : q < (s.hart.window w).cnt)
    (low : pa q + (s.hart.window w).ty.w / 8 ≤ barBase) :
    u.foldStep w q (pa q) = (u.atomic (pa q) (natLe ((s.hart.window w).ty.w / 8) (s.foldedWord w pa q).1)).upd fun h =>
      (h.setWindow w ((s.hart.window w).withParts
        (clearParts (u.hart.window w).parts (s.foldIdent w) (s.hart.window w).cnt (8 * s.hart.w) q))).raise (s.foldedWord w pa q).2 := by
  have word : u.foldNew w q ((u.drain fun k => k == 1).load (u.drain fun k => k == 1).hart 1 false (pa q) ((s.hart.window w).ty.w / 8)) =
      s.foldedWord w pa q := by
    rw [u.load_drained low, f.drained, f.foldNew inside]
    rfl
  unfold State.foldStep
  have same : ∀ ps, (u.hart.window w).withParts ps = (s.hart.window w).withParts ps := fun ps => by
    rw [f.window]
    rfl
  have lanes : (u.atomic (pa q) (natLe ((s.hart.window w).ty.w / 8) (s.foldedWord w pa q).1)).hart.w = s.hart.w := by
    rw [State.atomic_hart]
    exact f.width
  rw [f.element.1, f.element.2, word, f.foldIdent]
  refine State.upd_congr _ ?_
  rw [lanes, same]

/-- One more element folds. -/
theorem step (f : s.Folded w pa u q) (inside : q < (s.hart.window w).cnt) (known : w < 4) (wide : 0 < (s.hart.window w).ty.w / 8)
    (reached : s.FoldReached w pa q) : s.Folded w pa (u.foldStep w q (pa q)) (q + 1) := by
  obtain ⟨⟨attr, ok⟩, low⟩ := reached
  have bar : pa q < barBase := by omega
  have now := f.atomics.accessRmw_ok ok
  obtain ⟨length, cleared⟩ := clearParts_spec (s.foldIdent w) f.size inside
  have eq := f.foldStep inside low
  rw [eq]
  have atomics := State.Atomics.atomic now (bs := natLe ((s.hart.window w).ty.w / 8) (s.foldedWord w pa q).1) (natLe_length _ _)
  have prompt := u.atomic_prompt (pa q) (natLe ((s.hart.window w).ty.w / 8) (s.foldedWord w pa q).1)
  have hart := u.atomic_hart (pa q) (natLe ((s.hart.window w).ty.w / 8) (s.foldedWord w pa q).1)
  have mem := State.atomic_mem (s := u) (natLe ((s.hart.window w).ty.w / 8) (s.foldedWord w pa q).1) bar
  generalize u.atomic (pa q) (natLe ((s.hart.window w).ty.w / 8) (s.foldedWord w pa q).1) = v at *
  have windows : v.hart.windows = u.hart.windows := by rw [hart]
  have flags : v.hart.flags = u.hart.flags := by rw [hart]
  have after : v.mem = s.foldMem w pa (q + 1) := by
    rw [mem, f.drained]
    unfold State.foldMem
    rw [atomicMem_succ, if_pos rfl]
    rfl
  generalize written : (s.hart.window w).withParts
    (clearParts (u.hart.window w).parts (s.foldIdent w) (s.hart.window w).cnt (8 * s.hart.w) q) = x
  have parts : x.parts = clearParts (u.hart.window w).parts (s.foldIdent w) (s.hart.window w).cnt (8 * s.hart.w) q := by
    rw [← written]
    rfl
  have mine : ((v.upd fun h => (h.setWindow w x).raise (s.foldedWord w pa q).2).hart.window w) = x := setWindow_same v.hart w x
  refine ⟨(f.atomics.trans atomics).trans (.upd rfl), ?_, ?_, fun m hm ne => ?_, ?_, ?_, fun l hl j hj => ?_, ?_⟩
  · exact (congrArg State.mem (Hart.prompt.drain (s := v.upd fun h => (h.setWindow w x).raise (s.foldedWord w pa q).2)
      fun y held => prompt y held)).trans after
  · rw [if_neg (Nat.succ_ne_zero q)]
    exact after
  · refine (setWindow_other v.hart x known hm ne).trans (Eq.trans ?_ (f.others m hm ne))
    unfold Hart.window
    rw [windows]
  · rw [mine, ← written]
    rfl
  · rw [mine, parts, length, f.size]
  · rw [mine, parts, cleared l hl j hj]
    by_cases last : j = q
    · rw [if_pos last, if_pos (by omega)]
    · rw [if_neg last, f.parts l hl j hj]
      exact if_congr (by omega) rfl rfl
  · show v.hart.flags ||| _ = _
    rw [flags, f.flags, List.range_succ, List.map_append, orAll_append, List.map_singleton, orAll_singleton, BitVec.or_assoc,
      BitVec.ofNat_or]

/-- A run of folds whose words pass their checks. -/
theorem run (known : w < 4) (wide : 0 < (s.hart.window w).ty.w / 8) (k : Nat) {u : State} {q : Nat} (f : s.Folded w pa u q)
    (inside : q + k ≤ (s.hart.window w).cnt) (reached : ∀ j, q ≤ j → j < q + k → s.FoldReached w pa j) (rest : List Nat) :
    ∃ v, u.folds w (List.range' q k ++ rest) = v.folds w rest ∧ s.Folded w pa v (q + k) := by
  induction k generalizing u q with
  | zero => exact ⟨u, rfl, f⟩
  | succ k ih =>
    have here := reached q (Nat.le_refl q) (by omega)
    have next := f.step (by omega) known wide here
    obtain ⟨⟨attr, ok⟩, -⟩ := here
    have now : u.accessRmw u.hart ((u.hart.window w).ty.w / 8) (u.foldAddr w q) = .ok ⟨pa q, attr⟩ := by
      rw [f.element.1, f.foldAddr]
      exact f.atomics.accessRmw_ok ok
    obtain ⟨v, folds, done⟩ := ih next (by omega) fun j low high => reached j (by omega) (by omega)
    rw [List.range'_succ, List.cons_append, u.folds_of_ok w now]
    exact ⟨v, folds, by rwa [show q + (k + 1) = q + 1 + k by omega]⟩

end State.Folded

end Sys2Proof.Machine
end

section
/-! Opening, accumulating into and folding a window. -/

namespace Sys2Proof.Machine

/-! ### Opening and accumulating -/

section
variable {s : State} {d a b : Reg} {k : BitVec 3} {w x : BitVec 1}

theorem descriptor_fields {desc : Word} {c tag : Nat} (value : desc.toNat = c + tag * 2 ^ 32) (small : c < 2 ^ 32) (known : tag < 32) :
    bits desc.toNat 0 32 = c ∧ bits desc.toNat 32 5 = tag ∧ bits desc.toNat 37 27 = 0 := by
  unfold bits
  omega

/-- A window that opens. -/
theorem exec_accw (t : Ty) {c : Nat} (known : d.toNat < 4) (closed : (s.hart.window d.toNat).opened = false)
    (tag : t.tag ∈ [3, 4, 7, 8, 15, 16]) (value : (s.hart.rd b).toNat = c + t.tag * 2 ^ 32) (some : 1 ≤ c) (few : c ≤ 1024)
    (aligned : (s.hart.rd a).toNat % (t.w / 8) = 0) : exec (.accw d a b) s = .next (s.setHart ((s.hart.setWindow d.toNat
      { opened := true, base := s.hart.rd a, desc := s.hart.rd b
        parts := List.replicate (8 * s.hart.w * c) (BitVec.ofNat 64 (s.hart.sumIdentity t)) }).advance 4)) := by
  have low : t.tag < 32 := by
    simp only [List.mem_cons, List.not_mem_nil, or_false] at tag
    omega
  obtain ⟨count, type, rest⟩ := descriptor_fields value (by omega) low
  have takes : windowTag t.tag = true := by
    simp only [List.mem_cons, List.not_mem_nil, or_false] at tag
    unfold windowTag
    rcases tag with h | h | h | h | h | h <;> rw [h] <;> rfl
  have ident := identity_window (t := ⟨t.tag, 0⟩) s.hart tag
  show execAccw d a b s = _
  unfold execAccw Window.ty Window.cnt
  dsimp only
  rw [count, type, rest, if_neg, if_neg, State.done_eq]
  · unfold freshParts
    rw [ident]
    rfl
  · exact fun off => off aligned
  · simp only [closed, takes, bne_self_eq_false, Bool.not_true, Bool.or_false, Bool.or_eq_true, decide_eq_true_eq, beq_iff_eq]
    omega

/-- The specification of `vacc`'s frame. -/
def Hart.vaccSpec (h : Hart) (d a b : Reg) (k : BitVec 3) (w x : Bool) : VSpec :=
  { ill := decide (4 ≤ d.toNat) || !(h.window d.toNat).opened || !h.opOk a h.vl || !h.opOk b h.vl, tile := none
    mism := h.ty a != (h.window d.toNat).ty || !isIndexTy (h.ty b)
    srcs := [{ reg := a.toNat, grp := h.grp a, trap := w, need := h.vl },
             { reg := b.toNat, grp := h.grp b, trap := x, need := h.vl }], dsts := []
    sends := h.active k (h.ty a).w, lanewise := true, w := (h.ty a).w }

/-- What `vacc` leaves in a context. -/
def Hart.accumulated (h : Hart) (d a b : Reg) (k : BitVec 3) (t : Ty) (win : Window) : Hart :=
  (h.setWindow d.toNat (win.withParts (accumulateAll t h.rmodeN (8 * h.w) win.cnt (h.elems a) (h.elems b) (h.active k t.w)
    (win.parts, 0)).1)).raise
    (accumulateAll t h.rmodeN (8 * h.w) win.cnt (h.elems a) (h.elems b) (h.active k t.w) (win.parts, 0)).2

theorem exec_vacc_eq : exec (.vacc d a b k w x) s = s.vector (s.hart.vaccSpec d a b k (bit1 w) (bit1 x)) fun s' =>
    s'.done (s'.hart.accumulated d a b k (s.hart.ty a) (s.hart.window d.toNat)) := rfl

/-- An accumulation on whole registers. -/
theorem exec_vacc (plain : s.hart.Plain) (known : d.toNat < 4) (opened : (s.hart.window d.toNat).opened = true)
    (type : s.hart.ty a = (s.hart.window d.toNat).ty) (index : isIndexTy (s.hart.ty b) = true) (source : s.hart.opOk a s.hart.vl = true)
    (place : s.hart.opOk b s.hart.vl = true) (usableA : s.hart.usable a.toNat (s.hart.grp a))
    (usableB : s.hart.usable b.toNat (s.hart.grp b)) : exec (.vacc d a b k w x) s =
      .next (s.setHart ((s.hart.accumulated d a b k (s.hart.ty a) (s.hart.window d.toNat)).advance 4)) := by
  rw [exec_vacc_eq]
  refine vector_done s _ _ _ plain ?_ rfl ?_ ?_ (fun _ m => nomatch m) (State.done_eq _ _) rfl rfl rfl rfl rfl
  · show (decide (4 ≤ d.toNat) || !(s.hart.window d.toNat).opened || !s.hart.opOk a s.hart.vl || !s.hart.opOk b s.hart.vl) = false
    rw [opened, source, place, decide_eq_false (by omega)]
    rfl
  · show (s.hart.ty a != (s.hart.window d.toNat).ty || !isIndexTy (s.hart.ty b)) = false
    rw [type, index, bne_self_eq_false]
    rfl
  · intro y m
    rcases List.mem_cons.1 m with rfl | m
    · exact ⟨cfgGrp_pos _, usableA⟩
    · rcases List.mem_singleton.1 m with rfl
      exact ⟨cfgGrp_pos _, usableB⟩

theorem activeList_ascending (h : Hart) (k : BitVec 3) : (h.activeList k).Pairwise (· < ·) := List.pairwise_lt_range.filter _

theorem partialOf_before (t : Ty) (mode lanes cnt : Nat) (val idx : Nat → Nat) (ps : List (BitVec 64)) (es : List Nat) (e : Nat) :
    partialOf t mode lanes cnt val idx ps (es.filter fun x => decide (x < e)) (e % lanes) (idx e) =
      (es.filter fun x => decide (x < e) && decide (x % lanes = e % lanes) && decide (idx x = idx e)).foldl
        (fun p x => (accumulate t mode p (val x)).1) (ps.getD (e % lanes * cnt + idx e) 0) := by
  unfold partialOf
  rw [List.filter_filter]
  refine congrArg (fun l => List.foldl _ _ l) (List.filter_congr fun x _ => ?_)
  rw [Bool.and_comm, Bool.and_assoc]

end

/-! ### A window folded -/

section
variable {s u : State} {d : Reg} {close : Bool}

/-- How `accx` closes a window, and `accm` keeps it. -/
def Hart.closeWindow (h : Hart) (close : Bool) (d : Reg) : Hart :=
  if close then h.setWindow d.toNat { h.window d.toNat with opened := false, parts := [] } else h

theorem exec_fold : exec (if close then .accx d else .accm d) s = s.foldWindow d close := by
  cases close <;> rfl

theorem foldWindow_of_done (known : d.toNat < 4) (opened : (s.hart.window d.toNat).opened = true) (whole : s.hart.restart = none)
    (folds : s.folds d.toNat (List.range (s.hart.window d.toNat).cnt) = (u, none)) :
    s.foldWindow d close = .next (u.setHart ((u.hart.closeWindow close d).advance 4)) := by
  unfold State.foldWindow
  dsimp only
  rw [if_neg (by simp [opened]; omega), whole]
  simp only [Nat.zero_le, decide_true, List.filter_true]
  rw [folds]
  rfl

theorem foldWindow_of_fault {j : Nat} {f : Flt} (known : d.toNat < 4) (opened : (s.hart.window d.toNat).opened = true)
    (whole : s.hart.restart = none) (folds : s.folds d.toNat (List.range (s.hart.window d.toNat).cnt) = (u, some (j, f)))
    (w : Nat) : s.foldWindow d close = .next (u.faults { u.hart.elemTrap w [] j f with ctr := List.replicate 8 (BitVec.ofNat 16 j) }) := by
  unfold State.foldWindow State.faults
  dsimp only
  rw [if_neg (by simp [opened]; omega), whole]
  simp only [Nat.zero_le, decide_true, List.filter_true]
  rw [folds]
  by_cases undeclared : f.cause = cUndecl
  · exact (congrArg (fun v : State => v.take _) (if_pos undeclared)).trans (congrArg (fun v : State => Host.Outcome.next (v.taken _))
      (if_pos undeclared).symm)
  · exact (congrArg (fun v : State => v.take _) (if_neg undeclared)).trans (congrArg (fun v : State => Host.Outcome.next (v.taken _))
      (if_neg undeclared).symm)

theorem parts_all {ps : List (BitVec 64)} {lanes cnt : Nat} {v : BitVec 64} (size : ps.length = lanes * cnt) (some : 0 < cnt)
    (each : ∀ l < lanes, ∀ j < cnt, ps.getD (l * cnt + j) 0 = v) : ps = List.replicate (lanes * cnt) v := by
  refine List.ext_getElem (by rw [size, List.length_replicate]) fun i low _ => ?_
  have lane : i / cnt < lanes := Nat.div_lt_of_lt_mul (by rwa [size, Nat.mul_comm] at low)
  have here := each (i / cnt) lane (i % cnt) (Nat.mod_lt _ some)
  rw [Nat.div_add_mod', List.getD_eq_getElem _ _ low] at here
  rw [here, List.getElem_replicate]

end

end Sys2Proof.Machine
end

section
/-! Runs of folds in full; obligation O33. -/

namespace Sys2Proof.Machine

section
variable {s : State} {d : Reg} {pa : Nat → Nat}

/-- The elements that a fold performs, in order, and those from `q` on. -/
theorem folds_range {w cnt q : Nat} (inside : q ≤ cnt) : s.folds w (List.range cnt) = s.folds w (List.range' 0 q ++ List.range' q (cnt - q)) := by
  have all := List.range'_append_1 (s := 0) (m := q) (n := cnt - q)
  rw [Nat.zero_add, Nat.add_sub_cancel' inside] at all
  rw [all, List.range_eq_range']

/-- Memory before each fold of a run that ends at element `q`. -/
def State.foldMemTo (s : State) (w : Nat) (pa : Nat → Nat) (q j : Nat) : List Host.Cell := if q = 0 then s.mem else s.foldMem w pa j

theorem foldMemTo_eq {w q : Nat} (some : 0 < q) (j : Nat) : s.foldMemTo w pa q j = s.foldMem w pa j := if_neg (by omega)

/-- The context in which a fold ends. -/
def Hart.refolded (h k : Hart) : Hart := { h with windows := k.windows, flags := k.flags }

variable (plain : s.hart.Plain) (known : d.toNat < 4) (opened : (s.hart.window d.toNat).opened = true)
  (tag : (s.hart.window d.toNat).ty.tag ∈ [3, 4, 7, 8, 15, 16])
  (size : (s.hart.window d.toNat).parts.length = 8 * s.hart.w * (s.hart.window d.toNat).cnt)
include plain known opened tag size

omit plain opened in
/-- The words below `q` fold; what the fold does next is the same from there. -/
theorem folds_to {q : Nat} (inside : q ≤ (s.hart.window d.toNat).cnt) (reached : ∀ j < q, s.FoldReached d.toNat pa j) :
    ∃ u, s.folds d.toNat (List.range (s.hart.window d.toNat).cnt) =
      u.folds d.toNat (List.range' q ((s.hart.window d.toNat).cnt - q)) ∧ s.Folded d.toNat pa u q := by
  have wide : 0 < (s.hart.window d.toNat).ty.w / 8 := by
    rcases window_width tag with width | width <;> rw [width] <;> decide
  rw [folds_range inside]
  obtain ⟨u, folds, folded⟩ := (State.Folded.start size).run known wide q (by omega) (fun j _ high => reached j (by omega)) _
  exact ⟨u, folds, by rwa [Nat.zero_add] at folded⟩

/-- A fold whose word `q` fails a check. -/
theorem fold_faults {q : Nat} {f : Flt} (close : Bool) (inside : q < (s.hart.window d.toNat).cnt)
    (reached : ∀ j < q, s.FoldReached d.toNat pa j)
    (refused : s.accessRmw s.hart ((s.hart.window d.toNat).ty.w / 8) (s.foldAddr d.toNat q) = .error f)
    (held : f.cause = cMachine → s.hart.prompt) : ∃ u, s.Folded d.toNat pa u q ∧ exec (if close then .accx d else .accm d) s =
      .next (u.faults { s.hart.elemTrap (s.hart.window d.toNat).ty.w [] q f with ctr := List.replicate 8 (BitVec.ofNat 16 q) }) := by
  obtain ⟨u, folds, folded⟩ := folds_to known tag size (Nat.le_of_lt inside) reached
  have stops : s.folds d.toNat (List.range (s.hart.window d.toNat).cnt) = (u, some (q, f)) := by
    rw [folds, show (s.hart.window d.toNat).cnt - q = (s.hart.window d.toNat).cnt - q - 1 + 1 by omega, List.range'_succ]
    refine u.folds_of_error _ ?_
    rw [folded.element.1, folded.foldAddr]
    exact folded.atomics.accessRmw_error refused held
  refine ⟨u, folded, ?_⟩
  rw [exec_fold, foldWindow_of_fault known opened plain.whole stops (s.hart.window d.toNat).ty.w]
  unfold Hart.elemTrap
  rw [show u.hart.pc = s.hart.pc by rw [folded.atomics.hart]]

/-- A fold of every word. -/
theorem fold_completes (close : Bool) (reached : ∀ j < (s.hart.window d.toNat).cnt, s.FoldReached d.toNat pa j) : ∃ u,
    s.Folded d.toNat pa u (s.hart.window d.toNat).cnt ∧
      exec (if close then .accx d else .accm d) s = .next (u.setHart ((u.hart.closeWindow close d).advance 4)) := by
  obtain ⟨u, folds, folded⟩ := folds_to known tag size (Nat.le_refl _) reached
  rw [Nat.sub_self] at folds
  exact ⟨u, folded, exec_fold.trans (foldWindow_of_done known opened plain.whole folds)⟩

end

theorem State.foldIdent_eq {s : State} {w : Nat} (tag : (s.hart.window w).ty.tag ∈ [3, 4, 7, 8, 15, 16]) :
    s.foldIdent w = BitVec.ofNat 64 (s.hart.sumIdentity (s.hart.window w).ty) :=
  congrArg (BitVec.ofNat 64) (identity_window s.hart tag)

theorem closeWindow_other {h : Hart} {d : Reg} (close : Bool) (known : d.toNat < 4) {m : Nat} (low : m < 4) (ne : m ≠ d.toNat) :
    (h.closeWindow close d).window m = h.window m := by
  cases close with
  | true => exact setWindow_other h _ known low ne
  | false => rfl

theorem closeWindow_same (h : Hart) (d : Reg) (close : Bool) (open_ : (h.window d.toNat).opened = true) :
    (h.closeWindow close d).window d.toNat =
      { h.window d.toNat with opened := !close, parts := if close then [] else (h.window d.toNat).parts } := by
  cases close with
  | true => exact setWindow_same h _ _
  | false => exact (congrArg (fun b => ({ h.window d.toNat with opened := b } : Window)) open_)

theorem closeWindow_eq (h : Hart) (d : Reg) (close : Bool) :
    h.closeWindow close d = { h with windows := (h.closeWindow close d).windows } := by
  cases close <;> rfl

/-- Settles O33: a window's partials are those that `accumulateAll_spec` gives, and a fold is a run of atomic elements
(`State.Folded`). -/
theorem accumulationWindows : Obligations.AccumulationWindows := by
  unfold Obligations.AccumulationWindows
  refine ⟨fun s d a b k w x => ?_, fun s d close _ => ?_⟩
  · intro h n win t
    refine ⟨fun ty => ?_, fun plain known opened size type index source place usableA usableB => ?_⟩
    · intro c ident known closed tag value some few aligned opn
      exact exec_accw ty known closed tag value some few aligned
    · intro val idx
      have width := plain.width
      have lanes : 0 < 8 * h.w := by
        have : h.w ≠ 0 := fun zero => by
          rw [zero] at width
          exact nomatch width
        omega
      obtain ⟨length, parts, flags⟩ := accumulateAll_spec (t := t) (mode := h.rmodeN) (val := val) (idx := idx) size lanes
        (h.activeList k) (activeList_ascending h k)
      have same : h.accumulated d a b k t win = (h.setWindow n (win.withParts
          (accumulateAll t h.rmodeN (8 * h.w) win.cnt val idx (h.activeList k) (win.parts, 0)).1)).raise
          (accumulateAll t h.rmodeN (8 * h.w) win.cnt val idx (h.activeList k) (win.parts, 0)).2 := by
        unfold Hart.accumulated
        rw [elems_plain h plain, elems_plain h plain, active_list plain]
      have mine : ((h.accumulated d a b k t win).advance 4).window n = win.withParts
          (accumulateAll t h.rmodeN (8 * h.w) win.cnt val idx (h.activeList k) (win.parts, 0)).1 := by
        rw [same]
        exact setWindow_same h n _
      refine ⟨(h.accumulated d a b k t win).advance 4,
        (accumulateAll t h.rmodeN (8 * h.w) win.cnt val idx (h.activeList k) (win.parts, 0)).2,
        exec_vacc plain known opened type index source place usableA usableB, ?_, fun m low ne => ?_, ?_, ?_, fun l hl j hj => ?_, ?_, ?_⟩
      · rw [same]
        rfl
      · rw [same]
        exact setWindow_other h _ known low ne
      · rw [mine]
        rfl
      · rw [mine]
        exact length
      · rw [mine]
        exact parts l hl j hj
      · intro before
        rw [flags]
        refine congrArg orAll (List.map_congr_left fun e _ => ?_)
        unfold contribution
        rw [partialOf_before]
        rfl
      · intro int
        rw [flags, contributions_int int]
  · intro h n win t lanes ident plain known opened tag some size pa reached word
    have identity : s.foldIdent n = BitVec.ofNat 64 ident := State.foldIdent_eq tag
    refine ⟨fun q inside f low refused held => ?_, fun all => ?_⟩
    · obtain ⟨u, folded, run⟩ := fold_faults plain known opened tag size close inside low refused held
      refine ⟨u, h.refolded u.hart, s.foldMemTo n pa q, run, folded.atomics.atStore _ rfl, rfl, ?_, folded.stored, fun j below => ?_,
        folded.others, folded.window, fun l hl j hj => ?_, folded.flags.trans ?_⟩
      · unfold State.foldMemTo
        split <;> rfl
      · show s.foldMemTo n pa q (j + 1) = memStore (s.foldMemTo n pa q j) (pa j) (natLe (t.w / 8)
          (foldWord t h.rmode.toNat win.cnt j (memRead (s.foldMemTo n pa q j) (pa j) (t.w / 8)) win.parts lanes).1)
        rw [foldMemTo_eq (by omega), foldMemTo_eq (by omega)]
        exact atomicMem_succ j
      · rw [← identity]
        exact folded.parts l hl j hj
      · refine congrArg (fun l => h.flags ||| BitVec.ofNat 64 (orAll l)) (List.map_congr_left fun j m => ?_)
        have below := List.mem_range.1 m
        show (s.foldedWord n pa j).2 =
          (foldWord t h.rmode.toNat win.cnt j (memRead (s.foldMemTo n pa q j) (pa j) (t.w / 8)) win.parts lanes).2
        rw [foldMemTo_eq (by omega)]
        rfl
    · obtain ⟨u, folded, run⟩ := fold_completes plain known opened tag size close all
      have still : (u.hart.window n).opened = true := by
        rw [folded.window]
        exact opened
      have parts : (u.hart.window n).parts = List.replicate (lanes * win.cnt) (BitVec.ofNat 64 ident) := by
        refine parts_all folded.size some fun l hl j hj => ?_
        rw [folded.parts l hl j hj, if_pos hj, identity]
      have closed := closeWindow_eq u.hart d close
      have flags : (u.hart.closeWindow close d).flags = u.hart.flags := by rw [closed]
      refine ⟨_, h.refolded (u.hart.closeWindow close d), s.foldMem n pa, run, ⟨?_, folded.atomics.others⟩, rfl, rfl, ?_, fun j _ => ?_,
        fun m low ne => ?_, ?_, flags.trans folded.flags, fun int => ⟨?_, fun m j y small => foldWord_int int m win.cnt j small _ lanes⟩⟩
      · show (u.hart.closeWindow close d).advance 4 = _
        rw [closed]
        generalize (u.hart.closeWindow close d).windows = ws
        conv_lhs => rw [folded.atomics.hart]
        rfl
      · exact folded.stored.trans (if_neg some.ne')
      · exact atomicMem_succ j
      · exact (closeWindow_other close known low ne).trans (folded.others m low ne)
      · refine (closeWindow_same u.hart d close still).trans ?_
        rw [parts, folded.window]
      · refine (flags.trans folded.flags).trans ?_
        have zero : ∀ j, (s.foldedWord n pa j).2 = 0 := fun j => by
          have small : memRead (s.foldMem n pa j) (pa j) (t.w / 8) < 2 ^ t.w := by
            refine lt_of_lt_of_eq (memRead_lt _ _ _) ?_
            rw [show (256 : Nat) = 2 ^ 8 from rfl, ← Nat.pow_mul]
            rcases window_width tag with width | width
            · rw [show t.w = 32 from width]
            · rw [show t.w = 64 from width]
          exact congrArg Prod.snd (foldWord_int int _ _ _ small _ _)
        refine (congrArg (fun l => h.flags ||| BitVec.ofNat 64 (orAll l)) (List.map_congr_left fun j _ => zero j)).trans ?_
        rw [orAll_zeros]
        exact flags_or_zero h

end Sys2Proof.Machine
end

section
/-! Groups that elements land in, and the elements below one of them. -/

namespace Sys2Proof.Machine

/-! ### Elements that land bit for bit, and registers made empty -/

theorem Hart.setEmpty_v (h : Hart) (r q : Nat) (inside : q < 32) : (h.setFull false r).v q =
    if q = r % 32 then { h.v q with cfg := (h.v q).cfg &&& 0xFFF7FFFF } else h.v q := by
  unfold Hart.setFull Hart.setV Hart.v
  dsimp only
  by_cases here : q = r % 32
  · subst here
    simp
  · rw [if_neg here]
    simp only [Nat.mod_eq_of_lt inside]
    exact Vector.getElem_set_ne _ _ fun same => here same.symm

/-- Registers made empty: each named one has FE clear, whatever the order (R49). -/
theorem Hart.setEmpties_v (rs : List Nat) (h : Hart) {q : Nat} (inside : q < 32) : (h.setFulls false rs).v q =
    if q ∈ rs.map (· % 32) then { h.v q with cfg := (h.v q).cfg &&& 0xFFF7FFFF } else h.v q := by
  induction rs generalizing h with
  | nil => rfl
  | cons r rs ih =>
    show ((h.setFull false r).setFulls false rs).v q = _
    rw [ih, Hart.setEmpty_v _ _ _ inside, List.map_cons]
    by_cases here : q = r % 32
    · have twice : (h.v q).cfg &&& 0xFFF7FFFF &&& 0xFFF7FFFF = (h.v q).cfg &&& 0xFFF7FFFF := by
        rw [BitVec.and_assoc, BitVec.and_self]
      rw [if_pos here, if_pos (List.mem_cons.2 (.inl here))]
      split
      · rw [twice]
      · rfl
    · simp [here]

theorem members_mod {d g : Nat} (inside : d + g ≤ 32) {q : Nat} : q ∈ (members d g).map (· % 32) ↔ q ∈ members d g := by
  have same : (members d g).map (· % 32) = members d g := by
    refine (List.map_congr_left fun r m => ?_).trans (List.map_id _)
    have := (mem_members d g r).1 m
    exact Nat.mod_eq_of_lt (by omega)
  rw [same]

/-- A group that has been written and then made empty. -/
theorem GroupWritten.emptied {h h' k : Hart} {d g w : Nat} {act : Nat → Bool} {val : Nat → Nat} (inside : d + g ≤ 32)
    (written : GroupWritten h h' d g w id act val) (vregs : k.vregs = (h'.setFulls false (members d g)).vregs) (width : k.w = h'.w) :
    GroupWritten h k d g w (fun c => c &&& 0xFFF7FFFF) act val := by
  have reg : ∀ q < 32, k.v q = if q ∈ members d g then { h'.v q with cfg := (h'.v q).cfg &&& 0xFFF7FFFF } else h'.v q := fun q low => by
    have same : k.v q = (h'.setFulls false (members d g)).v q := by
      unfold Hart.v
      rw [vregs]
    rw [same, Hart.setEmpties_v _ _ low]
    exact if_congr (members_mod inside) rfl rfl
  refine ⟨fun e fits => (Eq.trans ?_ (written.elems e fits)), fun r m => ?_, fun r low out => ?_⟩
  · refine elem_congr h' k d g w e width fun q above below => ?_
    rw [reg q (by omega), if_pos ((mem_members d g q).2 ⟨above, below⟩)]
  · have := (mem_members d g r).1 m
    rw [reg r (by omega), if_pos m, written.config r m]
    rfl
  · rw [reg r low, if_neg out]
    exact written.others r low out

/-- Elements written bit for bit to a group under its own configuration. -/
theorem putRaw_list (s : State) (d g : Nat) (t : Ty) (l : List (Nat × Nat)) {act : Nat → Bool} {val : Nat → Nat}
    (own : s.hart.lane = none) (narrow : s.hart.w ≤ 8) (group : 0 < g) (usable : ∀ i ∈ members d g, s.hart.isBound i = false)
    (inside : d + g ≤ 32) (fits : ∀ p ∈ l, t.w * (p.1 + 1) ≤ 256 * s.hart.w * g)
    (last : ∀ e, l.reverse.find? (fun p => p.1 == e) = if act e then some (e, val e) else none) :
    ∃ h', s.putRaw d g t l = s.setHart h' ∧ h' = { s.hart with vregs := h'.vregs } ∧ GroupWritten s.hart h' d g t.w id act val := by
  have unbound : s.hart.isBound d = false := usable _ ((mem_members _ _ _).2 ⟨Nat.le_refl _, by omega⟩)
  obtain ⟨frame, written⟩ := writeGroup_spec s.hart d g t.w l act val (isXq_own _ _ own) usable inside narrow fits last
  refine ⟨s.hart.writeGroup d g t.w l, ?_, frame, written⟩
  unfold State.putRaw
  rw [if_neg (by simp [Hart.writeBound, unbound])]
  rfl

/-- A context with registers made empty until a producer lands (R49). -/
def Hart.produced (h : Hart) (regs : List Nat) (due : Nat) : Hart :=
  { h with vregs := (h.setFulls false regs).vregs, pend := h.pend ++ [⟨regs, due⟩] }

/-- The destinations of a long-latency producer outside a lane's turn (R49). -/
theorem produce_own (s : State) (regs : List Nat) (due : Nat) (own : s.hart.lane = none) :
    s.produce regs due = s.setHart (s.hart.produced regs due) := by
  unfold State.produce
  rw [if_neg (by simp [own]), State.upd]
  dsimp only
  rw [Hart.setFulls_eq]
  rfl

theorem elemTrap_congr {h h' : Hart} (pc : h'.pc = h.pc) (width : h'.w = h.w) (w : Nat) (act : List Nat) (q : Nat) (f : Flt) :
    h'.elemTrap w act q f = h.elemTrap w act q f := by
  unfold Hart.elemTrap Hart.counters
  rw [pc, width]

/-- The active elements below `q`. -/
def Hart.below (h : Hart) (k : BitVec 3) (q : Nat) : List Nat := (List.range q).filter (h.isActive k)

theorem below_eq {h : Hart} {k : BitVec 3} {q : Nat} (inside : q ≤ h.vl) : (h.activeList k).filter (fun e => decide (e < q)) = h.below k q := by
  unfold Hart.activeList Hart.below
  have split : List.range h.vl = List.range q ++ List.range' q (h.vl - q) := by
    have all := List.range'_append_1 (s := 0) (m := q) (n := h.vl - q)
    rw [Nat.zero_add, Nat.add_sub_cancel' inside] at all
    rw [List.range_eq_range', ← all, List.range_eq_range']
  have early : ∀ e ∈ (List.range q).filter (h.isActive k), decide (e < q) = true := fun e m =>
    decide_eq_true (List.mem_range.1 (List.mem_filter.1 m).1)
  have late : ∀ e ∈ (List.range' q (h.vl - q)).filter (h.isActive k), ¬decide (e < q) = true := fun e m low => by
    have := List.mem_range'_1.1 (List.mem_filter.1 m).1
    simp only [decide_eq_true_eq] at low
    omega
  rw [split, List.filter_append, List.filter_append, List.filter_eq_self.2 early, List.filter_eq_nil_iff.2 late, List.append_nil]

theorem below_vl (h : Hart) (k : BitVec 3) : h.below k h.vl = h.activeList k := rfl

theorem mem_below {h : Hart} {k : BitVec 3} {q e : Nat} : e ∈ h.below k q ↔ e < q ∧ h.isActive k e = true := by
  unfold Hart.below
  rw [List.mem_filter, List.mem_range]

theorem below_nodup (h : Hart) (k : BitVec 3) (q : Nat) : (h.below k q).Nodup := List.nodup_range.filter _

/-- The active elements in their order: those below an active element, it, and the rest. -/
theorem activeList_split {h : Hart} {k : BitVec 3} {q : Nat} (active : h.isActive k q = true) :
    ∃ rest, h.activeList k = h.below k q ++ q :: rest := by
  have inside := lt_of_isActive active
  refine ⟨(List.range' (q + 1) (h.vl - q - 1)).filter (h.isActive k), ?_⟩
  have all := List.range'_append_1 (s := 0) (m := q) (n := h.vl - q)
  rw [Nat.zero_add, Nat.add_sub_cancel' (Nat.le_of_lt inside), show h.vl - q = h.vl - q - 1 + 1 by omega, List.range'_succ] at all
  unfold Hart.activeList Hart.below
  rw [List.range_eq_range', ← all, List.filter_append, List.filter_cons, if_pos active, List.range_eq_range']

/-- One value for each of the active elements below `q`. -/
theorem find_below (h : Hart) (k : BitVec 3) (q : Nat) (val : Nat → Nat) (e : Nat) :
    ((h.below k q).map fun e => (e, val e)).reverse.find? (fun p => p.1 == e) =
      if decide (e < q) && h.isActive k e then some (e, val e) else none := by
  rw [find_act _ (below_nodup h k q) val e]
  exact if_congr (by rw [decide_eq_true_eq, mem_below, Bool.and_eq_true, decide_eq_true_eq]) rfl rfl

theorem opOk_fits {h : Hart} {d : Reg} (own : h.lane = none) (ok : h.opOk d h.vl = true) (width : (h.ty d).w ≠ 0) {k : BitVec 3} {q : Nat}
    (val : Nat → Nat) : ∀ p ∈ (h.below k q).map (fun e => (e, val e)), (h.ty d).w * (p.1 + 1) ≤ 256 * h.w * h.grp d := by
  intro p m
  obtain ⟨e, me, rfl⟩ := List.mem_map.1 m
  exact resOk_fits h d (h.ty d) (h.grp d) h.vl e (resOk_of_opOk ok) own width (lt_of_isActive (mem_below.1 me).2)

end Sys2Proof.Machine
end

section
/-! A run of vector atomics. -/

namespace Sys2Proof.Machine

/-! ### A run of vector atomics -/

/-- The elements of a vector atomic: operation, type, virtual and physical addresses, operands and mask. -/
structure Amos where
  op : VAmo
  t : Ty
  addr : Nat → Word
  opnd : Nat → Nat
  pa : Nat → Nat
  k : BitVec 3

section
variable (r : Amos) (s : State)

/-- What an element makes of its word (R184). -/
def Amos.new (e old : Nat) : Nat × Nat := r.op.apply r.t s.hart.rmodeN old (r.opnd e)

/-- Memory before each element. -/
def Amos.mem : Nat → List Host.Cell :=
  atomicMem r.pa (r.t.w / 8) (r.new s) (s.hart.isActive r.k) (s.drain fun k => k == 1).mem

/-- What memory holds at an element in its turn. -/
def Amos.old (e : Nat) : Nat := memRead (r.mem s e) (r.pa e) (r.t.w / 8)

/-- The result of an element and its flags. -/
def Amos.word (e : Nat) : Nat × Nat := r.new s e (r.old s e)

/-- Element `e` passes its checks and lies in memory. -/
def Amos.Reached (e : Nat) : Prop := (∃ attr, s.amoReach r.op r.t (r.addr e) = .ok ⟨r.pa e, attr⟩) ∧ r.pa e + r.t.w / 8 ≤ barBase

/-- `u` is `s` with the active elements below `q` performed. -/
structure Amos.Done (u : State) (q : Nat) : Prop where
  atomics : s.Atomics u
  windows : u.hart.windows = s.hart.windows
  flags : u.hart.flags = s.hart.flags
  drained : (u.drain fun k => k == 1).mem = r.mem s q
  stored : u.mem = if s.hart.below r.k q = [] then s.mem else r.mem s q

end

theorem State.amoReach_ok {s : State} {op : VAmo} {t : Ty} {va : Word} {p : Phys} (ok : s.amoReach op t va = .ok p) :
    s.accessRmw s.hart (t.w / 8) va = .ok p := by
  unfold State.amoReach at ok
  dsimp only at ok
  split at ok
  · cases ok
  · exact ok

namespace State.Atomics

variable {s u : State}

theorem amoToHost (h : s.Atomics u) (n : Nat) (va : Word) : u.amoToHost n va = s.amoToHost n va := by
  unfold State.amoToHost
  rw [h.accessed.translate, h.info]

theorem amoReach_ok (h : s.Atomics u) {op : VAmo} {t : Ty} {va : Word} {p : Phys} (ok : s.amoReach op t va = .ok p) :
    u.amoReach op t va = .ok p := by
  unfold State.amoReach at ok ⊢
  dsimp only at ok ⊢
  rw [h.amoToHost]
  split at ok
  · cases ok
  · next allowed => rw [if_neg allowed, h.accessRmw_ok ok]

theorem amoReach_error (h : s.Atomics u) {op : VAmo} {t : Ty} {va : Word} {f : Flt} (refused : s.amoReach op t va = .error f)
    (held : f.cause = cMachine → s.hart.prompt) : u.amoReach op t va = .error f := by
  unfold State.amoReach at refused ⊢
  dsimp only at refused ⊢
  rw [h.amoToHost]
  split at refused
  · next host => rw [if_pos host, refused]
  · next allowed => rw [if_neg allowed, h.accessRmw_error refused held]

end State.Atomics

namespace Amos.Done

variable {r : Amos} {s u : State} {q : Nat}

theorem start : r.Done s s 0 := ⟨.refl s, rfl, rfl, rfl, rfl⟩

theorem rmodeN (f : r.Done s u q) : u.hart.rmodeN = s.hart.rmodeN := by
  unfold Hart.rmodeN
  rw [f.atomics.hart]

theorem skip (f : r.Done s u q) (idle : s.hart.isActive r.k q = false) : r.Done s u (q + 1) := by
  have mem : r.mem s (q + 1) = r.mem s q := by
    unfold Amos.mem
    rw [atomicMem_succ, idle]
    rfl
  have below : s.hart.below r.k (q + 1) = s.hart.below r.k q := by
    unfold Hart.below
    rw [List.range_succ, List.filter_append, List.filter_cons, idle]
    exact List.append_nil _
  exact ⟨f.atomics, f.windows, f.flags, by rw [mem, f.drained], by rw [mem, below, f.stored]⟩

theorem step (f : r.Done s u q) (active : s.hart.isActive r.k q = true) (wide : 0 < r.t.w / 8) (reached : r.Reached s q) :
    r.Done s (u.atomic (r.pa q) (natLe (r.t.w / 8) (r.word s q).1)) (q + 1) := by
  obtain ⟨⟨attr, ok⟩, low⟩ := reached
  have atomics := State.Atomics.atomic (State.amoReach_ok (f.atomics.amoReach_ok ok))
    (bs := natLe (r.t.w / 8) (r.word s q).1) (natLe_length _ _)
  have hart := u.atomic_hart (r.pa q) (natLe (r.t.w / 8) (r.word s q).1)
  have mem : (u.atomic (r.pa q) (natLe (r.t.w / 8) (r.word s q).1)).mem = r.mem s (q + 1) := by
    rw [State.atomic_mem _ (by omega), f.drained]
    unfold Amos.mem
    rw [atomicMem_succ, if_pos active]
    rfl
  refine ⟨f.atomics.trans atomics, ?_, ?_, ?_, ?_⟩
  · rw [hart]
    exact f.windows
  · rw [hart]
    exact f.flags
  · rw [(u.atomic_prompt _ _).drain, mem]
  · rw [mem, if_neg]
    intro none
    have here : q ∈ s.hart.below r.k (q + 1) := mem_below.2 ⟨Nat.lt_succ_self q, active⟩
    rw [none] at here
    cases here

theorem amoEach_cons (f : r.Done s u q) (reached : r.Reached s q) (es : List Nat) :
    u.amoEach r.op r.t r.addr r.opnd (q :: es) =
      let rest := (u.atomic (r.pa q) (natLe (r.t.w / 8) (r.word s q).1)).amoEach r.op r.t r.addr r.opnd es
      (rest.1, (q, r.old s q) :: rest.2.1, (r.word s q).2 ||| rest.2.2.1, rest.2.2.2) := by
  obtain ⟨⟨attr, ok⟩, low⟩ := reached
  have old : (u.drain fun k => k == 1).load (u.drain fun k => k == 1).hart 1 false (r.pa q) (r.t.w / 8) = r.old s q := by
    rw [u.load_drained low, f.drained]
    rfl
  have mode : (u.drain fun k => k == 1).hart.rmodeN = s.hart.rmodeN := by
    rw [← f.rmodeN]
    unfold Hart.rmodeN
    rw [State.drain_hart]
  rw [State.amoEach, f.atomics.amoReach_ok ok]
  dsimp only
  rw [old, mode]
  rfl

/-- A run over active elements that pass their checks: each receives the old value of its word. -/
theorem run (wide : 0 < r.t.w / 8) (n : Nat) {u : State} {q : Nat} (f : r.Done s u q)
    (reached : ∀ e, q ≤ e → e < q + n → s.hart.isActive r.k e = true → r.Reached s e) (rest : List Nat) :
    ∃ v, r.Done s v (q + n) ∧ u.amoEach r.op r.t r.addr r.opnd ((List.range' q n).filter (s.hart.isActive r.k) ++ rest) =
      let after := v.amoEach r.op r.t r.addr r.opnd rest
      (after.1, ((List.range' q n).filter (s.hart.isActive r.k)).map (fun e => (e, r.old s e)) ++ after.2.1,
        orAll (((List.range' q n).filter (s.hart.isActive r.k)).map fun e => (r.word s e).2) ||| after.2.2.1, after.2.2.2) := by
  induction n generalizing u q with
  | zero => exact ⟨u, f, Prod.ext rfl (Prod.ext rfl (Prod.ext (Nat.zero_or _).symm rfl))⟩
  | succ n ih =>
    have later : ∀ e, q + 1 ≤ e → e < q + 1 + n → s.hart.isActive r.k e = true → r.Reached s e :=
      fun e low high => reached e (by omega) (by omega)
    rw [List.range'_succ, List.filter_cons, show q + (n + 1) = q + 1 + n by omega]
    cases active : s.hart.isActive r.k q with
    | false => exact ih (f.skip active) later
    | true =>
      have here := reached q (Nat.le_refl q) (by omega) active
      obtain ⟨v, done, each⟩ := ih (f.step active wide here) later
      refine ⟨v, done, ?_⟩
      rw [if_pos rfl, List.cons_append, f.amoEach_cons here, each, List.map_cons, List.map_cons]
      refine Prod.ext rfl (Prod.ext rfl (Prod.ext ?_ rfl))
      show (r.word s q).2 ||| (_ ||| _) = orAll ([(r.word s q).2] ++ _) ||| _
      rw [orAll_append, orAll_singleton, Nat.or_assoc]

end Amos.Done

end Sys2Proof.Machine
end

section
/-! The frame of a vector atomic. -/

namespace Sys2Proof.Machine

section
variable {s : State} {op : VAmo} {d a b : Reg} {k : BitVec 3} {x : Bool}

/-- The operands of a vector atomic in order (R119, R183). -/
structure State.AmoOperands (s : State) (op : VAmo) (d b : Reg) : Prop where
  plain : s.hart.Plain
  accepts : op.accepts (s.hart.ty d) = true
  data : s.hart.opOk d s.hart.vl = true
  index : s.hart.opOk b s.hart.vl = true
  indexType : isIndexTy (s.hart.ty b) = true
  exact : s.hart.info.det = true → isFloatTag (s.hart.ty d).tag = false
  usableD : s.hart.usable d.toNat (s.hart.grp d)
  usableB : s.hart.usable b.toNat (s.hart.grp b)

/-- The frame of a vector atomic. -/
def Hart.vamoSpec (h : Hart) (op : VAmo) (d b : Reg) (k : BitVec 3) (x : Bool) : VSpec :=
  { ill := !h.opOk d h.vl || !h.opOk b h.vl || (h.info.det && isFloatTag (h.ty d).tag) || h.isBound d.toNat, tile := none
    mism := !op.accepts (h.ty d) || !isIndexTy (h.ty b)
    srcs := [{ reg := b.toNat, grp := h.grp b, trap := x, need := h.vl }, { reg := d.toNat, grp := h.grp d, trap := false, need := 0 }]
    dsts := [{ reg := d.toNat, grp := h.grp d, cfg := none, len := h.vl }], sends := h.active k (h.ty d).w, lanewise := true
    w := (h.ty d).w }

theorem vamo_illegal (det : s.hart.info.det = true) (float : isFloatTag (s.hart.ty d).tag = true) : s.vamo op d a b k x = s.illegal := by
  have ill : (s.hart.vamoSpec op d b k x).ill = true := by
    show (!s.hart.opOk d s.hart.vl || !s.hart.opOk b s.hart.vl || (s.hart.info.det && isFloatTag (s.hart.ty d).tag) ||
      s.hart.isBound d.toNat) = true
    rw [det, float]
    simp
  unfold State.vamo State.vector
  exact if_pos (Bool.or_eq_true_iff.2 (.inl ill))

/-- The elements of the atomic at places `pa`. -/
def State.amos (s : State) (op : VAmo) (d a b : Reg) (k : BitVec 3) (pa : Nat → Nat) : Amos where
  op := op
  t := s.hart.ty d
  addr e := s.hart.rd a + BitVec.ofNat 64 (s.hart.elem b.toNat (s.hart.grp b) (s.hart.ty b).w e)
  opnd := s.hart.elem d.toNat (s.hart.grp d) (s.hart.ty d).w
  pa := pa
  k := k

namespace State.AmoOperands

variable (ops : s.AmoOperands op d b)
include ops

theorem unbound : s.hart.isBound d.toNat = false := isBound_base _ _ _ (cfgGrp_pos _) ops.usableD

theorem legal : (s.hart.vamoSpec op d b k x).ill = false := by
  show (!s.hart.opOk d s.hart.vl || !s.hart.opOk b s.hart.vl || (s.hart.info.det && isFloatTag (s.hart.ty d).tag) ||
    s.hart.isBound d.toNat) = false
  rw [ops.data, ops.index, ops.unbound]
  cases det : s.hart.info.det with
  | false => rfl
  | true =>
    rw [ops.exact det]
    rfl

theorem typed : (s.hart.vamoSpec op d b k x).mism = false := by
  show (!op.accepts (s.hart.ty d) || !isIndexTy (s.hart.ty b)) = false
  rw [ops.accepts, ops.indexType]
  rfl

theorem sources : ∀ y ∈ (s.hart.vamoSpec op d b k x).srcs, 0 < y.grp ∧ s.hart.usable y.reg y.grp := by
  intro y m
  rcases List.mem_cons.1 m with rfl | m
  · exact ⟨cfgGrp_pos _, ops.usableB⟩
  · rcases List.mem_singleton.1 m with rfl
    exact ⟨cfgGrp_pos _, ops.usableD⟩

theorem dests : ∀ y ∈ (s.hart.vamoSpec op d b k x).dsts, 0 < y.grp ∧ s.hart.usable y.reg y.grp := by
  intro y m
  rcases List.mem_singleton.1 m with rfl
  exact ⟨cfgGrp_pos _, ops.usableD⟩

theorem wide : 32 ≤ (s.hart.ty d).w := by
  have accepts := ops.accepts
  unfold VAmo.accepts at accepts
  simp only [Bool.and_eq_true, decide_eq_true_eq] at accepts
  exact accepts.1

theorem idle (none : s.hart.vl = 0) : s.vamo op d a b k x = .next (s.atPc (s.hart.pc + 4)) := by
  unfold State.vamo
  refine vector_done s (s.hart.vamoSpec op d b k x) _ { s.hart with pc := s.hart.pc + 4 } ops.plain ops.legal rfl ops.typed ops.sources
    ops.dests ?_ rfl rfl rfl rfl rfl
  dsimp only
  rw [if_pos none]
  rfl

/-- The elements that the instruction performs when nothing is left of a restart. -/
theorem elements : (s.hart.active k (s.hart.ty d).w).filter (fun e => !(0 : BitVec 8192).getLsbD e) = s.hart.activeList k := by
  rw [active_list ops.plain]
  exact List.filter_eq_self.2 fun e _ => by simp

/-- The elements below `q` performed and written to vd: what the instruction has made of the machine by then. -/
theorem landed {pa : Nat → Nat} {v : State} {q : Nat} (done : (s.amos op d a b k pa).Done s v q) (fl : Nat) :
    ∃ h1, (v.upd fun h => h.raise fl).putRaw d.toNat (s.hart.grp d) (s.hart.ty d) ((s.hart.below k q).map fun e =>
        (e, (s.amos op d a b k pa).old s e)) = v.setHart h1 ∧
      h1 = { s.hart with vregs := h1.vregs, flags := s.hart.flags ||| BitVec.ofNat 64 fl, wbuf := v.hart.wbuf, watch := v.hart.watch } ∧
      GroupWritten s.hart h1 d.toNat (s.hart.grp d) (s.hart.ty d).w id (fun e => decide (e < q) && s.hart.isActive k e)
        ((s.amos op d a b k pa).old s) := by
  have frame : (v.upd fun h => h.raise fl).hart = { s.hart with
      flags := s.hart.flags ||| BitVec.ofNat 64 fl, wbuf := v.hart.wbuf, watch := v.hart.watch } := by
    show v.hart.raise fl = _
    unfold Hart.raise
    rw [done.flags]
    conv_lhs => rw [done.atomics.hart, done.windows]
  have width : (s.hart.ty d).w ≠ 0 := by
    have := ops.wide
    omega
  obtain ⟨h1, put, only, written⟩ := putRaw_list (v.upd fun h => h.raise fl) d.toNat (s.hart.grp d) (s.hart.ty d)
    ((s.hart.below k q).map fun e => (e, (s.amos op d a b k pa).old s e)) (by rw [frame]; exact ops.plain.own)
    (by rw [frame]; exact grantWidth_le _ ops.plain.width) (cfgGrp_pos _)
    (fun i m => by rw [frame]; exact (ops.usableD i m).1) (opOk_base ops.data ops.plain.own)
    (by rw [frame]; exact opOk_fits ops.plain.own ops.data width _) (find_below s.hart k q _)
  refine ⟨h1, put, ?_, written.of_vregs (by rw [frame]) (by rw [frame])⟩
  rw [only, frame]

end State.AmoOperands

end

end Sys2Proof.Machine
end

section
/-! Vector atomics that complete, and their faults. -/

namespace Sys2Proof.Machine

section
variable {s : State} {op : VAmo} {d a b : Reg} {k : BitVec 3} {x : Bool} {pa : Nat → Nat}

/-- What the elements below `q` leave on FLAGS. -/
def Amos.flagsTo (r : Amos) (s : State) (q : Nat) : Nat := orAll ((s.hart.below r.k q).map fun e => (r.word s e).2)

/-- The completion map of the elements below `q` (R263). -/
def Hart.doneMap (h : Hart) (k : BitVec 3) (q : Nat) : BitVec 8192 := setBits 0 ((h.below k q).map fun e => (e, true))

theorem doneMap_getLsbD (h : Hart) (k : BitVec 3) (q : Nat) {e : Nat} (inside : e < 8192) :
    (h.doneMap k q).getLsbD e = decide (e ∈ h.below k q) := by
  unfold Hart.doneMap
  rw [setBits_getLsbD _ (fun _ => true) _ _ inside]
  by_cases m : e ∈ h.below k q <;> simp [m]

namespace State.AmoOperands

variable (ops : s.AmoOperands op d b)
include ops

theorem wideBytes : 0 < (s.hart.ty d).w / 8 := by
  have := ops.wide
  omega

/-- The run of elements as the instruction names them. -/
theorem amoEach_elements {z : State × List (Nat × Nat) × Nat × Option (Nat × Flt)} (each : s.amoEach op (s.hart.ty d)
      (s.amos op d a b k pa).addr (s.amos op d a b k pa).opnd (s.hart.activeList k) = z) :
    s.amoEach op (s.hart.ty d) (fun e => s.hart.rd a + BitVec.ofNat 64 (s.hart.elem b.toNat (s.hart.grp b) (s.hart.ty b).w e))
      (s.hart.elem d.toNat (s.hart.grp d) (s.hart.ty d).w)
      ((s.hart.active k (s.hart.ty d).w).filter fun e => !(0 : BitVec 8192).getLsbD e) = z := by
  rw [ops.elements]
  exact each

/-- A vector atomic whose elements all pass their checks. -/
theorem completes (some : 0 < s.hart.vl) (reached : ∀ e, s.hart.isActive k e = true → (s.amos op d a b k pa).Reached s e) :
    ∃ v h', (s.amos op d a b k pa).Done s v s.hart.vl ∧ s.vamo op d a b k x = .next (v.setHart h') ∧
      h' = { s.hart with
        vregs := h'.vregs, flags := s.hart.flags ||| BitVec.ofNat 64 ((s.amos op d a b k pa).flagsTo s s.hart.vl)
        pend := s.hart.pend ++ [⟨members d.toNat (s.hart.grp d), s.loadLat⟩], pc := s.hart.pc + 4, wbuf := v.hart.wbuf
        watch := v.hart.watch } ∧
      GroupWritten s.hart h' d.toNat (s.hart.grp d) (s.hart.ty d).w (fun c => c &&& 0xFFF7FFFF) (s.hart.isActive k)
        ((s.amos op d a b k pa).old s) := by
  obtain ⟨v, done, each⟩ := Amos.Done.start.run (r := s.amos op d a b k pa) ops.wideBytes s.hart.vl
    (fun e _ _ active => reached e active) []
  rw [List.append_nil, ← List.range_eq_range', Nat.zero_add] at *
  obtain ⟨h1, put, frame, written⟩ := ops.landed done ((s.amos op d a b k pa).flagsTo s s.hart.vl)
  have latency : v.loadLat = s.loadLat := by rw [done.atomics.accessed]
  have own : h1.lane = none := by
    rw [frame]
    exact ops.plain.own
  have group : d.toNat + s.hart.grp d ≤ 32 := opOk_base ops.data ops.plain.own
  refine ⟨v, (h1.produced (members d.toNat (s.hart.grp d)) s.loadLat).advance 4, done, ?_, ?_, ?_⟩
  · have body := ops.amoEach_elements (pa := pa) (z := (v, (s.hart.below k s.hart.vl).map (fun e =>
        (e, (s.amos op d a b k pa).old s e)), (s.amos op d a b k pa).flagsTo s s.hart.vl, none))
      (each.trans (Prod.ext rfl (Prod.ext (List.append_nil _) (Prod.ext (Nat.or_zero _) rfl))))
    unfold State.vamo
    refine vector_plain s _ (s.hart.vamoSpec op d b k x) _ ops.legal rfl ops.typed ops.sources ops.dests ?_ ?_ ?_ ?_ ?_ ?_
    · dsimp only
      rw [if_neg some.ne', ops.plain.whole, elems_plain _ ops.plain, elems_plain _ ops.plain]
      dsimp only
      rw [body]
      dsimp only
      rw [put, produce_own _ _ _ own]
      show State.done _ _ = _
      rw [State.done_eq, show (v.setHart h1).loadLat = s.loadLat from latency]
      rfl
    · show h1.pc + 4 ≠ s.hart.pc
      rw [frame]
      simp
    · exact (congrArg Hart.walked frame).trans ops.plain.unwalked
    · exact (congrArg Hart.taken frame).trans ops.plain.untaken
    · exact (congrArg Hart.limit frame).trans ops.plain.unlimited
    · exact (congrArg Hart.counted frame).trans ops.plain.uncounted
  · unfold Hart.produced
    generalize (h1.setFulls false (members d.toNat (s.hart.grp d))).vregs = vs
    show ({ h1 with vregs := vs, pend := h1.pend ++ [⟨members d.toNat (s.hart.grp d), s.loadLat⟩], pc := h1.pc + 4 } : Hart) = _
    rw [frame]
    rfl
  · refine (written.emptied (k := (h1.produced (members d.toNat (s.hart.grp d)) s.loadLat).advance 4) group rfl rfl).congr rfl rfl ?_
      fun e _ => rfl
    funext e
    cases active : s.hart.isActive k e with
    | false => exact Bool.and_false _
    | true => rw [decide_eq_true (lt_of_isActive active), Bool.and_self]

/-- A vector atomic whose element `q` fails a check. -/
theorem faults {q : Nat} {f : Flt} (active : s.hart.isActive k q = true)
    (refused : s.amoReach op (s.hart.ty d) ((s.amos op d a b k pa).addr q) = .error f) (held : f.cause = cMachine → s.hart.prompt)
    (reached : ∀ e < q, s.hart.isActive k e = true → (s.amos op d a b k pa).Reached s e) :
    ∃ v h', (s.amos op d a b k pa).Done s v q ∧ s.vamo op d a b k x = .next ((v.setHart h').faults
        { s.hart.elemTrap (s.hart.ty d).w (s.hart.activeList k) q f with performed := s.hart.doneMap k q }) ∧
      h' = { s.hart with vregs := h'.vregs, flags := s.hart.flags ||| BitVec.ofNat 64 ((s.amos op d a b k pa).flagsTo s q)
                         wbuf := v.hart.wbuf, watch := v.hart.watch } ∧
      GroupWritten s.hart h' d.toNat (s.hart.grp d) (s.hart.ty d).w id (fun e => decide (e < q) && s.hart.isActive k e)
        ((s.amos op d a b k pa).old s) := by
  obtain ⟨rest, elements⟩ := activeList_split active
  obtain ⟨v, done, each⟩ := Amos.Done.start.run (r := s.amos op d a b k pa) ops.wideBytes q
    (fun e _ high active => reached e (by omega) active) (q :: rest)
  rw [← List.range_eq_range', Nat.zero_add] at *
  obtain ⟨h1, put, frame, written⟩ := ops.landed done ((s.amos op d a b k pa).flagsTo s q)
  have some : 0 < s.hart.vl := Nat.lt_of_le_of_lt (Nat.zero_le q) (lt_of_isActive active)
  have stops : v.amoEach op (s.hart.ty d) (s.amos op d a b k pa).addr (s.amos op d a b k pa).opnd (q :: rest) = (v, [], 0, Option.some (q, f)) := by
    rw [State.amoEach, done.atomics.amoReach_error refused held]
  have plain : h1.Plain := by
    rw [frame]
    exact ⟨ops.plain.own, ops.plain.whole, ops.plain.unlimited, ops.plain.untaken, ops.plain.unwalked, ops.plain.uncounted, ops.plain.width⟩
  have list : h1.activeList k = s.hart.activeList k := by
    rw [frame]
    rfl
  refine ⟨v, h1, done, ?_, frame, written⟩
  have body := ops.amoEach_elements (pa := pa) (z := (v, (s.hart.below k q).map (fun e => (e, (s.amos op d a b k pa).old s e)),
      (s.amos op d a b k pa).flagsTo s q, Option.some (q, f))) (by
    rw [elements]
    refine each.trans ?_
    rw [show v.amoEach (s.amos op d a b k pa).op (s.amos op d a b k pa).t (s.amos op d a b k pa).addr (s.amos op d a b k pa).opnd
      (q :: rest) = (v, [], 0, Option.some (q, f)) from stops]
    exact Prod.ext rfl (Prod.ext (List.append_nil _) (Prod.ext (Nat.or_zero _) rfl)))
  unfold State.vamo
  refine vector_stops s _ (s.hart.vamoSpec op d b k x) _ ops.legal rfl ops.typed ops.sources ops.dests ?_ ?_
  · dsimp only
    rw [if_neg some.ne', ops.plain.whole, elems_plain _ ops.plain, elems_plain _ ops.plain]
    dsimp only
    rw [body]
    dsimp only
    rw [put, settle_nil _ _ plain.unwalked]
    have trap : ({ cause := f.cause, detail := f.detail, rpc := h1.pc, fel := true, fidx := q, faddr := f.faddr
                   ctr := h1.counters (s.hart.ty d).w (h1.owed k (s.hart.ty d).w) q
                   performed := (0 : BitVec 8192) ||| setBits 0 (((s.hart.below k q).map fun e =>
                     (e, (s.amos op d a b k pa).old s e)).map fun p => (p.1, true)) } : Trap) =
        { s.hart.elemTrap (s.hart.ty d).w (s.hart.activeList k) q f with performed := s.hart.doneMap k q } := by
      have ctr := congrArg Trap.ctr (elemTrap_congr (h := s.hart) (h' := h1) (by rw [frame]) (by rw [frame]) (s.hart.ty d).w
        (s.hart.activeList k) q f)
      have ctr : h1.counters (s.hart.ty d).w (s.hart.activeList k) q = s.hart.counters (s.hart.ty d).w (s.hart.activeList k) q := ctr
      have map : (0 : BitVec 8192) ||| setBits 0 (((s.hart.below k q).map fun e =>
          (e, (s.amos op d a b k pa).old s e)).map fun p => (p.1, true)) = s.hart.doneMap k q := by
        rw [List.map_map]
        exact BitVec.zero_or
      rw [owed_plain plain, list, ctr, map, show h1.pc = s.hart.pc by rw [frame]]
      rfl
    show State.take _ _ = _
    unfold State.faults
    rw [← trap]
    rfl
  · rw [State.faults_pc _ plain.own]
    show h1.pc = s.hart.pc
    rw [frame]

end State.AmoOperands

end

end Sys2Proof.Machine
end

section
/-! Memory and flags of a run; obligation O32. -/

namespace Sys2Proof.Machine

section
variable {s : State} {op : VAmo} {i : Instr} {d a b : Reg} {k sc : BitVec 3} {x : BitVec 1}

theorem exec_vamo (named : (op, i) ∈ [(VAmo.add, Instr.vamoAdd d a b k x sc), (.min, .vamoMin d a b k x sc),
    (.max, .vamoMax d a b k x sc), (.swap, .vamoSwap d a b k x sc)]) : exec i s = s.vamo op d a b k (bit1 x) := by
  simp only [List.mem_cons, List.not_mem_nil, or_false, Prod.mk.injEq] at named
  rcases named with ⟨rfl, rfl⟩ | ⟨rfl, rfl⟩ | ⟨rfl, rfl⟩ | ⟨rfl, rfl⟩
  all_goals rfl

end

/-- Memory before each element of a run that ends at element `q`. -/
def Amos.memTo (r : Amos) (s : State) (q e : Nat) : List Host.Cell := if s.hart.below r.k q = [] then s.mem else r.mem s e

section
variable (r : Amos) (s : State) (q : Nat)

theorem Amos.memTo_zero : r.memTo s q 0 = (if s.hart.below r.k q = [] then s else s.drain fun j => j == 1).mem := by
  unfold Amos.memTo
  split <;> rfl

theorem Amos.memTo_active {e : Nat} (low : e < q) (active : s.hart.isActive r.k e = true) : r.memTo s q e = r.mem s e :=
  if_neg fun none => by
    have here : e ∈ s.hart.below r.k q := mem_below.2 ⟨low, active⟩
    rw [none] at here
    cases here

theorem Amos.memTo_succ {e : Nat} (low : e < q) : r.memTo s q (e + 1) = if s.hart.isActive r.k e then
    memStore (r.memTo s q e) (r.pa e) (natLe (r.t.w / 8) (r.op.apply r.t s.hart.rmode.toNat (memRead (r.memTo s q e) (r.pa e) (r.t.w / 8))
      (r.opnd e)).1) else r.memTo s q e := by
  cases active : s.hart.isActive r.k e with
  | false =>
    have same : r.mem s (e + 1) = r.mem s e := by
      unfold Amos.mem
      rw [atomicMem_succ, active]
      rfl
    unfold Amos.memTo
    rw [same]
    rfl
  | true =>
    have here : s.hart.below r.k q ≠ [] := fun none => by
      have here : e ∈ s.hart.below r.k q := mem_below.2 ⟨low, active⟩
      rw [none] at here
      cases here
    have after : r.memTo s q (e + 1) = r.mem s (e + 1) := if_neg here
    rw [if_pos rfl, after, r.memTo_active s q low active]
    unfold Amos.mem
    rw [atomicMem_succ, if_pos active]
    rfl

/-- The flags of a run by the memory that each of its elements finds. -/
theorem Amos.flagsTo_eq : r.flagsTo s q = orAll ((s.hart.below r.k q).map fun e =>
    (r.op.apply r.t s.hart.rmode.toNat (memRead (r.memTo s q e) (r.pa e) (r.t.w / 8)) (r.opnd e)).2) := by
  unfold Amos.flagsTo
  refine congrArg orAll (List.map_congr_left fun e m => ?_)
  obtain ⟨low, active⟩ := mem_below.1 m
  rw [r.memTo_active s q low active]
  rfl

end

theorem stored_int {t : Ty} (int : t.isInt = true) (x : Nat) : t.stored x = x := by
  unfold Ty.stored
  rw [if_neg]
  rcases isInt_class int with cls | cls <;> rw [cls] <;> decide

theorem minMax_int {t : Ty} (int : t.isInt = true) (y z : Nat) : minMax false t y z = (if t.int y < t.int z then y else z, 0) ∧
    minMax true t y z = (if t.int y < t.int z then z else y, 0) := by
  unfold minMax
  rcases isInt_class int with cls | cls
  all_goals
    rw [cls]
    by_cases less : t.int y < t.int z <;> simp [less]

/-- Settles O32: a vector atomic is a run of atomic elements (`Amos.Done`), and its old values land in vd. -/
theorem vectorAtomics : Obligations.VectorAtomics := by
  unfold Obligations.VectorAtomics
  intro s op i d a b k sc x _ h t g n addr opnd named
  have run := exec_vamo (s := s) named
  refine ⟨fun det float => run.trans (vamo_illegal det float), fun plain accepts data index indexType exact usableD usableB => ?_⟩
  have ops : s.AmoOperands op d b := ⟨plain, accepts, data, index, indexType, exact, usableD, usableB⟩
  refine ⟨fun none => run.trans (ops.idle none), fun some pa reached => ?_, fun q f pa active refused held reached => ?_,
    fun int m y z _ small => ⟨compute_add_int int _ _ _, Prod.ext (stored_int int z) rfl, minMax_int int y z⟩⟩
  · obtain ⟨v, h', done, completes, frame, written⟩ := ops.completes (a := a) (x := bit1 x) (pa := pa) some reached
    refine ⟨v.setHart h', { h' with pc := h.pc, wbuf := h.wbuf, watch := h.watch }, (s.amos op d a b k pa).memTo s h.vl, run.trans completes,
      ⟨?_, done.atomics.others⟩, ?_, (s.amos op d a b k pa).memTo_zero s h.vl, fun e low => (s.amos op d a b k pa).memTo_succ s h.vl low,
      done.stored, ?_, ?_⟩
    · show h' = _
      rw [frame]
      rfl
    · generalize h'.vregs = vs at frame
      rw [frame]
    · rw [← below_vl]
      exact (congrArg Hart.flags frame).trans (congrArg (fun f => h.flags ||| BitVec.ofNat 64 f)
        ((s.amos op d a b k pa).flagsTo_eq s h.vl))
    · refine written.congr rfl rfl rfl fun e active => ?_
      exact congrArg (fun m => memRead m (pa e) n) ((s.amos op d a b k pa).memTo_active s h.vl (lt_of_isActive active) active).symm
  · obtain ⟨v, h', done, faults, frame, written⟩ := ops.faults (a := a) (x := bit1 x) (pa := pa) active refused held reached
    have below := below_eq (h := h) (k := k) (Nat.le_of_lt (lt_of_isActive active))
    refine ⟨v.setHart h', { h' with wbuf := h.wbuf, watch := h.watch }, (s.amos op d a b k pa).memTo s q, h.doneMap k q, run.trans faults,
      ⟨?_, done.atomics.others⟩, ?_, fun e inside => ?_, ?_, fun e low => (s.amos op d a b k pa).memTo_succ s q low, done.stored, ?_, ?_⟩
    · show h' = _
      rw [frame]
      rfl
    · generalize h'.vregs = vs at frame
      rw [frame]
    · rw [below]
      exact doneMap_getLsbD h k q inside
    · rw [below]
      exact (s.amos op d a b k pa).memTo_zero s q
    · rw [below]
      exact (congrArg Hart.flags frame).trans (congrArg (fun f => h.flags ||| BitVec.ofNat 64 f) ((s.amos op d a b k pa).flagsTo_eq s q))
    · refine written.congr rfl rfl rfl fun e m => ?_
      simp only [Bool.and_eq_true, decide_eq_true_eq] at m
      exact congrArg (fun w => memRead w (pa e) n) ((s.amos op d a b k pa).memTo_active s q m.1 m.2).symm

end Sys2Proof.Machine
end

section
/-! What stream S1 sees after its stores. -/

namespace Sys2Proof.Machine

/-! ### What stream S1 sees after its stores -/

theorem memGet_stored {m : List Host.Cell} (wf : Memory.wf m = true) (w : HeldWrite) {x : Nat} (low : x < barBase) :
    memGet (w.stored m) x = (w.byteAt false x).getD (memGet m x) := by
  unfold HeldWrite.stored HeldWrite.byteAt
  by_cases pad : w.pad = true
  · rw [if_pos (.inl pad), if_neg (by simp [pad])]
    rfl
  · have pad : w.pad = false := by simpa using pad
    by_cases bar : barBase ≤ w.addr
    · rw [if_pos (.inr bar), if_neg (by omega)]
      rfl
    · rw [if_neg (by simp [pad]; omega)]
      by_cases above : w.addr ≤ x
      · rw [if_pos ⟨pad, above⟩]
        by_cases inside : x - w.addr < w.data.length
        · have here := memGet_memStore_same w.data m w.addr (x - w.addr) wf inside
          rw [show w.addr + (x - w.addr) = x by omega] at here
          rw [here, List.getElem?_eq_getElem inside]
          rfl
        · rw [List.getElem?_eq_none (by omega), memGet_memStore_other _ _ _ _ wf (.inr (by omega))]
          rfl
      · rw [if_neg (by omega), memGet_memStore_other _ _ _ _ wf (.inl (by omega))]
        rfl

theorem stored_wf {m : List Host.Cell} (wf : Memory.wf m = true) (w : HeldWrite) : Memory.wf (w.stored m) = true := by
  unfold HeldWrite.stored
  split
  · exact wf
  · exact memStore_wf _ _ _ wf

/-- Held writes performed oldest first leave in each byte what the newest of them holds for it. -/
theorem memGet_foldl_stored (ws : List HeldWrite) {m : List Host.Cell} (wf : Memory.wf m = true) {x : Nat} (low : x < barBase) :
    Memory.wf (ws.foldl HeldWrite.stored m) = true ∧
      memGet (ws.foldl HeldWrite.stored m) x = (ws.reverse.findSome? fun w => w.byteAt false x).getD (memGet m x) := by
  induction ws using List.reverseRecOn with
  | nil => exact ⟨wf, rfl⟩
  | append_singleton ws w ih =>
    obtain ⟨kept, before⟩ := ih
    rw [List.foldl_append, List.foldl_cons, List.foldl_nil, List.reverse_append, List.reverse_singleton, List.singleton_append,
      List.findSome?_cons, memGet_stored kept w low, before]
    refine ⟨stored_wf kept w, ?_⟩
    cases w.byteAt false x <;> rfl

theorem State.sees_eq (s : State) {x : Nat} (low : x < barBase) : s.sees 1 x =
    (((s.hart.wbuf.filter fun w => w.stream == 1).reverse.findSome? fun w => w.byteAt false x)).getD (memGet s.mem x) := by
  unfold State.sees State.see
  cases (s.hart.wbuf.filter fun w => w.stream == 1).reverse.findSome? fun w => w.byteAt false x with
  | some b => rfl
  | none => exact if_neg (Nat.not_le.2 low)

theorem State.sees_prompt {s : State} (prompt : s.hart.prompt) {x : Nat} (low : x < barBase) : s.sees 1 x = memGet s.mem x := by
  have none : (s.hart.wbuf.filter fun w => w.stream == 1) = [] := List.filter_eq_nil_iff.2 fun w m => by simpa using prompt w m
  rw [s.sees_eq low, none]
  rfl

theorem State.sees_drain {s : State} (inv : s.MemInv) {x : Nat} (low : x < barBase) : (s.drain fun k => k == 1).sees 1 x = s.sees 1 x := by
  rw [State.sees_prompt s.drain_prompt low, State.drain_mem, (memGet_foldl_stored _ inv.1 low).2, s.sees_eq low]

/-- What stream S1 sees after one of its stores: the bytes stored, and elsewhere what it saw. -/
theorem State.sees_store {s : State} (inv : s.MemInv) (now : Bool) {a : Nat} {bs : List Byte} (memory : a + bs.length ≤ barBase) {x : Nat}
    (low : x < barBase) : (s.store 1 now false a bs).sees 1 x = if a ≤ x then (bs[x - a]?).getD (s.sees 1 x) else s.sees 1 x := by
  unfold State.store
  split
  · have newest : ((s.hart.wbuf ++ [({ stream := 1, pad := false, addr := a, data := bs } : HeldWrite)]).filter fun w => w.stream == 1).reverse =
        { stream := 1, pad := false, addr := a, data := bs } :: (s.hart.wbuf.filter fun w => w.stream == 1).reverse := by
      rw [List.filter_append, List.reverse_append]
      rfl
    rw [State.sees_eq _ low, s.sees_eq low]
    show (List.findSome? _ ((s.hart.wbuf ++ [({ stream := 1, pad := false, addr := a, data := bs } : HeldWrite)]).filter fun w => w.stream == 1).reverse).getD (memGet s.mem x) = _
    rw [newest, List.findSome?_cons]
    unfold HeldWrite.byteAt
    dsimp only
    by_cases above : a ≤ x
    · rw [if_pos ⟨rfl, above⟩, if_pos above]
      cases bs[x - a]? <;> rfl
    · rw [if_neg fun h => above h.2, if_neg above]
  · cases bs with
    | nil =>
      have idle : ((s.drain fun j => j == 1).commit false a []).sees 1 x = (s.drain fun j => j == 1).sees 1 x := by
        have prompt : ((s.drain fun j => j == 1).commit false a []).hart.prompt := by
          rw [State.commit_hart]
          exact s.drain_prompt
        rw [State.sees_prompt prompt low, State.sees_prompt s.drain_prompt low]
        have kept := State.commit_mem (s.drain fun j => j == 1) ⟨1, false, a, []⟩
        rw [show ((s.drain fun j => j == 1).commit false a []).mem = _ from kept]
        unfold HeldWrite.stored
        split <;> rfl
      rw [idle, State.sees_drain inv low]
      split <;> rfl
    | cons b bs =>
      have bar : a < barBase := by
        rw [List.length_cons] at memory
        omega
      have prompt : ((s.drain fun j => j == 1).commit false a (b :: bs)).hart.prompt := by
        rw [State.commit_hart]
        exact s.drain_prompt
      have wf := (s.drain_memInv (fun j => j == 1) inv).1
      rw [State.sees_prompt prompt low, show ((s.drain fun j => j == 1).commit false a (b :: bs)).mem = _ from
        State.commitMem_mem (s.drain fun j => j == 1) (b :: bs) bar, ← State.sees_drain inv low, State.sees_prompt s.drain_prompt low]
      by_cases above : a ≤ x
      · rw [if_pos above]
        by_cases inside : x - a < (b :: bs).length
        · have here := memGet_memStore_same (b :: bs) _ a (x - a) wf inside
          rw [show a + (x - a) = x by omega] at here
          rw [here, List.getElem?_eq_getElem inside]
          rfl
        · rw [List.getElem?_eq_none (by omega), memGet_memStore_other _ _ _ _ wf (.inr (by omega))]
          rfl
      · rw [if_neg above, memGet_memStore_other _ _ _ _ wf (.inl (by omega))]

theorem natLe_getElem? (n v : Nat) {i : Nat} (inside : i < n) : (natLe n v)[i]? = some (BitVec.ofNat 8 (v / 256 ^ i)) := by
  induction n generalizing v i with
  | zero => exact absurd inside (Nat.not_lt_zero i)
  | succ n ih =>
    cases i with
    | zero => simp [natLe]
    | succ i =>
      rw [natLe, List.getElem?_cons_succ, ih _ (by omega), Nat.div_div_eq_div_mul, Nat.pow_succ']

theorem byte_testBit (v i : Nat) {j : Nat} (low : j < 8) : (BitVec.ofNat 8 (v / 256 ^ i)).getLsbD j = v.testBit (8 * i + j) := by
  rw [BitVec.getLsbD_ofNat, decide_eq_true low, Bool.true_and, show (256 : Nat) = 2 ^ 8 from rfl, ← Nat.pow_mul, Nat.testBit_div_two_pow,
    Nat.add_comm]

/-- Bits of a number replaced by those of another (R173). -/
theorem replaced_testBit (old : Nat) {b w v : Nat} (small : v < 2 ^ w) (j : Nat) :
    (old - old / 2 ^ b % 2 ^ w * 2 ^ b + v * 2 ^ b).testBit j =
      if j < b then old.testBit j else if j < b + w then v.testBit (j - b) else old.testBit j := by
  have parts : old - old / 2 ^ b % 2 ^ w * 2 ^ b + v * 2 ^ b = 2 ^ b * (2 ^ w * (old / 2 ^ b / 2 ^ w) + v) + old % 2 ^ b := by
    have low := Nat.div_add_mod old (2 ^ b)
    have high := Nat.div_add_mod (old / 2 ^ b) (2 ^ w)
    generalize old % 2 ^ b = lo at *
    generalize old / 2 ^ b = q at *
    generalize q % 2 ^ w = mid at *
    generalize q / 2 ^ w = hi at *
    generalize 2 ^ b = B at *
    generalize 2 ^ w = W at *
    subst high low
    have rest : B * (W * hi + mid) + lo - mid * B = B * (W * hi) + lo := by
      rw [Nat.mul_add, Nat.mul_comm mid B]
      omega
    rw [rest]
    ring
  rw [parts, Nat.testBit_two_pow_mul_add _ (Nat.mod_lt _ (Nat.two_pow_pos b))]
  by_cases below : j < b
  · rw [if_pos below, if_pos below, Nat.testBit_mod_two_pow, decide_eq_true below, Bool.true_and]
  · rw [if_neg below, if_neg below, Nat.testBit_two_pow_mul_add _ small]
    by_cases inside : j < b + w
    · rw [if_pos (by omega), if_pos inside]
    · rw [if_neg (by omega), if_neg inside, Nat.testBit_div_two_pow, Nat.testBit_div_two_pow]
      congr 1
      omega

end Sys2Proof.Machine
end

section
/-! One element stored. -/

namespace Sys2Proof.Machine

/-! ### One element stored -/

/-- `u` is `s` after stores: the hart's registers and the other harts are as they were, and so are the checks of writes. -/
structure State.Stores (s u : State) : Prop where
  accessed : s.Accessed u
  hart : u.hart = { s.hart with wbuf := u.hart.wbuf, watch := u.hart.watch }
  others : u.others = s.others
  memInv : s.MemInv → u.MemInv

namespace State.Stores

variable {s t u : State}

theorem refl (s : State) : s.Stores s := ⟨.refl s, rfl, rfl, fun inv => inv⟩

theorem trans (h : s.Stores t) (k : t.Stores u) : s.Stores u := by
  refine ⟨h.accessed.trans k.accessed, ?_, k.others.trans h.others, fun inv => k.memInv (h.memInv inv)⟩
  conv_lhs => rw [k.hart, h.hart]

theorem drain (s : State) (sel : Nat → Bool) : s.Stores (s.drain sel) := by
  refine ⟨(Accessed.refl s).drain sel, ?_, s.drain_others sel, s.drain_memInv sel⟩
  rw [State.drain_hart]

theorem store (s : State) (k : Nat) (now pad : Bool) (a : Nat) (bs : List Byte) : s.Stores (s.store k now pad a bs) := by
  refine ⟨?_, s.store_hart k now pad a bs, s.store_others k now pad a bs, s.store_memInv k now pad a bs⟩
  unfold State.store
  split
  · exact (Accessed.refl s).upd _
  · exact ((Accessed.refl s).drain _).commit _ _ _

theorem writeBits (s : State) (q : Phys) (b : Nat) : s.Stores (s.writeBits q b) :=
  have stores := store s 1 true false q.pa [BitVec.ofNat 8 b]
  ⟨stores.accessed.trans rfl, stores.hart, stores.others, stores.memInv⟩

theorem access (h : s.Stores u) (n : Nat) (va : Word) : u.access u.hart .write n va = s.access s.hart .write n va := by
  rw [u.access_hart (h := s.hart) (by rw [h.hart]) (by rw [h.hart]) (by rw [h.hart]), h.accessed.access_write]

/-- A write's place is found, or not, as before. -/
theorem reach (h : s.Stores u) (w : Nat) (p : Place) : u.reach .write w p = s.reach .write w p := by
  have both : u.both u.hart = s.both s.hart := by
    rw [u.both_hart (h := s.hart) (by rw [h.hart])]
    funext a b
    unfold State.both
    rw [h.accessed.orderOf]
  unfold State.reach
  rw [h.access, h.access, h.access, both]

theorem atStore (h : s.Stores u) : s.AtStore u (fun h => h) := ⟨h.hart, h.others⟩

end State.Stores

/-- The forms of a place that is found: whole bytes, bits within one byte, or bits across two. -/
theorem reach_forms {s : State} {acc : Acc} {w : Nat} {p : Place} {l : List Phys} (reach : s.reach acc w p = .ok l) :
    (∃ q, l = [q] ∧ (8 ≤ w ∧ p.bit = 0 ∨ w < 8 ∧ p.bit + w ≤ 8)) ∨ ∃ q q', l = [q, q'] ∧ w < 8 ∧ 8 < p.bit + w := by
  unfold State.reach Place.bytes at reach
  by_cases whole : 8 ≤ w
  · rw [if_pos whole] at reach
    split at reach
    · cases reach
    · split at reach
      · cases reach
      · next aligned =>
        cases found : s.access s.hart acc (w / 8) p.va with
        | error f => rw [found] at reach; cases reach
        | ok q =>
          rw [found] at reach
          cases reach
          exact .inl ⟨q, rfl, .inl ⟨whole, Decidable.of_not_not aligned⟩⟩
  · rw [if_neg whole] at reach
    split at reach
    · next one =>
      cases found : s.access s.hart acc 1 p.va with
      | error f => rw [found] at reach; cases reach
      | ok q =>
        rw [found] at reach
        cases reach
        exact .inl ⟨q, rfl, .inr ⟨by omega, by omega⟩⟩
    · next two =>
      cases found : s.both s.hart (s.access s.hart acc 1 p.va) (s.access s.hart acc 1 (p.va + 1)) with
      | error f => rw [found] at reach; cases reach
      | ok q =>
        rw [found] at reach
        cases reach
        exact .inr ⟨q.1, q.2, rfl, by omega, by omega⟩

theorem State.sees_writeBits {s : State} (inv : s.MemInv) {q : Phys} (b : Nat) (memory : q.pa < barBase) {x : Nat} (low : x < barBase) :
    (s.writeBits q b).sees 1 x = if x = q.pa then BitVec.ofNat 8 b else s.sees 1 x := by
  refine (State.sees_store inv true (a := q.pa) (bs := [BitVec.ofNat 8 b]) memory low).trans ?_
  by_cases here : x = q.pa
  · rw [if_pos here, here, if_pos (Nat.le_refl _), Nat.sub_self]
    rfl
  · rw [if_neg here]
    split
    · rw [List.getElem?_eq_none (by rw [List.length_singleton]; omega)]
      rfl
    · rfl

theorem State.load_one (s : State) (a : Nat) : s.load s.hart 1 false a 1 = (s.sees 1 a).toNat := rfl

theorem getLsbD_testBit (b : Byte) (j : Nat) : b.getLsbD j = b.toNat.testBit j := rfl

theorem ofNat_testBit (v : Nat) {j : Nat} (low : j < 8) : (BitVec.ofNat 8 v).getLsbD j = v.testBit j := by
  rw [BitVec.getLsbD_ofNat, decide_eq_true low, Bool.true_and]

/-- An element stored: its bits take the value's, and every other bit that stream S1 sees stays (R171, R173). -/
def State.Placed (s u : State) (w : Nat) (p : Place) (l : List Phys) (v : Nat) : Prop :=
  s.Stores u ∧ (∀ j < w, u.seesBit 1 (spot l p j) = v.testBit j) ∧
    ∀ y < barBase, ∀ j < 8, (∀ j' < w, spot l p j' ≠ (y, j)) → u.seesBit 1 (y, j) = s.seesBit 1 (y, j)

section
variable {s : State} {w v : Nat} {p : Place}

theorem placed_whole (inv : s.MemInv) (now : Bool) {q : Phys} (whole : 8 * (w / 8) = w) (some : 0 < w) (aligned : p.bit = 0)
    (low : ∀ j < w, (spot [q] p j).1 < barBase) : s.Placed (s.store 1 now false q.pa (natLe (w / 8) v)) w p [q] v := by
  have place : ∀ i, spot [q] p i = (q.pa + i / 8, i % 8) := fun i => by
    show (q.pa + (p.bit + i) / 8, (p.bit + i) % 8) = _
    rw [aligned, Nat.zero_add]
  have memory : q.pa + (natLe (w / 8) v).length ≤ barBase := by
    have last := low (w - 1) (by omega)
    rw [place] at last
    rw [natLe_length]
    dsimp only at last
    omega
  refine ⟨.store .., fun j inside => ?_, fun y ylow j jlow apart => ?_⟩
  · have here := low j inside
    rw [place] at here ⊢
    unfold State.seesBit
    rw [State.sees_store inv now memory here, if_pos (Nat.le_add_right ..), Nat.add_sub_cancel_left, natLe_getElem? _ _ (by omega)]
    show (BitVec.ofNat 8 (v / 256 ^ (j / 8))).getLsbD (j % 8) = _
    rw [byte_testBit _ _ (Nat.mod_lt _ (by decide)), Nat.div_add_mod]
  · unfold State.seesBit
    rw [State.sees_store inv now memory ylow]
    by_cases above : q.pa ≤ y
    · rw [if_pos above]
      by_cases inside : y - q.pa < w / 8
      · refine absurd ?_ (apart (8 * (y - q.pa) + j) (by omega))
        rw [place]
        exact Prod.ext (by dsimp only; omega) (by dsimp only; omega)
      · rw [List.getElem?_eq_none (by rw [natLe_length]; omega)]
        rfl
    · rw [if_neg above]

/-- The bits of a byte, or of two, with those of an element replaced. -/
def replaceBits (old b w v : Nat) : Nat := old - old / 2 ^ b % 2 ^ w * 2 ^ b + v * 2 ^ b

theorem placed_byte (inv : s.MemInv) {q : Phys} (some : 0 < w) (one : p.bit + w ≤ 8) (small : v < 2 ^ w)
    (low : ∀ j < w, (spot [q] p j).1 < barBase) : s.Placed ((s.drain fun k => k == 1).writeBits q
      (replaceBits ((s.drain fun k => k == 1).load (s.drain fun k => k == 1).hart 1 false q.pa 1) p.bit w v)) w p [q] v := by
  have place : ∀ i < w, spot [q] p i = (q.pa, p.bit + i) := fun i inside => by
    show (q.pa + (p.bit + i) / 8, (p.bit + i) % 8) = _
    rw [Nat.div_eq_of_lt (by omega), Nat.mod_eq_of_lt (by omega), Nat.add_zero]
  have memory : q.pa < barBase := by
    have first := low 0 some
    rwa [place 0 some] at first
  have after := s.drain_memInv (fun k => k == 1) inv
  have old : ((s.drain fun k => k == 1).sees 1 q.pa) = s.sees 1 q.pa := State.sees_drain inv memory
  refine ⟨(State.Stores.drain ..).trans (.writeBits ..), fun j inside => ?_, fun y ylow j jlow apart => ?_⟩
  · rw [place j inside]
    unfold State.seesBit
    rw [State.sees_writeBits after _ memory memory, if_pos rfl, ofNat_testBit _ (by dsimp only; omega), replaceBits,
      replaced_testBit _ small, if_neg (by dsimp only; omega), if_pos (by dsimp only; omega), Nat.add_sub_cancel_left]
  · unfold State.seesBit
    rw [State.sees_writeBits after _ memory ylow]
    by_cases here : y = q.pa
    · rw [if_pos here, ofNat_testBit _ jlow, State.load_one, old, replaceBits, replaced_testBit _ small, here, getLsbD_testBit]
      by_cases below : j < p.bit
      · rw [if_pos below]
      · rw [if_neg below, if_neg]
        intro inside
        refine apart (j - p.bit) (by omega) ?_
        rw [place _ (by omega), here]
        exact Prod.ext rfl (by dsimp only; omega)
    · rw [if_neg here]
      exact congrArg (fun b : Byte => b.getLsbD j) (State.sees_drain inv ylow)

theorem placed_bytes (inv : s.MemInv) {q q' : Phys} (narrow : w < 8) (start : p.bit < 8) (two : 8 < p.bit + w) (small : v < 2 ^ w)
    (apart : q.pa ≠ q'.pa) (low : ∀ j < w, (spot [q, q'] p j).1 < barBase) : s.Placed
      (((s.drain fun k => k == 1).writeBits q (replaceBits ((s.drain fun k => k == 1).load (s.drain fun k => k == 1).hart 1 false q.pa 1 +
        256 * (s.drain fun k => k == 1).load (s.drain fun k => k == 1).hart 1 false q'.pa 1) p.bit w v)).writeBits q'
        (replaceBits ((s.drain fun k => k == 1).load (s.drain fun k => k == 1).hart 1 false q.pa 1 +
        256 * (s.drain fun k => k == 1).load (s.drain fun k => k == 1).hart 1 false q'.pa 1) p.bit w v / 256)) w p [q, q'] v := by
  have place : ∀ i, spot [q, q'] p i = (if p.bit + i < 8 then q.pa else q'.pa, (p.bit + i) % 8) := fun i => rfl
  have first : q.pa < barBase := by
    have here := low 0 (by omega)
    rw [place, if_pos (by omega)] at here
    exact here
  have second : q'.pa < barBase := by
    have here := low (8 - p.bit) (by omega)
    rw [place, if_neg (by omega)] at here
    exact here
  have drained := s.drain_memInv (fun k => k == 1) inv
  rw [State.load_one, State.load_one, State.sees_drain inv first, State.sees_drain inv second]
  have old : ∀ i, ((s.sees 1 q.pa).toNat + 256 * (s.sees 1 q'.pa).toNat).testBit i =
      if i < 8 then (s.sees 1 q.pa).getLsbD i else (s.sees 1 q'.pa).getLsbD (i - 8) := fun i => by
    rw [Nat.add_comm, show 256 * (s.sees 1 q'.pa).toNat = 2 ^ 8 * (s.sees 1 q'.pa).toNat from rfl,
      Nat.testBit_two_pow_mul_add _ (s.sees 1 q.pa).isLt]
    rfl
  generalize new : replaceBits ((s.sees 1 q.pa).toNat + 256 * (s.sees 1 q'.pa).toNat) p.bit w v = n
  have bits : ∀ i, n.testBit i = if i < p.bit then (s.sees 1 q.pa).getLsbD i else if i < p.bit + w then v.testBit (i - p.bit)
      else (s.sees 1 q'.pa).getLsbD (i - 8) := fun i => by
    rw [← new, replaceBits, replaced_testBit _ small, old]
    by_cases below : i < p.bit
    · rw [if_pos below, if_pos below, if_pos (by omega)]
    · rw [if_neg below, if_neg below]
      by_cases inside : i < p.bit + w
      · rw [if_pos inside, if_pos inside]
      · rw [if_neg inside, if_neg inside, if_neg (by omega)]
  have sees : ∀ x < barBase, (((s.drain fun k => k == 1).writeBits q n).writeBits q' (n / 256)).sees 1 x =
      if x = q'.pa then BitVec.ofNat 8 (n / 256) else if x = q.pa then BitVec.ofNat 8 n else s.sees 1 x := fun x xlow => by
    rw [State.sees_writeBits ((State.Stores.writeBits _ q n).memInv drained) _ second xlow, State.sees_writeBits drained _ first xlow,
      State.sees_drain inv xlow]
  have high : ∀ j < 8, (BitVec.ofNat 8 (n / 256)).getLsbD j = n.testBit (j + 8) := fun j jlow => by
    rw [ofNat_testBit _ jlow, show (256 : Nat) = 2 ^ 8 from rfl, Nat.testBit_div_two_pow]
  refine ⟨((State.Stores.drain ..).trans (.writeBits ..)).trans (.writeBits ..), fun j inside => ?_, fun y ylow j jlow free => ?_⟩
  · rw [place]
    unfold State.seesBit
    by_cases early : p.bit + j < 8
    · rw [if_pos early, sees _ first, if_neg apart, if_pos rfl, ofNat_testBit _ (Nat.mod_lt _ (by decide)), bits]
      rw [Nat.mod_eq_of_lt early, if_neg (by omega), if_pos (by omega), Nat.add_sub_cancel_left]
    · rw [if_neg early, sees _ second, if_pos rfl, high _ (Nat.mod_lt _ (by decide)), bits]
      rw [if_neg (by omega), if_pos (by omega)]
      congr 1
      omega
  · unfold State.seesBit
    rw [sees y ylow]
    by_cases late : y = q'.pa
    · rw [if_pos late, high _ jlow, bits, if_neg (by omega), if_neg, late, Nat.add_sub_cancel]
      intro inside
      refine free (j + 8 - p.bit) (by omega) ?_
      rw [place, if_neg (by omega), late]
      exact Prod.ext rfl (by dsimp only; omega)
    · rw [if_neg late]
      by_cases early : y = q.pa
      · rw [if_pos early, ofNat_testBit _ jlow, bits]
        by_cases below : j < p.bit
        · rw [if_pos below, early]
        · refine absurd ?_ (free (j - p.bit) (by omega))
          rw [place, if_pos (by omega), early]
          exact Prod.ext rfl (by dsimp only; omega)
      · rw [if_neg early]

/-- An element whose place is found and lies in memory is stored there. -/
theorem writePlace_placed (inv : s.MemInv) {l : List Phys} (reach : s.reach .write w p = .ok l) (once : (l.map fun q => q.pa).Nodup)
    (low : ∀ j < w, (spot l p j).1 < barBase) (whole : 8 ≤ w → 8 * (w / 8) = w) (some : 0 < w) (small : w < 8 → v < 2 ^ w)
    (start : p.bit < 8) : ∃ u, s.writePlace w p v = .ok u ∧ s.Placed u w p l v := by
  unfold State.writePlace
  rw [reach]
  rcases reach_forms reach with ⟨q, rfl, ⟨wide, aligned⟩ | ⟨narrow, one⟩⟩ | ⟨q, q', rfl, narrow, two⟩
  · exact ⟨_, if_pos wide, placed_whole inv _ (whole wide) some aligned low⟩
  · exact ⟨_, if_neg (by omega), placed_byte inv some one (small narrow) low⟩
  · refine ⟨_, rfl, placed_bytes inv narrow start two (small narrow) ?_ low⟩
    rw [List.map_cons, List.map_singleton, List.nodup_cons, List.mem_singleton] at once
    exact once.1

end

end Sys2Proof.Machine
end

section
/-! Runs of stored elements and of segments. -/

namespace Sys2Proof.Machine

/-! ### A run of stored elements -/

/-- The elements of a store: width, places, the physical places found for each, and values. -/
structure Puts where
  w : Nat
  place : Nat → Place
  found : Nat → List Phys
  value : Nat → Nat

/-- Bit `j` of element `m` in memory. -/
def Puts.bit (r : Puts) (m j : Nat) : Nat × Nat := spot (r.found m) (r.place m) j

/-- Element `m` passes its checks and lies in memory, in bytes of its own. -/
def Puts.Ready (r : Puts) (s : State) (m : Nat) : Prop := s.reach .write r.w (r.place m) = .ok (r.found m) ∧
  ((r.found m).map fun q => q.pa).Nodup ∧ ∀ j < r.w, (r.bit m j).1 < barBase

/-- Widths and values that the model stores. -/
structure Puts.Sized (r : Puts) : Prop where
  whole : 8 ≤ r.w → 8 * (r.w / 8) = r.w
  some : 0 < r.w
  small : r.w < 8 → ∀ m, r.value m < 2 ^ r.w
  start : ∀ m, (r.place m).bit < 8

/-- `u` is `s` with the elements that `act` selects stored in ascending order: the later one stands where two meet. -/
structure Puts.Put (r : Puts) (s u : State) (act : Nat → Prop) : Prop where
  stores : s.Stores u
  ready : ∀ m, act m → r.Ready s m
  last : ∀ m j, act m → j < r.w → (∀ m', m < m' → act m' → ∀ j' < r.w, r.bit m' j' ≠ r.bit m j) →
    u.seesBit 1 (r.bit m j) = (r.value m).testBit j
  rest : ∀ y < barBase, ∀ j < 8, (∀ m j', act m → j' < r.w → r.bit m j' ≠ (y, j)) → u.seesBit 1 (y, j) = s.seesBit 1 (y, j)

theorem spot_bit (l : List Phys) (p : Place) (j : Nat) : (spot l p j).2 < 8 := by
  unfold spot
  split
  · exact Nat.zero_lt_succ _
  · exact Nat.mod_lt _ (by decide)
  · exact Nat.mod_lt _ (by decide)

namespace Puts.Put

variable {r : Puts} {s u : State} {act act' : Nat → Prop}

theorem start (s : State) (r : Puts) {act : Nat → Prop} (none : ∀ m, ¬act m) : r.Put s s act :=
  ⟨.refl s, fun m h => absurd h (none m), fun m _ h => absurd h (none m), fun _ _ _ _ _ => rfl⟩

theorem congr (h : r.Put s u act) (same : ∀ m, act' m ↔ act m) : r.Put s u act' := by
  rwa [show act' = act from funext fun m => propext (same m)]

/-- One element more, above those that have been stored. -/
theorem step (h : r.Put s u act) (sized : r.Sized) (inv : s.MemInv) {m : Nat} (above : ∀ m', act m' → m' < m) (ready : r.Ready s m) :
    ∃ v, u.writePlace r.w (r.place m) (r.value m) = .ok v ∧ r.Put s v fun m' => act m' ∨ m' = m := by
  obtain ⟨reach, once, low⟩ := ready
  obtain ⟨v, write, stores, placed, kept⟩ := writePlace_placed (h.stores.memInv inv) ((h.stores.reach r.w (r.place m)).trans reach) once low
    sized.whole sized.some (fun narrow => sized.small narrow m) (sized.start m)
  refine ⟨v, write, h.stores.trans stores, ?_, ?_, ?_⟩
  · rintro m' (old | rfl)
    · exact h.ready m' old
    · exact ⟨reach, once, low⟩
  · rintro m' j (old | rfl) inside hides
    · have apart : ∀ j' < r.w, spot (r.found m) (r.place m) j' ≠ r.bit m' j := hides m (above m' old) (.inr rfl)
      obtain ⟨-, -, memory⟩ := h.ready m' old
      refine (kept _ (memory j inside) _ (spot_bit ..) apart).trans ?_
      exact h.last m' j old inside fun m'' later active => hides m'' later (.inl active)
    · exact placed j inside
  · intro y ylow j jlow free
    refine (kept y ylow j jlow fun j' inside => free m j' (.inr rfl) inside).trans ?_
    exact h.rest y ylow j jlow fun m' j' active inside => free m' j' (.inl active) inside

/-- A run of plain stores. -/
theorem scatter (sized : r.Sized) (inv : s.MemInv) (active : Nat → Bool) (n : Nat) {u : State} {q : Nat}
    (h : r.Put s u fun m => m < q ∧ active m = true) (ready : ∀ e, q ≤ e → e < q + n → active e = true → r.Ready s e) (rest : List Nat) :
    ∃ v, u.scatter r.w r.place r.value ((List.range' q n).filter active ++ rest) = v.scatter r.w r.place r.value rest ∧
      r.Put s v fun m => m < q + n ∧ active m = true := by
  induction n generalizing u q with
  | zero => exact ⟨u, rfl, h⟩
  | succ n ih =>
    have later : ∀ e, q + 1 ≤ e → e < q + 1 + n → active e = true → r.Ready s e := fun e low high => ready e (by omega) (by omega)
    rw [List.range'_succ, List.filter_cons, show q + (n + 1) = q + 1 + n by omega]
    cases here : active q with
    | false =>
      refine ih (h.congr fun m => ⟨fun ⟨low, act⟩ => ⟨?_, act⟩, fun ⟨low, act⟩ => ⟨by omega, act⟩⟩) later
      have ne : m ≠ q := fun same => by
        rw [same, here] at act
        cases act
      omega
    | true =>
      obtain ⟨v, write, put⟩ := h.step sized inv (fun m' h => h.1) (ready q (Nat.le_refl q) (by omega) here)
      have next : r.Put s v fun m => m < q + 1 ∧ active m = true := put.congr fun m => by
        refine ⟨fun ⟨low, act⟩ => ?_, fun old => ?_⟩
        · by_cases same : m = q
          · exact .inr same
          · exact .inl ⟨by omega, act⟩
        · rcases old with ⟨low, act⟩ | rfl
          · exact ⟨by omega, act⟩
          · exact ⟨Nat.lt_succ_self _, here⟩
      obtain ⟨z, run, all⟩ := ih next later
      refine ⟨z, ?_, all⟩
      rw [if_pos rfl, List.cons_append, State.scatter, write]
      exact run

end Puts.Put

/-! ### Segments -/

/-- The fault of a segment's field, if any. -/
def State.fieldFault (s : State) (w n : Nat) (a : Reg) (e f : Nat) : Option Flt :=
  match s.reach .write w (s.hart.segPlace a w n f e) with
  | .error x => some x
  | .ok _ => none

/-- A segment's field stored. -/
def State.putField (w n : Nat) (a : Reg) (val : Nat → Nat → Nat) (e : Nat) (s : State) (f : Nat) : State :=
  match s.writePlace w (s.hart.segPlace a w n f e) (val f e) with
  | .ok s' => s'
  | .error _ => s

section
variable {s u : State} {w n : Nat} {a : Reg} {val : Nat → Nat → Nat} {e : Nat}

theorem State.scatterSeg_of_ok {es : List Nat} (none : (List.range n).findSome? (s.fieldFault w n a e) = none) :
    s.scatterSeg w n a val (e :: es) = ((List.range n).foldl (State.putField w n a val e) s).scatterSeg w n a val es := by
  rw [State.scatterSeg]
  split
  · next x found => exact nomatch none.symm.trans found
  · rfl

theorem State.scatterSeg_of_error {es : List Nat} {x : Flt} (some : (List.range n).findSome? (s.fieldFault w n a e) = some x) :
    s.scatterSeg w n a val (e :: es) = (s, Option.some (e, x)) := by
  rw [State.scatterSeg]
  split
  · next y found =>
    have same : Option.some x = Option.some y := some.symm.trans found
    cases same
    rfl
  · next found => exact nomatch some.symm.trans found

theorem State.fieldFault_none {f : Nat} {l : List Phys} (reach : s.reach .write w (s.hart.segPlace a w n f e) = .ok l) :
    s.fieldFault w n a e f = none := by
  unfold State.fieldFault
  rw [reach]

theorem State.fieldFault_some {f : Nat} {x : Flt} (reach : s.reach .write w (s.hart.segPlace a w n f e) = .error x) :
    s.fieldFault w n a e f = some x := by
  unfold State.fieldFault
  rw [reach]

theorem State.putField_eq {f : Nat} (write : s.writePlace w (s.hart.segPlace a w n f e) (val f e) = .ok u) :
    s.putField w n a val e f = u := by
  unfold State.putField
  rw [write]

end

namespace Puts.Put

variable {r : Puts} {s u : State} {n : Nat} {a : Reg} {val : Nat → Nat → Nat}

/-- The fields of one element stored, all of which can be. -/
theorem fields {e : Nat} {act : Nat → Prop} (sized : r.Sized) (inv : s.MemInv) (place : ∀ f, r.place (e * n + f) = s.hart.segPlace a r.w n f e)
    (value : ∀ f < n, r.value (e * n + f) = val f e) (h : r.Put s u act) (above : ∀ m, act m → m < e * n)
    (ready : ∀ f < n, r.Ready s (e * n + f)) (c : Nat) (some : c ≤ n) :
    r.Put s ((List.range c).foldl (State.putField r.w n a val e) u) fun m => act m ∨ e * n ≤ m ∧ m < e * n + c := by
  induction c with
  | zero => exact h.congr fun m => ⟨fun h => h.elim (fun h => h) fun h => absurd h.2 (Nat.not_lt.2 h.1), .inl⟩
  | succ c ih =>
    have before := ih (by omega)
    obtain ⟨v, write, put⟩ := before.step sized inv (m := e * n + c)
      (fun m h => h.elim (fun h => lt_of_lt_of_le (above m h) (Nat.le_add_right ..)) fun h => h.2) (ready c (by omega))
    rw [List.range_succ, List.foldl_append, List.foldl_cons, List.foldl_nil]
    have same : ((List.range c).foldl (State.putField r.w n a val e) u).hart.segPlace a r.w n c e = r.place (e * n + c) := by
      rw [before.stores.hart, place]
      rfl
    rw [State.putField_eq (u := v) (by rw [same, ← value c (by omega)]; exact write)]
    refine put.congr fun m => ⟨fun h => ?_, fun h => ?_⟩
    · rcases h with h | ⟨low, high⟩
      · exact .inl (.inl h)
      · by_cases last : m = e * n + c
        · exact .inr last
        · exact .inl (.inr ⟨low, by omega⟩)
    · rcases h with (h | ⟨low, high⟩) | rfl
      · exact .inl h
      · exact .inr ⟨low, by omega⟩
      · exact .inr ⟨by omega, by omega⟩

/-- A run of segments, each of whose fields can be stored. -/
theorem scatterSeg (sized : r.Sized) (inv : s.MemInv) (some : 0 < n) (place : ∀ e f, r.place (e * n + f) = s.hart.segPlace a r.w n f e)
    (value : ∀ e, ∀ f < n, r.value (e * n + f) = val f e) (active : Nat → Bool) (c : Nat) {u : State} {q : Nat}
    (h : r.Put s u fun m => m / n < q ∧ active (m / n) = true)
    (ready : ∀ m, q ≤ m / n → m / n < q + c → active (m / n) = true → r.Ready s m) (rest : List Nat) :
    ∃ v, u.scatterSeg r.w n a val ((List.range' q c).filter active ++ rest) = v.scatterSeg r.w n a val rest ∧
      r.Put s v fun m => m / n < q + c ∧ active (m / n) = true := by
  induction c generalizing u q with
  | zero => exact ⟨u, rfl, h⟩
  | succ c ih =>
    have later : ∀ m, q + 1 ≤ m / n → m / n < q + 1 + c → active (m / n) = true → r.Ready s m :=
      fun m low high => ready m (by omega) (by omega)
    rw [List.range'_succ, List.filter_cons, show q + (c + 1) = q + 1 + c by omega]
    cases here : active q with
    | false =>
      refine ih (h.congr fun m => ⟨fun ⟨low, act⟩ => ⟨?_, act⟩, fun ⟨low, act⟩ => ⟨by omega, act⟩⟩) later
      have ne : m / n ≠ q := fun same => by
        rw [same, here] at act
        cases act
      omega
    | true =>
      have element : ∀ f < n, (q * n + f) / n = q := fun f low => by
        rw [Nat.add_comm, Nat.add_mul_div_right _ _ some, Nat.div_eq_of_lt low, Nat.zero_add]
      have fieldsReady : ∀ f < n, r.Ready s (q * n + f) := fun f low =>
        ready _ (by rw [element f low]) (by rw [element f low]; omega) (by rw [element f low]; exact here)
      have whole : (List.range n).findSome? (u.fieldFault r.w n a q) = none := List.findSome?_eq_none_iff.2 fun f m => by
        obtain ⟨reach, -⟩ := fieldsReady f (List.mem_range.1 m)
        refine State.fieldFault_none (l := r.found (q * n + f)) ?_
        rw [h.stores.reach, ← reach, place]
        congr 1
        rw [h.stores.hart]
        rfl
      have put := h.fields sized inv (place q) (value q) (fun m h => (Nat.div_lt_iff_lt_mul some).1 h.1) fieldsReady n (Nat.le_refl n)
      have next : r.Put s ((List.range n).foldl (State.putField r.w n a val q) u) fun m => m / n < q + 1 ∧ active (m / n) = true :=
        put.congr fun m => by
          refine ⟨fun ⟨low, act⟩ => ?_, fun old => ?_⟩
          · by_cases same : m / n = q
            · have parts := Nat.div_add_mod m n
              have low := Nat.mod_lt m some
              rw [same, Nat.mul_comm] at parts
              exact .inr ⟨by omega, by omega⟩
            · exact .inl ⟨by omega, act⟩
          · rcases old with ⟨low, act⟩ | ⟨low, high⟩
            · exact ⟨by omega, act⟩
            · have same : m / n = q := by
                have := element (m - q * n) (by omega)
                rwa [show q * n + (m - q * n) = m by omega] at this
              exact ⟨by omega, by rw [same]; exact here⟩
      obtain ⟨z, run, all⟩ := ih next later
      refine ⟨z, ?_, all⟩
      rw [if_pos rfl, List.cons_append, State.scatterSeg_of_ok whole]
      exact run

end Puts.Put

end Sys2Proof.Machine
end

section
/-! Addressing forms, and the frames of stores. -/

namespace Sys2Proof.Machine

/-! ### Addressing forms, and the frames of stores -/

/-- A form of R167 in order: its index register passes R119 and is an index, whole registers are used, and sub-byte elements have one
of the forms that take them. -/
structure Form.Legal (f : Form) (s : State) (d a : Reg) (place : Nat → Place) : Prop where
  parts : (s.hart.formParts f).2 = (false, false)
  usable : ∀ x ∈ (s.hart.formParts f).1, 0 < x.grp ∧ s.hart.usable x.reg x.grp
  sub : f.subByte = true ∨ 8 ≤ (s.hart.ty d).w
  places : s.hart.formPlace f a (s.hart.ty d).w = place

section
variable {s : State} {d a b : Reg}

theorem Form.legal_unit : Form.unit.Legal s d a fun e => placeAt (s.hart.rd a) (e * (s.hart.ty d).w) :=
  ⟨rfl, fun _ m => (nomatch m), .inl rfl, rfl⟩

theorem Form.legal_bitOffset : (Form.bitOffset b).Legal s d a fun e => placeAt (s.hart.rd a) ((s.hart.rd b).toNat + e * (s.hart.ty d).w) :=
  ⟨rfl, fun _ m => (nomatch m), .inl rfl, rfl⟩

theorem Form.legal_strided (wide : 8 ≤ (s.hart.ty d).w) :
    (Form.strided b).Legal s d a fun e => ⟨s.hart.rd a + BitVec.ofInt 64 (e * (s.hart.rd b).toInt), 0⟩ :=
  ⟨rfl, fun _ m => (nomatch m), .inr wide, rfl⟩

theorem reach_own {h : Hart} (own : h.lane = none) : h.reach = h.vl := by
  unfold Hart.reach
  rw [own]

theorem Form.legal_indexed (trap : Bool) (plain : s.hart.Plain) (wide : 8 ≤ (s.hart.ty d).w) (index : s.hart.opOk b s.hart.vl = true)
    (type : isIndexTy (s.hart.ty b) = true) (usable : s.hart.usable b.toNat (s.hart.grp b)) : (Form.indexed b trap).Legal s d a fun e =>
      ⟨s.hart.rd a + BitVec.ofNat 64 (s.hart.elem b.toNat (s.hart.grp b) (s.hart.ty b).w e), 0⟩ where
  parts := by
    show (!s.hart.opOk b s.hart.reach, !isIndexTy (s.hart.ty b)) = _
    rw [reach_own plain.own, index, type]
    rfl
  usable x m := by
    rcases List.mem_singleton.1 m with rfl
    exact ⟨cfgGrp_pos _, usable⟩
  sub := .inr wide
  places := by
    show (fun e => (⟨s.hart.rd a + BitVec.ofNat 64 (s.hart.elems b e), 0⟩ : Place)) = _
    rw [elems_plain s.hart plain]

theorem Form.legal_sub {f : Form} {place : Nat → Place} (legal : f.Legal s d a place) :
    (!f.subByte && (s.hart.ty d).w != 0 && decide ((s.hart.ty d).w < 8)) = false := by
  rcases legal.sub with sub | wide
  · rw [sub]
    rfl
  · rw [decide_eq_false (by omega), Bool.and_false]

/-- The frame of a store. -/
def Hart.vstoreSpec (h : Hart) (f : Form) (d : Reg) (k : BitVec 3) (w : Bool) : VSpec :=
  { ill := (h.formParts f).2.1 || !h.opOk d h.reach || (!f.subByte && (h.ty d).w != 0 && decide ((h.ty d).w < 8)), tile := none
    mism := (h.formParts f).2.2 || (h.ty d).cls == .untagged
    srcs := { reg := d.toNat, grp := h.grp d, trap := w, need := h.vl } :: (h.formParts f).1, dsts := [], sends := h.active k (h.ty d).w
    lanewise := true, w := (h.ty d).w }

/-- What a store does within its frame. -/
def State.vstoreBody (f : Form) (d a : Reg) (k : BitVec 3) (t : Ty) (s : State) : Res :=
  let h := s.hart
  let place := h.formPlace f a t.w
  let val (e : Nat) : Nat := t.stored (h.elems d e)
  match h.lane with
  | some e => if h.sel k e then s.laneStore t.w (place e) (val e) else s.done h
  | none =>
    let (s, flt) := s.scatter t.w place val (h.active k t.w)
    match flt with
    | some (e, x) => s.elemFault t.w (h.owed k t.w) e x
    | none => s.done s.hart

theorem vstore_eq (f : Form) (k : BitVec 3) (w : Bool) :
    s.vstore f d a k w = s.vector (s.hart.vstoreSpec f d k w) (State.vstoreBody f d a k (s.hart.ty d)) := by
  cases f <;> rfl

variable {f : Form} {k : BitVec 3} {place : Nat → Place}

theorem vstoreBody_of_done {u : State} (plain : s.hart.Plain) (legal : f.Legal s d a place)
    (run : s.scatter (s.hart.ty d).w place (fun e => (s.hart.ty d).stored (s.hart.elem d.toNat (s.hart.grp d) (s.hart.ty d).w e))
      (s.hart.activeList k) = (u, none)) : State.vstoreBody f d a k (s.hart.ty d) s = u.done u.hart := by
  unfold State.vstoreBody
  dsimp only
  rw [plain.own, legal.places, elems_plain s.hart plain, active_list plain]
  dsimp only
  rw [run]

theorem vstoreBody_of_fault {u : State} {q : Nat} {x : Flt} (plain : s.hart.Plain) (legal : f.Legal s d a place)
    (run : s.scatter (s.hart.ty d).w place (fun e => (s.hart.ty d).stored (s.hart.elem d.toNat (s.hart.grp d) (s.hart.ty d).w e))
      (s.hart.activeList k) = (u, some (q, x))) :
    State.vstoreBody f d a k (s.hart.ty d) s = u.elemFault (s.hart.ty d).w (s.hart.activeList k) q x := by
  unfold State.vstoreBody
  dsimp only
  rw [plain.own, legal.places, elems_plain s.hart plain, active_list plain, owed_plain plain]
  dsimp only
  rw [run]

theorem vstore_legal (w : Bool) (plain : s.hart.Plain) (legal : f.Legal s d a place) (source : s.hart.opOk d s.hart.vl = true) :
    (s.hart.vstoreSpec f d k w).ill = false := by
  show ((s.hart.formParts f).2.1 || !s.hart.opOk d s.hart.reach || (!f.subByte && (s.hart.ty d).w != 0 &&
    decide ((s.hart.ty d).w < 8))) = false
  rw [legal.parts, reach_own plain.own, source, Form.legal_sub legal]
  rfl

theorem vstore_typed (w : Bool) (legal : f.Legal s d a place) (typed : (s.hart.ty d).cls ≠ .untagged) :
    (s.hart.vstoreSpec f d k w).mism = false := by
  show ((s.hart.formParts f).2.2 || (s.hart.ty d).cls == .untagged) = false
  rw [legal.parts]
  exact beq_eq_false_iff_ne.2 typed

theorem vstore_usable (w : Bool) (legal : f.Legal s d a place) (usable : s.hart.usable d.toNat (s.hart.grp d)) :
    ∀ x ∈ (s.hart.vstoreSpec f d k w).srcs, 0 < x.grp ∧ s.hart.usable x.reg x.grp := by
  intro x m
  rcases List.mem_cons.1 m with rfl | m
  · exact ⟨cfgGrp_pos _, usable⟩
  · exact legal.usable x m

end

/-- The state in which a store ends. -/
theorem State.Stores.done {s u : State} (stores : s.Stores u) : s.AfterStore (u.setHart (u.hart.advance 4)) (fun h => h) := by
  refine ⟨?_, stores.others⟩
  show u.hart.advance 4 = _
  conv_lhs => rw [stores.hart]
  rfl

section
variable {s u : State} {v : VSpec} {body : State → Res}

/-- A vector instruction that has stored and is done. -/
theorem vector_stored (plain : s.hart.Plain) (ill : v.ill = false) (tile : v.tile = none) (mism : v.mism = false)
    (src : ∀ x ∈ v.srcs, 0 < x.grp ∧ s.hart.usable x.reg x.grp) (dst : ∀ d ∈ v.dsts, 0 < d.grp ∧ s.hart.usable d.reg d.grp)
    (stores : s.Stores u) (done : body s = u.done u.hart) : s.vector v body = .next (u.setHart (u.hart.advance 4)) := by
  refine vector_plain s _ v body ill tile mism src dst (done.trans (State.done_eq _ _)) ?_ ?_ ?_ ?_ ?_
  · show u.hart.pc + 4 ≠ s.hart.pc
    rw [stores.hart]
    simp
  · show u.hart.walked = []
    rw [stores.hart]
    exact plain.unwalked
  · show u.hart.taken = []
    rw [stores.hart]
    exact plain.untaken
  · show u.hart.limit = none
    rw [stores.hart]
    exact plain.unlimited
  · show u.hart.counted = []
    rw [stores.hart]
    exact plain.uncounted

/-- A vector instruction that has stored and then met the fault of an element. -/
theorem vector_faulted {w : Nat} {act : List Nat} {q : Nat} {x : Flt} (plain : s.hart.Plain) (ill : v.ill = false) (tile : v.tile = none)
    (mism : v.mism = false) (src : ∀ x ∈ v.srcs, 0 < x.grp ∧ s.hart.usable x.reg x.grp)
    (dst : ∀ d ∈ v.dsts, 0 < d.grp ∧ s.hart.usable d.reg d.grp) (stores : s.Stores u) (fault : body s = u.elemFault w act q x) :
    s.vector v body = .next (u.faults (s.hart.elemTrap w act q x)) := by
  have own : u.hart.lane = none := by
    rw [stores.hart]
    exact plain.own
  have unwalked : u.hart.walked = [] := by
    rw [stores.hart]
    exact plain.unwalked
  have trap : u.hart.elemTrap w act q x = s.hart.elemTrap w act q x := elemTrap_congr (by rw [stores.hart]) (by rw [stores.hart]) ..
  rw [State.elemFault_own _ _ _ _ own unwalked, trap] at fault
  refine vector_stops s _ v body ill tile mism src dst fault ?_
  rw [State.faults_pc _ own, stores.hart]

end

end Sys2Proof.Machine
end

section
/-! Widths and values of stored elements; the frame of a segment store. -/

namespace Sys2Proof.Machine

/-! ### Widths and values of stored elements -/

theorem width_whole (t : Ty) (wide : 8 ≤ t.w) : 8 * (t.w / 8) = t.w := by
  obtain ⟨tag, frac⟩ := t
  show 8 * (tagWidth tag / 8) = tagWidth tag
  change 8 ≤ tagWidth tag at wide
  by_cases known : tag < 27
  · interval_cases tag <;> first | rfl | exact absurd wide (by decide)
  · have zero : tagWidth tag = 0 := List.getD_eq_default _ _ (by simpa using known)
    rw [zero]

theorem stored_lt {t : Ty} {x n : Nat} (small : x < n) : t.stored x < n := by
  unfold Ty.stored
  split
  · exact lt_of_le_of_lt (Nat.mod_le _ _) small
  · exact small

theorem elem_lt (h : Hart) (r g w e : Nat) : h.elem r g w e < 2 ^ w := Nat.mod_lt _ (Nat.two_pow_pos w)

/-! ### Segment stores -/

section
variable {s : State} {d a : Reg} {k f : BitVec 3} {w : BitVec 1}

/-- The register of a segment's field. -/
def fieldReg (d : Reg) (g i : Nat) : Reg := BitVec.ofNat 5 (d.toNat + i * g)

theorem fieldReg_toNat {d : Reg} {g n i : Nat} (inside : d.toNat + n * g ≤ 32) (group : 0 < g) (low : i < n) :
    (fieldReg d g i).toNat = d.toNat + i * g := by
  have room : (i + 1) * g ≤ n * g := Nat.mul_le_mul_right g low
  rw [Nat.add_mul, Nat.one_mul] at room
  exact (BitVec.toNat_ofNat ..).trans (Nat.mod_eq_of_lt (by omega))

/-- The operands of a segment store in order (R119, R164, R167). -/
structure State.SegStore (s : State) (d : Reg) (n : Nat) : Prop where
  plain : s.hart.Plain
  source : s.hart.opOk d s.hart.vl = true
  inside : d.toNat + n * s.hart.grp d ≤ 32
  usable : s.hart.usable d.toNat (n * s.hart.grp d)
  wide : 8 ≤ (s.hart.ty d).w
  fields : ∀ i < n, (s.hart.ty (fieldReg d (s.hart.grp d) i)).cls ≠ .untagged ∧
    s.hart.opOk (fieldReg d (s.hart.grp d) i) s.hart.vl = true ∧
    s.hart.usable (fieldReg d (s.hart.grp d) i).toNat (s.hart.grp (fieldReg d (s.hart.grp d) i))

/-- The frame of a segment store. -/
def Hart.vstsegSpec (h : Hart) (d : Reg) (k : BitVec 3) (w : Bool) (n : Nat) : VSpec :=
  { ill := h.segIll d n || (segRegs d (h.grp d) n).any (fun r => !h.opOk (BitVec.ofNat 5 r) h.reach), tile := none
    mism := (segRegs d (h.grp d) n).any (fun r => cfgTag (h.v r).cfg == 0)
    srcs := (segRegs d (h.grp d) n).map (fun r => { reg := r, grp := h.grp (BitVec.ofNat 5 r), trap := w, need := h.vl }), dsts := []
    sends := h.active k (h.ty d).w, lanewise := true, w := (h.ty d).w }

/-- The values of a segment store's fields. -/
def Hart.fieldValue (h : Hart) (d : Reg) (w g i e : Nat) : Nat := (h.segField d g i).1.stored ((h.segField d g i).2 e) % 2 ^ w

/-- What a segment store does within its frame. -/
def State.vstsegBody (d a : Reg) (k : BitVec 3) (t : Ty) (g n : Nat) (s : State) : Res :=
  let h := s.hart
  let (s, flt) := s.scatterSeg t.w n a (h.fieldValue d t.w g) (h.active k t.w)
  match flt with
  | some (e, x) => s.elemFault t.w (h.owed k t.w) e x
  | none => s.done s.hart

theorem exec_vstseg_eq : exec (.vstseg d a k w f) s =
    s.vector (s.hart.vstsegSpec d k (bit1 w) (f.toNat + 1)) (State.vstsegBody d a k (s.hart.ty d) (s.hart.grp d) (f.toNat + 1)) := rfl

theorem vstsegBody_of_done {u : State} {n : Nat} (plain : s.hart.Plain) (run : s.scatterSeg (s.hart.ty d).w n a
      (s.hart.fieldValue d (s.hart.ty d).w (s.hart.grp d)) (s.hart.activeList k) = (u, none)) :
    State.vstsegBody d a k (s.hart.ty d) (s.hart.grp d) n s = u.done u.hart := by
  unfold State.vstsegBody
  dsimp only
  rw [active_list plain, run]

theorem vstsegBody_of_fault {u : State} {n q : Nat} {x : Flt} (plain : s.hart.Plain) (run : s.scatterSeg (s.hart.ty d).w n a
      (s.hart.fieldValue d (s.hart.ty d).w (s.hart.grp d)) (s.hart.activeList k) = (u, some (q, x))) :
    State.vstsegBody d a k (s.hart.ty d) (s.hart.grp d) n s = u.elemFault (s.hart.ty d).w (s.hart.activeList k) q x := by
  unfold State.vstsegBody
  dsimp only
  rw [active_list plain, owed_plain plain, run]

theorem mem_segRegs {d : Reg} {g n r : Nat} (m : r ∈ segRegs d g n) : ∃ i < n, r = d.toNat + i * g := by
  obtain ⟨i, low, rfl⟩ := List.mem_map.1 m
  exact ⟨i, List.mem_range.1 low, rfl⟩

/-- What a segment access asks of the frame besides its data operands. -/
theorem segIll_false {n : Nat} (own : s.hart.lane = none) (source : s.hart.opOk d s.hart.vl = true)
    (inside : d.toNat + n * s.hart.grp d ≤ 32) (usable : s.hart.usable d.toNat (n * s.hart.grp d)) (wide : 8 ≤ (s.hart.ty d).w) :
    s.hart.segIll d n = false := by
  have unbound : (members d.toNat (n * s.hart.grp d)).any (fun r => s.hart.isBound r) = false := by
    rw [List.any_eq_false]
    intro r m
    rw [(usable r m).1]
    exact Bool.false_ne_true
  unfold Hart.segIll
  dsimp only
  rw [reach_own own, source, unbound, decide_eq_false (by omega), decide_eq_false (by omega), Bool.and_false]
  rfl

namespace State.SegStore

variable {n : Nat} (seg : s.SegStore d n)
include seg

theorem legal (w : Bool) : (s.hart.vstsegSpec d k w n).ill = false := by
  have fields : (segRegs d (s.hart.grp d) n).any (fun r => !s.hart.opOk (BitVec.ofNat 5 r) s.hart.reach) = false := by
    rw [List.any_eq_false]
    intro r m
    obtain ⟨i, low, rfl⟩ := mem_segRegs m
    rw [reach_own seg.plain.own, show BitVec.ofNat 5 (d.toNat + i * s.hart.grp d) = fieldReg d (s.hart.grp d) i from rfl,
      (seg.fields i low).2.1]
    exact Bool.false_ne_true
  show (s.hart.segIll d n || (segRegs d (s.hart.grp d) n).any fun r => !s.hart.opOk (BitVec.ofNat 5 r) s.hart.reach) = false
  rw [segIll_false seg.plain.own seg.source seg.inside seg.usable seg.wide, fields]
  rfl

theorem typed (w : Bool) : (s.hart.vstsegSpec d k w n).mism = false := by
  show (segRegs d (s.hart.grp d) n).any (fun r => cfgTag (s.hart.v r).cfg == 0) = false
  rw [List.any_eq_false]
  intro r m zero
  obtain ⟨i, low, rfl⟩ := mem_segRegs m
  refine (seg.fields i low).1 ?_
  have tag : (s.hart.ty (fieldReg d (s.hart.grp d) i)).tag = 0 := by
    show cfgTag (s.hart.v (fieldReg d (s.hart.grp d) i).toNat).cfg = 0
    rw [fieldReg_toNat seg.inside (cfgGrp_pos _) low]
    exact beq_iff_eq.1 zero
  unfold Ty.cls
  rw [tag]
  rfl

theorem sources (w : Bool) : ∀ x ∈ (s.hart.vstsegSpec d k w n).srcs, 0 < x.grp ∧ s.hart.usable x.reg x.grp := by
  intro x m
  obtain ⟨r, mr, rfl⟩ := List.mem_map.1 m
  obtain ⟨i, low, rfl⟩ := mem_segRegs mr
  refine ⟨cfgGrp_pos _, ?_⟩
  have usable := (seg.fields i low).2.2
  rwa [fieldReg_toNat seg.inside (cfgGrp_pos _) low] at usable

/-- The elements of a segment store: element `m` is field `m % n` of segment `m / n`. -/
theorem sized {found : Nat → List Phys} {value : Nat → Nat} :
    (⟨(s.hart.ty d).w, fun m => placeAt (s.hart.rd a) (m * (s.hart.ty d).w), found, fun m => value m % 2 ^ (s.hart.ty d).w⟩ : Puts).Sized where
  whole := width_whole _
  some := lt_of_lt_of_le (by decide) seg.wide
  small narrow := absurd seg.wide (Nat.not_le.2 narrow)
  start _ := Nat.mod_lt _ (by decide)

end State.SegStore

end

end Sys2Proof.Machine
end

section
/-! Stores that complete, and their faults. -/

namespace Sys2Proof.Machine

theorem Form.legal_start {f : Form} {s : State} {d a : Reg} {place : Nat → Place} (legal : f.Legal s d a place) (e : Nat) :
    (place e).bit < 8 := by
  rw [← legal.places]
  cases f with
  | unit => exact Nat.mod_lt _ (by decide)
  | bitOffset b => exact Nat.mod_lt _ (by decide)
  | strided b => exact Nat.zero_lt_succ _
  | indexed b trap => exact Nat.zero_lt_succ _

/-- What stream S1 sees after stores, by what each element was to store. -/
theorem Puts.Put.shown {r : Puts} {s u : State} {act : Nat → Prop} (put : r.Put s u act) {act' : Nat → Bool}
    (same : ∀ m, act' m = true ↔ act m) {value : Nat → Nat}
    (values : ∀ m, ∀ j < r.w, (r.value m).testBit j = (value m).testBit j) :
    (∀ m j, act' m = true → j < r.w → (∀ m', m < m' → act' m' = true → ∀ j' < r.w, r.bit m' j' ≠ r.bit m j) →
      u.seesBit 1 (r.bit m j) = (value m).testBit j) ∧
    (∀ y < barBase, ∀ j < 8, (∀ m j', act' m = true → j' < r.w → r.bit m j' ≠ (y, j)) → u.seesBit 1 (y, j) = s.seesBit 1 (y, j)) := by
  have put := put.congr same
  exact ⟨fun m j active inside hides => (put.last m j active inside hides).trans (values m j inside), put.rest⟩

section
variable {s : State} {d a : Reg} {k : BitVec 3} {place : Nat → Place} {found : Nat → List Phys}

/-- The elements of a plain store. -/
def State.puts (s : State) (d : Reg) (place : Nat → Place) (found : Nat → List Phys) : Puts where
  w := (s.hart.ty d).w
  place := place
  found := found
  value e := (s.hart.ty d).stored (s.hart.elem d.toNat (s.hart.grp d) (s.hart.ty d).w e)

theorem puts_sized {f : Form} (legal : f.Legal s d a place) (typed : (s.hart.ty d).cls ≠ .untagged) : (s.puts d place found).Sized where
  whole := width_whole _
  some := Nat.pos_of_ne_zero (tagWidth_ne _ typed)
  small _ _ := stored_lt (elem_lt ..)
  start := Form.legal_start legal

section
variable {f : Form} (w : Bool) (inv : s.MemInv) (plain : s.hart.Plain) (legal : f.Legal s d a place)
  (source : s.hart.opOk d s.hart.vl = true) (typed : (s.hart.ty d).cls ≠ .untagged) (usable : s.hart.usable d.toNat (s.hart.grp d))
include inv plain legal source typed usable

theorem store_completes (ready : ∀ e, s.hart.isActive k e = true → (s.puts d place found).Ready s e) :
    ∃ v, s.vstore f d a k w = .next (v.setHart (v.hart.advance 4)) ∧ s.Stores v ∧
      (s.puts d place found).Put s v fun m => m < s.hart.vl ∧ s.hart.isActive k m = true := by
  obtain ⟨v, run, put⟩ := (Puts.Put.start s (s.puts d place found) (act := fun m => m < 0 ∧ s.hart.isActive k m = true)
    fun m h => Nat.not_lt_zero m h.1).scatter (puts_sized legal typed) inv (s.hart.isActive k) s.hart.vl
      (fun e _ _ active => ready e active) []
  rw [List.append_nil, ← List.range_eq_range', Nat.zero_add] at *
  refine ⟨v, ?_, put.stores, put⟩
  rw [vstore_eq]
  exact vector_stored plain (vstore_legal w plain legal source) rfl (vstore_typed w legal typed) (vstore_usable w legal usable)
    (fun _ m => nomatch m) put.stores (vstoreBody_of_done plain legal run)

theorem store_faults {q : Nat} {x : Flt} (active : s.hart.isActive k q = true)
    (refused : s.reach .write (s.hart.ty d).w (place q) = .error x)
    (ready : ∀ e < q, s.hart.isActive k e = true → (s.puts d place found).Ready s e) :
    ∃ v, s.vstore f d a k w = .next (v.faults (s.hart.elemTrap (s.hart.ty d).w (s.hart.activeList k) q x)) ∧ s.Stores v ∧
      (s.puts d place found).Put s v fun m => m < q ∧ s.hart.isActive k m = true := by
  obtain ⟨rest, elements⟩ := activeList_split active
  obtain ⟨v, run, put⟩ := (Puts.Put.start s (s.puts d place found) (act := fun m => m < 0 ∧ s.hart.isActive k m = true)
    fun m h => Nat.not_lt_zero m h.1).scatter (puts_sized legal typed) inv (s.hart.isActive k) q
      (fun e _ high active => ready e (by omega) active) (q :: rest)
  rw [← List.range_eq_range', Nat.zero_add] at *
  have stops : v.scatter (s.puts d place found).w (s.puts d place found).place (s.puts d place found).value (q :: rest) = (v, some (q, x)) := by
    have write : v.writePlace (s.puts d place found).w ((s.puts d place found).place q) ((s.puts d place found).value q) = .error x := by
      unfold State.writePlace
      rw [put.stores.reach, show s.reach .write (s.puts d place found).w ((s.puts d place found).place q) = .error x from refused]
    rw [State.scatter, write]
  have all : s.scatter (s.puts d place found).w (s.puts d place found).place (s.puts d place found).value (s.hart.activeList k) =
      (v, some (q, x)) := by
    rw [elements]
    exact run.trans stops
  refine ⟨v, ?_, put.stores, put⟩
  rw [vstore_eq]
  exact vector_faulted plain (vstore_legal w plain legal source) rfl (vstore_typed w legal typed) (vstore_usable w legal usable)
    (fun _ m => nomatch m) put.stores (vstoreBody_of_fault plain legal all)

end

/-- The fields of a segment store. -/
def State.segPuts (s : State) (d a : Reg) (n : Nat) (found : Nat → List Phys) : Puts where
  w := (s.hart.ty d).w
  place m := placeAt (s.hart.rd a) (m * (s.hart.ty d).w)
  found := found
  value m := s.hart.fieldValue d (s.hart.ty d).w (s.hart.grp d) (m % n) (m / n)

section
variable {f : BitVec 3} {n : Nat} (w : BitVec 1) (inv : s.MemInv) (number : n = f.toNat + 1) (seg : s.SegStore d n)
include inv number seg

omit inv number in
theorem segPuts_sized : (s.segPuts d a n found).Sized := seg.sized (value := fun m =>
  (s.hart.segField d (s.hart.grp d) (m % n)).1.stored ((s.hart.segField d (s.hart.grp d) (m % n)).2 (m / n)))

omit inv seg in
theorem seg_value (e : Nat) {i : Nat} (low : i < n) :
    (s.segPuts d a n found).value (e * n + i) = s.hart.fieldValue d (s.hart.ty d).w (s.hart.grp d) i e := by
  unfold State.segPuts
  dsimp only
  rw [Nat.mul_add_mod_self_right, Nat.mod_eq_of_lt low, Nat.add_comm, Nat.add_mul_div_right _ _ (by omega), Nat.div_eq_of_lt low,
    Nat.zero_add]

theorem segStore_completes (ready : ∀ m, s.hart.isActive k (m / n) = true → (s.segPuts d a n found).Ready s m) :
    ∃ v, exec (.vstseg d a k w f) s = .next (v.setHart (v.hart.advance 4)) ∧ s.Stores v ∧
      (s.segPuts d a n found).Put s v fun m => m / n < s.hart.vl ∧ s.hart.isActive k (m / n) = true := by
  obtain ⟨v, run, put⟩ := (Puts.Put.start s (s.segPuts d a n found) (act := fun m => m / n < 0 ∧ s.hart.isActive k (m / n) = true)
    fun m h => Nat.not_lt_zero _ h.1).scatterSeg (segPuts_sized seg) inv (by omega) (fun e i => rfl)
      (fun e i low => seg_value number e low) (s.hart.isActive k) s.hart.vl (fun m _ _ active => ready m active) []
  rw [List.append_nil, ← List.range_eq_range', Nat.zero_add] at *
  refine ⟨v, ?_, put.stores, put⟩
  subst number
  rw [exec_vstseg_eq]
  exact vector_stored seg.plain (seg.legal _) rfl (seg.typed _) (seg.sources _) (fun _ m => nomatch m) put.stores
    (vstsegBody_of_done seg.plain run)

theorem segStore_faults {q j : Nat} {x : Flt} (active : s.hart.isActive k q = true) (low : j < n)
    (before : ∀ i < j, ∃ l, s.reach .write (s.hart.ty d).w (placeAt (s.hart.rd a) ((q * n + i) * (s.hart.ty d).w)) = .ok l)
    (refused : s.reach .write (s.hart.ty d).w (placeAt (s.hart.rd a) ((q * n + j) * (s.hart.ty d).w)) = .error x)
    (ready : ∀ m, m / n < q → s.hart.isActive k (m / n) = true → (s.segPuts d a n found).Ready s m) :
    ∃ v, exec (.vstseg d a k w f) s = .next (v.faults (s.hart.elemTrap (s.hart.ty d).w (s.hart.activeList k) q x)) ∧ s.Stores v ∧
      (s.segPuts d a n found).Put s v fun m => m / n < q ∧ s.hart.isActive k (m / n) = true := by
  obtain ⟨rest, elements⟩ := activeList_split active
  obtain ⟨v, run, put⟩ := (Puts.Put.start s (s.segPuts d a n found) (act := fun m => m / n < 0 ∧ s.hart.isActive k (m / n) = true)
    fun m h => Nat.not_lt_zero _ h.1).scatterSeg (segPuts_sized seg) inv (by omega) (fun e i => rfl)
      (fun e i low => seg_value number e low) (s.hart.isActive k) q (fun m _ high active => ready m (by omega) active) (q :: rest)
  rw [← List.range_eq_range', Nat.zero_add] at *
  have places : ∀ i, v.hart.segPlace a (s.hart.ty d).w n i q = placeAt (s.hart.rd a) ((q * n + i) * (s.hart.ty d).w) := fun i => by
    rw [put.stores.hart]
    rfl
  have first : (List.range n).findSome? (v.fieldFault (s.hart.ty d).w n a q) = some x := by
    refine findSome?_range _ n low (State.fieldFault_some ?_) fun i early => ?_
    · rw [places, put.stores.reach]
      exact refused
    · obtain ⟨l, reach⟩ := before i early
      refine State.fieldFault_none (l := l) ?_
      rw [places, put.stores.reach]
      exact reach
  have all : s.scatterSeg (s.hart.ty d).w n a (s.hart.fieldValue d (s.hart.ty d).w (s.hart.grp d)) (s.hart.activeList k) = (v, some (q, x)) := by
    rw [elements]
    exact run.trans (State.scatterSeg_of_error first)
  refine ⟨v, ?_, put.stores, put⟩
  subst number
  rw [exec_vstseg_eq]
  exact vector_faulted seg.plain (seg.legal _) rfl (seg.typed _) (seg.sources _) (fun _ m => nomatch m) put.stores
    (vstsegBody_of_fault seg.plain all)

end

end

end Sys2Proof.Machine
end

section
/-! Every form of store; obligation O31. -/

namespace Sys2Proof.Machine

section
variable {s : State} {d a b : Reg} {k f : BitVec 3} {w x : BitVec 1} {i : Instr} {n : Nat} {place : Nat → Place}

/-- A store other than `vstseg` is one of the forms of R167. -/
theorem exec_store (plain : s.hart.Plain) (form : (n = 1 ∧ i = .vst d a k w ∧ place = fun e => placeAt (s.hart.rd a) (e * (s.hart.ty d).w)) ∨
      (n = 1 ∧ i = .vstb d a b k w ∧ place = fun e => placeAt (s.hart.rd a) ((s.hart.rd b).toNat + e * (s.hart.ty d).w)) ∨
      (n = 1 ∧ 8 ≤ (s.hart.ty d).w ∧ i = .vsts d a b k w ∧ place = fun e => ⟨s.hart.rd a + BitVec.ofInt 64 (e * (s.hart.rd b).toInt), 0⟩) ∨
      (n = 1 ∧ 8 ≤ (s.hart.ty d).w ∧ s.hart.opOk b s.hart.vl = true ∧ isIndexTy (s.hart.ty b) = true ∧
        s.hart.usable b.toNat (s.hart.grp b) ∧ i = .vstx d a b k w x ∧
        place = fun e => ⟨s.hart.rd a + BitVec.ofNat 64 (s.hart.elem b.toNat (s.hart.grp b) (s.hart.ty b).w e), 0⟩) ∨
      (n = f.toNat + 1 ∧ 8 ≤ (s.hart.ty d).w ∧ i = .vstseg d a k w f ∧
        place = fun m => placeAt (s.hart.rd a) (m * (s.hart.ty d).w))) :
    (n = 1 ∧ ∃ form : Form, exec i s = s.vstore form d a k (bit1 w) ∧ form.Legal s d a place) ∨
    (n = f.toNat + 1 ∧ 8 ≤ (s.hart.ty d).w ∧ i = .vstseg d a k w f ∧ place = fun m => placeAt (s.hart.rd a) (m * (s.hart.ty d).w)) := by
  rcases form with ⟨one, rfl, rfl⟩ | ⟨one, rfl, rfl⟩ | ⟨one, wide, rfl, rfl⟩ | ⟨one, wide, index, type, usable, rfl, rfl⟩ | seg
  · exact .inl ⟨one, .unit, rfl, Form.legal_unit⟩
  · exact .inl ⟨one, .bitOffset b, rfl, Form.legal_bitOffset⟩
  · exact .inl ⟨one, .strided b, rfl, Form.legal_strided wide⟩
  · exact .inl ⟨one, .indexed b (bit1 x), rfl, Form.legal_indexed _ plain wide index type usable⟩
  · exact .inr seg

theorem fieldReg_zero (d : Reg) (g m : Nat) : fieldReg d g (m % 1) = d := by
  unfold fieldReg
  rw [Nat.mod_one, Nat.zero_mul, Nat.add_zero, BitVec.ofNat_toNat, BitVec.setWidth_eq]

end

/-- Settles O31: a store is a run of places found and written (`Puts.Put`), of plain elements or of segments' fields. -/
theorem vectorStores : Obligations.VectorStores := by
  unfold Obligations.VectorStores
  intro s d a b k f w x i n place at_ inv h t g idx source plain opD inside usable sources form act bit value reached stored
  have active : ∀ q m, act q m = true ↔ m / n < q ∧ h.isActive k (m / n) = true := fun q m => by
    show (decide (m / n < q) && h.isActive k (m / n)) = true ↔ _
    rw [Bool.and_eq_true, decide_eq_true_eq]
  have ready : ∀ q, reached q → ∀ m, m / n < q → h.isActive k (m / n) = true → ∀ r : Puts, r.w = t.w → r.place = place → r.found = at_ →
      r.Ready s m := by
    intro q all m low here r width places found
    obtain ⟨w, p, l, v⟩ := r
    dsimp only at width places found
    subst width places found
    exact all m ((active q m).2 ⟨low, here⟩)
  rcases exec_store plain form with ⟨rfl, form, run, legal⟩ | ⟨number, wide, rfl, rfl⟩
  · obtain ⟨typed, -, -⟩ := sources 0 Nat.zero_lt_one
    have same : source 0 = d := fieldReg_zero d g 0
    rw [same] at typed
    have whole : h.usable d.toNat g := by rwa [Nat.one_mul] at usable
    have divided : ∀ q m, act q m = true ↔ m < q ∧ h.isActive k m = true := fun q m => by
      rw [active q m, Nat.div_one]
    have values : ∀ m, ∀ j < t.w, ((s.puts d place at_).value m).testBit j = (value m).testBit j := fun m j _ => by
      show (t.stored (h.elem d.toNat g t.w m)).testBit j = ((h.ty (fieldReg d g (m % 1))).stored
        (h.elem (fieldReg d g (m % 1)).toNat (h.grp (fieldReg d g (m % 1))) (h.ty (fieldReg d g (m % 1))).w (m / 1))).testBit j
      rw [fieldReg_zero, Nat.div_one]
    refine ⟨fun all => ?_, fun q j flt here low all before refused => ?_⟩
    · obtain ⟨v, done, stores, put⟩ := store_completes (k := k) (bit1 w) inv plain legal opD typed whole (found := at_) fun e here =>
        ready h.vl all e (by rw [Nat.div_one]; exact lt_of_isActive here) (by rwa [Nat.div_one]) _ rfl rfl rfl
      exact ⟨_, run.trans done, stores.done, put.shown (divided h.vl) values⟩
    · rw [show q * 1 + j = q by omega] at refused
      obtain ⟨v, faults, stores, put⟩ := store_faults (bit1 w) inv plain legal opD typed whole (found := at_) here refused fun e early here =>
        ready q all e (by rwa [Nat.div_one]) (by rwa [Nat.div_one]) _ rfl rfl rfl
      exact ⟨v, run.trans faults, stores.atStore, put.shown (divided q) values⟩
  · have seg : s.SegStore d n := ⟨plain, opD, inside, usable, wide, fun i low => by
      have operand := sources i low
      have same : source i = fieldReg d g i := by
        show BitVec.ofNat 5 (d.toNat + i % n * g) = _
        rw [Nat.mod_eq_of_lt low]
        rfl
      rwa [same] at operand⟩
    have values : ∀ m, ∀ j < t.w, ((s.segPuts d a n at_).value m).testBit j = (value m).testBit j := fun m j low => by
      show (h.fieldValue d t.w g (m % n) (m / n)).testBit j = _
      unfold Hart.fieldValue Hart.segField
      rw [Nat.testBit_mod_two_pow, decide_eq_true low, Bool.true_and]
      dsimp only
      rw [elems_plain h plain]
    refine ⟨fun all => ?_, fun q j flt here low all before refused => ?_⟩
    · obtain ⟨v, done, stores, put⟩ := segStore_completes (k := k) w inv number seg (a := a) (found := at_) fun m here =>
        ready h.vl all m (lt_of_isActive here) here _ rfl rfl rfl
      exact ⟨_, done, stores.done, put.shown (active h.vl) values⟩
    · obtain ⟨v, faults, stores, put⟩ := segStore_faults w inv number seg (a := a) (found := at_) here low before refused fun m early here =>
        ready q all m early here _ rfl rfl rfl
      exact ⟨v, faults, stores.atStore, put.shown (active q) values⟩

end Sys2Proof.Machine
end

section
/-! Elements read, and the replicas that reading leaves. -/

namespace Sys2Proof.Machine

/-! ### Elements read, and the replicas that reading leaves -/

theorem see1_own {s : State} (own : s.hart.lane = none) (q : Phys) (n : Nat) : s.see1 q n = s.load s.hart 1 false q.pa n := by
  have none : s.hart.laneHeld = [] := by
    unfold Hart.laneHeld
    rw [own]
  unfold State.see1
  rw [none]
  rfl

theorem seeElem_own {s : State} (own : s.hart.lane = none) (rep : Bool) (q : Phys) (n : Nat) : s.seeElem rep q n =
    if rep = true ∧ s.fromReplica = true then (s.replica q.pa n).getD (s.load s.hart 1 false q.pa n)
    else s.load s.hart 1 false q.pa n := by
  unfold State.seeElem
  rw [see1_own own]
  exact if_congr (by rw [Bool.and_eq_true]) rfl rfl

section
variable {s : State} {w : Nat} {p : Place} {q q' : Phys}

theorem reach_whole (wide : 8 ≤ w) (aligned : p.bit = 0) {acc : Acc} (access : s.access s.hart acc (w / 8) p.va = .ok q) :
    s.reach acc w p = .ok [q] := by
  obtain ⟨inside, -⟩ := State.access_ok _ _ _ _ _ _ access
  unfold State.reach
  rw [if_pos wide, if_neg (Nat.not_le.2 inside), if_neg (fun h => h aligned), access]
  rfl

theorem reach_byte (narrow : w < 8) (one : p.bit + w ≤ 8) {acc : Acc} (access : s.access s.hart acc 1 p.va = .ok q) :
    s.reach acc w p = .ok [q] := by
  unfold State.reach Place.bytes
  rw [if_neg (by omega), if_pos (by omega), access]
  rfl

theorem reach_bytes (narrow : w < 8) (two : 8 < p.bit + w) {acc : Acc} (first : s.access s.hart acc 1 p.va = .ok q)
    (second : s.access s.hart acc 1 (p.va + 1) = .ok q') : s.reach acc w p = .ok [q, q'] := by
  unfold State.reach Place.bytes
  rw [if_neg (by omega), if_neg (by omega), first, second]
  rfl

theorem readPlace_of_reach {rep : Bool} (reach : s.reach .read w p = .ok [q]) :
    s.readPlace rep w p = .ok (if 8 ≤ w then s.seeElem rep q (w / 8) else s.see1 q 1 / 2 ^ p.bit % 2 ^ w) := by
  unfold State.readPlace
  rw [reach]

theorem readPlace_of_reach₂ {rep : Bool} (reach : s.reach .read w p = .ok [q, q']) :
    s.readPlace rep w p = .ok ((s.see1 q 1 + 256 * s.see1 q' 1) / 2 ^ p.bit % 2 ^ w) := by
  unfold State.readPlace
  rw [reach]

/-- An element of whole bytes, by memory or a replica (R164, R169). -/
theorem readPlace_whole (own : s.hart.lane = none) (wide : 8 ≤ w) (aligned : p.bit = 0)
    (access : s.access s.hart .read (w / 8) p.va = .ok q) :
    s.readPlace false w p = .ok (s.load s.hart 1 false q.pa (w / 8)) ∧
    s.readPlace true w p = .ok (if s.fromReplica = true then (s.replica q.pa (w / 8)).getD (s.load s.hart 1 false q.pa (w / 8))
      else s.load s.hart 1 false q.pa (w / 8)) := by
  have reach := reach_whole wide aligned access
  rw [readPlace_of_reach reach, readPlace_of_reach reach, if_pos wide, if_pos wide, seeElem_own own, seeElem_own own]
  refine ⟨congrArg Except.ok (if_neg fun h => nomatch h.1), congrArg Except.ok (if_congr ?_ rfl rfl)⟩
  exact ⟨fun h => h.2, fun h => ⟨rfl, h⟩⟩

/-- An element within a byte (R166). -/
theorem readPlace_byte (own : s.hart.lane = none) (rep : Bool) (narrow : w < 8) (one : p.bit + w ≤ 8)
    (access : s.access s.hart .read 1 p.va = .ok q) : s.readPlace rep w p = .ok ((s.sees 1 q.pa).toNat / 2 ^ p.bit % 2 ^ w) := by
  rw [readPlace_of_reach (reach_byte narrow one access), if_neg (by omega), see1_own own, State.load_one]

/-- An element across two bytes (R166). -/
theorem readPlace_bytes (own : s.hart.lane = none) (rep : Bool) (narrow : w < 8) (two : 8 < p.bit + w)
    (first : s.access s.hart .read 1 p.va = .ok q) (second : s.access s.hart .read 1 (p.va + 1) = .ok q') :
    s.readPlace rep w p = .ok (((s.sees 1 q.pa).toNat + 256 * (s.sees 1 q'.pa).toNat) / 2 ^ p.bit % 2 ^ w) := by
  rw [readPlace_of_reach₂ (reach_bytes narrow two first second), see1_own own, see1_own own, State.load_one, State.load_one]

end

section
variable {s : State} {rep : Bool} {w : Nat} {place : Nat → Place} {val : Nat → Nat}

theorem gather_append (es rest : List Nat) (reads : ∀ e ∈ es, s.readPlace rep w (place e) = .ok (val e)) :
    s.gather rep w place (es ++ rest) =
      ((es.map fun e => (e, val e)) ++ (s.gather rep w place rest).1, (s.gather rep w place rest).2) := by
  induction es with
  | nil => rfl
  | cons e es ih =>
    rw [List.cons_append, State.gather, reads e (List.mem_cons_self ..), ih fun e m => reads e (List.mem_cons_of_mem _ m)]
    rfl

theorem gather_all (es : List Nat) (reads : ∀ e ∈ es, s.readPlace rep w (place e) = .ok (val e)) :
    s.gather rep w place es = (es.map fun e => (e, val e), none) := by
  have all := gather_append es [] reads
  rw [List.append_nil] at all
  rw [all]
  exact Prod.ext (List.append_nil _) rfl

theorem gather_fault {es rest : List Nat} {q : Nat} {f : Flt} (reads : ∀ e ∈ es, s.readPlace rep w (place e) = .ok (val e))
    (fails : s.readPlace rep w (place q) = .error f) : s.gather rep w place (es ++ q :: rest) = (es.map fun e => (e, val e), some (q, f)) := by
  rw [gather_append es _ reads, State.gather, fails]
  exact Prod.ext (List.append_nil _) rfl

end

/-! ### Replicas -/

/-- A state with other replicas. -/
def State.withReplicas (s : State) (rs : List Replica) : State := { s with replicas := rs }

theorem keepReplica_eq (s : State) (q : Phys) (n v : Nat) : s.keepReplica q n v = s.withReplicas (s.keepReplica q n v).replicas := by
  unfold State.keepReplica
  split <;> rfl

theorem keepReplicas_eq (l : List (Nat × Nat)) (s : State) (w : Nat) (place : Nat → Place) :
    s.keepReplicas w place l = s.withReplicas (s.keepReplicas w place l).replicas := by
  induction l generalizing s with
  | nil => rfl
  | cons p l ih =>
    obtain ⟨e, v⟩ := p
    unfold State.keepReplicas
    split
    · next q _ =>
      split
      · rw [ih, keepReplica_eq]
        rfl
      · exact ih s
    · exact ih s

section
variable {s : State} {q : Phys} {n v : Nat}

theorem replica_kept (keeps : ¬((s.fromReplica = true ∧ (s.replica q.pa n).isSome = true) ∨ memRead s.mem q.pa n ≠ v)) :
    (s.keepReplica q n v).replica q.pa n = some v := by
  unfold State.keepReplica
  rw [if_neg keeps]
  unfold State.replica
  rw [List.find?_cons_of_pos (by simp)]
  rfl

theorem find?_filter_of_imp {α : Type} (f g : α → Bool) (l : List α) (imp : ∀ x, f x = true → g x = true) :
    (l.filter g).find? f = l.find? f := by
  rw [List.find?_filter]
  congr 1
  funext x
  cases here : f x with
  | false => simp
  | true => simp [imp x here]

theorem replica_other (pa : Nat) (ne : pa ≠ q.pa) : (s.keepReplica q n v).replica pa n = s.replica pa n := by
  unfold State.keepReplica
  split
  · rfl
  · unfold State.replica
    dsimp only
    rw [List.find?_cons_of_neg (by simp [ne.symm]), find?_filter_of_imp]
    intro x here
    simp only [decide_eq_true_eq] at here
    simp only [Bool.not_eq_true', decide_eq_false_iff_not]
    rintro ⟨-, same, -⟩
    exact ne (here.2.1.symm.trans same)

end

/-- What a `.rep` load takes for the element of `n` bytes at `pa` (R169). -/
def State.repValue (s : State) (pa n : Nat) : Nat :=
  if s.fromReplica = true then (s.replica pa n).getD (s.load s.hart 1 false pa n) else s.load s.hart 1 false pa n

/-- The replica that a `.rep` load of it leaves (R169, R202). -/
def State.repLeft (s : State) (pa n : Nat) : Option Nat :=
  if memRead s.mem pa n = s.repValue pa n then some (s.repValue pa n) else s.replica pa n

/-- One element more of a `.rep` load: `u` is the machine after some of its elements. -/
theorem keepReplica_spec {s : State} (q : Phys) (n : Nat) {rs : List Replica}
    (so : ∀ pa, (s.withReplicas rs).replica pa n = s.replica pa n ∨ (s.withReplicas rs).replica pa n = s.repLeft pa n) :
    ((s.withReplicas rs).keepReplica q n (s.repValue q.pa n)).replica q.pa n = s.repLeft q.pa n := by
  by_cases keeps : ((s.withReplicas rs).fromReplica = true ∧ ((s.withReplicas rs).replica q.pa n).isSome = true) ∨
      memRead (s.withReplicas rs).mem q.pa n ≠ s.repValue q.pa n
  · rw [State.keepReplica, if_pos keeps]
    rcases so q.pa with before | after
    · rw [before]
      unfold State.repLeft
      by_cases memory : memRead s.mem q.pa n = s.repValue q.pa n
      · rw [if_pos memory]
        rcases keeps with ⟨replica, known⟩ | other
        · rw [before] at known
          obtain ⟨x, is⟩ := Option.isSome_iff_exists.1 known
          have value : s.repValue q.pa n = x := by
            unfold State.repValue
            rw [if_pos (show s.fromReplica = true from replica), is]
            rfl
          rw [is, value]
        · exact absurd memory other
      · rw [if_neg memory]
    · exact after
  · rw [replica_kept keeps]
    have memory : memRead s.mem q.pa n = s.repValue q.pa n := by
      by_contra other
      exact keeps (.inr other)
    exact (if_pos memory).symm

theorem withReplicas_reach (s : State) (rs : List Replica) : (s.withReplicas rs).reach = s.reach := rfl

/-- The replicas that a `.rep` load of whole elements leaves: one of each element that it has from memory, and no other. -/
theorem keepReplicas_spec {s : State} {w : Nat} {place : Nat → Place} (wide : 8 ≤ w) (l : List (Nat × Nat)) {rs : List Replica}
    (reads : ∀ p ∈ l, ∀ q, s.reach .read w (place p.1) = .ok [q] → p.2 = s.repValue q.pa (w / 8))
    (so : ∀ pa, (s.withReplicas rs).replica pa (w / 8) = s.replica pa (w / 8) ∨
      (s.withReplicas rs).replica pa (w / 8) = s.repLeft pa (w / 8)) :
    (∀ pa, ((s.withReplicas rs).keepReplicas w place l).replica pa (w / 8) = (s.withReplicas rs).replica pa (w / 8) ∨
      ((s.withReplicas rs).keepReplicas w place l).replica pa (w / 8) = s.repLeft pa (w / 8)) ∧
    ∀ p ∈ l, ∀ q, s.reach .read w (place p.1) = .ok [q] →
      ((s.withReplicas rs).keepReplicas w place l).replica q.pa (w / 8) = s.repLeft q.pa (w / 8) := by
  induction l generalizing rs with
  | nil => exact ⟨fun _ => .inl rfl, fun _ m => nomatch m⟩
  | cons p l ih =>
    obtain ⟨e, v⟩ := p
    have later := fun p m => reads p (List.mem_cons_of_mem _ m)
    by_cases one : ∃ q, s.reach .read w (place e) = .ok [q]
    · obtain ⟨q, reach⟩ := one
      have value : v = s.repValue q.pa (w / 8) := reads (e, v) (List.mem_cons_self ..) q reach
      have step : (s.withReplicas rs).keepReplicas w place ((e, v) :: l) =
          ((s.withReplicas rs).keepReplica q (w / 8) v).keepReplicas w place l := by
        rw [State.keepReplicas, withReplicas_reach, reach]
        dsimp only
        rw [if_pos wide]
      have here := keepReplica_spec q (w / 8) so
      rw [← value] at here
      have other := fun pa ne => replica_other (s := s.withReplicas rs) (q := q) (n := w / 8) (v := v) pa ne
      obtain ⟨rs', eq⟩ : ∃ rs', (s.withReplicas rs).keepReplica q (w / 8) v = s.withReplicas rs' := ⟨_, keepReplica_eq ..⟩
      rw [step]
      rw [eq] at here other ⊢
      have again : ∀ pa, (s.withReplicas rs').replica pa (w / 8) = s.replica pa (w / 8) ∨
          (s.withReplicas rs').replica pa (w / 8) = s.repLeft pa (w / 8) := fun pa => by
        by_cases same : pa = q.pa
        · exact .inr (same ▸ here)
        · exact (so pa).imp (fun h => (other pa same).trans h) fun h => (other pa same).trans h
      obtain ⟨all, each⟩ := ih later again
      refine ⟨fun pa => ?_, fun p m q' reach' => ?_⟩
      · rcases all pa with kept | left
        · by_cases same : pa = q.pa
          · exact .inr (kept.trans (same ▸ here))
          · exact .inl (kept.trans (other pa same))
        · exact .inr left
      · rcases List.mem_cons.1 m with rfl | m
        · have same : q' = q := by
            rw [reach] at reach'
            cases reach'
            rfl
          rw [same]
          exact (all q.pa).elim (fun kept => kept.trans here) fun left => left
        · exact each p m q' reach'
    · have step : (s.withReplicas rs).keepReplicas w place ((e, v) :: l) = (s.withReplicas rs).keepReplicas w place l := by
        rw [State.keepReplicas, withReplicas_reach]
        split
        · next q reach => exact absurd ⟨q, reach⟩ one
        · rfl
      rw [step]
      obtain ⟨all, each⟩ := ih later so
      refine ⟨all, fun p m q reach => ?_⟩
      rcases List.mem_cons.1 m with rfl | m
      · exact absurd ⟨q, reach⟩ one
      · exact each p m q reach

end Sys2Proof.Machine
end

section
/-! The replicas and registers that a load leaves; loads that are noted. -/

namespace Sys2Proof.Machine

/-! ### The replicas and registers that a load leaves -/

section
variable {s : State} {w : Nat} {place : Nat → Place} {val : Nat → Nat}

/-- What a `.rep` load reads where one physical place of whole bytes is found (R169). -/
theorem repValue_of_read (own : s.hart.lane = none) (wide : 8 ≤ w) {e : Nat} {q : Phys} (reach : s.reach .read w (place e) = .ok [q])
    (reads : s.readPlace true w (place e) = .ok (val e)) : val e = s.repValue q.pa (w / 8) := by
  rw [readPlace_of_reach reach, if_pos wide, seeElem_own own] at reads
  have value := Except.ok.inj reads
  rw [← value]
  exact if_congr ⟨fun both => both.2, fun replica => ⟨rfl, replica⟩⟩ rfl rfl

/-- The replicas after a load of the elements `es` (R169). -/
theorem replicas_left (rep : Bool) (own : s.hart.lane = none) (es : List Nat)
    (reads : ∀ e ∈ es, s.readPlace rep w (place e) = .ok (val e)) :
    ∃ rs, (if rep = true then s.keepReplicas w place (es.map fun e => (e, val e)) else s) = s.withReplicas rs ∧
      (rep = false → rs = s.replicas) ∧
      (rep = true → 8 ≤ w → ∀ e ∈ es, ∀ q, s.reach .read w (place e) = .ok [q] → (s.withReplicas rs).replica q.pa (w / 8) =
        if memRead s.mem q.pa (w / 8) = val e then some (val e) else s.replica q.pa (w / 8)) := by
  cases rep with
  | false => exact ⟨s.replicas, rfl, fun _ => rfl, fun no => nomatch no⟩
  | true =>
    rw [if_pos rfl, keepReplicas_eq]
    refine ⟨_, rfl, (nomatch ·), fun _ wide e m q reach => ?_⟩
    rw [← keepReplicas_eq]
    obtain ⟨-, left⟩ := keepReplicas_spec (s := s) (place := place) wide (es.map fun e => (e, val e)) (rs := s.replicas)
      (fun p m q reach => by
        obtain ⟨e, me, rfl⟩ := List.mem_map.1 m
        exact repValue_of_read own wide reach (reads e me)) fun _ => .inl rfl
    have here := left (e, val e) (List.mem_map_of_mem m) q reach
    rw [repValue_of_read own wide reach (reads e m)]
    exact here

end

/-- A group in which nothing has been written. -/
theorem GroupWritten.unwritten (h : Hart) (d g w : Nat) (val : Nat → Nat) : GroupWritten h h d g w id (fun _ => false) val :=
  ⟨fun _ _ => rfl, fun _ _ => rfl, fun _ _ _ => rfl⟩

/-- `h'` is `h` with elements loaded into a group that is empty until they land (R49). -/
structure Hart.Landed (h h' : Hart) (d g w due : Nat) (act : Nat → Bool) (val : Nat → Nat) : Prop where
  frame : h' = { h with vregs := h'.vregs, pend := h.pend ++ [⟨members d g, due⟩] }
  written : GroupWritten h h' d g w (fun c => c &&& 0xFFF7FFFF) act val

/-- What the registers of a load and its elements have to meet. -/
structure Hart.Loads (h : Hart) (d : Reg) : Prop where
  plain : h.Plain
  typed : (h.ty d).cls ≠ .untagged
  data : h.opOk d h.vl = true
  usable : h.usable d.toNat (h.grp d)

section
variable {s : State} {d : Reg} (ops : s.hart.Loads d)
include ops

theorem Hart.Loads.unbound : s.hart.isBound d.toNat = false := isBound_base _ _ _ (cfgGrp_pos _) ops.usable

/-- The active elements below `q` put into vd. -/
theorem putRaw_below (k : BitVec 3) (q : Nat) (val : Nat → Nat) (rs : List Replica) :
    ∃ h', (s.withReplicas rs).putRaw d.toNat (s.hart.grp d) (s.hart.ty d) ((s.hart.below k q).map fun e => (e, val e)) =
        (s.withReplicas rs).setHart h' ∧ h' = { s.hart with vregs := h'.vregs } ∧
      GroupWritten s.hart h' d.toNat (s.hart.grp d) (s.hart.ty d).w id (fun e => decide (e < q) && s.hart.isActive k e) val :=
  putRaw_list (s.withReplicas rs) _ _ _ _ ops.plain.own (grantWidth_le _ ops.plain.width) (cfgGrp_pos _) (fun i m => (ops.usable i m).1)
    (opOk_base ops.data ops.plain.own) (opOk_fits ops.plain.own ops.data (tagWidth_ne _ ops.typed) val) (find_below s.hart k q val)

/-- The active elements below `q` loaded into vd. -/
theorem landLoad_below (k : BitVec 3) (q : Nat) (val : Nat → Nat) (rs : List Replica) :
    ∃ h', (s.withReplicas rs).landLoad d (s.hart.grp d) (s.hart.ty d) ((s.hart.below k q).map fun e => (e, val e)) =
        (s.withReplicas rs).setHart h' ∧
      s.hart.Landed h' d.toNat (s.hart.grp d) (s.hart.ty d).w s.loadLat (fun e => decide (e < q) && s.hart.isActive k e) val := by
  obtain ⟨h1, put, frame, written⟩ := putRaw_below ops k q val rs
  have own : h1.lane = none := by
    rw [frame]
    exact ops.plain.own
  have unbound : h1.isBound d.toNat = false := by
    rw [frame]
    exact ops.unbound
  refine ⟨h1.produced (members d.toNat (s.hart.grp d)) s.loadLat, ?_, ?_, written.emptied (opOk_base ops.data ops.plain.own) rfl rfl⟩
  · unfold State.landLoad
    dsimp only
    rw [put, if_neg (by rw [State.setHart_hart, unbound]; exact Bool.false_ne_true), produce_own _ _ _ own]
    rfl
  · unfold Hart.produced
    generalize (h1.setFulls false (members d.toNat (s.hart.grp d))).vregs = vs
    rw [frame]

end

/-! ### Loads that are issued without performing -/

/-- The physical place of an element that a load may leave for later (R196). -/
def State.lateSpot (s : State) (w : Nat) (place : Nat → Place) (e : Nat) : Option (Nat × Nat) :=
  match s.reach .read w (place e) with
  | .ok [q] => if s.delays 1 q then some (e, q.pa) else none
  | _ => none

/-- A context with a load noted that performs later. -/
def Hart.noted (h : Hart) (d : Reg) (g w : Nat) (l : List (Nat × Nat)) : Hart :=
  { h with late := h.late ++ [{ stream := 1, dest := .vector d.toNat g w, size := w / 8, elems := l }] }

section
variable {s : State} {w : Nat} {place : Nat → Place}

theorem lateSpot_some {e : Nat} {q : Phys} (reach : s.reach .read w (place e) = .ok [q]) (delays : s.delays 1 q = true) :
    s.lateSpot w place e = some (e, q.pa) := by
  unfold State.lateSpot
  rw [reach]
  exact if_pos delays

theorem lateSpot_none (e : Nat) (prompt : ∀ q, s.reach .read w (place e) = .ok [q] → s.delays 1 q = false) :
    s.lateSpot w place e = none := by
  unfold State.lateSpot
  split
  · next q reach => rw [prompt q reach, if_neg Bool.false_ne_true]
  · rfl

theorem issueLoad_eq (d : Reg) (g : Nat) (t : Ty) (es : List Nat) : s.issueLoad d g t place es =
    if s.hart.isBound d.toNat ∨ t.w < 8 ∨ es = [] then none
    else (es.mapM (s.lateSpot t.w place)).map fun l =>
      (s.upd fun h => h.noted d g t.w l).produce (members d.toNat g) s.loadLat := rfl

end

theorem mapM_of_all_some {α β : Type} {f : α → Option β} {g : α → β} (l : List α) (all : ∀ x ∈ l, f x = some (g x)) :
    l.mapM f = some (l.map g) := by
  induction l with
  | nil => rfl
  | cons x l ih =>
    rw [List.mapM_cons, all x (List.mem_cons_self ..), ih fun y m => all y (List.mem_cons_of_mem _ m)]
    rfl

theorem mapM_of_none {α β : Type} {f : α → Option β} {l : List α} {x : α} (m : x ∈ l) (none : f x = none) : l.mapM f = .none := by
  induction l with
  | nil => cases m
  | cons y l ih =>
    rw [List.mapM_cons]
    rcases List.mem_cons.1 m with rfl | m
    · rw [none]
      rfl
    · rw [ih m]
      cases f y <;> rfl

end Sys2Proof.Machine
end

section
/-! Loads of one group. -/

namespace Sys2Proof.Machine

/-! ### Loads of one group -/

/-- What a vector instruction's frame has to meet for it to run: it is legal, no operand has a wrong type, and every register is full
and bound to no stream. -/
structure VSpec.Runs (v : VSpec) (h : Hart) : Prop where
  legal : v.ill = false
  tile : v.tile = none
  typed : v.mism = false
  sources : ∀ x ∈ v.srcs, 0 < x.grp ∧ h.usable x.reg x.grp
  dests : ∀ x ∈ v.dsts, 0 < x.grp ∧ h.usable x.reg x.grp

/-- `h'` stands at the same instruction, with the same elements yet to do. -/
structure Hart.SamePlace (h h' : Hart) : Prop where
  pc : h'.pc = h.pc
  width : h'.w = h.w
  lane : h'.lane = h.lane
  walked : h'.walked = h.walked
  taken : h'.taken = h.taken
  limit : h'.limit = h.limit
  counted : h'.counted = h.counted

section
variable {s : State} {v : VSpec} {body : State → Res} {rs : List Replica} {h' : Hart}

/-- A vector instruction that is done in a context at the same place. -/
theorem vector_next (plain : s.hart.Plain) (runs : v.Runs s.hart) (same : s.hart.SamePlace h') (done : body s = (s.withReplicas rs).done h') :
    s.vector v body = .next ((s.withReplicas rs).setHart (h'.advance 4)) := by
  refine vector_plain s _ v body runs.legal runs.tile runs.typed runs.sources runs.dests (done.trans (State.done_eq _ _)) ?_
    (same.walked.trans plain.unwalked) (same.taken.trans plain.untaken) (same.limit.trans plain.unlimited)
    (same.counted.trans plain.uncounted)
  show h'.pc + 4 ≠ s.hart.pc
  rw [same.pc]
  simp

/-- A vector instruction that has met the fault of an element in a context at the same place. -/
theorem vector_elemFault {w q : Nat} {act : List Nat} {x : Flt} (plain : s.hart.Plain) (runs : v.Runs s.hart) (same : s.hart.SamePlace h')
    (fault : body s = ((s.withReplicas rs).setHart h').elemFault w act q x) :
    s.vector v body = .next (((s.withReplicas rs).setHart h').faults (s.hart.elemTrap w act q x)) := by
  have own : h'.lane = none := same.lane.trans plain.own
  rw [State.elemFault_own _ _ _ _ own (same.walked.trans plain.unwalked),
    show ((s.withReplicas rs).setHart h').hart.elemTrap w act q x = s.hart.elemTrap w act q x from
      elemTrap_congr same.pc same.width ..] at fault
  refine vector_stops s _ v body runs.legal runs.tile runs.typed runs.sources runs.dests fault ?_
  rw [State.faults_pc _ own]
  exact same.pc

end

theorem samePlace_of_vregs {h h' : Hart} (frame : h' = { h with vregs := h'.vregs }) : h.SamePlace h' := by
  rw [frame]
  exact ⟨rfl, rfl, rfl, rfl, rfl, rfl, rfl⟩

theorem Hart.Landed.samePlace {h h' : Hart} {d g w due : Nat} {act : Nat → Bool} {val : Nat → Nat} (landed : h.Landed h' d g w due act val) :
    h.SamePlace h' := by
  rw [landed.frame]
  exact ⟨rfl, rfl, rfl, rfl, rfl, rfl, rfl⟩

/-- The frame of a load of one group. -/
def Hart.vloadSpec (h : Hart) (f : Form) (d : Reg) (k : BitVec 3) : VSpec :=
  { ill := (h.formParts f).2.1 || !h.opOk d h.reach || (!f.subByte && (h.ty d).w != 0 && decide ((h.ty d).w < 8)), tile := none
    mism := (h.formParts f).2.2 || (h.ty d).cls == .untagged, srcs := (h.formParts f).1
    dsts := [{ reg := d.toNat, grp := h.grp d, cfg := none, len := h.vl }], sends := h.active k (h.ty d).w, lanewise := true
    w := (h.ty d).w }

/-- What a load of one group does within its frame. -/
def State.vloadBody (rep : Bool) (f : Form) (d a : Reg) (k : BitVec 3) (t : Ty) (g : Nat) (s : State) : Res :=
  let h := s.hart
  if h.reach = 0 then s.done h
  else
    let place := h.formPlace f a t.w
    let es := h.active k t.w
    let (l, flt) := s.gather rep t.w place es
    let s1 := if rep then s.keepReplicas t.w place l else s
    match flt with
    | some (e, x) => (s1.putRaw d.toNat g t l).elemFault t.w (h.owed k t.w) e x
    | none =>
      let s2 := ((if rep then none else s.issueLoad d g t place es).getD (s1.landLoad d g t l))
      s2.done s2.hart

theorem vload_eq (s : State) (rep : Bool) (f : Form) (d a : Reg) (k : BitVec 3) :
    s.vload rep f d a k = s.vector (s.hart.vloadSpec f d k) (State.vloadBody rep f d a k (s.hart.ty d) (s.hart.grp d)) := by
  cases f <;> rfl

section
variable {s : State} {f : Form} {d a : Reg} {k : BitVec 3} {place : Nat → Place} {rep : Bool} (ops : s.hart.Loads d)
  (legal : f.Legal s d a place)
include ops legal

theorem vload_runs : (s.hart.vloadSpec f d k).Runs s.hart where
  legal := by
    show ((s.hart.formParts f).2.1 || !s.hart.opOk d s.hart.reach || (!f.subByte && (s.hart.ty d).w != 0 &&
      decide ((s.hart.ty d).w < 8))) = false
    rw [legal.parts, reach_own ops.plain.own, ops.data, Form.legal_sub legal]
    rfl
  tile := rfl
  typed := by
    show ((s.hart.formParts f).2.2 || (s.hart.ty d).cls == .untagged) = false
    rw [legal.parts]
    exact beq_eq_false_iff_ne.2 ops.typed
  sources := legal.usable
  dests x m := by
    rcases List.mem_singleton.1 m with rfl
    exact ⟨cfgGrp_pos _, ops.usable⟩

theorem vload_idle (none : s.hart.vl = 0) : s.vload rep f d a k = .next (s.atPc (s.hart.pc + 4)) := by
  rw [vload_eq]
  refine vector_next (rs := s.replicas) (h' := s.hart) ops.plain (vload_runs ops legal) ⟨rfl, rfl, rfl, rfl, rfl, rfl, rfl⟩ ?_
  unfold State.vloadBody
  dsimp only
  rw [if_pos (by rw [reach_own ops.plain.own, none])]
  rfl

/-- A load whose elements have all been read: it performs, or is noted. -/
theorem vloadBody_of_read {l : List (Nat × Nat)} (any : 0 < s.hart.vl)
    (read : s.gather rep (s.hart.ty d).w place (s.hart.activeList k) = (l, none)) :
    State.vloadBody rep f d a k (s.hart.ty d) (s.hart.grp d) s =
      let u := (if rep = true then none else s.issueLoad d (s.hart.grp d) (s.hart.ty d) place (s.hart.activeList k)).getD
        ((if rep = true then s.keepReplicas (s.hart.ty d).w place l else s).landLoad d (s.hart.grp d) (s.hart.ty d) l)
      u.done u.hart := by
  unfold State.vloadBody
  dsimp only
  rw [if_neg (by rw [reach_own ops.plain.own]; omega), legal.places, active_list ops.plain, read]

/-- A load that performs as it issues. -/
theorem vload_completes {val : Nat → Nat} (any : 0 < s.hart.vl)
    (reads : ∀ e, s.hart.isActive k e = true → s.readPlace rep (s.hart.ty d).w (place e) = .ok (val e))
    (prompt : rep = true ∨ s.delaying = [] ∨ (s.hart.ty d).w < 8 ∨ s.hart.activeList k = [] ∨
      (∃ e q, s.hart.isActive k e = true ∧ s.reach .read (s.hart.ty d).w (place e) = .ok [q] ∧ s.delays 1 q = false)) :
    ∃ rs h', s.vload rep f d a k = .next ((s.withReplicas rs).setHart (h'.advance 4)) ∧
      s.hart.Landed h' d.toNat (s.hart.grp d) (s.hart.ty d).w s.loadLat (s.hart.isActive k) val ∧
      (rep = false → rs = s.replicas) ∧
      (rep = true → 8 ≤ (s.hart.ty d).w → ∀ e q, s.hart.isActive k e = true → s.reach .read (s.hart.ty d).w (place e) = .ok [q] →
        (s.withReplicas rs).replica q.pa ((s.hart.ty d).w / 8) =
          if memRead s.mem q.pa ((s.hart.ty d).w / 8) = val e then some (val e) else s.replica q.pa ((s.hart.ty d).w / 8)) := by
  have reads : ∀ e ∈ s.hart.activeList k, s.readPlace rep (s.hart.ty d).w (place e) = .ok (val e) :=
    fun e m => reads e (mem_activeList.1 m)
  obtain ⟨rs, kept, same, left⟩ := replicas_left rep ops.plain.own _ reads
  obtain ⟨h', lands, landed⟩ := landLoad_below ops k s.hart.vl val rs
  rw [below_vl] at lands
  have prompt : (if rep = true then none else s.issueLoad d (s.hart.grp d) (s.hart.ty d) place (s.hart.activeList k)) = none := by
    cases rep with
    | true => rfl
    | false =>
      rw [if_neg Bool.false_ne_true, issueLoad_eq]
      split
      · rfl
      · next late =>
        have none : (s.hart.activeList k).mapM (s.lateSpot (s.hart.ty d).w place) = none := by
          rcases prompt with no | delaying | narrow | empty | ⟨e, q, active, reach, prompt⟩
          · exact nomatch no
          · obtain ⟨e, m⟩ := List.exists_mem_of_ne_nil _ fun empty => late (.inr (.inr empty))
            refine mapM_of_none m (lateSpot_none e fun q _ => ?_)
            unfold State.delays
            rw [delaying]
            rfl
          · exact absurd (.inr (.inl narrow)) late
          · exact absurd (.inr (.inr empty)) late
          · refine mapM_of_none (mem_activeList.2 active) (lateSpot_none e fun q' reach' => ?_)
            rw [reach] at reach'
            cases reach'
            exact prompt
        rw [none]
        rfl
  refine ⟨rs, h', ?_, ⟨landed.frame, landed.written.congr rfl rfl ?_ fun _ _ => rfl⟩, same,
    fun replicas wide e q active => left replicas wide e (mem_activeList.2 active) q⟩
  · rw [vload_eq]
    refine vector_next ops.plain (vload_runs ops legal) landed.samePlace ?_
    rw [vloadBody_of_read ops legal any (gather_all _ reads), prompt, kept]
    dsimp only [Option.getD]
    rw [lands]
    rfl
  · funext e
    cases active : s.hart.isActive k e with
    | false => exact Bool.and_false _
    | true => rw [decide_eq_true (lt_of_isActive active), Bool.and_self]

/-- A load that is noted and performs later (R196). -/
theorem vload_notes {pa : Nat → Nat} (any : 0 < s.hart.vl) (wide : 8 ≤ (s.hart.ty d).w) (elements : s.hart.activeList k ≠ [])
    (delays : ∀ e, s.hart.isActive k e = true → ∃ q, s.reach .read (s.hart.ty d).w (place e) = .ok [q] ∧ q.pa = pa e ∧ s.delays 1 q = true) :
    s.vload false f d a k = .next (s.setHart (((s.hart.noted d (s.hart.grp d) (s.hart.ty d).w
      ((s.hart.activeList k).map fun e => (e, pa e))).produced (members d.toNat (s.hart.grp d)) s.loadLat).advance 4)) := by
  have spots : (s.hart.activeList k).mapM (s.lateSpot (s.hart.ty d).w place) = some ((s.hart.activeList k).map fun e => (e, pa e)) := by
    refine mapM_of_all_some _ fun e m => ?_
    obtain ⟨q, reach, address, late⟩ := delays e (mem_activeList.1 m)
    rw [lateSpot_some reach late, address]
  have issued : s.issueLoad d (s.hart.grp d) (s.hart.ty d) place (s.hart.activeList k) = some (s.setHart ((s.hart.noted d (s.hart.grp d)
      (s.hart.ty d).w ((s.hart.activeList k).map fun e => (e, pa e))).produced (members d.toNat (s.hart.grp d)) s.loadLat)) := by
    rw [issueLoad_eq, if_neg, spots]
    · exact congrArg some (produce_own _ _ _ ops.plain.own)
    · rintro (bound | narrow | empty)
      · rw [ops.unbound] at bound
        cases bound
      · omega
      · exact elements empty
  have reads : ∀ e ∈ s.hart.activeList k, ∃ v, s.readPlace false (s.hart.ty d).w (place e) = .ok v := fun e m => by
    obtain ⟨q, reach, -, -⟩ := delays e (mem_activeList.1 m)
    exact ⟨_, readPlace_of_reach reach⟩
  choose! val reads using reads
  rw [vload_eq]
  refine vector_next (rs := s.replicas) ops.plain (vload_runs ops legal) (h' := (s.hart.noted d (s.hart.grp d) (s.hart.ty d).w
    ((s.hart.activeList k).map fun e => (e, pa e))).produced (members d.toNat (s.hart.grp d)) s.loadLat)
    ⟨rfl, rfl, rfl, rfl, rfl, rfl, rfl⟩ ?_
  rw [vloadBody_of_read ops legal any (gather_all _ reads), if_neg Bool.false_ne_true, issued]
  rfl

/-- A load whose element `q` cannot be read. -/
theorem vload_faults {q : Nat} {x : Flt} {val : Nat → Nat} (active : s.hart.isActive k q = true)
    (refused : s.readPlace rep (s.hart.ty d).w (place q) = .error x)
    (reads : ∀ e < q, s.hart.isActive k e = true → s.readPlace rep (s.hart.ty d).w (place e) = .ok (val e)) :
    ∃ rs h', s.vload rep f d a k =
        .next (((s.withReplicas rs).setHart h').faults (s.hart.elemTrap (s.hart.ty d).w (s.hart.activeList k) q x)) ∧
      h' = { s.hart with vregs := h'.vregs } ∧ (rep = false → rs = s.replicas) ∧
      GroupWritten s.hart h' d.toNat (s.hart.grp d) (s.hart.ty d).w id (fun e => decide (e < q) && s.hart.isActive k e) val := by
  obtain ⟨rest, elements⟩ := activeList_split active
  have reads : ∀ e ∈ s.hart.below k q, s.readPlace rep (s.hart.ty d).w (place e) = .ok (val e) := fun e m =>
    reads e (mem_below.1 m).1 (mem_below.1 m).2
  obtain ⟨rs, kept, same, -⟩ := replicas_left rep ops.plain.own _ reads
  obtain ⟨h', put, frame, written⟩ := putRaw_below ops k q val rs
  refine ⟨rs, h', ?_, frame, same, written⟩
  rw [vload_eq]
  refine vector_elemFault ops.plain (vload_runs ops legal) (samePlace_of_vregs frame) ?_
  have inside := lt_of_isActive active
  unfold State.vloadBody
  dsimp only
  rw [if_neg (by rw [reach_own ops.plain.own]; omega), legal.places, active_list ops.plain, owed_plain ops.plain]
  conv_lhs => rw [elements]
  rw [gather_fault reads refused]
  dsimp only
  rw [kept, put, elements]

end

end Sys2Proof.Machine
end

section
/-! Fault-only-first loads. -/

namespace Sys2Proof.Machine

/-! ### Fault-only-first loads -/

/-- A fault ends a fault-only-first load quietly where it is one of page, protection and misaligned access (R168). -/
theorem Flt.soft_iff {f : Flt} : f.soft = true ↔ f.cause ∈ [cPage, cProt, cAlign] := by
  unfold Flt.soft
  simp only [Bool.or_eq_true, beq_iff_eq, List.mem_cons, List.not_mem_nil, or_false, or_assoc]

theorem wr_of_eq {h h' : Hart} (vregs : Vector VReg 32) (pend : List Pending) (frame : h' = { h with vregs := vregs, pend := pend }) (b : Reg)
    (v : Word) : h'.wr b v = { h.wr b v with vregs := vregs, pend := pend } := by
  rw [frame]
  unfold Hart.wr
  split <;> rfl

theorem Hart.SamePlace.wr {h h' : Hart} (same : h.SamePlace h') (b : Reg) (v : Word) : h.SamePlace (h'.wr b v) := by
  unfold Hart.wr
  split
  · exact same
  · exact ⟨same.pc, same.width, same.lane, same.walked, same.taken, same.limit, same.counted⟩

/-- The frame of a fault-only-first load. -/
def State.vldffSpec (s : State) (d a : Reg) (k : BitVec 3) : VSpec :=
  { ill := !s.hart.opOk d s.hart.reach, tile := none, mism := (s.hart.ty d).cls == .untagged, srcs := []
    dsts := [{ reg := d.toNat, grp := s.hart.grp d, cfg := none, len := s.hart.vl }], sends := s.firstFaultElems a k (s.hart.ty d).w
    lanewise := true, w := (s.hart.ty d).w, act := s.hart.active k (s.hart.ty d).w }

/-- What a fault-only-first load does within its frame. -/
def State.vldffBody (rep : Bool) (d a b : Reg) (k : BitVec 3) (t : Ty) (g : Nat) (s : State) : Res :=
  let h := s.hart
  if h.vl = 0 then s.done (h.wr b 0)
  else
    let place := h.formPlace .unit a t.w
    let (l, flt) := s.gather rep t.w place (h.active k t.w)
    let s := if rep then s.keepReplicas t.w place l else s
    match flt with
    | none =>
      let s := s.landLoad d g t l
      s.done (if h.limit.isSome then s.hart else s.hart.wr b (BitVec.ofNat 64 h.vl))
    | some (e, x) =>
      if e ≠ 0 ∧ x.soft then
        let s := s.landLoad d g t l
        s.done (s.hart.wr b (BitVec.ofNat 64 e))
      else (s.putRaw d.toNat g t l).elemFault t.w (h.owed k t.w) e x

section
variable {s : State} {d a b : Reg} {k : BitVec 3} {r : BitVec 1}

theorem exec_vldff_eq : exec (.vldff d a b k r) s =
    s.vector (s.vldffSpec d a k) (State.vldffBody (bit1 r) d a b k (s.hart.ty d) (s.hart.grp d)) := rfl

/-- The place of element `e` of a unit-stride load. -/
def Hart.unitPlace (h : Hart) (d a : Reg) (e : Nat) : Place := placeAt (h.rd a) (e * (h.ty d).w)

variable (ops : s.hart.Loads d)
include ops

theorem vldff_runs : (s.vldffSpec d a k).Runs s.hart where
  legal := by
    show (!s.hart.opOk d s.hart.reach) = false
    rw [reach_own ops.plain.own, ops.data]
    rfl
  tile := rfl
  typed := beq_eq_false_iff_ne.2 ops.typed
  sources _ m := nomatch m
  dests x m := by
    rcases List.mem_singleton.1 m with rfl
    exact ⟨cfgGrp_pos _, ops.usable⟩

theorem vldff_idle (none : s.hart.vl = 0) : exec (.vldff d a b k r) s = .next (s.wrote b 0) := by
  rw [exec_vldff_eq]
  refine vector_next (rs := s.replicas) (h' := s.hart.wr b 0) ops.plain (vldff_runs ops) (Hart.SamePlace.wr
    ⟨rfl, rfl, rfl, rfl, rfl, rfl, rfl⟩ b 0) ?_
  unfold State.vldffBody
  dsimp only
  rw [if_pos none]
  rfl

section
variable {q : Nat} {val : Nat → Nat}
  (reads : ∀ e < q, s.hart.isActive k e = true → s.readPlace (bit1 r) (s.hart.ty d).w (s.hart.unitPlace d a e) = .ok (val e))
include reads

omit ops in
theorem below_reads : ∀ e ∈ s.hart.below k q, s.readPlace (bit1 r) (s.hart.ty d).w (s.hart.unitPlace d a e) = .ok (val e) :=
  fun e m => reads e (mem_below.1 m).1 (mem_below.1 m).2

/-- What is read up to the first fault, at element `q`, or in all. -/
theorem vldffBody_of_quiet (any : 0 < s.hart.vl) (ends : q = s.hart.vl ∨ 0 < q ∧ s.hart.isActive k q = true ∧
      ∃ x, s.readPlace (bit1 r) (s.hart.ty d).w (s.hart.unitPlace d a q) = .error x ∧ x.cause ∈ [cPage, cProt, cAlign]) :
    State.vldffBody (bit1 r) d a b k (s.hart.ty d) (s.hart.grp d) s =
      let u := (if bit1 r = true then s.keepReplicas (s.hart.ty d).w (s.hart.unitPlace d a) ((s.hart.below k q).map fun e => (e, val e))
        else s).landLoad d (s.hart.grp d) (s.hart.ty d) ((s.hart.below k q).map fun e => (e, val e))
      u.done (u.hart.wr b (BitVec.ofNat 64 q)) := by
  have places : s.hart.formPlace .unit a (s.hart.ty d).w = s.hart.unitPlace d a := rfl
  unfold State.vldffBody
  dsimp only
  rw [if_neg any.ne', active_list ops.plain, places]
  rcases ends with rfl | ⟨later, active, x, refused, soft⟩
  · rw [← below_vl, gather_all _ (below_reads reads)]
    dsimp only
    rw [ops.plain.unlimited]
    rfl
  · obtain ⟨rest, elements⟩ := activeList_split active
    rw [elements, gather_fault (below_reads reads) refused]
    dsimp only
    rw [if_pos ⟨later.ne', Flt.soft_iff.2 soft⟩]

/-- A fault-only-first load that ends at element `q`, or after all. -/
theorem vldff_completes (any : 0 < s.hart.vl) (ends : q = s.hart.vl ∨ 0 < q ∧ s.hart.isActive k q = true ∧
      ∃ x, s.readPlace (bit1 r) (s.hart.ty d).w (s.hart.unitPlace d a q) = .error x ∧ x.cause ∈ [cPage, cProt, cAlign]) :
    ∃ rs h', exec (.vldff d a b k r) s = .next ((s.withReplicas rs).setHart ((h'.wr b (BitVec.ofNat 64 q)).advance 4)) ∧
      s.hart.Landed h' d.toNat (s.hart.grp d) (s.hart.ty d).w s.loadLat (fun e => decide (e < q) && s.hart.isActive k e) val ∧
      (bit1 r = false → rs = s.replicas) := by
  obtain ⟨rs, kept, same, -⟩ := replicas_left (bit1 r) ops.plain.own _ (below_reads reads)
  obtain ⟨h', lands, landed⟩ := landLoad_below ops k q val rs
  refine ⟨rs, h', ?_, landed, same⟩
  rw [exec_vldff_eq]
  refine vector_next ops.plain (vldff_runs ops) (landed.samePlace.wr b (BitVec.ofNat 64 q)) ?_
  rw [vldffBody_of_quiet ops reads any ends, kept]
  dsimp only
  rw [lands]
  rfl

/-- A fault of a fault-only-first load that is raised: at element 0, or not one that ends it quietly. -/
theorem vldff_faults {x : Flt} (active : s.hart.isActive k q = true)
    (refused : s.readPlace (bit1 r) (s.hart.ty d).w (s.hart.unitPlace d a q) = .error x) (hard : q = 0 ∨ x.cause ∉ [cPage, cProt, cAlign]) :
    ∃ rs h', exec (.vldff d a b k r) s =
        .next (((s.withReplicas rs).setHart h').faults (s.hart.elemTrap (s.hart.ty d).w (s.hart.activeList k) q x)) ∧
      h' = { s.hart with vregs := h'.vregs } ∧ (bit1 r = false → rs = s.replicas) ∧
      GroupWritten s.hart h' d.toNat (s.hart.grp d) (s.hart.ty d).w id (fun e => decide (e < q) && s.hart.isActive k e) val := by
  obtain ⟨rest, elements⟩ := activeList_split active
  obtain ⟨rs, kept, same, -⟩ := replicas_left (bit1 r) ops.plain.own _ (below_reads reads)
  obtain ⟨h', put, frame, written⟩ := putRaw_below ops k q val rs
  refine ⟨rs, h', ?_, frame, same, written⟩
  rw [exec_vldff_eq]
  refine vector_elemFault ops.plain (vldff_runs ops) (samePlace_of_vregs frame) ?_
  have inside := lt_of_isActive active
  have places : s.hart.formPlace .unit a (s.hart.ty d).w = s.hart.unitPlace d a := rfl
  unfold State.vldffBody
  dsimp only
  rw [if_neg (by omega), places, active_list ops.plain, owed_plain ops.plain]
  conv_lhs => rw [elements]
  rw [gather_fault (below_reads reads) refused]
  dsimp only
  rw [if_neg (fun both => hard.elim both.1 fun loud => loud (Flt.soft_iff.1 both.2)), kept, put, elements]

end

end

end Sys2Proof.Machine
end

section
/-! Field groups read and put. -/

namespace Sys2Proof.Machine

/-! ### Segment loads -/

theorem mapM_of_all_ok {α β ε : Type} {f : α → Except ε β} {g : α → β} (l : List α) (all : ∀ x ∈ l, f x = .ok (g x)) :
    l.mapM f = .ok (l.map g) := by
  induction l with
  | nil => rfl
  | cons x l ih =>
    rw [List.mapM_cons, all x (List.mem_cons_self ..), ih fun y m => all y (List.mem_cons_of_mem _ m)]
    rfl

theorem mapM_of_first_error {α β ε : Type} {f : α → Except ε β} {l rest : List α} {x : α} {err : ε} (before : ∀ y ∈ l, ∃ v, f y = .ok v)
    (fails : f x = .error err) : (l ++ x :: rest).mapM f = .error err := by
  induction l with
  | nil =>
    rw [List.nil_append, List.mapM_cons, fails]
    rfl
  | cons y l ih =>
    obtain ⟨v, ok⟩ := before y (List.mem_cons_self ..)
    rw [List.cons_append, List.mapM_cons, ok, ih fun z m => before z (List.mem_cons_of_mem _ m)]
    rfl

section
variable {s : State} {w n : Nat} {a : Reg} {val : Nat → Nat → Nat}

/-- The fields of element `e`, as values of a list. -/
def segFields (n : Nat) (val : Nat → Nat → Nat) (e : Nat) : Nat × List Nat := (e, (List.range n).map (val e))

theorem gatherSeg_append (es rest : List Nat)
    (reads : ∀ e ∈ es, ∀ j < n, s.readPlace false w (s.hart.segPlace a w n j e) = .ok (val e j)) :
    s.gatherSeg w n a (es ++ rest) = (es.map (segFields n val) ++ (s.gatherSeg w n a rest).1, (s.gatherSeg w n a rest).2) := by
  induction es with
  | nil => rfl
  | cons e es ih =>
    rw [List.cons_append, State.gatherSeg, mapM_of_all_ok (List.range n) fun j m => reads e (List.mem_cons_self ..) j (List.mem_range.1 m),
      ih fun e m => reads e (List.mem_cons_of_mem _ m)]
    rfl

theorem gatherSeg_all (es : List Nat) (reads : ∀ e ∈ es, ∀ j < n, s.readPlace false w (s.hart.segPlace a w n j e) = .ok (val e j)) :
    s.gatherSeg w n a es = (es.map (segFields n val), none) := by
  have all := gatherSeg_append es [] reads
  rw [List.append_nil] at all
  rw [all]
  exact Prod.ext (List.append_nil _) rfl

theorem gatherSeg_fault {es rest : List Nat} {q i : Nat} {x : Flt}
    (reads : ∀ e ∈ es, ∀ j < n, s.readPlace false w (s.hart.segPlace a w n j e) = .ok (val e j)) (low : i < n)
    (before : ∀ j < i, ∃ v, s.readPlace false w (s.hart.segPlace a w n j q) = .ok v)
    (refused : s.readPlace false w (s.hart.segPlace a w n i q) = .error x) :
    s.gatherSeg w n a (es ++ q :: rest) = (es.map (segFields n val), some (q, x)) := by
  have split : List.range n = List.range i ++ i :: List.range' (i + 1) (n - i - 1) := by
    have all := List.range'_append_1 (s := 0) (m := i) (n := n - i)
    rw [Nat.zero_add, Nat.add_sub_cancel' (Nat.le_of_lt low), show n - i = n - i - 1 + 1 by omega, List.range'_succ] at all
    rw [List.range_eq_range', ← all, List.range_eq_range']
  rw [gatherSeg_append es _ reads, State.gatherSeg, split,
    mapM_of_first_error (fun j m => before j (List.mem_range.1 m)) refused]
  exact Prod.ext (List.append_nil _) rfl

end

/-- `h'` is `h` with `m` field groups from `d` up written, each with `g` registers, under the configuration word `c`. -/
structure Hart.SegWritten (h h' : Hart) (d g m w : Nat) (c : BitVec 32) (act : Nat → Bool) (val : Nat → Nat → Nat) : Prop where
  elems : ∀ j < m, ∀ e, w * (e + 1) ≤ 256 * h.w * g →
    h'.elem (d + j * g) g w e = if act e then val e j % 2 ^ w else h.elem (d + j * g) g w e
  config : ∀ q ∈ members d (m * g), (h'.v q).cfg = c
  others : ∀ q < 32, q ∉ members d (m * g) → h'.v q = h.v q

theorem full_config {c c' : BitVec 32} (full : cfgFull c = true) (full' : cfgFull c' = true) :
    (c &&& 0xFFF7FFFF) ||| (c' &&& 0x00080000) = c := by
  unfold cfgFull at full full'
  ext i low
  rw [← BitVec.getLsbD_eq_getElem, ← BitVec.getLsbD_eq_getElem, BitVec.getLsbD_or, BitVec.getLsbD_and, BitVec.getLsbD_and]
  by_cases here : i = 19
  · subst here
    rw [full, full']
    rfl
  · have kept : (0xFFF7FFFF : BitVec 32).getLsbD i = true ∧ (0x00080000 : BitVec 32).getLsbD i = false := by
      have every : ∀ i < 32, i ≠ 19 → (0xFFF7FFFF : BitVec 32).getLsbD i = true ∧ (0x00080000 : BitVec 32).getLsbD i = false := by decide
      exact every i low here
    rw [kept.1, kept.2, Bool.and_true, Bool.and_false, Bool.or_false]

/-- One field group put: vd's configuration word, and a field of each element. -/
def Hart.putField (d g : Nat) (t : Ty) (c : BitVec 32) (l : List (Nat × List Nat)) (h : Hart) (f : Nat) : Hart :=
  (h.setCfg (d + f * g) g c).writeGroup (d + f * g) g t.w (l.map fun p => (p.1, p.2.getD f 0))

section
variable {h : Hart} {d : Reg} {g n : Nat} {t : Ty} {k : BitVec 3} {q : Nat} {val : Nat → Nat → Nat}
  (own : h.lane = none) (narrow : h.w ≤ 8) (group : 0 < g) (inside : d.toNat + n * g ≤ 32) (usable : h.usable d.toNat (n * g))
  (fits : ∀ e < q, h.isActive k e = true → t.w * (e + 1) ≤ 256 * h.w * g)
include own narrow group inside usable fits

/-- The field groups put one after another. -/
theorem putFields_spec (m : Nat) (few : m ≤ n) :
    ∃ h', (List.range m).foldl (Hart.putField d.toNat g t (h.v d.toNat).cfg ((h.below k q).map (segFields n val))) h = h' ∧
      h' = { h with vregs := h'.vregs } ∧
      h.SegWritten h' d.toNat g m t.w (h.v d.toNat).cfg (fun e => decide (e < q) && h.isActive k e) val := by
  induction m with
  | zero =>
    refine ⟨h, rfl, rfl, fun _ low => absurd low (Nat.not_lt_zero _), fun r mr => ?_, fun _ _ _ => rfl⟩
    have := (mem_members _ _ r).1 mr
    omega
  | succ m ih =>
    obtain ⟨h1, run, frame, elems, config, others⟩ := ih (by omega)
    have next : (m + 1) * g ≤ n * g := Nat.mul_le_mul_right g few
    rw [Nat.succ_mul] at next
    have bound : ∀ r, h1.isBound r = h.isBound r := by
      rw [frame]
      exact fun _ => rfl
    have unbound : ∀ r ∈ members (d.toNat + m * g) g, h1.isBound r = false := fun r mr => by
      have := (mem_members _ _ r).1 mr
      rw [bound]
      exact (usable r ((mem_members _ _ r).2 (by omega))).1
    have own1 : h1.lane = none := by
      rw [frame]
      exact own
    have fresh : ∀ r, d.toNat + m * g ≤ r → r < 32 → h1.v r = h.v r := fun r low high =>
      others r high fun mr => by
        have := (mem_members _ _ r).1 mr
        omega
    have base : d.toNat + m * g ∈ members (d.toNat + m * g) g := (mem_members _ _ _).2 (by omega)
    obtain ⟨frame2, config2⟩ := setCfg_spec h1 (d.toNat + m * g) g (h.v d.toNat).cfg (isXq_own _ _ own1) (unbound _ base) unbound (by omega)
    have field : ((h.below k q).map (segFields n val)).map (fun p => (p.1, p.2.getD m 0)) = (h.below k q).map fun e => (e, val e m) := by
      rw [List.map_map]
      refine List.map_congr_left fun e _ => Prod.ext rfl ?_
      show ((List.range n).map (val e)).getD m 0 = val e m
      rw [List.getD_eq_getElem _ _ (by rw [List.length_map, List.length_range]; omega), List.getElem_map, List.getElem_range]
    rw [List.range_succ, List.foldl_append, run]
    show ∃ h', Hart.putField d.toNat g t (h.v d.toNat).cfg ((h.below k q).map (segFields n val)) h1 m = h' ∧ _
    unfold Hart.putField
    rw [field]
    generalize h1.setCfg (d.toNat + m * g) g (h.v d.toNat).cfg = h2 at frame2 config2
    have width : h2.w = h.w := by
      rw [frame2, frame]
    obtain ⟨frame3, written⟩ := writeGroup_spec h2 (d.toNat + m * g) g t.w ((h.below k q).map fun e => (e, val e m))
      (fun e => decide (e < q) && h.isActive k e) (fun e => val e m) (isXq_own _ _ (by rw [frame2]; exact own1))
      (by rw [frame2]; exact unbound) (by omega) (by omega) (fun p mp => by
        obtain ⟨e, me, rfl⟩ := List.mem_map.1 mp
        rw [width]
        exact fits e (mem_below.1 me).1 (mem_below.1 me).2) (find_below h k q fun e => val e m)
    generalize h2.writeGroup (d.toNat + m * g) g t.w ((h.below k q).map fun e => (e, val e m)) = h3 at frame3 written
    have width3 : h3.w = h2.w := by rw [frame3]
    have outside : ∀ r < 32, r ∉ members (d.toNat + m * g) g → h3.v r = h1.v r := fun r low out => by
      rw [written.others r low out, config2 r low, if_neg out]
    refine ⟨h3, rfl, by rw [frame3, frame2, frame], fun j low e fit => ?_, fun r mr => ?_, fun r low out => ?_⟩
    · by_cases last : j = m
      · subst last
        rw [written.elems e (by rw [width]; exact fit), elem_congr h h2 (d.toNat + j * g) g t.w e width fun r above below => ?_]
        rw [config2 r (by omega), if_pos ((mem_members _ _ r).2 ⟨above, below⟩)]
        show (h1.v r).data = _
        rw [fresh r above (by omega)]
      · have early : (j + 1) * g ≤ m * g := Nat.mul_le_mul_right g (by omega)
        rw [Nat.succ_mul] at early
        rw [← elems j (by omega) e fit]
        refine elem_congr h1 h3 (d.toNat + j * g) g t.w e (by rw [width3, width, frame]) fun r above below => ?_
        rw [outside r (by omega) fun mr => ?_]
        have := (mem_members _ _ r).1 mr
        omega
    · have range := (mem_members _ _ r).1 mr
      rw [Nat.succ_mul] at range
      by_cases here : r ∈ members (d.toNat + m * g) g
      · rw [written.config r here, config2 r (by omega), if_pos here, fresh r ((mem_members _ _ r).1 here).1 (by omega)]
        exact full_config (usable _ ((mem_members _ _ _).2 (by omega))).2 (usable r ((mem_members _ _ r).2 (by omega))).2
      · rw [outside r (by omega) here]
        refine config r ((mem_members _ _ r).2 ?_)
        by_contra above
        exact here ((mem_members _ _ r).2 (by omega))
    · have out1 : r ∉ members (d.toNat + m * g) g := fun mr => out ((mem_members _ _ r).2 (by
        have := (mem_members _ _ r).1 mr
        rw [Nat.succ_mul]
        omega))
      have out2 : r ∉ members d.toNat (m * g) := fun mr => out ((mem_members _ _ r).2 (by
        have := (mem_members _ _ r).1 mr
        rw [Nat.succ_mul]
        omega))
      rw [outside r low out1, others r low out2]

/-- The field groups of the active elements below `q` put into the registers. -/
theorem putSegs_below :
    ∃ h', h.putSegs d g n t (h.v d.toNat).cfg ((h.below k q).map (segFields n val)) = h' ∧ h' = { h with vregs := h'.vregs } ∧
      h.SegWritten h' d.toNat g n t.w (h.v d.toNat).cfg (fun e => decide (e < q) && h.isActive k e) val :=
  putFields_spec own narrow group inside usable fits n (Nat.le_refl n)

end

/-- Field groups written and then made empty until they land. -/
theorem Hart.SegWritten.emptied {h h' u : Hart} {d g m w : Nat} {c : BitVec 32} {act : Nat → Bool} {val : Nat → Nat → Nat}
    (inside : d + m * g ≤ 32) (written : h.SegWritten h' d g m w c act val)
    (vregs : u.vregs = (h'.setFulls false (members d (m * g))).vregs) (width : u.w = h'.w) :
    h.SegWritten u d g m w (c &&& 0xFFF7FFFF) act val := by
  have reg : ∀ q < 32, u.v q = if q ∈ members d (m * g) then { h'.v q with cfg := (h'.v q).cfg &&& 0xFFF7FFFF } else h'.v q :=
    fun q low => by
    have same : u.v q = (h'.setFulls false (members d (m * g))).v q := by
      unfold Hart.v
      rw [vregs]
    rw [same, Hart.setEmpties_v _ _ low]
    exact if_congr (members_mod inside) rfl rfl
  refine ⟨fun j low e fits => (Eq.trans ?_ (written.elems j low e fits)), fun r mr => ?_, fun r low out => ?_⟩
  · have next : (j + 1) * g ≤ m * g := Nat.mul_le_mul_right g low
    rw [Nat.succ_mul] at next
    refine elem_congr h' u (d + j * g) g w e width fun q above below => ?_
    rw [reg q (by omega), if_pos ((mem_members _ _ q).2 (by omega))]
  · have := (mem_members _ _ r).1 mr
    rw [reg r (by omega), if_pos mr, written.config r mr]
  · rw [reg r low, if_neg out]
    exact written.others r low out

end Sys2Proof.Machine
end

section
/-! Segment loads, and the counters of an element's fault. -/

namespace Sys2Proof.Machine

/-- The frame of a segment load. -/
def Hart.vldsegSpec (h : Hart) (d : Reg) (k : BitVec 3) (n : Nat) : VSpec :=
  { ill := h.segIll d n, tile := none, mism := (h.ty d).cls == .untagged, srcs := []
    dsts := (segRegs d (h.grp d) n).map (fun r => { reg := r, grp := h.grp d, cfg := none, len := h.vl }), sends := h.active k (h.ty d).w
    lanewise := true, w := (h.ty d).w }

/-- What a segment load does within its frame. -/
def State.vldsegBody (d a : Reg) (k : BitVec 3) (t : Ty) (g n : Nat) (c : BitVec 32) (s : State) : Res :=
  let h := s.hart
  if h.vl = 0 then s.done h
  else
    let (l, flt) := s.gatherSeg t.w n a (h.active k t.w)
    let s := s.upd (fun h => h.putSegs d g n t c l)
    match flt with
    | some (e, x) => s.elemFault t.w (h.owed k t.w) e x
    | none =>
      let s := s.produce (members d.toNat (n * g)) s.loadLat
      s.done s.hart

/-- What the registers of a segment load of `n` fields have to meet besides those of a plain load. -/
structure Hart.SegLoads (h : Hart) (d : Reg) (n : Nat) : Prop where
  plain : h.Plain
  typed : (h.ty d).cls ≠ .untagged
  data : h.opOk d h.vl = true
  wide : 8 ≤ (h.ty d).w
  inside : d.toNat + n * h.grp d ≤ 32
  usable : h.usable d.toNat (n * h.grp d)

section
variable {s : State} {d a : Reg} {k f : BitVec 3} {n : Nat}

theorem exec_vldseg_eq : exec (.vldseg d a k f) s = s.vector (s.hart.vldsegSpec d k (f.toNat + 1))
    (State.vldsegBody d a k (s.hart.ty d) (s.hart.grp d) (f.toNat + 1) (s.hart.v d.toNat).cfg) := rfl

variable (seg : s.hart.SegLoads d n)
include seg

theorem vldseg_runs : (s.hart.vldsegSpec d k n).Runs s.hart where
  legal := segIll_false seg.plain.own seg.data seg.inside seg.usable seg.wide
  tile := rfl
  typed := beq_eq_false_iff_ne.2 seg.typed
  sources _ m := nomatch m
  dests x m := by
    obtain ⟨r, mr, rfl⟩ := List.mem_map.1 m
    obtain ⟨j, low, rfl⟩ := mem_segRegs mr
    have next : (j + 1) * s.hart.grp d ≤ n * s.hart.grp d := Nat.mul_le_mul_right _ low
    rw [Nat.succ_mul] at next
    refine ⟨cfgGrp_pos _, fun i mi => seg.usable i ((mem_members _ _ i).2 ?_)⟩
    have range := (mem_members _ _ i).1 mi
    dsimp only at range
    omega

theorem vldseg_fits {q : Nat} : ∀ e < q, s.hart.isActive k e = true → (s.hart.ty d).w * (e + 1) ≤ 256 * s.hart.w * s.hart.grp d :=
  fun e _ active => resOk_fits s.hart d _ _ s.hart.vl e (resOk_of_opOk seg.data) seg.plain.own (tagWidth_ne _ seg.typed) (lt_of_isActive active)

variable (number : n = f.toNat + 1)
include number

theorem vldseg_idle (none : s.hart.vl = 0) : exec (.vldseg d a k f) s = .next (s.atPc (s.hart.pc + 4)) := by
  subst number
  rw [exec_vldseg_eq]
  refine vector_next (rs := s.replicas) (h' := s.hart) seg.plain (vldseg_runs seg) ⟨rfl, rfl, rfl, rfl, rfl, rfl, rfl⟩ ?_
  unfold State.vldsegBody
  dsimp only
  rw [if_pos none]
  rfl

/-- A segment load whose fields can all be read. -/
theorem vldseg_completes {val : Nat → Nat → Nat} (any : 0 < s.hart.vl) (reads : ∀ e, s.hart.isActive k e = true → ∀ j < n,
      s.readPlace false (s.hart.ty d).w (s.hart.segPlace a (s.hart.ty d).w n j e) = .ok (val e j)) :
    ∃ h', exec (.vldseg d a k f) s = .next (s.setHart h') ∧ h' = { s.hart with
        vregs := h'.vregs, pend := s.hart.pend ++ [⟨members d.toNat (n * s.hart.grp d), s.loadLat⟩], pc := s.hart.pc + 4 } ∧
      s.hart.SegWritten h' d.toNat (s.hart.grp d) n (s.hart.ty d).w ((s.hart.v d.toNat).cfg &&& 0xFFF7FFFF) (s.hart.isActive k) val := by
  subst number
  obtain ⟨h1, put, frame, written⟩ := putSegs_below (g := s.hart.grp d) (t := s.hart.ty d) (k := k) (q := s.hart.vl) (val := val) seg.plain.own
    (grantWidth_le _ seg.plain.width) (cfgGrp_pos (s.hart.v d.toNat).cfg) seg.inside seg.usable (vldseg_fits seg)
  rw [below_vl] at put
  have own : h1.lane = none := by
    rw [frame]
    exact seg.plain.own
  have acts : (fun e => decide (e < s.hart.vl) && s.hart.isActive k e) = s.hart.isActive k := by
    funext e
    cases active : s.hart.isActive k e with
    | false => exact Bool.and_false _
    | true => rw [decide_eq_true (lt_of_isActive active), Bool.and_self]
  rw [acts] at written
  refine ⟨(h1.produced (members d.toNat ((f.toNat + 1) * s.hart.grp d)) s.loadLat).advance 4, ?_, ?_,
    written.emptied seg.inside rfl rfl⟩
  · rw [exec_vldseg_eq]
    refine vector_next (rs := s.replicas) (h' := h1.produced (members d.toNat ((f.toNat + 1) * s.hart.grp d)) s.loadLat) seg.plain
      (vldseg_runs seg) ?_ ?_
    · unfold Hart.produced
      rw [frame]
      exact ⟨rfl, rfl, rfl, rfl, rfl, rfl, rfl⟩
    · unfold State.vldsegBody
      dsimp only
      rw [if_neg any.ne', active_list seg.plain, gatherSeg_all _ fun e m => reads e (mem_activeList.1 m)]
      dsimp only [State.upd]
      rw [put, produce_own _ _ _ own]
      rfl
  · unfold Hart.produced Hart.advance
    generalize (h1.setFulls false (members d.toNat ((f.toNat + 1) * s.hart.grp d))).vregs = vs
    rw [frame]
    rfl

/-- A segment load with a field that cannot be read: no field of its element counts. -/
theorem vldseg_faults {q i : Nat} {x : Flt} {val : Nat → Nat → Nat} (active : s.hart.isActive k q = true) (low : i < n)
    (refused : s.readPlace false (s.hart.ty d).w (s.hart.segPlace a (s.hart.ty d).w n i q) = .error x)
    (before : ∀ j < i, ∃ v, s.readPlace false (s.hart.ty d).w (s.hart.segPlace a (s.hart.ty d).w n j q) = .ok v)
    (reads : ∀ e < q, s.hart.isActive k e = true → ∀ j < n,
      s.readPlace false (s.hart.ty d).w (s.hart.segPlace a (s.hart.ty d).w n j e) = .ok (val e j)) :
    ∃ h', exec (.vldseg d a k f) s = .next ((s.setHart h').faults (s.hart.elemTrap (s.hart.ty d).w (s.hart.activeList k) q x)) ∧
      h' = { s.hart with vregs := h'.vregs } ∧
      s.hart.SegWritten h' d.toNat (s.hart.grp d) n (s.hart.ty d).w (s.hart.v d.toNat).cfg
        (fun e => decide (e < q) && s.hart.isActive k e) val := by
  subst number
  obtain ⟨rest, elements⟩ := activeList_split active
  obtain ⟨h1, put, frame, written⟩ := putSegs_below (g := s.hart.grp d) (t := s.hart.ty d) (k := k) (q := q) (val := val) seg.plain.own
    (grantWidth_le _ seg.plain.width) (cfgGrp_pos (s.hart.v d.toNat).cfg) seg.inside seg.usable (vldseg_fits seg)
  have inside := lt_of_isActive active
  refine ⟨h1, ?_, frame, written⟩
  rw [exec_vldseg_eq]
  refine vector_elemFault (rs := s.replicas) seg.plain (vldseg_runs seg) (samePlace_of_vregs frame) ?_
  unfold State.vldsegBody
  dsimp only
  rw [if_neg (by omega), active_list seg.plain, owed_plain seg.plain]
  conv_lhs => rw [elements]
  rw [gatherSeg_fault (fun e m => reads e (mem_below.1 m).1 (mem_below.1 m).2) low before refused]
  dsimp only [State.upd]
  rw [put, elements]
  rfl

end

/-! ### The counters of an element's fault -/

/-- A lane group's counter: its least active element from the failing one upward (R262). -/
theorem counters_getD (h : Hart) (w q : Nat) (act : List Nat) {g : Nat} (low : g < 8) : (h.counters w act q).getD g 0 =
    ((act.filter fun e => decide (q ≤ e) && decide (h.groupOf w e = g)).head?.map (BitVec.ofNat 16)).getD 0xFFFF := by
  have same : (fun e => decide (q ≤ e) && w * e % (256 * h.w) / 256 == g) = fun e => decide (q ≤ e) && decide (h.groupOf w e = g) := by
    funext e
    rw [Bool.beq_eq_decide_eq]
    rfl
  unfold Hart.counters
  rw [List.getD_eq_getElem _ _ (by rw [List.length_map, List.length_range]; exact low), List.getElem_map, List.getElem_range,
    List.head?_filter, same]
  cases act.find? fun e => decide (q ≤ e) && decide (h.groupOf w e = g) <;> rfl

end Sys2Proof.Machine
end

section
/-! Every form of load; obligation O30. -/

namespace Sys2Proof.Machine

section
variable {s : State} {d a b : Reg} {k : BitVec 3} {x r : BitVec 1} {i : Instr} {place : Nat → Place}

/-- A load of one group other than `vldff` is one of the forms of R167. -/
theorem exec_load (plain : s.hart.Plain) (form : (i = .vld d a k r ∧ place = fun e => placeAt (s.hart.rd a) (e * (s.hart.ty d).w)) ∨
      (i = .vldb d a b k r ∧ place = fun e => placeAt (s.hart.rd a) ((s.hart.rd b).toNat + e * (s.hart.ty d).w)) ∨
      (8 ≤ (s.hart.ty d).w ∧ i = .vlds d a b k r ∧ place = fun e => ⟨s.hart.rd a + BitVec.ofInt 64 (e * (s.hart.rd b).toInt), 0⟩) ∨
      (8 ≤ (s.hart.ty d).w ∧ s.hart.opOk b s.hart.vl = true ∧ isIndexTy (s.hart.ty b) = true ∧ s.hart.usable b.toNat (s.hart.grp b) ∧
        i = .vldx d a b k x r ∧
        place = fun e => ⟨s.hart.rd a + BitVec.ofNat 64 (s.hart.elem b.toNat (s.hart.grp b) (s.hart.ty b).w e), 0⟩)) :
    ∃ form : Form, exec i s = s.vload (bit1 r) form d a k ∧ form.Legal s d a place := by
  rcases form with ⟨rfl, rfl⟩ | ⟨rfl, rfl⟩ | ⟨wide, rfl, rfl⟩ | ⟨wide, index, type, usable, rfl, rfl⟩
  · exact ⟨.unit, rfl, Form.legal_unit⟩
  · exact ⟨.bitOffset b, rfl, Form.legal_bitOffset⟩
  · exact ⟨.strided b, rfl, Form.legal_strided wide⟩
  · exact ⟨.indexed b (bit1 x), rfl, Form.legal_indexed _ plain wide index type usable⟩

/-- The context in which a load of one group ends. -/
theorem Hart.Landed.advanced {h h' : Hart} {d g w due : Nat} {act : Nat → Bool} {val : Nat → Nat} (landed : h.Landed h' d g w due act val) :
    h'.advance 4 = { h with vregs := (h'.advance 4).vregs, pend := h.pend ++ [⟨members d g, due⟩], pc := h.pc + 4 } ∧
      GroupWritten h (h'.advance 4) d g w (fun c => c &&& 0xFFF7FFFF) act val := by
  refine ⟨?_, landed.written.congr rfl rfl rfl fun _ _ => rfl⟩
  conv_lhs => rw [landed.frame]
  rfl

/-- Replicas belong to a launch: the registers of its hart do not matter to them (R169). -/
theorem Hart.Landed.replica {s : State} {h' : Hart} {d g w due : Nat} {act : Nat → Bool} {val : Nat → Nat}
    (landed : s.hart.Landed h' d g w due act val) (rs : List Replica) (pa n : Nat) :
    ((s.withReplicas rs).setHart (h'.advance 4)).replica pa n = (s.withReplicas rs).replica pa n := by
  have id : h'.id = s.hart.id := by rw [landed.frame]
  unfold State.replica
  show (rs.find? fun r => decide (r.seq = h'.id.seq ∧ r.pa = pa ∧ r.size = n)).map _ = _
  rw [id]
  rfl

/-- The context in which a noted load leaves its destination (R196). -/
theorem noted_advanced (h : Hart) (inside : d.toNat + h.grp d ≤ 32) (l : List (Nat × Nat)) (due : Nat) :
    let h' := ((h.noted d (h.grp d) (h.ty d).w l).produced (members d.toNat (h.grp d)) due).advance 4
    h' = { h with vregs := h'.vregs, pend := h.pend ++ [⟨members d.toNat (h.grp d), due⟩], pc := h.pc + 4
                  late := h.late ++ [{ stream := 1, dest := .vector d.toNat (h.grp d) (h.ty d).w, size := (h.ty d).w / 8, elems := l }] } ∧
      GroupWritten h h' d.toNat (h.grp d) (h.ty d).w (fun c => c &&& 0xFFF7FFFF) (fun _ => false) (fun _ => 0) := by
  refine ⟨rfl, ?_⟩
  have noted : GroupWritten h (h.noted d (h.grp d) (h.ty d).w l) d.toNat (h.grp d) (h.ty d).w id (fun _ => false) (fun _ => 0) :=
    (GroupWritten.unwritten h ..).congr rfl rfl rfl fun _ _ => rfl
  exact noted.emptied inside rfl rfl

/-- The context in which a fault-only-first load ends. -/
theorem Hart.Landed.counted {h h' : Hart} {d g w due : Nat} {act : Nat → Bool} {val : Nat → Nat} (landed : h.Landed h' d g w due act val)
    (v : Word) : let u := (h'.wr b v).advance 4
    u = { h.wr b v with vregs := u.vregs, pend := h.pend ++ [⟨members d g, due⟩], pc := h.pc + 4 } ∧
      GroupWritten h u d g w (fun c => c &&& 0xFFF7FFFF) act val := by
  refine ⟨?_, landed.written.congr (Hart.wr_vregs ..) (Hart.wr_w ..) rfl fun _ _ => rfl⟩
  have written := wr_of_eq h'.vregs _ landed.frame b v
  have pc : (h'.wr b v).pc = h.pc := (Hart.wr_pc ..).trans landed.samePlace.pc
  show { h'.wr b v with pc := (h'.wr b v).pc + 4 } = { h.wr b v with
    vregs := (h'.wr b v).vregs, pend := h.pend ++ [⟨members d g, due⟩], pc := h.pc + 4 }
  rw [pc, Hart.wr_vregs]
  conv_lhs => rw [written]

end

/-- Settles O30: what is read is gathered up to the first fault; a load lands it, notes it, or raises that fault, and `vldff` and
`vldseg` are the same with a count and with fields. -/
theorem vectorLoads : Obligations.VectorLoads := by
  unfold Obligations.VectorLoads
  refine ⟨?_, ?_, ?_⟩
  · intro s d a b k x r i place h t g idx plain typed data usable form
    have ops : h.Loads d := ⟨plain, typed, data, usable⟩
    obtain ⟨form, run, legal⟩ := exec_load plain form
    rw [run]
    refine ⟨vload_idle ops legal, fun any val reads prompt => ?_, fun q f val active refused reads => ?_,
      fun any pa memory wide elements delays => ?_, fun w p q wide aligned access => readPlace_whole plain.own wide aligned access,
      fun rep w p q narrow one access => readPlace_byte plain.own rep narrow one access,
      fun rep w p q q' narrow two _ first second => readPlace_bytes plain.own rep narrow two first second⟩
    · obtain ⟨rs, h', done, landed, same, left⟩ := vload_completes ops legal any reads prompt
      obtain ⟨frame, written⟩ := landed.advanced
      exact ⟨_, _, done, rfl, frame, written, same, fun replicas wide e q active reach =>
        (landed.replica rs q.pa (t.w / 8)).trans (left replicas wide e q active reach)⟩
    · obtain ⟨rs, h', faults, frame, same, written⟩ := vload_faults ops legal active refused reads
      exact ⟨h', rs, faults, frame, same, written⟩
    · rw [memory]
      obtain ⟨frame, written⟩ := noted_advanced (d := d) h (opOk_base data plain.own) ((h.activeList k).map fun e => (e, pa e)) s.loadLat
      exact ⟨_, vload_notes ops legal any wide elements delays, frame, written⟩
  · intro s d a b k f r h t g n plain typed data
    refine ⟨?_, fun wide inside usable => ?_⟩
    · intro usable place
      have ops : h.Loads d := ⟨plain, typed, data, usable⟩
      refine ⟨vldff_idle ops, fun any q val ends reads => ?_, fun q f val active refused hard reads => ?_⟩
      · obtain ⟨rs, h', done, landed, same⟩ := vldff_completes (b := b) ops reads any ends
        obtain ⟨frame, written⟩ := landed.counted (b := b) (BitVec.ofNat 64 q)
        exact ⟨_, _, done, rfl, same, frame, written⟩
      · obtain ⟨rs, h', faults, frame, same, written⟩ := vldff_faults (b := b) ops reads active refused hard
        exact ⟨h', rs, faults, frame, same, written⟩
    · have seg : h.SegLoads d n := ⟨plain, typed, data, wide, inside, usable⟩
      refine ⟨vldseg_idle seg rfl, fun any val reads => ?_, ?_⟩
      · obtain ⟨h', done, frame, elems, config, others⟩ := vldseg_completes seg rfl any reads
        exact ⟨h', done, frame, elems, config, others⟩
      · intro q i x val field active low refused before reads
        obtain ⟨h', faults, frame, elems, config, others⟩ := vldseg_faults seg rfl active low refused before reads
        exact ⟨h', faults, frame, elems, config, others⟩
  · intro h w q g act low c from_
    have counter : c = (from_.head?.map (BitVec.ofNat 16)).getD 0xFFFF := counters_getD h w q act low
    refine ⟨fun none => ?_, fun e l some => ?_⟩
    · rw [counter, none]
      rfl
    · rw [counter, some]
      rfl

end Sys2Proof.Machine
end

section
/-! Words and instructions (R32 to R39): decoding and encoding undo each other, with the obligations O1, O2 and O3. -/

namespace Sys2Proof.Laws

/-- Every well-formed instruction that has words of its own decodes from them, constructor by constructor. -/
theorem Encoding.statement (i : Instr) : Encoding.Statement i :=
  match i with
  | .trap c => Encoding.trap c | .fence m s => Encoding.fence m s | .sbar m => Encoding.sbar m
  | .gets d n => Encoding.gets d n | .puts a n => Encoding.puts a n | .seed d => Encoding.seed d
  | .undefinedOpcode w => Encoding.undefinedOpcode w | .add d a b => Encoding.add d a b
  | .sub d a b => Encoding.sub d a b | .mul d a b => Encoding.mul d a b | .mulh d a b => Encoding.mulh d a b
  | .div d a b => Encoding.div d a b | .divn d a b => Encoding.divn d a b | .rem d a b => Encoding.rem d a b
  | .remn d a b => Encoding.remn d a b | .and d a b => Encoding.and d a b | .or d a b => Encoding.or d a b
  | .xor d a b => Encoding.xor d a b | .andn d a b => Encoding.andn d a b | .sll d a b => Encoding.sll d a b
  | .srl d a b => Encoding.srl d a b | .sra d a b => Encoding.sra d a b | .slt d a b => Encoding.slt d a b
  | .sltn d a b => Encoding.sltn d a b | .min d a b => Encoding.min d a b | .max d a b => Encoding.max d a b
  | .minn d a b => Encoding.minn d a b | .maxn d a b => Encoding.maxn d a b | .clz d a => Encoding.clz d a
  | .ctz d a => Encoding.ctz d a | .popc d a => Encoding.popc d a | .addi d a i => Encoding.addi d a i
  | .andi d a i => Encoding.andi d a i | .ori d a i => Encoding.ori d a i | .xori d a i => Encoding.xori d a i
  | .slli d a h => Encoding.slli d a h | .srli d a h => Encoding.srli d a h | .srai d a h => Encoding.srai d a h
  | .lui d i => Encoding.lui d i | .limm d p => Encoding.limm d p | .limmh d p => Encoding.limmh d p
  | .ldb d a o => Encoding.ldb d a o | .ldh d a o => Encoding.ldh d a o | .ldw d a o => Encoding.ldw d a o
  | .ldd d a o => Encoding.ldd d a o | .ldbS d a o => Encoding.ldbS d a o | .ldhS d a o => Encoding.ldhS d a o
  | .ldwS d a o => Encoding.ldwS d a o | .stb d a o => Encoding.stb d a o | .sth d a o => Encoding.sth d a o
  | .stw d a o => Encoding.stw d a o | .std d a o => Encoding.std d a o
  | .amoAdd d a b s z => Encoding.amoAdd d a b s z | .amoSwap d a b s z => Encoding.amoSwap d a b s z
  | .amoCas d a b s z => Encoding.amoCas d a b s z | .amoMin d a b s z => Encoding.amoMin d a b s z
  | .amoMax d a b s z => Encoding.amoMax d a b s z | .amoAnd d a b s z => Encoding.amoAnd d a b s z
  | .amoOr d a b s z => Encoding.amoOr d a b s z | .amoXor d a b s z => Encoding.amoXor d a b s z
  | .ldAcq d a s z => Encoding.ldAcq d a s z | .stRel a b s z => Encoding.stRel a b s z
  | .beq a b o => Encoding.beq a b o | .bne a b o => Encoding.bne a b o | .blt a b o => Encoding.blt a b o
  | .bge a b o => Encoding.bge a b o | .bltn a b o => Encoding.bltn a b o | .bgen a b o => Encoding.bgen a b o
  | .jal o => Encoding.jal o | .jalr d a i => Encoding.jalr d a i | .slti d a i => Encoding.slti d a i
  | .vsetlb a b e o => Encoding.vsetlb a b e o | .vcfg d t f g => Encoding.vcfg d t f g
  | .vcfgw d w s => Encoding.vcfgw d w s | .vsetl d a e g => Encoding.vsetl d a e g | .vtag d a => Encoding.vtag d a
  | .vadd d a b k w x => Encoding.vadd d a b k w x | .vsub d a b k w x => Encoding.vsub d a b k w x
  | .vmul d a b k w x => Encoding.vmul d a b k w x | .vfma d a b k w x => Encoding.vfma d a b k w x
  | .vmin d a b k w x => Encoding.vmin d a b k w x | .vmax d a b k w x => Encoding.vmax d a b k w x
  | .vabs d a k w => Encoding.vabs d a k w | .vneg d a k w => Encoding.vneg d a k w
  | .vand d a b k w x => Encoding.vand d a b k w x | .vor d a b k w x => Encoding.vor d a b k w x
  | .vxor d a b k w x => Encoding.vxor d a b k w x | .vshl d a b k w x => Encoding.vshl d a b k w x
  | .vshr d a b k w x => Encoding.vshr d a b k w x | .vadc d a b k w x => Encoding.vadc d a b k w x
  | .vsbc d a b k w x => Encoding.vsbc d a b k w x | .vmov d a k w => Encoding.vmov d a k w
  | .vsel d a b k w x => Encoding.vsel d a b k w x | .vadds d a b k w => Encoding.vadds d a b k w
  | .vsubs d a b k w => Encoding.vsubs d a b k w | .vmuls d a b k w => Encoding.vmuls d a b k w
  | .vfmas d a b k w => Encoding.vfmas d a b k w | .vmins d a b k w => Encoding.vmins d a b k w
  | .vmaxs d a b k w => Encoding.vmaxs d a b k w | .vands d a b k w => Encoding.vands d a b k w
  | .vors d a b k w => Encoding.vors d a b k w | .vxors d a b k w => Encoding.vxors d a b k w
  | .vshls d a b k w => Encoding.vshls d a b k w | .vshrs d a b k w => Encoding.vshrs d a b k w
  | .vsels d a b k w => Encoding.vsels d a b k w | .vceq d a b k w x => Encoding.vceq d a b k w x
  | .vcne d a b k w x => Encoding.vcne d a b k w x | .vclt d a b k w x => Encoding.vclt d a b k w x
  | .vcge d a b k w x => Encoding.vcge d a b k w x | .vceqs d a b k w x => Encoding.vceqs d a b k w x
  | .vcnes d a b k w x => Encoding.vcnes d a b k w x | .vclts d a b k w x => Encoding.vclts d a b k w x
  | .vcges d a b k w x => Encoding.vcges d a b k w x | .mand d a b => Encoding.mand d a b
  | .mor d a b => Encoding.mor d a b | .mxor d a b => Encoding.mxor d a b | .mnot d a => Encoding.mnot d a
  | .mpop d a => Encoding.mpop d a | .mfirst d a => Encoding.mfirst d a | .mshup d a => Encoding.mshup d a
  | .mset d => Encoding.mset d | .mclr d => Encoding.mclr d | .vslideup d a b k w => Encoding.vslideup d a b k w
  | .vslidedn d a b k w => Encoding.vslidedn d a b k w | .vgath d a b k w x => Encoding.vgath d a b k w x
  | .vcomp d a b k w => Encoding.vcomp d a b k w | .vexpd d a k w => Encoding.vexpd d a k w
  | .vbcast d b k => Encoding.vbcast d b k | .vidx d k => Encoding.vidx d k | .vrsum d a k w => Encoding.vrsum d a k w
  | .vrmax d a k w => Encoding.vrmax d a k w | .vrmin d a k w => Encoding.vrmin d a k w
  | .vsmaxe d a k w => Encoding.vsmaxe d a k w | .vcvt d a k w => Encoding.vcvt d a k w
  | .vquant d a b k w => Encoding.vquant d a b k w | .vdeq d a b k w => Encoding.vdeq d a b k w
  | .vpack d a k w => Encoding.vpack d a k w | .vunpk d a k w => Encoding.vunpk d a k w
  | .rotc p z n k w x => Encoding.rotc p z n k w x | .rotcG p z n k w x => Encoding.rotcG p z n k w x
  | .rotl p z n k w x => Encoding.rotl p z n k w x | .rotlG p z n k w x => Encoding.rotlG p z n k w x
  | .roth p z n k w x => Encoding.roth p z n k w x | .rothG p z n k w x => Encoding.rothG p z n k w x
  | .vtac p z n k w x => Encoding.vtac p z n k w x | .vtacG p z n k w x => Encoding.vtacG p z n k w x
  | .vtal p z n k w x => Encoding.vtal p z n k w x | .vtalG p z n k w x => Encoding.vtalG p z n k w x
  | .vtah p z n k w x => Encoding.vtah p z n k w x | .vtahG p z n k w x => Encoding.vtahG p z n k w x
  | .vld d a k r => Encoding.vld d a k r | .vlds d a b k r => Encoding.vlds d a b k r
  | .vldx d a b k x r => Encoding.vldx d a b k x r | .vldb d a b k r => Encoding.vldb d a b k r
  | .vldff d a b k r => Encoding.vldff d a b k r | .vldseg d a k f => Encoding.vldseg d a k f
  | .vst d a k w => Encoding.vst d a k w | .vsts d a b k w => Encoding.vsts d a b k w
  | .vstx d a b k w x => Encoding.vstx d a b k w x | .vstb d a b k w => Encoding.vstb d a b k w
  | .vstseg d a k w f => Encoding.vstseg d a k w f | .vamoAdd d a b k x s => Encoding.vamoAdd d a b k x s
  | .vamoMin d a b k x s => Encoding.vamoMin d a b k x s | .vamoMax d a b k x s => Encoding.vamoMax d a b k x s
  | .vamoSwap d a b k x s => Encoding.vamoSwap d a b k x s | .accw d a b => Encoding.accw d a b
  | .vacc d a b k w x => Encoding.vacc d a b k w x | .accm d => Encoding.accm d | .accx d => Encoding.accx d
  | .vxlat d a b k w => Encoding.vxlat d a b k w | .vxlatFf d a b k w => Encoding.vxlatFf d a b k w
  | .bind d a => Encoding.bind d a | .unbind d => Encoding.unbind d | .vfetch a b k => Encoding.vfetch a b k
  | .lfetch a k w => Encoding.lfetch a k w | .vjoin d => Encoding.vjoin d | .tmask d a b k => Encoding.tmask d a b k
  | .tadv d a b => Encoding.tadv d a b | .smax d a b k w => Encoding.smax d a b k w
  | .sexp d a b k w => Encoding.sexp d a b k w | .spick d a b k w => Encoding.spick d a b k w
  | .srand d a b => Encoding.srand d a b | .mop t a b r c => Encoding.mop t a b r c
  | .mopS t a b r c => Encoding.mopS t a b r c | .mopx t a b r c => Encoding.mopx t a b r c
  | .tattach q => Encoding.tattach q | .ten t => Encoding.ten t | .tdis t => Encoding.tdis t
  | .tzero t => Encoding.tzero t | .tmovv t d b k => Encoding.tmovv t d b k
  | .tmovvC t d b k => Encoding.tmovvC t d b k | .tmovt t a b k => Encoding.tmovt t a b k
  | .tmovtC t a b k => Encoding.tmovtC t a b k | .tld t a b r c => Encoding.tld t a b r c
  | .tst t a b r c => Encoding.tst t a b r c | .lpart a => Encoding.lpart a | .cmpt d a b k => Encoding.cmpt d a b k
  | .scat d a b k => Encoding.scat d a b k | .ecpy a => Encoding.ecpy a | .eloop a => Encoding.eloop a
  | .efoot a => Encoding.efoot a | .kfork d a b => Encoding.kfork d a b | .kdrop d a b => Encoding.kdrop d a b
  | .kspl d a b => Encoding.kspl d a b | .krep d a b => Encoding.krep d a b | .kprovRd d a => Encoding.kprovRd d a
  | .kprovLive d a b => Encoding.kprovLive d a b | .kprovRet d a => Encoding.kprovRet d a
  | .kprovFree d a => Encoding.kprovFree d a | .kchk d a b => Encoding.kchk d a b
  | .kchkF d a b => Encoding.kchkF d a b | .odeclR a => Encoding.odeclR a | .odeclW a => Encoding.odeclW a
  | .obeg d => Encoding.obeg d | .sspec n a => Encoding.sspec n a | .sdrain n => Encoding.sdrain n
  | .wait d a b z s => Encoding.wait d a b z s | .vfull d a => Encoding.vfull d a | .vempty d a => Encoding.vempty d a
  | .hartPlacement core => Encoding.hartPlacement core | .compactionComplete core => Encoding.compactionComplete core
  | .streamReadAhead gen count => Encoding.streamReadAhead gen count
  | .hardPreemption detail => Encoding.hardPreemption detail | .copyJob job => Encoding.copyJob job
  | .footprintComplete job => Encoding.footprintComplete job | .codeTableSwap core => Encoding.codeTableSwap core
  | .eviction asid va => Encoding.eviction asid va | .unconsumedError byte => Encoding.unconsumedError byte
  | .spareRemap kind unit spare => Encoding.spareRemap kind unit spare
  | .peerPortLost port => Encoding.peerPortLost port | .eventRingPost fdom => Encoding.eventRingPost fdom
  | .dieJoin die => Encoding.dieJoin die | .aqctl value => Encoding.aqctl value
  | .tailq queue tail => Encoding.tailq queue tail
  | .registerWrite offset value => Encoding.registerWrite offset value
  | .packetFetch queue => Encoding.packetFetch queue
  | .whippletreeIssueCycle core group => Encoding.whippletreeIssueCycle core group
  | .illegalInstruction w => Encoding.illegalInstruction w | .accessPerforms stream => Encoding.accessPerforms stream
  | .peerPortRequest port op => Encoding.peerPortRequest port op
  | .hostMemoryAccess op => Encoding.hostMemoryAccess op | .eret => Encoding.eret | .ebreak => Encoding.ebreak
  | .prog => Encoding.prog | .yield => Encoding.yield | .halt => Encoding.halt | .cvy => Encoding.cvy
  | .endk => Encoding.endk | .lstop => Encoding.lstop | .tdetach => Encoding.tdetach | .ocom => Encoding.ocom
  | .hartWake => Encoding.hartWake | .hartReclaim => Encoding.hartReclaim | .producerLands => Encoding.producerLands
  | .softRequestEscalation => Encoding.softRequestEscalation | .energyTick => Encoding.energyTick
  | .watchdogExpiry => Encoding.watchdogExpiry | .handlerOverrun => Encoding.handlerOverrun
  | .gateArrival => Encoding.gateArrival | .beatEnd => Encoding.beatEnd | .batchAppend => Encoding.batchAppend
  | .orderFirstGrant => Encoding.orderFirstGrant | .startStage => Encoding.startStage
  | .powerStateChange => Encoding.powerStateChange | .qcreate => Encoding.qcreate | .qdestroy => Encoding.qdestroy
  | .load => Encoding.load | .unload => Encoding.unload | .launch => Encoding.launch | .release => Encoding.release
  | .cancel => Encoding.cancel | .preempt => Encoding.preempt | .tlbinv => Encoding.tlbinv | .kvmap => Encoding.kvmap
  | .asidcfg => Encoding.asidcfg | .fdring => Encoding.fdring | .setbeat => Encoding.setbeat
  | .setltol => Encoding.setltol | .kvevict => Encoding.kvevict

/-! ## A word that decodes is the one its instruction has (R38, R39) -/

theorem place_fld (w lo n : Nat) : place (fld w lo n) lo = bits w lo n * 2 ^ lo := by
  rw [place, fld, BitVec.toNat_ofNat, bits]

/-- A run of bits is its lower part and the part above it. -/
theorem bits_split (w lo m n : Nat) : bits w lo (m + n) = bits w lo m + 2 ^ m * bits w (lo + m) n := by
  rw [bits, pow_add, Nat.mod_mul, Nat.div_div_eq_div_mul, ← pow_add, bits, bits]

/-- A word is put together from the fields at the places that most entries give them. -/
theorem word_fields (w : Nat) :
    w = bits w 0 26 + 2 ^ 26 * (w / 2 ^ 26) ∧ bits w 0 26 = bits w 0 21 + 2 ^ 21 * bits w 21 5 ∧
    bits w 0 21 = bits w 0 16 + 2 ^ 16 * bits w 16 5 ∧ bits w 0 16 = bits w 0 11 + 2 ^ 11 * bits w 11 5 ∧
    bits w 0 11 = bits w 0 8 + 2 ^ 8 * bits w 8 3 ∧ bits w 0 8 = bits w 0 7 + 2 ^ 7 * bits w 7 1 ∧
    bits w 0 7 = bits w 0 6 + 2 ^ 6 * bits w 6 1 ∧ bits w 0 16 = bits w 0 13 + 2 ^ 13 * bits w 13 3 ∧
    bits w 0 8 = bits w 0 5 + 2 ^ 5 * bits w 5 3 := by
  refine ⟨?_, bits_split w 0 21 5, bits_split w 0 16 5, bits_split w 0 11 5, bits_split w 0 8 3, bits_split w 0 7 1,
    bits_split w 0 6 1, bits_split w 0 13 3, bits_split w 0 5 3⟩
  rw [bits, pow_zero, Nat.div_one, Nat.mod_add_div]

theorem encode_word {i : Instr} {v w : Nat} (h : encode i = some [v]) (hv : v = w) : encode i = some [w] := hv ▸ h

/-- One entry of a decoder's table: what holds of the instruction it gives under its guard, and of what the later
entries give, holds of what the decoder gives. -/
theorem encode_of_guarded {c : Prop} {_ : Decidable c} {i j : Instr} {rest : Option Instr} {ws : Option (List Nat)}
    (later : rest = some i → encode i = ws) (here : c → encode j = ws) :
    (if c then some j else rest) = some i → encode i = ws := by
  split
  case isTrue guard =>
    rintro ⟨⟩
    exact here guard
  case isFalse => exact later

section Majors
variable {w : Nat} {i : Instr}

theorem encode_of_decode00 (hw : w / 2 ^ 26 = 0x00) : decode00 w = some i → encode i = some [w] := by
  have := word_fields w
  have : bits w 0 26 = bits w 0 11 + 2 ^ 11 * bits w 11 15 := bits_split w 0 11 15
  have : bits w 0 21 = bits w 0 11 + 2 ^ 11 * bits w 11 10 := bits_split w 0 11 10
  have : bits w 0 11 = bits w 0 5 + 2 ^ 5 * bits w 5 6 := bits_split w 0 5 6
  unfold decode00
  iterate 13 refine encode_of_guarded ?_ fun guard => ?_
  · nofun
  all_goals apply encode_word rfl
  any_goals simp only [place_fld]
  all_goals omega

theorem encode_of_decode01 (hw : w / 2 ^ 26 = 0x01) : decode01 w = some i → encode i = some [w] := by
  have := word_fields w
  unfold decode01
  iterate 24 refine encode_of_guarded ?_ fun guard => ?_
  · nofun
  all_goals exact encode_word rfl (by simp only [place_fld]; omega)

theorem encode_of_decode02 (hw : w / 2 ^ 26 = 0x02) : decode02 w = some i → encode i = some [w] := by
  have := word_fields w
  rintro ⟨⟩
  exact encode_word rfl (by simp only [place_fld]; omega)

theorem encode_of_decode03 (hw : w / 2 ^ 26 = 0x03) : decode03 w = some i → encode i = some [w] := by
  have := word_fields w
  rintro ⟨⟩
  exact encode_word rfl (by simp only [place_fld]; omega)

theorem encode_of_decode04 (hw : w / 2 ^ 26 = 0x04) : decode04 w = some i → encode i = some [w] := by
  have := word_fields w
  rintro ⟨⟩
  exact encode_word rfl (by simp only [place_fld]; omega)

theorem encode_of_decode05 (hw : w / 2 ^ 26 = 0x05) : decode05 w = some i → encode i = some [w] := by
  have := word_fields w
  rintro ⟨⟩
  exact encode_word rfl (by simp only [place_fld]; omega)

theorem encode_of_decode06 (hw : w / 2 ^ 26 = 0x06) : decode06 w = some i → encode i = some [w] := by
  have := word_fields w
  have : bits w 0 16 = bits w 0 6 + 2 ^ 6 * bits w 6 10 := bits_split w 0 6 10
  unfold decode06
  iterate 3 refine encode_of_guarded ?_ fun guard => ?_
  · nofun
  all_goals exact encode_word rfl (by simp only [place_fld]; omega)

theorem encode_of_decode07 (hw : w / 2 ^ 26 = 0x07) : decode07 w = some i → encode i = some [w] := by
  have := word_fields w
  unfold decode07
  refine encode_of_guarded ?_ fun guard => ?_
  · nofun
  exact encode_word rfl (by simp only [place_fld]; omega)

theorem encode_of_decode08 (hw : w / 2 ^ 26 = 0x08) : decode08 w = some i → encode i = some [w] := by
  have := word_fields w
  unfold decode08
  iterate 7 refine encode_of_guarded ?_ fun guard => ?_
  · nofun
  all_goals exact encode_word rfl (by simp only [place_fld]; omega)

theorem encode_of_decode09 (hw : w / 2 ^ 26 = 0x09) : decode09 w = some i → encode i = some [w] := by
  have := word_fields w
  unfold decode09
  iterate 4 refine encode_of_guarded ?_ fun guard => ?_
  · nofun
  all_goals exact encode_word rfl (by simp only [place_fld]; omega)

theorem encode_of_decode0A (hw : w / 2 ^ 26 = 0x0A) : decode0A w = some i → encode i = some [w] := by
  have := word_fields w
  have : bits w 7 9 = bits w 7 4 + 2 ^ 4 * bits w 11 5 := bits_split w 7 4 5
  have : bits w 0 11 = bits w 0 7 + 2 ^ 7 * bits w 7 4 := bits_split w 0 7 4
  have : bits w 0 7 = bits w 0 4 + 2 ^ 4 * bits w 4 3 := bits_split w 0 4 3
  have : bits w 0 4 = bits w 0 2 + 2 ^ 2 * bits w 2 2 := bits_split w 0 2 2
  unfold decode0A
  iterate 10 refine encode_of_guarded ?_ fun guard => ?_
  · nofun
  all_goals exact encode_word rfl (by simp only [place_fld]; omega)

theorem encode_of_decode0B (hw : w / 2 ^ 26 = 0x0B) : decode0B w = some i → encode i = some [w] := by
  have := word_fields w
  unfold decode0B
  iterate 6 refine encode_of_guarded ?_ fun guard => ?_
  · nofun
  all_goals exact encode_word rfl (by simp only [place_fld]; omega)

theorem encode_of_decode0C (hw : w / 2 ^ 26 = 0x0C) : decode0C w = some i → encode i = some [w] := by
  have := word_fields w
  rintro ⟨⟩
  exact encode_word rfl (by simp only [place_fld]; omega)

theorem encode_of_decode0D (hw : w / 2 ^ 26 = 0x0D) : decode0D w = some i → encode i = some [w] := by
  have := word_fields w
  rintro ⟨⟩
  exact encode_word rfl (by simp only [place_fld]; omega)

theorem encode_of_decode0E (hw : w / 2 ^ 26 = 0x0E) : decode0E w = some i → encode i = some [w] := by
  have := word_fields w
  rintro ⟨⟩
  exact encode_word rfl (by simp only [place_fld]; omega)

theorem encode_of_decode0F (hw : w / 2 ^ 26 = 0x0F) : decode0F w = some i → encode i = some [w] := by
  have := word_fields w
  rintro ⟨⟩
  exact encode_word rfl (by simp only [place_fld]; omega)

theorem encode_of_decode10 (hw : w / 2 ^ 26 = 0x10) : decode10 w = some i → encode i = some [w] := by
  have := word_fields w
  have : bits w 0 16 = bits w 0 9 + 2 ^ 9 * bits w 9 7 := bits_split w 0 9 7
  have : bits w 9 12 = bits w 9 7 + 2 ^ 7 * bits w 16 5 := bits_split w 9 7 5
  have : bits w 0 9 = bits w 0 3 + 2 ^ 3 * bits w 3 6 := bits_split w 0 3 6
  have : bits w 0 3 = bits w 0 1 + 2 ^ 1 * bits w 1 2 := bits_split w 0 1 2
  have : bits w 0 9 = bits w 0 6 + 2 ^ 6 * bits w 6 3 := bits_split w 0 6 3
  have : bits w 0 6 = bits w 0 4 + 2 ^ 4 * bits w 4 2 := bits_split w 0 4 2
  have : bits w 0 6 = bits w 0 3 + 2 ^ 3 * bits w 3 3 := bits_split w 0 3 3
  unfold decode10
  iterate 4 refine encode_of_guarded ?_ fun guard => ?_
  · nofun
  all_goals exact encode_word rfl (by simp only [place_fld]; omega)

theorem encode_of_decode11 (hw : w / 2 ^ 26 = 0x11) : decode11 w = some i → encode i = some [w] := by
  have := word_fields w
  unfold decode11
  iterate 17 refine encode_of_guarded ?_ fun guard => ?_
  · nofun
  all_goals exact encode_word rfl (by simp only [place_fld]; omega)

theorem encode_of_decode12 (hw : w / 2 ^ 26 = 0x12) : decode12 w = some i → encode i = some [w] := by
  have := word_fields w
  unfold decode12
  iterate 12 refine encode_of_guarded ?_ fun guard => ?_
  · nofun
  all_goals exact encode_word rfl (by simp only [place_fld]; omega)

theorem encode_of_decode13 (hw : w / 2 ^ 26 = 0x13) : decode13 w = some i → encode i = some [w] := by
  have := word_fields w
  have : bits w 21 5 = bits w 21 3 + 2 ^ 3 * bits w 24 2 := bits_split w 21 3 2
  unfold decode13
  iterate 8 refine encode_of_guarded ?_ fun guard => ?_
  · nofun
  all_goals exact encode_word rfl (by simp only [place_fld]; omega)

theorem encode_of_decode14 (hw : w / 2 ^ 26 = 0x14) : decode14 w = some i → encode i = some [w] := by
  have := word_fields w
  have : bits w 21 5 = bits w 21 3 + 2 ^ 3 * bits w 24 2 := bits_split w 21 3 2
  have : bits w 16 5 = bits w 16 3 + 2 ^ 3 * bits w 19 2 := bits_split w 16 3 2
  have : bits w 11 5 = bits w 11 3 + 2 ^ 3 * bits w 14 2 := bits_split w 11 3 2
  unfold decode14
  iterate 9 refine encode_of_guarded ?_ fun guard => ?_
  · nofun
  all_goals exact encode_word rfl (by simp only [place_fld]; omega)

theorem encode_of_decode15 (hw : w / 2 ^ 26 = 0x15) : decode15 w = some i → encode i = some [w] := by
  have := word_fields w
  have : bits w 0 21 = bits w 0 11 + 2 ^ 11 * bits w 11 10 := bits_split w 0 11 10
  unfold decode15
  iterate 7 refine encode_of_guarded ?_ fun guard => ?_
  · nofun
  all_goals exact encode_word rfl (by simp only [place_fld]; omega)

theorem encode_of_decode16 (hw : w / 2 ^ 26 = 0x16) : decode16 w = some i → encode i = some [w] := by
  have := word_fields w
  unfold decode16
  iterate 4 refine encode_of_guarded ?_ fun guard => ?_
  · nofun
  all_goals exact encode_word rfl (by simp only [place_fld]; omega)

theorem encode_of_decode17 (hw : w / 2 ^ 26 = 0x17) : decode17 w = some i → encode i = some [w] := by
  have := word_fields w
  unfold decode17
  iterate 5 refine encode_of_guarded ?_ fun guard => ?_
  · nofun
  all_goals exact encode_word rfl (by simp only [place_fld]; omega)

theorem encode_of_decode18 (hw : w / 2 ^ 26 = 0x18) : decode18 w = some i → encode i = some [w] := by
  have := word_fields w
  have : bits w 21 5 = bits w 21 1 + 2 ^ 1 * bits w 22 4 := bits_split w 21 1 4
  have : bits w 0 16 = bits w 0 10 + 2 ^ 10 * bits w 10 6 := bits_split w 0 10 6
  have : bits w 0 10 = bits w 0 6 + 2 ^ 6 * bits w 6 4 := bits_split w 0 6 4
  have : bits w 0 6 = bits w 0 3 + 2 ^ 3 * bits w 3 3 := bits_split w 0 3 3
  have : bits w 0 3 = bits w 0 2 + 2 ^ 2 * bits w 2 1 := bits_split w 0 2 1
  have : bits w 0 2 = bits w 0 1 + 2 ^ 1 * bits w 1 1 := bits_split w 0 1 1
  unfold decode18
  iterate 12 refine encode_of_guarded ?_ fun guard => ?_
  · nofun
  all_goals exact encode_word rfl (by simp only [place_fld]; omega)

theorem encode_of_decode19 (hw : w / 2 ^ 26 = 0x19) : decode19 w = some i → encode i = some [w] := by
  have := word_fields w
  have : bits w 0 8 = bits w 0 3 + 2 ^ 3 * bits w 3 5 := bits_split w 0 3 5
  have : bits w 0 8 = bits w 0 1 + 2 ^ 1 * bits w 1 7 := bits_split w 0 1 7
  have : bits w 0 6 = bits w 0 1 + 2 ^ 1 * bits w 1 5 := bits_split w 0 1 5
  unfold decode19
  iterate 6 refine encode_of_guarded ?_ fun guard => ?_
  · nofun
  all_goals exact encode_word rfl (by simp only [place_fld]; omega)

theorem encode_of_decode1A (hw : w / 2 ^ 26 = 0x1A) : decode1A w = some i → encode i = some [w] := by
  have := word_fields w
  have : bits w 0 7 = bits w 0 3 + 2 ^ 3 * bits w 3 4 := bits_split w 0 3 4
  unfold decode1A
  iterate 5 refine encode_of_guarded ?_ fun guard => ?_
  · nofun
  all_goals exact encode_word rfl (by simp only [place_fld]; omega)

theorem encode_of_decode1B (hw : w / 2 ^ 26 = 0x1B) : decode1B w = some i → encode i = some [w] := by
  have := word_fields w
  have : bits w 0 6 = bits w 0 3 + 2 ^ 3 * bits w 3 3 := bits_split w 0 3 3
  unfold decode1B
  iterate 8 refine encode_of_guarded ?_ fun guard => ?_
  · nofun
  all_goals exact encode_word rfl (by simp only [place_fld]; omega)

theorem encode_of_decode1C (hw : w / 2 ^ 26 = 0x1C) : decode1C w = some i → encode i = some [w] := by
  have := word_fields w
  unfold decode1C
  iterate 2 refine encode_of_guarded ?_ fun guard => ?_
  · nofun
  all_goals exact encode_word rfl (by simp only [place_fld]; omega)

theorem encode_of_decode1D (hw : w / 2 ^ 26 = 0x1D) : decode1D w = some i → encode i = some [w] := by
  have := word_fields w
  unfold decode1D
  iterate 2 refine encode_of_guarded ?_ fun guard => ?_
  · nofun
  all_goals exact encode_word rfl (by simp only [place_fld]; omega)

theorem encode_of_decode1E (hw : w / 2 ^ 26 = 0x1E) : decode1E w = some i → encode i = some [w] := by
  have := word_fields w
  unfold decode1E
  iterate 4 refine encode_of_guarded ?_ fun guard => ?_
  · nofun
  all_goals apply encode_word rfl
  any_goals simp only [place_fld]
  all_goals omega

theorem encode_of_decode1F (hw : w / 2 ^ 26 = 0x1F) : decode1F w = some i → encode i = some [w] := by
  have := word_fields w
  have : bits w 21 5 = bits w 21 3 + 2 ^ 3 * bits w 24 2 := bits_split w 21 3 2
  unfold decode1F
  iterate 6 refine encode_of_guarded ?_ fun guard => ?_
  · nofun
  all_goals exact encode_word rfl (by simp only [place_fld]; omega)

theorem encode_of_decode20 (hw : w / 2 ^ 26 = 0x20) : decode20 w = some i → encode i = some [w] := by
  have := word_fields w
  have : bits w 21 5 = bits w 21 3 + 2 ^ 3 * bits w 24 2 := bits_split w 21 3 2
  have : bits w 21 3 = bits w 21 1 + 2 ^ 1 * bits w 22 2 := bits_split w 21 1 2
  unfold decode20
  iterate 3 refine encode_of_guarded ?_ fun guard => ?_
  · nofun
  all_goals exact encode_word rfl (by simp only [place_fld]; omega)

theorem encode_of_decode21 (hw : w / 2 ^ 26 = 0x21) : decode21 w = some i → encode i = some [w] := by
  have := word_fields w
  have : bits w 0 26 = bits w 0 11 + 2 ^ 11 * bits w 11 15 := bits_split w 0 11 15
  have : bits w 21 5 = bits w 21 3 + 2 ^ 3 * bits w 24 2 := bits_split w 21 3 2
  unfold decode21
  iterate 11 refine encode_of_guarded ?_ fun guard => ?_
  · nofun
  all_goals apply encode_word rfl
  any_goals simp only [place_fld]
  all_goals omega

theorem encode_of_decode22 (hw : w / 2 ^ 26 = 0x22) : decode22 w = some i → encode i = some [w] := by
  have := word_fields w
  unfold decode22
  iterate 3 refine encode_of_guarded ?_ fun guard => ?_
  · nofun
  all_goals exact encode_word rfl (by simp only [place_fld]; omega)

theorem encode_of_decode23 (hw : w / 2 ^ 26 = 0x23) : decode23 w = some i → encode i = some [w] := by
  have := word_fields w
  unfold decode23
  iterate 3 refine encode_of_guarded ?_ fun guard => ?_
  · nofun
  all_goals exact encode_word rfl (by simp only [place_fld]; omega)

theorem encode_of_decode24 (hw : w / 2 ^ 26 = 0x24) : decode24 w = some i → encode i = some [w] := by
  have := word_fields w
  unfold decode24
  iterate 10 refine encode_of_guarded ?_ fun guard => ?_
  · nofun
  all_goals exact encode_word rfl (by simp only [place_fld]; omega)

theorem encode_of_decode25 (hw : w / 2 ^ 26 = 0x25) : decode25 w = some i → encode i = some [w] := by
  have := word_fields w
  unfold decode25
  iterate 4 refine encode_of_guarded ?_ fun guard => ?_
  · nofun
  all_goals apply encode_word rfl
  any_goals simp only [place_fld]
  all_goals omega

theorem encode_of_decode26 (hw : w / 2 ^ 26 = 0x26) : decode26 w = some i → encode i = some [w] := by
  have := word_fields w
  unfold decode26
  iterate 2 refine encode_of_guarded ?_ fun guard => ?_
  · nofun
  all_goals exact encode_word rfl (by simp only [place_fld]; omega)

theorem encode_of_decode27 (hw : w / 2 ^ 26 = 0x27) : decode27 w = some i → encode i = some [w] := by
  have := word_fields w
  have : bits w 8 3 = bits w 8 2 + 2 ^ 2 * bits w 10 1 := bits_split w 8 2 1
  unfold decode27
  iterate 3 refine encode_of_guarded ?_ fun guard => ?_
  · nofun
  all_goals exact encode_word rfl (by simp only [place_fld]; omega)

end Majors

theorem encode_of_decode3F {w p : Nat} {i : Instr} (hw : w / 2 ^ 26 = 0x3F) :
    decode3F w p = some i → encode i = some [w, p % 2 ^ 32] := by
  have := word_fields w
  have : bits w 0 26 = bits w 0 20 + 2 ^ 20 * bits w 20 6 := bits_split w 0 20 6
  have : bits w 0 20 = bits w 0 15 + 2 ^ 15 * bits w 15 5 := bits_split w 0 15 5
  have payload : (fld p 0 32).toNat = p % 2 ^ 32 := by rw [fld, pow_zero, Nat.div_one, BitVec.toNat_ofNat]
  unfold decode3F
  iterate 2 refine encode_of_guarded ?_ fun guard => ?_
  · nofun
  all_goals
    rw [encode, payload, place_fld]
    congr 2
    omega

/-- Through every major of one word. -/
theorem encode_of_decodeDefined {w p : Nat} {i : Instr} (hw : w / 2 ^ 26 ≠ 63) (h : decodeDefined w p = some i) :
    encode i = some [w] := by
  unfold decodeDefined at h
  split at h
  exacts [encode_of_decode00 ‹_› h, encode_of_decode01 ‹_› h, encode_of_decode02 ‹_› h, encode_of_decode03 ‹_› h,
    encode_of_decode04 ‹_› h, encode_of_decode05 ‹_› h, encode_of_decode06 ‹_› h, encode_of_decode07 ‹_› h,
    encode_of_decode08 ‹_› h, encode_of_decode09 ‹_› h, encode_of_decode0A ‹_› h, encode_of_decode0B ‹_› h,
    encode_of_decode0C ‹_› h, encode_of_decode0D ‹_› h, encode_of_decode0E ‹_› h, encode_of_decode0F ‹_› h,
    encode_of_decode10 ‹_› h, encode_of_decode11 ‹_› h, encode_of_decode12 ‹_› h, encode_of_decode13 ‹_› h,
    encode_of_decode14 ‹_› h, encode_of_decode15 ‹_› h, encode_of_decode16 ‹_› h, encode_of_decode17 ‹_› h,
    encode_of_decode18 ‹_› h, encode_of_decode19 ‹_› h, encode_of_decode1A ‹_› h, encode_of_decode1B ‹_› h,
    encode_of_decode1C ‹_› h, encode_of_decode1D ‹_› h, encode_of_decode1E ‹_› h, encode_of_decode1F ‹_› h,
    encode_of_decode20 ‹_› h, encode_of_decode21 ‹_› h, encode_of_decode22 ‹_› h, encode_of_decode23 ‹_› h,
    encode_of_decode24 ‹_› h, encode_of_decode25 ‹_› h, encode_of_decode26 ‹_› h, encode_of_decode27 ‹_› h,
    absurd ‹_› hw, nomatch h]

theorem encode_of_decodeDefined_long {w p : Nat} {i : Instr} (hw : w / 2 ^ 26 = 63) (h : decodeDefined w p = some i) :
    encode i = some [w, p % 2 ^ 32] :=
  encode_of_decode3F hw (major_3F hw ▸ h)

@[simp] theorem isLong_eq_true (w : Nat) : isLong w = true ↔ w / 2 ^ 26 = 63 := by rw [isLong, beq_iff_eq]

/-- What `decodeWord` can answer: the word is left to emulation, or it is the one its well-formed instruction has, or no
instruction has it. -/
theorem decodeWord_cases (w p : Nat) :
    (0x28 ≤ w / 2 ^ 26 ∧ w / 2 ^ 26 ≤ 0x3E ∧ decodeWord w p = .undefinedOpcode (fld w 0 32)) ∨
    ¬(0x28 ≤ w / 2 ^ 26 ∧ w / 2 ^ 26 ≤ 0x3E) ∧
      ((decodeWord w p).wf = true ∧ encode (decodeWord w p) = some (if isLong w then [w, p % 2 ^ 32] else [w]) ∨
        decodeWord w p = .illegalInstruction (fld w 0 32)) := by
  unfold decodeWord
  split
  case isTrue reserved => exact .inl ⟨reserved.1, reserved.2, rfl⟩
  case isFalse defined =>
    refine .inr ⟨defined, ?_⟩
    split
    case h_2 => exact .inr rfl
    case h_1 i hi =>
      split
      case isFalse => exact .inr rfl
      case isTrue wf =>
        refine .inl ⟨wf, ?_⟩
        split
        case isTrue long => exact encode_of_decodeDefined_long ((isLong_eq_true w).1 long) hi
        case isFalse short => exact encode_of_decodeDefined (fun h => short ((isLong_eq_true w).2 h)) hi

theorem fld_word {w : Nat} (h : w < 2 ^ 32) : (fld w 0 32).toNat = w := by
  rw [fld, pow_zero, Nat.div_one, BitVec.toNat_ofNat, Nat.mod_eq_of_lt h]

/-- Of an instruction whose one word is its operand, the operand is that word. -/
theorem word_of_encode {w n : Nat} {ws : List Nat} (h : some [n] = some (if isLong w then w :: ws else [w])) :
    n = w := by
  split at h
  all_goals exact (List.cons.inj (Option.some.inj h)).1

/-- The word that `undefinedOpcode` and `illegalInstruction` carry is the one that was decoded. -/
theorem word_of_decodeWord {w p : Nat} {x : BitVec 32} (hw : w < 2 ^ 32)
    (h : decodeWord w p = .undefinedOpcode x ∨ decodeWord w p = .illegalInstruction x) : x.toNat = w := by
  have carried (y : BitVec 32) (e : decodeWord w p = .undefinedOpcode y ∨ decodeWord w p = .illegalInstruction y)
      (hy : y = fld w 0 32) : x.toNat = w := by
    have same : x = y := by
      rcases h with h | h <;> rcases e with e | e <;> cases h.symm.trans e <;> rfl
    rw [same, hy, fld_word hw]
  obtain ⟨-, -, e⟩ | ⟨-, ⟨-, e⟩ | e⟩ := decodeWord_cases w p
  · exact carried _ (.inl e) rfl
  · rcases h with h | h
    · exact word_of_encode (h ▸ e)
    · exact word_of_encode (h ▸ e)
  · exact carried _ (.inr e) rfl

/-- A word is left to emulation exactly when its major is reserved. -/
theorem decodeWord_undefinedOpcode_iff {w : Nat} (p : Nat) (hw : w < 2 ^ 32) :
    (∃ x, decodeWord w p = .undefinedOpcode x) ↔ 0x28 ≤ w / 2 ^ 26 ∧ w / 2 ^ 26 ≤ 0x3E := by
  obtain ⟨lo, hi, h⟩ | ⟨defined, ⟨wf, -⟩ | h⟩ := decodeWord_cases w p
  · exact ⟨fun _ => ⟨lo, hi⟩, fun _ => ⟨_, h⟩⟩
  · refine ⟨fun ⟨x, hx⟩ => ?_, fun reserved => absurd reserved defined⟩
    rw [hx, Instr.wf, decide_eq_true_eq, word_of_decodeWord hw (.inl hx)] at wf
    exact wf
  · refine ⟨fun ⟨x, hx⟩ => ?_, fun reserved => absurd reserved defined⟩
    cases hx.symm.trans h

end Sys2Proof.Laws

namespace Sys2Proof.Laws

/-- Settles O1: each word is closed, so that the decoder computes its instruction. -/
theorem decodeOfSpecWords : Obligations.DecodeOfSpecWords := by
  unfold Obligations.DecodeOfSpecWords
  decide

/-- Settles O2, by the law of each constructor. -/
theorem decodeOfEncode : Obligations.DecodeOfEncode := by
  unfold Obligations.DecodeOfEncode
  exact fun i ws wf legal words => Encoding.statement i wf legal ws words

/-- Settles O3, by what `decodeWord` can answer: an instruction of one operand word has that word, so that a well-formed
`undefinedOpcode` has a reserved major. -/
theorem encodeOfDecode : Obligations.EncodeOfDecode := by
  unfold Obligations.EncodeOfDecode
  refine ⟨fun w p hw hp legal => ?_, fun w p hw => ⟨decodeWord_undefinedOpcode_iff p hw,
    fun x h => word_of_decodeWord hw (.inl h), fun x h => word_of_decodeWord hw (.inr h)⟩⟩
  obtain ⟨-, hi, h⟩ | ⟨-, ⟨-, h⟩ | h⟩ := decodeWord_cases w p
  · have short : ¬ isLong w = true := fun long => by
      rw [(isLong_eq_true w).1 long] at hi
      exact absurd hi (by decide)
    rw [h, encode, fld_word hw, if_neg short]
  · rwa [Nat.mod_eq_of_lt hp] at h
  · exact absurd h (legal _)

end Sys2Proof.Laws
end

section
/-! Scalar loads and stores (R59 to R61, R68, R72, R193 to R196, R344): what a stream sees after its stores, and the
obligation O11. -/

namespace Sys2Proof.Machine

/-! ### What a stream sees -/

/-- A byte as a stream sees it: the newest of its held writes of that byte, else memory (R194). -/
theorem State.sees_newest (s : State) (k : Nat) {x : Nat} (low : x < barBase) : s.sees k x =
    ((s.hart.wbuf.filter fun w => w.stream == k).reverse.findSome? fun w => w.byteAt false x).getD (memGet s.mem x) := by
  unfold State.sees State.see
  cases (s.hart.wbuf.filter fun w => w.stream == k).reverse.findSome? fun w => w.byteAt false x with
  | some b => rfl
  | none => exact if_neg (Nat.not_le.2 low)

/-- Performing a stream's held writes changes nothing of what it sees (R195). -/
theorem State.sees_drained {s : State} (inv : s.MemInv) (k : Nat) {x : Nat} (low : x < barBase) :
    (s.drain fun j => j == k).sees k x = s.sees k x := by
  have none : ∀ w ∈ (s.drain fun j => j == k).hart.wbuf, w.stream ≠ k := by
    rw [State.drain_hart]
    intro w m
    simpa using (List.mem_filter.1 m).2
  rw [State.sees, State.see_memory _ _ _ _ none low, State.drain_mem, (memGet_foldl_stored _ inv.1 low).2,
    s.sees_newest k low]

theorem State.drainList_append (sel : Nat → Bool) (ws vs : List HeldWrite) (s : State) :
    s.drainList sel (ws ++ vs) = (s.drainList sel ws).drainList sel vs := by
  induction ws generalizing s with
  | nil => rfl
  | cons w ws ih =>
    rw [List.cons_append, State.drainList, State.drainList, ih]

/-- A store that is performed after its stream's earlier ones is one held back behind them that then performs. -/
theorem State.drain_held (s : State) (k : Nat) (pad : Bool) (a : Nat) (bs : List Byte) :
    (s.upd fun h => { h with wbuf := h.wbuf ++ [{ stream := k, pad := pad, addr := a, data := bs }] }).drain (fun j => j == k) =
      (s.drain fun j => j == k).commit pad a bs := by
  have kept : (s.hart.wbuf ++ [({ stream := k, pad := pad, addr := a, data := bs } : HeldWrite)]).filter (fun w => !(w.stream == k)) =
      s.hart.wbuf.filter fun w => !(w.stream == k) := by
    rw [List.filter_append]
    simp
  unfold State.drain
  dsimp only [State.upd_hart]
  rw [State.drainList_append, State.drainList, State.drainList, if_pos (beq_self_eq_true k)]
  exact congrArg (fun ws => ((s.setHart { s.hart with wbuf := ws }).drainList (fun j => j == k) s.hart.wbuf).commit pad a bs) kept

/-- What a stream sees once a write of its own is held back: the bytes written, and elsewhere what it saw. -/
theorem State.sees_held (s : State) (k : Nat) {a : Nat} (bs : List Byte) {x : Nat} (low : x < barBase) :
    (s.upd fun h => { h with wbuf := h.wbuf ++ [{ stream := k, pad := false, addr := a, data := bs }] }).sees k x =
      if a ≤ x then (bs[x - a]?).getD (s.sees k x) else s.sees k x := by
  have newest : ((s.hart.wbuf ++ [({ stream := k, pad := false, addr := a, data := bs } : HeldWrite)]).filter fun w =>
      w.stream == k).reverse = { stream := k, pad := false, addr := a, data := bs } ::
        (s.hart.wbuf.filter fun w => w.stream == k).reverse := by
    rw [List.filter_append, List.reverse_append]
    simp
  rw [State.sees_newest _ k low, s.sees_newest k low]
  dsimp only [State.upd_hart, State.upd_mem]
  rw [newest, List.findSome?_cons]
  unfold HeldWrite.byteAt
  by_cases above : a ≤ x
  · rw [if_pos ⟨rfl, above⟩, if_pos above]
    dsimp only
    cases bs[x - a]? <;> rfl
  · rw [if_neg fun h => above h.2, if_neg above]

/-- What a stream sees after a store of its own, held back or not. -/
theorem State.sees_stored {s : State} (inv : s.MemInv) (k : Nat) (now : Bool) {a : Nat} (bs : List Byte) {x : Nat}
    (low : x < barBase) :
    (s.store k now false a bs).sees k x = if a ≤ x then (bs[x - a]?).getD (s.sees k x) else s.sees k x := by
  unfold State.store
  split
  · exact s.sees_held k bs low
  · rw [← State.drain_held]
    exact (State.sees_drained (s := s.upd _) inv k low).trans (s.sees_held k bs low)

/-! ### Scalar loads -/

theorem loadedWord_natural (n v : Nat) : loadedWord false n v = BitVec.ofNat 64 v := rfl

/-- A loaded value of n bytes sign-extended. -/
theorem loadedWord_signed {n v : Nat} (small : v < 256 ^ n) :
    loadedWord true n v = BitVec.ofInt 64 (BitVec.ofNat (8 * n) v).toInt := by
  rw [show (256 : Nat) = 2 ^ 8 from rfl, ← Nat.pow_mul] at small
  exact congrArg (BitVec.ofInt 64) (toSigned_eq_toInt small)

/-- The state after a scalar load that is delayed: it is noted, with the PC past it (R196). -/
def State.notedLoad (s : State) (d : Reg) (signed : Bool) (n pa : Nat) : State := s.setHart { s.hart with
  late := s.hart.late ++ [{ stream := 0, dest := .scalar d signed, size := n, elems := [(0, pa)] }], pc := s.hart.pc + 4 }

theorem State.scalarLoad_of_ok {s : State} {signed : Bool} {n : Nat} {d ra : Reg} {o : BitVec 13} {p : Phys}
    (ok : s.access s.hart .read n (s.hart.scalarAddr ra o n) = .ok p) :
    (s.delays 0 p = false →
      s.scalarLoad signed n d ra o = .next (s.wrote d (loadedWord signed n (s.load s.hart 0 false p.pa n)))) ∧
    (s.delays 0 p = true → s.scalarLoad signed n d ra o = .next (s.notedLoad d signed n p.pa)) := by
  unfold State.scalarLoad
  rw [ok]
  refine ⟨fun now => ?_, fun later => ?_⟩
  · dsimp only
    rw [now]
    rfl
  · dsimp only
    rw [later]
    rfl

theorem State.scalarLoad_of_error {s : State} {signed : Bool} {n : Nat} {d ra : Reg} {o : BitVec 13} {f : Flt}
    (bad : s.access s.hart .read n (s.hart.scalarAddr ra o n) = .error f) : s.scalarLoad signed n d ra o = s.faultAt f := by
  rw [State.scalarLoad, bad]

/-! ### Scalar stores -/

/-- The state after a scalar store that passes its checks. -/
def State.scalarStored (s : State) (n : Nat) (d : Reg) (p : Phys) : State :=
  s.store 0 (s.performsNow p) false p.pa (natLe n ((s.hart.rd d).toNat % 2 ^ (8 * n)))

theorem State.scalarStore_of_ok {s : State} {n : Nat} {d ra : Reg} {o : BitVec 13} {p : Phys}
    (ok : s.access s.hart .write n (s.hart.scalarAddr ra o n) = .ok p) :
    s.scalarStore n d ra o = .next ((s.scalarStored n d p).setHart ((s.scalarStored n d p).hart.advance 4)) := by
  rw [State.scalarStore, State.writeVa, ok]
  rfl

theorem State.scalarStore_of_error {s : State} {n : Nat} {d ra : Reg} {o : BitVec 13} {f : Flt}
    (bad : s.access s.hart .write n (s.hart.scalarAddr ra o n) = .error f) : s.scalarStore n d ra o = s.faultAt f := by
  rw [State.scalarStore, State.writeVa, bad]
  rfl

/-- Byte j of the low n bytes of a word. -/
theorem natLe_low_getElem? (v : Word) {n j : Nat} (inside : j < n) :
    (natLe n (v.toNat % 2 ^ (8 * n)))[j]? = some (v.extractLsb' (8 * j) 8) := by
  rw [natLe_getElem? n _ inside]
  congr 1
  apply BitVec.eq_of_getLsbD_eq
  intro i hi
  have within : 8 * j + i < 8 * n := by omega
  rw [byte_testBit _ _ hi, Nat.testBit_mod_two_pow, decide_eq_true within, Bool.true_and, BitVec.getLsbD_extractLsb',
    decide_eq_true hi, Bool.true_and, BitVec.getLsbD]

theorem State.scalarStored_afterStore (s : State) (n : Nat) (d : Reg) (p : Phys) :
    s.AfterStore ((s.scalarStored n d p).setHart ((s.scalarStored n d p).hart.advance 4)) id := by
  refine ⟨?_, State.store_others s _ _ _ _ _⟩
  have frame := State.store_hart s 0 (s.performsNow p) false p.pa (natLe n ((s.hart.rd d).toNat % 2 ^ (8 * n)))
  show (s.scalarStored n d p).hart.advance 4 = _
  rw [State.scalarStored, frame]
  rfl

/-- A scalar store: its bytes as S0 sees memory, and where nothing is held back those of memory itself (R68, R195). -/
theorem State.scalarStored_bytes {s : State} (inv : s.MemInv) {n : Nat} (some : 0 < n) (d : Reg) {p : Phys} (memory : p.pa + n ≤ barBase) :
    (∀ j < n, (s.scalarStored n d p).sees 0 (p.pa + j) = (s.hart.rd d).extractLsb' (8 * j) 8) ∧
    (∀ x < barBase, (x < p.pa ∨ p.pa + n ≤ x) → (s.scalarStored n d p).sees 0 x = s.sees 0 x) ∧
    (s.hart.wbuf = [] → 0 ∉ s.holding →
      (∀ j < n, memGet (s.scalarStored n d p).mem (p.pa + j) = (s.hart.rd d).extractLsb' (8 * j) 8) ∧
      (∀ x, (x < p.pa ∨ p.pa + n ≤ x) → memGet (s.scalarStored n d p).mem x = memGet s.mem x)) := by
  refine ⟨fun j hj => ?_, fun x low apart => ?_, fun empty free => ?_⟩
  · rw [State.scalarStored, State.sees_stored inv 0 _ _ (by omega), if_pos (Nat.le_add_right _ _), Nat.add_sub_cancel_left,
      natLe_low_getElem? _ hj, Option.getD_some]
  · rw [State.scalarStored, State.sees_stored inv 0 _ _ low]
    split
    · rw [List.getElem?_eq_none (by rw [natLe_length]; omega), Option.getD_none]
    · rfl
  · have mem : (s.scalarStored n d p).mem = memStore s.mem p.pa (natLe n ((s.hart.rd d).toNat % 2 ^ (8 * n))) := by
      rw [State.scalarStored, State.store_now s 0 _ _ _ empty (by simpa using free), State.commitMem_mem _ _ (by omega)]
    rw [mem]
    refine ⟨fun j hj => ?_, fun x apart => memGet_memStore_other _ _ _ _ inv.1 (by rwa [natLe_length])⟩
    rw [memGet_memStore_same _ _ _ _ inv.1 (by rwa [natLe_length])]
    exact Option.some.inj ((List.getElem?_eq_getElem _).symm.trans (natLe_low_getElem? (s.hart.rd d) hj))

/-! ### The checks that an atomic makes first (R72) -/

theorem State.amo_of_error {s : State} {pcie : Bool} {op : AmoOp} {d a b : Reg} {z : BitVec 2} {f : Flt}
    (carried : pcie = true ∨ s.amoToHost (2 ^ z.toNat) (s.hart.rd a) = false)
    (bad : s.accessRmw s.hart (2 ^ z.toNat) (s.hart.rd a) = .error f) : s.amo pcie op d a b z = s.faultAt f := by
  have passes : (!pcie && s.amoToHost (2 ^ z.toNat) (s.hart.rd a)) = false := by
    rcases carried with h | h <;> simp [h]
  unfold State.amo
  dsimp only
  rw [passes, bad]
  rfl

theorem State.amo_to_host {s : State} {op : AmoOp} {d a b : Reg} {z : BitVec 2}
    (host : s.amoToHost (2 ^ z.toNat) (s.hart.rd a) = true) : s.amo false op d a b z = s.faultAt ⟨cProt, 0, s.hart.rd a⟩ := by
  unfold State.amo
  dsimp only
  rw [host]
  rfl

theorem exec_ldAcq_of_error {s : State} {d a : Reg} {sc : BitVec 3} {z : BitVec 2} {f : Flt}
    (bad : s.access s.hart .read (2 ^ z.toNat) (s.hart.rd a) = .error f) : exec (.ldAcq d a sc z) s = s.faultAt f := by
  show execLdAcq d a sc z s = _
  rw [execLdAcq, State.readVa, bad]
  rfl

theorem exec_stRel_of_error {s : State} {a b : Reg} {sc : BitVec 3} {z : BitVec 2} {f : Flt}
    (bad : s.access s.hart .write (2 ^ z.toNat) (s.hart.rd a) = .error f) : exec (.stRel a b sc z) s = s.faultAt f := by
  show execStRel a b sc z s = _
  rw [execStRel, bad]

/-! ### The instructions -/

/-- The zero-extending loads, each with its size. -/
theorem exec_load_natural {s : State} {d ra : Reg} {o : BitVec 13} {n : Nat} {i : Instr}
    (load : (n, i) ∈ [(1, Instr.ldb d ra o), (2, .ldh d ra o), (4, .ldw d ra o), (8, .ldd d ra o)]) :
    exec i s = s.scalarLoad false n d ra o := by
  simp only [List.mem_cons, Prod.mk.injEq, List.not_mem_nil, or_false] at load
  rcases load with ⟨rfl, rfl⟩ | ⟨rfl, rfl⟩ | ⟨rfl, rfl⟩ | ⟨rfl, rfl⟩ <;> rfl

theorem exec_load_signed {s : State} {d ra : Reg} {o : BitVec 13} {n : Nat} {i : Instr}
    (load : (n, i) ∈ [(1, Instr.ldbS d ra o), (2, .ldhS d ra o), (4, .ldwS d ra o)]) :
    exec i s = s.scalarLoad true n d ra o := by
  simp only [List.mem_cons, Prod.mk.injEq, List.not_mem_nil, or_false] at load
  rcases load with ⟨rfl, rfl⟩ | ⟨rfl, rfl⟩ | ⟨rfl, rfl⟩ <;> rfl

theorem exec_scalarStore {s : State} {d ra : Reg} {o : BitVec 13} {n : Nat} {i : Instr}
    (store : (n, i) ∈ [(1, Instr.stb d ra o), (2, .sth d ra o), (4, .stw d ra o), (8, .std d ra o)]) :
    0 < n ∧ exec i s = s.scalarStore n d ra o := by
  simp only [List.mem_cons, Prod.mk.injEq, List.not_mem_nil, or_false] at store
  rcases store with ⟨rfl, rfl⟩ | ⟨rfl, rfl⟩ | ⟨rfl, rfl⟩ | ⟨rfl, rfl⟩ <;> exact ⟨by decide, rfl⟩

/-- The atomics that PCIe can carry to a host page, and those that it cannot. -/
theorem exec_amo_carried {s : State} {d ra rb : Reg} {sc : BitVec 3} {z : BitVec 2} {i : Instr}
    (amo : i ∈ [Instr.amoAdd d ra rb sc z, .amoSwap d ra rb sc z, .amoCas d ra rb sc z]) :
    ∃ op, exec i s = s.amo true op d ra rb z := by
  simp only [List.mem_cons, List.not_mem_nil, or_false] at amo
  rcases amo with rfl | rfl | rfl
  · exact ⟨_, (rfl : _ = execAmoAdd d ra rb sc z s).trans (by rw [execAmoAdd])⟩
  · exact ⟨_, (rfl : _ = execAmoSwap d ra rb sc z s).trans (by rw [execAmoSwap])⟩
  · exact ⟨_, (rfl : _ = execAmoCas d ra rb sc z s).trans (by rw [execAmoCas])⟩

theorem exec_amo_uncarried {s : State} {d ra rb : Reg} {sc : BitVec 3} {z : BitVec 2} {i : Instr}
    (amo : i ∈ [Instr.amoMin d ra rb sc z, .amoMax d ra rb sc z, .amoAnd d ra rb sc z, .amoOr d ra rb sc z,
      .amoXor d ra rb sc z]) : ∃ op, exec i s = s.amo false op d ra rb z := by
  simp only [List.mem_cons, List.not_mem_nil, or_false] at amo
  rcases amo with rfl | rfl | rfl | rfl | rfl
  · exact ⟨_, (rfl : _ = execAmoMin d ra rb sc z s).trans (by rw [execAmoMin])⟩
  · exact ⟨_, (rfl : _ = execAmoMax d ra rb sc z s).trans (by rw [execAmoMax])⟩
  · exact ⟨_, (rfl : _ = execAmoAnd d ra rb sc z s).trans (by rw [execAmoAnd])⟩
  · exact ⟨_, (rfl : _ = execAmoOr d ra rb sc z s).trans (by rw [execAmoOr])⟩
  · exact ⟨_, (rfl : _ = execAmoXor d ra rb sc z s).trans (by rw [execAmoXor])⟩

/-! ### O11 -/

/-- Settles O11: a scalar access does what its checks of R344 leave it to do, at the place they found or with the fault they gave. -/
theorem scalarLoadsAndStores : Obligations.ScalarLoadsAndStores := by
  unfold Obligations.ScalarLoadsAndStores
  refine ⟨fun s d ra o => ⟨fun n i load p ok => ?_, fun n i load p ok => ?_, fun none p => ?_, fun n pa none memory => ?_⟩,
    fun s d ra o inv n i store p ok memory => ?_,
    fun s d ra rb o sc z => ⟨fun n i load f bad => ?_, fun n i store f bad => ?_, fun f => exec_ldAcq_of_error,
      fun f => exec_stRel_of_error, fun i amo f bad => ?_, fun i amo => ⟨fun f carried bad => ?_, fun host => ?_⟩,
      fun acc n va misaligned below => s.access_misaligned s.hart acc n va below misaligned,
      fun acc n va beyond => s.access_beyond s.hart acc n va beyond⟩⟩
  · rw [exec_load_natural load]
    exact State.scalarLoad_of_ok ok
  · have runs := State.scalarLoad_of_ok (signed := true) (d := d) ok
    rw [loadedWord_signed (s.load_lt s.hart 0 false p.pa n)] at runs
    rw [exec_load_signed load]
    exact runs
  · simp [State.delays, none]
  · exact s.load_memory s.hart 0 pa n none memory
  · obtain ⟨some, run⟩ := exec_scalarStore (s := s) store
    obtain ⟨here, apart, direct⟩ := State.scalarStored_bytes inv some d memory
    exact ⟨_, run.trans (State.scalarStore_of_ok ok), s.scalarStored_afterStore n d p, here, apart, direct⟩
  · have runs : ∃ signed, exec i s = s.scalarLoad signed n d ra o := by
      simp only [List.mem_cons, Prod.mk.injEq, List.not_mem_nil, or_false] at load
      rcases load with ⟨rfl, rfl⟩ | ⟨rfl, rfl⟩ | ⟨rfl, rfl⟩ | ⟨rfl, rfl⟩ | ⟨rfl, rfl⟩ | ⟨rfl, rfl⟩ | ⟨rfl, rfl⟩ <;> exact ⟨_, rfl⟩
    obtain ⟨signed, run⟩ := runs
    rw [run, State.scalarLoad_of_error bad]
  · rw [(exec_scalarStore store).2, State.scalarStore_of_error bad]
  · obtain ⟨op, run⟩ := exec_amo_carried (s := s) amo
    rw [run, State.amo_of_error (.inl rfl) bad]
  · obtain ⟨op, run⟩ := exec_amo_uncarried (s := s) amo
    rw [run, State.amo_of_error (.inr (by simpa using carried)) bad]
  · obtain ⟨op, run⟩ := exec_amo_uncarried (s := s) amo
    rw [run, State.amo_to_host host]

end Sys2Proof.Machine
end

section
/-! The emulation handler (R38, R80, R257): what the handler starts from, what `eret` gives the hart back, and the
obligation O17. -/

namespace Sys2Proof.Machine

/-! ### Entry -/

/-- The scalar file that a handler starts from. -/
theorem Hart.rd_handlerFile (h : Hart) (a b c d : Word) (r : Reg) :
    ({ h with sregs := (((Vector.replicate 32 0).set 2 a).set 3 b).set 4 c |>.set 5 d } : Hart).rd r =
      if r = 2 then a else if r = 3 then b else if r = 4 then c else if r = 5 then d else 0 := by
  by_cases five : r = 5
  · subst five; rfl
  by_cases four : r = 4
  · subst four; rfl
  by_cases three : r = 3
  · subst three; rfl
  by_cases two : r = 2
  · subst two; rfl
  have apart (n : Reg) (ne : r ≠ n) : n.toNat ≠ r.toNat := fun eq => ne (BitVec.eq_of_toNat_eq eq.symm)
  rw [if_neg two, if_neg three, if_neg four, if_neg five]
  unfold Hart.rd
  dsimp only
  rw [Vector.getElem_set_ne _ _ (show 5 ≠ r.toNat from apart 5 five), Vector.getElem_set_ne _ _ (show 4 ≠ r.toNat from apart 4 four),
    Vector.getElem_set_ne _ _ (show 3 ≠ r.toNat from apart 3 three), Vector.getElem_set_ne _ _ (show 2 ≠ r.toNat from apart 2 two),
    Vector.getElem_replicate, ite_self]

/-- Entering the handler keeps the context but for its scalars, its PC, what waits and what it watches. -/
theorem State.enterHandler_next (s : State) (w : BitVec 32) :
    ∃ (t : State) (written : Bool) (watch : Watch), s.enterHandler w = .next t ∧ t.hart = { s.hart with
      sregs := (((Vector.replicate 32 0).set 2 (s.hart.trapbase + 0x7C00)).set 3 s.hart.trapbase).set 4 (w.setWidth 64)
        |>.set 5 s.hart.pc
      pc := s.hart.info.emuh.setWidth 64
      handler := some { sregs := s.hart.sregs, pc := s.hart.pc, rpc := s.hart.pc + 4, areaWritten := written, overrunAt := none }
      save := none, st := .waiting .emulation, watch := watch } := by
  obtain ⟨reserve, watch, area⟩ := s.writeArea_hart .entry
    { s.hart.record s.cycle { Trap.atWord s.hart cUndefined 0 with rpc := s.hart.pc + 4 } with
      word := w, payload := 0, wcause := 6, pend := false }
  refine ⟨_, !reserve, watch, rfl, ?_⟩
  rw [State.upd_hart, area]

/-- A word of a reserved major enters the handler where the region has one and neither a handler nor a lane met the word. -/
theorem execUndefinedOpcode_enters (w : BitVec 32) {s : State} (emuh : s.hart.info.emuh ≠ 0) (free : s.hart.handler = none)
    (whole : s.hart.lane = none) : execUndefinedOpcode w s = s.enterHandler w := by
  unfold execUndefinedOpcode
  rw [free, whole, if_neg (by simpa using emuh)]

/-! ### Return -/

/-- A doubleword of the save area that translates and holds no error is the one in memory. -/
theorem State.getWord_sound {s : State} {h : Hart} {o : Nat} {p : Phys}
    (read : s.translate h.info.asid .read (h.trapbase + BitVec.ofNat 64 o) = .ok p)
    (sound : ∀ i < 8, s.poison.contains (p.pa + i) = false) : s.getWord h o = some (memRead s.mem p.pa 8) := by
  have clean : (List.range 8).any (fun i => s.poison.contains (p.pa + i)) = false :=
    List.any_eq_false.2 fun i m => by rw [sound i (List.mem_range.1 m)]; decide
  unfold State.getWord
  rw [read]
  dsimp only
  rw [clean, if_neg (by decide)]

theorem toNat_memRead_doubleword (m : List Host.Cell) (a : Nat) : (BitVec.ofNat 64 (memRead m a 8)).toNat = memRead m a 8 :=
  (BitVec.toNat_ofNat _ _).trans (Nat.mod_eq_of_lt (memRead_lt m a 8))

/-- Without a written area the scalars come from the device's own copy. -/
theorem State.areaScalar_copy (s : State) {k : Handler} (i : Fin 32) (nonzero : i.val ≠ 0) (own : k.areaWritten = false) :
    s.areaScalar k i = k.sregs[i.val] := by
  unfold State.areaScalar
  rw [if_neg nonzero, own, if_neg (by decide)]

theorem State.areaScalar_read {s : State} {k : Handler} (i : Fin 32) {v : Nat} (nonzero : i.val ≠ 0)
    (written : k.areaWritten = true) (word : s.getWord s.hart (0x200 + 8 * i.val) = some v) :
    s.areaScalar k i = BitVec.ofNat 64 v := by
  unfold State.areaScalar
  rw [if_neg nonzero, if_pos written, word]

theorem State.areaRpc_copy (s : State) {k : Handler} (own : k.areaWritten = false) : s.areaRpc k = k.rpc := by
  unfold State.areaRpc
  rw [own, if_neg (by decide)]

theorem State.areaRpc_read {s : State} {k : Handler} {v : Nat} (written : k.areaWritten = true)
    (word : s.getWord s.hart 8 = some v) : s.areaRpc k = BitVec.ofNat 64 (v % 2 ^ 56) := by
  unfold State.areaRpc
  rw [if_pos written, word]

/-- With every producer landed and every write performed, the context is the same but for vector registers and what it
watches. -/
theorem State.landed_drained_hart (s : State) : ∃ watch, (s.upd Hart.landAll).drainAll.hart =
    { s.hart with vregs := s.hart.landAll.vregs, pend := [], heldStrips := [], wbuf := [], watch := watch } := by
  refine ⟨(s.upd Hart.landAll).drainAll.hart.watch, (State.drain_hart _ _).trans ?_⟩
  rw [State.upd_hart, Hart.landAll_eq]
  simp [State.drainAll]

theorem State.landed_drained_translate (s : State) : (s.upd Hart.landAll).drainAll.translate = s.translate :=
  (((State.Accessed.refl s).upd _).drainAll).translate

/-- A doubleword at TRAPBASE + `o` that translates for the hart and holds no error once its writes have performed. -/
theorem State.landed_drained_getWord {s : State} {o : Nat} {p : Phys}
    (read : s.translate s.hart.info.asid .read (s.hart.trapbase + BitVec.ofNat 64 o) = .ok p)
    (sound : ∀ i < 8, (s.upd Hart.landAll).drainAll.poison.contains (p.pa + i) = false) :
    (s.upd Hart.landAll).drainAll.getWord (s.upd Hart.landAll).drainAll.hart o =
      some (memRead (s.upd Hart.landAll).drainAll.mem p.pa 8) := by
  obtain ⟨watch, hart⟩ := s.landed_drained_hart
  refine State.getWord_sound ?_ sound
  rw [s.landed_drained_translate, hart]
  exact read

/-- The hart resumed with the scalars and the resume PC of the area. -/
def State.resumed (s : State) (k : Handler) : State :=
  s.upd fun h => { h with sregs := Vector.ofFn fun i => s.areaScalar k i, pc := s.areaRpc k, handler := none, save := none
                          st := .resident, watch := Watch.none }

theorem State.resumed_rd (s : State) (k : Handler) {r : Reg} (nonzero : r ≠ 0) :
    (s.resumed k).hart.rd r = s.areaScalar k r.toFin := by
  unfold Hart.rd
  rw [if_neg nonzero]
  exact Vector.getElem_ofFn _

/-- `eret` in the handler resumes the settled hart. -/
theorem execEret_handler {s : State} {k : Handler} (runs : s.hart.handler = some k) :
    execEret s = .next ((s.upd Hart.landAll).drainAll.resumed k) := by
  unfold execEret
  rw [runs]
  rfl

/-- Settles O17: the entry keeps the context but for the scalars it starts the handler from; `eret` settles the hart, reads
the area that the settled state holds at addresses that translate as they did, and changes nothing else. -/
theorem emulationHandler : Obligations.EmulationHandler := by
  refine ⟨fun s w emuh free whole => ?_, fun s k runs => ?_⟩
  · obtain ⟨t, written, watch, run, hart⟩ := s.enterHandler_next w
    refine ⟨t, _, (execUndefinedOpcode_enters w emuh free whole).trans run, congrArg Hart.handler hart, ?_⟩
    rw [hart]
    exact ⟨rfl, rfl, rfl, rfl, rfl, fun r => Hart.rd_handlerFile s.hart _ _ _ _ r,
      rfl, rfl, rfl, rfl, rfl, rfl, rfl, rfl, rfl, rfl, rfl, rfl⟩
  · obtain ⟨watch, hart⟩ := s.landed_drained_hart
    have value (r : Reg) (nonzero : r ≠ 0) : r.toFin.val ≠ 0 := fun zero => nonzero (BitVec.eq_of_toNat_eq zero)
    refine ⟨_, execEret_handler runs, rfl, rfl, (congrArg Hart.wbuf hart :), (congrArg Hart.pend hart :), rfl, fun own => ⟨?_, ?_⟩,
      fun written => ⟨?_, ?_⟩, (congrArg Hart.vregs hart :), (congrArg Hart.masks hart :), (congrArg Hart.flags hart :),
      (congrArg Hart.tiles hart :), (congrArg Hart.vl hart :)⟩
    · exact State.areaRpc_copy _ own
    · exact fun r nonzero => (State.resumed_rd _ k nonzero).trans (State.areaScalar_copy _ _ (value r nonzero) own)
    · intro p read sound
      refine (congrArg BitVec.toNat (State.areaRpc_read written (State.landed_drained_getWord read sound))).trans ?_
      rw [BitVec.toNat_ofNat]
      omega
    · intro r p nonzero read sound
      refine (congrArg BitVec.toNat ((State.resumed_rd _ k nonzero).trans
        (State.areaScalar_read _ (value r nonzero) written (State.landed_drained_getWord read sound)))).trans ?_
      exact toNat_memRead_doubleword _ _

end Sys2Proof.Machine
end

section
/-! Configuration instructions and empty registers (R45 to R49, R119, R125 to R127, R178), and the obligation O22. -/

namespace Sys2Proof.Machine

/-! ### Rewriting configuration words -/

theorem members_nodup (r g : Nat) : (members r g).Nodup := List.nodup_range.map fun _ _ => Nat.add_left_cancel

theorem setV_eq (h : Hart) (r : Nat) (x : VReg) : h.setV r x = { h with vregs := (h.setV r x).vregs } := rfl

/-- The configuration words of the registers listed are changed by `f`, and nothing else. -/
theorem recfg_spec (f : BitVec 32 → BitVec 32) (rs : List Nat) (h : Hart) (below : ∀ r ∈ rs, r < 32) (once : rs.Nodup) :
    rs.foldl (fun h r => h.setV r { h.v r with cfg := f (h.v r).cfg }) h = { h with
      vregs := (rs.foldl (fun h r => h.setV r { h.v r with cfg := f (h.v r).cfg }) h).vregs } ∧
    ∀ q < 32, (rs.foldl (fun h r => h.setV r { h.v r with cfg := f (h.v r).cfg }) h).v q =
      if q ∈ rs then { h.v q with cfg := f (h.v q).cfg } else h.v q := by
  induction rs generalizing h with
  | nil => exact ⟨rfl, fun q _ => rfl⟩
  | cons r rs ih =>
    obtain ⟨fresh, once⟩ := List.nodup_cons.1 once
    obtain ⟨frame, words⟩ := ih (h.setV r { h.v r with cfg := f (h.v r).cfg })
      (fun q m => below q (List.mem_cons_of_mem _ m)) once
    refine ⟨frame, fun q lt => ?_⟩
    rw [List.foldl_cons, words q lt]
    by_cases same : r = q
    · subst same
      rw [if_neg fresh, setV_v_same, if_pos List.mem_cons_self]
    · rw [setV_v_other _ _ _ _ (below r List.mem_cons_self) lt same]
      simp only [List.mem_cons, Ne.symm same, false_or]

/-- A group whose base is a multiple of its size ends within the registers. -/
theorem group_end_le (d : Reg) {k : Nat} (small : k ≤ 3) (base : d.toNat % 2 ^ k = 0) : d.toNat + 2 ^ k ≤ 32 := by
  have lt := d.isLt
  interval_cases k <;> omega

/-! ### What a configuration instruction does -/

/-- A configuration that some type has is illegal at a base that is no multiple of the group, or on a bound member. -/
theorem State.configure_illegal (s : State) {d g : Nat} (c : BitVec 32)
    (bad : d % g ≠ 0 ∨ ∃ r ∈ members d g, s.hart.isBound r = true) : s.configure false d g c = s.illegal := by
  unfold State.configure
  refine if_pos ?_
  rcases bad with odd | bound
  · simp [odd]
  · simp only [List.any_eq_true.2 bound, Bool.or_true]

theorem State.configure_refused (s : State) (d g : Nat) (c : BitVec 32) : s.configure true d g c = s.illegal := rfl

/-- The same with no member bound: a wait for the empty ones, else their words rewritten. -/
theorem State.configure_unbound (s : State) {d g : Nat} (c : BitVec 32) (base : d % g = 0)
    (free : ∀ r ∈ members d g, s.hart.isBound r = false) : s.configure false d g c =
      if !(s.hart.empties (members d g)).isEmpty then
        s.wait .fullEmpty { Watch.none with regs := s.hart.empties (members d g) }
      else s.done ((members d g).foldl (fun h r =>
        h.setV r { h.v r with cfg := (c &&& 0xFFF7FFFF) ||| ((h.v r).cfg &&& 0x00080000) }) s.hart) := by
  have unbound : (members d g).any (fun r => s.hart.isBound r) = false :=
    List.any_eq_false.2 fun r m => by rw [free r m]; decide
  unfold State.configure
  dsimp only
  rw [unbound, base]
  rfl

/-- A list of registers with an empty one among them. -/
theorem Hart.empties_some {h : Hart} {rs : List Nat} (empty : ∃ r ∈ rs, cfgFull (h.v r).cfg = false) :
    (h.empties rs).isEmpty = false := by
  obtain ⟨r, m, e⟩ := empty
  rw [List.isEmpty_eq_false_iff_exists_mem]
  exact ⟨r, List.mem_filter.2 ⟨m, by rw [e]; rfl⟩⟩

theorem State.configure_waits {s : State} {d g : Nat} (c : BitVec 32) (base : d % g = 0)
    (free : ∀ r ∈ members d g, s.hart.isBound r = false) (own : s.hart.lane = none)
    (empty : ∃ r ∈ members d g, cfgFull (s.hart.v r).cfg = false) :
    ∃ w, s.configure false d g c = .next (s.setHart { s.hart with
      st := .waiting .fullEmpty, watch := w, taken := [], walked := [], limit := none }) ∧
      w.regs = s.hart.empties (members d g) := by
  refine ⟨{ Watch.none with regs := s.hart.empties (members d g) }, ?_, rfl⟩
  rw [s.configure_unbound c base free, Hart.empties_some empty, if_pos (by rfl), s.wait_own _ _ own]
  rfl

theorem State.configure_writes {s : State} {d : Reg} {k : Nat} (c : BitVec 32) (small : k ≤ 3) (base : d.toNat % 2 ^ k = 0)
    (ready : s.hart.usable d.toNat (2 ^ k)) :
    ∃ h', s.configure false d.toNat (2 ^ k) c = .next (s.setHart h') ∧
      h' = { s.hart with pc := s.hart.pc + 4, vregs := h'.vregs } ∧
      ∀ r < 32, h'.v r = if r ∈ members d.toNat (2 ^ k) then
        { s.hart.v r with cfg := (c &&& 0xFFF7FFFF) ||| ((s.hart.v r).cfg &&& 0x00080000) } else s.hart.v r := by
  obtain ⟨frame, words⟩ := recfg_spec (fun old => (c &&& 0xFFF7FFFF) ||| (old &&& 0x00080000)) (members d.toNat (2 ^ k)) s.hart
    (fun r m => by have := (mem_members _ _ _).1 m; have := group_end_le d small base; omega) (members_nodup _ _)
  refine ⟨Hart.advance _ 4, ?_, ?_, words⟩
  · rw [s.configure_unbound c base fun r m => (ready r m).1, empties_full _ _ fun r m => (ready r m).2]
    exact if_neg (by decide)
  · rw [frame]
    rfl

/-- What makes a configuration instruction act on the group of `g` registers at `d` with the word `c`. -/
theorem exec_configures {s : State} {d : Reg} {i : Instr} {g : Nat} {c : BitVec 32}
    (kind : (∃ (t : Reg) (fr : BitVec 6) (gc : BitVec 2), i = .vcfg d t fr gc ∧ cfgLegal t.toNat fr.toNat = true ∧
        g = 2 ^ gc.toNat ∧ c = BitVec.ofNat 32 (t.toNat + fr.toNat * 2 ^ 5 + gc.toNat * 2 ^ 11)) ∨
      (∃ w sl : BitVec 3, i = .vcfgw d w sl ∧ w.toNat ≤ 5 ∧ sl ≠ 1 ∧ sl ≠ 2 ∧ g = s.hart.grp d ∧
        c = ((s.hart.v d.toNat).cfg &&& 0xFFF81FFF) ||| BitVec.ofNat 32 (w.toNat * 2 ^ 13 + sl.toNat * 2 ^ 16)) ∨
      (∃ a : Reg, i = .vtag d a ∧ a.toNat % s.hart.grp a = 0 ∧ (∀ r ∈ members a.toNat (s.hart.grp a), s.hart.isBound r = false) ∧
        g = s.hart.grp a ∧ c = (s.hart.v a.toNat).cfg)) :
    exec i s = s.configure false d.toNat g c ∧ ∃ k ≤ 3, g = 2 ^ k := by
  have log (b : BitVec 2) : b.toNat ≤ 3 := Nat.le_of_lt_succ b.isLt
  rcases kind with ⟨t, fr, gc, rfl, legal, rfl, rfl⟩ | ⟨w, sl, rfl, width, one, two, rfl, rfl⟩ | ⟨a, rfl, base, free, rfl, rfl⟩
  · refine ⟨(rfl : _ = execVcfg d t fr gc s).trans ?_, gc.toNat, log gc, rfl⟩
    rw [execVcfg, legal]
    rfl
  · have refuses : (decide (6 ≤ w.toNat) || sl.toNat == 1 || sl.toNat == 2) = false := by
      simp only [Bool.or_eq_false_iff, decide_eq_false_iff_not, beq_eq_false_iff_ne]
      exact ⟨⟨by omega, fun e => one (BitVec.eq_of_toNat_eq e)⟩, fun e => two (BitVec.eq_of_toNat_eq e)⟩
    refine ⟨(rfl : _ = execVcfgw d w sl s).trans ?_, _, log _, rfl⟩
    rw [execVcfgw, refuses]
  · have unbound : (members a.toNat (s.hart.grp a)).any (fun r => s.hart.isBound r) = false :=
      List.any_eq_false.2 fun r m => by rw [free r m]; decide
    refine ⟨(rfl : _ = execVtag d a s).trans ?_, _, log _, rfl⟩
    rw [execVtag, base, unbound]
    rfl

/-! ### Configurations that no type has -/

theorem cfgLegal_false {t : Reg} {fr : BitVec 6}
    (bad : 26 < t.toNat ∨ (t = 9 ∧ 15 < fr.toNat) ∨ (t = 10 ∧ 31 < fr.toNat) ∨ (t ≠ 9 ∧ t ≠ 10 ∧ fr ≠ 0)) :
    cfgLegal t.toNat fr.toNat = false := by
  unfold cfgLegal
  rcases bad with beyond | ⟨rfl, big⟩ | ⟨rfl, big⟩ | ⟨nine, ten, some⟩
  · rw [decide_eq_false (by omega), Bool.false_and]
  · exact Bool.and_eq_false_iff.2 (.inr (decide_eq_false (Nat.not_le.2 big)))
  · exact Bool.and_eq_false_iff.2 (.inr (decide_eq_false (Nat.not_le.2 big)))
  · have noNine : t.toNat ≠ 9 := fun e => nine (BitVec.eq_of_toNat_eq e)
    have noTen : t.toNat ≠ 10 := fun e => ten (BitVec.eq_of_toNat_eq e)
    rw [if_neg noNine, if_neg noTen, show (fr.toNat == 0) = false from beq_eq_false_iff_ne.2 fun e =>
      some (BitVec.eq_of_toNat_eq e), Bool.and_false]

theorem execVcfg_illegal (s : State) (d : Reg) (gc : BitVec 2) {t : Reg} {fr : BitVec 6}
    (bad : cfgLegal t.toNat fr.toNat = false) : execVcfg d t fr gc s = s.illegal := by
  rw [execVcfg, bad]
  rfl

theorem execVcfgw_illegal (s : State) (d : Reg) {w sl : BitVec 3} (bad : 6 ≤ w.toNat ∨ sl = 1 ∨ sl = 2) :
    execVcfgw d w sl s = s.illegal := by
  have refuses : (decide (6 ≤ w.toNat) || sl.toNat == 1 || sl.toNat == 2) = true := by
    rcases bad with wide | rfl | rfl
    · simp [wide]
    · simp
    · simp
  rw [execVcfgw, refuses]
  rfl

theorem execVtag_illegal (s : State) (d : Reg) {a : Reg}
    (bad : a.toNat % s.hart.grp a ≠ 0 ∨ ∃ r ∈ members a.toNat (s.hart.grp a), s.hart.isBound r = true) :
    execVtag d a s = s.illegal := by
  have refuses : (a.toNat % s.hart.grp a != 0 || (members a.toNat (s.hart.grp a)).any fun r => s.hart.isBound r) = true := by
    rcases bad with odd | bound
    · simp [odd]
    · rw [List.any_eq_true.2 bound, Bool.or_true]
  rw [execVtag, refuses]
  rfl

/-! ### Empty operands of a vector instruction -/

/-- The operands that a list of register groups names hold no bound register. -/
def Hart.Unbound (h : Hart) (v : VSpec) : Prop :=
  (∀ x ∈ v.srcs, 0 < x.grp ∧ ∀ r ∈ members x.reg x.grp, h.isBound r = false) ∧
  (∀ d ∈ v.dsts, 0 < d.grp ∧ ∀ r ∈ members d.reg d.grp, h.isBound r = false)

theorem base_mem_members {r g : Nat} (some : 0 < g) : r ∈ members r g := (mem_members r g r).2 ⟨Nat.le_refl r, by omega⟩

theorem Hart.Unbound.src {h : Hart} {v : VSpec} (u : h.Unbound v) {x : Src} (m : x ∈ v.srcs) : h.isBound x.reg = false :=
  (u.1 x m).2 _ (base_mem_members (u.1 x m).1)

theorem Hart.Unbound.dst {h : Hart} {v : VSpec} (u : h.Unbound v) {x : Dst} (m : x ∈ v.dsts) : h.isBound x.reg = false :=
  (u.2 x m).2 _ (base_mem_members (u.2 x m).1)

/-- Nothing is misused where no operand is bound (R178, R306). -/
theorem Hart.Unbound.misuse {h : Hart} {v : VSpec} (u : h.Unbound v) (own : h.lane = none) : h.misuse v = false := by
  simp only [Hart.misuse, Bool.or_eq_false_iff, List.any_eq_false, Bool.or_eq_true, List.any_eq_true, Bool.and_eq_true, not_or,
    not_exists, not_and, isXq_own _ _ own]
  refine ⟨fun x m => ⟨fun q mq => ?_, fun read => ?_⟩, fun d m => ⟨fun q mq => ?_, fun write => ?_⟩⟩
  · rw [u.src m] at mq
    simp [Hart.writeBound, (u.1 x m).2 q mq]
  · simp [Hart.readBound, u.src m] at read
  · rw [u.dst m] at mq
    simp [Hart.readBound, (u.2 d m).2 q mq]
  · simp [Hart.writeBound, u.dst m] at write

/-- The sources of which a member is empty, and the empty members of the destinations (R49). -/
def Hart.emptySrcs (h : Hart) (v : VSpec) : List Src := v.srcs.filter fun x => !(h.empties (members x.reg x.grp)).isEmpty
def Hart.emptyDsts (h : Hart) (v : VSpec) : List Nat := v.dsts.flatMap fun d => h.empties (members d.reg d.grp)

theorem Hart.emptySrcs_some {h : Hart} {v : VSpec} {x : Src} (only : v.srcs = [x])
    (empty : ∃ r ∈ members x.reg x.grp, cfgFull (h.v r).cfg = false) : h.emptySrcs v = [x] := by
  rw [Hart.emptySrcs, only, List.filter_cons_of_pos (by rw [Hart.empties_some empty]; rfl), List.filter_nil]

theorem Hart.emptySrcs_none {h : Hart} {v : VSpec} {x : Src} (only : v.srcs = [x])
    (full : ∀ r ∈ members x.reg x.grp, cfgFull (h.v r).cfg = true) : h.emptySrcs v = [] := by
  rw [Hart.emptySrcs, only, List.filter_cons_of_neg (by rw [empties_full _ _ full]; decide), List.filter_nil]

theorem Hart.emptyDsts_one {h : Hart} {v : VSpec} {x : Dst} (only : v.dsts = [x]) :
    h.emptyDsts v = h.empties (members x.reg x.grp) := by
  rw [Hart.emptyDsts, only, List.flatMap_singleton]

section Frame
variable {s : State} {v : VSpec} (body : State → Res) (ill : v.ill = false) (tile : v.tile = none) (mism : v.mism = false)
  (own : s.hart.lane = none) (u : s.hart.Unbound v)
include ill tile mism own u

/-- An instruction that passes its checks with no operand bound and one found empty: a fault where an empty source's trap
bit is set, else a wait for what is empty (R49, log entry 99). -/
theorem vector_empties (empty : (!(s.hart.emptySrcs v).isEmpty || !(s.hart.emptyDsts v).isEmpty) = true) :
    s.vector v body = if (s.hart.emptySrcs v).any (fun x => x.trap) then s.fault cEmpty 0
      else s.wait .fullEmpty { Watch.none with
        regs := (s.hart.emptySrcs v).flatMap (fun x => s.hart.empties (members x.reg x.grp)) ++ s.hart.emptyDsts v } := by
  have notRead : ∀ x ∈ v.srcs, s.hart.readBound x.reg = false := fun x m => by rw [Hart.readBound, u.src m]; rfl
  have notWritten : ∀ x ∈ v.dsts, s.hart.writeBound x.reg = false := fun x m => by rw [Hart.writeBound, u.dst m]; rfl
  have walks : (v.srcs.map fun x => x.reg).any (fun r => s.hart.readBound r && walkMismatch s.hart r) = false := by
    simp only [List.any_map, List.any_eq_false]
    intro x m
    simp [notRead x m]
  have srcs : v.srcs.filter (fun x => !s.hart.readBound x.reg && !s.hart.isXq x.reg &&
      !(s.hart.empties (members x.reg x.grp)).isEmpty) = s.hart.emptySrcs v := by
    refine List.filter_congr fun x m => ?_
    simp only [notRead x m, isXq_own _ _ own, Bool.not_false, Bool.true_and]
  have dsts : v.dsts.flatMap (fun d => if s.hart.isXq d.reg || s.hart.isBound d.reg then []
      else s.hart.empties (members d.reg d.grp)) = s.hart.emptyDsts v := by
    refine List.flatMap_congr fun x m => ?_
    simp only [u.dst m, isXq_own _ _ own, Bool.or_self, Bool.false_eq_true, if_false]
  have noReads : v.srcs.filter (fun x => s.hart.readBound x.reg) = [] := by
    simp only [List.filter_eq_nil_iff]
    intro x m
    simp [notRead x m]
  unfold State.vector
  simp only [ill, tile, mism, u.misuse own, walks, srcs, dsts, noReads, boundNeeds, State.takings, State.unready, own, empty,
    List.map_nil, List.eraseDups_nil, List.any_nil, List.filter_nil, Bool.or_false, Bool.false_or, Bool.false_eq_true, if_false,
    and_true, if_true]
  rw [if_neg]
  rw [List.any_eq_true]
  rintro ⟨x, m, wrong⟩
  simp [notWritten x m] at wrong

end Frame

/-! ### `vmov` -/

theorem execVmov_frame (d a : Reg) (k : BitVec 3) (w : BitVec 1) (s : State) :
    ∃ body, execVmov d a k w s = s.vector (s.hart.eSpec .mov d a .none k (bit1 w)) body := by
  unfold execVmov State.elementwise
  exact ⟨_, rfl⟩

theorem eSpec_mov_dsts (h : Hart) (d a : Reg) (k : BitVec 3) (w : Bool) : (h.eSpec .mov d a .none k w).dsts =
    [{ reg := d.toNat, grp := h.grp a, cfg := some (h.ty a, h.grp a), len := h.vl }] := rfl

section
variable {s : State} {d a : Reg} (k : BitVec 3) (w : BitVec 1) (plain : s.hart.Plain) (tagged : (s.hart.ty a).cls ≠ .untagged)
  (srcOk : s.hart.opOk a s.hart.vl = true) (dstOk : s.hart.resOk d (s.hart.ty a) (s.hart.grp a) s.hart.vl = true)
  (free : ∀ r ∈ members a.toNat (s.hart.grp a) ++ members d.toNat (s.hart.grp a), s.hart.isBound r = false)

include plain srcOk dstOk in
theorem eSpec_mov_legal : (s.hart.eSpec .mov d a .none k (bit1 w)).ill = false := by
  have reach : s.hart.reach = s.hart.vl := by rw [Hart.reach, plain.own]
  show (!s.hart.opOk a s.hart.reach || !s.hart.resOk d (s.hart.ty a) (s.hart.grp a) s.hart.reach || false || false) = false
  rw [reach, srcOk, dstOk]
  rfl

include tagged in
theorem eSpec_mov_matching : (s.hart.eSpec .mov d a .none k (bit1 w)).mism = false := by
  have accepts : EOp.mov.accepts (s.hart.ty a).cls = true := by
    revert tagged
    cases (s.hart.ty a).cls <;> simp [EOp.accepts]
  show (!EOp.mov.accepts (s.hart.ty a).cls || !true || false) = false
  rw [accepts]
  rfl

include free in
theorem eSpec_mov_unbound : s.hart.Unbound (s.hart.eSpec .mov d a .none k (bit1 w)) := by
  constructor
  · intro x m
    obtain rfl := List.mem_singleton.1 m
    exact ⟨cfgGrp_pos _, fun r mr => free r (List.mem_append_left _ mr)⟩
  · intro x m
    obtain rfl := List.mem_singleton.1 m
    exact ⟨cfgGrp_pos _, fun r mr => free r (List.mem_append_right _ mr)⟩

/-- What a `vmov` waits for that finds its source empty, its destination, or both. -/
def Hart.movEmpties (h : Hart) (d a : Reg) : Watch :=
  { Watch.none with regs := h.empties (members a.toNat (h.grp a)) ++ h.empties (members d.toNat (h.grp a)) }

include plain tagged srcOk dstOk free in
/-- With a member of va empty: a fault where the trap bit is set, else a wait. -/
theorem vmov_empty_source (empty : ∃ r ∈ members a.toNat (s.hart.grp a), cfgFull (s.hart.v r).cfg = false) :
    exec (.vmov d a k w) s =
      if bit1 w = true then s.fault cEmpty 0 else s.wait .fullEmpty (s.hart.movEmpties d a) := by
  obtain ⟨body, frame⟩ := execVmov_frame d a k w s
  have stops := vector_empties body (eSpec_mov_legal k w plain srcOk dstOk) rfl (eSpec_mov_matching k w tagged) plain.own
    (eSpec_mov_unbound k w free)
  rw [Hart.emptySrcs_some (v := s.hart.eSpec .mov d a .none k (bit1 w)) rfl empty,
    Hart.emptyDsts_one (eSpec_mov_dsts s.hart d a k (bit1 w)), List.flatMap_singleton, List.any_cons, List.any_nil,
    Bool.or_false] at stops
  exact (rfl : _ = execVmov d a k w s).trans (frame.trans (stops rfl))

include plain tagged srcOk dstOk free in
/-- With va full and a member of vd empty: a wait. -/
theorem vmov_empty_destination (full : ∀ r ∈ members a.toNat (s.hart.grp a), cfgFull (s.hart.v r).cfg = true)
    (empty : ∃ r ∈ members d.toNat (s.hart.grp a), cfgFull (s.hart.v r).cfg = false) :
    exec (.vmov d a k w) s = s.wait .fullEmpty (s.hart.movEmpties d a) := by
  obtain ⟨body, frame⟩ := execVmov_frame d a k w s
  have stops := vector_empties body (eSpec_mov_legal k w plain srcOk dstOk) rfl (eSpec_mov_matching k w tagged) plain.own
    (eSpec_mov_unbound k w free)
  have dsts := Hart.emptyDsts_one (h := s.hart) (eSpec_mov_dsts s.hart d a k (bit1 w))
  rw [Hart.emptySrcs_none (v := s.hart.eSpec .mov d a .none k (bit1 w)) rfl full, dsts, Hart.empties_some empty] at stops
  refine (rfl : _ = execVmov d a k w s).trans (frame.trans ((stops rfl).trans ?_))
  rw [Hart.movEmpties, empties_full _ _ full]
  rfl

end

/-- A wait of a hart that executes a whole instruction changes its state and what it watches only. -/
theorem State.wait_plain {s : State} (c : WaitCause) (w : Watch) (plain : s.hart.Plain) :
    s.wait c w = .next (s.setHart { s.hart with st := .waiting c, watch := w }) := by
  rw [s.wait_own _ _ plain.own, State.upd, ← plain.untaken, ← plain.unwalked, ← plain.unlimited]
  rfl

/-- Settles O22: the three instructions are one operation on a group, and an empty operand stops an instruction in the frame. -/
theorem configurationAndEmpty : Obligations.ConfigurationAndEmpty := by
  refine ⟨?_, fun s d t a fr gc w sl => ⟨fun bad => ?_, fun bad => ?_, fun bad => ?_⟩, ?_⟩
  · intro s d i g c h kind
    obtain ⟨run, k, small, rfl⟩ := exec_configures kind
    rw [run]
    exact ⟨s.configure_illegal c, fun base unbound own empty => s.configure_waits c base unbound own empty,
      fun base ready => s.configure_writes c small base ready⟩
  · exact execVcfg_illegal s d gc (cfgLegal_false bad)
  · exact execVcfgw_illegal s d bad
  · exact execVtag_illegal s d bad
  · intro s d a k w h t g plain tagged srcOk dstOk free
    refine ⟨fun empty trap => ?_, fun empty => ⟨h.movEmpties d a, ?_, rfl⟩⟩
    · exact (vmov_empty_source k w plain tagged srcOk dstOk free empty).trans (if_pos (by rw [trap]; rfl))
    · refine Eq.trans ?_ (State.wait_plain .fullEmpty (h.movEmpties d a) plain)
      rcases empty with ⟨empty, rfl⟩ | ⟨full, empty⟩
      · exact (vmov_empty_source k 0 plain tagged srcOk dstOk free empty).trans (if_neg (by decide))
      · exact vmov_empty_destination k w plain tagged srcOk dstOk free full empty

end Sys2Proof.Machine
end

section
/-! Elementwise vector instructions (R56, R97, R120 to R123, R130 to R136), and the obligation O23. -/

namespace Sys2Proof.Machine

/-- What an elementwise instruction's operands have to meet (R119, R123, R130, R131), all of them full and unbound. -/
structure Hart.Elementwise (h : Hart) (op : EOp) (d a : Reg) (b : Second) : Prop where
  srcOk : h.opOk a h.vl = true
  dstOk : h.resOk d (op.result (h.v a.toNat).cfg).1 (op.result (h.v a.toNat).cfg).2.1 h.vl = true
  narrow : op.tooWide (h.v a.toNat).cfg = false
  widens : (op.result (h.v a.toNat).cfg).2.2 = true
  accepts : op.accepts (h.ty a).cls = true
  adds : op = .fma → sameCfg (h.v d.toNat).cfg (mkCfg (op.result (h.v a.toNat).cfg).1 (op.result (h.v a.toNat).cfg).2.1) = true
  second : ∀ y z, b = .vec y z → h.opOk y h.vl = true ∧ (h.ty y).cls ≠ .untagged ∧
    op.pairs (h.v a.toNat).cfg (h.v y.toNat).cfg = true ∧ h.usable y.toNat (h.grp y)
  usableA : h.usable a.toNat (h.grp a)
  usableD : h.usable d.toNat (op.result (h.v a.toNat).cfg).2.1

namespace Hart.Elementwise

variable {h : Hart} {op : EOp} {d a : Reg} {b : Second}

theorem sized (ops : h.Elementwise op d a b) : (cfgTy (h.v a.toNat).cfg).w ≠ 0 := by
  refine tagWidth_ne _ fun untagged => ?_
  have accepts := ops.accepts
  rw [show (h.ty a).cls = .untagged from untagged] at accepts
  cases op <;> exact absurd accepts (by decide)

theorem group_pos (ops : h.Elementwise op d a b) : 0 < (op.result (h.v a.toNat).cfg).2.1 := result_grp op _ ops.sized

theorem unbound (ops : h.Elementwise op d a b) : h.isBound d.toNat = false := isBound_base _ _ _ ops.group_pos ops.usableD

/-- They pass check 2 of R40. -/
theorem legal (ops : h.Elementwise op d a b) (own : h.lane = none) (k : BitVec 3) (w : Bool) :
    (h.eSpec op d a b k w).ill = false := by
  have reach : h.reach = h.vl := by rw [Hart.reach, own]
  have first : (!h.opOk a h.reach || !h.resOk d (op.result (h.v a.toNat).cfg).1 (op.result (h.v a.toNat).cfg).2.1 h.reach ||
      op.tooWide (h.v a.toNat).cfg || (op == .fma && h.isBound d.toNat)) = false := by
    rw [reach, ops.srcOk, ops.dstOk, ops.narrow, ops.unbound, Bool.and_false]
    rfl
  cases b with
  | vec r x =>
    refine (congrArg (· || !h.opOk r h.reach) first).trans ?_
    rw [reach, (ops.second r x rfl).1]
    rfl
  | scal r => exact first
  | none => exact first

/-- They pass check 4 of R40. -/
theorem matching (ops : h.Elementwise op d a b) (k : BitVec 3) (w : Bool) : (h.eSpec op d a b k w).mism = false := by
  have adds : (op == .fma && !h.isXq d.toNat &&
      !sameCfg (h.v d.toNat).cfg (mkCfg (op.result (h.v a.toNat).cfg).1 (op.result (h.v a.toNat).cfg).2.1)) = false := by
    by_cases fma : op = .fma
    · rw [ops.adds fma, Bool.not_true, Bool.and_false]
    · rw [beq_eq_false_iff_ne.2 fma, Bool.false_and, Bool.false_and]
  have first : (!op.accepts (h.ty a).cls || !(op.result (h.v a.toNat).cfg).2.2 || (op == .fma && !h.isXq d.toNat &&
      !sameCfg (h.v d.toNat).cfg (mkCfg (op.result (h.v a.toNat).cfg).1 (op.result (h.v a.toNat).cfg).2.1))) = false := by
    rw [ops.accepts, ops.widens, adds]
    rfl
  cases b with
  | vec r x =>
    obtain ⟨-, tagged, pairs, -⟩ := ops.second r x rfl
    refine (congrArg (fun m => m || (h.ty r).cls == .untagged || !op.pairs (h.v a.toNat).cfg (h.v r.toNat).cfg) first).trans ?_
    rw [beq_eq_false_iff_ne.2 tagged, pairs]
    rfl
  | scal r => exact first
  | none => exact first

theorem srcs (ops : h.Elementwise op d a b) (k : BitVec 3) (w : Bool) :
    ∀ x ∈ (h.eSpec op d a b k w).srcs, 0 < x.grp ∧ h.usable x.reg x.grp := by
  have old : ∀ x ∈ (if op = .fma then [({ reg := d.toNat, grp := (op.result (h.v a.toNat).cfg).2.1, trap := false, need := 0 } : Src)]
      else []), 0 < x.grp ∧ h.usable x.reg x.grp := by
    intro x m
    split at m
    · obtain rfl := List.mem_singleton.1 m
      exact ⟨ops.group_pos, ops.usableD⟩
    · cases m
  intro x m
  cases b with
  | vec r t =>
    rcases List.mem_cons.1 m with rfl | m
    · exact ⟨cfgGrp_pos _, ops.usableA⟩
    · rcases List.mem_cons.1 m with rfl | m
      · exact ⟨cfgGrp_pos _, (ops.second r t rfl).2.2.2⟩
      · exact old x m
  | scal r =>
    rcases List.mem_cons.1 m with rfl | m
    · exact ⟨cfgGrp_pos _, ops.usableA⟩
    · exact old x m
  | none =>
    rcases List.mem_cons.1 m with rfl | m
    · exact ⟨cfgGrp_pos _, ops.usableA⟩
    · exact old x m

theorem dsts (ops : h.Elementwise op d a b) (k : BitVec 3) (w : Bool) :
    ∀ x ∈ (h.eSpec op d a b k w).dsts, 0 < x.grp ∧ h.usable x.reg x.grp := by
  intro x m
  have only : x = { reg := d.toNat, grp := (op.result (h.v a.toNat).cfg).2.1
                    cfg := some ((op.result (h.v a.toNat).cfg).1, (op.result (h.v a.toNat).cfg).2.1), len := h.vl } := by
    cases b <;> exact List.mem_singleton.1 m
  subst only
  exact ⟨ops.group_pos, ops.usableD⟩

end Hart.Elementwise

/-! ### Nothing to do -/

theorem Hart.spendDraws_idle {h : Hart} (own : h.lane = none) (idle : h.vl = 0) : h.spendDraws = h := by
  have stays : h.ridx + BitVec.ofNat 32 h.vl = h.ridx := by rw [idle]; exact BitVec.add_zero _
  rw [spendDraws_own h own, stays, ite_self]

theorem State.putResults_idle {s : State} (d : Reg) (g : Nat) (t : Ty) (c : Option (BitVec 32)) (l : List (Nat × Nat × Nat))
    (own : s.hart.lane = none) (idle : s.hart.vl = 0) : s.putResults d g t c l = s := by
  unfold State.putResults
  exact if_pos (by rw [Hart.reach, own]; exact idle)

/-- At VL = 0 only the PC moves (R56). -/
theorem elementwise_idle {s : State} {op : EOp} {d a : Reg} {b : Second} (k : BitVec 3) (w : Bool) (plain : s.hart.Plain)
    (ops : s.hart.Elementwise op d a b) (idle : s.hart.vl = 0) :
    s.elementwise op d a b k w = .next (s.atPc (s.hart.pc + 4)) := by
  unfold State.elementwise
  refine vector_done s _ _ (s.hart.advance 4) plain (ops.legal plain.own k w) ?_ (ops.matching k w) (ops.srcs k w) (ops.dsts k w)
    ?_ rfl rfl rfl rfl rfl
  · cases b <;> rfl
  · dsimp only
    rw [State.putResults_idle _ _ _ _ _ plain.own idle, Hart.spendDraws_idle plain.own idle, ite_self]
    rfl

/-! ### The instructions -/

/-- RMODE asks for stochastic rounding (R96). -/
theorem rsr_iff (m : BitVec 3) : (m.toNat == RSR) = (m == 4) := by
  rw [Bool.eq_iff_iff, beq_iff_eq, beq_iff_eq, ← BitVec.toNat_inj]
  rfl

/-- The second operand of an elementwise instruction on whole registers (R122). -/
theorem second_plain {h : Hart} (plain : h.Plain) (op : EOp) (w : Nat) (b : Second) (e : Nat) :
    h.second op w b e = h.operand2 op w b e := by
  cases b with
  | vec r x => exact congrFun (elems_plain h plain r) e
  | scal r =>
    unfold Hart.second Hart.operand2
    dsimp only
    split <;> rfl
  | none => rfl

theorem exec_elementwise {s : State} {op : EOp} {i : Instr} {d a r : Reg} {b : Second} {k : BitVec 3} {w x : BitVec 1}
    (named : let v : Second := .vec r (bit1 x)
      let c : Second := .scal r
      (op, b, i) ∈ [(EOp.add, v, Instr.vadd d a r k w x), (.sub, v, .vsub d a r k w x), (.mul, v, .vmul d a r k w x),
        (.fma, v, .vfma d a r k w x), (.min, v, .vmin d a r k w x), (.max, v, .vmax d a r k w x), (.and, v, .vand d a r k w x),
        (.or, v, .vor d a r k w x), (.xor, v, .vxor d a r k w x), (.shl, v, .vshl d a r k w x), (.shr, v, .vshr d a r k w x),
        (.sel, v, .vsel d a r k w x), (.add, c, .vadds d a r k w), (.sub, c, .vsubs d a r k w), (.mul, c, .vmuls d a r k w),
        (.fma, c, .vfmas d a r k w), (.min, c, .vmins d a r k w), (.max, c, .vmaxs d a r k w), (.and, c, .vands d a r k w),
        (.or, c, .vors d a r k w), (.xor, c, .vxors d a r k w), (.shl, c, .vshls d a r k w), (.shr, c, .vshrs d a r k w),
        (.sel, c, .vsels d a r k w), (.abs, .none, .vabs d a k w), (.neg, .none, .vneg d a k w), (.mov, .none, .vmov d a k w)]) :
    exec i s = s.elementwise op d a b k (bit1 w) := by
  refine List.forall_mem_cons (p := fun p : EOp × Second × Instr => exec p.2.2 s = s.elementwise p.1 d a p.2.1 k (bit1 w))
    |>.2 ⟨rfl, ?_⟩ _ named
  repeat refine List.forall_mem_cons.2 ⟨rfl, ?_⟩
  exact List.forall_mem_nil _

/-- Settles O23: the operands pass the frame's checks, and the instruction runs over the active elements. -/
theorem elementwiseResults : Obligations.ElementwiseResults := by
  intro s op i d a r b k w x v c named h ca t rt rg plain srcOk dstOk narrow widens accepts adds second usableA usableD draws act f
  have ops : h.Elementwise op d a b := ⟨srcOk, dstOk, narrow, widens, accepts, adds, second, usableA, usableD⟩
  rw [exec_elementwise named]
  refine ⟨fun idle => elementwise_idle k _ plain ops idle, fun busy => ?_⟩
  obtain ⟨h', run, frame, written⟩ := elementwise_plain s op d a b k (bit1 w) plain busy (ops.legal plain.own k _)
    (ops.matching k _) usableA (fun y z e => (second y z e).2.2.2) usableD
  have operand : s.hart.second op (cfgTy (s.hart.v a.toNat).cfg).w b = s.hart.operand2 op (cfgTy (s.hart.v a.toNat).cfg).w b :=
    funext (second_plain plain op _ b)
  rw [operand, rsr_iff] at frame
  rw [operand] at written
  have flags := congrArg Hart.flags frame
  have ridx := congrArg Hart.ridx frame
  refine ⟨h', run, ?_, flags, ridx, written⟩
  rw [flags, ridx]
  exact frame

end Sys2Proof.Machine
end

section
/-! The rotations (R105 to R115, R150 to R158), and the obligation O29. -/

namespace Sys2Proof.Machine

/-- 2^33, which no element of tag 12 holds, enters as 2^44: entry subtracts 2^44 once where the sign bit is set. -/
theorem enterAngle_beyond : enterAngle .circular (cfgTy 12) (2 ^ 33) = (2 ^ 44, 0) := by decide

/-- Refutes O29: its clause on an angle of tag 12 says the entry of every natural number `Z`, also of those that no element of 32
bits is; at Z = 2^33 the model's entry is 2^44, and the number stated is 0. -/
theorem not_rotations : ¬ Obligations.Rotations := by
  intro holds
  obtain ⟨-, -, -, element⟩ := holds
  obtain ⟨-, -, -, -, turns, -, -⟩ := element .circular false false 0 0 0 (2 ^ 33) 0 12
  have entry := (turns (by decide)).1
  rw [enterAngle_beyond] at entry
  exact absurd (congrArg Prod.fst entry) (by decide)

end Sys2Proof.Machine
end

section
/-! Tiles and outer products (R215, R222, R223): the rows written, the flags gathered, and the instructions on registers. -/

namespace Sys2Proof.Machine

/-! ### Packed lists -/

theorem packNat_lt (w : Nat) (l : List Nat) : packNat w l < 2 ^ (w * l.length) := by
  induction l with
  | nil => exact Nat.one_pos
  | cons x l ih =>
    have low : x % 2 ^ w < 2 ^ w := Nat.mod_lt _ (Nat.two_pow_pos w)
    have high : 2 ^ w * (packNat w l + 1) ≤ 2 ^ w * 2 ^ (w * l.length) := Nat.mul_le_mul_left _ ih
    rw [packNat, List.length_cons, Nat.mul_succ, Nat.add_comm (w * l.length), Nat.pow_add]
    rw [Nat.mul_add, Nat.mul_one] at high
    omega

theorem elemAt_succ (raw w e : Nat) : elemAt raw w (e + 1) = elemAt (raw / 2 ^ w) w e := by
  rw [elemAt, elemAt, Nat.div_div_eq_div_mul, ← Nat.pow_add, Nat.mul_succ, Nat.add_comm]

/-- An element of a list packed below other bits. -/
theorem elemAt_packNat (w q : Nat) (l : List Nat) {e : Nat} (lt : e < l.length) :
    elemAt (packNat w l + q * 2 ^ (w * l.length)) w e = l[e] % 2 ^ w := by
  induction l generalizing e with
  | nil => cases lt
  | cons x l ih =>
    have split : packNat w (x :: l) + q * 2 ^ (w * (x :: l).length) =
        x % 2 ^ w + 2 ^ w * (packNat w l + q * 2 ^ (w * l.length)) := by
      rw [packNat, List.length_cons, Nat.mul_succ, Nat.pow_add]
      ring
    rw [split]
    cases e with
    | zero => simp [elemAt]
    | succ e =>
      rw [elemAt_succ, Nat.add_mul_div_left _ _ (Nat.two_pow_pos w), Nat.div_eq_of_lt (Nat.mod_lt _ (Nat.two_pow_pos w)),
        Nat.zero_add, ih (Nat.lt_of_succ_lt_succ lt)]
      rfl

/-- An element above a list packed in the place of the lowest ones. -/
theorem elemAt_packNat_above (w raw : Nat) (l : List Nat) {e : Nat} (above : l.length ≤ e) :
    elemAt (packNat w l + raw / 2 ^ (w * l.length) * 2 ^ (w * l.length)) w e = elemAt raw w e := by
  have parts : w * e = w * l.length + w * (e - l.length) := by rw [← Nat.mul_add, Nat.add_sub_cancel' above]
  have quotient : (packNat w l + raw / 2 ^ (w * l.length) * 2 ^ (w * l.length)) / 2 ^ (w * l.length) = raw / 2 ^ (w * l.length) := by
    rw [Nat.add_mul_div_right _ _ (Nat.two_pow_pos _), Nat.div_eq_of_lt (packNat_lt w l), Nat.zero_add]
  rw [elemAt, elemAt, parts, Nat.pow_add, ← Nat.div_div_eq_div_mul, ← Nat.div_div_eq_div_mul, quotient]

/-- An element within the bits that hold a number. -/
theorem elemAt_ofNat {raw w e n : Nat} (within : w * (e + 1) ≤ n) : elemAt (BitVec.ofNat n raw).toNat w e = elemAt raw w e := by
  rw [BitVec.toNat_ofNat]
  refine Nat.eq_of_testBit_eq fun i => ?_
  rw [elemAt_testBit, elemAt_testBit, Nat.testBit_mod_two_pow]
  by_cases lt : i < w
  · have inside : w * e + i < n := by rw [Nat.mul_succ] at within; omega
    rw [decide_eq_true inside, Bool.true_and]
  · rw [decide_eq_false lt, Bool.false_and, Bool.false_and]

/-! ### Rows of a tile -/

/-- Rows 0 to `R − 1` replaced (R215). -/
theorem Tile.withRows_rows (x : Tile) (R : Nat) (val : Nat → Nat → Nat) :
    TileRows x (x.withRows ((List.range (64 * R)).map fun k => val (k / 64) (k % 64))) R val := by
  refine ⟨rfl, fun i hi j hj => ?_⟩
  unfold Tile.at Tile.withRows
  dsimp only
  rw [elemAt_ofNat (by omega)]
  split
  · rename_i low
    have place : 64 * i + j < ((List.range (64 * R)).map fun k => val (k / 64) (k % 64)).length := by
      rw [List.length_map, List.length_range]
      omega
    rw [elemAt_packNat 32 _ _ place, List.getElem_map, List.getElem_range, Nat.mul_add_div (by decide), Nat.mul_add_mod,
      Nat.div_eq_of_lt hj, Nat.mod_eq_of_lt hj, Nat.add_zero]
  · refine elemAt_packNat_above 32 _ _ ?_
    rw [List.length_map, List.length_range]
    omega

theorem TileRows.congr {x y : Tile} {R : Nat} {f g : Nat → Nat → Nat} (k : TileRows x y R f) (same : ∀ i j, f i j = g i j) :
    TileRows x y R g := by
  obtain rfl : f = g := funext fun i => funext (same i)
  exact k

/-- No tile named is disabled. -/
theorem Hart.disabledTile_none {h : Hart} {ts : List Nat} (enabled : ∀ t ∈ ts, (h.tile t).enabled = true) :
    h.disabledTile ts = none := by
  unfold Hart.disabledTile
  rw [Option.map_eq_none_iff, List.find?_eq_none]
  intro t _
  rw [Bool.and_eq_true, List.contains_iff_mem, Bool.not_eq_true']
  exact fun both => Bool.false_ne_true (both.2.symm.trans (enabled t both.1))

/-! ### Flags of many results -/

theorem testBit_orAll (l : List Nat) (b : Nat) : (orAll l).testBit b = l.any fun x => x.testBit b := by
  induction l using List.reverseRecOn with
  | nil => exact Nat.zero_testBit b
  | append_singleton l x ih => rw [orAll_append, orAll_singleton, Nat.testBit_or, ih, List.any_append, List.any_cons, List.any_nil,
      Bool.or_false]

/-- The flags of a product of two lists, listed row by row. -/
def crossFlags (rows : Nat) (chosen : Nat → Nat → Bool) (f : Nat → Nat → Nat) : Nat :=
  orAll ((List.range rows).flatMap fun i => ((List.range 64).filter (chosen i)).map (f i))

theorem testBit_crossFlags (rows : Nat) (chosen : Nat → Nat → Bool) (f : Nat → Nat → Nat) (b : Nat) :
    (crossFlags rows chosen f).testBit b = true ↔ ∃ i < rows, ∃ j < 64, chosen i j = true ∧ (f i j).testBit b = true := by
  rw [crossFlags, testBit_orAll]
  simp only [List.any_eq_true, List.mem_flatMap, List.mem_map, List.mem_filter, List.mem_range]
  constructor
  · rintro ⟨_, ⟨i, hi, j, ⟨hj, c⟩, rfl⟩, set⟩
    exact ⟨i, hi, j, hj, c, set⟩
  · rintro ⟨i, hi, j, hj, c, set⟩
    exact ⟨_, ⟨i, hi, j, ⟨hj, c⟩, rfl⟩, set⟩

/-- The same listed by one index, with nothing for what is not chosen. -/
theorem orAll_cross (rows : Nat) (chosen : Nat → Nat → Bool) (f : Nat → Nat → Nat) :
    orAll ((List.range (64 * rows)).map fun x => if chosen (x / 64) (x % 64) then f (x / 64) (x % 64) else 0) =
      crossFlags rows chosen f := by
  refine Nat.eq_of_testBit_eq fun b => Bool.eq_iff_iff.2 ?_
  rw [testBit_crossFlags, testBit_orAll]
  simp only [List.any_eq_true, List.mem_map, List.mem_range]
  constructor
  · rintro ⟨_, ⟨x, hx, rfl⟩, set⟩
    split at set
    · rename_i c
      exact ⟨x / 64, by omega, x % 64, by omega, c, set⟩
    · rw [Nat.zero_testBit] at set
      cases set
  · rintro ⟨i, hi, j, hj, c, set⟩
    refine ⟨_, ⟨64 * i + j, by omega, rfl⟩, ?_⟩
    rw [Nat.mul_add_div (by decide), Nat.mul_add_mod, Nat.div_eq_of_lt hj, Nat.mod_eq_of_lt hj, Nat.add_zero, if_pos c]
    exact set

theorem crossFlags_or (rows : Nat) (chosen : Nat → Nat → Bool) (f g : Nat → Nat → Nat) :
    crossFlags rows chosen (fun i j => f i j ||| g i j) = crossFlags rows chosen f ||| crossFlags rows chosen g := by
  refine Nat.eq_of_testBit_eq fun b => Bool.eq_iff_iff.2 ?_
  rw [Nat.testBit_or, Bool.or_eq_true, testBit_crossFlags, testBit_crossFlags, testBit_crossFlags]
  simp only [Nat.testBit_or, Bool.or_eq_true]
  constructor
  · rintro ⟨i, hi, j, hj, c, set | set⟩
    · exact .inl ⟨i, hi, j, hj, c, set⟩
    · exact .inr ⟨i, hi, j, hj, c, set⟩
  · rintro (⟨i, hi, j, hj, c, set⟩ | ⟨i, hi, j, hj, c, set⟩)
    · exact ⟨i, hi, j, hj, c, .inl set⟩
    · exact ⟨i, hi, j, hj, c, .inr set⟩

/-- One flag, set where some chosen element has it. -/
theorem crossFlags_flag (rows : Nat) (chosen has : Nat → Nat → Bool) (flag : Nat) {any : Bool}
    (some : any = true ↔ ∃ i < rows, ∃ j < 64, chosen i j = true ∧ has i j = true) :
    crossFlags rows chosen (fun i j => if has i j then flag else 0) = flagIf any flag := by
  refine Nat.eq_of_testBit_eq fun b => Bool.eq_iff_iff.2 ?_
  rw [testBit_crossFlags]
  constructor
  · rintro ⟨i, hi, j, hj, c, set⟩
    split at set
    · rename_i h
      rw [some.2 ⟨i, hi, j, hj, c, h⟩]
      exact set
    · rw [Nat.zero_testBit] at set
      cases set
  · intro set
    cases any with
    | false => rw [flagIf, if_neg (by decide), Nat.zero_testBit] at set; cases set
    | true =>
      obtain ⟨i, hi, j, hj, c, h⟩ := some.1 rfl
      exact ⟨i, hi, j, hj, c, by rw [if_pos h]; exact set⟩

/-! ### The outer product -/

/-- The exact sum for one element (R223), its rounding, and its flags. -/
def outerSum (f : FFmt) (d : Nat) (old : Nat → Nat → Nat) (va vb : Nat → FVal) (i j : Nat) : FVal × Bool :=
  dotInto (fun k => va (i * d + k)) (fun k => vb (j * d + k)) d 0 (f.decode (old i j))
def outerFit (f : FFmt) (d : Nat) (old : Nat → Nat → Nat) (va vb : Nat → FVal) (i j : Nat) : Nat × Nat :=
  f.fit RNE 0 (outerSum f d old va vb i j).1
def outerFlags (f : FFmt) (d : Nat) (old : Nat → Nat → Nat) (va vb : Nat → FVal) (i j : Nat) : Nat :=
  (outerFit f d old va vb i j).2 |||
    if (outerSum f d old va vb i j).2 || (f.decode (old i j)).isSnan then fINVALID else 0

section
variable (f : FFmt) (d R : Nat) (old : Nat → Nat → Nat) (va vb : Nat → FVal) (rm cm : Nat → Bool)

theorem outer_eq : outer f d R old va vb rm cm = (List.range (64 * R)).map fun x =>
    (if rm (x / 64) && cm (x % 64) then (outerFit f d old va vb (x / 64) (x % 64)).1 else old (x / 64) (x % 64),
      if rm (x / 64) && cm (x % 64) then outerFlags f d old va vb (x / 64) (x % 64) else 0) := by
  unfold outer
  refine List.map_congr_left fun x _ => ?_
  dsimp only
  split <;> rfl

theorem outer_values : (outer f d R old va vb rm cm).map (fun p => p.1) = (List.range (64 * R)).map fun x =>
    if rm (x / 64) && cm (x % 64) then (outerFit f d old va vb (x / 64) (x % 64)).1 else old (x / 64) (x % 64) := by
  rw [outer_eq, List.map_map]
  rfl

theorem outer_flags : allFlags (outer f d R old va vb rm cm) =
    crossFlags R (fun i j => rm i && cm j) (outerFlags f d old va vb) := by
  rw [← orAll_cross, outer_eq]
  unfold allFlags orAll
  rw [List.map_map]
  rfl

end

end Sys2Proof.Machine
end

section
/-! Outer products of vector registers (R222, R223, R228). -/

namespace Sys2Proof.Machine

/-! ### `mop` -/

/-- A context after an outer product: a tile's rows replaced, flags raised, the PC moved on. -/
def Hart.withProduct (h : Hart) (t : Nat) (l : List Nat) (fl : Nat) : Hart :=
  { h with tiles := (h.setTile t ((h.tile t).withRows l)).tiles, flags := h.flags ||| BitVec.ofNat 64 fl, pc := h.pc + 4 }

theorem Hart.withProduct_frame (h : Hart) (t : Nat) (l : List Nat) (fl : Nat) : h.withProduct t l fl =
    { h with tiles := (h.withProduct t l fl).tiles, flags := (h.withProduct t l fl).flags, pc := h.pc + 4 } := rfl

theorem Hart.withProduct_other (h : Hart) {t u : Nat} (l : List Nat) (fl : Nat) (lt : t < 8) (lu : u < 8) (other : u ≠ t) :
    (h.withProduct t l fl).tile u = h.tile u :=
  Hart.tile_setTile_other h t u _ (by omega)

theorem Hart.withProduct_same (h : Hart) (t : Nat) (l : List Nat) (fl : Nat) :
    (h.withProduct t l fl).tile t = (h.tile t).withRows l := Hart.tile_setTile_same h t _

section
variable {s : State} {a b : Reg} {n : Nat}

/-- Operands that R222 lets an outer product of depth `n` take from registers. -/
structure Hart.MopOperands (h : Hart) (a b : Reg) (n : Nat) : Prop where
  plain : h.Plain
  rows : h.trows ≠ 0
  okA : h.opOk a h.vl = true
  usableA : h.usable a.toNat (h.grp a)
  usableB : h.usable b.toNat (h.grp b)
  whole : h.vl % n = 0
  fits : h.vl / n ≤ h.trows
  baseB : h.baseOk b.toNat (h.grp b) = true
  fitsB : h.fits b.toNat (h.grp b) (h.ty b).w (64 * n) = true

theorem Hart.MopOperands.limits (ops : s.hart.MopOperands a b n) : s.hart.mopLimits n = true := by
  rw [Hart.mopLimits, ops.whole, decide_eq_true ops.fits]
  rfl

theorem Hart.MopOperands.usable (ops : s.hart.MopOperands a b n) (nA nB : Nat) :
    ∀ x ∈ [({ reg := a.toNat, grp := s.hart.grp a, trap := false, need := nA } : Src),
      { reg := b.toNat, grp := s.hart.grp b, trap := false, need := nB }], 0 < x.grp ∧ s.hart.usable x.reg x.grp := by
  intro x m
  rcases List.mem_cons.1 m with rfl | m
  · exact ⟨cfgGrp_pos _, ops.usableA⟩
  · obtain rfl := List.mem_singleton.1 m
    exact ⟨cfgGrp_pos _, ops.usableB⟩

/-- The operands' values (R222). -/
def Hart.mopValues (h : Hart) (r : Reg) (x : Nat) (e : Nat) : FVal :=
  h.mopValue (h.ty r) x e (h.elem r.toNat (h.grp r) (h.ty r).w e)

theorem execMop_runs (t : BitVec 3) (r c : BitVec 3) (depth : mopDepth (s.hart.ty a) (s.hart.ty b) = some n)
    (ops : s.hart.MopOperands a b n) (enabled : (s.hart.tile t.toNat).enabled = true) :
    let out := outer (fmtOf 15) n (s.hart.vl / n) (s.hart.tile t.toNat).at (s.hart.mopValues a 6) (s.hart.mopValues b 7)
      (s.hart.sel r) (s.hart.sel c)
    execMop t a b r c s = .next (s.setHart (s.hart.withProduct t.toNat (out.map fun p => p.1) (allFlags out))) := by
  intro out
  unfold execMop
  dsimp only
  rw [depth]
  refine vector_done s _ _ _ ops.plain ?_ ?_ rfl (ops.usable _ _) (fun d m => nomatch m) ?_ rfl rfl rfl rfl rfl
  · dsimp only
    rw [ops.limits, ops.okA, ops.baseB, ops.fitsB, beq_eq_false_iff_ne.2 ops.rows]
    rfl
  · refine Hart.disabledTile_none fun u m => ?_
    obtain rfl := List.mem_singleton.1 m
    exact enabled
  · rw [elems_plain s.hart ops.plain a, elems_plain s.hart ops.plain b]
    rfl

end

/-! ### `mopx` -/

/-- A context after an outer product in a pair of tiles. -/
def Hart.withPair (h : Hart) (t : Nat) (hi lo : List Nat) (fl : Nat) : Hart :=
  { h with tiles := ((h.setTile t ((h.tile t).withRows hi)).setTile (t + 1) ((h.tile (t + 1)).withRows lo)).tiles
           flags := h.flags ||| BitVec.ofNat 64 fl, pc := h.pc + 4 }

theorem Hart.withPair_eq (h : Hart) (t : Nat) (hi lo : List Nat) (fl : Nat) :
    (((h.setTile t ((h.tile t).withRows hi)).setTile (t + 1) ((h.tile (t + 1)).withRows lo)).raise fl).advance 4 =
      h.withPair t hi lo fl := by
  unfold Hart.withPair Hart.raise Hart.advance Hart.setTile
  rfl

theorem Hart.withPair_frame (h : Hart) (t : Nat) (hi lo : List Nat) (fl : Nat) : h.withPair t hi lo fl =
    { h with tiles := (h.withPair t hi lo fl).tiles, flags := (h.withPair t hi lo fl).flags, pc := h.pc + 4 } := rfl

theorem Hart.withPair_high (h : Hart) (t : Nat) (hi lo : List Nat) (fl : Nat) :
    (h.withPair t hi lo fl).tile t = (h.tile t).withRows hi :=
  (Hart.tile_setTile_other _ (t + 1) t _ (by omega)).trans (Hart.tile_setTile_same h t _)

theorem Hart.withPair_low (h : Hart) (t : Nat) (hi lo : List Nat) (fl : Nat) :
    (h.withPair t hi lo fl).tile (t + 1) = (h.tile (t + 1)).withRows lo := Hart.tile_setTile_same _ (t + 1) _

theorem Hart.withPair_other (h : Hart) {t u : Nat} (hi lo : List Nat) (fl : Nat) (lt : t + 1 < 8) (lu : u < 8) (high : u ≠ t)
    (low : u ≠ t + 1) : (h.withPair t hi lo fl).tile u = h.tile u :=
  (Hart.tile_setTile_other _ (t + 1) u _ (by omega)).trans (Hart.tile_setTile_other h t u _ (by omega))

/-- The operands of `mopx` (R228): the value rounded to 8 × SLC bits, and whether that changed it. -/
def Hart.mopxValue (h : Hart) (n : Nat) (r : Reg) (e : Nat) : FVal × Bool :=
  sigRound (8 * n) ((h.ty r).value (h.elem r.toNat (h.grp r) (h.ty r).w e))

/-- Whether some element that the masks select has an operand changed by rounding, as `mopx` finds it. -/
def lostAny (rows : Nat) (rm cm ra rb : Nat → Bool) : Bool :=
  (!((List.range 64).filter cm).isEmpty && ((List.range rows).filter rm).any ra) ||
    (!((List.range rows).filter rm).isEmpty && ((List.range 64).filter cm).any rb)

theorem lostAny_iff (rows : Nat) (rm cm ra rb : Nat → Bool) : lostAny rows rm cm ra rb = true ↔
    ∃ i < rows, ∃ j < 64, (rm i && cm j) = true ∧ (ra i || rb j) = true := by
  have some (l : List Nat) : (!l.isEmpty) = true ↔ ∃ x, x ∈ l := by
    rw [Bool.not_eq_true', List.isEmpty_eq_false_iff_exists_mem]
  unfold lostAny
  rw [Bool.or_eq_true, Bool.and_eq_true, Bool.and_eq_true, some, some]
  simp only [List.any_eq_true, List.mem_filter, List.mem_range, Bool.and_eq_true, Bool.or_eq_true]
  constructor
  · rintro (⟨⟨j, hj, cj⟩, i, ⟨hi, ri⟩, lost⟩ | ⟨⟨i, hi, ri⟩, j, ⟨hj, cj⟩, lost⟩)
    · exact ⟨i, hi, j, hj, ⟨ri, cj⟩, .inl lost⟩
    · exact ⟨i, hi, j, hj, ⟨ri, cj⟩, .inr lost⟩
  · rintro ⟨i, hi, j, hj, ⟨ri, cj⟩, lost | lost⟩
    · exact .inl ⟨⟨j, hj, cj⟩, i, ⟨hi, ri⟩, lost⟩
    · exact .inr ⟨⟨i, hi, ri⟩, j, ⟨hj, cj⟩, lost⟩

theorem execMopx_runs {s : State} {a b : Reg} (tp : BitVec 2) (r c : BitVec 3) (ops : s.hart.MopOperands a b 1)
    (fpA : (s.hart.ty a).tag = 16) (fpB : (s.hart.ty b).tag = 16)
    (slices : cfgSlc (s.hart.v a.toNat).cfg = cfgSlc (s.hart.v b.toNat).cfg) (three : 3 ≤ cfgSlc (s.hart.v a.toNat).cfg)
    (okB : s.hart.opOk b s.hart.vl = true)
    (high : (s.hart.tile (2 * tp.toNat)).enabled = true) (low : (s.hart.tile (2 * tp.toNat + 1)).enabled = true) :
    let xa := s.hart.mopxValue (cfgSlc (s.hart.v a.toNat).cfg) a
    let xb := s.hart.mopxValue (cfgSlc (s.hart.v a.toNat).cfg) b
    let out := outer (fmtOf 16) 1 s.hart.vl
      (fun i j => (s.hart.tile (2 * tp.toNat)).at i j * 2 ^ 32 + (s.hart.tile (2 * tp.toNat + 1)).at i j)
      (fun e => (xa e).1) (fun e => (xb e).1) (s.hart.sel r) (s.hart.sel c)
    execMopx tp a b r c s = .next (s.setHart (s.hart.withPair (2 * tp.toNat) (out.map fun p => p.1 / 2 ^ 32)
      (out.map fun p => p.1 % 2 ^ 32) (allFlags out ||| flagIf (lostAny s.hart.vl (s.hart.sel r) (s.hart.sel c)
        (fun i => (xa i).2) (fun j => (xb j).2)) fINEXACT))) := by
  intro xa xb out
  unfold execMopx
  refine vector_done s _ _ _ ops.plain ?_ ?_ ?_ (ops.usable _ _) (fun d m => nomatch m) ?_ (by rw [Hart.withPair_frame])
    (by rw [Hart.withPair_frame]) (by rw [Hart.withPair_frame]) (by rw [Hart.withPair_frame]) (by rw [Hart.withPair_frame])
  · dsimp only
    have fits := ops.fitsB
    rw [Nat.mul_one] at fits
    rw [ops.limits, ops.okA, okB, fits, beq_eq_false_iff_ne.2 ops.rows]
    rfl
  · refine Hart.disabledTile_none fun u m => ?_
    rcases List.mem_cons.1 m with rfl | m
    · exact high
    · obtain rfl := List.mem_singleton.1 m
      exact low
  · dsimp only
    rw [fpA, fpB, ← slices, decide_eq_true three, beq_self_eq_true, beq_self_eq_true]
    rfl
  · dsimp only
    rw [elems_plain s.hart ops.plain a, elems_plain s.hart ops.plain b]
    exact congrArg (fun h => Host.Outcome.next (s.setHart h)) (Hart.withPair_eq s.hart _ _ _ _)

end Sys2Proof.Machine
end

section
/-! Outer products of scratchpad views (R223 to R226), and the obligation O40. -/

namespace Sys2Proof.Machine

/-! ### Elements that views supply -/

section
variable {s : State} {k : Nat} {t : Ty} {p : StreamRec}

theorem viewRun_ok {v : Nat → Nat × Nat} {m j : Nat} (ok : ∀ e < m, s.viewElem k t p (j + e) = .ok (v e)) :
    s.viewRun k t p m j = ((List.range m).map v, none) := by
  induction m generalizing j v with
  | zero => rfl
  | succ m ih =>
    have rest := ih (v := fun e => v (e + 1)) (j := j + 1) fun e lt => by
      rw [Nat.add_assoc, Nat.add_comm 1 e]
      exact ok (e + 1) (Nat.succ_lt_succ lt)
    have head : s.viewElem k t p j = .ok (v 0) := ok 0 (Nat.succ_pos m)
    rw [State.viewRun, head]
    dsimp only
    rw [rest, List.range_succ_eq_map, List.map_cons, List.map_map]
    rfl

/-- The first fault of a run is at the first element that cannot be read. -/
theorem viewRun_fault {m j q : Nat} {f : Flt} (lt : q < m) (before : ∀ e < q, ∃ v, s.viewElem k t p (j + e) = .ok v)
    (here : s.viewElem k t p (j + q) = .error f) : (s.viewRun k t p m j).2 = some (j + q, f) := by
  induction m generalizing j q with
  | zero => cases lt
  | succ m ih =>
    rw [State.viewRun]
    cases q with
    | zero =>
      rw [Nat.add_zero] at here
      rw [here]
      rfl
    | succ q =>
      obtain ⟨v, head⟩ := before 0 (Nat.succ_pos q)
      rw [Nat.add_zero] at head
      have step (e : Nat) : j + (e + 1) = j + 1 + e := by omega
      rw [head, step q]
      rw [step q] at here
      exact ih (Nat.lt_of_succ_lt_succ lt) (fun e le => step e ▸ before (e + 1) (Nat.succ_lt_succ le)) here

/-- A run whose first elements can be read has no fault among them. -/
theorem viewRun_late {m j q : Nat} (before : ∀ e < q, e < m → ∃ v, s.viewElem k t p (j + e) = .ok v) {x : Nat} {f : Flt}
    (fault : (s.viewRun k t p m j).2 = some (x, f)) : j + q ≤ x := by
  induction m generalizing j q with
  | zero => cases fault
  | succ m ih =>
    rw [State.viewRun] at fault
    cases q with
    | zero =>
      cases elem : s.viewElem k t p j with
      | error g =>
        rw [elem] at fault
        cases fault
        exact Nat.le_refl _
      | ok v =>
        rw [elem] at fault
        have := ih (q := 0) (fun e none => absurd none (Nat.not_lt_zero e)) fault
        omega
    | succ q =>
      obtain ⟨v, head⟩ := before 0 (Nat.succ_pos q) (Nat.succ_pos m)
      rw [Nat.add_zero] at head
      rw [head] at fault
      have step (e : Nat) : j + (e + 1) = j + 1 + e := by omega
      have := ih (q := q) (fun e le lt => step e ▸ before (e + 1) (Nat.succ_lt_succ le) (Nat.succ_lt_succ lt)) fault
      omega

end

/-- Of two operands' faults, counted each from its own start, the one of the lowest index is taken, A's before B's (R163, log
entry 94). -/
theorem firstFault_lowest {runA runB : Option (Nat × Flt)} {fromA fromB q : Nat} {f : Flt}
    (lateA : ∀ x g, runA = some (x, g) → fromA + q ≤ x) (lateB : ∀ x g, runB = some (x, g) → fromB + q ≤ x)
    (here : runA = some (fromA + q, f) ∨ (∀ g, runA ≠ some (fromA + q, g)) ∧ runB = some (fromB + q, f)) :
    firstFault (runA.map fun x => (x.1 - fromA, x.2)) (runB.map fun x => (x.1 - fromB, x.2)) = some (q, f) := by
  rcases here with rfl | ⟨notHere, rfl⟩
  · cases runB with
    | none => simp [firstFault]
    | some y =>
      have := lateB y.1 y.2 rfl
      simp only [firstFault, Option.map_some]
      rw [if_neg (by omega), Nat.add_sub_cancel_left]
  · cases runA with
    | none => simp [firstFault]
    | some x =>
      have low := lateA x.1 x.2 rfl
      have other : x.1 ≠ fromA + q := fun eq => notHere x.2 (by rw [← eq])
      simp only [firstFault, Option.map_some]
      rw [if_pos (by omega), Nat.add_sub_cancel_left]

/-! ### The tiles that a view reads -/

/-- Every tile that the elements from `from_` on read through the window is enabled (R225). -/
theorem windowTiles_enabled {h : Hart} {p : StreamRec} {from_ m : Nat} (ready : p.space = 1 → ∀ e < m, from_ + e < p.total →
      let x := (p.addr (from_ + e)).toNat - 0x400000
      0x400000 ≤ (p.addr (from_ + e)).toNat → x < 0x20000 → x % 0x4000 / 256 < h.trows → (h.tile (x / 0x4000)).enabled = true) :
    ∀ u ∈ h.windowTiles p from_ m, (h.tile u).enabled = true := by
  intro u named
  rw [Hart.windowTiles, List.mem_eraseDups, List.mem_filterMap] at named
  obtain ⟨e, lt, is⟩ := named
  rw [List.mem_range] at lt
  split at is
  · cases is
  · rename_i within
    dsimp only at is
    split at is
    · rename_i inside
      rw [inWindow, windowBase, Bool.and_eq_true, Bool.and_eq_true, Bool.and_eq_true, beq_iff_eq, decide_eq_true_iff,
        decide_eq_true_iff, decide_eq_true_iff] at inside
      obtain ⟨⟨⟨space, above⟩, below⟩, row⟩ := inside
      cases is
      exact ready space e lt (Nat.lt_of_not_le within) above (by omega) row
    · cases is

/-! ### Generators that move on -/

/-- A generator after supplying `k` elements (R178). -/
def Gen.supplied (g : Gen) (k : Nat) : Gen := { g with pos := g.pos + k, ahead := g.ahead - k }

def Hart.supplied (h : Hart) (i k : Nat) : Hart := h.setGen i ((h.gen i).supplied k)

theorem Gen.supplied_supplied (g : Gen) (k m : Nat) : (g.supplied k).supplied m = g.supplied (k + m) := by
  unfold Gen.supplied
  rw [Nat.add_assoc, Nat.sub_sub]

theorem Hart.supplied_same (h : Hart) (i k : Nat) : (h.supplied i k).gen i = (h.gen i).supplied k :=
  Hart.gen_setGen_same h i _

theorem Hart.supplied_other (h : Hart) {i j : Nat} (k : Nat) (li : i < 8) (lj : j < 8) (other : j ≠ i) :
    (h.supplied i k).gen j = h.gen j := Hart.gen_setGen_other h i j _ (by omega)

/-! ### `mop.s` -/

/-- The index at which B's elements start: after A's where one generator serves both (R224). -/
def Hart.viewFrom (h : Hart) (a b : Reg) : Nat :=
  if a.toNat = b.toNat then (h.gen (a.toNat - 2)).pos + h.vl else (h.gen (b.toNat - 2)).pos

theorem Hart.viewFrom_eq (h : Hart) (a b : Reg) :
    h.viewFrom a b = if a = b then (h.gen (a.toNat - 2)).pos + h.vl else (h.gen (b.toNat - 2)).pos := by
  simp only [Hart.viewFrom, BitVec.toNat_inj]

/-- What `mop.s` does once its operands are there: at VL = 0 the streams move on, else the lowest fault of an element is taken
or the product goes to the tile. -/
def State.productOfViews (s : State) (t : BitVec 3) (a b : Reg) (r c : BitVec 3) (d : Nat) : Res :=
  let h := s.hart
  let iA := a.toNat - 2
  let iB := b.toNat - 2
  let fromB := h.viewFrom a b
  if h.vl = 0 then s.done (h.supplied iB (64 * d))
  else
    let runA := s.viewRun a.toNat (h.ty a) (h.gen iA).pat h.vl (h.gen iA).pos
    let runB := s.viewRun b.toNat (h.ty b) (h.gen iB).pat (64 * d) fromB
    match firstFault (runA.2.map fun x => (x.1 - (h.gen iA).pos, x.2)) (runB.2.map fun x => (x.1 - fromB, x.2)) with
    | some (e, f) => s.wholeFault e f
    | none =>
      let out := outer (fmtOf 15) d (h.vl / d) (h.tile t.toNat).at (fun e => h.mopValue (h.ty a) 6 e (runA.1.getD e (0, 0)).1)
        (fun e => h.mopValue (h.ty b) 7 e (runB.1.getD e (0, 0)).1) (h.sel r) (h.sel c)
      .next (s.setHart (((h.supplied iA h.vl).supplied iB (64 * d)).withProduct t.toNat (out.map fun p => p.1)
        (allFlags out ||| allFlags runA.1 ||| allFlags runB.1)))

/-- What R222 and R224 to R226 ask of `mop.s`, its elements read ahead. -/
structure Hart.MopViews (h : Hart) (t : BitVec 3) (a b : Reg) (n : Nat) : Prop where
  lowA : 2 ≤ a.toNat
  highA : a.toNat ≤ 9
  lowB : 2 ≤ b.toNat
  highB : b.toNat ≤ 9
  viewA : (h.gen (a.toNat - 2)).viewOk = true
  viewB : (h.gen (b.toNat - 2)).viewOk = true
  depth : mopDepth (h.ty a) (h.ty b) = some n
  whole : h.vl % n = 0
  fits : h.vl / n ≤ h.trows
  rows : h.trows ≠ 0
  enabled : ∀ u ∈ t.toNat :: (h.windowTiles (h.gen (a.toNat - 2)).pat (h.gen (a.toNat - 2)).pos h.vl ++
    h.windowTiles (h.gen (b.toNat - 2)).pat (h.viewFrom a b) (64 * n)), (h.tile u).enabled = true
  aheadA : min (if a.toNat = b.toNat then h.vl + 64 * n else h.vl)
    ((h.gen (a.toNat - 2)).pat.total - (h.gen (a.toNat - 2)).pos) ≤ (h.gen (a.toNat - 2)).ahead
  aheadB : a.toNat ≠ b.toNat →
    min (64 * n) ((h.gen (b.toNat - 2)).pat.total - (h.gen (b.toNat - 2)).pos) ≤ (h.gen (b.toNat - 2)).ahead

theorem execMopS_runs {s : State} {t : BitVec 3} {a b : Reg} {n : Nat} (r c : BitVec 3) (ops : s.hart.MopViews t a b n) :
    execMopS t a b r c s = s.productOfViews t a b r c n := by
  have limits : s.hart.mopLimits n = true := by
    rw [Hart.mopLimits, ops.whole, decide_eq_true ops.fits]
    rfl
  have legal : (!(decide (2 ≤ a.toNat) && decide (a.toNat ≤ 9)) || !(decide (2 ≤ b.toNat) && decide (b.toNat ≤ 9)) ||
      !(s.hart.gen (a.toNat - 2)).viewOk || !(s.hart.gen (b.toNat - 2)).viewOk || s.hart.trows == 0 ||
      !s.hart.mopLimits n) = false := by
    rw [decide_eq_true ops.lowA, decide_eq_true ops.highA, decide_eq_true ops.lowB, decide_eq_true ops.highB, ops.viewA, ops.viewB,
      beq_eq_false_iff_ne.2 ops.rows, limits]
    rfl
  unfold execMopS
  dsimp only
  rw [ops.depth]
  dsimp only [Option.getD_some, Option.isNone_some]
  have enabled := Hart.disabledTile_none ops.enabled
  unfold Hart.viewFrom at enabled
  rw [legal, enabled, if_neg Bool.false_ne_true]
  dsimp only
  rw [if_neg Bool.false_ne_true, if_neg (Nat.not_lt.2 ops.aheadA), if_neg fun both => Nat.not_lt.2 (ops.aheadB both.1) both.2]
  rfl

theorem productOfViews_idle {s : State} (t : BitVec 3) (a b : Reg) (r c : BitVec 3) (n : Nat) (idle : s.hart.vl = 0) :
    s.productOfViews t a b r c n = .next (s.setHart ((s.hart.supplied (b.toNat - 2) (64 * n)).advance 4)) := by
  unfold State.productOfViews
  exact if_pos idle

theorem dotInto_congr {a a' b b' : Nat → FVal} {n k : Nat} (same : ∀ m, k ≤ m → m < k + n → a m = a' m ∧ b m = b' m) (x : FVal) :
    dotInto a b n k x = dotInto a' b' n k x := by
  induction n generalizing k x with
  | zero => rfl
  | succ n ih =>
    obtain ⟨sameA, sameB⟩ := same k (Nat.le_refl k) (by omega)
    rw [dotInto, dotInto, sameA, sameB]
    dsimp only
    rw [ih fun m le lt => same m (by omega) (by omega)]

/-- An outer product depends on the elements of its rows and columns only. -/
theorem outer_congr (f : FFmt) {d R : Nat} (old : Nat → Nat → Nat) {va va' vb vb' : Nat → FVal} (rm cm : Nat → Bool)
    (sameA : ∀ e < R * d, va e = va' e) (sameB : ∀ e < 64 * d, vb e = vb' e) :
    outer f d R old va vb rm cm = outer f d R old va' vb' rm cm := by
  unfold outer
  refine List.map_congr_left fun x m => ?_
  have row : x / 64 < R := by have := List.mem_range.1 m; omega
  have index {i k lim : Nat} (low : i < lim) (lt : k < d) : i * d + k < lim * d :=
    (Nat.add_lt_add_left lt _).trans_le ((Nat.succ_mul i d).symm.trans_le (Nat.mul_le_mul_right d low))
  have sums : dotInto (fun k => va (x / 64 * d + k)) (fun k => vb (x % 64 * d + k)) d 0 (f.decode (old (x / 64) (x % 64))) =
      dotInto (fun k => va' (x / 64 * d + k)) (fun k => vb' (x % 64 * d + k)) d 0 (f.decode (old (x / 64) (x % 64))) :=
    dotInto_congr (fun m _ lt => ⟨sameA _ (index row (by omega)), sameB _ (index (Nat.mod_lt _ (by decide)) (by omega))⟩) _
  dsimp only
  rw [sums]

theorem allFlags_map (l : List Nat) (v : Nat → Nat × Nat) : allFlags (l.map v) = orAll (l.map fun e => (v e).2) := by
  unfold allFlags orAll
  rw [List.map_map]
  rfl

section
variable {s : State} {t : BitVec 3} {a b : Reg} {r c : BitVec 3} {n fromB : Nat} (start : fromB = s.hart.viewFrom a b)
include start

/-- Where every element can be read, `mop.s` gives the product of what the views hold. -/
theorem productOfViews_next (busy : s.hart.vl ≠ 0) {va vb : Nat → Nat × Nat}
    (okA : ∀ e < s.hart.vl, s.viewElem a.toNat (s.hart.ty a) (s.hart.gen (a.toNat - 2)).pat
      ((s.hart.gen (a.toNat - 2)).pos + e) = .ok (va e))
    (okB : ∀ e < 64 * n, s.viewElem b.toNat (s.hart.ty b) (s.hart.gen (b.toNat - 2)).pat (fromB + e) = .ok (vb e)) :
    let out := outer (fmtOf 15) n (s.hart.vl / n) (s.hart.tile t.toNat).at (fun e => s.hart.mopValue (s.hart.ty a) 6 e (va e).1)
      (fun e => s.hart.mopValue (s.hart.ty b) 7 e (vb e).1) (s.hart.sel r) (s.hart.sel c)
    s.productOfViews t a b r c n = .next (s.setHart
      (((s.hart.supplied (a.toNat - 2) s.hart.vl).supplied (b.toNat - 2) (64 * n)).withProduct t.toNat (out.map fun p => p.1)
        (allFlags out ||| orAll ((List.range s.hart.vl).map fun e => (va e).2) |||
          orAll ((List.range (64 * n)).map fun e => (vb e).2)))) := by
  intro out
  subst start
  have listed (v : Nat → Nat × Nat) {m e : Nat} (lt : e < m) : ((List.range m).map v).getD e (0, 0) = v e := by
    rw [List.getD_eq_getElem _ _ (by rw [List.length_map, List.length_range]; exact lt), List.getElem_map, List.getElem_range]
  unfold State.productOfViews
  dsimp only
  rw [if_neg busy, viewRun_ok okA, viewRun_ok okB]
  dsimp only [Option.map_none, firstFault]
  rw [allFlags_map, allFlags_map, outer_congr (va' := fun e => s.hart.mopValue (s.hart.ty a) 6 e (va e).1)
    (vb' := fun e => s.hart.mopValue (s.hart.ty b) 7 e (vb e).1) (fmtOf 15) _ _ _
    (fun e lt => by rw [listed va (lt.trans_le (Nat.div_mul_le_self _ _))]) (fun e lt => by rw [listed vb lt])]

/-- Where one cannot, the fault of the lowest index is taken, A's before B's, with nothing done. -/
theorem productOfViews_fault (busy : s.hart.vl ≠ 0) {q : Nat} {f : Flt}
    (before : ∀ e < q, (e < s.hart.vl → ∃ v, s.viewElem a.toNat (s.hart.ty a) (s.hart.gen (a.toNat - 2)).pat
        ((s.hart.gen (a.toNat - 2)).pos + e) = .ok v) ∧
      (e < 64 * n → ∃ v, s.viewElem b.toNat (s.hart.ty b) (s.hart.gen (b.toNat - 2)).pat (fromB + e) = .ok v))
    (here : q < s.hart.vl ∧ s.viewElem a.toNat (s.hart.ty a) (s.hart.gen (a.toNat - 2)).pat
        ((s.hart.gen (a.toNat - 2)).pos + q) = .error f ∨
      (q < s.hart.vl → ∃ v, s.viewElem a.toNat (s.hart.ty a) (s.hart.gen (a.toNat - 2)).pat
        ((s.hart.gen (a.toNat - 2)).pos + q) = .ok v) ∧
      q < 64 * n ∧ s.viewElem b.toNat (s.hart.ty b) (s.hart.gen (b.toNat - 2)).pat (fromB + q) = .error f) :
    s.productOfViews t a b r c n = s.wholeFault q f := by
  subst start
  have lowest := firstFault_lowest (q := q) (f := f)
    (fun x g run => viewRun_late (fun e le lt => (before e le).1 lt) run)
    (fun x g run => viewRun_late (fun e le lt => (before e le).2 lt) run) (here.imp
      (fun inA => viewRun_fault inA.1 (fun e le => (before e le).1 (le.trans inA.1)) inA.2)
      fun inB => ⟨fun g run => ?_, viewRun_fault inB.2.1 (fun e le => (before e le).2 (le.trans inB.2.1)) inB.2.2⟩)
  · unfold State.productOfViews
    dsimp only
    rw [if_neg busy, lowest]
  · have late := viewRun_late (q := q + 1) (fun e le lt => by
      rcases Nat.lt_succ_iff_lt_or_eq.1 le with low | rfl
      · exact (before e low).1 lt
      · exact inB.1 lt) run
    omega

end

/-- The fault of an element of an instruction that restart runs again whole, outside a lane's turn. -/
theorem State.wholeFault_own {s : State} (k : Nat) (f : Flt) (lane : s.hart.lane = none) (unwalked : s.hart.walked = []) :
    s.wholeFault k f = .next (s.faults { s.hart.elemTrap 0 [] k f with ctr := ctrWhole }) := by
  unfold State.wholeFault State.raiseElem State.faults
  rw [settle_nil s 0 unwalked]
  dsimp only
  by_cases undeclared : f.cause = cUndecl
  · rw [if_pos ⟨undeclared, lane⟩, if_pos (show (s.hart.elemTrap 0 [] k f).cause = cUndecl from undeclared)]
    rfl
  · rw [if_neg fun both => undeclared both.1, if_neg (show ¬(s.hart.elemTrap 0 [] k f).cause = cUndecl from undeclared)]
    rfl

end Sys2Proof.Machine
end

section
/-! The results of the outer products (R222 to R228), and the obligation O40. -/

namespace Sys2Proof.Machine

/-! ### What is written -/

section
variable (h : Hart) (t R d : Nat) (va vb : Nat → FVal) (rm cm : Nat → Bool) (fl : Nat)

/-- The rows of the tile after a product. -/
theorem Hart.withProduct_rows : TileRows (h.tile t)
    ((h.withProduct t ((outer (fmtOf 15) d R (h.tile t).at va vb rm cm).map fun p => p.1) fl).tile t) R
    fun i j => if rm i && cm j then (outerFit (fmtOf 15) d (h.tile t).at va vb i j).1 else (h.tile t).at i j := by
  rw [Hart.withProduct_same, outer_values]
  exact (h.tile t).withRows_rows R fun i j => if rm i && cm j then (outerFit (fmtOf 15) d (h.tile t).at va vb i j).1 else (h.tile t).at i j

end

/-- Depth 1 sums one product. -/
theorem outerSum_one (f : FFmt) (old : Nat → Nat → Nat) (va vb : Nat → FVal) (i j : Nat) : outerSum f 1 old va vb i j =
    dotInto (fun k => va (i + k)) (fun k => vb (j + k)) 1 0 (f.decode (old i j)) := by
  rw [outerSum, Nat.mul_one, Nat.mul_one]

/-- An element of a pair of tiles after a product. -/
def pairElement (old : Nat → Nat → Nat) (va vb : Nat → FVal) (rm cm : Nat → Bool) (i j : Nat) : Nat :=
  if rm i && cm j then ((fmtOf 16).fit RNE 0
    (dotInto (fun k => va (i + k)) (fun k => vb (j + k)) 1 0 ((fmtOf 16).decode (old i j))).1).1 else old i j

theorem outer_pair (R : Nat) (old : Nat → Nat → Nat) (va vb : Nat → FVal) (rm cm : Nat → Bool) (g : Nat → Nat) :
    (outer (fmtOf 16) 1 R old va vb rm cm).map (fun p => g p.1) =
      (List.range (64 * R)).map fun x => g (pairElement old va vb rm cm (x / 64) (x % 64)) := by
  rw [outer_eq, List.map_map]
  refine List.map_congr_left fun x _ => ?_
  dsimp only [Function.comp_def]
  rw [outerFit, outerSum_one]
  rfl

/-- The flags of a product in a pair of tiles, INEXACT for what rounding its operands changed among them (R228). -/
theorem pair_flags (R : Nat) (old : Nat → Nat → Nat) (xa xb : Nat → FVal × Bool) (rm cm : Nat → Bool) :
    allFlags (outer (fmtOf 16) 1 R old (fun e => (xa e).1) (fun e => (xb e).1) rm cm) |||
        flagIf (lostAny R rm cm (fun i => (xa i).2) fun j => (xb j).2) fINEXACT =
      crossFlags R (fun i j => rm i && cm j) fun i j =>
        outerFlags (fmtOf 16) 1 old (fun e => (xa e).1) (fun e => (xb e).1) i j ||| if (xa i).2 || (xb j).2 then fINEXACT else 0 := by
  rw [crossFlags_or, outer_flags, crossFlags_flag R _ (fun i j => (xa i).2 || (xb j).2) fINEXACT (lostAny_iff R rm cm _ _)]

/-! ### Generators after `mop.s` -/

theorem supplied_product_frame (h : Hart) (i k j m t : Nat) (l : List Nat) (fl : Nat) :
    ((h.supplied i k).supplied j m).withProduct t l fl = { h with
      tiles := (((h.supplied i k).supplied j m).withProduct t l fl).tiles
      flags := (((h.supplied i k).supplied j m).withProduct t l fl).flags
      gens := (((h.supplied i k).supplied j m).withProduct t l fl).gens, pc := h.pc + 4 } := by
  unfold Hart.withProduct Hart.supplied Hart.setGen
  rfl

section
variable {h : Hart} {a b : Reg} {k m : Nat} (highA : a.toNat ≤ 9) (highB : b.toNat ≤ 9)
include highA highB

theorem supplied_both_other {j : Nat} (lj : j < 8) (notA : j ≠ a.toNat - 2) (notB : j ≠ b.toNat - 2) :
    ((h.supplied (a.toNat - 2) k).supplied (b.toNat - 2) m).gen j = h.gen j := by
  rw [Hart.supplied_other _ m (by omega) lj notB, Hart.supplied_other _ k (by omega) lj notA]

theorem supplied_both_first (lowA : 2 ≤ a.toNat) (lowB : 2 ≤ b.toNat) (differ : a ≠ b) :
    ((h.supplied (a.toNat - 2) k).supplied (b.toNat - 2) m).gen (a.toNat - 2) = (h.gen (a.toNat - 2)).supplied k := by
  have apart : a.toNat ≠ b.toNat := fun eq => differ (BitVec.eq_of_toNat_eq eq)
  rw [Hart.supplied_other _ m (by omega) (by omega) (by omega), Hart.supplied_same]

theorem supplied_both_second (lowA : 2 ≤ a.toNat) (lowB : 2 ≤ b.toNat) :
    ((h.supplied (a.toNat - 2) k).supplied (b.toNat - 2) m).gen (b.toNat - 2) = { h.gen (b.toNat - 2) with
      pos := (if a = b then (h.gen (a.toNat - 2)).pos + k else (h.gen (b.toNat - 2)).pos) + m
      ahead := (h.gen (b.toNat - 2)).ahead - if a = b then k + m else m } := by
  rw [Hart.supplied_same]
  by_cases same : a = b
  · subst same
    rw [Hart.supplied_same, Gen.supplied_supplied, if_pos rfl, if_pos rfl, Nat.add_assoc]
    rfl
  · have apart : a.toNat ≠ b.toNat := fun eq => same (BitVec.eq_of_toNat_eq eq)
    rw [Hart.supplied_other _ k (by omega) (by omega) (by omega), if_neg same, if_neg same]
    rfl

end

/-- Settles O40: the masked product goes to the rows of the tile, its flags gathered row by row; `mop.s` makes it of what its
views hold, or takes the lowest fault. -/
theorem outerProducts : Obligations.OuterProducts := by
  refine ⟨?_, ?_⟩
  · intro s t tp a b r c h ta tb ea eb chosen plain rows okA usableA usableB
    refine ⟨?_, ?_⟩
    · intro n depth whole fits baseB fitsB enabled _ out fit
      have ops : h.MopOperands a b n := ⟨plain, rows, okA, usableA, usableB, whole, fits, baseB, fitsB⟩
      refine ⟨_, execMop_runs t r c depth ops enabled, Hart.withProduct_frame _ _ _ _,
        fun u lu other => Hart.withProduct_other _ _ _ t.isLt lu other,
        Hart.withProduct_rows h t.toNat _ n _ _ _ _ _, ?_⟩
      exact congrArg (fun fl => h.flags ||| BitVec.ofNat 64 fl) (outer_flags _ _ _ _ _ _ _ _)
    · intro n hi lo fpA fpB slices three fits _ okB fitsB high low old sa sb sum fit new
      have base : h.baseOk b.toNat (h.grp b) = true := (Bool.and_eq_true_iff.1 okB).1
      have wide : (h.ty b).w = 64 := congrArg tagWidth fpB
      have ops : h.MopOperands a b 1 :=
        ⟨plain, rows, okA, usableA, usableB, Nat.mod_one _, by rw [Nat.div_one]; exact fits, base, by rw [wide]; exact fitsB⟩
      have pair : 2 * tp.toNat + 1 < 8 := by have := tp.isLt; omega
      refine ⟨_, execMopx_runs tp r c ops fpA fpB slices three okB high low, Hart.withPair_frame _ _ _ _ _,
        fun u lu notHigh notLow => Hart.withPair_other _ _ _ _ pair lu notHigh notLow, ?_, ?_, ?_⟩
      · rw [Hart.withPair_high, outer_pair _ _ _ _ _ _ fun x => x / 2 ^ 32]
        exact hi.withRows_rows h.vl fun i j => new i j / 2 ^ 32
      · rw [Hart.withPair_low, outer_pair _ _ _ _ _ _ fun x => x % 2 ^ 32]
        exact lo.withRows_rows h.vl fun i j => new i j % 2 ^ 32
      · refine congrArg (fun fl => h.flags ||| BitVec.ofNat 64 fl) ((pair_flags _ _ _ _ _ _).trans ?_)
        unfold outerFlags outerFit
        simp only [outerSum_one]
        rfl
  · intro s t a b r c n h ta tb ga gb fromB need elemA elemB chosen ready lowA highA lowB highB viewA viewB depth whole fits rows _
      enabled readyA readyB aheadA aheadB
    have start : fromB = h.viewFrom a b := (h.viewFrom_eq a b).symm
    have ops : h.MopViews t a b n := by
      refine ⟨lowA, highA, lowB, highB, viewA, viewB, depth, whole, fits, rows, fun u m => ?_, ?_, fun differ => ?_⟩
      · rcases List.mem_cons.1 m with rfl | m
        · exact enabled
        · rcases List.mem_append.1 m with m | m
          · exact windowTiles_enabled readyA u m
          · rw [← start] at m
            exact windowTiles_enabled readyB u m
      · simp only [BitVec.toNat_inj]
        exact aheadA
      · exact aheadB fun eq => differ (congrArg BitVec.toNat eq)
    have run : exec (.mopS t a b r c) s = s.productOfViews t a b r c n := execMopS_runs r c ops
    rw [run]
    refine ⟨fun idle => productOfViews_idle t a b r c n idle, ?_, ?_⟩
    · intro busy va vb okA okB out fit
      refine ⟨_, productOfViews_next start (Nat.ne_of_gt busy) okA okB, supplied_product_frame _ _ _ _ _ _ _ _,
        fun u lu other => Hart.withProduct_other _ _ _ t.isLt lu other,
        Hart.withProduct_rows ((h.supplied (a.toNat - 2) h.vl).supplied (b.toNat - 2) (64 * n)) t.toNat _ n _ _ _ _ _, ?_,
        supplied_both_first highA highB lowA lowB, supplied_both_second highA highB lowA lowB,
        fun j lj notA notB => supplied_both_other highA highB lj notA notB⟩
      refine congrArg (fun fl => h.flags ||| BitVec.ofNat 64 fl) ?_
      rw [outer_flags, Nat.or_assoc, Nat.or_comm]
      rfl
    · intro busy lane unwalked q f before here
      rw [productOfViews_fault start (Nat.ne_of_gt busy) before here]
      exact State.wholeFault_own q f lane unwalked

end Sys2Proof.Machine
end
